-- ==== Sys2Proof/Word.lean ====
section
/-! DEFINITION. The word and byte types of the model and the plainest facts about them: bytes, little-endian
numbers (R7), node addresses (R72) and the four-channel container of one tray build. -/

namespace Sys2Proof

/-- One byte. -/
abbrev Byte := BitVec 8

/-- A 32-bit word: Bivan sequence numbers, node addresses (R72), host port registers. -/
abbrev Word := BitVec 32

/-- A U64: frame numbers (FRAME), descriptors, addresses. -/
abbrev Word64 := BitVec 64

/-- The index of a channel within its tray, 0 to 3 (0x1000:03). -/
abbrev Ch := Fin 4

/-- The block instance a command acts on: the one leaf build of the model, or a channel of its one tray build. -/
inductive Node where
  | leaf
  | chan (c : Ch)
  deriving DecidableEq, Repr

/-- The two time domains (chapter 2). -/
inductive Dom where
  | a
  | b
  deriving DecidableEq, Repr

/-- Four like things, one per channel of the tray. -/
structure Quad (α : Type) where
  c0 : α
  c1 : α
  c2 : α
  c3 : α
  deriving DecidableEq, Repr

/-- The element of channel `c`. -/
def Quad.get {α : Type} (q : Quad α) (c : Ch) : α :=
  match c with
  | 0 => q.c0
  | 1 => q.c1
  | 2 => q.c2
  | 3 => q.c3

/-- Replace the element of channel `c`. -/
def Quad.set {α : Type} (q : Quad α) (c : Ch) (x : α) : Quad α :=
  match c with
  | 0 => { q with c0 := x }
  | 1 => { q with c1 := x }
  | 2 => { q with c2 := x }
  | 3 => { q with c3 := x }

/-- The same function on all four. -/
def Quad.map {α β : Type} (f : α → β) (q : Quad α) : Quad β :=
  { c0 := f q.c0, c1 := f q.c1, c2 := f q.c2, c3 := f q.c3 }

/-- The four elements in channel order. -/
def Quad.toList {α : Type} (q : Quad α) : List α := [q.c0, q.c1, q.c2, q.c3]

end Sys2Proof
end

