-- ==== Sys2Proof/Syntax.lean ====
section
/-! DEFINITION. The commands of the block: one constructor of `Instr` per row of spec/opcode_table.json, with the
operands that the surroundings, the clock or a requester supply. The spec gives no bit encoding of a row, so the
operands are the fields the rules name (assumption 1). -/

namespace Sys2Proof

/-- The units whose overrun Table 2.3 treats (R40). -/
inductive Unt where
  | sampler | touchstone | assay | journal | reduction | series | facet | balance | laggard | rule
  deriving DecidableEq, Repr

/-- The two signed images (R246, R265). -/
inductive Img where
  | balance
  | rule
  deriving DecidableEq, Repr

/-- The way a Bivan request reaches the block (R84, R85, R86); a fabric request carries the envelope's role. -/
inductive Way where
  | fabric (role : BitVec 2)
  | host
  | sideband
  deriving DecidableEq, Repr

/-- One Bivan item (Table 3.8): index, subindex, type code, declared length, status, target and data before padding. -/
structure Item where
  index : BitVec 16
  sub : Byte
  type : Byte
  length : BitVec 16
  status : Byte
  target : Byte
  data : List Byte
  deriving DecidableEq, Repr

/-- What R75 judges of the envelope that a management-class frame begins with (Table 3.6): its version, its kind, its
length field, and the payload bytes that the frame carries after it. The role, source and destination of an envelope
stand beside what the envelope brings. -/
structure EnvHead where
  version : BitVec 4
  kind : BitVec 4
  length : BitVec 16
  carried : Nat
  deriving DecidableEq, Repr

/-- A Bivan request as the endpoint has parsed it (Tables 3.6 to 3.9). `env` is the head of its envelope; for a mailbox or
sideband request, which has none, it states the message's length. `count` is the item_count field, `dst` the envelope's
destination, none for the block's own address (R84). `other` is an opcode that no row of the table has: a READ with one is a request
whose opcode is unknown (R77). -/
structure Req where
  way : Way
  src : Word
  seq : Word
  txn : Word
  count : BitVec 16
  items : List Item
  body : List Byte
  env : EnvHead
  dst : Option Word := none
  other : Option Byte := none
  deriving DecidableEq, Repr

/-- A Bivan response, sent or received (R77, Table 3.9). `dst` is the destination of the envelope of one that is received, none for
the block's own address (R84), and `env` the head of its envelope. -/
structure Resp where
  peer : Word
  opcode : Byte
  status : Byte
  seq : Word
  txn : Word
  items : List Item
  body : List Byte
  env : EnvHead := { version := 1, kind := 1, length := 0, carried := 0 }
  dst : Option Word := none
  deriving DecidableEq, Repr

/-- The fields of an IEEE 1588 message header that Table 2.6 judges; correction is the correctionField, signed, in
units of 2^-16 ns; source is the sourcePortIdentity; msgType is the messageType, `env` the head of the envelope. -/
structure PtpHdr where
  msgType : BitVec 4
  version : BitVec 4
  minor : BitVec 4
  domain : Byte
  sdo : BitVec 4
  length : BitVec 16
  source : BitVec 80
  seqId : BitVec 16
  correction : BitVec 64
  logInterval : Byte
  twoStep : Bool
  env : EnvHead := { version := 1, kind := 2, length := 0, carried := 0 }
  deriving DecidableEq, Repr

/-- The body of an Announce: the dataset that the comparison of Table 2.6 ranks. -/
structure Announce where
  gm : Word64
  priority1 : Byte
  clockClass : Byte
  accuracy : Byte
  variance : BitVec 16
  priority2 : Byte
  steps : BitVec 16
  ptpTimescale : Bool
  deriving DecidableEq, Repr

/-- Fragment header (Table 7.1), and the head of the envelope that brought it. -/
structure FragHdr where
  frame : Word64
  offset : BitVec 24
  total : BitVec 24
  typ : BitVec 4
  replay : Bool
  credits : Byte
  env : EnvHead := { version := 1, kind := 3, length := 0, carried := 0 }
  deriving DecidableEq, Repr

/-- One entry of a release answer (R202 step 3), 24 bytes. -/
structure RelEntry where
  node : Word
  base : Word64
  bits : Word64
  deriving DecidableEq, Repr

/-- What the surroundings give a block at the boundary that opens a frame: the die temperature code, the single-bit errors that were
corrected in the frame that closes (true in DRAM, false in SRAM, and the place), and the code that the bus converter shows. -/
structure Boundary where
  temp : BitVec 16
  fixed : List (Bool × BitVec 21)
  sample : Option (BitVec 12)
  deriving DecidableEq, Repr

/-- The sender of an attach fragment, and the port over which it came: an uplink port or an ingress port, false for port 0. -/
structure Joiner where
  src : Word
  port : Bool
  deriving DecidableEq, Repr

/-- What the restore phase found in flash: whether the key area and the stored objects can be read, and the records, counted from 0,
that fail their check. -/
structure FlashRead where
  readable : Bool
  bad : List Nat
  deriving DecidableEq, Repr

/-- The commands. -/
inductive Instr where
  /-- FRAME_OPEN (R36). Local time of the active domain reaches k periods after the epoch and frame k opens, closing the previous frame. -/
  | frameOpen (n : Node) (k : Word64) (given : Boundary)
  /-- UNIT_OVERRUN (R40). A unit's work for a frame is unfinished at its boundary and is dropped, carried or deferred as Table 2.3 gives. -/
  | unitOverrun (n : Node) (u : Unt) (f : Word64) (left : Nat)
  /-- ANNOUNCE_RECEIVE (R443). An Announce is received and the dataset comparison selects the master of the domain. -/
  | announceReceive (n : Node) (h : PtpHdr) (m : Announce)
  /-- ANNOUNCE_TIMEOUT (R46). No Announce arrives within the receipt timeout and the servo goes to holdover or free-run. -/
  | announceTimeout (n : Node) (d : Dom) (src : BitVec 80)
  /-- SYNC_RECEIVE (R444). A Sync is received and hardware stamped, and the servo computes offset and path delay. -/
  | syncReceive (n : Node) (h : PtpHdr) (t1 : BitVec 96) (t2 : BitVec 96)
  /-- FOLLOW_UP_RECEIVE (R444). A Follow_Up supplies the origin time of a two-step Sync. -/
  | followUpReceive (n : Node) (h : PtpHdr) (t1 : BitVec 96)
  /-- DELAY_RESP_RECEIVE (R60). A Delay_Resp supplies t4 and removes the matching and older transmit stamps of its domain. -/
  | delayRespReceive (n : Node) (h : PtpHdr) (t4 : BitVec 96)
  /-- DELAY_REQ_SEND (R60). At its interval the block sends a Delay_Req and queues its hardware transmit stamp. -/
  | delayReqSend (n : Node) (d : Dom) (seqId : BitVec 16) (t3 : BitVec 96)
  /-- GUARD_ACCEPT (R53). A write of TRUE to guard_accept moves every servo in guard lock to acquiring. -/
  | guardAccept (n : Node)
  /-- ACTIVE_DOMAIN_WRITE (R56). A transaction writing active_domain switches domains at its apply frame if the target is locked and close enough. -/
  | activeDomainWrite (n : Node) (v : Byte)
  /-- HOLDOVER_BUDGET_EXPIRE (R57). Holdover elapsed time exceeds the budget, alignment_assured reads FALSE and a channel raises irq_err. -/
  | holdoverBudgetExpire (n : Node) (ms : Word)
  /-- PPS_EDGE (R59). A rising edge of the pulse-per-second input, less its delay, gives the phase of the active domain. -/
  | ppsEdge (c : Ch) (stamp : BitVec 96)
  /-- PPS_LOSS (R59). No pulse arrives for 2 s and the channel reverts to message phase and raises irq_evt. -/
  | ppsLoss (c : Ch)
  /-- TSQ_POP (R61). A read of tsq_pop removes and returns the oldest transmit stamp entry, or an empty DOMAIN. -/
  | tsqPop (n : Node)
  /-- READ (R79). A READ request returns each item's data or status in order. -/
  | read (n : Node) (q : Req)
  /-- WRITE (R80). A WRITE request writes each item in order, the value taking effect when the response is sent. -/
  | write (n : Node) (q : Req)
  /-- SEG_READ (R83). A SEG_READ returns up to count bytes of a DOMAIN object from an offset. -/
  | segRead (n : Node) (q : Req)
  /-- SEG_WRITE (R83). A SEG_WRITE appends a contiguous segment of a DOMAIN object, completing the value at the last segment. -/
  | segWrite (n : Node) (q : Req)
  /-- TXN_OPEN (R87). A TXN_OPEN opens a local transaction numbered by the request's sequence number. -/
  | txnOpen (n : Node) (q : Req)
  /-- TXN_STAGE (R89). A TXN_STAGE checks and stages items into an open transaction, all or none. -/
  | txnStage (n : Node) (q : Req)
  /-- TXN_COMMIT (R90). A TXN_COMMIT commits an open transaction for an apply frame and writes pending flash copies. -/
  | txnCommit (n : Node) (q : Req)
  /-- TXN_ABORT (R87). A TXN_ABORT aborts an open transaction. -/
  | txnAbort (n : Node) (q : Req)
  /-- TXN_STATUS (R87). A TXN_STATUS returns the state, last status and apply frame of a transaction. -/
  | txnStatus (n : Node) (q : Req)
  /-- TXN_OPEN_EXPIRE (R87). An open transaction with no request for txn_open_timeout frames is aborted with TXN_EXPIRED. -/
  | txnOpenExpire (n : Node) (src : Word) (num : Word)
  /-- BIVAN_RESPONSE (R77). A response to a request the block sent, such as a join check or token query, is received and acted on. -/
  | bivanResponse (n : Node) (r : Resp)
  /-- FLEET_REQUEST (R97). The fleet root accepts a fleet request, assigns the fleet sequence, records it at its standby and broadcasts PREPARE. -/
  | fleetRequest (n : Node) (q : Req)
  /-- PREPARE (R100). A node forwards a PREPARE and, if in scope, checks and stages the items and enters a prepare record. -/
  | prepare (n : Node) (q : Req)
  /-- COMMIT_TOKEN (R104). A COMMIT_TOKEN arriving before the deadline frame commits the staged fleet transaction. -/
  | commitToken (n : Node) (q : Req)
  /-- ABORT_TOKEN (R104). An ABORT_TOKEN discards the staged fleet transaction. -/
  | abortToken (n : Node) (q : Req)
  /-- TOKEN_QUERY (R104). A parent answers a token query with the token it holds or WRONG_STATE. -/
  | tokenQuery (n : Node) (q : Req)
  /-- COMPENSATE (R106). A node restores prior values of a fleet transaction at Ac, marks it resolved, or does nothing if already compensated. -/
  | compensate (n : Node) (q : Req)
  /-- LAST_DECISION_FRAME (R102). No decision by the last decision frame makes the root broadcast ABORT_TOKEN and answer TXN_EXPIRED. -/
  | lastDecisionFrame (c : Ch) (seq : Word)
  /-- GUARD_FRAME_QUERY (R104). A node holding a staged PREPARE but no token at the guard frame sends TOKEN_QUERY to its standby parent. -/
  | guardFrameQuery (n : Node) (seq : Word)
  /-- DEADLINE_FRAME_DISCARD (R104). A node still without a token at the deadline frame discards the staged transaction and reports TXN_EXPIRED. -/
  | deadlineFrameDiscard (n : Node) (seq : Word)
  /-- COMMIT_COUNT_CHECK (R105). At the close of A − g + 2 the root compares the commit count and broadcasts COMPENSATE if short. -/
  | commitCountCheck (c : Ch) (seq : Word)
  /-- COMPENSATE_RETRY (R105). The root repeats COMPENSATE every compensate_retry frames until the compensate count is complete. -/
  | compensateRetry (c : Ch) (seq : Word)
  /-- UNDO_HORIZON_EXPIRE (R106). A node drops the undo record of a fleet transaction undo_horizon frames after its apply frame. -/
  | undoHorizonExpire (n : Node) (seq : Word)
  /-- COUNTER_RECORD (R112). A counter record beat is taken from the core tap port and updates the sampler's last values. -/
  | counterRecord (b : BitVec 512) (off : BitVec 20)
  /-- BARRIER_EVENT (R114). A barrier event beat makes a barrier record with its arrival offset. -/
  | barrierEvent (b : BitVec 512) (off : BitVec 20)
  /-- CHECKSUM_WORD (R143). A checksum beat is counted, skipped if dark, and selected by the core's selection count into the touchstone queue. -/
  | checksumWord (b : BitVec 512) (off : BitVec 20)
  /-- TRACE_EVENT (R304). A trace beat is excluded, lost or taken into the trace intake queue and tested against the trigger. -/
  | traceEvent (b : BitVec 512) (off : BitVec 20)
  /-- CORE_LOST (R132). A core silent for lost_frames frames or with a fence acknowledge failure is found lost and reported. -/
  | coreLost (core : BitVec 10)
  /-- LOST_TXN_RETRY (R134). A refused enforcing commit is retried in the next frame with an apply frame one later. -/
  | lostTxnRetry
  /-- FENCE_ACK_TIMEOUT (R131). fnc_ack does not follow a fence change within the timeout and a fence-acknowledge failure is counted. -/
  | fenceAckTimeout (core : BitVec 10)
  /-- FNC_ACK_CHANGE (R131). A change of fnc_ack is seen, completing a fence change, dropping while fenced, or counted as spurious. -/
  | fncAckChange (core : BitVec 10) (v : Bool)
  /-- REGION_READING (R123). A region reading triple is taken from the region port. -/
  | regionReading (region : BitVec 5) (kind : BitVec 2) (value : BitVec 16)
  /-- REGION_REQUEST_PRESENT (R125). The leaf presents the next pending region's command on the region port. -/
  | regionRequestPresent
  /-- REGION_REQ_ACK (R411). rgp_req_ack ends the presented region request. -/
  | regionReqAck
  /-- REGION_REQ_TIMEOUT (R124). A region request unacknowledged for region_ack_timeout cycles is counted and raises region_unacked. -/
  | regionReqTimeout
  /-- REGION_MISMATCH (R126). A region's mismatch count exceeds region_settle and raises region_mismatch once for that command. -/
  | regionMismatch (region : BitVec 5)
  /-- REGION_SETTLE_END (R129). A woken region returns to service when its settle time has passed and its power state reads on or throttled. -/
  | regionSettleEnd (region : BitVec 5)
  /-- ROUTING_NOTIFY (R134). A write of routing_notify sends the bitmap to the routing subscriber through the serving channel's egress. -/
  | routingNotify (bitmap : List Byte)
  /-- SERIES_TABLE_SWAP (R120). A transaction writing series_swap makes the standby series table active at its apply frame. -/
  | seriesTableSwap
  /-- SAMPLE_RATIO_WRITE (R143). A write of sample_ratio above 0 resets every core's selection count to c mod N. -/
  | sampleRatioWrite (v : BitVec 16)
  /-- TS_BEAT_DECIDE (R145). Touchstone decides a queued beat's entries as match, mismatch or non-finite and updates learning. -/
  | tsBeatDecide
  /-- TS_SECTION_SEAL (R152). At cycle +4,096 of F+1 the touchstone section of F is sealed with summary, events, core map and rule inputs. -/
  | tsSectionSeal
  /-- RELEARN (R147). A write of the relearn bitmap returns the named cores to learning. -/
  | relearn (bitmap : List Byte)
  /-- WEIGHT_TAP_BEAT (R163). A weight tap beat enters the snoop buffer, or is lost and damages its pass when the buffer is full. -/
  | weightTapBeat (data : BitVec 1024) (tensor : BitVec 20) (word : Word) (count : BitVec 6) (epoch : BitVec 16)
  /-- ASSAY_BEAT_DIGEST (R161). Assay takes a beat from the snoop buffer, drops it or digests its words into the tensor's pass. -/
  | assayBeatDigest
  /-- TENSOR_TABLE_SWAP (R166). A transaction writing tensor_swap makes the standby tensor table active, changed entries entering the late state. -/
  | tensorTableSwap
  /-- ASSAY_WINDOW_EXPIRE (R172). A key open for its group's window is compared and closed. -/
  | assayWindowExpire (c : Ch) (group : Byte) (tensor : BitVec 20) (epoch : BitVec 16)
  /-- GROUP_ENTRY_WRITE (R170). A group entry write applies and closes that group's open keys as incomplete. -/
  | groupEntryWrite (c : Ch) (group : Byte) (v : Word64)
  /-- DATA_FRAGMENT_RECEIVE (R177). A data fragment is received and assembled into its packet, which is reduced when complete. -/
  | dataFragmentReceive (c : Ch) (src : Word) (h : FragHdr) (data : List Byte)
  /-- CONTROL_FRAGMENT_RECEIVE (R179). A child takes its parent's credits and cumulative acknowledgement, freeing journal slots. -/
  | controlFragmentReceive (n : Node) (src : Word) (h : FragHdr) (entries : List RelEntry)
  /-- FRAGMENT_SEND (R178). A child sends a data fragment to its parent when it holds a credit. -/
  | fragmentSend (n : Node)
  /-- PARENT_LOST (R201). No control fragment for parent_loss_frames frames makes the child declare its parent lost and switch parents. -/
  | parentLost (n : Node)
  /-- LEAF_ABSENT (R201). A member leaf's packets miss two consecutive deadlines and the channel records leaf_absent. -/
  | leafAbsent (c : Ch) (pos : BitVec 6)
  /-- ATTACH_RECEIVE (R202). A parent receives an attach fragment on one of its uplink or ingress ports and adopts the child, queries release or admits a join. -/
  | attachReceive (c : Ch) (joiner : Joiner) (pos : BitVec 5) (frame : Word64) (left : BitVec 16)
  /-- RELEASE_QUERY_RECEIVE (R202). A node answers or forwards a release query, stopping acceptance from the parent the child leaves. -/
  | releaseQueryReceive (c : Ch) (src : Word) (left : Word) (children : List Word)
  /-- RELEASE_ANSWER_RECEIVE (R202). The new parent forms each leaf's entry from the answer and its own set and grants credits. -/
  | releaseAnswerReceive (c : Ch) (src : Word) (entries : List RelEntry)
  /-- RELEASE_QUERY_TIMEOUT (R202). No answer from the parent the child leaves within 10 µs sends the query to the new parent's own parent. -/
  | releaseQueryTimeout (c : Ch) (child : Word)
  /-- RELEASE_ANSWER_MISSING (R202). No answer by the close of the frame makes the new parent take every answered set as empty. -/
  | releaseAnswerMissing (c : Ch) (child : Word)
  /-- RETURN_HOME (R206). After return_frames clean frames from the home channel a leaf returns home by attach. -/
  | returnHome (n : Node)
  /-- CHANNEL_SERIES_SWAP (R213). A transaction writing the series unit's swap makes the standby channel series table active. -/
  | channelSeriesSwap (c : Ch)
  /-- PARAM_SETS_WRITE (R217). A write of the parameter sets applies to series using changed sets, keeping their state. -/
  | paramSetsWrite (c : Ch) (v : List Byte)
  /-- AGG_TABLE_SWAP (R184). A transaction writing agg_swap makes the standby aggregate table active. -/
  | aggTableSwap (c : Ch)
  /-- IMAGE_CHECK_DONE (R248). The check of a loaded image completes and the standby slot becomes ready or refused. -/
  | imageCheckDone (c : Ch) (img : Img)
  /-- IMAGE_STORE_DONE (R250). The flash write of a swap's image completes and the commit's apply-frame checks are made. -/
  | imageStoreDone (c : Ch) (img : Img) (ok : Bool)
  /-- BALANCE_IMAGE_SWAP (R251). A transaction writing image_swap exchanges the balance image slots at its apply frame. -/
  | balanceImageSwap (c : Ch)
  /-- RULE_IMAGE_SWAP (R272). A transaction writing the rule engine's image_swap makes the standby rule image active. -/
  | ruleImageSwap (c : Ch)
  /-- BARRIER_WINDOW_EXPIRE (R256). A barrier instance closes at data frame D + W − 1 without all expected arrivals. -/
  | barrierWindowExpire (c : Ch) (barrier : Word)
  /-- RULE_TXN_COMMIT (R271). In G + 1 the channel opens, stages and commits one transaction per target block and apply frame. -/
  | ruleTxnCommit (c : Ch)
  /-- NOTIFY (R278). A write of notify sends a notification, with any taint record, to a subscriber. -/
  | notify (c : Ch) (v : List Byte)
  /-- SUSPECT_SET (R281). A write of suspect_set marks units suspect and makes suspect fault records. -/
  | suspectSet (c : Ch) (v : List Byte)
  /-- SUSPECT_CLEAR (R281). A write of suspect_clear removes suspect marks. -/
  | suspectClear (c : Ch) (v : List Byte)
  /-- LOSS_SUBMIT (R275). A write of loss_submit submits one step's loss and gradient norm to the window. -/
  | lossSubmit (c : Ch) (v : List Byte)
  /-- STREAM_PACKET_SEND (R292). When the port may send a stream packet egress selects a subscriber and service and sends the packet whole. -/
  | streamPacketSend (c : Ch) (port : Fin 2)
  /-- REFILL_TICK (R295). Every microsecond tick refills shapers, policers and the wake pacer and samples the bus. -/
  | refillTick (c : Ch) (sample : Option (BitVec 12))
  /-- DROOP_RECOVER (R364). The bus stays above threshold plus hysteresis for droop_recover_frames frames and returns to normal. -/
  | droopRecover
  /-- UPLINK_BACKPRESSURE (R414). fpu_tx_ready low for 125 cycles makes the uplink port read backpressured. -/
  | uplinkBackpressure (c : Ch) (port : Fin 2)
  /-- BACKPRESSURE_CLEAR (R414). fpu_tx_ready rises and the uplink port reads up again. -/
  | backpressureClear (c : Ch) (port : Fin 2)
  /-- PORT_RETURN (R299). A home port up for port_return_frames frames takes its moved subscribers back. -/
  | portReturn (c : Ch) (port : Fin 2)
  /-- TRACE_ARM (R308). The arm command empties the buffer, writes a time-stamp and arms capture. -/
  | traceArm (t : BitVec 96)
  /-- TRACE_TRIGGER (R308). The trigger command writes a trigger record and sets the stop instant. -/
  | traceTrigger (t : BitVec 96)
  /-- TRACE_STOP (R308). The stop command writes a stop record and returns the unit to idle. -/
  | traceStop (t : BitVec 96)
  /-- TRACE_CLEAR (R308). The clear command empties the buffer of an idle unit. -/
  | traceClear
  /-- TRACE_RECORD_WRITE (R305). The writer places the next record from the intake queue in the ring, with time-stamp and loss records. -/
  | traceRecordWrite
  /-- TRACE_STOP_INSTANT (R310). The stop instant passes and the unit writes a stop record of cause 0 and goes idle. -/
  | traceStopInstant
  /-- STALL_BUDGET_EXPIRE (R313). The stall has been high for its budget in the frame and falls for the rest of the frame. -/
  | stallBudgetExpire
  /-- TRACE_AUTHORISE_CLEAR (R308). Clearing trace_authorised while capturing acts as a stop command. -/
  | traceAuthoriseClear (t : BitVec 96)
  /-- TRACE_TRIGGER_LEAVES (R311). A write of trace_trigger_leaves sends a trigger WRITE to each named leaf at its apply frame. -/
  | traceTriggerLeaves (c : Ch) (v : Word64)
  /-- CARAT_BLOCK_SEAL (R323). The compressor seals a coded or stored block and hands it to egress. -/
  | caratBlockSeal (c : Ch)
  /-- TRACE_FETCH (R329). A write of trace_fetch starts reading a leaf's trace buffer into a native stream. -/
  | traceFetch (c : Ch) (v : BitVec 16)
  /-- TRACE_FETCH_RESPONSE (R329). A fetch read's answer is passed to the stream, or ends it on length 0 or refusal. -/
  | traceFetchResponse (c : Ch) (stream : BitVec 4) (status : Byte) (data : List Byte)
  /-- JOB_SUBMIT (R332). A write of job_submit queues a compression or decompression job. -/
  | jobSubmit (c : Ch) (v : List Byte)
  /-- JOB_COMPLETE (R333). A Carat job finishes and enters a result record and raises irq_evt. -/
  | jobComplete (c : Ch) (decomp : Bool)
  /-- JOB_RESULT (R333). A read of job_result pops the oldest result record. -/
  | jobResult (c : Ch)
  /-- MOVER_START (R343). A write of a descriptor address to a mover's start object starts it. -/
  | moverStart (c : Ch) (m : Fin 8) (a : Word64)
  /-- MOVER_STOP (R342). A write of TRUE to a mover's stop object stops it after the descriptor in progress. -/
  | moverStop (c : Ch) (m : Fin 8)
  /-- DESCRIPTOR_FETCH (R339). A mover's descriptor read completes and the mover checks its addresses and begins moving. -/
  | descriptorFetch (c : Ch) (m : Fin 8)
  /-- DESCRIPTOR_DONE (R339). A descriptor's transfer ends and its status is written back, following next or halting. -/
  | descriptorDone (c : Ch) (m : Fin 8)
  /-- MMP_RESPONSE (R425). A response on the memory master port completes an outstanding request. -/
  | mmpResponse (tag : Byte) (err : Bool) (data : BitVec 512)
  /-- MMP_TIMEOUT (R427). A request unanswered for 65,536 cycles is treated as a memory fault. -/
  | mmpTimeout (tag : Byte)
  /-- SRAM_UNCORRECTABLE (R345). A double-bit SRAM error resets the channel or leaf, keeping its address for a record after the reset. -/
  | sramUncorrectable (n : Node) (array : BitVec 10) (row : BitVec 11)
  /-- DRAM_UNCORRECTABLE (R347). A double-bit DRAM error resets the channel. -/
  | dramUncorrectable (c : Ch) (seg : BitVec 15)
  /-- FLASH_OPERATION_DONE (R349). A flash program or erase completes or reports failure. -/
  | flashOperationDone (n : Node) (ok : Bool)
  /-- FAULT_LOG_WRITE (R356). A queued fault record is written to the fault history log, erasing the oldest sector when needed. -/
  | faultLogWrite (c : Ch) (stamp : BitVec 96)
  /-- PERMANENT_FENCE_COMMIT (R355). A new permanent core location is fenced by a local transaction on its leaf. -/
  | permanentFenceCommit (c : Ch)
  /-- CLEAR_LOCATION (R353). A write of clear_location returns a permanent location to transient. -/
  | clearLocation (c : Ch) (v : Word64)
  /-- STARTUP_FAILURES (R354). A write of startup_failures names locations reproduced by the start-up core test. -/
  | startupFailures (c : Ch) (v : List Byte)
  /-- FIRMWARE_LOG_WRITE (R357). A write of firmware_log_write appends a software-stamped entry to the firmware log. -/
  | firmwareLogWrite (c : Ch) (v : List Byte)
  /-- WAKE_REQUEST (R366). A write of wake_request queues wake entries for the named off regions. -/
  | wakeRequest (c : Ch) (v : List Byte)
  /-- WAKE_TXN_COMMIT (R368). Granted wakes are committed per leaf in the next frame for the frame after. -/
  | wakeTxnCommit (c : Ch)
  /-- CORE_TARGET_STEP (R360). The core target falls by at most 10 mV each millisecond towards the highest channel need. -/
  | coreTargetStep
  /-- MARGIN_EVENT (R360). Measured core voltage below a channel's need for 1 µs is counted and raises irq_err. -/
  | marginEvent (c : Ch) (mv : BitVec 16)
  /-- ENTER_L1 (R371). A transaction writing power_state 0x01 puts a leaf into L1. -/
  | enterL1 (t : BitVec 96)
  /-- ENTER_L2 (R372). A transaction writing power_state 0x02 puts a leaf into retention. -/
  | enterL2 (t : BitVec 96)
  /-- ENTER_L3 (R371). A transaction writing power_state 0x03 switches a withdrawn leaf off. -/
  | enterL3
  /-- ENTER_L0 (R372). A transaction writing power_state 0x00 returns a leaf from L1 or L2. -/
  | enterL0 (t : BitVec 96)
  /-- ENTER_C2 (R373). A transaction writing power_state 0x02 puts a channel into retention after handing over its leaves. -/
  | enterC2 (c : Ch)
  /-- ENTER_C3 (R373). A transaction writing power_state 0x03 switches a channel off after handing over its leaves. -/
  | enterC3 (c : Ch)
  /-- CHANNEL_WAKE (R371). A write of channel_wake returns a channel from C2, or from C3 through a cold start. -/
  | channelWake (c : Ch)
  /-- POWER_ON_RESET (R378). Release of rst_por_n starts the cold start of the tray build. -/
  | powerOnReset
  /-- LEAF_POWER_ON (R407). Release of rst_aon_n starts the cold start of a leaf. -/
  | leafPowerOn
  /-- PLL_LOCK (R378). The PLLs lock and the channel enters the memory phase. -/
  | pllLock (c : Ch)
  /-- SELFTEST_DONE (R379). Memory self-test ends, mapping failing rows and segments or failing on exhausted spares. -/
  | selftestDone (n : Node) (rows : List (BitVec 10 × BitVec 12)) (segs : List (BitVec 16))
  /-- RESTORE_DONE (R378). Keys, fault table, stored objects and images are restored and checked. -/
  | restoreDone (c : Ch) (read : FlashRead)
  /-- PHY_LINK_UP (R380). A fabric PHY reports link up and qualification of that port begins. -/
  | phyLinkUp (c : Ch) (port : Fin 4)
  /-- LINK_QUALIFY_DONE (R380). PRBS31 qualification of a port ends and the port passes or fails. -/
  | linkQualifyDone (c : Ch) (port : Fin 4) (lanes : List Word)
  /-- PHY_LINK_DOWN (R382). A fabric link drops, abandoning its frames, taking the port out of service and moving subscribers. -/
  | phyLinkDown (c : Ch) (port : Fin 4)
  /-- MLP_LINK_DOWN (R412). mlp_link_up falls and the leaf abandons the frame in progress. -/
  | mlpLinkDown (mid : Bool)
  /-- WARM_RESET_INPUT (R424). A low pulse of 100 ns or more on hp_warm_reset_n starts a warm reset. -/
  | warmResetInput (ns : Word)
  /-- WARM_RESET_REQUEST (R377). A write of 0x01 to reset_request through the clasp starts a warm reset. -/
  | warmResetRequest (c : Ch)
  /-- CHANNEL_RESET_REQUEST (R377). A write of 0x02 to reset_request starts a channel reset. -/
  | channelResetRequest (c : Ch)
  /-- LEAF_RESET_REQUEST (R377). A write of 0x03 to reset_request starts a leaf reset. -/
  | leafResetRequest
  /-- FAST_PATH_DONE (R383). The fast path completes its steps and the block opens its first frame. -/
  | fastPathDone (n : Node) (scrub : Option (BitVec 52)) (refOk : Bool) (k : Word64) (ms : Word)
  /-- JOIN_ASSIGN (R389). A write of join_assign sets the leaf identifier and home channel at apply. -/
  | joinAssign (v : Word)
  /-- REPAIR_ADD (R387). A write of repair_add maps the leaf's permanent SRAM rows onto spares. -/
  | repairAdd (v : List Byte)
  /-- JOIN_RETRY_EXPIRE (R386). join_retry_frames after a refusal the channel checks the leaf's attaches again. -/
  | joinRetryExpire (c : Ch) (pos : BitVec 5)
  /-- ROLE_SUCCESSOR_TIMEOUT (R392). A restarted root with no successor answer in 16 frames keeps its role. -/
  | roleSuccessorTimeout (c : Ch)
  /-- WITHDRAW_LEAVES (R395). A transaction writing withdraw_leaves starts the orderly withdrawal of the named leaves. -/
  | withdrawLeaves (c : Ch) (v : Word64)
  /-- WITHDRAW_REGIONS_OFF (R395). At W + 1 the channel commits region_control off for every mapped region of a leaving leaf. -/
  | withdrawRegionsOff (c : Ch)
  /-- WITHDRAW_ENTER_L2 (R395). At W + 2 the channel commits L2 for the leaving leaf. -/
  | withdrawEnterL2 (c : Ch)
  /-- LEAF_WITHDRAW_DONE (R395). When the acknowledgement covers W + 2 the leaf leaves membership and the channel commits L3. -/
  | leafWithdrawDone (c : Ch) (pos : BitVec 6)
  /-- MOVE_PARENT (R396). A write of move_parent moves a leaf to its other parent at the apply frame. -/
  | moveParent
  /-- WITHDRAW_CHANNEL (R397). A transaction writing withdraw_channel withdraws the channel from the tree at its apply frame. -/
  | withdrawChannel (c : Ch)
  /-- CHANNEL_WITHDRAW_DONE (R397). Once its last packet is acknowledged the channel writes member_leave to its parent and reads withdrawn. -/
  | channelWithdrawDone (c : Ch)
  /-- MEMBER_LEAVE (R397). A write of member_leave from a member child stops the parent counting it from the next frame. -/
  | memberLeave (c : Ch) (src : Word) (id : BitVec 16)
  /-- CHANNEL_REMOVAL (R398). A member channel silent for removal_frames frames is removed with its unadopted leaves. -/
  | channelRemoval (c : Ch) (child : BitVec 16)
  /-- CLASP_CLAIM (R402). A channel that missed three heartbeats claims the clasp with epoch E_h + 1. -/
  | claspClaim (c : Ch)
  /-- CLAIM_WINDOW_CLOSE (R400). At the end of the 10 µs window the host port grants the clasp or makes colliding claimants step down. -/
  | claimWindowClose
  /-- CLAIM_BACKOFF_EXPIRE (R403). A stepped-down channel claims again at frame X + b unless a heartbeat cancels it. -/
  | claimBackoffExpire (c : Ch)
  /-- CLASP_HEARTBEAT (R401). The holder writes its heartbeat at cycle +25,000, and a refused heartbeat deposes it. -/
  | claspHeartbeat (c : Ch)
  /-- HOST_REGISTER_WRITE (R418). A host port write to a register with no behaviour of its own is completed or refused with hp_err. -/
  | hostRegisterWrite (addr : BitVec 16) (data : Word)
  /-- FRAME_LO_READ (R420). A read of HP_FRAME_LO latches the upper bits of frame_now into HP_FRAME_HI. -/
  | frameLoRead (c : Ch)
  /-- MAILBOX_DATA_WRITE (R420). A write of HP_MBX_DATA stores a request word and advances the write pointer. -/
  | mailboxDataWrite (c : Ch) (data : Word)
  /-- MAILBOX_DATA_READ (R420). A read of HP_MBX_DATA returns a response word and advances the read pointer. -/
  | mailboxDataRead (c : Ch)
  /-- MAILBOX_GO (R423). Writing go executes the mailbox request as a Bivan message, or sets go_refused when busy. -/
  | mailboxGo (c : Ch)
  /-- MAILBOX_RSP_DONE (R423). Writing rsp_done clears rsp_ready after the response is read. -/
  | mailboxRspDone (c : Ch)
  /-- INTERRUPT_CLEAR (R422). Writing 1 to an interrupt status bit clears it unless a cause sets it in the same cycle. -/
  | interruptClear (c : Ch) (err : Bool) (bits : Word) (sets : Word)
  /-- SMBUS_BLOCK_WRITE (R86). An SMBus Block Write delivers a Bivan request to a channel, discarded on bad PEC. -/
  | smbusBlockWrite (cmd : Byte) (data : List Byte) (pecOk : Bool)
  /-- SMBUS_BLOCK_READ (R86). An SMBus Block Read returns a channel's ready response or an empty block. -/
  | smbusBlockRead (cmd : Byte)
  /-- SMBUS_ALERT_RESPONSE (R428). The sideband answers the Alert Response Address with its own address and releases smb_alert_n. -/
  | smbusAlertResponse
  /-- SMBUS_CLOCK_LOW_TIMEOUT (R428). After 25 ms to 35 ms of clock low the sideband releases smb_clk and smb_dat. -/
  | smbusClockLowTimeout
  /-- TAP_INSTRUCTION (R429). An IEEE 1149.1 instruction is loaded and selects its data register. -/
  | tapInstruction (n : Node) (ir : Byte)
  /-- POWER_ON_RESET_ASSERT (R417). rst_por_n falls, or the tray rails are lost, and the tray build enters reset with its outputs at their reset states and its volatile contents lost. -/
  | powerOnResetAssert
  /-- ALWAYS_ON_RESET_ASSERT (R407). rst_aon_n falls, or the leaf's always-on rails are lost, and the leaf enters reset, losing its journal, SRAM and trace. -/
  | alwaysOnResetAssert
  /-- WARM_RESET_INPUT_RELEASE (R424). hp_warm_reset_n rises, ending the enter step so that the fast path of Table 16.4 proceeds with its times counted from this edge. -/
  | warmResetInputRelease
  /-- CHANNEL_NEED_CHANGE (R360). A channel's continuously measured least core voltage in channel_need_mv changes, and a rise of the highest need raises the core target at once. -/
  | channelNeedChange (c : Ch) (mv : BitVec 16)
  deriving DecidableEq, Repr

end Sys2Proof
end

