-- ==== Sys2Proof/WellFormed.lean ====
section
/-! DEFINITION. The operands that the surroundings can supply. A message's contents are judged by the block itself, and are no
part of this check; the meanings are total, and answer ill-formed commands too. -/

namespace Sys2Proof

/-- A time stamp's nanoseconds lie below one second (R38). -/
def timeOk (t : BitVec 96) : Bool := decide (t.toNat % 2 ^ 32 < 1000000000)

/-- An offset lies within the longest frame (Table 4.2). -/
def offsetOk (o : BitVec 20) : Bool := decide (o.toNat < 1000000)

/-- A position of a leaf at a channel (Table 1.1, R203). -/
def positionOk (p : BitVec 6) : Bool := decide (p.toNat < 48)

/-- A request carries no opcode of its own: the row names it. -/
def named (q : Req) : Bool := q.other.isNone

/-- An opcode that no row of the table has (Table 3.9): only such a one stands in for READ's own. -/
def readOpOk (q : Req) : Bool :=
  match q.other with
  | none => true
  | some op => !([0x01, 0x02, 0x03, 0x04, 0x10, 0x11, 0x12, 0x13, 0x14, 0x20, 0x21, 0x23, 0x24, 0x26, 0x27].contains op.toNat)

/-- The command is one that the surroundings can send. -/
def Instr.wf : Instr → Bool
  | .frameOpen _ _ _ => true
  | .unitOverrun _ _ _ _ => true
  | .announceReceive _ _ _ => true
  | .announceTimeout _ _ _ => true
  | .syncReceive _ _ t1 t2 => timeOk t1 && timeOk t2
  | .followUpReceive _ _ t1 => timeOk t1
  | .delayRespReceive _ _ t4 => timeOk t4
  | .delayReqSend _ _ _ t3 => timeOk t3
  | .guardAccept _ => true
  | .activeDomainWrite _ _ => true
  | .holdoverBudgetExpire _ _ => true
  | .ppsEdge _ stamp => timeOk stamp
  | .ppsLoss _ => true
  | .tsqPop _ => true
  | .read _ q => readOpOk q
  | .write _ q => named q
  | .segRead _ q => named q
  | .segWrite _ q => named q
  | .txnOpen _ q => named q
  | .txnStage _ q => named q
  | .txnCommit _ q => named q
  | .txnAbort _ q => named q
  | .txnStatus _ q => named q
  | .txnOpenExpire _ _ _ => true
  | .bivanResponse _ _ => true
  | .fleetRequest _ q => named q
  | .prepare _ q => named q
  | .commitToken _ q => named q
  | .abortToken _ q => named q
  | .tokenQuery _ q => named q
  | .compensate _ q => named q
  | .lastDecisionFrame _ _ => true
  | .guardFrameQuery _ _ => true
  | .deadlineFrameDiscard _ _ => true
  | .commitCountCheck _ _ => true
  | .compensateRetry _ _ => true
  | .undoHorizonExpire _ _ => true
  | .counterRecord _ off => offsetOk off
  | .barrierEvent _ off => offsetOk off
  | .checksumWord _ off => offsetOk off
  | .traceEvent _ off => offsetOk off
  | .coreLost _ => true
  | .lostTxnRetry => true
  | .fenceAckTimeout _ => true
  | .fncAckChange _ _ => true
  | .regionReading _ _ _ => true
  | .regionRequestPresent => true
  | .regionReqAck => true
  | .regionReqTimeout => true
  | .regionMismatch _ => true
  | .regionSettleEnd _ => true
  | .routingNotify _ => true
  | .seriesTableSwap => true
  | .sampleRatioWrite _ => true
  | .tsBeatDecide => true
  | .tsSectionSeal => true
  | .relearn _ => true
  | .weightTapBeat _ _ _ _ _ => true
  | .assayBeatDigest => true
  | .tensorTableSwap => true
  | .assayWindowExpire _ _ _ _ => true
  | .groupEntryWrite _ _ _ => true
  | .dataFragmentReceive _ _ h data => h.typ == 0 && decide (data.length ≤ 8176)
  | .controlFragmentReceive _ _ h _ => h.typ == 1
  | .fragmentSend _ => true
  | .parentLost _ => true
  | .leafAbsent _ pos => positionOk pos
  | .attachReceive _ _ _ _ _ => true
  | .releaseQueryReceive _ _ _ _ => true
  | .releaseAnswerReceive _ _ _ => true
  | .releaseQueryTimeout _ _ => true
  | .releaseAnswerMissing _ _ => true
  | .returnHome _ => true
  | .channelSeriesSwap _ => true
  | .paramSetsWrite _ _ => true
  | .aggTableSwap _ => true
  | .imageCheckDone _ _ => true
  | .imageStoreDone _ _ _ => true
  | .balanceImageSwap _ => true
  | .ruleImageSwap _ => true
  | .barrierWindowExpire _ _ => true
  | .ruleTxnCommit _ => true
  | .notify _ _ => true
  | .suspectSet _ _ => true
  | .suspectClear _ _ => true
  | .lossSubmit _ _ => true
  | .streamPacketSend _ _ => true
  | .refillTick _ _ => true
  | .droopRecover => true
  | .uplinkBackpressure _ _ => true
  | .backpressureClear _ _ => true
  | .portReturn _ _ => true
  | .traceArm t => timeOk t
  | .traceTrigger t => timeOk t
  | .traceStop t => timeOk t
  | .traceClear => true
  | .traceRecordWrite => true
  | .traceStopInstant => true
  | .stallBudgetExpire => true
  | .traceAuthoriseClear t => timeOk t
  | .traceTriggerLeaves _ _ => true
  | .caratBlockSeal _ => true
  | .traceFetch _ _ => true
  | .traceFetchResponse _ _ _ _ => true
  | .jobSubmit _ _ => true
  | .jobComplete _ _ => true
  | .jobResult _ => true
  | .moverStart _ _ _ => true
  | .moverStop _ _ => true
  | .descriptorFetch _ _ => true
  | .descriptorDone _ _ => true
  | .mmpResponse _ _ _ => true
  | .mmpTimeout _ => true
  | .sramUncorrectable _ _ _ => true
  | .dramUncorrectable _ _ => true
  | .flashOperationDone _ _ => true
  | .faultLogWrite _ stamp => timeOk stamp
  | .permanentFenceCommit _ => true
  | .clearLocation _ _ => true
  | .startupFailures _ _ => true
  | .firmwareLogWrite _ _ => true
  | .wakeRequest _ _ => true
  | .wakeTxnCommit _ => true
  | .coreTargetStep => true
  | .marginEvent _ _ => true
  | .enterL1 t => timeOk t
  | .enterL2 t => timeOk t
  | .enterL3 => true
  | .enterL0 t => timeOk t
  | .enterC2 _ => true
  | .enterC3 _ => true
  | .channelWake _ => true
  | .powerOnReset => true
  | .leafPowerOn => true
  | .pllLock _ => true
  | .selftestDone _ rows _ => rows.all (fun r => decide (r.2.toNat < 2052))
  | .restoreDone _ _ => true
  | .phyLinkUp _ _ => true
  | .linkQualifyDone _ _ lanes => decide (lanes.length ≤ 16)
  | .phyLinkDown _ _ => true
  | .mlpLinkDown _ => true
  | .warmResetInput _ => true
  | .warmResetRequest _ => true
  | .channelResetRequest _ => true
  | .leafResetRequest => true
  | .fastPathDone _ _ _ _ _ => true
  | .joinAssign _ => true
  | .repairAdd _ => true
  | .joinRetryExpire _ _ => true
  | .roleSuccessorTimeout _ => true
  | .withdrawLeaves _ _ => true
  | .withdrawRegionsOff _ => true
  | .withdrawEnterL2 _ => true
  | .leafWithdrawDone _ pos => positionOk pos
  | .moveParent => true
  | .withdrawChannel _ => true
  | .channelWithdrawDone _ => true
  | .memberLeave _ _ _ => true
  | .channelRemoval _ _ => true
  | .claspClaim _ => true
  | .claimWindowClose => true
  | .claimBackoffExpire _ => true
  | .claspHeartbeat _ => true
  | .hostRegisterWrite _ _ => true
  | .frameLoRead _ => true
  | .mailboxDataWrite _ _ => true
  | .mailboxDataRead _ => true
  | .mailboxGo _ => true
  | .mailboxRspDone _ => true
  | .interruptClear _ _ _ _ => true
  | .smbusBlockWrite _ data _ => decide (data.length ≤ 255)
  | .smbusBlockRead _ => true
  | .smbusAlertResponse => true
  | .smbusClockLowTimeout => true
  | .tapInstruction _ _ => true
  | .powerOnResetAssert => true
  | .alwaysOnResetAssert => true
  | .warmResetInputRelease => true
  | .channelNeedChange _ _ => true

end Sys2Proof
end

