-- ==== Sys2Proof/Machine/Bytes.lean ====
section
/-! DEFINITION. Little-endian numbers and bit fields of bytes (R7), signed readings and small list helpers that every
format of the spec uses. -/

namespace Sys2Proof.Machine

/-- The number that bytes hold, the least significant first (R7). -/
def leNat : List Byte → Nat
  | [] => 0
  | b :: bs => b.toNat + 256 * leNat bs

/-- The `len` bytes of `n`, the least significant first (R7). -/
def natLe : Nat → Nat → List Byte
  | 0, _ => []
  | len + 1, n => BitVec.ofNat 8 n :: natLe len (n / 256)

/-- Bits [lo + width − 1 : lo] of `n`. -/
def bits (n lo width : Nat) : Nat := (n / 2 ^ lo) % 2 ^ width

/-- Bit `k` of `n`. -/
def bit (n k : Nat) : Bool := n.testBit k

/-- `n` with bit `k` set. -/
def setBit (n k : Nat) : Nat := n ||| (1 <<< k)

/-- `n` with bit `k` cleared. -/
def clearBit (n k : Nat) : Nat := if n.testBit k then n - 2 ^ k else n

/-- The bytes from `off`, `len` of them (fewer at the end). -/
def slice (b : List Byte) (off len : Nat) : List Byte := (b.drop off).take len

/-- The little-endian number in `len` bytes from `off`. -/
def leAt (b : List Byte) (off len : Nat) : Nat := leNat (slice b off len)

/-- Overwrite bytes from `off` with `d`. -/
def patch (b : List Byte) (off : Nat) (d : List Byte) : List Byte := b.take off ++ d ++ b.drop (off + d.length)

/-- Zero padding up to a multiple of `m`. -/
def padTo (m : Nat) (b : List Byte) : List Byte := b ++ List.replicate ((m - b.length % m) % m) 0

/-- Cut or zero-fill to exactly `len` bytes. -/
def fitTo (len : Nat) (b : List Byte) : List Byte := b.take len ++ List.replicate (len - b.length) 0

/-- Cut a list into pieces of `n` (structural on the fuel, which is the list's length). -/
def piecesAux {α : Type} (n : Nat) : Nat → List α → List (List α)
  | 0, _ => []
  | fuel + 1, l => match l with
    | [] => []
    | _ => l.take n :: piecesAux n fuel (l.drop n)

/-- Cut a list into pieces of `n`, the last one shorter. -/
def pieces {α : Type} (n : Nat) (l : List α) : List (List α) := piecesAux n l.length l

/-- The two's complement reading of the low `w` bits of `n`. -/
def signed (w n : Nat) : Int := if n % 2 ^ w < 2 ^ (w - 1) then (n % 2 ^ w : Nat) else ((n % 2 ^ w : Nat) : Int) - 2 ^ w

/-- The `w`-bit two's complement pattern of an integer. -/
def unsigned (w : Nat) (i : Int) : Nat := (i % (2 ^ w : Int)).toNat

/-- Clamp an integer between bounds. -/
def clampInt (lo hi i : Int) : Int := if i < lo then lo else if hi < i then hi else i

/-- Stop at the largest value of `w` bits instead of wrapping (R44 and the counters of every chapter). -/
def satAdd (w n k : Nat) : Nat := min (n + k) (2 ^ w - 1)

/-- `a` is later than `b` in serial arithmetic modulo 2^32 (R81). -/
def serialAfter (a b : Word) : Bool := decide (a ≠ b) && decide ((a - b).toNat < 2 ^ 31)

/-- The number of ones among the low `w` bits. -/
def popCount (w n : Nat) : Nat := ((List.range w).filter (fun k => n.testBit k)).length

/-- The positions of the ones among the low `w` bits, rising. -/
def onesOf (w n : Nat) : List Nat := (List.range w).filter (fun k => n.testBit k)

/-- Replace the first element that satisfies `p`. -/
def replaceFirst {α : Type} (p : α → Bool) (f : α → α) : List α → List α
  | [] => []
  | x :: xs => if p x then f x :: xs else x :: replaceFirst p f xs

/-- Apply `f` at index `k`, if the list has it. -/
def modifyAt {α : Type} (k : Nat) (f : α → α) : List α → List α
  | [] => []
  | x :: xs => match k with
    | 0 => f x :: xs
    | k + 1 => x :: modifyAt k f xs

/-- Insert in the rising order of `key`, after equals. -/
def insertBy {α : Type} (key : α → Nat) (x : α) : List α → List α
  | [] => [x]
  | y :: ys => if key x < key y then x :: y :: ys else y :: insertBy key x ys

/-- Sort by rising `key`, stable. -/
def sortBy {α : Type} (key : α → Nat) (l : List α) : List α := l.foldl (fun acc x => insertBy key x acc) []

end Sys2Proof.Machine
end

