-- ==== Sys2Proof/Machine/Float32.lean ====
section
/-! DEFINITION. IEEE 754 binary32 on bit patterns: exact values, rounding once to nearest with ties to even, the six
operations of R216 with its treatment of subnormals, and the order of R190. -/

namespace Sys2Proof.Machine

/-- The quiet NaN that the block writes (R118, R190). -/
abbrev qNaN : Nat := 0x7FC00000

/-- +∞. -/
abbrev posInf : Nat := 0x7F800000

/-- The sign bit. -/
def f32Neg (w : Nat) : Bool := w.testBit 31

/-- The magnitude bits. -/
def f32Mag (w : Nat) : Nat := w % 2 ^ 31

/-- A NaN. -/
def f32NaN (w : Nat) : Bool := decide (posInf < f32Mag w)

/-- An infinity. -/
def f32Inf (w : Nat) : Bool := decide (f32Mag w = posInf)

/-- Neither NaN nor infinite. -/
def f32Fin (w : Nat) : Bool := decide (f32Mag w < posInf)

/-- A subnormal number. -/
def f32Sub (w : Nat) : Bool := decide (0 < f32Mag w) && decide (f32Mag w < 2 ^ 23)

/-- A zero of either sign. -/
def f32Zero (w : Nat) : Bool := decide (f32Mag w = 0)

/-- The magnitude of a finite pattern times 2^149, exactly. -/
def f32Abs149 (w : Nat) : Nat :=
  let e := f32Mag w / 2 ^ 23
  let m := w % 2 ^ 23
  if e = 0 then m else (2 ^ 23 + m) * 2 ^ (e - 1)

/-- The value of a finite pattern times 2^149, exactly. -/
def f32Fix149 (w : Nat) : Int := if f32Neg w then -(f32Abs149 w : Int) else f32Abs149 w

/-- A pattern with its sign changed. -/
def f32Negate (w : Nat) : Nat := if f32Neg w then w - 2 ^ 31 else w + 2 ^ 31

/-- A magnitude with a sign. -/
def withSign (neg : Bool) (mag : Nat) : Nat := if neg then mag + 2 ^ 31 else mag

/-- Integer division rounded to nearest, ties to even. -/
def divRne (n d : Nat) : Nat :=
  let q := n / d
  let r := n % d
  if 2 * r < d then q else if d < 2 * r then q + 1 else if q % 2 = 0 then q else q + 1

/-- The binary32 magnitude nearest to num / den, ties to even; too large gives ∞. -/
def roundMag (num den : Nat) : Nat :=
  if num = 0 then 0
  else
    let d := (num.log2 : Int) - den.log2
    -- e = floor of the binary logarithm of num / den
    let e := if d < 0 then (if num * 2 ^ (-d).toNat < den then d - 1 else d)
      else (if num < den * 2 ^ d.toNat then d - 1 else d)
    let q := if e - 23 < -149 then -149 else e - 23
    let m := if q < 0 then divRne (num * 2 ^ (-q).toNat) den else divRne num (den * 2 ^ q.toNat)
    let w := (q + 149).toNat * 2 ^ 23 + m
    if posInf ≤ w then posInf else w

/-- The binary32 pattern nearest to ± num / den. -/
def roundF32 (neg : Bool) (num den : Nat) : Nat := withSign neg (roundMag num den)

/-- The binary32 pattern nearest to an integer over a natural number. -/
def ratF32 (num : Int) (den : Nat) : Nat := roundF32 (decide (num < 0)) num.natAbs den

/-- A subnormal result is written as +0 (R216). -/
def flushOut (w : Nat) : Nat := if f32Sub w then 0 else w

/-- A subnormal operand is read as zero of the same sign (R216). -/
def flushIn (w : Nat) : Nat := if f32Sub w then withSign (f32Neg w) 0 else w

/-- x + y, one binary32 operation. -/
def addF32 (x y : Nat) : Nat :=
  if f32NaN x || f32NaN y then qNaN
  else if f32Inf x then (if f32Inf y && f32Neg x != f32Neg y then qNaN else x)
  else if f32Inf y then y
  else
    let s := f32Fix149 x + f32Fix149 y
    if s = 0 then (if f32Neg x && f32Neg y then withSign true 0 else 0)
    else ratF32 s (2 ^ 149)

/-- x − y, one binary32 operation. -/
def subF32 (x y : Nat) : Nat := if f32NaN y then qNaN else addF32 x (f32Negate y)

/-- x × y, one binary32 operation. -/
def mulF32 (x y : Nat) : Nat :=
  let neg := f32Neg x != f32Neg y
  if f32NaN x || f32NaN y then qNaN
  else if f32Inf x || f32Inf y then (if f32Zero x || f32Zero y then qNaN else withSign neg posInf)
  else roundF32 neg (f32Abs149 x * f32Abs149 y) (2 ^ 298)

/-- x + y (R216). -/
def fAdd (x y : Nat) : Nat := flushOut (addF32 (flushIn x) (flushIn y))

/-- x − y (R216). -/
def fSub (x y : Nat) : Nat := flushOut (subF32 (flushIn x) (flushIn y))

/-- x × y (R216). -/
def fMul (x y : Nat) : Nat := flushOut (mulF32 (flushIn x) (flushIn y))

/-- x ÷ y (R216). -/
def fDiv (x0 y0 : Nat) : Nat :=
  let x := flushIn x0
  let y := flushIn y0
  let neg := f32Neg x != f32Neg y
  if f32NaN x || f32NaN y then qNaN
  else if f32Inf x then (if f32Inf y then qNaN else withSign neg posInf)
  else if f32Inf y then withSign neg 0
  else if f32Zero y then (if f32Zero x then qNaN else withSign neg posInf)
  else flushOut (roundF32 neg (f32Abs149 x) (f32Abs149 y))

/-- The integer square root by bits from `k` down. -/
def sqrtBits (n : Nat) : Nat → Nat → Nat
  | 0, r => r
  | k + 1, r =>
    let t := r + 2 ^ k
    sqrtBits n k (if t * t ≤ n then t else r)

/-- The floor of the square root of n below 2^(2b). -/
def isqrt (b n : Nat) : Nat := sqrtBits n b 0

/-- √x (R216). The square root of a normal number is normal, and its 24 bits are rounded from one bit more, where a
tie cannot fall. -/
def fSqrt (x0 : Nat) : Nat :=
  let x := flushIn x0
  if f32NaN x then qNaN
  else if f32Zero x then x
  else if f32Neg x then qNaN
  else if f32Inf x then x
  else
    -- x = m × 2^(e − 150), m of 24 bits; t = m × 2^s with s even against e, between 2^46 and 2^48
    let e : Nat := f32Mag x / 2 ^ 23
    let m := 2 ^ 23 + x % 2 ^ 23
    let s : Nat := if e % 2 = 0 then 24 else 23
    let r := isqrt 26 (4 * (m * 2 ^ s))
    let k := (r + 1) / 2
    -- the root is k × 2^((e − 150 − s) / 2)
    let p : Int := ((e : Int) - 150 - s) / 2
    if p < 0 then roundMag k (2 ^ (-p).toNat) else roundMag (k * 2 ^ p.toNat) 1

/-- The place of a pattern that is not NaN in the order of R190: −∞, negatives, −0, +0, positives, +∞. -/
def f32Key (w : Nat) : Int := if f32Neg w then -(f32Mag w : Int) - 1 else f32Mag w

/-- x is below y in the order of R190; a NaN is below nothing. -/
def f32Lt (x y : Nat) : Bool := !f32NaN x && !f32NaN y && decide (f32Key x < f32Key y)

/-- The place of a number in the order of IEEE 754: the zeros are equal. -/
def ieeeKey (w : Nat) : Int := if f32Zero w then 0 else f32Key w

/-- x < y (IEEE 754-2019). -/
def ieeeLt (x y : Nat) : Bool := !f32NaN x && !f32NaN y && decide (ieeeKey x < ieeeKey y)

/-- x ≤ y (IEEE 754-2019). -/
def ieeeLe (x y : Nat) : Bool := !f32NaN x && !f32NaN y && decide (ieeeKey x ≤ ieeeKey y)

/-- The lower of two under R190; a NaN gives way to a number. -/
def fMin (x y : Nat) : Nat :=
  if f32NaN x then (if f32NaN y then qNaN else y) else if f32NaN y then x else if f32Lt y x then y else x

/-- The higher of two under R190; a NaN gives way to a number. -/
def fMax (x y : Nat) : Nat :=
  if f32NaN x then (if f32NaN y then qNaN else y) else if f32NaN y then x else if f32Lt x y then y else x

/-- minimum(x, y) of R216: a NaN gives NaN, and −0 is below +0. -/
def fMinimum (x0 y0 : Nat) : Nat :=
  let x := flushIn x0
  let y := flushIn y0
  if f32NaN x || f32NaN y then qNaN else if f32Lt y x then y else x

/-- maximum(x, y) of R216. -/
def fMaximum (x0 y0 : Nat) : Nat :=
  let x := flushIn x0
  let y := flushIn y0
  if f32NaN x || f32NaN y then qNaN else if f32Lt x y then y else x

/-- |x|. -/
def fAbs (x : Nat) : Nat := f32Mag x

/-- The binary32 pattern of a natural number. -/
def natF32 (n : Nat) : Nat := roundF32 false n 1

end Sys2Proof.Machine
end

