-- ==== Sys2Proof/Config.lean ====
section
/-! DEFINITION. What the spec leaves to the implementation: constants with no body, so that no proof can see their
values. -/

namespace Sys2Proof.Config

/-- The n-th free value of a run: used where the spec says that a value results and not which (the draw of R403, the
bytes of R343). A block's `free` counter gives a fresh argument each time. [DESIGN CHOICE, assumption 9] -/
opaque freeNat : Nat → Nat

/-- The Carat encoder's choice of tokens for the raw bytes of one block (chapter 13, The encoder: the choice depends
only on the raw bytes and is not part of the format). It is used only when it is a legal coding of those bytes. [DESIGN CHOICE, assumption 54] -/
opaque caratTokens : List (BitVec 8) → List (BitVec 8)

/-- The words L of a tensor as the comparing node knows them where no tensor table that it stores names the tensor
(R171 compares with L; no rule says how the node learns it). [DEDUCED, assumption 36] -/
opaque tensorWords : Nat → Nat

/-- The address strap of the sideband, sampled at the release of rst_por_n (R428, Table 17.6). [DEDUCED, assumption 39] -/
opaque smbAddr : BitVec 2

end Sys2Proof.Config
end

