-- ==== Sys2Proof/Machine/Keys.lean ====
section
/-! DEFINITION. The address of every object of the dictionary, index × 256 + subindex, under the name its defining
table gives it (a range of objects is named by its first). Names that two chapters share carry the prefix red
(0x1000), ser (0x1400), rul (0x2200) or flt (0x3400) in the second. -/

namespace Sys2Proof.Machine.K

/-- 0x0001:01 dictionary_format. -/
abbrev dictionaryFormat : Nat := 0x000101
/-- 0x0001:02 object_count. -/
abbrev objectCount : Nat := 0x000102
/-- 0x0001:03 requests_refused_role. -/
abbrev requestsRefusedRole : Nat := 0x000103
/-- 0x0001:04 envelopes_discarded. -/
abbrev envelopesDiscarded : Nat := 0x000104
/-- 0x0001:05 directory. -/
abbrev directory : Nat := 0x000105
/-- 0x0010:01 to 0x0010:20 role_entry. -/
abbrev roleEntry : Nat := 0x001001
/-- 0x0100:01 version. -/
abbrev version : Nat := 0x010001
/-- 0x0100:02 build_kind. -/
abbrev buildKind : Nat := 0x010002
/-- 0x0100:03 channel_count. -/
abbrev channelCount : Nat := 0x010003
/-- 0x0100:04 core_clock_khz. -/
abbrev coreClockKhz : Nat := 0x010004
/-- 0x0100:05 sram_kib. -/
abbrev sramKib : Nat := 0x010005
/-- 0x0100:06 dram_mib. -/
abbrev dramMib : Nat := 0x010006
/-- 0x0100:07 series_max. -/
abbrev seriesMax : Nat := 0x010007
/-- 0x0100:08 leaf_slots. -/
abbrev leafSlots : Nat := 0x010008
/-- 0x0100:09 part_designation. -/
abbrev partDesignation : Nat := 0x010009
/-- 0x0100:0A unit_serial. -/
abbrev unitSerial : Nat := 0x01000A
/-- 0x0100:0B directory_check. -/
abbrev directoryCheck : Nat := 0x01000B
/-- 0x0200:01 bringup_state. -/
abbrev bringupState : Nat := 0x020001
/-- 0x0200:02 bringup_failure. -/
abbrev bringupFailure : Nat := 0x020002
/-- 0x0200:03 last_reset_kind. -/
abbrev lastResetKind : Nat := 0x020003
/-- 0x0200:04 reset_request. -/
abbrev resetRequest : Nat := 0x020004
/-- 0x0200:05 fast_path_count. -/
abbrev fastPathCount : Nat := 0x020005
/-- 0x0200:06 ready_ms. -/
abbrev readyMs : Nat := 0x020006
/-- 0x0200:10 lanes_per_port (channel). -/
abbrev lanesPerPort : Nat := 0x020010
/-- 0x0200:11 ports_qualified (channel). -/
abbrev portsQualified : Nat := 0x020011
/-- 0x0200:12 lane_errors (channel). -/
abbrev laneErrors : Nat := 0x020012
/-- 0x0200:13 requalifications (channel). -/
abbrev requalifications : Nat := 0x020013
/-- 0x0200:14 frames_aborted. -/
abbrev framesAborted : Nat := 0x020014
/-- 0x0200:20 join_assign (leaf). -/
abbrev joinAssign : Nat := 0x020020
/-- 0x0200:21 move_parent (leaf). -/
abbrev moveParent : Nat := 0x020021
/-- 0x0200:22 join_refusals (channel). -/
abbrev joinRefusals : Nat := 0x020022
/-- 0x0200:23 last_join_refusal (channel). -/
abbrev lastJoinRefusal : Nat := 0x020023
/-- 0x0200:24 join_retry_frames (channel). -/
abbrev joinRetryFrames : Nat := 0x020024
/-- 0x0200:25 repair_add (leaf). -/
abbrev repairAdd : Nat := 0x020025
/-- 0x0200:26 agg_table_check (channel). -/
abbrev aggTableCheck : Nat := 0x020026
/-- 0x0200:30 withdraw_leaves (channel). -/
abbrev withdrawLeaves : Nat := 0x020030
/-- 0x0200:31 withdraw_channel (channel). -/
abbrev withdrawChannel : Nat := 0x020031
/-- 0x0200:32 withdrawn (channel). -/
abbrev withdrawn : Nat := 0x020032
/-- 0x0200:33 member_leave (channel). -/
abbrev memberLeave : Nat := 0x020033
/-- 0x0200:34 removal_frames (channel). -/
abbrev removalFrames : Nat := 0x020034
/-- 0x0200:35 removals (channel). -/
abbrev removals : Nat := 0x020035
/-- 0x0200:36 removal_ready (tray-level). -/
abbrev removalReady : Nat := 0x020036
/-- 0x0200:40 fleet_ledger (channel). -/
abbrev fleetLedger : Nat := 0x020040
/-- 0x0200:41 ledger_entries (channel). -/
abbrev ledgerEntries : Nat := 0x020041
/-- 0x0200:42 ledger_unrecorded (channel). -/
abbrev ledgerUnrecorded : Nat := 0x020042
/-- 0x0200:50 clasp_held (channel). -/
abbrev claspHeld : Nat := 0x020050
/-- 0x0200:51 clasp_epoch (channel). -/
abbrev claspEpoch : Nat := 0x020051
/-- 0x0200:52 clasp_holder (channel). -/
abbrev claspHolder : Nat := 0x020052
/-- 0x0200:53 clasp_collisions (channel). -/
abbrev claspCollisions : Nat := 0x020053
/-- 0x0200:54 clasp_depositions (channel). -/
abbrev claspDepositions : Nat := 0x020054
/-- 0x0200:55 clasp_missed (channel). -/
abbrev claspMissed : Nat := 0x020055
/-- 0x0300:01 time_a. -/
abbrev timeA : Nat := 0x030001
/-- 0x0300:02 time_b. -/
abbrev timeB : Nat := 0x030002
/-- 0x0300:03 active_domain. -/
abbrev activeDomain : Nat := 0x030003
/-- 0x0300:04 time_mode. -/
abbrev timeMode : Nat := 0x030004
/-- 0x0300:05 domain_number_a. -/
abbrev domainNumberA : Nat := 0x030005
/-- 0x0300:06 domain_number_b. -/
abbrev domainNumberB : Nat := 0x030006
/-- 0x0300:07 major_sdo_id. -/
abbrev majorSdoId : Nat := 0x030007
/-- 0x0300:08 step_threshold_ns. -/
abbrev stepThresholdNs : Nat := 0x030008
/-- 0x0300:09 slew_limit_ppb. -/
abbrev slewLimitPpb : Nat := 0x030009
/-- 0x0300:0A guard_threshold_ns. -/
abbrev guardThresholdNs : Nat := 0x03000A
/-- 0x0300:0B guard_accept. -/
abbrev guardAccept : Nat := 0x03000B
/-- 0x0300:0C guard_refusals. -/
abbrev guardRefusals : Nat := 0x03000C
/-- 0x0300:0D dual_switch_limit_ns. -/
abbrev dualSwitchLimitNs : Nat := 0x03000D
/-- 0x0300:0E announce_timeout. -/
abbrev announceTimeout : Nat := 0x03000E
/-- 0x0300:0F holdover_budget_ms. -/
abbrev holdoverBudgetMs : Nat := 0x03000F
/-- 0x0300:10 asymmetry_ns. -/
abbrev asymmetryNs : Nat := 0x030010
/-- 0x0300:11 servo_state_a. -/
abbrev servoStateA : Nat := 0x030011
/-- 0x0300:12 servo_state_b. -/
abbrev servoStateB : Nat := 0x030012
/-- 0x0300:13 offset_a_ns. -/
abbrev offsetANs : Nat := 0x030013
/-- 0x0300:14 offset_b_ns. -/
abbrev offsetBNs : Nat := 0x030014
/-- 0x0300:15 path_delay_a_ns. -/
abbrev pathDelayANs : Nat := 0x030015
/-- 0x0300:16 path_delay_b_ns. -/
abbrev pathDelayBNs : Nat := 0x030016
/-- 0x0300:17 gm_identity_a. -/
abbrev gmIdentityA : Nat := 0x030017
/-- 0x0300:18 gm_identity_b. -/
abbrev gmIdentityB : Nat := 0x030018
/-- 0x0300:19 holdover_elapsed_ms. -/
abbrev holdoverElapsedMs : Nat := 0x030019
/-- 0x0300:1A alignment_assured. -/
abbrev alignmentAssured : Nat := 0x03001A
/-- 0x0300:1B switch_count. -/
abbrev switchCount : Nat := 0x03001B
/-- 0x0300:1C tsq_depth. -/
abbrev tsqDepth : Nat := 0x03001C
/-- 0x0300:1D tsq_pop. -/
abbrev tsqPop : Nat := 0x03001D
/-- 0x0300:1E tsq_overflow. -/
abbrev tsqOverflow : Nat := 0x03001E
/-- 0x0300:1F unsupported_msgs. -/
abbrev unsupportedMsgs : Nat := 0x03001F
/-- 0x0300:20 pps_enable (tray build). -/
abbrev ppsEnable : Nat := 0x030020
/-- 0x0300:21 pps_delay_ns (tray build). -/
abbrev ppsDelayNs : Nat := 0x030021
/-- 0x0400:01 frame_period_us. -/
abbrev framePeriodUs : Nat := 0x040001
/-- 0x0400:02 frame_now. -/
abbrev frameNow : Nat := 0x040002
/-- 0x0400:03 frame_period_active. -/
abbrev framePeriodActive : Nat := 0x040003
/-- 0x0400:04 short_count. -/
abbrev shortCount : Nat := 0x040004
/-- 0x0400:05 last_short_frame. -/
abbrev lastShortFrame : Nat := 0x040005
/-- 0x0400:06 last_short_causes. -/
abbrev lastShortCauses : Nat := 0x040006
/-- 0x0400:07 missed_count. -/
abbrev missedCount : Nat := 0x040007
/-- 0x0400:08 short_run. -/
abbrev shortRun : Nat := 0x040008
/-- 0x0400:09 short_run_limit. -/
abbrev shortRunLimit : Nat := 0x040009
/-- 0x0500:01 txn_open_count. -/
abbrev txnOpenCount : Nat := 0x050001
/-- 0x0500:02 txn_committed_count. -/
abbrev txnCommittedCount : Nat := 0x050002
/-- 0x0500:03 txn_open_timeout. -/
abbrev txnOpenTimeout : Nat := 0x050003
/-- 0x0500:04 last_apply_fail_txn. -/
abbrev lastApplyFailTxn : Nat := 0x050004
/-- 0x0500:05 last_apply_fail_status. -/
abbrev lastApplyFailStatus : Nat := 0x050005
/-- 0x0500:06 apply_fail_count. -/
abbrev applyFailCount : Nat := 0x050006
/-- 0x0500:07 last_apply_fail_source. -/
abbrev lastApplyFailSource : Nat := 0x050007
/-- 0x0500:10 fleet_seq_next (fleet root). -/
abbrev fleetSeqNext : Nat := 0x050010
/-- 0x0500:11 guard_frames. -/
abbrev guardFrames : Nat := 0x050011
/-- 0x0500:12 fleet_in_flight (fleet root). -/
abbrev fleetInFlight : Nat := 0x050012
/-- 0x0500:13 compensate_count (fleet root). -/
abbrev compensateCount : Nat := 0x050013
/-- 0x0500:14 compensate_retry. -/
abbrev compensateRetry : Nat := 0x050014
/-- 0x0500:15 undo_horizon. -/
abbrev undoHorizon : Nat := 0x050015
/-- 0x0500:16 token_queries. -/
abbrev tokenQueries : Nat := 0x050016
/-- 0x0500:17 last_fleet_refusal_node (fleet root). -/
abbrev lastFleetRefusalNode : Nat := 0x050017
/-- 0x0500:18 last_fleet_refusal_status (fleet root). -/
abbrev lastFleetRefusalStatus : Nat := 0x050018
/-- 0x0500:20 partition_id. -/
abbrev partitionId : Nat := 0x050020
/-- 0x0500:21 job_tag. -/
abbrev jobTag : Nat := 0x050021
/-- 0x0500:80 to 0x0500:FF pod_partition (fleet root), pod 0 to 127. -/
abbrev podPartition : Nat := 0x050080
/-- 0x0800:01 core_count. -/
abbrev coreCount : Nat := 0x080001
/-- 0x0800:02 heartbeat_mask. -/
abbrev heartbeatMask : Nat := 0x080002
/-- 0x0800:03 lost_frames. -/
abbrev lostFrames : Nat := 0x080003
/-- 0x0800:04 barrier_base_set. -/
abbrev barrierBaseSet : Nat := 0x080004
/-- 0x0800:05 barrier_records_max. -/
abbrev barrierRecordsMax : Nat := 0x080005
/-- 0x0800:06 barrier_dropped. -/
abbrev barrierDropped : Nat := 0x080006
/-- 0x0800:07 beats_discarded. -/
abbrev beatsDiscarded : Nat := 0x080007
/-- 0x0800:08 credit_violations. -/
abbrev creditViolations : Nat := 0x080008
/-- 0x0800:09 saturations. -/
abbrev saturations : Nat := 0x080009
/-- 0x0800:0A series_swap. -/
abbrev seriesSwap : Nat := 0x08000A
/-- 0x0800:10 series_table_standby. -/
abbrev seriesTableStandby : Nat := 0x080010
/-- 0x0800:11 series_table_active. -/
abbrev seriesTableActive : Nat := 0x080011
/-- 0x0800:12 series_count. -/
abbrev seriesCount : Nat := 0x080012
/-- 0x0800:13 series_missing_budget. -/
abbrev seriesMissingBudget : Nat := 0x080013
/-- 0x0A00:01 sample_ratio. -/
abbrev sampleRatio : Nat := 0x0A0001
/-- 0x0A00:02 tolerance_mode. -/
abbrev toleranceMode : Nat := 0x0A0002
/-- 0x0A00:03 tolerance_fixed. -/
abbrev toleranceFixed : Nat := 0x0A0003
/-- 0x0A00:04 tolerance_floor. -/
abbrev toleranceFloor : Nat := 0x0A0004
/-- 0x0A00:05 tolerance_ceiling. -/
abbrev toleranceCeiling : Nat := 0x0A0005
/-- 0x0A00:06 learn_entries. -/
abbrev learnEntries : Nat := 0x0A0006
/-- 0x0A00:07 margin_sixteenths. -/
abbrev marginSixteenths : Nat := 0x0A0007
/-- 0x0A00:08 relearn. -/
abbrev relearn : Nat := 0x0A0008
/-- 0x0A00:09 events_max. -/
abbrev eventsMax : Nat := 0x0A0009
/-- 0x0A00:0A config_warning. -/
abbrev configWarning : Nat := 0x0A000A
/-- 0x0A00:10 beats_received. -/
abbrev beatsReceived : Nat := 0x0A0010
/-- 0x0A00:11 beats_selected. -/
abbrev beatsSelected : Nat := 0x0A0011
/-- 0x0A00:12 beats_skipped_dark. -/
abbrev beatsSkippedDark : Nat := 0x0A0012
/-- 0x0A00:13 entries_compared. -/
abbrev entriesCompared : Nat := 0x0A0013
/-- 0x0A00:14 beats_unchecked. -/
abbrev beatsUnchecked : Nat := 0x0A0014
/-- 0x0A00:15 mismatch_beats. -/
abbrev mismatchBeats : Nat := 0x0A0015
/-- 0x0A00:16 nonfinite_beats. -/
abbrev nonfiniteBeats : Nat := 0x0A0016
/-- 0x0A00:17 malformed_beats. -/
abbrev malformedBeats : Nat := 0x0A0017
/-- 0x0A00:18 events_dropped. -/
abbrev eventsDropped : Nat := 0x0A0018
/-- 0x0A00:19 cores_learned. -/
abbrev coresLearned : Nat := 0x0A0019
/-- 0x0A00:20 tolerance_table. -/
abbrev toleranceTable : Nat := 0x0A0020
/-- 0x0B00:01 tensor_swap. -/
abbrev tensorSwap : Nat := 0x0B0001
/-- 0x0B00:02 beats_overflowed. -/
abbrev beatsOverflowed : Nat := 0x0B0002
/-- 0x0B00:03 beats_unknown_tensor. -/
abbrev beatsUnknownTensor : Nat := 0x0B0003
/-- 0x0B00:04 beats_out_of_range. -/
abbrev beatsOutOfRange : Nat := 0x0B0004
/-- 0x0B00:05 beats_stale_epoch. -/
abbrev beatsStaleEpoch : Nat := 0x0B0005
/-- 0x0B00:06 passes_reported. -/
abbrev passesReported : Nat := 0x0B0006
/-- 0x0B00:07 passes_damaged. -/
abbrev passesDamaged : Nat := 0x0B0007
/-- 0x0B00:08 repeat_differs. -/
abbrev repeatDiffers : Nat := 0x0B0008
/-- 0x0B00:09 records_max. -/
abbrev recordsMax : Nat := 0x0B0009
/-- 0x0B00:0A record_wait_frames. -/
abbrev recordWaitFrames : Nat := 0x0B000A
/-- 0x0B00:10 tensor_table_standby. -/
abbrev tensorTableStandby : Nat := 0x0B0010
/-- 0x0B00:11 tensor_table_active. -/
abbrev tensorTableActive : Nat := 0x0B0011
/-- 0x0B00:12 tensor_count. -/
abbrev tensorCount : Nat := 0x0B0012
/-- 0x0B00:20 keys_compared (channel). -/
abbrev keysCompared : Nat := 0x0B0020
/-- 0x0B00:21 divergences (channel). -/
abbrev divergences : Nat := 0x0B0021
/-- 0x0B00:22 sides_agreed (channel). -/
abbrev sidesAgreed : Nat := 0x0B0022
/-- 0x0B00:23 splits (channel). -/
abbrev splits : Nat := 0x0B0023
/-- 0x0B00:24 transits (channel). -/
abbrev transits : Nat := 0x0B0024
/-- 0x0B00:25 incompletes (channel). -/
abbrev incompletes : Nat := 0x0B0025
/-- 0x0B00:26 keys_open (channel). -/
abbrev keysOpen : Nat := 0x0B0026
/-- 0x0B00:27 keys_refused (channel). -/
abbrev keysRefused : Nat := 0x0B0027
/-- 0x0B00:28 records_discarded (channel). -/
abbrev recordsDiscarded : Nat := 0x0B0028
/-- 0x0C00:01 trace_command. -/
abbrev traceCommand : Nat := 0x0C0001
/-- 0x0C00:02 trace_authorised. -/
abbrev traceAuthorised : Nat := 0x0C0002
/-- 0x0C00:03 trace_state. -/
abbrev traceState : Nat := 0x0C0003
/-- 0x0C00:04 privilege_exclude. -/
abbrev privilegeExclude : Nat := 0x0C0004
/-- 0x0C00:05 timestamp_interval_ns. -/
abbrev timestampIntervalNs : Nat := 0x0C0005
/-- 0x0C00:06 stop_delay_ns. -/
abbrev stopDelayNs : Nat := 0x0C0006
/-- 0x0C00:07 stall_enable. -/
abbrev stallEnable : Nat := 0x0C0007
/-- 0x0C00:08 stall_budget_cycles. -/
abbrev stallBudgetCycles : Nat := 0x0C0008
/-- 0x0C00:10 trigger_enable. -/
abbrev triggerEnable : Nat := 0x0C0010
/-- 0x0C00:11 trigger_code. -/
abbrev triggerCode : Nat := 0x0C0011
/-- 0x0C00:12 trigger_code_mask. -/
abbrev triggerCodeMask : Nat := 0x0C0012
/-- 0x0C00:13 trigger_core. -/
abbrev triggerCore : Nat := 0x0C0013
/-- 0x0C00:20 trace_buffer. -/
abbrev traceBuffer : Nat := 0x0C0020
/-- 0x0C00:21 bytes_held. -/
abbrev bytesHeld : Nat := 0x0C0021
/-- 0x0C00:22 trigger_time. -/
abbrev triggerTime : Nat := 0x0C0022
/-- 0x0C00:23 wraps. -/
abbrev wraps : Nat := 0x0C0023
/-- 0x0C00:30 events_written. -/
abbrev eventsWritten : Nat := 0x0C0030
/-- 0x0C00:31 events_excluded. -/
abbrev eventsExcluded : Nat := 0x0C0031
/-- 0x0C00:32 events_lost. -/
abbrev eventsLost : Nat := 0x0C0032
/-- 0x0C00:33 beats_idle. -/
abbrev beatsIdle : Nat := 0x0C0033
/-- 0x0C00:34 stall_cycles. -/
abbrev stallCycles : Nat := 0x0C0034
/-- 0x0C00:35 stall_budget_hits. -/
abbrev stallBudgetHits : Nat := 0x0C0035
/-- 0x0C00:36 triggers_ignored. -/
abbrev triggersIgnored : Nat := 0x0C0036
/-- 0x0C00:40 trace_trigger_leaves (channel). -/
abbrev traceTriggerLeaves : Nat := 0x0C0040
/-- 0x0C00:41 trigger_refusals (channel). -/
abbrev triggerRefusals : Nat := 0x0C0041
/-- 0x0E00:01 fence_authority. -/
abbrev fenceAuthority : Nat := 0x0E0001
/-- 0x0E00:02 fence_vector. -/
abbrev fenceVector : Nat := 0x0E0002
/-- 0x0E00:03 ack_vector. -/
abbrev ackVector : Nat := 0x0E0003
/-- 0x0E00:04 fence_ack_timeout. -/
abbrev fenceAckTimeout : Nat := 0x0E0004
/-- 0x0E00:05 fence_ack_failures. -/
abbrev fenceAckFailures : Nat := 0x0E0005
/-- 0x0E00:06 spurious_acks. -/
abbrev spuriousAcks : Nat := 0x0E0006
/-- 0x0E00:07 routing_notify. -/
abbrev routingNotify : Nat := 0x0E0007
/-- 0x0E00:08 routing_subscriber. -/
abbrev routingSubscriber : Nat := 0x0E0008
/-- 0x0E00:09 cores_lost. -/
abbrev coresLost : Nat := 0x0E0009
/-- 0x0E00:0A lost_txn_retries. -/
abbrev lostTxnRetries : Nat := 0x0E000A
/-- 0x0E00:11 region_ack_timeout. -/
abbrev regionAckTimeout : Nat := 0x0E0011
/-- 0x0E00:12 region_settle. -/
abbrev regionSettle : Nat := 0x0E0012
/-- 0x0E00:13 region_unacked. -/
abbrev regionUnacked : Nat := 0x0E0013
/-- 0x0E00:14 region_mismatches. -/
abbrev regionMismatches : Nat := 0x0E0014
/-- 0x0E00:20 region_change_spacing (channel). -/
abbrev regionChangeSpacing : Nat := 0x0E0020
/-- 0x0E00:21 last_region_change (channel). -/
abbrev lastRegionChange : Nat := 0x0E0021
/-- 0x0E10:01 region_map. -/
abbrev regionMap : Nat := 0x0E1001
/-- 0x1000:01 tree_role. -/
abbrev treeRole : Nat := 0x100001
/-- 0x1000:02 tray_number. -/
abbrev trayNumber : Nat := 0x100002
/-- 0x1000:03 channel_index. -/
abbrev channelIndex : Nat := 0x100003
/-- 0x1000:04 channel_id. -/
abbrev channelId : Nat := 0x100004
/-- 0x1000:05 pod_number (channel). -/
abbrev podNumber : Nat := 0x100005
/-- 0x1000:06 parent_active. -/
abbrev parentActive : Nat := 0x100006
/-- 0x1000:07 parent_standby. -/
abbrev parentStandby : Nat := 0x100007
/-- 0x1000:08 parent_in_use. -/
abbrev parentInUse : Nat := 0x100008
/-- 0x1000:09 role_successor (channel). -/
abbrev roleSuccessor : Nat := 0x100009
/-- 0x1000:0A pod_members (channel). -/
abbrev podMembers : Nat := 0x10000A
/-- 0x1000:0B late_horizon. -/
abbrev lateHorizon : Nat := 0x10000B
/-- 0x1000:0C parent_loss_frames. -/
abbrev parentLossFrames : Nat := 0x10000C
/-- 0x1000:0D return_frames. -/
abbrev returnFrames : Nat := 0x10000D
/-- 0x1000:0E journal_slots. -/
abbrev journalSlots : Nat := 0x10000E
/-- 0x1000:0F journal_acked. -/
abbrev journalAcked : Nat := 0x10000F
/-- 0x1000:10 leaf_id (leaf build only). -/
abbrev leafId : Nat := 0x100010
/-- 0x1000:20 packets_reduced (channel). -/
abbrev packetsReduced : Nat := 0x100020
/-- 0x1000:21 duplicates (channel). -/
abbrev duplicates : Nat := 0x100021
/-- 0x1000:22 overlaps (channel). -/
abbrev overlaps : Nat := 0x100022
/-- 0x1000:23 late_blocks (channel). -/
abbrev lateBlocks : Nat := 0x100023
/-- 0x1000:24 late_expired (channel). -/
abbrev lateExpired : Nat := 0x100024
/-- 0x1000:25 journal_overwrites. -/
abbrev journalOverwrites : Nat := 0x100025
/-- 0x1000:26 adoptions (channel). -/
abbrev adoptions : Nat := 0x100026
/-- 0x1000:27 parent_switches. -/
abbrev parentSwitches : Nat := 0x100027
/-- 0x1000:28 slot_conflicts (channel). -/
abbrev slotConflicts : Nat := 0x100028
/-- 0x1000:2A overrange_addends (channel). -/
abbrev overrangeAddends : Nat := 0x10002A
/-- 0x1000:2B credit_violations (channel). -/
abbrev redCreditViolations : Nat := 0x10002B
/-- 0x1000:2C absent_contributions (channel). -/
abbrev absentContributions : Nat := 0x10002C
/-- 0x1000:2D adoptions_refused (channel). -/
abbrev adoptionsRefused : Nat := 0x10002D
/-- 0x1000:30 agg_table_standby (channel). -/
abbrev aggTableStandby : Nat := 0x100030
/-- 0x1000:31 agg_table_active (channel). -/
abbrev aggTableActive : Nat := 0x100031
/-- 0x1000:32 agg_swap (channel). -/
abbrev aggSwap : Nat := 0x100032
/-- 0x1000:33 agg_slots (channel). -/
abbrev aggSlots : Nat := 0x100033
/-- 0x1400:01 series_swap. -/
abbrev serSeriesSwap : Nat := 0x140001
/-- 0x1400:02 series_count. -/
abbrev serSeriesCount : Nat := 0x140002
/-- 0x1400:03 handoff_count. -/
abbrev handoffCount : Nat := 0x140003
/-- 0x1400:05 drift_list_max. -/
abbrev driftListMax : Nat := 0x140005
/-- 0x1400:10 series_table_standby. -/
abbrev serSeriesTableStandby : Nat := 0x140010
/-- 0x1400:11 series_table_active. -/
abbrev serSeriesTableActive : Nat := 0x140011
/-- 0x1400:20 param_sets. -/
abbrev paramSets : Nat := 0x140020
/-- 0x1400:30 state_select. -/
abbrev serStateSelect : Nat := 0x140030
/-- 0x1400:31 state_read. -/
abbrev serStateRead : Nat := 0x140031
/-- 0x1400:40 updates. -/
abbrev updates : Nat := 0x140040
/-- 0x1400:41 absent_inputs. -/
abbrev absentInputs : Nat := 0x140041
/-- 0x1400:42 extract_mismatches. -/
abbrev extractMismatches : Nat := 0x140042
/-- 0x1400:43 gap_restarts. -/
abbrev gapRestarts : Nat := 0x140043
/-- 0x1400:44 alarms. -/
abbrev alarms : Nat := 0x140044
/-- 0x1400:45 drift_list_dropped. -/
abbrev driftListDropped : Nat := 0x140045
/-- 0x1400:46 series_not_reached. -/
abbrev seriesNotReached : Nat := 0x140046
/-- 0x1400:47 nonfinite_resets. -/
abbrev nonfiniteResets : Nat := 0x140047
/-- 0x1400:48 lane_cycles_last. -/
abbrev laneCyclesLast : Nat := 0x140048
/-- 0x1800:01 plan_width. -/
abbrev planWidth : Nat := 0x180001
/-- 0x1800:02 row_sets. -/
abbrev rowSets : Nat := 0x180002
/-- 0x1800:03 facets_total. -/
abbrev facetsTotal : Nat := 0x180003
/-- 0x1800:10 rows_built. -/
abbrev rowsBuilt : Nat := 0x180010
/-- 0x1800:11 rows_not_built. -/
abbrev rowsNotBuilt : Nat := 0x180011
/-- 0x1800:12 rows_stale_input. -/
abbrev rowsStaleInput : Nat := 0x180012
/-- 0x1800:13 missing_codes. -/
abbrev missingCodes : Nat := 0x180013
/-- 0x1800:14 source_unbound. -/
abbrev sourceUnbound : Nat := 0x180014
/-- 0x1800:15 facet_cycles_last. -/
abbrev facetCyclesLast : Nat := 0x180015
/-- 0x1800:30 row_select. -/
abbrev rowSelect : Nat := 0x180030
/-- 0x1800:31 row_read. -/
abbrev rowRead : Nat := 0x180031
/-- 0x1A00:01 image_swap. -/
abbrev imageSwap : Nat := 0x1A0001
/-- 0x1A00:02 active_image_id. -/
abbrev activeImageId : Nat := 0x1A0002
/-- 0x1A00:03 active_node_words. -/
abbrev activeNodeWords : Nat := 0x1A0003
/-- 0x1A00:04 active_trees. -/
abbrev activeTrees : Nat := 0x1A0004
/-- 0x1A00:05 active_period_us. -/
abbrev activePeriodUs : Nat := 0x1A0005
/-- 0x1A00:06 restore_status. -/
abbrev restoreStatus : Nat := 0x1A0006
/-- 0x1A00:0F active_image. -/
abbrev activeImage : Nat := 0x1A000F
/-- 0x1A00:10 standby_image. -/
abbrev standbyImage : Nat := 0x1A0010
/-- 0x1A00:11 standby_state. -/
abbrev standbyState : Nat := 0x1A0011
/-- 0x1A00:12 standby_refusal. -/
abbrev standbyRefusal : Nat := 0x1A0012
/-- 0x1A00:13 standby_refusal_index. -/
abbrev standbyRefusalIndex : Nat := 0x1A0013
/-- 0x1A00:14 standby_image_id. -/
abbrev standbyImageId : Nat := 0x1A0014
/-- 0x1A00:20 evaluations_last. -/
abbrev evaluationsLast : Nat := 0x1A0020
/-- 0x1A00:21 evaluations. -/
abbrev evaluations : Nat := 0x1A0021
/-- 0x1A00:22 rows_scored. -/
abbrev rowsScored : Nat := 0x1A0022
/-- 0x1A00:23 rows_stale. -/
abbrev rowsStale : Nat := 0x1A0023
/-- 0x1A00:24 rows_all_missing. -/
abbrev rowsAllMissing : Nat := 0x1A0024
/-- 0x1A00:25 swaps. -/
abbrev swaps : Nat := 0x1A0025
/-- 0x1A00:30 score_select. -/
abbrev scoreSelect : Nat := 0x1A0030
/-- 0x1A00:31 score_read. -/
abbrev scoreRead : Nat := 0x1A0031
/-- 0x2000:03 barrier_window. -/
abbrev barrierWindow : Nat := 0x200003
/-- 0x2000:04 min_arrivals. -/
abbrev minArrivals : Nat := 0x200004
/-- 0x2000:05 late_threshold_ns. -/
abbrev lateThresholdNs : Nat := 0x200005
/-- 0x2000:06 gain_shift. -/
abbrev gainShift : Nat := 0x200006
/-- 0x2000:07 last_n. -/
abbrev lastN : Nat := 0x200007
/-- 0x2000:08 grace_frames. -/
abbrev graceFrames : Nat := 0x200008
/-- 0x2000:09 top_slot. -/
abbrev topSlot : Nat := 0x200009
/-- 0x2000:0A min_instances. -/
abbrev minInstances : Nat := 0x20000A
/-- 0x2000:20 instances_scored. -/
abbrev instancesScored : Nat := 0x200020
/-- 0x2000:21 records_taken. -/
abbrev recordsTaken : Nat := 0x200021
/-- 0x2000:22 instances_void. -/
abbrev instancesVoid : Nat := 0x200022
/-- 0x2000:23 leaves_removed. -/
abbrev leavesRemoved : Nat := 0x200023
/-- 0x2000:24 records_refused. -/
abbrev recordsRefused : Nat := 0x200024
/-- 0x2000:25 open_instances. -/
abbrev openInstances : Nat := 0x200025
/-- 0x2000:30 entry_select. -/
abbrev entrySelect : Nat := 0x200030
/-- 0x2000:31 entry_read. -/
abbrev entryRead : Nat := 0x200031
/-- 0x2000:40 suspect_set. -/
abbrev suspectSet : Nat := 0x200040
/-- 0x2000:41 suspect_leaves. -/
abbrev suspectLeaves : Nat := 0x200041
/-- 0x2000:42 suspect_clear. -/
abbrev suspectClear : Nat := 0x200042
/-- 0x2200:01 image_swap. -/
abbrev rulImageSwap : Nat := 0x220001
/-- 0x2200:02 active_image_id. -/
abbrev rulActiveImageId : Nat := 0x220002
/-- 0x2200:03 rule_count. -/
abbrev ruleCount : Nat := 0x220003
/-- 0x2200:05 txn_per_frame. -/
abbrev txnPerFrame : Nat := 0x220005
/-- 0x2200:06 restore_status. -/
abbrev rulRestoreStatus : Nat := 0x220006
/-- 0x2200:0F active_image. -/
abbrev rulActiveImage : Nat := 0x22000F
/-- 0x2200:10 standby_image. -/
abbrev rulStandbyImage : Nat := 0x220010
/-- 0x2200:11 standby_state. -/
abbrev rulStandbyState : Nat := 0x220011
/-- 0x2200:12 standby_refusal. -/
abbrev rulStandbyRefusal : Nat := 0x220012
/-- 0x2200:13 standby_refusal_index. -/
abbrev rulStandbyRefusalIndex : Nat := 0x220013
/-- 0x2200:20 actions_admitted. -/
abbrev actionsAdmitted : Nat := 0x220020
/-- 0x2200:21 attempts_deferred. -/
abbrev attemptsDeferred : Nat := 0x220021
/-- 0x2200:22 attempts_conflicted. -/
abbrev attemptsConflicted : Nat := 0x220022
/-- 0x2200:23 commit_refusals. -/
abbrev commitRefusals : Nat := 0x220023
/-- 0x2200:24 cycles_last. -/
abbrev cyclesLast : Nat := 0x220024
/-- 0x2200:30 state_select. -/
abbrev rulStateSelect : Nat := 0x220030
/-- 0x2200:31 state_read. -/
abbrev rulStateRead : Nat := 0x220031
/-- 0x2200:50 notify. -/
abbrev notify : Nat := 0x220050
/-- 0x2200:60 loss_submit. -/
abbrev lossSubmit : Nat := 0x220060
/-- 0x2200:61 loss_slot_base. -/
abbrev lossSlotBase : Nat := 0x220061
/-- 0x2200:62 loss_window. -/
abbrev lossWindow : Nat := 0x220062
/-- 0x2200:63 last_step. -/
abbrev lastStep : Nat := 0x220063
/-- 0x2200:64 submissions_refused. -/
abbrev submissionsRefused : Nat := 0x220064
/-- 0x2200:70 step_map. -/
abbrev stepMap : Nat := 0x220070
/-- 0x2400:01 pool_free_bytes. -/
abbrev poolFreeBytes : Nat := 0x240001
/-- 0x2400:02 packets_sent. -/
abbrev packetsSent : Nat := 0x240002
/-- 0x2400:03 bytes_sent. -/
abbrev bytesSent : Nat := 0x240003
/-- 0x2400:04 port_return_frames. -/
abbrev portReturnFrames : Nat := 0x240004
/-- 0x2400:05 notify_unrouted. -/
abbrev notifyUnrouted : Nat := 0x240005
/-- 0x2400:06 disabled_drops. -/
abbrev disabledDrops : Nat := 0x240006
/-- 0x2400:07 tail_drops. -/
abbrev tailDrops : Nat := 0x240007
/-- 0x2400:08 yellow_drops. -/
abbrev yellowDrops : Nat := 0x240008
/-- 0x2400:09 red_drops. -/
abbrev redDrops : Nat := 0x240009
/-- 0x2400:0A pool_drops. -/
abbrev poolDrops : Nat := 0x24000A
/-- 0x2400:10 port0_state. -/
abbrev port0State : Nat := 0x240010
/-- 0x2400:11 port1_state. -/
abbrev port1State : Nat := 0x240011
/-- 0x2400:20 port0_shaper. -/
abbrev port0Shaper : Nat := 0x240020
/-- 0x2400:21 port1_shaper. -/
abbrev port1Shaper : Nat := 0x240021
/-- 0x2400:30 queue_select. -/
abbrev queueSelect : Nat := 0x240030
/-- 0x2400:31 queue_read. -/
abbrev queueRead : Nat := 0x240031
/-- 0x2400:32 subscriber_select. -/
abbrev subscriberSelect : Nat := 0x240032
/-- 0x2400:33 subscriber_read. -/
abbrev subscriberRead : Nat := 0x240033
/-- 0x2800:01 raw_bytes_in. -/
abbrev rawBytesIn : Nat := 0x280001
/-- 0x2800:02 carat_bytes_out. -/
abbrev caratBytesOut : Nat := 0x280002
/-- 0x2800:03 blocks_coded. -/
abbrev blocksCoded : Nat := 0x280003
/-- 0x2800:04 blocks_stored. -/
abbrev blocksStored : Nat := 0x280004
/-- 0x2800:05 streams_ended. -/
abbrev streamsEnded : Nat := 0x280005
/-- 0x2800:06 staging_refusals. -/
abbrev stagingRefusals : Nat := 0x280006
/-- 0x2800:07 staging_bytes. -/
abbrev stagingBytes : Nat := 0x280007
/-- 0x2800:08 decoded_bytes_in. -/
abbrev decodedBytesIn : Nat := 0x280008
/-- 0x2800:09 decoded_bytes_out. -/
abbrev decodedBytesOut : Nat := 0x280009
/-- 0x2800:0A decode_errors. -/
abbrev decodeErrors : Nat := 0x28000A
/-- 0x2800:0B not_smaller. -/
abbrev notSmaller : Nat := 0x28000B
/-- 0x2800:10 job_submit. -/
abbrev jobSubmit : Nat := 0x280010
/-- 0x2800:11 jobs_queued. -/
abbrev jobsQueued : Nat := 0x280011
/-- 0x2800:12 job_result. -/
abbrev jobResult : Nat := 0x280012
/-- 0x2800:13 results_lost. -/
abbrev resultsLost : Nat := 0x280013
/-- 0x2800:20 trace_fetch. -/
abbrev traceFetch : Nat := 0x280020
/-- 0x2800:21 fetch_failures. -/
abbrev fetchFailures : Nat := 0x280021
/-- 0x2800:22 fetch_reads_per_frame. -/
abbrev fetchReadsPerFrame : Nat := 0x280022
/-- 0x2800:40 to 0x2800:4F stream_entry, output stream 0 to 15. -/
abbrev streamEntry : Nat := 0x280040
/-- 0x2C00:01 mover_count. -/
abbrev moverCount : Nat := 0x2C0001
/-- 0x2C00:02 mover_errors. -/
abbrev moverErrors : Nat := 0x2C0002
/-- 0x2C00:03 mmp_timeouts (channel). -/
abbrev mmpTimeouts : Nat := 0x2C0003
/-- 0x2C00:04 mmp_late_responses (channel). -/
abbrev mmpLateResponses : Nat := 0x2C0004
/-- 0x2C10:01 to 0x2C17:01 start, mover m. -/
abbrev start : Nat := 0x2C1001
/-- 0x2C10:02 to 0x2C17:02 stop, mover m. -/
abbrev stop : Nat := 0x2C1002
/-- 0x2C10:03 to 0x2C17:03 state, mover m. -/
abbrev state : Nat := 0x2C1003
/-- 0x2C10:04 to 0x2C17:04 current, mover m. -/
abbrev current : Nat := 0x2C1004
/-- 0x2C10:05 to 0x2C17:05 descriptors_done, mover m. -/
abbrev descriptorsDone : Nat := 0x2C1005
/-- 0x2C10:06 to 0x2C17:06 bytes_moved, mover m. -/
abbrev bytesMoved : Nat := 0x2C1006
/-- 0x2C10:07 to 0x2C17:07 last_status, mover m. -/
abbrev lastStatus : Nat := 0x2C1007
/-- 0x3000:01 sram_corrected. -/
abbrev sramCorrected : Nat := 0x300001
/-- 0x3000:02 dram_corrected (channel). -/
abbrev dramCorrected : Nat := 0x300002
/-- 0x3000:05 last_uncorrectable. -/
abbrev lastUncorrectable : Nat := 0x300005
/-- 0x3000:10 repair_list. -/
abbrev repairList : Nat := 0x300010
/-- 0x3000:11 spares_used. -/
abbrev sparesUsed : Nat := 0x300011
/-- 0x3000:20 to 0x3000:23 verify_key, slot 0 to 3 (channel). -/
abbrev verifyKey : Nat := 0x300020
/-- 0x3000:30 store_generation (channel). -/
abbrev storeGeneration : Nat := 0x300030
/-- 0x3000:31 store_bytes_used (channel). -/
abbrev storeBytesUsed : Nat := 0x300031
/-- 0x3000:32 flash_write_failures (channel). -/
abbrev flashWriteFailures : Nat := 0x300032
/-- 0x3400:01 records_taken. -/
abbrev fltRecordsTaken : Nat := 0x340001
/-- 0x3400:02 locations_tracked. -/
abbrev locationsTracked : Nat := 0x340002
/-- 0x3400:03 permanent_count. -/
abbrev permanentCount : Nat := 0x340003
/-- 0x3400:04 fence_permanent. -/
abbrev fencePermanent : Nat := 0x340004
/-- 0x3400:05 log_spacing. -/
abbrev logSpacing : Nat := 0x340005
/-- 0x3400:06 log_dropped. -/
abbrev logDropped : Nat := 0x340006
/-- 0x3400:07 table_full. -/
abbrev tableFull : Nat := 0x340007
/-- 0x3400:08 clear_location. -/
abbrev clearLocation : Nat := 0x340008
/-- 0x3400:09 startup_failures. -/
abbrev startupFailures : Nat := 0x340009
/-- 0x3400:10 history_log. -/
abbrev historyLog : Nat := 0x340010
/-- 0x3400:11 location_select. -/
abbrev locationSelect : Nat := 0x340011
/-- 0x3400:12 location_read. -/
abbrev locationRead : Nat := 0x340012
/-- 0x3400:30 firmware_log_write. -/
abbrev firmwareLogWrite : Nat := 0x340030
/-- 0x3400:31 firmware_log. -/
abbrev firmwareLog : Nat := 0x340031
/-- 0x3800:01 power_state. -/
abbrev powerState : Nat := 0x380001
/-- 0x3800:02 power_state_now. -/
abbrev powerStateNow : Nat := 0x380002
/-- 0x3800:03 channel_wake (channel). -/
abbrev channelWake : Nat := 0x380003
/-- 0x3800:04 power_entries (channel). -/
abbrev powerEntries : Nat := 0x380004
/-- 0x3800:10 bus_mv (tray-level). -/
abbrev busMv : Nat := 0x380010
/-- 0x3800:11 bus_min_mv (tray-level). -/
abbrev busMinMv : Nat := 0x380011
/-- 0x3800:12 divider_ratio (tray-level). -/
abbrev dividerRatio : Nat := 0x380012
/-- 0x3800:13 droop_threshold_mv (tray-level). -/
abbrev droopThresholdMv : Nat := 0x380013
/-- 0x3800:14 droop_hysteresis_mv (tray-level). -/
abbrev droopHysteresisMv : Nat := 0x380014
/-- 0x3800:15 droop_recover_frames (tray-level). -/
abbrev droopRecoverFrames : Nat := 0x380015
/-- 0x3800:16 droop_fraction (tray-level). -/
abbrev droopFraction : Nat := 0x380016
/-- 0x3800:17 bus_floor_mv (tray-level). -/
abbrev busFloorMv : Nat := 0x380017
/-- 0x3800:18 bus_state (tray-level). -/
abbrev busState : Nat := 0x380018
/-- 0x3800:19 droop_events (tray-level). -/
abbrev droopEvents : Nat := 0x380019
/-- 0x3800:1A overrange_events (tray-level). -/
abbrev overrangeEvents : Nat := 0x38001A
/-- 0x3800:20 core_target_mv (tray-level). -/
abbrev coreTargetMv : Nat := 0x380020
/-- 0x3800:21 core_min_mv (tray-level). -/
abbrev coreMinMv : Nat := 0x380021
/-- 0x3800:22 core_max_mv (tray-level). -/
abbrev coreMaxMv : Nat := 0x380022
/-- 0x3800:23 core_measured_mv (tray-level). -/
abbrev coreMeasuredMv : Nat := 0x380023
/-- 0x3800:24 channel_need_mv (channel). -/
abbrev channelNeedMv : Nat := 0x380024
/-- 0x3800:25 margin_events (channel). -/
abbrev marginEvents : Nat := 0x380025
/-- 0x3800:30 die_temp (channel). -/
abbrev dieTemp : Nat := 0x380030
/-- 0x3800:31 die_temp_warn (channel). -/
abbrev dieTempWarn : Nat := 0x380031
/-- 0x3800:32 die_temp_max (channel). -/
abbrev dieTempMax : Nat := 0x380032
/-- 0x3800:40 wake_rate (channel). -/
abbrev wakeRate : Nat := 0x380040
/-- 0x3800:41 wake_depth (channel). -/
abbrev wakeDepth : Nat := 0x380041
/-- 0x3800:42 wake_level (channel). -/
abbrev wakeLevel : Nat := 0x380042
/-- 0x3800:43 wake_rate_effective (channel). -/
abbrev wakeRateEffective : Nat := 0x380043
/-- 0x3800:44 wake_request (channel). -/
abbrev wakeRequest : Nat := 0x380044
/-- 0x3800:45 wake_cost (channel). -/
abbrev wakeCost : Nat := 0x380045
/-- 0x3800:46 wake_queued (channel). -/
abbrev wakeQueued : Nat := 0x380046
/-- 0x3800:47 wake_grants (channel). -/
abbrev wakeGrants : Nat := 0x380047
/-- 0x3800:48 wake_withdrawn (channel). -/
abbrev wakeWithdrawn : Nat := 0x380048
/-- 0x3800:49 wake_returns (channel). -/
abbrev wakeReturns : Nat := 0x380049
/-- 0x3C00:01 loupe_select. -/
abbrev loupeSelect : Nat := 0x3C0001
/-- 0x3C00:02 instruments_enabled. -/
abbrev instrumentsEnabled : Nat := 0x3C0002
/-- 0x3C00:03 tap_idcode. -/
abbrev tapIdcode : Nat := 0x3C0003
/-- 0x4000:01 to 0x4007:80 core_control. -/
abbrev coreControl : Nat := 0x400001
/-- 0x4008:01 to 0x4008:20 region_control. -/
abbrev regionControl : Nat := 0x400801
/-- 0x4400:01 to 0x4400:FF group_entry (channel), group 0 to 254. -/
abbrev groupEntry : Nat := 0x440001
/-- 0x4800:01 to 0x481F:80 subscriber_entry. -/
abbrev subscriberEntry : Nat := 0x480001
/-- 0x4900:01 to 0x4AFF:80 queue_entry. -/
abbrev queueEntry : Nat := 0x490001
/-- 0x4B00:01 to 0x4CFF:80 policer_entry. -/
abbrev policerEntry : Nat := 0x4B0001
end Sys2Proof.Machine.K
end

