-- ==== Sys2Proof/Machine/Map.lean ====
section
/-! DEFINITION. Sparse tables in one canonical form: keys strictly rising, no entry equal to what an unlisted key
reads as. The dictionary store, the counters of a leaf's cores, the laggard table, queues and mover windows are all
tables of this kind, so equal tables are equal data. -/

namespace Sys2Proof.Machine

/-- A sparse table from Nat keys. -/
abbrev NMap (α : Type) := List (Nat × α)

/-- What key `k` holds; an unlisted key holds `d k`. -/
def mget {α : Type} (d : Nat → α) : NMap α → Nat → α
  | [], k => d k
  | (j, x) :: m, k => if k = j then x else mget d m k

/-- The listed entry of key `k`, if any. -/
def mfind {α : Type} : NMap α → Nat → Option α
  | [], _ => none
  | (j, x) :: m, k => if k = j then some x else mfind m k

/-- Remove key `k`. -/
def mdel {α : Type} : NMap α → Nat → NMap α
  | [], _ => []
  | (j, x) :: m, k => if k = j then mdel m k else (j, x) :: mdel m k

/-- Put `x` at key `k` in rising order, whatever `x` is. -/
def mput {α : Type} : NMap α → Nat → α → NMap α
  | [], k, x => [(k, x)]
  | (j, y) :: m, k, x =>
    if k < j then (k, x) :: (j, y) :: m
    else if k = j then (k, x) :: m
    else (j, y) :: mput m k x

/-- Write `x` at key `k`; a write of what an unlisted key reads as removes the entry. -/
def mset {α : Type} [DecidableEq α] (d : Nat → α) (m : NMap α) (k : Nat) (x : α) : NMap α :=
  if x = d k then mdel m k else mput m k x

/-- Every key of `m` lies above `b`, keys rise strictly and no entry is the default of its key. -/
def mwfFrom {α : Type} [DecidableEq α] (d : Nat → α) : Option Nat → NMap α → Bool
  | _, [] => true
  | lo, (j, x) :: m =>
    (match lo with | none => true | some b => decide (b < j)) && decide (x ≠ d j) && mwfFrom d (some j) m

/-- The canonical form. -/
def mwf {α : Type} [DecidableEq α] (d : Nat → α) (m : NMap α) : Bool := mwfFrom d none m

/-- Keep the entries whose key satisfies `p`. -/
def mfilter {α : Type} (p : Nat → Bool) (m : NMap α) : NMap α := m.filter (fun e => p e.1)

end Sys2Proof.Machine
end

