-- ==== Sys2Proof/Machine/ObjTable.lean ====
section
/-! DEFINITION. The object dictionary: the type of an object definition and every row of the spec's dictionary
tables (Index:Sub, Type, Access, Class, Default, Range), with the roles of Table 3.2 and the tray-level mark of
Table 18.7. -/

namespace Sys2Proof.Machine

/-- The value of an object: a number (every fixed-size type of Table 3.1, as its bit pattern) or bytes
(STRING, DOMAIN). -/
inductive Val where
  | num (n : Nat)
  | bytes (b : List Byte)
  deriving DecidableEq, Repr

/-- Access codes (R70). -/
inductive Access where
  | ro | rw | wo | rwt | const
  deriving DecidableEq, Repr

/-- Persistence classes (R10, R436). -/
inductive Cls where
  | c | s | w | v
  deriving DecidableEq, Repr

/-- The builds that hold an object (R67). -/
inductive Builds where
  | leaf | tray | both
  deriving DecidableEq, Repr

/-- Range columns that name a format instead of an interval; each is judged by a function of Operands.lean. -/
inductive Chk where
  | roleEntry | regionMap | groupEntry | chanId | paramSets | suspects | portShaper | subEntry | queueEntry
  | policerEntry | traceFetch | streamEntry | descAddr | verifyKey | firmwareLog | wakeCost | leafId | repairAdd
  | loupe | serial | podMembers | location | locations
  deriving DecidableEq, Repr

/-- The Range column: the values the block accepts (R11). `msk m`: bits outside m are reserved (R8); `ent lo hi size m`: entries of `size` bytes
whose bits outside m are reserved. -/
inductive Range where
  | all
  | iv (lo hi : Nat)
  | ivs (l : List (Nat × Nat))
  | stp (lo hi step : Nat)
  | siv (neg pos : Nat)
  | msk (m : Nat)
  | len (lo hi mult : Nat)
  | ent (lo hi size m : Nat)
  | lens (l : List Nat)
  | chk (c : Chk)
  deriving DecidableEq, Repr

/-- One row of a dictionary table: indices idxLo to idxHi, subindices subLo to subHi at each, type code (Table 3.1),
access, class, least role to write and to read (Table 3.2), tray-level mark, builds, default and range. -/
structure ObjDef where
  idxLo : Nat
  idxHi : Nat
  subLo : Nat
  subHi : Nat
  type : Nat
  access : Access
  cls : Cls
  wrole : Nat
  rrole : Nat
  tray : Bool
  builds : Builds
  dflt : Val
  range : Range
  deriving DecidableEq, Repr

/-- One Reset entry of Table 8.4, 32 bytes little-endian: alpha and beta 0.125, lambda 0.0625, k 0.5, h 8.0,
z_clip 6.0, v_floor 2^-40, warmup 32, gap_limit 16, rescale 0. -/
def paramSetReset : List Byte :=
  [0x00, 0x10, 0x20, 0x00, 0x00, 0x00, 0x80, 0x2B, 0x00, 0x00, 0xC0, 0x40, 0x00, 0x00, 0x00, 0x41,
   0x00, 0x00, 0x00, 0x3F, 0x00, 0x00, 0x80, 0x3D, 0x00, 0x00, 0x00, 0x3E, 0x00, 0x00, 0x00, 0x3E]

/-- The 64 entries of the Reset column of Table 8.4. -/
def paramSetsReset : List Byte := (List.replicate 64 paramSetReset).flatten

/-- The Reset column of Table 11.2: limit and yellow_limit 65,536, every other field 0. -/
def queueEntryReset : List Byte :=
  List.replicate 20 0 ++ [0x00, 0x00, 0x01, 0x00, 0x00, 0x00, 0x01, 0x00] ++ List.replicate 4 0

/-- The Reset column of Table 13.5: stream_frames 1, every other field 0. -/
def streamEntryReset : List Byte := List.replicate 13 0 ++ [0x01, 0x00, 0x00]

/-- "SIRITH-L" (Table 18.2). -/
def designationLeaf : List Byte := [0x53, 0x49, 0x52, 0x49, 0x54, 0x48, 0x2D, 0x4C]

/-- "SIRITH-T" (Table 18.2). -/
def designationTray : List Byte := [0x53, 0x49, 0x52, 0x49, 0x54, 0x48, 0x2D, 0x54]

/-- Rows of the dictionary tables from index 0x0001. -/
def objRows0a : List ObjDef :=
  [ ⟨0x0001, 0x0001, 0x01, 0x01, 3, .const, .c, 0, 1, false, .both, .num 0x0001, .all⟩,
    ⟨0x0001, 0x0001, 0x02, 0x02, 4, .const, .c, 0, 1, false, .both, .num 0, .all⟩,
    ⟨0x0001, 0x0001, 0x03, 0x03, 4, .ro, .v, 0, 1, false, .both, .num 0, .all⟩,
    ⟨0x0001, 0x0001, 0x04, 0x04, 4, .ro, .v, 0, 1, false, .both, .num 0, .all⟩,
    ⟨0x0001, 0x0001, 0x05, 0x05, 13, .ro, .c, 0, 1, false, .both, .bytes [], .all⟩,
    ⟨0x0010, 0x0010, 0x01, 0x01, 5, .rw, .s, 3, 1, false, .both, .num 0x1000000000000003, .chk .roleEntry⟩,
    ⟨0x0010, 0x0010, 0x02, 0x02, 5, .rw, .s, 3, 1, false, .both, .num 0x2000000000000003, .chk .roleEntry⟩,
    ⟨0x0010, 0x0010, 0x03, 0x03, 5, .rw, .s, 3, 1, false, .both, .num 0x3000000000000002, .chk .roleEntry⟩,
    ⟨0x0010, 0x0010, 0x04, 0x20, 5, .rw, .s, 3, 1, false, .both, .num 0xF000000000000000, .chk .roleEntry⟩,
    ⟨0x0100, 0x0100, 0x01, 0x01, 4, .const, .c, 0, 0, false, .both, .num 0x00030000, .all⟩,
    ⟨0x0100, 0x0100, 0x02, 0x02, 2, .const, .c, 0, 0, false, .leaf, .num 1, .all⟩,
    ⟨0x0100, 0x0100, 0x02, 0x02, 2, .const, .c, 0, 0, false, .tray, .num 2, .all⟩,
    ⟨0x0100, 0x0100, 0x03, 0x03, 2, .const, .c, 0, 1, false, .leaf, .num 0, .all⟩,
    ⟨0x0100, 0x0100, 0x03, 0x03, 2, .const, .c, 0, 1, false, .tray, .num 4, .all⟩,
    ⟨0x0100, 0x0100, 0x04, 0x04, 4, .const, .c, 0, 1, false, .leaf, .num 1000000, .all⟩,
    ⟨0x0100, 0x0100, 0x04, 0x04, 4, .const, .c, 0, 1, false, .tray, .num 1250000, .all⟩,
    ⟨0x0100, 0x0100, 0x05, 0x05, 4, .const, .c, 0, 1, false, .leaf, .num 24576, .all⟩,
    ⟨0x0100, 0x0100, 0x05, 0x05, 4, .const, .c, 0, 1, false, .tray, .num 131072, .all⟩,
    ⟨0x0100, 0x0100, 0x06, 0x06, 4, .const, .c, 0, 1, false, .leaf, .num 0, .all⟩,
    ⟨0x0100, 0x0100, 0x06, 0x06, 4, .const, .c, 0, 1, false, .tray, .num 2048, .all⟩,
    ⟨0x0100, 0x0100, 0x07, 0x07, 4, .const, .c, 0, 1, false, .leaf, .num 16384, .all⟩,
    ⟨0x0100, 0x0100, 0x07, 0x07, 4, .const, .c, 0, 1, false, .tray, .num 524288, .all⟩,
    ⟨0x0100, 0x0100, 0x08, 0x08, 2, .const, .c, 0, 1, false, .leaf, .num 0, .all⟩,
    ⟨0x0100, 0x0100, 0x08, 0x08, 2, .const, .c, 0, 1, false, .tray, .num 24, .all⟩ ]

/-- Rows of the dictionary tables from index 0x0001. -/
def objRows0b : List ObjDef :=
  [ ⟨0x0100, 0x0100, 0x09, 0x09, 12, .const, .c, 0, 1, false, .leaf, .bytes designationLeaf, .all⟩,
    ⟨0x0100, 0x0100, 0x09, 0x09, 12, .const, .c, 0, 1, false, .tray, .bytes designationTray, .all⟩,
    ⟨0x0100, 0x0100, 0x0A, 0x0A, 12, .rw, .s, 3, 1, false, .both, .bytes [], .chk .serial⟩,
    ⟨0x0100, 0x0100, 0x0B, 0x0B, 4, .const, .c, 0, 1, false, .both, .num 0, .all⟩ ]

/-- Rows of the dictionary tables from index 0x0001, all of them. -/
def objRows0 : List ObjDef := objRows0a ++ objRows0b

/-- Rows of the dictionary tables from index 0x0200. -/
def objRows1a : List ObjDef :=
  [ ⟨0x0200, 0x0200, 0x01, 0x01, 2, .ro, .v, 0, 1, false, .both, .num 0x00, .all⟩,
    ⟨0x0200, 0x0200, 0x02, 0x02, 2, .ro, .w, 0, 1, false, .both, .num 0x00, .all⟩,
    ⟨0x0200, 0x0200, 0x03, 0x03, 2, .ro, .w, 0, 1, false, .both, .num 0x00, .all⟩,
    ⟨0x0200, 0x0200, 0x04, 0x04, 2, .wo, .v, 3, 0, false, .leaf, .num 0, .iv 3 3⟩,
    ⟨0x0200, 0x0200, 0x04, 0x04, 2, .wo, .v, 3, 0, false, .tray, .num 0, .iv 1 2⟩,
    ⟨0x0200, 0x0200, 0x05, 0x05, 4, .ro, .w, 0, 1, false, .both, .num 0, .all⟩,
    ⟨0x0200, 0x0200, 0x06, 0x06, 4, .ro, .w, 0, 1, false, .both, .num 0, .all⟩,
    ⟨0x0200, 0x0200, 0x10, 0x10, 2, .rw, .s, 3, 1, false, .tray, .num 8, .ivs [(1, 2), (4, 4), (8, 8), (16, 16)]⟩,
    ⟨0x0200, 0x0200, 0x11, 0x11, 2, .ro, .w, 0, 1, false, .tray, .num 0x00, .all⟩,
    ⟨0x0200, 0x0200, 0x12, 0x12, 13, .ro, .w, 0, 1, false, .tray, .bytes (List.replicate 256 0), .all⟩,
    ⟨0x0200, 0x0200, 0x13, 0x13, 4, .ro, .v, 0, 1, false, .tray, .num 0, .all⟩,
    ⟨0x0200, 0x0200, 0x14, 0x14, 4, .ro, .v, 0, 1, false, .both, .num 0, .all⟩,
    ⟨0x0200, 0x0200, 0x20, 0x20, 4, .wo, .v, 3, 0, false, .leaf, .num 0, .chk .leafId⟩,
    ⟨0x0200, 0x0200, 0x21, 0x21, 1, .wo, .v, 3, 0, false, .leaf, .num 0, .iv 1 1⟩,
    ⟨0x0200, 0x0200, 0x22, 0x22, 4, .ro, .v, 0, 1, false, .tray, .num 0, .all⟩,
    ⟨0x0200, 0x0200, 0x23, 0x23, 5, .ro, .v, 0, 1, false, .tray, .num 0, .all⟩,
    ⟨0x0200, 0x0200, 0x24, 0x24, 4, .rw, .s, 2, 1, false, .tray, .num 10000, .iv 16 1000000⟩,
    ⟨0x0200, 0x0200, 0x25, 0x25, 13, .wo, .v, 3, 0, false, .leaf, .bytes [], .chk .repairAdd⟩,
    ⟨0x0200, 0x0200, 0x26, 0x26, 4, .ro, .w, 0, 1, false, .tray, .num 0x00000000, .all⟩,
    ⟨0x0200, 0x0200, 0x30, 0x30, 5, .rwt, .v, 2, 1, false, .tray, .num 0, .msk 0xFFFFFFFFFFFF⟩,
    ⟨0x0200, 0x0200, 0x31, 0x31, 1, .rwt, .v, 2, 1, false, .tray, .num 0, .iv 0 1⟩,
    ⟨0x0200, 0x0200, 0x32, 0x32, 5, .ro, .v, 0, 1, false, .tray, .num 0, .all⟩,
    ⟨0x0200, 0x0200, 0x33, 0x33, 3, .wo, .v, 3, 0, false, .tray, .num 0, .chk .chanId⟩,
    ⟨0x0200, 0x0200, 0x34, 0x34, 3, .rw, .s, 2, 1, false, .tray, .num 8, .iv 4 1024⟩,
    ⟨0x0200, 0x0200, 0x35, 0x35, 4, .ro, .v, 0, 1, false, .tray, .num 0, .all⟩ ]

/-- Rows of the dictionary tables from index 0x0200. -/
def objRows1b : List ObjDef :=
  [ ⟨0x0200, 0x0200, 0x36, 0x36, 1, .ro, .v, 0, 1, true, .tray, .num 0, .all⟩,
    ⟨0x0200, 0x0200, 0x40, 0x40, 13, .ro, .w, 0, 1, false, .tray, .bytes [], .all⟩,
    ⟨0x0200, 0x0200, 0x41, 0x41, 3, .ro, .w, 0, 1, false, .tray, .num 0, .all⟩,
    ⟨0x0200, 0x0200, 0x42, 0x42, 4, .ro, .v, 0, 1, false, .tray, .num 0, .all⟩,
    ⟨0x0200, 0x0200, 0x50, 0x50, 1, .ro, .v, 0, 1, false, .tray, .num 0, .all⟩,
    ⟨0x0200, 0x0200, 0x51, 0x51, 4, .ro, .v, 0, 1, false, .tray, .num 0, .all⟩,
    ⟨0x0200, 0x0200, 0x52, 0x52, 2, .ro, .v, 0, 1, false, .tray, .num 0xFF, .all⟩,
    ⟨0x0200, 0x0200, 0x53, 0x53, 4, .ro, .v, 0, 1, false, .tray, .num 0, .all⟩,
    ⟨0x0200, 0x0200, 0x54, 0x54, 4, .ro, .v, 0, 1, false, .tray, .num 0, .all⟩,
    ⟨0x0200, 0x0200, 0x55, 0x55, 2, .ro, .v, 0, 1, false, .tray, .num 0, .all⟩ ]

/-- Rows of the dictionary tables from index 0x0200, all of them. -/
def objRows1 : List ObjDef := objRows1a ++ objRows1b

/-- Rows of the dictionary tables from index 0x0300. -/
def objRows2a : List ObjDef :=
  [ ⟨0x0300, 0x0300, 0x01, 0x01, 10, .ro, .v, 0, 1, false, .both, .num 0, .all⟩,
    ⟨0x0300, 0x0300, 0x02, 0x02, 10, .ro, .v, 0, 1, false, .both, .num 0, .all⟩,
    ⟨0x0300, 0x0300, 0x03, 0x03, 2, .rwt, .w, 2, 1, false, .both, .num 0x00, .iv 0 1⟩,
    ⟨0x0300, 0x0300, 0x04, 0x04, 2, .rw, .s, 2, 1, false, .both, .num 0x00, .iv 0 3⟩,
    ⟨0x0300, 0x0300, 0x05, 0x05, 2, .rw, .s, 3, 1, false, .both, .num 0, .iv 0 239⟩,
    ⟨0x0300, 0x0300, 0x06, 0x06, 2, .rw, .s, 3, 1, false, .both, .num 1, .iv 0 239⟩,
    ⟨0x0300, 0x0300, 0x07, 0x07, 2, .rw, .s, 3, 1, false, .both, .num 0, .iv 0 15⟩,
    ⟨0x0300, 0x0300, 0x08, 0x08, 4, .rw, .s, 2, 1, false, .both, .num 1000, .iv 100 1000000000⟩,
    ⟨0x0300, 0x0300, 0x09, 0x09, 4, .rw, .s, 2, 1, false, .both, .num 50000, .iv 1000 500000⟩,
    ⟨0x0300, 0x0300, 0x0A, 0x0A, 4, .rw, .s, 2, 1, false, .both, .num 1000, .iv 50 1000000⟩,
    ⟨0x0300, 0x0300, 0x0B, 0x0B, 1, .wo, .v, 2, 0, false, .both, .num 0, .iv 0 1⟩,
    ⟨0x0300, 0x0300, 0x0C, 0x0C, 4, .ro, .v, 0, 1, false, .both, .num 0, .all⟩,
    ⟨0x0300, 0x0300, 0x0D, 0x0D, 4, .rw, .s, 2, 1, false, .both, .num 100, .iv 10 10000⟩,
    ⟨0x0300, 0x0300, 0x0E, 0x0E, 2, .rw, .s, 2, 1, false, .both, .num 3, .iv 2 10⟩,
    ⟨0x0300, 0x0300, 0x0F, 0x0F, 4, .rw, .s, 2, 1, false, .both, .num 1000, .iv 10 60000⟩,
    ⟨0x0300, 0x0300, 0x10, 0x10, 7, .rw, .s, 2, 1, false, .both, .num 0, .siv 100000 100000⟩,
    ⟨0x0300, 0x0300, 0x11, 0x11, 2, .ro, .v, 0, 1, false, .both, .num 0x00, .all⟩,
    ⟨0x0300, 0x0300, 0x12, 0x12, 2, .ro, .v, 0, 1, false, .both, .num 0x00, .all⟩,
    ⟨0x0300, 0x0300, 0x13, 0x13, 7, .ro, .v, 0, 1, false, .both, .num 0, .all⟩,
    ⟨0x0300, 0x0300, 0x14, 0x14, 7, .ro, .v, 0, 1, false, .both, .num 0, .all⟩,
    ⟨0x0300, 0x0300, 0x15, 0x15, 4, .ro, .v, 0, 1, false, .both, .num 0, .all⟩,
    ⟨0x0300, 0x0300, 0x16, 0x16, 4, .ro, .v, 0, 1, false, .both, .num 0, .all⟩,
    ⟨0x0300, 0x0300, 0x17, 0x17, 5, .ro, .v, 0, 1, false, .both, .num 0, .all⟩,
    ⟨0x0300, 0x0300, 0x18, 0x18, 5, .ro, .v, 0, 1, false, .both, .num 0, .all⟩ ]

/-- Rows of the dictionary tables from index 0x0300. -/
def objRows2b : List ObjDef :=
  [ ⟨0x0300, 0x0300, 0x19, 0x19, 4, .ro, .v, 0, 1, false, .both, .num 0, .all⟩,
    ⟨0x0300, 0x0300, 0x1A, 0x1A, 1, .ro, .v, 0, 1, false, .both, .num 0, .all⟩,
    ⟨0x0300, 0x0300, 0x1B, 0x1B, 4, .ro, .v, 0, 1, false, .both, .num 0, .all⟩,
    ⟨0x0300, 0x0300, 0x1C, 0x1C, 2, .ro, .v, 0, 1, false, .both, .num 0, .all⟩,
    ⟨0x0300, 0x0300, 0x1D, 0x1D, 13, .ro, .v, 0, 1, false, .both, .bytes [], .all⟩,
    ⟨0x0300, 0x0300, 0x1E, 0x1E, 4, .ro, .v, 0, 1, false, .both, .num 0, .all⟩,
    ⟨0x0300, 0x0300, 0x1F, 0x1F, 4, .ro, .v, 0, 1, false, .both, .num 0, .all⟩,
    ⟨0x0300, 0x0300, 0x20, 0x20, 1, .rw, .s, 3, 1, false, .tray, .num 0, .iv 0 1⟩,
    ⟨0x0300, 0x0300, 0x21, 0x21, 7, .rw, .s, 3, 1, false, .tray, .num 0, .siv 100000 100000⟩ ]

/-- Rows of the dictionary tables from index 0x0300, all of them. -/
def objRows2 : List ObjDef := objRows2a ++ objRows2b

/-- Rows of the dictionary tables from index 0x0400. -/
def objRows3a : List ObjDef :=
  [ ⟨0x0400, 0x0400, 0x01, 0x01, 3, .rw, .s, 3, 1, false, .both, .num 100, .stp 50 1000 10⟩,
    ⟨0x0400, 0x0400, 0x02, 0x02, 11, .ro, .v, 0, 1, false, .both, .num 0, .all⟩,
    ⟨0x0400, 0x0400, 0x03, 0x03, 3, .ro, .w, 0, 1, false, .both, .num 100, .all⟩,
    ⟨0x0400, 0x0400, 0x04, 0x04, 4, .ro, .v, 0, 1, false, .both, .num 0, .all⟩,
    ⟨0x0400, 0x0400, 0x05, 0x05, 11, .ro, .v, 0, 1, false, .both, .num 0, .all⟩,
    ⟨0x0400, 0x0400, 0x06, 0x06, 4, .ro, .v, 0, 1, false, .both, .num 0x00000000, .all⟩,
    ⟨0x0400, 0x0400, 0x07, 0x07, 4, .ro, .v, 0, 1, false, .both, .num 0, .all⟩,
    ⟨0x0400, 0x0400, 0x08, 0x08, 3, .ro, .v, 0, 1, false, .both, .num 0, .all⟩,
    ⟨0x0400, 0x0400, 0x09, 0x09, 2, .rw, .s, 2, 1, false, .both, .num 16, .iv 1 255⟩,
    ⟨0x0500, 0x0500, 0x01, 0x01, 2, .ro, .v, 0, 1, false, .both, .num 0, .all⟩,
    ⟨0x0500, 0x0500, 0x02, 0x02, 2, .ro, .w, 0, 1, false, .both, .num 0, .all⟩,
    ⟨0x0500, 0x0500, 0x03, 0x03, 4, .rw, .s, 2, 1, false, .both, .num 10000, .iv 10 1000000⟩,
    ⟨0x0500, 0x0500, 0x04, 0x04, 4, .ro, .v, 0, 1, false, .both, .num 0, .all⟩,
    ⟨0x0500, 0x0500, 0x05, 0x05, 2, .ro, .v, 0, 1, false, .both, .num 0x00, .all⟩,
    ⟨0x0500, 0x0500, 0x06, 0x06, 4, .ro, .v, 0, 1, false, .both, .num 0, .all⟩,
    ⟨0x0500, 0x0500, 0x07, 0x07, 4, .ro, .v, 0, 1, false, .both, .num 0xFFFFFFFF, .all⟩,
    ⟨0x0500, 0x0500, 0x10, 0x10, 4, .ro, .w, 0, 1, false, .tray, .num 1, .all⟩,
    ⟨0x0500, 0x0500, 0x11, 0x11, 2, .rw, .s, 2, 1, false, .both, .num 2, .iv 1 64⟩,
    ⟨0x0500, 0x0500, 0x12, 0x12, 2, .ro, .v, 0, 1, false, .tray, .num 0, .all⟩,
    ⟨0x0500, 0x0500, 0x13, 0x13, 4, .ro, .v, 0, 1, false, .tray, .num 0, .all⟩,
    ⟨0x0500, 0x0500, 0x14, 0x14, 3, .rw, .s, 2, 1, false, .both, .num 16, .iv 4 1024⟩,
    ⟨0x0500, 0x0500, 0x15, 0x15, 4, .rw, .s, 2, 1, false, .both, .num 65536, .iv 1024 1048576⟩,
    ⟨0x0500, 0x0500, 0x16, 0x16, 4, .ro, .v, 0, 1, false, .both, .num 0, .all⟩,
    ⟨0x0500, 0x0500, 0x17, 0x17, 4, .ro, .v, 0, 1, false, .tray, .num 0xFFFFFFFF, .all⟩ ]

/-- Rows of the dictionary tables from index 0x0400. -/
def objRows3b : List ObjDef :=
  [ ⟨0x0500, 0x0500, 0x18, 0x18, 2, .ro, .v, 0, 1, false, .tray, .num 0x00, .all⟩,
    ⟨0x0500, 0x0500, 0x20, 0x20, 3, .rwt, .w, 2, 1, false, .both, .num 0xFFFF, .ivs [(0, 0xFFFD), (0xFFFF, 0xFFFF)]⟩,
    ⟨0x0500, 0x0500, 0x21, 0x21, 4, .rwt, .w, 2, 1, false, .both, .num 0, .all⟩,
    ⟨0x0500, 0x0500, 0x80, 0xFF, 3, .rwt, .w, 2, 1, false, .tray, .num 0xFFFF, .ivs [(0, 0xFFFD), (0xFFFF, 0xFFFF)]⟩ ]

/-- Rows of the dictionary tables from index 0x0400, all of them. -/
def objRows3 : List ObjDef := objRows3a ++ objRows3b

/-- Rows of the dictionary tables from index 0x0800. -/
def objRows4 : List ObjDef :=
  [ ⟨0x0800, 0x0800, 0x01, 0x01, 3, .rwt, .s, 2, 1, false, .leaf, .num 1024, .iv 1 1024⟩,
    ⟨0x0800, 0x0800, 0x02, 0x02, 13, .rwt, .s, 2, 1, false, .leaf, .bytes (List.replicate 128 0xFF), .len 128 128 1⟩,
    ⟨0x0800, 0x0800, 0x03, 0x03, 2, .rw, .s, 2, 1, false, .leaf, .num 2, .iv 2 16⟩,
    ⟨0x0800, 0x0800, 0x04, 0x04, 13, .rwt, .s, 2, 1, false, .leaf, .bytes (List.replicate 128 0xFF), .len 128 128 1⟩,
    ⟨0x0800, 0x0800, 0x05, 0x05, 3, .rw, .s, 2, 1, false, .leaf, .num 1024, .iv 64 2048⟩,
    ⟨0x0800, 0x0800, 0x06, 0x06, 4, .ro, .v, 0, 1, false, .leaf, .num 0, .all⟩,
    ⟨0x0800, 0x0800, 0x07, 0x07, 4, .ro, .v, 0, 1, false, .leaf, .num 0, .all⟩,
    ⟨0x0800, 0x0800, 0x08, 0x08, 4, .ro, .v, 0, 1, false, .leaf, .num 0, .all⟩,
    ⟨0x0800, 0x0800, 0x09, 0x09, 4, .ro, .v, 0, 1, false, .leaf, .num 0, .all⟩,
    ⟨0x0800, 0x0800, 0x0A, 0x0A, 1, .rwt, .v, 2, 1, false, .leaf, .num 0, .iv 0 1⟩,
    ⟨0x0800, 0x0800, 0x10, 0x10, 13, .rw, .w, 2, 1, false, .leaf, .bytes [], .ent 0 131072 8 0xFFFFFFFEFFFFFFFF⟩,
    ⟨0x0800, 0x0800, 0x11, 0x11, 13, .ro, .s, 0, 1, false, .leaf, .bytes [], .all⟩,
    ⟨0x0800, 0x0800, 0x12, 0x12, 3, .ro, .s, 0, 1, false, .leaf, .num 0, .all⟩,
    ⟨0x0800, 0x0800, 0x13, 0x13, 4, .ro, .v, 0, 1, false, .leaf, .num 0, .all⟩ ]

/-- Rows of the dictionary tables from index 0x0A00. -/
def objRows5 : List ObjDef :=
  [ ⟨0x0A00, 0x0A00, 0x01, 0x01, 3, .rwt, .s, 2, 1, false, .leaf, .num 1, .all⟩,
    ⟨0x0A00, 0x0A00, 0x02, 0x02, 2, .rwt, .s, 2, 1, false, .leaf, .num 0x00, .iv 0 1⟩,
    ⟨0x0A00, 0x0A00, 0x03, 0x03, 3, .rwt, .s, 2, 1, false, .leaf, .num 256, .iv 1 65535⟩,
    ⟨0x0A00, 0x0A00, 0x04, 0x04, 3, .rwt, .s, 2, 1, false, .leaf, .num 16, .iv 1 65535⟩,
    ⟨0x0A00, 0x0A00, 0x05, 0x05, 3, .rwt, .s, 2, 1, false, .leaf, .num 16384, .iv 1 65535⟩,
    ⟨0x0A00, 0x0A00, 0x06, 0x06, 4, .rwt, .s, 2, 1, false, .leaf, .num 65536, .iv 1024 16777216⟩,
    ⟨0x0A00, 0x0A00, 0x07, 0x07, 3, .rwt, .s, 2, 1, false, .leaf, .num 64, .iv 16 1024⟩,
    ⟨0x0A00, 0x0A00, 0x08, 0x08, 13, .wo, .v, 2, 0, false, .leaf, .bytes [], .len 128 128 1⟩,
    ⟨0x0A00, 0x0A00, 0x09, 0x09, 3, .rw, .s, 2, 1, false, .leaf, .num 64, .iv 1 256⟩,
    ⟨0x0A00, 0x0A00, 0x0A, 0x0A, 2, .ro, .v, 0, 1, false, .leaf, .num 0x00, .all⟩,
    ⟨0x0A00, 0x0A00, 0x10, 0x10, 5, .ro, .v, 0, 1, false, .leaf, .num 0, .all⟩,
    ⟨0x0A00, 0x0A00, 0x11, 0x11, 5, .ro, .v, 0, 1, false, .leaf, .num 0, .all⟩,
    ⟨0x0A00, 0x0A00, 0x12, 0x12, 5, .ro, .v, 0, 1, false, .leaf, .num 0, .all⟩,
    ⟨0x0A00, 0x0A00, 0x13, 0x13, 5, .ro, .v, 0, 1, false, .leaf, .num 0, .all⟩,
    ⟨0x0A00, 0x0A00, 0x14, 0x14, 5, .ro, .v, 0, 1, false, .leaf, .num 0, .all⟩,
    ⟨0x0A00, 0x0A00, 0x15, 0x15, 5, .ro, .v, 0, 1, false, .leaf, .num 0, .all⟩,
    ⟨0x0A00, 0x0A00, 0x16, 0x16, 5, .ro, .v, 0, 1, false, .leaf, .num 0, .all⟩,
    ⟨0x0A00, 0x0A00, 0x17, 0x17, 4, .ro, .v, 0, 1, false, .leaf, .num 0, .all⟩,
    ⟨0x0A00, 0x0A00, 0x18, 0x18, 4, .ro, .v, 0, 1, false, .leaf, .num 0, .all⟩,
    ⟨0x0A00, 0x0A00, 0x19, 0x19, 3, .ro, .v, 0, 1, false, .leaf, .num 0, .all⟩,
    ⟨0x0A00, 0x0A00, 0x20, 0x20, 13, .ro, .w, 0, 1, false, .leaf, .bytes [], .all⟩ ]

/-- Rows of the dictionary tables from index 0x0B00. -/
def objRows6 : List ObjDef :=
  [ ⟨0x0B00, 0x0B00, 0x01, 0x01, 1, .rwt, .v, 2, 1, false, .leaf, .num 0, .iv 0 1⟩,
    ⟨0x0B00, 0x0B00, 0x02, 0x02, 5, .ro, .v, 0, 1, false, .leaf, .num 0, .all⟩,
    ⟨0x0B00, 0x0B00, 0x03, 0x03, 5, .ro, .v, 0, 1, false, .leaf, .num 0, .all⟩,
    ⟨0x0B00, 0x0B00, 0x04, 0x04, 5, .ro, .v, 0, 1, false, .leaf, .num 0, .all⟩,
    ⟨0x0B00, 0x0B00, 0x05, 0x05, 5, .ro, .v, 0, 1, false, .leaf, .num 0, .all⟩,
    ⟨0x0B00, 0x0B00, 0x06, 0x06, 5, .ro, .v, 0, 1, false, .leaf, .num 0, .all⟩,
    ⟨0x0B00, 0x0B00, 0x07, 0x07, 4, .ro, .v, 0, 1, false, .leaf, .num 0, .all⟩,
    ⟨0x0B00, 0x0B00, 0x08, 0x08, 4, .ro, .v, 0, 1, false, .leaf, .num 0, .all⟩,
    ⟨0x0B00, 0x0B00, 0x09, 0x09, 3, .rw, .s, 2, 1, false, .leaf, .num 64, .iv 1 256⟩,
    ⟨0x0B00, 0x0B00, 0x0A, 0x0A, 4, .ro, .v, 0, 1, false, .leaf, .num 0, .all⟩,
    ⟨0x0B00, 0x0B00, 0x10, 0x10, 13, .rw, .w, 2, 1, false, .leaf, .bytes [], .ent 0 131072 32 (2 ^ 253 - 2 ^ 94)⟩,
    ⟨0x0B00, 0x0B00, 0x11, 0x11, 13, .ro, .s, 0, 1, false, .leaf, .bytes [], .all⟩,
    ⟨0x0B00, 0x0B00, 0x12, 0x12, 3, .ro, .s, 0, 1, false, .leaf, .num 0, .all⟩,
    ⟨0x0B00, 0x0B00, 0x20, 0x20, 5, .ro, .v, 0, 1, false, .tray, .num 0, .all⟩,
    ⟨0x0B00, 0x0B00, 0x21, 0x21, 4, .ro, .v, 0, 1, false, .tray, .num 0, .all⟩,
    ⟨0x0B00, 0x0B00, 0x22, 0x22, 5, .ro, .v, 0, 1, false, .tray, .num 0, .all⟩,
    ⟨0x0B00, 0x0B00, 0x23, 0x23, 4, .ro, .v, 0, 1, false, .tray, .num 0, .all⟩,
    ⟨0x0B00, 0x0B00, 0x24, 0x24, 4, .ro, .v, 0, 1, false, .tray, .num 0, .all⟩,
    ⟨0x0B00, 0x0B00, 0x25, 0x25, 4, .ro, .v, 0, 1, false, .tray, .num 0, .all⟩,
    ⟨0x0B00, 0x0B00, 0x26, 0x26, 3, .ro, .v, 0, 1, false, .tray, .num 0, .all⟩,
    ⟨0x0B00, 0x0B00, 0x27, 0x27, 4, .ro, .v, 0, 1, false, .tray, .num 0, .all⟩,
    ⟨0x0B00, 0x0B00, 0x28, 0x28, 4, .ro, .v, 0, 1, false, .tray, .num 0, .all⟩ ]

/-- Rows of the dictionary tables from index 0x0C00. [DEDUCED, assumption 28] -/
def objRows7a : List ObjDef :=
  [ ⟨0x0C00, 0x0C00, 0x01, 0x01, 2, .wo, .v, 2, 0, false, .leaf, .num 0, .iv 1 4⟩,
    ⟨0x0C00, 0x0C00, 0x02, 0x02, 1, .rw, .s, 3, 1, false, .leaf, .num 0, .iv 0 1⟩,
    ⟨0x0C00, 0x0C00, 0x03, 0x03, 2, .ro, .v, 0, 1, false, .leaf, .num 0x00, .all⟩,
    ⟨0x0C00, 0x0C00, 0x04, 0x04, 2, .rw, .s, 3, 1, false, .leaf, .num 0xF0, .all⟩,
    ⟨0x0C00, 0x0C00, 0x05, 0x05, 4, .rw, .s, 2, 1, false, .leaf, .num 10000, .iv 1000 1000000⟩,
    ⟨0x0C00, 0x0C00, 0x06, 0x06, 4, .rw, .v, 2, 1, false, .leaf, .num 100000, .iv 0 4000000000⟩,
    ⟨0x0C00, 0x0C00, 0x07, 0x07, 1, .rw, .s, 3, 1, false, .leaf, .num 0, .iv 0 1⟩,
    ⟨0x0C00, 0x0C00, 0x08, 0x08, 4, .rw, .s, 3, 1, false, .leaf, .num 5000, .iv 0 20000⟩,
    ⟨0x0C00, 0x0C00, 0x10, 0x10, 1, .rw, .v, 2, 1, false, .leaf, .num 0, .iv 0 1⟩,
    ⟨0x0C00, 0x0C00, 0x11, 0x11, 2, .rw, .v, 2, 1, false, .leaf, .num 0x00, .all⟩,
    ⟨0x0C00, 0x0C00, 0x12, 0x12, 2, .rw, .v, 2, 1, false, .leaf, .num 0xFF, .all⟩,
    ⟨0x0C00, 0x0C00, 0x13, 0x13, 3, .rw, .v, 2, 1, false, .leaf, .num 0xFFFF, .ivs [(0, 1023), (0xFFFF, 0xFFFF)]⟩,
    ⟨0x0C00, 0x0C00, 0x20, 0x20, 13, .ro, .w, 0, 2, false, .leaf, .bytes [], .all⟩,
    ⟨0x0C00, 0x0C00, 0x21, 0x21, 4, .ro, .w, 0, 1, false, .leaf, .num 0, .all⟩,
    ⟨0x0C00, 0x0C00, 0x22, 0x22, 10, .ro, .w, 0, 1, false, .leaf, .num 0, .all⟩,
    ⟨0x0C00, 0x0C00, 0x23, 0x23, 4, .ro, .v, 0, 1, false, .leaf, .num 0, .all⟩,
    ⟨0x0C00, 0x0C00, 0x30, 0x30, 5, .ro, .v, 0, 1, false, .leaf, .num 0, .all⟩,
    ⟨0x0C00, 0x0C00, 0x31, 0x31, 5, .ro, .v, 0, 1, false, .leaf, .num 0, .all⟩,
    ⟨0x0C00, 0x0C00, 0x32, 0x32, 5, .ro, .v, 0, 1, false, .leaf, .num 0, .all⟩,
    ⟨0x0C00, 0x0C00, 0x33, 0x33, 5, .ro, .v, 0, 1, false, .leaf, .num 0, .all⟩,
    ⟨0x0C00, 0x0C00, 0x34, 0x34, 5, .ro, .v, 0, 1, false, .leaf, .num 0, .all⟩,
    ⟨0x0C00, 0x0C00, 0x35, 0x35, 4, .ro, .v, 0, 1, false, .leaf, .num 0, .all⟩,
    ⟨0x0C00, 0x0C00, 0x36, 0x36, 4, .ro, .v, 0, 1, false, .leaf, .num 0, .all⟩,
    ⟨0x0C00, 0x0C00, 0x40, 0x40, 5, .rw, .v, 2, 1, false, .tray, .num 0, .msk 0xFFFFFFFFFFFF⟩ ]

/-- Rows of the dictionary tables from index 0x0C00. -/
def objRows7b : List ObjDef :=
  [ ⟨0x0C00, 0x0C00, 0x41, 0x41, 4, .ro, .v, 0, 1, false, .tray, .num 0, .all⟩ ]

/-- Rows of the dictionary tables from index 0x0C00, all of them. -/
def objRows7 : List ObjDef := objRows7a ++ objRows7b

/-- Rows of the dictionary tables from index 0x0E00. -/
def objRows8 : List ObjDef :=
  [ ⟨0x0E00, 0x0E00, 0x01, 0x01, 2, .rwt, .s, 2, 1, false, .both, .num 0x00, .iv 0 1⟩,
    ⟨0x0E00, 0x0E00, 0x02, 0x02, 13, .ro, .w, 0, 1, false, .leaf, .bytes (List.replicate 128 0), .all⟩,
    ⟨0x0E00, 0x0E00, 0x03, 0x03, 13, .ro, .v, 0, 1, false, .leaf, .bytes (List.replicate 128 0), .all⟩,
    ⟨0x0E00, 0x0E00, 0x04, 0x04, 4, .rw, .s, 2, 1, false, .leaf, .num 10000, .iv 100 40000⟩,
    ⟨0x0E00, 0x0E00, 0x05, 0x05, 4, .ro, .v, 0, 1, false, .leaf, .num 0, .all⟩,
    ⟨0x0E00, 0x0E00, 0x06, 0x06, 4, .ro, .v, 0, 1, false, .leaf, .num 0, .all⟩,
    ⟨0x0E00, 0x0E00, 0x07, 0x07, 13, .wo, .v, 2, 0, false, .leaf, .bytes [], .len 128 128 1⟩,
    ⟨0x0E00, 0x0E00, 0x08, 0x08, 3, .rw, .s, 3, 1, false, .leaf, .num 0xFFFF, .ivs [(0, 4095), (0xFFFF, 0xFFFF)]⟩,
    ⟨0x0E00, 0x0E00, 0x09, 0x09, 4, .ro, .v, 0, 1, false, .leaf, .num 0, .all⟩,
    ⟨0x0E00, 0x0E00, 0x0A, 0x0A, 4, .ro, .v, 0, 1, false, .leaf, .num 0, .all⟩,
    ⟨0x0E00, 0x0E00, 0x11, 0x11, 4, .rw, .s, 2, 1, false, .leaf, .num 1000, .iv 100 40000⟩,
    ⟨0x0E00, 0x0E00, 0x12, 0x12, 3, .rw, .s, 2, 1, false, .leaf, .num 8, .iv 1 1024⟩,
    ⟨0x0E00, 0x0E00, 0x13, 0x13, 4, .ro, .v, 0, 1, false, .leaf, .num 0, .all⟩,
    ⟨0x0E00, 0x0E00, 0x14, 0x14, 4, .ro, .v, 0, 1, false, .leaf, .num 0, .all⟩,
    ⟨0x0E00, 0x0E00, 0x20, 0x20, 3, .rw, .s, 2, 1, false, .tray, .num 16, .iv 1 4096⟩,
    ⟨0x0E00, 0x0E00, 0x21, 0x21, 11, .ro, .v, 0, 1, false, .tray, .num 0, .all⟩ ]

/-- Rows of the dictionary tables from index 0x0E10. -/
def objRows9a : List ObjDef :=
  [ ⟨0x0E10, 0x0E10, 0x01, 0x01, 13, .rwt, .s, 2, 1, false, .leaf, .bytes (List.replicate 1024 0), .chk .regionMap⟩,
    ⟨0x1000, 0x1000, 0x01, 0x01, 2, .rwt, .s, 2, 1, false, .tray, .num 0x00, .ivs [(0, 2)]⟩,
    ⟨0x1000, 0x1000, 0x02, 0x02, 3, .rw, .s, 3, 1, false, .tray, .num 0x0000, .iv 0 2047⟩,
    ⟨0x1000, 0x1000, 0x03, 0x03, 2, .const, .c, 0, 1, false, .tray, .num 0, .all⟩,
    ⟨0x1000, 0x1000, 0x04, 0x04, 3, .ro, .w, 0, 1, false, .tray, .num 0, .all⟩,
    ⟨0x1000, 0x1000, 0x05, 0x05, 2, .rwt, .s, 2, 1, false, .tray, .num 0xFF, .ivs [(0, 127), (0xFF, 0xFF)]⟩,
    ⟨0x1000, 0x1000, 0x06, 0x06, 3, .rwt, .s, 2, 1, false, .both, .num 0xFFFF, .chk .chanId⟩,
    ⟨0x1000, 0x1000, 0x07, 0x07, 3, .rwt, .s, 2, 1, false, .both, .num 0xFFFF, .chk .chanId⟩,
    ⟨0x1000, 0x1000, 0x08, 0x08, 3, .ro, .v, 0, 1, false, .both, .num 0xFFFF, .all⟩,
    ⟨0x1000, 0x1000, 0x09, 0x09, 3, .rwt, .s, 2, 1, false, .tray, .num 0xFFFF, .chk .chanId⟩,
    ⟨0x1000, 0x1000, 0x0A, 0x0A, 13, .rwt, .s, 2, 1, false, .tray, .bytes [], .chk .podMembers⟩,
    ⟨0x1000, 0x1000, 0x0B, 0x0B, 3, .rw, .s, 2, 1, false, .both, .num 64, .iv 8 1000⟩,
    ⟨0x1000, 0x1000, 0x0C, 0x0C, 2, .rw, .s, 2, 1, false, .both, .num 2, .iv 2 8⟩,
    ⟨0x1000, 0x1000, 0x0D, 0x0D, 3, .rw, .s, 2, 1, false, .both, .num 1024, .iv 16 65535⟩,
    ⟨0x1000, 0x1000, 0x0E, 0x0E, 3, .const, .c, 0, 1, false, .leaf, .num 64, .all⟩,
    ⟨0x1000, 0x1000, 0x0E, 0x0E, 3, .const, .c, 0, 1, false, .tray, .num 1024, .all⟩,
    ⟨0x1000, 0x1000, 0x0F, 0x0F, 11, .ro, .v, 0, 1, false, .both, .num 0, .all⟩,
    ⟨0x1000, 0x1000, 0x10, 0x10, 4, .ro, .w, 0, 1, false, .leaf, .num 0, .all⟩,
    ⟨0x1000, 0x1000, 0x20, 0x20, 5, .ro, .v, 0, 1, false, .tray, .num 0, .all⟩,
    ⟨0x1000, 0x1000, 0x21, 0x21, 4, .ro, .v, 0, 1, false, .tray, .num 0, .all⟩,
    ⟨0x1000, 0x1000, 0x22, 0x22, 4, .ro, .v, 0, 1, false, .tray, .num 0, .all⟩,
    ⟨0x1000, 0x1000, 0x23, 0x23, 4, .ro, .v, 0, 1, false, .tray, .num 0, .all⟩,
    ⟨0x1000, 0x1000, 0x24, 0x24, 4, .ro, .v, 0, 1, false, .tray, .num 0, .all⟩,
    ⟨0x1000, 0x1000, 0x25, 0x25, 4, .ro, .v, 0, 1, false, .both, .num 0, .all⟩ ]

/-- Rows of the dictionary tables from index 0x0E10. -/
def objRows9b : List ObjDef :=
  [ ⟨0x1000, 0x1000, 0x26, 0x26, 4, .ro, .v, 0, 1, false, .tray, .num 0, .all⟩,
    ⟨0x1000, 0x1000, 0x27, 0x27, 4, .ro, .v, 0, 1, false, .both, .num 0, .all⟩,
    ⟨0x1000, 0x1000, 0x28, 0x28, 4, .ro, .v, 0, 1, false, .tray, .num 0, .all⟩,
    ⟨0x1000, 0x1000, 0x2A, 0x2A, 4, .ro, .v, 0, 1, false, .tray, .num 0, .all⟩,
    ⟨0x1000, 0x1000, 0x2B, 0x2B, 4, .ro, .v, 0, 1, false, .tray, .num 0, .all⟩,
    ⟨0x1000, 0x1000, 0x2C, 0x2C, 4, .ro, .v, 0, 1, false, .tray, .num 0, .all⟩,
    ⟨0x1000, 0x1000, 0x2D, 0x2D, 4, .ro, .v, 0, 1, false, .tray, .num 0, .all⟩,
    ⟨0x1000, 0x1000, 0x30, 0x30, 13, .rw, .w, 2, 1, false, .tray, .bytes [], .ent 0 4194304 8 0xFFFFFFFFFFFFFFC0⟩,
    ⟨0x1000, 0x1000, 0x31, 0x31, 13, .ro, .s, 0, 1, false, .tray, .bytes [], .all⟩,
    ⟨0x1000, 0x1000, 0x32, 0x32, 1, .rwt, .v, 2, 1, false, .tray, .num 0, .iv 0 1⟩,
    ⟨0x1000, 0x1000, 0x33, 0x33, 4, .ro, .s, 0, 1, false, .tray, .num 0, .all⟩ ]

/-- Rows of the dictionary tables from index 0x0E10, all of them. -/
def objRows9 : List ObjDef := objRows9a ++ objRows9b

/-- Rows of the dictionary tables from index 0x1400. -/
def objRows10 : List ObjDef :=
  [ ⟨0x1400, 0x1400, 0x01, 0x01, 1, .rwt, .v, 2, 1, false, .tray, .num 0, .iv 0 1⟩,
    ⟨0x1400, 0x1400, 0x02, 0x02, 4, .ro, .s, 0, 1, false, .tray, .num 0, .all⟩,
    ⟨0x1400, 0x1400, 0x03, 0x03, 4, .ro, .s, 0, 1, false, .tray, .num 0, .all⟩,
    ⟨0x1400, 0x1400, 0x05, 0x05, 3, .rw, .s, 2, 1, false, .tray, .num 256, .iv 16 1024⟩,
    ⟨0x1400, 0x1400, 0x10, 0x10, 13, .rw, .w, 2, 1, false, .tray, .bytes [], .ent 0 4194304 8 0xFFFFFE000007FFFF⟩,
    ⟨0x1400, 0x1400, 0x11, 0x11, 13, .ro, .s, 0, 1, false, .tray, .bytes [], .all⟩,
    ⟨0x1400, 0x1400, 0x20, 0x20, 13, .rwt, .s, 2, 1, false, .tray, .bytes paramSetsReset, .chk .paramSets⟩,
    ⟨0x1400, 0x1400, 0x30, 0x30, 4, .rw, .v, 2, 1, false, .tray, .num 0, .iv 0 524287⟩,
    ⟨0x1400, 0x1400, 0x31, 0x31, 13, .ro, .v, 0, 1, false, .tray, .bytes [], .all⟩,
    ⟨0x1400, 0x1400, 0x40, 0x40, 5, .ro, .v, 0, 1, false, .tray, .num 0, .all⟩,
    ⟨0x1400, 0x1400, 0x41, 0x41, 5, .ro, .v, 0, 1, false, .tray, .num 0, .all⟩,
    ⟨0x1400, 0x1400, 0x42, 0x42, 4, .ro, .v, 0, 1, false, .tray, .num 0, .all⟩,
    ⟨0x1400, 0x1400, 0x43, 0x43, 4, .ro, .v, 0, 1, false, .tray, .num 0, .all⟩,
    ⟨0x1400, 0x1400, 0x44, 0x44, 5, .ro, .v, 0, 1, false, .tray, .num 0, .all⟩,
    ⟨0x1400, 0x1400, 0x45, 0x45, 4, .ro, .v, 0, 1, false, .tray, .num 0, .all⟩,
    ⟨0x1400, 0x1400, 0x46, 0x46, 5, .ro, .v, 0, 1, false, .tray, .num 0, .all⟩,
    ⟨0x1400, 0x1400, 0x47, 0x47, 4, .ro, .v, 0, 1, false, .tray, .num 0, .all⟩,
    ⟨0x1400, 0x1400, 0x48, 0x48, 4, .ro, .v, 0, 1, false, .tray, .num 0, .all⟩ ]

/-- Rows of the dictionary tables from index 0x1800. -/
def objRows11a : List ObjDef :=
  [ ⟨0x1800, 0x1800, 0x01, 0x01, 2, .ro, .s, 0, 1, false, .tray, .num 0, .all⟩,
    ⟨0x1800, 0x1800, 0x02, 0x02, 2, .ro, .s, 0, 1, false, .tray, .num 0, .all⟩,
    ⟨0x1800, 0x1800, 0x03, 0x03, 3, .ro, .s, 0, 1, false, .tray, .num 0, .all⟩,
    ⟨0x1800, 0x1800, 0x10, 0x10, 5, .ro, .v, 0, 1, false, .tray, .num 0, .all⟩,
    ⟨0x1800, 0x1800, 0x11, 0x11, 5, .ro, .v, 0, 1, false, .tray, .num 0, .all⟩,
    ⟨0x1800, 0x1800, 0x12, 0x12, 5, .ro, .v, 0, 1, false, .tray, .num 0, .all⟩,
    ⟨0x1800, 0x1800, 0x13, 0x13, 5, .ro, .v, 0, 1, false, .tray, .num 0, .all⟩,
    ⟨0x1800, 0x1800, 0x14, 0x14, 4, .ro, .v, 0, 1, false, .tray, .num 0, .all⟩,
    ⟨0x1800, 0x1800, 0x15, 0x15, 4, .ro, .v, 0, 1, false, .tray, .num 0, .all⟩,
    ⟨0x1800, 0x1800, 0x30, 0x30, 4, .rw, .v, 2, 1, false, .tray, .num 0, .msk 0x7FFFF⟩,
    ⟨0x1800, 0x1800, 0x31, 0x31, 13, .ro, .v, 0, 1, false, .tray, .bytes [], .all⟩,
    ⟨0x1A00, 0x1A00, 0x01, 0x01, 1, .rwt, .v, 3, 1, false, .tray, .num 0, .iv 0 1⟩,
    ⟨0x1A00, 0x1A00, 0x02, 0x02, 5, .ro, .s, 0, 1, false, .tray, .num 0, .all⟩,
    ⟨0x1A00, 0x1A00, 0x03, 0x03, 4, .ro, .s, 0, 1, false, .tray, .num 0, .all⟩,
    ⟨0x1A00, 0x1A00, 0x04, 0x04, 3, .ro, .s, 0, 1, false, .tray, .num 0, .all⟩,
    ⟨0x1A00, 0x1A00, 0x05, 0x05, 3, .ro, .s, 0, 1, false, .tray, .num 0, .all⟩,
    ⟨0x1A00, 0x1A00, 0x06, 0x06, 2, .ro, .v, 0, 1, false, .tray, .num 0x00, .all⟩,
    ⟨0x1A00, 0x1A00, 0x0F, 0x0F, 13, .ro, .s, 0, 1, false, .tray, .bytes [], .all⟩,
    ⟨0x1A00, 0x1A00, 0x10, 0x10, 13, .rw, .w, 2, 1, false, .tray, .bytes [], .len 0 69206016 1⟩,
    ⟨0x1A00, 0x1A00, 0x11, 0x11, 2, .ro, .w, 0, 1, false, .tray, .num 0, .all⟩,
    ⟨0x1A00, 0x1A00, 0x12, 0x12, 2, .ro, .w, 0, 1, false, .tray, .num 0x00, .all⟩,
    ⟨0x1A00, 0x1A00, 0x13, 0x13, 4, .ro, .w, 0, 1, false, .tray, .num 0, .all⟩,
    ⟨0x1A00, 0x1A00, 0x14, 0x14, 5, .ro, .w, 0, 1, false, .tray, .num 0, .all⟩,
    ⟨0x1A00, 0x1A00, 0x20, 0x20, 4, .ro, .v, 0, 1, false, .tray, .num 0, .all⟩ ]

/-- Rows of the dictionary tables from index 0x1800. -/
def objRows11b : List ObjDef :=
  [ ⟨0x1A00, 0x1A00, 0x21, 0x21, 5, .ro, .v, 0, 1, false, .tray, .num 0, .all⟩,
    ⟨0x1A00, 0x1A00, 0x22, 0x22, 5, .ro, .v, 0, 1, false, .tray, .num 0, .all⟩,
    ⟨0x1A00, 0x1A00, 0x23, 0x23, 5, .ro, .v, 0, 1, false, .tray, .num 0, .all⟩,
    ⟨0x1A00, 0x1A00, 0x24, 0x24, 5, .ro, .v, 0, 1, false, .tray, .num 0, .all⟩,
    ⟨0x1A00, 0x1A00, 0x25, 0x25, 4, .ro, .v, 0, 1, false, .tray, .num 0, .all⟩,
    ⟨0x1A00, 0x1A00, 0x30, 0x30, 4, .rw, .v, 2, 1, false, .tray, .num 0, .msk 0x7FFFF⟩,
    ⟨0x1A00, 0x1A00, 0x31, 0x31, 13, .ro, .v, 0, 1, false, .tray, .bytes [], .all⟩ ]

/-- Rows of the dictionary tables from index 0x1800, all of them. -/
def objRows11 : List ObjDef := objRows11a ++ objRows11b

/-- Rows of the dictionary tables from index 0x2000. -/
def objRows12 : List ObjDef :=
  [ ⟨0x2000, 0x2000, 0x03, 0x03, 2, .rw, .s, 2, 1, false, .tray, .num 4, .iv 2 16⟩,
    ⟨0x2000, 0x2000, 0x04, 0x04, 3, .rw, .s, 2, 1, false, .tray, .num 4, .iv 2 1024⟩,
    ⟨0x2000, 0x2000, 0x05, 0x05, 4, .rw, .s, 2, 1, false, .tray, .num 1000, .iv 0 10000000⟩,
    ⟨0x2000, 0x2000, 0x06, 0x06, 2, .rw, .s, 2, 1, false, .tray, .num 4, .iv 1 12⟩,
    ⟨0x2000, 0x2000, 0x07, 0x07, 2, .rw, .s, 2, 1, false, .tray, .num 4, .iv 1 64⟩,
    ⟨0x2000, 0x2000, 0x08, 0x08, 3, .rw, .s, 2, 1, false, .tray, .num 64, .iv 0 65535⟩,
    ⟨0x2000, 0x2000, 0x09, 0x09, 4, .rw, .s, 2, 1, false, .tray, .num 0xFFFFFFFF, .ivs [(0, 524287), (0xFFFFFFFF, 0xFFFFFFFF)]⟩,
    ⟨0x2000, 0x2000, 0x0A, 0x0A, 3, .rw, .s, 2, 1, false, .tray, .num 16, .iv 1 4095⟩,
    ⟨0x2000, 0x2000, 0x20, 0x20, 5, .ro, .v, 0, 1, false, .tray, .num 0, .all⟩,
    ⟨0x2000, 0x2000, 0x21, 0x21, 5, .ro, .v, 0, 1, false, .tray, .num 0, .all⟩,
    ⟨0x2000, 0x2000, 0x22, 0x22, 4, .ro, .v, 0, 1, false, .tray, .num 0, .all⟩,
    ⟨0x2000, 0x2000, 0x23, 0x23, 4, .ro, .v, 0, 1, false, .tray, .num 0, .all⟩,
    ⟨0x2000, 0x2000, 0x24, 0x24, 4, .ro, .v, 0, 1, false, .tray, .num 0, .all⟩,
    ⟨0x2000, 0x2000, 0x25, 0x25, 3, .ro, .v, 0, 1, false, .tray, .num 0, .all⟩,
    ⟨0x2000, 0x2000, 0x30, 0x30, 4, .rw, .v, 2, 1, false, .tray, .num 0, .iv 0 49151⟩,
    ⟨0x2000, 0x2000, 0x31, 0x31, 13, .ro, .w, 0, 1, false, .tray, .bytes [], .all⟩,
    ⟨0x2000, 0x2000, 0x40, 0x40, 13, .wo, .v, 2, 0, false, .tray, .bytes [], .chk .suspects⟩,
    ⟨0x2000, 0x2000, 0x41, 0x41, 5, .ro, .w, 0, 1, false, .tray, .num 0, .all⟩,
    ⟨0x2000, 0x2000, 0x42, 0x42, 13, .wo, .v, 2, 0, false, .tray, .bytes [], .chk .suspects⟩ ]

/-- Rows of the dictionary tables from index 0x2200. -/
def objRows13 : List ObjDef :=
  [ ⟨0x2200, 0x2200, 0x01, 0x01, 1, .rwt, .v, 3, 1, false, .tray, .num 0, .iv 0 1⟩,
    ⟨0x2200, 0x2200, 0x02, 0x02, 5, .ro, .s, 0, 1, false, .tray, .num 0, .all⟩,
    ⟨0x2200, 0x2200, 0x03, 0x03, 3, .ro, .s, 0, 1, false, .tray, .num 0, .all⟩,
    ⟨0x2200, 0x2200, 0x05, 0x05, 2, .rw, .s, 2, 1, false, .tray, .num 8, .iv 1 32⟩,
    ⟨0x2200, 0x2200, 0x06, 0x06, 2, .ro, .v, 0, 1, false, .tray, .num 0x00, .all⟩,
    ⟨0x2200, 0x2200, 0x0F, 0x0F, 13, .ro, .s, 0, 1, false, .tray, .bytes [], .all⟩,
    ⟨0x2200, 0x2200, 0x10, 0x10, 13, .rw, .w, 2, 1, false, .tray, .bytes [], .len 0 33792 1⟩,
    ⟨0x2200, 0x2200, 0x11, 0x11, 2, .ro, .w, 0, 1, false, .tray, .num 0, .all⟩,
    ⟨0x2200, 0x2200, 0x12, 0x12, 2, .ro, .w, 0, 1, false, .tray, .num 0x00, .all⟩,
    ⟨0x2200, 0x2200, 0x13, 0x13, 4, .ro, .w, 0, 1, false, .tray, .num 0, .all⟩,
    ⟨0x2200, 0x2200, 0x20, 0x20, 5, .ro, .v, 0, 1, false, .tray, .num 0, .all⟩,
    ⟨0x2200, 0x2200, 0x21, 0x21, 5, .ro, .v, 0, 1, false, .tray, .num 0, .all⟩,
    ⟨0x2200, 0x2200, 0x22, 0x22, 4, .ro, .v, 0, 1, false, .tray, .num 0, .all⟩,
    ⟨0x2200, 0x2200, 0x23, 0x23, 4, .ro, .v, 0, 1, false, .tray, .num 0, .all⟩,
    ⟨0x2200, 0x2200, 0x24, 0x24, 4, .ro, .v, 0, 1, false, .tray, .num 0, .all⟩,
    ⟨0x2200, 0x2200, 0x30, 0x30, 4, .rw, .v, 2, 1, false, .tray, .num 0, .msk 0xFF00FFFF⟩,
    ⟨0x2200, 0x2200, 0x31, 0x31, 13, .ro, .v, 0, 1, false, .tray, .bytes [], .all⟩,
    ⟨0x2200, 0x2200, 0x50, 0x50, 13, .wo, .v, 2, 0, false, .tray, .bytes [], .lens [16, 48]⟩,
    ⟨0x2200, 0x2200, 0x60, 0x60, 13, .wo, .v, 2, 0, false, .tray, .bytes [], .len 16 16 1⟩,
    ⟨0x2200, 0x2200, 0x61, 0x61, 4, .rw, .s, 2, 1, false, .tray, .num 0xFFFFFFFF, .ivs [(0, 524287), (0xFFFFFFFF, 0xFFFFFFFF)]⟩,
    ⟨0x2200, 0x2200, 0x62, 0x62, 2, .rw, .s, 2, 1, false, .tray, .num 8, .iv 2 32⟩,
    ⟨0x2200, 0x2200, 0x63, 0x63, 4, .ro, .v, 0, 1, false, .tray, .num 0, .all⟩,
    ⟨0x2200, 0x2200, 0x64, 0x64, 4, .ro, .v, 0, 1, false, .tray, .num 0, .all⟩,
    ⟨0x2200, 0x2200, 0x70, 0x70, 13, .ro, .v, 0, 1, false, .tray, .bytes [], .all⟩ ]

/-- Rows of the dictionary tables from index 0x2400. -/
def objRows14 : List ObjDef :=
  [ ⟨0x2400, 0x2400, 0x01, 0x01, 4, .ro, .v, 0, 1, false, .tray, .num 142606336, .all⟩,
    ⟨0x2400, 0x2400, 0x02, 0x02, 5, .ro, .v, 0, 1, false, .tray, .num 0, .all⟩,
    ⟨0x2400, 0x2400, 0x03, 0x03, 5, .ro, .v, 0, 1, false, .tray, .num 0, .all⟩,
    ⟨0x2400, 0x2400, 0x04, 0x04, 3, .rw, .s, 2, 1, false, .tray, .num 16, .iv 1 4096⟩,
    ⟨0x2400, 0x2400, 0x05, 0x05, 4, .ro, .v, 0, 1, false, .tray, .num 0, .all⟩,
    ⟨0x2400, 0x2400, 0x06, 0x06, 5, .ro, .v, 0, 1, false, .tray, .num 0, .all⟩,
    ⟨0x2400, 0x2400, 0x07, 0x07, 5, .ro, .v, 0, 1, false, .tray, .num 0, .all⟩,
    ⟨0x2400, 0x2400, 0x08, 0x08, 5, .ro, .v, 0, 1, false, .tray, .num 0, .all⟩,
    ⟨0x2400, 0x2400, 0x09, 0x09, 5, .ro, .v, 0, 1, false, .tray, .num 0, .all⟩,
    ⟨0x2400, 0x2400, 0x0A, 0x0A, 5, .ro, .v, 0, 1, false, .tray, .num 0, .all⟩,
    ⟨0x2400, 0x2400, 0x10, 0x10, 2, .ro, .v, 0, 1, false, .tray, .num 0x00, .all⟩,
    ⟨0x2400, 0x2400, 0x11, 0x11, 2, .ro, .v, 0, 1, false, .tray, .num 0x00, .all⟩,
    ⟨0x2400, 0x2400, 0x20, 0x20, 13, .rw, .s, 2, 1, false, .tray, .bytes (List.replicate 16 0), .chk .portShaper⟩,
    ⟨0x2400, 0x2400, 0x21, 0x21, 13, .rw, .s, 2, 1, false, .tray, .bytes (List.replicate 16 0), .chk .portShaper⟩,
    ⟨0x2400, 0x2400, 0x30, 0x30, 4, .rw, .v, 2, 1, false, .tray, .num 0, .iv 0 65535⟩,
    ⟨0x2400, 0x2400, 0x31, 0x31, 13, .ro, .v, 0, 1, false, .tray, .bytes [], .all⟩,
    ⟨0x2400, 0x2400, 0x32, 0x32, 3, .rw, .v, 2, 1, false, .tray, .num 0, .iv 0 4095⟩,
    ⟨0x2400, 0x2400, 0x33, 0x33, 13, .ro, .v, 0, 1, false, .tray, .bytes [], .all⟩ ]

/-- Rows of the dictionary tables from index 0x2800. -/
def objRows15 : List ObjDef :=
  [ ⟨0x2800, 0x2800, 0x01, 0x01, 5, .ro, .v, 0, 1, false, .tray, .num 0, .all⟩,
    ⟨0x2800, 0x2800, 0x02, 0x02, 5, .ro, .v, 0, 1, false, .tray, .num 0, .all⟩,
    ⟨0x2800, 0x2800, 0x03, 0x03, 5, .ro, .v, 0, 1, false, .tray, .num 0, .all⟩,
    ⟨0x2800, 0x2800, 0x04, 0x04, 5, .ro, .v, 0, 1, false, .tray, .num 0, .all⟩,
    ⟨0x2800, 0x2800, 0x05, 0x05, 4, .ro, .v, 0, 1, false, .tray, .num 0, .all⟩,
    ⟨0x2800, 0x2800, 0x06, 0x06, 4, .ro, .v, 0, 1, false, .tray, .num 0, .all⟩,
    ⟨0x2800, 0x2800, 0x07, 0x07, 4, .ro, .v, 0, 1, false, .tray, .num 0, .all⟩,
    ⟨0x2800, 0x2800, 0x08, 0x08, 5, .ro, .v, 0, 1, false, .tray, .num 0, .all⟩,
    ⟨0x2800, 0x2800, 0x09, 0x09, 5, .ro, .v, 0, 1, false, .tray, .num 0, .all⟩,
    ⟨0x2800, 0x2800, 0x0A, 0x0A, 4, .ro, .v, 0, 1, false, .tray, .num 0, .all⟩,
    ⟨0x2800, 0x2800, 0x0B, 0x0B, 4, .ro, .v, 0, 1, false, .tray, .num 0, .all⟩,
    ⟨0x2800, 0x2800, 0x10, 0x10, 13, .wo, .v, 2, 0, false, .tray, .bytes [], .len 32 32 1⟩,
    ⟨0x2800, 0x2800, 0x11, 0x11, 2, .ro, .v, 0, 1, false, .tray, .num 0, .all⟩,
    ⟨0x2800, 0x2800, 0x12, 0x12, 13, .ro, .v, 0, 1, false, .tray, .bytes [], .all⟩,
    ⟨0x2800, 0x2800, 0x13, 0x13, 4, .ro, .v, 0, 1, false, .tray, .num 0, .all⟩,
    ⟨0x2800, 0x2800, 0x20, 0x20, 3, .rw, .v, 2, 1, false, .tray, .num 0xFFFF, .chk .traceFetch⟩,
    ⟨0x2800, 0x2800, 0x21, 0x21, 4, .ro, .v, 0, 1, false, .tray, .num 0, .all⟩,
    ⟨0x2800, 0x2800, 0x22, 0x22, 2, .rw, .s, 2, 1, false, .tray, .num 3, .iv 1 12⟩,
    ⟨0x2800, 0x2800, 0x40, 0x4F, 13, .rw, .s, 2, 1, false, .tray, .bytes streamEntryReset, .chk .streamEntry⟩ ]

/-- Rows of the dictionary tables from index 0x2C00. -/
def objRows16 : List ObjDef :=
  [ ⟨0x2C00, 0x2C00, 0x01, 0x01, 2, .const, .c, 0, 1, false, .tray, .num 8, .all⟩,
    ⟨0x2C00, 0x2C00, 0x02, 0x02, 4, .ro, .v, 0, 1, false, .tray, .num 0, .all⟩,
    ⟨0x2C00, 0x2C00, 0x03, 0x03, 4, .ro, .v, 0, 1, false, .tray, .num 0, .all⟩,
    ⟨0x2C00, 0x2C00, 0x04, 0x04, 4, .ro, .v, 0, 1, false, .tray, .num 0, .all⟩,
    ⟨0x2C10, 0x2C17, 0x01, 0x01, 5, .wo, .v, 2, 0, false, .tray, .num 0, .chk .descAddr⟩,
    ⟨0x2C10, 0x2C17, 0x02, 0x02, 1, .wo, .v, 2, 0, false, .tray, .num 0, .iv 1 1⟩,
    ⟨0x2C10, 0x2C17, 0x03, 0x03, 2, .ro, .v, 0, 1, false, .tray, .num 0x00, .all⟩,
    ⟨0x2C10, 0x2C17, 0x04, 0x04, 5, .ro, .v, 0, 1, false, .tray, .num 0, .all⟩,
    ⟨0x2C10, 0x2C17, 0x05, 0x05, 5, .ro, .v, 0, 1, false, .tray, .num 0, .all⟩,
    ⟨0x2C10, 0x2C17, 0x06, 0x06, 5, .ro, .v, 0, 1, false, .tray, .num 0, .all⟩,
    ⟨0x2C10, 0x2C17, 0x07, 0x07, 2, .ro, .v, 0, 1, false, .tray, .num 0x00, .all⟩,
    ⟨0x3000, 0x3000, 0x01, 0x01, 5, .ro, .v, 0, 1, false, .both, .num 0, .all⟩,
    ⟨0x3000, 0x3000, 0x02, 0x02, 5, .ro, .v, 0, 1, false, .tray, .num 0, .all⟩,
    ⟨0x3000, 0x3000, 0x05, 0x05, 5, .ro, .w, 0, 1, false, .both, .num 0, .all⟩,
    ⟨0x3000, 0x3000, 0x10, 0x10, 13, .ro, .w, 0, 1, false, .both, .bytes [], .all⟩,
    ⟨0x3000, 0x3000, 0x11, 0x11, 3, .ro, .w, 0, 1, false, .both, .num 0, .all⟩,
    ⟨0x3000, 0x3000, 0x20, 0x23, 13, .rw, .s, 3, 1, false, .tray, .bytes [], .chk .verifyKey⟩,
    ⟨0x3000, 0x3000, 0x30, 0x30, 4, .ro, .s, 0, 1, false, .tray, .num 0, .all⟩,
    ⟨0x3000, 0x3000, 0x31, 0x31, 4, .ro, .v, 0, 1, false, .tray, .num 0, .all⟩,
    ⟨0x3000, 0x3000, 0x32, 0x32, 4, .ro, .v, 0, 1, false, .tray, .num 0, .all⟩ ]

/-- Rows of the dictionary tables from index 0x3400. -/
def objRows17 : List ObjDef :=
  [ ⟨0x3400, 0x3400, 0x01, 0x01, 5, .ro, .v, 0, 1, false, .tray, .num 0, .all⟩,
    ⟨0x3400, 0x3400, 0x02, 0x02, 4, .ro, .v, 0, 1, false, .tray, .num 0, .all⟩,
    ⟨0x3400, 0x3400, 0x03, 0x03, 4, .ro, .v, 0, 1, false, .tray, .num 0, .all⟩,
    ⟨0x3400, 0x3400, 0x04, 0x04, 1, .rw, .s, 2, 1, false, .tray, .num 0, .iv 0 1⟩,
    ⟨0x3400, 0x3400, 0x05, 0x05, 4, .rw, .s, 2, 1, false, .tray, .num 1024, .iv 1 1048576⟩,
    ⟨0x3400, 0x3400, 0x06, 0x06, 4, .ro, .v, 0, 1, false, .tray, .num 0, .all⟩,
    ⟨0x3400, 0x3400, 0x07, 0x07, 4, .ro, .v, 0, 1, false, .tray, .num 0, .all⟩,
    ⟨0x3400, 0x3400, 0x08, 0x08, 5, .wo, .v, 3, 0, false, .tray, .num 0, .chk .location⟩,
    ⟨0x3400, 0x3400, 0x09, 0x09, 13, .wo, .v, 3, 0, false, .tray, .bytes [], .chk .locations⟩,
    ⟨0x3400, 0x3400, 0x10, 0x10, 13, .ro, .s, 0, 2, false, .tray, .bytes [], .all⟩,
    ⟨0x3400, 0x3400, 0x11, 0x11, 5, .rw, .v, 2, 1, false, .tray, .num 0, .chk .location⟩,
    ⟨0x3400, 0x3400, 0x12, 0x12, 13, .ro, .v, 0, 1, false, .tray, .bytes [], .all⟩,
    ⟨0x3400, 0x3400, 0x30, 0x30, 13, .wo, .v, 2, 0, false, .tray, .bytes [], .chk .firmwareLog⟩,
    ⟨0x3400, 0x3400, 0x31, 0x31, 13, .ro, .s, 0, 2, false, .tray, .bytes [], .all⟩ ]

/-- Rows of the dictionary tables from index 0x3800. -/
def objRows18a : List ObjDef :=
  [ ⟨0x3800, 0x3800, 0x01, 0x01, 2, .rwt, .v, 2, 1, false, .leaf, .num 0x00, .iv 0 3⟩,
    ⟨0x3800, 0x3800, 0x01, 0x01, 2, .rwt, .v, 2, 1, false, .tray, .num 0x00, .ivs [(0, 0), (2, 3)]⟩,
    ⟨0x3800, 0x3800, 0x02, 0x02, 2, .ro, .v, 0, 1, false, .both, .num 0x00, .all⟩,
    ⟨0x3800, 0x3800, 0x03, 0x03, 1, .wo, .v, 2, 0, false, .tray, .num 0, .iv 1 1⟩,
    ⟨0x3800, 0x3800, 0x04, 0x04, 4, .ro, .v, 0, 1, false, .tray, .num 0, .all⟩,
    ⟨0x3800, 0x3800, 0x10, 0x10, 4, .ro, .v, 0, 1, true, .tray, .num 0, .all⟩,
    ⟨0x3800, 0x3800, 0x11, 0x11, 4, .ro, .v, 0, 1, true, .tray, .num 0, .all⟩,
    ⟨0x3800, 0x3800, 0x12, 0x12, 4, .rw, .s, 3, 1, true, .tray, .num 4194304, .iv 3932160 4456448⟩,
    ⟨0x3800, 0x3800, 0x13, 0x13, 4, .rw, .s, 2, 1, true, .tray, .num 44000, .iv 30000 60000⟩,
    ⟨0x3800, 0x3800, 0x14, 0x14, 3, .rw, .s, 2, 1, true, .tray, .num 1000, .iv 0 8000⟩,
    ⟨0x3800, 0x3800, 0x15, 0x15, 3, .rw, .s, 2, 1, true, .tray, .num 64, .iv 1 65535⟩,
    ⟨0x3800, 0x3800, 0x16, 0x16, 2, .rw, .s, 2, 1, true, .tray, .num 4, .iv 0 15⟩,
    ⟨0x3800, 0x3800, 0x17, 0x17, 4, .rw, .s, 2, 1, true, .tray, .num 38000, .iv 20000 60000⟩,
    ⟨0x3800, 0x3800, 0x18, 0x18, 2, .ro, .v, 0, 1, true, .tray, .num 0x00, .all⟩,
    ⟨0x3800, 0x3800, 0x19, 0x19, 4, .ro, .v, 0, 1, true, .tray, .num 0, .all⟩,
    ⟨0x3800, 0x3800, 0x1A, 0x1A, 4, .ro, .v, 0, 1, true, .tray, .num 0, .all⟩,
    ⟨0x3800, 0x3800, 0x20, 0x20, 3, .ro, .v, 0, 1, true, .tray, .num 750, .all⟩,
    ⟨0x3800, 0x3800, 0x21, 0x21, 3, .rw, .s, 3, 1, true, .tray, .num 650, .stp 650 850 10⟩,
    ⟨0x3800, 0x3800, 0x22, 0x22, 3, .rw, .s, 3, 1, true, .tray, .num 850, .stp 650 850 10⟩,
    ⟨0x3800, 0x3800, 0x23, 0x23, 3, .ro, .v, 0, 1, true, .tray, .num 0, .all⟩,
    ⟨0x3800, 0x3800, 0x24, 0x24, 3, .ro, .v, 0, 1, false, .tray, .num 750, .all⟩,
    ⟨0x3800, 0x3800, 0x25, 0x25, 4, .ro, .v, 0, 1, false, .tray, .num 0, .all⟩,
    ⟨0x3800, 0x3800, 0x30, 0x30, 6, .ro, .v, 0, 1, false, .tray, .num 0, .all⟩,
    ⟨0x3800, 0x3800, 0x31, 0x31, 6, .rw, .s, 2, 1, false, .tray, .num 1600, .iv 800 1680⟩ ]

/-- Rows of the dictionary tables from index 0x3800. -/
def objRows18b : List ObjDef :=
  [ ⟨0x3800, 0x3800, 0x32, 0x32, 6, .ro, .v, 0, 1, false, .tray, .num 0, .all⟩,
    ⟨0x3800, 0x3800, 0x40, 0x40, 4, .rw, .s, 2, 1, false, .tray, .num 100, .iv 0 1000000⟩,
    ⟨0x3800, 0x3800, 0x41, 0x41, 3, .rw, .s, 2, 1, false, .tray, .num 16, .iv 1 4096⟩,
    ⟨0x3800, 0x3800, 0x42, 0x42, 4, .ro, .v, 0, 1, false, .tray, .num 0, .all⟩,
    ⟨0x3800, 0x3800, 0x43, 0x43, 4, .ro, .v, 0, 1, false, .tray, .num 0, .all⟩,
    ⟨0x3800, 0x3800, 0x44, 0x44, 13, .wo, .v, 2, 0, false, .tray, .bytes [], .len 16 16 1⟩,
    ⟨0x3800, 0x3800, 0x45, 0x45, 13, .rw, .s, 2, 1, false, .tray, .bytes (List.replicate 1536 1), .chk .wakeCost⟩,
    ⟨0x3800, 0x3800, 0x46, 0x46, 3, .ro, .v, 0, 1, false, .tray, .num 0, .all⟩,
    ⟨0x3800, 0x3800, 0x47, 0x47, 5, .ro, .v, 0, 1, false, .tray, .num 0, .all⟩,
    ⟨0x3800, 0x3800, 0x48, 0x48, 4, .ro, .v, 0, 1, false, .tray, .num 0, .all⟩,
    ⟨0x3800, 0x3800, 0x49, 0x49, 5, .ro, .v, 0, 1, false, .tray, .num 0, .all⟩ ]

/-- Rows of the dictionary tables from index 0x3800, all of them. -/
def objRows18 : List ObjDef := objRows18a ++ objRows18b

/-- Rows of the dictionary tables from index 0x3C00. -/
def objRows19 : List ObjDef :=
  [ ⟨0x3C00, 0x3C00, 0x01, 0x01, 3, .rw, .v, 2, 1, false, .leaf, .num 0, .chk .loupe⟩,
    ⟨0x3C00, 0x3C00, 0x01, 0x01, 4, .rw, .v, 2, 1, true, .tray, .num 0, .chk .loupe⟩,
    ⟨0x3C00, 0x3C00, 0x02, 0x02, 1, .rw, .v, 3, 1, false, .both, .num 0, .iv 0 1⟩,
    ⟨0x3C00, 0x3C00, 0x03, 0x03, 4, .const, .c, 0, 1, false, .leaf, .num 0x35A7054F, .all⟩,
    ⟨0x3C00, 0x3C00, 0x03, 0x03, 4, .const, .c, 0, 1, false, .tray, .num 0x35A7154F, .all⟩,
    ⟨0x4000, 0x4007, 0x01, 0x80, 2, .rwt, .w, 2, 1, false, .leaf, .num 0x00, .msk 0x07⟩,
    ⟨0x4008, 0x4008, 0x01, 0x20, 2, .rwt, .w, 2, 1, false, .leaf, .num 0x00, .msk 0x0F⟩,
    ⟨0x4400, 0x4400, 0x01, 0xFF, 5, .rwt, .s, 2, 1, false, .tray, .num 0x4000000000, .chk .groupEntry⟩,
    ⟨0x4800, 0x481F, 0x01, 0x80, 13, .rw, .s, 2, 1, false, .tray, .bytes (List.replicate 16 0), .chk .subEntry⟩,
    ⟨0x4900, 0x4AFF, 0x01, 0x80, 13, .rw, .s, 2, 1, false, .tray, .bytes queueEntryReset, .chk .queueEntry⟩,
    ⟨0x4B00, 0x4CFF, 0x01, 0x80, 13, .rw, .s, 2, 1, false, .tray, .bytes (List.replicate 16 0), .chk .policerEntry⟩ ]

/-- Every dictionary table of the spec as one list. -/
def objRows : List ObjDef :=
  objRows0 ++ objRows1 ++ objRows2 ++ objRows3 ++ objRows4 ++ objRows5 ++ objRows6 ++ objRows7 ++ objRows8 ++
  objRows9 ++ objRows10 ++ objRows11 ++ objRows12 ++ objRows13 ++ objRows14 ++ objRows15 ++ objRows16 ++ objRows17 ++
  objRows18 ++ objRows19

/-- The rows among which index `idx` can lie: the part of `objRows` that holds it. -/
def rowsFor (idx : Nat) : List ObjDef :=
  (if idx < 0x1400 then (if idx < 0x0A00 then (if idx < 0x0300 then (if idx < 0x0200 then objRows0 else objRows1) else (if idx < 0x0400 then objRows2 else (if idx < 0x0800 then objRows3 else objRows4))) else (if idx < 0x0C00 then (if idx < 0x0B00 then objRows5 else objRows6) else (if idx < 0x0E00 then objRows7 else (if idx < 0x0E10 then objRows8 else objRows9)))) else (if idx < 0x2800 then (if idx < 0x2000 then (if idx < 0x1800 then objRows10 else objRows11) else (if idx < 0x2200 then objRows12 else (if idx < 0x2400 then objRows13 else objRows14))) else (if idx < 0x3400 then (if idx < 0x2C00 then objRows15 else objRows16) else (if idx < 0x3800 then objRows17 else (if idx < 0x3C00 then objRows18 else objRows19)))))

end Sys2Proof.Machine
end

