-- ==== Sys2Proof/Machine/BlkState.lean ====
section
/-! DEFINITION. The state that a leaf and a channel have in common: what the block puts out, the phases of its reset,
the servos and the frame sequencer (chapter Frames and Time), the Bivan endpoint and the transaction engine (chapter
Object Dictionary), the frame journal and the link to the parent (chapter Reduction). Every register that is an
object of the dictionary lives in `store`; the structures hold what is not an object. -/

namespace Sys2Proof.Machine

/-- A Bivan request that the block itself sends (R77), or forwards to its children (R99). -/
structure Msg where
  dst : Word
  opcode : Nat
  seq : Nat
  txn : Nat
  items : List Item
  body : List Byte
  deriving DecidableEq, Repr

/-- The data registers of the test access port (Table 17.12); `segment` is the 1-bit segment that an IJTAG_ACCESS
selects while the instruments are disabled (R429). -/
inductive TapReg where
  | boundary | idcode | bypass | network | segment
  deriving DecidableEq, Repr

/-- Where a message that is addressed elsewhere goes (R84): to a leaf over the fabric ingress ports, down the tree toward its
destination, or up toward the root. -/
inductive Hop where
  | ingress
  | down
  | up
  deriving DecidableEq, Repr

/-- What leaves the block. Nothing reads it back: it is the record of what crossed the ports, oldest first. -/
inductive Out where
  /-- A Bivan response, sent back the way the request came (R84, R85, R86). -/
  | resp (w : Way) (r : Resp)
  /-- A Bivan request on the fabric. -/
  | msg (m : Msg)
  /-- A Bivan request that is addressed elsewhere and passed on unchanged (R84). -/
  | relay (hop : Hop) (dst : Word) (opcode : Nat) (q : Req)
  /-- A Bivan response that is addressed elsewhere and passed on unchanged (R84). -/
  | relayResp (hop : Hop) (dst : Word) (r : Resp)
  /-- A Delay_Req with its sequence identifier (R60). -/
  | delayReq (d : Dom) (seqId : BitVec 16)
  /-- A data fragment (R176). -/
  | fragment (dst : Word) (h : FragHdr) (data : List Byte)
  /-- A control fragment (R179, R202 step 5). -/
  | control (dst : Word) (h : FragHdr) (entries : List RelEntry)
  /-- An attach fragment (R202, R386); `left` is the parent left, 0xFFFFFFFF for none. -/
  | attach (dst : Word) (frame : Nat) (left : Word)
  /-- A release query (R202 step 2); `src` is the node that asks, also when the query is forwarded. -/
  | query (dst src : Word) (h : FragHdr) (left : Word) (children : List Word)
  /-- A release answer (R202 step 3). -/
  | answer (dst : Word) (h : FragHdr) (entries : List RelEntry)
  /-- A stream packet to a subscriber on an uplink port (R284, Table 11.4). -/
  | stream (port : Nat) (subscriber : Nat) (queue : Nat) (packet : List Byte)
  /-- A routing bitmap for a subscriber, to the egress of a serving channel outside this tray (R134). -/
  | notice (channel subscriber leaf : Nat) (bitmap : List Byte)
  /-- A region command presented on the region port (R411). -/
  | region (region : Nat) (off : Bool) (level : Nat)
  /-- Credit pulses to the core tap port (R111, R409). -/
  | credit (n : Nat)
  /-- The data that a read which changes the state returned (R61). -/
  | data (key : Nat) (d : List Byte)
  /-- What an act did: the object written and its status. -/
  | act (key : Nat) (status : Nat)
  /-- A request on the memory master port (R425): tag, write, 64-byte line, the bytes of the line that it names, and the
  data of those bytes for a write. -/
  | mmp (tag : Nat) (write : Bool) (line mask : Nat) (data : List Byte)
  /-- An SMBus block returned or the Alert Response byte (R86, R428). -/
  | smbus (data : List Byte)
  /-- A host port access answered, with hp_err when refused (R418). -/
  | host (data : Nat) (err : Bool)
  /-- A host port mailbox response became ready (R423). -/
  | mailbox
  /-- The ctp_trace_stall output changes (R313). -/
  | stall (on : Bool)
  /-- The sideband releases smb_clk and smb_dat (R428). -/
  | smbusRelease
  /-- A test access instruction selects a data register, which captures a value (R429). -/
  | tap (dr : TapReg) (captured : Nat)
  deriving DecidableEq, Repr

/-- Where a block stands with respect to its resets (R377 to R384, Table 15.5, Table 15.6). -/
inductive Phase where
  /-- The reset input is low, or the rails are off (R417, R407). -/
  | asserted
  /-- A cold start is under way (Table 16.2); 0x0200:01 names the phase. -/
  | cold
  /-- A fast path is under way (R383). -/
  | fast
  /-- The block runs. -/
  | run
  /-- 0x0200:01 reads failed (R378). -/
  | failed
  /-- C2: the channel's retention state (Table 15.6). -/
  | retained
  /-- L3 or C3. -/
  | off
  deriving DecidableEq, Repr

/-- A foreign master of a PTP instance, with the dataset of its last Announce (Table 2.6). -/
structure Foreign where
  source : BitVec 80
  data : Announce
  deriving DecidableEq, Repr

/-- One servo (R46, R444). Its state, offset, path delay and grandmaster are objects of 0x0300. -/
structure Servo where
  /-- At most four (Table 2.6). -/
  foreign : List Foreign
  /-- The selected master, and its grandmasterIdentity at selection (R443). -/
  sel : Option Foreign
  /-- Consecutive Sync offsets of 100 ns or less while acquiring (Table 2.5). -/
  good : Nat
  /-- Consecutive guarded-mode refusals (R53). -/
  refusals : Nat
  /-- The holdover in force is a guard lock (R53). -/
  guardLock : Bool
  /-- An Announce receipt timeout has passed since the last accepted Announce (R53). -/
  timedOut : Bool
  /-- The servo has been locked since the block's last reset (Table 2.5). -/
  everLocked : Bool
  /-- The two-step Sync that waits for its Follow_Up: source, sequence, t2 less its correction (R444). -/
  waiting : Option (BitVec 80 × BitVec 16 × Int)
  /-- t2 − t1 of the last Sync, in ns (R444). -/
  down : Option Int
  /-- The mean path delay m in force, in ns (R444). -/
  m : Int
  /-- The sum of the corrections made to this domain's local time, so that stamps of one exchange taken before and
  after a correction stay comparable (R444). -/
  corr : Int
  /-- Phase still to be slewed out, in ns (R48). -/
  slew : Int
  /-- Nanoseconds-ppb left over from slewing, so that slow rates are not lost (R48). -/
  slewRest : Nat
  /-- logMinDelayReqInterval in force, two's complement (Table 2.6). -/
  logDelayReq : Byte
  deriving DecidableEq, Repr

/-- A servo in free-run with nothing heard: its state after cold start (Table 2.5, R375). -/
def Servo.reset : Servo :=
  { foreign := [], sel := none, good := 0, refusals := 0, guardLock := false, timedOut := false, everLocked := false,
    waiting := none, down := none, m := 0, corr := 0, slew := 0, slewRest := 0, logDelayReq := 0xFC }

/-- A transmit time-stamp entry (Table 2.7). -/
structure TsqEntry where
  dom : Dom
  seqId : BitVec 16
  stamp : BitVec 96
  /-- The servo's `corr` when the stamp was taken; no part of the entry that a read returns. -/
  corrAt : Int
  deriving DecidableEq, Repr

/-- The memory of one source of requests (R81): the highest sequence executed and the last 8 responses, newest
first. -/
structure SeqMem where
  src : Word
  high : Word
  resps : List Resp
  deriving DecidableEq, Repr

/-- A partial value of a DOMAIN object being written in segments (R83). -/
structure SegPart where
  key : Nat
  total : Nat
  data : List Byte
  deriving DecidableEq, Repr

/-- A write that has passed its checks: the object and its new value. -/
abbrev Wr := Nat × Val

/-- A request in execution that waits for stores in flash (R74, R91): its way in, the response built so far, and the
writes that take effect when it is sent. `fails` collects the items whose store failed. -/
structure Exec where
  way : Way
  src : Word
  seq : Word
  resp : Resp
  writes : List (Nat × Wr)
  waiting : Nat
  fails : List Nat
  deriving DecidableEq, Repr

/-- The states of a local transaction (Table 3.11). -/
inductive TxnState where
  | opened | committed | applied | aborted | applyFailed | discarded
  deriving DecidableEq, Repr

/-- The code of Table 3.11. -/
def TxnState.code : TxnState → Nat
  | .opened => 1
  | .committed => 2
  | .applied => 3
  | .aborted => 4
  | .applyFailed => 5
  | .discarded => 6

/-- A local transaction, open or committed (R87). `items` in item order; `fleet` marks the staged writes of a fleet transaction that committed (R104). -/
structure Txn where
  src : Word
  num : Word
  state : TxnState
  items : List Wr
  dataBytes : Nat
  apply : Nat
  /-- The frame of the last request on it (R87). -/
  last : Nat
  fleet : Bool
  /-- Stores of class S copies still to be written before the commit is answered (R91). -/
  storing : Nat
  /-- A store of this commit failed (R91). -/
  storeFailed : Bool
  /-- The swap objects whose images are still to be stored for this commit (R250, R272). -/
  images : List Nat
  deriving DecidableEq, Repr

/-- A finished transaction that is still remembered (R87). -/
structure Done where
  src : Word
  num : Word
  state : TxnState
  status : Nat
  apply : Nat
  deriving DecidableEq, Repr

/-- A store in flash under way (R74, R91, R349, R356): whose it is, the object and the value. [DEDUCED, assumption 26] -/
inductive FlashJob where
  /-- The copy of a class S object that a WRITE writes: the request's source and sequence, the item's place. -/
  | item (src seq : Word) (at_ : Nat) (key : Nat) (v : Val)
  /-- A pending copy that a TXN_COMMIT writes. -/
  | copy (src num : Word) (key : Nat) (v : Val)
  /-- An entry of the firmware log. -/
  | firmware (rec : List Byte)
  /-- The store of a tray-level object under tray generation `gen` (R440): the channel whose request or transaction it
  belongs to, and there the source with its number and, for a WRITE, the item's place. -/
  | tray (owner gen : Nat) (src num : Word) (place : Option Nat) (key : Nat) (v : Val)
  deriving DecidableEq, Repr

/-- The body of FLEET_REQUEST and PREPARE (Table 3.12). -/
structure FleetBody where
  apply : Nat
  mask : Nat
  part : Nat
  guard : Nat
  action : Nat
  deriving DecidableEq, Repr

/-- What a node holds of one fleet transaction (R99 to R106). -/
structure FleetRec where
  seq : Word
  body : FleetBody
  items : List Item
  /-- The writes staged here; empty when the node is out of scope or refused. -/
  staged : List Wr
  inScope : Bool
  /-- Its PREPARE has been seen; a token or COMPENSATE may come first (R99, R106). -/
  prepared : Bool
  /-- The node has staged and has not yet committed or discarded. -/
  holds : Bool
  /-- Entered by a join (R394): no acknowledgement record. -/
  silent : Bool
  /-- The token seen: true commit, false abort (R99). -/
  token : Option Bool
  committed : Bool
  applied : Bool
  /-- Marked resolved by COMPENSATE: later tokens are ignored (R106). -/
  resolved : Bool
  compensated : Bool
  /-- The apply frame of the COMPENSATE in force, 0 for none. -/
  compAt : Nat
  deriving DecidableEq, Repr

/-- An undo record (R106): the prior value of each object that the fleet transaction wrote, with the value written. -/
structure Undo where
  seq : Word
  apply : Nat
  prior : List (Nat × Val)
  deriving DecidableEq, Repr

/-- An acknowledgement record (Table 3.14). -/
structure AckRec where
  seq : Word
  phase : Nat
  firstStatus : Nat
  ok : Nat
  refused : Nat
  firstNode : Word
  deriving DecidableEq, Repr

/-- A leaf set entry (Table 7.5): channel identifier, own bits and slots as the bits [25:0] of the entry. -/
structure SetEntry where
  channel : Nat
  bits : Nat
  deriving DecidableEq, Repr

/-- A packet of the frame journal (R198). `dst` names the receiver when it is not the parent in use (R205); `sets` the
leaf set of each section with its frame; `pending` tells that fragments of it are to be sent; `replay` that the send is
a replay, `again` that it waits for a replay place (R204); `held` that the journal write is not finished (R40). -/
structure JEntry where
  frame : Nat
  dst : Option Word
  data : List Byte
  sets : List (Nat × List SetEntry)
  pending : Bool
  replay : Bool
  again : Bool
  held : Bool
  /-- Next byte to send. -/
  next : Nat
  deriving DecidableEq, Repr

/-- A control fragment that arrived in the open frame (R179, R202, R207); the acknowledged frame is none for
0xFFFFFFFFFFFFFFFF. -/
structure Heard where
  src : Word
  ack : Option Nat
  credits : Nat
  entries : List RelEntry
  deriving DecidableEq, Repr

/-- The node that answered a release query, to which packets of late blocks go while the adoption is in force (R205). -/
structure Answerer where
  addr : Word
  credits : Nat
  deriving DecidableEq, Repr

/-- The child's side of a link to a parent (R178, R201, R202). -/
structure Link where
  /-- The parent in use has sent its entries: no attach is under way (R202 step 5). -/
  attached : Bool
  /-- The parent being left while the child attaches; 0xFFFFFFFF none. -/
  leaving : Word
  credits : Nat
  /-- Consecutive frames without a control fragment of the parent in use (R201). -/
  silent : Nat
  heard : List Heard
  /-- Parents heard in the frame before (R396). -/
  heardBefore : List Word
  /-- Consecutive frames in which the active parent's control fragments arrived while another serves (R206). -/
  homeRun : Nat
  /-- Parents declared lost since one was last heard, and whether both are (R207). -/
  lost : List Nat
  cutOff : Bool
  /-- A lost home channel and the frame, to be recorded at the next attach (R201). -/
  note : Option (Nat × Nat)
  /-- The frame's replay place is used (R204). -/
  replayed : Bool
  answerers : List Answerer
  deriving DecidableEq, Repr

/-- A link that has never been attached. -/
def Link.reset : Link :=
  { attached := false, leaving := 0xFFFFFFFF, credits := 0, silent := 0, heard := [], heardBefore := [], homeRun := 0, lost := [],
    cutOff := false, note := none, replayed := false, answerers := [] }

/-- The common part of a block. -/
structure Blk where
  isLeaf : Bool
  /-- The channel's place in its tray (0x1000:03); 0 in a leaf. -/
  place : Nat
  phase : Phase
  /-- The dictionary: canonical table from index × 256 + subindex. -/
  store : NMap Val
  out : List Out
  /-- Free values drawn so far (Config.freeNat). -/
  free : Nat
  /-- HP_EVT_STATUS and HP_ERR_STATUS (Table 17.10). -/
  evt : BitVec 8
  err : BitVec 8
  /-- A frame is open. -/
  frameIsOpen : Bool
  /-- The highest frame opened since the last cold start, which no frame may repeat (R37). -/
  lastOpen : Option Nat
  /-- Transactions are taking effect: checks are those of R93. -/
  applying : Bool
  /-- The sequencer waits for the first lock of the active servo (R47). -/
  needLock : Bool
  /-- The last boundary that local time reached while no frame could open (R47). -/
  passed : Option Nat
  /-- Declarations made during the open frame (R43). -/
  declared : Nat
  /-- Frames declared short, with their causes; missed frames with cause 0x20000 (R42, R49). -/
  shorts : NMap Nat
  /-- The local times of A and B, in ns since the epoch. -/
  timeA : Nat
  timeB : Nat
  /-- The domain has left free-run since its time last started from 0 (Table 2.11, time_a and time_b). -/
  knownA : Bool
  knownB : Bool
  /-- Nanoseconds of holdover counted since the last lock (R57). -/
  holdNs : Nat
  sa : Servo
  sb : Servo
  /-- The remainder of a domain switch, in ns, and the rest of its slew (R55). -/
  remain : Int
  remainRest : Nat
  /-- Steps of the active domain's time and switches of domain so far (R307). -/
  steps : Nat
  tsq : List TsqEntry
  /-- The channel's last pulse-per-second phase is in use (R59). -/
  ppsGood : Bool
  /-- The time_mode that stays in force after a write of 0x0300:04, until the next Sync is processed (R66). -/
  modeWas : Option Nat
  /-- Most recently heard first (R81). -/
  seqs : List SeqMem
  execs : List Exec
  segs : List SegPart
  txns : List Txn
  /-- Newest first, at most 64 (R87). -/
  done : List Done
  /-- The next number of a transaction the block raises on itself (R87). -/
  selfNum : Nat
  jobs : List FlashJob
  /-- Spare rows and segments that failed self-test: array × 4 + spare, or 4,096 + spare segment (R379). -/
  badSpares : List Nat
  fleet : List FleetRec
  undo : List Undo
  /-- Acknowledgement records to be sent, each with the frame whose packet carries it (R100). -/
  acks : List (Nat × AckRec)
  journal : List JEntry
  link : Link
  /-- Sequence number of the next Bivan request the block sends. -/
  nextSeq : Nat
  /-- A requested reset waits for the end of the step: kind as last_reset_kind (R377). -/
  resetWanted : Option Nat
  deriving DecidableEq, Repr

/-- The common part with every field at its value in reset. -/
def Blk.reset (isLeaf : Bool) (place : Nat) : Blk :=
  { isLeaf := isLeaf, place := place, phase := .asserted, store := [], out := [], free := 0, evt := 0, err := 0,
    frameIsOpen := false, lastOpen := none, applying := false, needLock := true, passed := none, declared := 0, shorts := [], timeA := 0, timeB := 0, knownA := false, knownB := false, holdNs := 0, sa := Servo.reset,
    sb := Servo.reset, remain := 0, remainRest := 0, steps := 0, tsq := [], ppsGood := false, modeWas := none, seqs := [], execs := [], segs := [],
    txns := [], done := [], selfNum := 1, jobs := [], badSpares := [], fleet := [], undo := [], acks := [], journal := [],
    link := Link.reset, nextSeq := 1, resetWanted := none }

end Sys2Proof.Machine
end

