-- ==== Sys2Proof/Machine/LeafState.lean ====
section
/-! DEFINITION. The state of a leaf beyond its common part: sampler and barrier recorder, fence and region ports
(chapter Leaf Sampling), touchstone, assay, the trace unit, and the frame packet being assembled. -/

namespace Sys2Proof.Machine

/-- What one source of a series received in one frame: the last value and the extremes (R118). -/
structure Seen where
  last : Nat
  hi : Nat
  lo : Nat
  deriving DecidableEq, Repr

/-- What the sampler keeps of a closed frame: the latch (R112) and the values received (R118). The sources are
numbered core × 64 + counter, then 65,536 + region × 4 + kind, then 65,664 + item. -/
structure FrameRec where
  frame : Nat
  latch : NMap Nat
  seen : NMap Seen
  deriving DecidableEq, Repr

/-- A barrier record before its packing (Table 4.2). -/
structure BarrierRec where
  core : Nat
  arrival : Nat
  barrier : Nat
  deriving DecidableEq, Repr

/-- The sampler and the barrier recorder. -/
structure Sampler where
  /-- Beats in the intake buffer after the last arrival, and the offset of that arrival in the frame (R111). -/
  intake : Nat
  intakeAt : Nat
  /-- The last value of every counter of every core (R112); an unlisted one is 0. -/
  last : NMap Nat
  /-- Values received in the open frame. -/
  seen : NMap Seen
  /-- Closed frames, newest first, as many as the longest cadence needs (R118). -/
  hist : List FrameRec
  /-- Leaf items 0 to 3 of the open frame (Table 4.3): beats accepted, discarded, barrier records made, dropped. -/
  accepted : Nat
  discarded : Nat
  made : Nat
  dropped : Nat
  barriers : List BarrierRec
  /-- Barrier identifiers that lost a record in the open frame (R115), rising in order of loss. -/
  incomplete : List Nat
  /-- The expected barrier set, the dark cores and the watched cores in force at the frame's opening (R113, R116,
  R122), one bit per core. -/
  expected : Nat
  dark : Nat
  watched : Nat
  /-- One more than the last frame at whose opening a core was dark (R122); 0 never. -/
  lastDark : NMap Nat
  /-- Consecutive silent frames of each core (R113). -/
  silent : NMap Nat
  deriving DecidableEq, Repr

/-- Nothing sampled yet. -/
def Sampler.reset : Sampler :=
  { intake := 0, intakeAt := 0, last := [], seen := [], hist := [], accepted := 0, discarded := 0, made := 0, dropped := 0, barriers := [],
    incomplete := [], expected := 0, dark := 0, watched := 0, lastDark := [], silent := [] }

/-- A core found lost and not yet reported (R132). -/
structure LostCore where
  core : Nat
  /-- First silent frame, if the core was silent long enough. -/
  silentFrom : Option Nat
  /-- Failure frame, if an acknowledgement failed. -/
  failFrame : Option Nat
  deriving DecidableEq, Repr

/-- The fence port and fence authority (R131 to R134). -/
structure Fence where
  /-- fnc_ack as last sampled. -/
  ack : Nat
  /-- Cores whose fence changed and whose acknowledgement is awaited. -/
  pending : List Nat
  /-- Cores with an acknowledgement failure in the open frame. -/
  failed : List Nat
  /-- Cores found lost and not yet released for another finding (R132), one bit per core. -/
  mark : Nat
  /-- Cores found lost at the last close and not yet reported. -/
  found : List LostCore
  /-- Refused enforcing transactions: frame of the refusal, apply frame and cores (R134). -/
  retry : List (Nat × Nat × List Nat)
  /-- The enforcing transactions of the last close have been committed. -/
  committedFor : Nat
  deriving DecidableEq, Repr

/-- No fence changed. -/
def Fence.reset : Fence :=
  { ack := 0, pending := [], failed := [], mark := 0, found := [], retry := [], committedFor := 0 }

/-- The region port (R123 to R129). -/
structure Regions where
  /-- Latest reading of each kind, region × 4 + kind. -/
  readings : NMap Nat
  /-- Regions whose command waits to be presented, one bit each. -/
  pending : Nat
  presented : Option Nat
  lastPresented : Nat
  /-- Mismatched closes of the command in force, and whether it has been raised. -/
  mismatch : NMap Nat
  raised : Nat
  /-- Settling regions, with one more than the frame at which the settle time ends. -/
  settle : NMap Nat
  /-- Regions whose reported power state was 0 or 1 at the last close. -/
  closeOn : Nat
  deriving DecidableEq, Repr

/-- No command pending; region 31 counts as presented last (R125). [DESIGN CHOICE, assumption 8] -/
def Regions.reset : Regions :=
  { readings := [], pending := 0, presented := none, lastPresented := 31, mismatch := [], raised := 0, settle := [],
    closeOn := 0 }

/-- A tolerance table entry (Table 5.9); T counts only when learned. -/
structure Tol where
  learned : Bool
  t : Nat
  p : Nat
  n : Nat
  deriving DecidableEq, Repr

/-- Learning, with nothing seen. -/
def Tol.fresh : Tol := { learned := false, t := 0, p := 0, n := 0 }

/-- The touchstone settings that a beat is decided under (R156). -/
structure TsSet where
  fixed : Bool
  fixedT : Nat
  floor : Nat
  ceiling : Nat
  learn : Nat
  margin : Nat
  /-- 0x0A00:01 is 0: learning is frozen (R144). -/
  disabled : Bool
  deriving DecidableEq, Repr

/-- An entry of the touchstone queue: a selected beat, or a marker of a change (R151, R156). -/
inductive TsItem where
  | beat (frame : Nat) (off : Nat) (data : Nat) (fenced : Bool)
  | mark (frame : Nat) (set : TsSet) (relearn : Nat)
  deriving DecidableEq, Repr

/-- What touchstone gathers for the packet of one frame (R153, R154). -/
structure TsFrame where
  frame : Nat
  disabled : Bool
  fixed : Bool
  /-- core_count and events_max at the opening of the frame. -/
  cores : Nat
  room : Nat
  compared : Nat
  unchecked : Nat
  mismatches : Nat
  nonfinites : Nat
  /-- Event records, oldest first, at most 256; and how many there were. -/
  events : List Nat
  eventCount : Nat
  mapMis : Nat
  mapNon : Nat
  /-- First mismatch beat of each core: core, row mask, column mask, tag. -/
  firsts : List (Nat × Nat × Nat × Nat)
  /-- Cores learning at the close of the frame, once its last beat is decided. -/
  learning : Option Nat
  deriving DecidableEq, Repr

/-- Touchstone. -/
structure Touch where
  queue : List TsItem
  /-- Settings of the deciding side of the queue. -/
  set : TsSet
  /-- Settings at the tail of the queue. -/
  tail : TsSet
  table : NMap Tol
  /-- Selection counts; an unlisted core c stands at c mod base (R143). -/
  sel : NMap Nat
  base : Nat
  frames : List TsFrame
  /-- Cores that transactions of the boundary return to learning (R156). -/
  relearn : Nat
  deriving DecidableEq, Repr

/-- The settings of Table 5.8's defaults. -/
def TsSet.dflt : TsSet :=
  { fixed := false, fixedT := 256, floor := 16, ceiling := 16384, learn := 65536, margin := 64, disabled := false }

/-- Touchstone after a cold start (R143, R147). -/
def Touch.reset : Touch :=
  { queue := [], set := TsSet.dflt, tail := TsSet.dflt, table := [], sel := [], base := 1, frames := [], relearn := 0 }

/-- A weight tap beat in the snoop buffer (Table 6.1, R163). -/
structure WBeat where
  frame : Nat
  data : Nat
  tensor : Nat
  word : Nat
  count : Nat
  epoch : Nat
  deriving DecidableEq, Repr

/-- What the leaf keeps of one tensor (R164 to R167). -/
structure Tensor where
  late : Bool
  /-- The first epoch observed in the late state. -/
  first : Option Nat
  epoch : Nat
  v : Nat
  n : Nat
  damaged : Bool
  /-- The digest point of the epoch: its digest, and whether it may be compared. -/
  point : Option (Nat × Bool)
  deriving DecidableEq, Repr

/-- A tensor in the late state. -/
def Tensor.lateState : Tensor :=
  { late := true, first := none, epoch := 0, v := 0, n := 0, damaged := false, point := none }

/-- Assay in a leaf. -/
structure Assay where
  snoop : List WBeat
  tensors : NMap Tensor
  /-- Records entered and not yet placed, with the frame of the pass. -/
  records : List (Nat × Nat)
  deriving DecidableEq, Repr

/-- Assay with nothing seen. -/
def Assay.reset : Assay := { snoop := [], tensors := [], records := [] }

/-- What waits to be written to the trace buffer (R304, R309): the time in ns of the active domain, how many steps
preceded it, and the event or trigger. -/
inductive TrKind where
  | event (core code priv words context : Nat) (payload : List Byte)
  | trigger (source core code : Nat)
  deriving DecidableEq, Repr

/-- An entry of the trace intake queue. -/
structure TrItem where
  time : Nat
  steps : Nat
  /-- The domain of the time: 0 A, 1 B. -/
  dom : Nat
  kind : TrKind
  deriving DecidableEq, Repr

/-- A record held in the trace buffer. -/
structure TrRec where
  data : List Byte
  /-- It carries a TIME96. -/
  stamp : Bool
  /-- It is the trigger record that R310 protects. -/
  trigger : Bool
  deriving DecidableEq, Repr

/-- The trace unit. Its state and its counters are objects of 0x0C00. -/
structure Trace where
  queue : List TrItem
  ring : List TrRec
  /-- Write position in the ring of 8,388,608 bytes. -/
  pos : Nat
  /-- Time and step count of the last record with a TIME96. -/
  base : Nat
  baseSteps : Nat
  /-- No record with a TIME96 is in force as a base. -/
  noBase : Bool
  stopAt : Option Nat
  lost : Nat
  lostAfter : Bool
  stall : Bool
  /-- Offset in the frame at which the stall rose. -/
  stallFrom : Nat
  /-- Cycles of stall used in the frame. -/
  stallUsed : Nat
  /-- The budget was spent in the frame. -/
  spent : Bool
  /-- The latest offset in the frame that the commands have shown. -/
  cycle : Nat
  /-- The state that L2 froze, 1 or 2; 0 none (R315). -/
  frozenFrom : Nat
  deriving DecidableEq, Repr

/-- An idle trace unit with an empty buffer. -/
def Trace.reset : Trace :=
  { queue := [], ring := [], pos := 0, base := 0, baseSteps := 0, noBase := true, stopAt := none, lost := 0,
    lostAfter := false, stall := false, stallFrom := 0, stallUsed := 0, spent := false, cycle := 0, frozenFrom := 0 }

/-- A leaf packet whose touchstone section is not sealed yet (R152, R180). -/
structure Draft where
  frame : Nat
  tag : Nat
  part : Nat
  aligned : Bool
  /-- A heartbeat: no values, no barrier section (R372). -/
  heartbeat : Bool
  tableEpoch : Nat
  /-- State (0 value, 1 missing, 2 dark) and place of each sampled series. -/
  values : List (Nat × Nat)
  barrier : List Byte
  assay : List Nat
  /-- Acknowledgement records entered in the frame, at most 8 (R100, Table 7.3). -/
  acks : List AckRec
  deriving DecidableEq, Repr

/-- A leaf. [DESIGN CHOICE, assumption 4] -/
structure Leaf where
  b : Blk
  smp : Sampler
  fen : Fence
  reg : Regions
  ts : Touch
  asy : Assay
  tr : Trace
  /-- Active-domain time at the frame's opening less the corrections made by then (R303). -/
  openAt : Int
  /-- job_tag and partition_id in force at the frame's opening (R96). -/
  openTag : Nat
  openPart : Nat
  /-- A packet of the open frame will be sent; and it is a heartbeat only (R372). -/
  sends : Bool
  heartbeat : Bool
  /-- The apply frame of 0x0800:11 (Table 7.2). -/
  tableEpoch : Nat
  draft : Option Draft
  /-- Rule inputs and fault records not yet placed, with the frame whose packet they belong to (R181). -/
  ruleQ : List (Nat × List Byte)
  faultQ : List (Nat × List Byte)
  /-- Routing bitmaps to be handed to the serving channel's egress (R134). -/
  notices : List (List Byte)
  /-- Fault records owed until the join: kind, array × 2048 + row, frame, 0 for the first frame after bring-up (R345,
  R379, R384). -/
  owed : List (Nat × Nat × Nat)
  /-- Class S stores handed to the home channel, and transactions whose copies become current there (R74, R91). -/
  stores : List FlashJob
  currents : List (Word × Word)
  /-- The frame from which the leaf reads withdrawing (Table 16.7). -/
  leaveAt : Option Nat
  /-- The instruction of the leaf's test access port (R429). -/
  tapIr : Byte
  deriving DecidableEq, Repr

/-- A leaf whose rst_aon_n is low. [DESIGN CHOICE, assumption 3] [PRESUMED, assumption 10] -/
def Leaf.reset : Leaf :=
  { b := Blk.reset true 0, smp := Sampler.reset, fen := Fence.reset, reg := Regions.reset, ts := Touch.reset,
    asy := Assay.reset, tr := Trace.reset, openAt := 0, openTag := 0, openPart := 0xFFFF, sends := false,
    heartbeat := false, tableEpoch := 0, draft := none, ruleQ := [], faultQ := [], notices := [], owed := [], stores := [], currents := [], leaveAt := none,
    tapIr := 0x01 }

end Sys2Proof.Machine
end

