-- ==== Sys2Proof/Machine/Crypto.lean ====
section
/-! DEFINITION. The published algorithms that the spec names in Table 0.7: CRC-32C, SHA-384 (FIPS 180-4) and the
verification of ECDSA signatures over P-384 (FIPS 186-5). The constants are those of the published standards
(assumption 5); the spec names the algorithms only. -/

namespace Sys2Proof.Machine

/-! ### CRC-32C (polynomial 0x1EDC6F41 reflected, initial value 0xFFFFFFFF, final complement) -/

/-- One bit of the reflected CRC-32C division. -/
def crcStep (c : Nat) : Nat := if c % 2 = 1 then (c / 2) ^^^ 0x82F63B78 else c / 2

/-- One byte into the CRC-32C register. -/
def crcByte (c : Nat) (b : Byte) : Nat :=
  crcStep (crcStep (crcStep (crcStep (crcStep (crcStep (crcStep (crcStep (c ^^^ b.toNat))))))))

/-- CRC-32C of the bytes (Table 0.7). -/
def crc32c (b : List Byte) : Nat := (b.foldl crcByte 0xFFFFFFFF) ^^^ 0xFFFFFFFF

/-! ### SHA-384 -/

/-- The primes below 410, the first eighty; every composite of them has a divisor from 2 to 20. -/
def shaPrimes : List Nat :=
  (List.range 410).filter (fun n => decide (1 < n) && (List.range 19).all (fun d => decide (n = d + 2) || decide (n % (d + 2) ≠ 0)))

/-- The root of degree `deg` of `n`, rounded down, found bit by bit from bit `b - 1` of the root down; `r` is what has been found. -/
def floorRoot (deg n : Nat) : Nat → Nat → Nat
  | 0, r => r
  | b + 1, r => floorRoot deg n b (if (r + 2 ^ b) ^ deg ≤ n then r + 2 ^ b else r)

/-- The first 64 bits of the fractional part of the root of degree `deg` of `p`. -/
def rootFraction (deg p : Nat) : Nat := floorRoot deg (p * 2 ^ (64 * deg)) 69 0 % 2 ^ 64

/-- The constant of each round of SHA-384, from the cube roots of the first eighty primes. [PRESUMED, assumption 5] -/
def shaK : List Nat := shaPrimes.map (rootFraction 3)

/-- The initial hash value of SHA-384, from the square roots of the ninth to sixteenth primes. [PRESUMED, assumption 5] -/
def shaInit : List Nat := ((shaPrimes.drop 8).take 8).map (rootFraction 2)

/-- Rotate a 64-bit word right. -/
def rotr64 (x n : Nat) : Nat := (x >>> n) ||| ((x <<< (64 - n)) % 2 ^ 64)

/-- The exclusive or of a word rotated right by each of `rs`, and shifted right by each of `sh`. -/
def mix64 (rs sh : List Nat) (x : Nat) : Nat :=
  sh.foldl (fun acc n => acc ^^^ (x >>> n)) (rs.foldl (fun acc n => acc ^^^ rotr64 x n) 0)

/-- The big-endian number that bytes hold. -/
def beNat (b : List Byte) : Nat := b.foldl (fun a x => a * 256 + x.toNat) 0

/-- The `len` bytes of `n`, the most significant first. -/
def natBe (len n : Nat) : List Byte := (natLe len n).reverse

/-- Extend the message words of a block by `k`; the list is held newest first, so word t − j stands at place j − 1. -/
def shaExtend : Nat → List Nat → List Nat
  | 0, w => w
  | k + 1, w =>
    let back := fun j => w.getD (j - 1) 0
    shaExtend k (((back 16 + mix64 [1, 8] [7] (back 15) + back 7 + mix64 [19, 61] [6] (back 2)) % 2 ^ 64) :: w)

/-- The working words of SHA-384 as two histories, newest first: `up` holds a to d, `low` holds e to h. -/
structure ShaWork where
  up : List Nat
  low : List Nat
  deriving DecidableEq, Repr

/-- One round: a new word enters each history; `kw` is the sum of the round's constant and its message word. -/
def ShaWork.round (s : ShaWork) (kw : Nat) : ShaWork :=
  let u := fun i => s.up.getD i 0
  let l := fun i => s.low.getD i 0
  let t := l 3 + mix64 [14, 18, 41] [] (l 0) + (l 2 ^^^ (l 0 &&& (l 1 ^^^ l 2))) + kw
  let m := (u 0 &&& u 1) ||| (u 2 &&& (u 0 ||| u 1))
  { up := ((t + mix64 [28, 34, 39] [] (u 0) + m) % 2 ^ 64) :: s.up.take 3, low := ((u 3 + t) % 2 ^ 64) :: s.low.take 3 }

/-- One block of 128 bytes into the hash value. -/
def shaBlock (hv : List Nat) (blk : List Byte) : List Nat :=
  let w := (shaExtend 64 ((pieces 8 blk).map beNat).reverse).reverse
  let r := (List.zipWith (· + ·) shaK w).foldl ShaWork.round { up := hv.take 4, low := hv.drop 4 }
  List.zipWith (fun x y => (x + y) % 2 ^ 64) hv (r.up ++ r.low)

/-- The padding of SHA-384: a one bit, zeros, and the bit length in 16 bytes. -/
def shaPad (m : List Byte) : List Byte :=
  let z := (239 - m.length % 128) % 128
  m ++ [0x80] ++ List.replicate z 0 ++ natBe 16 (8 * m.length)

/-- SHA-384 of the bytes: 48 bytes. -/
def sha384 (m : List Byte) : List Byte :=
  (((pieces 128 (shaPad m)).foldl shaBlock shaInit).take 6).flatMap (natBe 8)

/-! ### ECDSA over P-384, verification only -/

/-- The field prime. -/
def ecP : Nat := 2 ^ 384 - 2 ^ 128 - 2 ^ 96 + 2 ^ 32 - 1

/-- The curve's coefficient b (a is −3). -/
def ecB : Nat :=
  0xb3312fa7e23ee7e4988e056be3f82d19181d9c6efe8141120314088f5013875ac656398d8a2ed19d2a85c8edd3ec2aef

/-- The order of the base point. -/
def ecN : Nat :=
  0xffffffffffffffffffffffffffffffffffffffffffffffffc7634d81f4372ddf581a0db248b0a77aecec196accc52973

/-- The base point. -/
def ecG : Nat × Nat :=
  (0xaa87ca22be8b05378eb1c71ef320ad746e1d3b628ba79b9859f741e082542a385502f25dbf55296c3a545e3872760ab7,
   0x3617de4a96262c6f5d9e98bf9292dc29f8f41dbd289a147ce9da3113b5f0b8c00a60b1ce1d7e819d7a431d7c90ea0e5f)

/-- Modular power, on 384 bits of exponent. -/
def powMod (m : Nat) : Nat → Nat → Nat → Nat → Nat
  | 0, _, _, acc => acc
  | fuel + 1, b, e, acc => powMod m fuel (b * b % m) (e / 2) (if e % 2 = 1 then acc * b % m else acc)

/-- Inverse modulo a prime. -/
def invMod (m a : Nat) : Nat := powMod m 384 (a % m) (m - 2) 1

/-- The point lies on the curve, coordinates below the prime. -/
def onCurve (x y : Nat) : Bool :=
  decide (x < ecP) && decide (y < ecP) && decide ((y * y + 3 * x) % ecP = (x * x * x + ecB) % ecP)

/-- Point addition in affine coordinates; none is the point at infinity. -/
def ecAdd : Option (Nat × Nat) → Option (Nat × Nat) → Option (Nat × Nat)
  | none, q => q
  | p, none => p
  | some (x1, y1), some (x2, y2) =>
    if x1 = x2 ∧ (y1 + y2) % ecP = 0 then none
    else
      let l := if x1 = x2 then (3 * x1 * x1 + ecP - 3) * invMod ecP (2 * y1) % ecP
        else (y2 + ecP - y1) * invMod ecP (x2 + ecP - x1) % ecP
      let x3 := (l * l + 2 * ecP - x1 - x2) % ecP
      some (x3, (l * (x1 + ecP - x3) + ecP - y1) % ecP)

/-- Scalar multiple by doubling, on the fuel's number of bits. -/
def ecMul : Nat → Nat → Option (Nat × Nat) → Option (Nat × Nat) → Option (Nat × Nat)
  | 0, _, _, acc => acc
  | fuel + 1, k, p, acc => ecMul fuel (k / 2) (ecAdd p p) (if k % 2 = 1 then ecAdd acc p else acc)

/-- The ECDSA verdict on a 96-byte signature (r and s, 48 bytes big-endian each) of a message under a public point. -/
def ecdsaVerify (key : Nat × Nat) (msg sig : List Byte) : Bool :=
  let r := beNat (sig.take 48)
  let s := beNat (sig.drop 48)
  let z := beNat (sha384 msg)
  if sig.length = 96 ∧ 0 < r ∧ r < ecN ∧ 0 < s ∧ s < ecN then
    let w := invMod ecN s
    match ecAdd (ecMul 384 (z * w % ecN) (some ecG) none) (ecMul 384 (r * w % ecN) (some key) none) with
    | none => false
    | some (x, _) => decide (x % ecN = r)
  else false

end Sys2Proof.Machine
end

