-- ==== Sys2Proof/Machine/Operands.lean ====
section
/-! DEFINITION. The operand forms of the dictionary: the types of Table 3.1, the values each Range column accepts
(R11) with reserved bits read back as 0 (R8), and the reading of item data. -/

namespace Sys2Proof.Machine

/-! ### Status codes (Table 3.10) -/

abbrev stOk : Nat := 0x00
abbrev stNoObject : Nat := 0x01
abbrev stNoSub : Nat := 0x02
abbrev stDenied : Nat := 0x03
abbrev stReadOnly : Nat := 0x04
abbrev stType : Nat := 0x05
abbrev stRange : Nat := 0x06
abbrev stBusy : Nat := 0x07
abbrev stConflict : Nat := 0x08
abbrev stExpired : Nat := 0x09
abbrev stTooLarge : Nat := 0x0A
abbrev stNotClasp : Nat := 0x0B
abbrev stWrong : Nat := 0x0C
abbrev stLength : Nat := 0x0D
abbrev stStore : Nat := 0x0E

/-! ### Types (Table 3.1) -/

/-- The size of a fixed-size type; none for STRING and DOMAIN. -/
def typeSize (t : Nat) : Option Nat :=
  match t with
  | 1 => some 1
  | 2 => some 1
  | 3 => some 2
  | 4 => some 4
  | 5 => some 8
  | 6 => some 2
  | 7 => some 4
  | 8 => some 8
  | 9 => some 4
  | 10 => some 12
  | 11 => some 8
  | _ => none

/-- The largest pattern of a fixed-size type. -/
def typeMax (t : Nat) : Nat :=
  match typeSize t with
  | some n => 256 ^ n - 1
  | none => 0

/-- The number of a value; bytes have none. -/
def Val.toNum : Val → Nat
  | .num n => n
  | .bytes _ => 0

/-- The bytes of a DOMAIN or STRING value; a number has none. -/
def Val.toBytes : Val → List Byte
  | .num _ => []
  | .bytes b => b

/-- The item data of a value of type `t` (R7, R68). -/
def valData (t : Nat) : Val → List Byte
  | .num n => natLe ((typeSize t).getD 0) n
  | .bytes b => b

/-- The value that item data of type `t` holds. -/
def dataVal (t : Nat) (d : List Byte) : Val :=
  match typeSize t with
  | some _ => .num (leNat d)
  | none => .bytes d

/-! ### Ranges (R11) with reserved bits masked (R8) -/

/-- A finite binary32 pattern above zero. [DEDUCED, assumption 30] -/
def f32Pos (w : Nat) : Bool := decide (0 < w) && decide (w < 0x7F800000)

/-- A binary32 pattern in [0, hi] for a positive pattern `hi`; −0 equals 0. [DEDUCED, assumption 30] -/
def f32UpTo (hi w : Nat) : Bool := decide (w ≤ hi) || decide (w = 0x80000000)

/-- A parameter set entry (Table 8.4) with its reserved bits cleared, if every field lies in range. -/
def paramSetOk (e : List Byte) : Option (List Byte) :=
  let alpha := leAt e 28 4
  let beta := leAt e 24 4
  let lam := leAt e 20 4
  let k := leAt e 16 4
  let h := leAt e 12 4
  let zc := leAt e 8 4
  let vf := leAt e 4 4
  let warm := leAt e 2 2
  let gap := leAt e 1 1
  if f32Pos alpha && decide (alpha ≤ 0x3F800000) && f32UpTo 0x3F800000 beta && f32Pos lam &&
      decide (lam ≤ 0x3F800000) && f32UpTo 0x41800000 k && f32Pos h && decide (h ≤ 0x44800000) &&
      decide (0x3F800000 ≤ zc) && decide (zc ≤ 0x42800000) && decide (0x00800000 ≤ vf) && decide (vf < 0x7F800000) && decide (2 ≤ warm) && decide (1 ≤ gap)
  then some (patch e 0 [BitVec.ofNat 8 (leAt e 0 1 % 2)]) else none

/-- Every element accepted, or none (a list of Options turned about). -/
def allSome {α : Type} : List (Option α) → Option (List α)
  | [] => some []
  | none :: _ => none
  | some x :: xs => (allSome xs).map (x :: ·)

/-- A group entry (Table 6.4). -/
def groupEntryOk (n : Nat) : Option Nat :=
  let w := bits n 32 11
  let r := bits n 16 5
  let l := bits n 8 2
  let rok := (decide (2 ≤ r) && decide (r ≤ 16)) || (decide (l = 0) && decide (r = 0))
  if decide (4 ≤ w) && decide (w ≤ 1024) && rok then some (w <<< 32 ||| r <<< 16 ||| l <<< 8) else none

/-- A subscriber entry (Table 11.1). -/
def subEntryOk (b : List Byte) : Option (List Byte) :=
  let n := leNat b
  if b.length = 16 ∧ bits n 32 32 ≤ 80000000 ∧ bits n 0 32 ≤ 67108864 then
    some (natLe 16 (n - (bits n 64 13) * 2 ^ 64)) else none

/-- A queue entry (Table 11.2). -/
def queueEntryOk (b : List Byte) : Option (List Byte) :=
  let n := leNat b
  let src := bits n 236 4
  let lim := bits n 192 32
  let a := bits n 128 32
  let c := bits n 96 32
  let selOk :=
    if src = 1 ∨ src = 2 then decide (a ≤ 524287) && decide (1 ≤ c) && decide (c ≤ 524288) && decide (a + c ≤ 524288)
    else if src = 4 then decide (a ≤ 15) && decide (c = 0)
    else decide (a = 0) && decide (c = 0)
  if b.length = 32 ∧ src ≤ 4 ∧ bits n 233 3 ≤ 4 ∧ 8208 ≤ lim ∧ lim ≤ 67108864 ∧ bits n 160 32 ≤ lim ∧ selOk then
    some (natLe 32 (n - bits n 224 8 * 2 ^ 224 - bits n 0 96)) else none

/-- A policer entry (Table 11.3). The bounds of pir belong to the two-rate modes and are judged where a queue uses the entry; the entry alone
does not say which mode reads it (DEDUCED, assumption 30). -/
def policerEntryOk (b : List Byte) : Option (List Byte) :=
  let n := leNat b
  if b.length = 16 ∧ bits n 96 32 ≤ 80000000 ∧ bits n 64 32 ≤ 67108864 ∧ bits n 0 32 ≤ 67108864 then some b else none

/-- A port shaper (0x2400:20). -/
def portShaperOk (b : List Byte) : Option (List Byte) :=
  let n := leNat b
  if b.length = 16 ∧ bits n 32 32 ≤ 80000000 ∧ bits n 0 32 ≤ 67108864 then
    some (natLe 16 (bits n 127 1 * 2 ^ 127 + bits n 0 64)) else none

/-- A Carat output stream entry (Table 13.5). -/
def streamEntryOk (b : List Byte) : Option (List Byte) :=
  let n := leNat b
  let src := bits n 124 4
  let lvl := bits n 122 2
  let fs := bits n 32 32
  let sc := bits n 0 32
  let ok :=
    if src = 2 then
      decide (1 ≤ lvl) && decide (1 ≤ bits n 104 16) && decide (fs ≤ 524287) && decide (1 ≤ sc) &&
        decide (sc ≤ 524288) && decide (fs + sc ≤ 524288)
    else decide (lvl = 0)
  if b.length = 16 ∧ src ≤ 2 ∧ ok then
    some (natLe 16 (n - bits n 120 2 * 2 ^ 120 - bits n 64 40 * 2 ^ 64)) else none

/-- A verification key (R351): empty, or an uncompressed P-384 point on the curve. -/
def verifyKeyOk (b : List Byte) : Bool :=
  match b with
  | [] => true
  | f :: r => decide (b.length = 97) && decide (f = 4) && onCurve (beNat (r.take 48)) (beNat (r.drop 48))

/-- Repair additions (0x0200:25): entries of Table 14.5 with memory 0, at most 768 and at most 4 per array, rows
within the array (DEDUCED, assumption 30: 192 arrays of a leaf, R379). -/
def repairAddOk (b : List Byte) : Option (List Byte) :=
  let es := (pieces 4 b).map leNat
  let arr := fun e => bits e 11 10
  if b.length % 4 = 0 ∧ es.length ≤ 768 ∧
      es.all (fun e => decide (bits e 30 2 = 0) && decide (arr e < 192) && decide ((es.filter (fun f => arr f == arr e)).length ≤ 4)) then
    some (es.flatMap (fun e => natLe 4 (bits e 24 2 <<< 24 ||| bits e 0 21))) else none

/-- Suspect lists (0x2000:40): each entry's kind 1 or 2, with a unit of that kind (Table 10.5). [DEDUCED, assumption 30] -/
def suspectsOk (b : List Byte) : Bool :=
  decide (4 ≤ b.length) && decide (b.length ≤ 1024) && decide (b.length % 4 = 0) &&
    (pieces 4 b).all (fun e =>
      let unit := bits (leNat e) 0 30
      (bits (leNat e) 30 2 == 1 && decide (unit < 49152)) || (bits (leNat e) 30 2 == 2 && decide (unit < 48)))

/-- The loupe selection (R430): every group code has an entry for the build. -/
def loupeOk (leaf : Bool) (n : Nat) : Option Nat :=
  if leaf then
    let m := n &&& 0x3F3F
    if bits m 0 6 ≤ 8 ∧ bits m 8 6 ≤ 8 then some m else none
  else if bits n 0 6 ≤ 14 ∧ bits n 8 6 ≤ 14 ∧ bits n 16 6 ≤ 14 ∧ bits n 24 6 ≤ 14 then some n else none

/-- The members of a pod (Table 7.11): channel identifiers of R21, 0xFFFF none. -/
def podMembersOk (b : List Byte) : Option (List Byte) :=
  if b.length ≤ 128 ∧ b.length % 2 = 0 then
    some ((pieces 2 b).flatMap (fun e => natLe 2 (if leNat e = 0xFFFF then 0xFFFF else leNat e % 2 ^ 13)))
  else none

/-- A location of Table 14.8 under its loc_kind, as 0x3400:08 holds it: the slot of a leaf identifier in it is assigned (R19). -/
def locationOk (n : Nat) : Option Nat :=
  let kind := bits n 48 4
  let slot := if kind = 1 ∨ kind = 2 then bits n 14 5 else if kind = 5 then bits n 30 5 else 0
  if slot ≤ 23 then some (n % 2 ^ 52) else none

/-- The locations of 0x3400:09, one U64 each. -/
def locationsOk (b : List Byte) : Option (List Byte) :=
  if 8 ≤ b.length ∧ b.length ≤ 65536 ∧ b.length % 8 = 0 then
    (allSome ((pieces 8 b).map (fun e => (locationOk (leNat e)).map (natLe 8)))).map List.flatten
  else none

/-- A value that names a format, accepted and with its reserved bits cleared. -/
def chkAccept (c : Chk) (leaf : Bool) (v : Val) : Option Val :=
  let n := v.toNum
  let b := v.toBytes
  match c with
  | .roleEntry => if bits n 60 4 ≤ 3 ∨ bits n 60 4 = 15 then some (.num (n - bits n 2 22 * 4)) else none
  | .regionMap =>
    if b.length = 1024 ∧ b.all (fun x => decide (x.toNat ≤ 31) || decide (x = 0xFF)) then some v else none
  | .groupEntry => (groupEntryOk n).map .num
  | .chanId => some (.num (if n = 0xFFFF then n else n % 2 ^ 13))
  | .paramSets =>
    if b.length = 2048 then (allSome ((pieces 32 b).map paramSetOk)).map (fun l => .bytes l.flatten) else none
  | .suspects => if suspectsOk b then some v else none
  | .portShaper => (portShaperOk b).map .bytes
  | .subEntry => (subEntryOk b).map .bytes
  | .queueEntry => (queueEntryOk b).map .bytes
  | .policerEntry => (policerEntryOk b).map .bytes
  | .traceFetch => if bits n 12 4 = 0 ∧ bits n 0 8 ≤ 47 then some v else none
  | .streamEntry => (streamEntryOk b).map .bytes
  | .descAddr => if n % 32 = 0 then some v else none
  | .verifyKey => if verifyKeyOk b then some v else none
  | .firmwareLog =>
    if 12 ≤ b.length ∧ b.length ≤ 52 ∧ leAt b 0 4 < 1000000000 then
      some (.bytes (patch b 10 [0, 0])) else none
  | .wakeCost => if b.length = 1536 ∧ b.all (fun x => decide (1 ≤ x.toNat)) then some v else none
  | .leafId => if bits n 0 5 ≤ 23 then some (.num (n % 2 ^ 18)) else none
  | .repairAdd => (repairAddOk b).map .bytes
  | .podMembers => (podMembersOk b).map .bytes
  | .location => (locationOk n).map .num
  | .locations => (locationsOk b).map .bytes
  | .loupe => (loupeOk leaf n).map .num
  | .serial => if b.length ≤ 32 ∧ b.all (fun x => decide (0x20 ≤ x.toNat) && decide (x.toNat ≤ 0x7E)) then some v else none

/-- The value that the object takes when `v` is written, if `v` lies in its Range (R11, R8). [DEDUCED, assumption 29] -/
def rangeAccept (r : Range) (t : Nat) (leaf : Bool) (v : Val) : Option Val :=
  match r with
  | .all => some v
  | .iv lo hi => if lo ≤ v.toNum ∧ v.toNum ≤ hi then some v else none
  | .ivs l => if l.any (fun p => decide (p.1 ≤ v.toNum) && decide (v.toNum ≤ p.2)) then some v else none
  | .stp lo hi step => if lo ≤ v.toNum ∧ v.toNum ≤ hi ∧ (v.toNum - lo) % step = 0 then some v else none
  | .siv neg pos =>
    let i := signed (8 * (typeSize t).getD 1) v.toNum
    if -(neg : Int) ≤ i ∧ i ≤ pos then some v else none
  | .msk m => some (.num (v.toNum &&& m))
  | .len lo hi mult =>
    if lo ≤ v.toBytes.length ∧ v.toBytes.length ≤ hi ∧ v.toBytes.length % mult = 0 then some v else none
  | .ent lo hi size m =>
    if lo ≤ v.toBytes.length ∧ v.toBytes.length ≤ hi ∧ v.toBytes.length % size = 0 then
      some (.bytes ((pieces size v.toBytes).flatMap (fun e => natLe size (leNat e &&& m)))) else none
  | .lens l => if v.toBytes.length ∈ l then some v else none
  | .chk c => chkAccept c leaf v

/-- The range check of a written value of type `t`: BOOL takes 0 and 1 only (Table 3.1), a TIME96 keeps its
nanoseconds below 10^9 (R38). -/
def accept (d : ObjDef) (leaf : Bool) (v : Val) : Option Val :=
  if d.type = 1 ∧ 1 < v.toNum then none
  else if d.type = 10 ∧ 1000000000 ≤ v.toNum % 2 ^ 32 then none
  else rangeAccept d.range d.type leaf v

/-! ### Time values (Table 2.1) -/

/-- Nanoseconds since the epoch of a TIME96. -/
def t96ns (w : Nat) : Nat := (w / 2 ^ 32 % 2 ^ 48) * 1000000000 + w % 2 ^ 32

/-- The TIME96 of nanoseconds since the epoch. -/
def ns96 (n : Nat) : Nat := (n / 1000000000 % 2 ^ 48) * 2 ^ 32 + n % 1000000000

end Sys2Proof.Machine
end

