-- ==== Sys2Proof/Machine/Store.lean ====
section
/-! DEFINITION. The object dictionary of a block: which objects exist in a build (R67, R433 to R438), their defaults
(R10), and the named reads and writes of registers that every meaning uses. -/

namespace Sys2Proof.Machine

/-- The row holds the object. -/
def ObjDef.holds (d : ObjDef) (idx sub : Nat) : Bool :=
  decide (d.idxLo ≤ idx) && decide (idx ≤ d.idxHi) && decide (d.subLo ≤ sub) && decide (sub ≤ d.subHi)

/-- The row belongs to the build. -/
def ObjDef.inBuild (d : ObjDef) (leaf : Bool) : Bool :=
  match d.builds with
  | .both => true
  | .leaf => leaf
  | .tray => !leaf

/-- The object's row in the build, if the build has the object. [DEDUCED, assumption 28] -/
def defOf (leaf : Bool) (key : Nat) : Option ObjDef :=
  (rowsFor (key / 256)).find? (fun d => d.holds (key / 256) (key % 256) && d.inBuild leaf)

/-- The index exists in the build. -/
def idxExists (leaf : Bool) (idx : Nat) : Bool :=
  (rowsFor idx).any (fun d => decide (d.idxLo ≤ idx) && decide (idx ≤ d.idxHi) && d.inBuild leaf)

/-- The highest subindex defined at the index in the build (R67). -/
def subMax (leaf : Bool) (idx : Nat) : Nat :=
  (rowsFor idx).foldl
    (fun m d => if d.idxLo ≤ idx ∧ idx ≤ d.idxHi ∧ d.inBuild leaf = true then max m d.subHi else m) 0

/-- The row of subindex 0x00 at an existing index: U8, RO, class C (R67). -/
def subZeroDef (leaf : Bool) (idx : Nat) : ObjDef :=
  { idxLo := idx, idxHi := idx, subLo := 0, subHi := 0, type := 2, access := .ro, cls := .c, wrole := 0, rrole := 1,
    tray := false, builds := .both, dflt := .num (subMax leaf idx), range := .all }

/-- The existence check of R67: the object's row, or the status that refuses it. -/
def lookup (leaf : Bool) (idx sub : Nat) : Nat ⊕ ObjDef :=
  if !idxExists leaf idx then .inl stNoObject
  else if sub = 0 then .inr (subZeroDef leaf idx)
  else match defOf leaf (idx * 256 + sub) with
    | some d => .inr d
    | none =>
      match defOf (!leaf) (idx * 256 + sub) with
      | some _ => .inl stNoObject
      | none => .inl stNoSub

/-- The default of a key: the Default column (R10); an absent key reads 0. -/
def dflt (leaf : Bool) (key : Nat) : Val :=
  match defOf leaf key with
  | some d => d.dflt
  | none => .num 0

/-- The persistence class of a key; an absent key counts as class V. -/
def clsOf (leaf : Bool) (key : Nat) : Cls :=
  match defOf leaf key with
  | some d => d.cls
  | none => .v

/-- The type code of a key, 0 when absent. -/
def typeOf (leaf : Bool) (key : Nat) : Nat :=
  match defOf leaf key with
  | some d => d.type
  | none => 0

/-- One directory entry (Table 18.3). -/
def dirEntry (idx sub : Nat) (d : ObjDef) : Nat :=
  let acc := match d.access with | .ro => 0 | .rw => 1 | .wo => 2 | .rwt => 3 | .const => 4
  let cls := match d.cls with | .c => 0 | .s => 1 | .w => 2 | .v => 3
  idx * 2 ^ 48 + sub * 2 ^ 40 + d.type * 2 ^ 32 + acc * 2 ^ 28 + cls * 2 ^ 26 + d.wrole * 2 ^ 24 + d.rrole * 2 ^ 22 +
    (if d.tray then 2 ^ 21 else 0)

/-- The entries of one index in ascending subindex, subindex 0x00 included. -/
def dirOfIdx (leaf : Bool) (idx : Nat) : List Nat :=
  (List.range (subMax leaf idx + 1)).filterMap (fun sub =>
    if sub = 0 then some (dirEntry idx 0 (subZeroDef leaf idx))
    else (defOf leaf (idx * 256 + sub)).map (dirEntry idx sub))

/-- The indices of a list of rows in the build, ascending, once each. -/
def idxsOf (leaf : Bool) (rows : List ObjDef) : List Nat :=
  let add := fun (acc : List Nat) (i : Nat) => if i ∈ acc then acc else insertBy id i acc
  rows.foldl (fun acc d =>
    if d.inBuild leaf then (List.range (d.idxHi + 1 - d.idxLo)).foldl (fun a k => add a (d.idxLo + k)) acc else acc) []

/-- The directory (R435): one 8-byte entry per object, ascending. -/
def directory (leaf : Bool) : List Byte :=
  (idxsOf leaf objRows).flatMap (fun i => (dirOfIdx leaf i).flatMap (natLe 8))

/-- object_count (0x0001:02): the directory's entries. -/
def objectCount (leaf : Bool) : Nat :=
  (idxsOf leaf objRows).foldl (fun n i => n + (dirOfIdx leaf i).length) 0

/-! ### Registers of a block -/

/-- The value in force of an object that the store holds. -/
def Blk.val (b : Blk) (key : Nat) : Val := mget (dflt b.isLeaf) b.store key

/-- The number in force of an object. -/
def Blk.num (b : Blk) (key : Nat) : Nat := (b.val key).toNum

/-- The bytes in force of a DOMAIN or STRING object. -/
def Blk.bytes (b : Blk) (key : Nat) : List Byte := (b.val key).toBytes

/-- Give an object a value. -/
def Blk.setVal (b : Blk) (key : Nat) (v : Val) : Blk := { b with store := mset (dflt b.isLeaf) b.store key v }

/-- Give an object a number. -/
def Blk.setNum (b : Blk) (key n : Nat) : Blk := b.setVal key (.num n)

/-- Give an object bytes. -/
def Blk.setBytes (b : Blk) (key : Nat) (d : List Byte) : Blk := b.setVal key (.bytes d)

/-- Give a BOOL object a value. -/
def Blk.setBool (b : Blk) (key : Nat) (v : Bool) : Blk := b.setNum key (if v then 1 else 0)

/-- A counter advances by `k` and stops at the largest value of its type (R44, R108, R210 and each chapter). -/
def Blk.bump (b : Blk) (key : Nat) (k : Nat := 1) : Blk :=
  b.setNum key (min (b.num key + k) (typeMax (typeOf b.isLeaf key)))

/-- Something leaves the block. -/
def Blk.emit (b : Blk) (o : Out) : Blk := { b with out := b.out ++ [o] }

/-- Return to default the objects of the given classes, but for the keys kept (R10, R437). -/
def Blk.toDefault (b : Blk) (drop : Cls → Bool) (keep : Nat → Bool) : Blk :=
  { b with store := mfilter (fun k => keep k || !drop (clsOf b.isLeaf k)) b.store }

/-- The block's own node address (R72, Table 3.3). -/
def Blk.addr (b : Blk) : Word :=
  if b.isLeaf then BitVec.ofNat 32 (b.num K.leafId) else BitVec.ofNat 32 (0x10000000 + b.num K.channelId)

/-- A channel's node address from its channel identifier (R21, R72). -/
def chanAddr (id : Nat) : Word := BitVec.ofNat 32 (0x10000000 + id)

/-- The tray's host port address as a source of requests (Table 3.3). -/
def Blk.hostAddr (b : Blk) : Word := BitVec.ofNat 32 (0x20000000 + b.num K.channelId / 4)

/-- The tray's sideband address as a source of requests (Table 3.3). -/
def Blk.sideAddr (b : Blk) : Word := BitVec.ofNat 32 (0x30000000 + b.num K.channelId / 4)

/-- A draw of a value that the spec leaves open: the next free value and the block with its counter advanced. [DESIGN CHOICE, assumption 9] -/
def Blk.draw (b : Blk) : Nat × Blk := (Config.freeNat b.free, { b with free := b.free + 1 })

/-- The next Bivan request number the block uses. -/
def Blk.takeSeq (b : Blk) : Nat × Blk := (b.nextSeq, { b with nextSeq := (b.nextSeq + 1) % 2 ^ 32 })

/-- Send a Bivan request of the block's own. -/
def Blk.request (b : Blk) (dst : Word) (opcode txn : Nat) (items : List Item) (body : List Byte) : Blk :=
  { b with nextSeq := (b.nextSeq + 1) % 2 ^ 32,
           out := b.out ++ [.msg { dst := dst, opcode := opcode, seq := b.nextSeq, txn := txn, items := items,
                                   body := body }] }

end Sys2Proof.Machine
end

