-- ==== Sys2Proof/Machine/Flags.lean ====
section
/-! DEFINITION. The status and interrupt flags: the causes of Table 17.10, the short-frame causes of Table 2.4 and the
flag alignment_assured (R57). -/

namespace Sys2Proof.Machine

/-! ### Interrupts (R422, Table 17.10) -/

abbrev irqFrame : Nat := 0
abbrev irqTime : Nat := 1
abbrev irqTxn : Nat := 2
abbrev irqMover : Nat := 3
abbrev irqCarat : Nat := 4
abbrev irqSupply : Nat := 5
abbrev irqFault : Nat := 6
abbrev irqMailbox : Nat := 7

/-- A channel raises irq_evt with a cause; a leaf has no such line (R43). -/
def Blk.raiseEvt (b : Blk) (k : Nat) : Blk := if b.isLeaf then b else { b with evt := b.evt ||| BitVec.ofNat 8 (2 ^ k) }

/-- A channel raises irq_err with a cause; a leaf has no such line (R43). -/
def Blk.raiseErr (b : Blk) (k : Nat) : Blk := if b.isLeaf then b else { b with err := b.err ||| BitVec.ofNat 8 (2 ^ k) }

/-! ### Short frames (R42, Table 2.4) -/

abbrev causeSampler : Nat := 0x1
abbrev causeTouchstone : Nat := 0x2
abbrev causeAssay : Nat := 0x4
abbrev causeJournal : Nat := 0x8
abbrev causeReduction : Nat := 0x100
abbrev causeSeries : Nat := 0x200
abbrev causeFacet : Nat := 0x400
abbrev causeBalance : Nat := 0x800
abbrev causeLaggard : Nat := 0x1000
abbrev causeRule : Nat := 0x2000
abbrev causeStep : Nat := 0x10000
abbrev causeMissed : Nat := 0x20000

/-- The causes recorded for frame `f` so far. -/
def Blk.shortCauses (b : Blk) (f : Nat) : Nat := mget (fun _ => 0) b.shorts f

/-- Declare frame `f` short (R42). The first declaration counts the frame; every declaration records the frame and its
causes so far, ORed together, in 0x0400:05 and 0x0400:06 (DEDUCED, assumption 11). The causes stay for the packet of `f`; every
declaration counts for R43. -/
def Blk.declareShort (b : Blk) (f c : Nat) : Blk :=
  let old := b.shortCauses f
  let causes := old ||| c
  let b1 := { b with shorts := mset (fun _ => 0) b.shorts f causes, declared := b.declared + 1 }.raiseEvt irqFrame
  let b2 := if old = 0 then b1.bump K.shortCount else b1
  (b2.setNum K.lastShortFrame f).setNum K.lastShortCauses causes

/-- Judge the frame that closes (R43): with a declaration the run grows by 1, and irq_err rises at every multiple of
the limit that it reaches; without one it returns to 0. [DEDUCED, assumption 11] -/
def Blk.judgeShortRun (b : Blk) : Blk :=
  if b.declared = 0 then b.setNum K.shortRun 0
  else
    let b1 := { b with declared := 0 }.bump K.shortRun
    if b1.num K.shortRun ≠ b.num K.shortRun ∧ b1.num K.shortRun % b1.num K.shortRunLimit = 0 then b1.raiseErr irqFrame
    else b1

/-! ### Servo states and alignment (Table 2.5, R57) -/

abbrev svFree : Nat := 0
abbrev svAcquiring : Nat := 1
abbrev svLocked : Nat := 2
abbrev svHoldover : Nat := 3

/-- The active domain (0x0300:03). -/
def Blk.activeDom (b : Blk) : Dom := if b.num K.activeDomain = 1 then .b else .a

/-- The key of the servo state of a domain. -/
def servoKey : Dom → Nat
  | .a => K.servoStateA
  | .b => K.servoStateB

/-- The state of a domain's servo. -/
def Blk.servoState (b : Blk) (d : Dom) : Nat := b.num (servoKey d)

/-- What alignment_assured reads (R57). -/
def Blk.aligned (b : Blk) : Bool :=
  let st := b.servoState b.activeDom
  st == svLocked || (st == svHoldover && decide (b.num K.holdoverElapsedMs ≤ b.num K.holdoverBudgetMs))

/-- Bring alignment_assured up to date; a fall from TRUE to FALSE raises irq_err, a lock clears the holdover time
(R57). -/
def Blk.judgeAlignment (b : Blk) : Blk :=
  let b1 := if b.servoState b.activeDom = svLocked then b.setNum K.holdoverElapsedMs 0 else b
  let now := b1.aligned
  let b2 := b1.setBool K.alignmentAssured now
  if b.num K.alignmentAssured = 1 ∧ now = false then b2.raiseErr irqTime else b2

end Sys2Proof.Machine
end

