-- ==== Sys2Proof/Machine/Ops.lean ====
section
/-! DEFINITION. Named operations on a block that several families share: the frame period, the local times, the
transactions that a block raises on itself, and the sequence arithmetic of Bivan. -/

namespace Sys2Proof.Machine

/-! ### Frames and local time -/

/-- The frame number in force, 0x0400:02. -/
def Blk.now (b : Blk) : Nat := b.num K.frameNow

/-- The frame period in force, in ns (0x0400:03). -/
def Blk.periodNs (b : Blk) : Nat := b.num K.framePeriodActive * 1000

/-- The servo of a domain. -/
def Blk.servo (b : Blk) (d : Dom) : Servo := match d with | .a => b.sa | .b => b.sb

/-- Replace the servo of a domain. -/
def Blk.setServo (b : Blk) (d : Dom) (s : Servo) : Blk := match d with | .a => { b with sa := s } | .b => { b with sb := s }

/-- The local time of a domain, in ns. -/
def Blk.time (b : Blk) (d : Dom) : Nat := match d with | .a => b.timeA | .b => b.timeB

/-- Set the local time of a domain, in ns. -/
def Blk.setTime (b : Blk) (d : Dom) (t : Nat) : Blk := match d with | .a => { b with timeA := t } | .b => { b with timeB := t }

/-- The other domain. -/
def domOther : Dom → Dom
  | .a => .b
  | .b => .a

/-- The frame time: the local time of the active domain plus the remainder of a switch (R36, R55), in ns. -/
def Blk.frameTime (b : Blk) : Nat := ((b.time b.activeDom : Int) + b.remain).toNat

/-- The time_mode in force (R66). -/
def Blk.timeMode (b : Blk) : Nat := b.modeWas.getD (b.num K.timeMode)

/-- The envelope is one that the block takes (R75): its version is 0x1, its kind that of what it brings (Table 3.6), and its length is
at most 8,192 and agrees with the frame. [DESIGN CHOICE, assumption 78] -/
def envTaken (e : EnvHead) (kind : Nat) : Bool :=
  decide (e.version = 1) && decide (e.kind.toNat = kind) && decide (e.length.toNat ≤ 8192) && decide (e.length.toNat = e.carried)

/-- A frame whose envelope the block does not take is discarded and counted (R75); one whose bytes do not agree with its envelope's
length counts as an aborted frame too (R412, R414). [DEDUCED, assumption 92] -/
abbrev Blk.badEnvelope (b : Blk) (e : EnvHead) : Blk :=
  (b.bump K.envelopesDiscarded).bump K.framesAborted (if e.length.toNat = e.carried then 0 else 1)

/-- The head of the envelope before a fragment header and `bytes` more (R75, R176). -/
def fragEnv (bytes : Nat) : EnvHead := { version := 1, kind := 3, length := BitVec.ofNat 16 (16 + bytes), carried := 16 + bytes }

/-- Whether the block executes commands at all: not while its reset is held, nor in a fast path, nor when off. -/
def Blk.live (b : Blk) : Bool :=
  match b.phase with
  | .run => true
  | .cold => true
  | .failed => true
  | .retained => true
  | .asserted => false
  | .fast => false
  | .off => false

/-! ### Transactions that the block raises on itself (R87, R88, R90) -/

/-- How many transactions may be open or committed at once (R88). -/
def Blk.txnLimit (b : Blk) : Nat := if b.isLeaf then 16 else 64

/-- A write of one of `keys` is already committed, or staged by a fleet transaction, for frame `a` (R90, R100). -/
def Blk.conflict (b : Blk) (a : Nat) (keys : List Nat) : Bool :=
  b.txns.any (fun t => (t.state == .committed || decide (0 < t.storing)) && t.apply == a && t.items.any (fun w => keys.contains w.1)) ||
  b.fleet.any (fun f => f.holds && f.body.apply == a && f.staged.any (fun w => keys.contains w.1))

/-- Why a commit for frame `a` is refused, or OK (R90). -/
def Blk.commitStatus (b : Blk) (a : Nat) (keys : List Nat) : Nat :=
  if a ≤ b.now then stExpired
  else if b.now + 1048576 < a then stRange
  else if b.conflict a keys then stConflict
  else stOk

/-- The first number from `n` on that no transaction of this block on itself holds; `fuel` bounds the search. [DEDUCED, assumption 25] -/
def Blk.freeNum (b : Blk) : Nat → Nat → Nat
  | 0, n => n
  | fuel + 1, n =>
    if b.txns.any (fun t => t.src == b.addr && t.num == BitVec.ofNat 32 n) then b.freeNum fuel ((n + 1) % 2 ^ 32) else n

/-- The number of the next transaction of the block on itself (R87). [DEDUCED, assumption 25] -/
def Blk.ownNum (b : Blk) : Nat := b.freeNum b.txns.length b.selfNum

/-- Raise a committed transaction of the block on itself with apply frame `a`; the status is OK, BUSY or
TXN_CONFLICT (R87, R88, R90). -/
def Blk.raiseSelf (b : Blk) (ws : List Wr) (a : Nat) : Nat × Blk :=
  if b.txnLimit ≤ b.txns.length then (stBusy, b)
  else
    let st := b.commitStatus a (ws.map (·.1))
    if st ≠ stOk then (st, b)
    else (stOk, { b with
      selfNum := (b.ownNum + 1) % 2 ^ 32,
      txns := b.txns ++ [{ src := b.addr, num := BitVec.ofNat 32 b.ownNum, state := .committed, items := ws,
                           dataBytes := 0, apply := a, last := b.now, fleet := false, storing := 0,
                           storeFailed := false, images := [] }] })

/-- Remember a finished transaction, the last 64 of them (R87). -/
def Blk.finish (b : Blk) (d : Done) : Blk := { b with done := (d :: b.done).take 64 }

/-- A reset discards every transaction but those of `keep`, and remembers it as discarded (R87, Table 3.11). -/
def Blk.discard (b : Blk) (keep : Txn → Bool) : Blk :=
  (b.txns.filter (fun t => !keep t)).foldl
    (fun acc t => acc.finish { src := t.src, num := t.num, state := .discarded, status := stOk, apply := t.apply })
    { b with txns := b.txns.filter keep }

end Sys2Proof.Machine
end

