-- ==== Sys2Proof/Machine/Sampler.lean ====
section
/-! DEFINITION. The core tap port's beats, the sampler with its series, and the barrier recorder (R109 to R122). -/

namespace Sys2Proof.Machine

/-! ### Sets of cores as bitmaps -/

/-- Bit k of the answer is `p` of byte k. -/
def maskOf (p : Byte → Bool) : List Byte → Nat
  | [] => 0
  | x :: xs => (if p x then 1 else 0) + 2 * maskOf p xs

/-- The bits of `a` that `b` lacks. -/
def andNot (a b : Nat) : Nat := a ^^^ (a &&& b)

/-- Bit `j` of every core_control (Table 4.6), one bit per core; only written objects can differ from 0. -/
def Blk.coreBits (b : Blk) (j : Nat) : Nat :=
  b.store.foldl (fun acc e =>
    if 0x400000 ≤ e.1 ∧ e.1 < 0x400800 ∧ bit e.2.toNum j then
      setBit acc ((e.1 / 256 - 0x4000) * 128 + e.1 % 256 - 1) else acc) 0

/-- The key of core c's core_control (R131). -/
def coreKey (c : Nat) : Nat := K.coreControl + c / 128 * 256 + c % 128

/-- The key of region r's region_control (R124). -/
def regionKey (r : Nat) : Nat := K.regionControl + r

/-- A region's command (Table 4.5). -/
def Blk.regionCmd (b : Blk) (r : Nat) : Nat := b.num (regionKey r)

/-- Regions whose off is set, one bit each. -/
def Blk.regionsOff (b : Blk) : Nat := (List.range 32).foldl (fun acc r => if bit (b.regionCmd r) 3 then setBit acc r else acc) 0

/-- Regions that are off or settling (R129). -/
def Leaf.regionsOut (l : Leaf) : Nat := l.reg.settle.foldl (fun acc e => setBit acc e.1) l.b.regionsOff

/-- The region of core c, if it has one (0x0E10:01). -/
def Blk.regionOf (b : Blk) (c : Nat) : Option Nat :=
  let r := ((b.bytes K.regionMap).getD c 0xFF).toNat
  if r < 32 then some r else none

/-- Core c's region is off or settling. -/
def Leaf.coreOut (l : Leaf) (c : Nat) : Bool :=
  match l.b.regionOf c with
  | some r => l.regionsOut.testBit r
  | none => false

/-- Cores whose region is off or settling. -/
def Leaf.coresOut (l : Leaf) : Nat :=
  let out := l.regionsOut
  if out = 0 then 0 else maskOf (fun x => decide (x.toNat < 32) && out.testBit x.toNat) (l.b.bytes K.regionMap)

/-- The bits below the core count. -/
def Blk.coreMask (b : Blk) : Nat := 2 ^ b.num K.coreCount - 1

/-- The expected barrier set, the dark cores and the watched cores from the settings in force (R113, R116, R122,
R136). -/
def Leaf.judgeCores (l : Leaf) : Leaf :=
  let out := l.coresOut
  let dark := l.b.coreBits 1 ||| out
  { l with smp := { l.smp with
      expected := andNot (leNat (l.b.bytes K.barrierBaseSet)) (l.b.coreBits 2 ||| out) &&& l.b.coreMask,
      dark := dark,
      watched := andNot (leNat (l.b.bytes K.heartbeatMask)) (l.b.coreBits 0 ||| dark) &&& l.b.coreMask } }

/-! ### Beats (R109 to R114, R445) -/

/-- kind of a core tap beat (Table 4.1). -/
def beatKind (d : Nat) : Nat := bits d 508 4

/-- The sending core. -/
def beatCore (d : Nat) : Nat := bits d 498 10

/-- The count n of a counter record. -/
def beatCount (d : Nat) : Nat := bits d 488 3

/-- The base counter b of a counter record. -/
def beatBase (d : Nat) : Nat := bits d 480 6

/-- The word of a beat. -/
def beatWord (d : Nat) : Nat := bits d 448 32

/-- Payload word j of 64 bits (R112, R302). -/
def beatPayload (d j : Nat) : Nat := bits d (384 - 64 * j) 64

/-- The leaf discards the beat (R110). -/
def Blk.beatBad (b : Blk) (d : Nat) : Bool :=
  let k := beatKind d
  k == 0 || decide (4 < k) || decide (b.num K.coreCount ≤ beatCore d) ||
    (k == 1 && decide (64 < beatBase d + beatCount d))

/-- A value received for an integer source (R118). -/
def Seen.addInt (s : Option Seen) (v : Nat) : Seen :=
  match s with
  | none => { last := v, hi := v, lo := v }
  | some s => { last := v, hi := max s.hi v, lo := min s.lo v }

/-- A value received for a binary32 source: NaN gives way to numbers (R118). -/
def Seen.addF32 (s : Option Seen) (v : Nat) : Seen :=
  match s with
  | none => { last := v, hi := fMax v v, lo := fMin v v }
  | some s => { last := v, hi := fMax s.hi v, lo := fMin s.lo v }

/-- A counter numbered 32 and above is a gauge. -/
def isGauge (ctr : Nat) : Bool := decide (32 ≤ ctr)

/-- One counter of a record: the last value, and, in an open frame, the values received (R112, R445). -/
def Leaf.takeCounter (l : Leaf) (core ctr v : Nat) : Leaf :=
  let key := core * 64 + ctr
  let v1 := if isGauge ctr then v % 2 ^ 32 else v
  let old := mfind l.smp.seen key
  let seen := if l.b.frameIsOpen then
      mput l.smp.seen key (if isGauge ctr then Seen.addF32 old v1 else Seen.addInt old v1)
    else l.smp.seen
  { l with smp := { l.smp with last := mset (fun _ => 0) l.smp.last key v1, seen := seen } }

/-- A counter record (R112). -/
def Leaf.takeCounters (l : Leaf) (d : Nat) : Leaf :=
  (List.range (beatCount d)).foldl (fun acc j => acc.takeCounter (beatCore d) (beatBase d + j) (beatPayload d j)) l

/-- A barrier event (R114, R115): a record, or a drop beyond 0x0800:05. -/
def Leaf.takeBarrier (l : Leaf) (d off : Nat) : Leaf :=
  if bit (l.b.num (coreKey (beatCore d))) 2 then l
  else if l.smp.barriers.length < l.b.num K.barrierRecordsMax then
    { l with smp := { l.smp with
        made := l.smp.made + 1,
        barriers := l.smp.barriers ++ [{ core := beatCore d, arrival := off % 2 ^ 20, barrier := beatWord d }] } }
  else
    { l with b := l.b.bump K.barrierDropped,
             smp := { l.smp with
               made := l.smp.made + 1, dropped := l.smp.dropped + 1,
               incomplete := if beatWord d ∈ l.smp.incomplete then l.smp.incomplete
                 else l.smp.incomplete ++ [beatWord d] } }

/-! ### Series (R117 to R122) -/

/-- A series descriptor (Table 4.3). -/
structure SerDesc where
  source : Nat
  form : Nat
  f32 : Bool
  code : Nat
  phase : Nat
  unit : Nat
  number : Nat
  key : Nat
  deriving DecidableEq, Repr

/-- The descriptor that a U64 holds. -/
def serDesc (n : Nat) : SerDesc :=
  { source := bits n 60 4, form := bits n 58 2, f32 := bit n 57, code := bits n 55 2, phase := bits n 49 6,
    unit := bits n 39 10, number := bits n 33 6, key := bits n 0 32 }

/-- The cadence n = 4^c (R118). -/
def SerDesc.cadence (s : SerDesc) : Nat := 4 ^ s.code

/-- The descriptors of a packed table. -/
def serTable (t : List Byte) : List SerDesc := (pieces 8 t).map (fun p => serDesc (leNat p))

/-- The series is sampled at the close of frame `f` (R118). -/
def SerDesc.due (s : SerDesc) (f : Nat) : Bool := f % s.cadence == s.phase

/-- Every field of a descriptor holds a defined value, and no delta names a gauge or a reading (R117,
R121, R183); reserved bits are not judged (R8). -/
def SerDesc.ok (s : SerDesc) : Bool :=
  decide (s.phase < s.cadence) &&
    (match s.source with
     | 0 => !(s.form == 0 && isGauge s.number)
     | 1 => decide (s.unit < 32) && decide (s.number < 4) && decide (s.form ≠ 0)
     | 2 => decide (s.unit < 8) && decide (s.number = 0)
     | _ => false) &&
    decide (1 ≤ bits s.key 28 4) && decide (bits s.key 28 4 ≤ 7)

/-- The checks of R121 on a standby series table for a period in µs. -/
def seriesTableOk (periodUs : Nat) (t : List Byte) : Bool :=
  let ds := serTable t
  let limit := (periodUs * 1000 - 16384) / 4
  decide (t.length % 8 = 0) && decide (ds.length ≤ 16384) && ds.all SerDesc.ok &&
    (List.range 64).all (fun r => decide ((ds.filter (fun p => r % p.cadence == p.phase)).length ≤ limit))

/-- The number of a series' source among latched values and received values. -/
def SerDesc.srcKey (s : SerDesc) : Nat :=
  match s.source with
  | 0 => s.unit * 64 + s.number
  | 1 => 65536 + s.unit * 4 + s.number
  | _ => 65664 + s.unit

/-- The source has binary32 values. -/
def SerDesc.isF32 (s : SerDesc) : Bool := s.source == 1 || (s.source == 0 && isGauge s.number)

/-- The F32 value of a region reading's code (Table 4.4). -/
def readingF32 (kind code : Nat) : Nat :=
  match kind with
  | 0 => ratF32 code 1000
  | 1 => ratF32 code 100
  | 2 => ratF32 (signed 16 code) 16
  | _ => natF32 (code % 4)

/-- The newest closed frame not after `f` (R118; skipped frames latch what the frame before them latched). -/
def histAt (h : List FrameRec) (f : Nat) : Option FrameRec := h.find? (fun r => decide (r.frame ≤ f))

/-- What a source received in frames `lo` to `hi`. -/
def histSeen (h : List FrameRec) (key lo hi : Nat) : List Seen :=
  (h.filter (fun r => decide (lo ≤ r.frame) && decide (r.frame ≤ hi))).filterMap (fun r => mfind r.seen key)

/-- The value of a series over frames f − n + 1 to f before conversion, none when missing (R118, R122). [DEDUCED, assumption 31] -/
def serValue (s : SerDesc) (h : List FrameRec) (lastDark f : Nat) : Option Nat :=
  let n := s.cadence
  let key := s.srcKey
  let at_ := fun (r : FrameRec) => mget (fun _ => 0) r.latch key
  let items := (h.filter (fun r => decide (f + 1 ≤ r.frame + n) && decide (r.frame ≤ f))).map at_
  let got := histSeen h key (f + 1 - n) f
  match s.form with
  | 0 =>
    if f < n ∨ (s.source = 0 ∧ f + 1 ≤ lastDark + n) then none
    else match histAt h f, histAt h (f - n) with
      | some a, some b => some ((2 ^ 64 + at_ a - at_ b) % 2 ^ 64)
      | _, _ => none
  | 1 =>
    if s.source = 1 then (histSeen h key f f).head?.map (·.last) else (histAt h f).map at_
  | 2 =>
    if s.source = 2 then items.foldl (fun acc v => some (max (acc.getD v) v)) none
    else got.foldl (fun acc x => some (match acc with
      | none => x.hi
      | some v => if s.isF32 then fMax v x.hi else max v x.hi)) none
  | _ =>
    if s.source = 2 then items.foldl (fun acc v => some (min (acc.getD v) v)) none
    else got.foldl (fun acc x => some (match acc with
      | none => x.lo
      | some v => if s.isF32 then fMin v x.lo else min v x.lo)) none

/-- Conversion to the value type; the flag tells of a saturation (R119). [DEDUCED, assumption 31] -/
def serConvert (s : SerDesc) (v : Nat) : Nat × Bool :=
  if s.isF32 then (v, false)
  else if s.f32 then (natF32 v, false)
  else if 2 ^ 32 ≤ v then (2 ^ 32 - 1, true)
  else (v, false)

/-- The state (0 value, 1 missing, 2 dark) and place of one series in the packet of `f`, and a saturation (R122,
R136). `lost` are the cores found lost. -/
def Leaf.serEntry (l : Leaf) (f : Nat) (s : SerDesc) : (Nat × Nat) × Bool :=
  let core := s.source == 0
  if core && decide (l.b.num K.coreCount ≤ s.unit) then ((1, 0), false)
  else if core && l.smp.dark.testBit s.unit then ((2, 0), false)
  else if core && l.fen.mark.testBit s.unit then ((1, 0), false)
  else match serValue s l.smp.hist (if core then mget (fun _ => 0) l.smp.lastDark s.unit else 0) f with
    | none => ((1, 0), false)
    | some v => let r := serConvert s v; ((0, r.1), r.2)

/-- The series sampled at the close of `f`, and the leaf with its saturations counted. -/
def Leaf.sampleSeries (l : Leaf) (f : Nat) : List (Nat × Nat) × Leaf :=
  let es := ((serTable (l.b.bytes K.seriesTableActive)).filter (fun s => s.due f)).map (l.serEntry f)
  let sat := (es.filter (·.2)).length
  (es.map (·.1), if sat = 0 then l else { l with b := l.b.bump K.saturations sat })

/-! ### The close of a frame -/

/-- Silent cores of the closing frame (R113): watched, with counter 0 latched as at the close before. -/
def Leaf.silentCores (l : Leaf) : List Nat :=
  match l.smp.hist with
  | [] => []
  | r :: _ => (onesOf 1024 l.smp.watched).filter (fun c =>
      mget (fun _ => 0) l.smp.last (c * 64) == mget (fun _ => 0) r.latch (c * 64))

/-- The latch at the close of frame `f` with its leaf items (R112, R118), and the count of silent frames of each
core (R113). -/
def Leaf.closeSampler (l : Leaf) (f : Nat) : Leaf :=
  let quiet := l.silentCores
  let items := [l.smp.accepted, l.smp.discarded, l.smp.made, l.smp.dropped, popCount 1024 (l.b.coreBits 0),
    popCount 1024 l.smp.dark, quiet.length, popCount 32 l.b.regionsOff]
  let latch := (items.foldl (fun (acc : NMap Nat × Nat) v => (mset (fun _ => 0) acc.1 acc.2 v, acc.2 + 1))
    (l.smp.last, 65664)).1
  let silent := quiet.map (fun c => (c, mget (fun _ => 0) l.smp.silent c + 1))
  { l with smp := { l.smp with
      hist := ({ frame := f, latch := latch, seen := l.smp.seen } :: l.smp.hist).take 66,
      seen := [], silent := silent } }

/-- The barrier section of the closing frame (Table 7.3): of more than 64 identifiers that lost a record, the first 64 to lose one are
listed. [DESIGN CHOICE, assumption 87] -/
def Leaf.barrierSection (l : Leaf) : List Byte :=
  let ids := l.smp.incomplete.take 64
  natLe 2 l.smp.barriers.length ++ natLe 2 (min l.smp.dropped 65535) ++ natLe 2 ids.length ++ natLe 2 0 ++
    natLe 128 l.smp.expected ++
    l.smp.barriers.flatMap (fun r => natLe 8 (r.core * 2 ^ 54 + r.arrival * 2 ^ 32 + r.barrier)) ++
    ids.flatMap (natLe 4)

/-- The recorders start afresh for the frame that opens; cores dark at its opening are noted (R116, R122). -/
def Leaf.openSampler (l : Leaf) (k : Nat) : Leaf :=
  let l1 := l.judgeCores
  { l1 with smp := { l1.smp with
      intake := 0, intakeAt := 0, accepted := 0, discarded := 0, made := 0, dropped := 0, barriers := [], incomplete := [],
      lastDark := (onesOf 1024 l1.smp.dark).foldl (fun m c => mput m c (k + 1)) l1.smp.lastDark } }

/-- UNIT_OVERRUN of the sampler (Table 2.3): the last `left` series of the packet of `f` are sent missing, counted. -/
def Leaf.overrunSampler (l : Leaf) (f left : Nat) : Leaf :=
  let l1 := { l with b := l.b.declareShort f causeSampler }
  match l.draft with
  | none => l1
  | some d =>
    if d.frame ≠ f then l1
    else
      let keep := d.values.length - left
      { l1 with b := l1.b.bump K.seriesMissingBudget (d.values.length - keep),
                draft := some { d with values := d.values.take keep ++ List.replicate (d.values.length - keep) (1, 0) } }

/-! ### Series table (R120) -/

/-- series_swap takes effect: the standby table becomes active (R120). -/
def Leaf.swapSeries (l : Leaf) : Leaf :=
  let t := l.b.bytes K.seriesTableStandby
  { l with b := ((l.b.setBytes K.seriesTableActive t).setNum K.seriesCount (t.length / 8)).setBool K.seriesSwap false,
           tableEpoch := l.b.now }

end Sys2Proof.Machine
end

