-- ==== Sys2Proof/Machine/Fence.lean ====
section
/-! DEFINITION. The fence port, fence authority and the region port of a leaf (R123 to R134, R410, R411). -/

namespace Sys2Proof.Machine

/-! ### Rule inputs and fault records (Tables 10.2, 10.3, 14.8, 14.9) -/

/-- A rule input record: head, then its payload (Table 10.2). -/
def ruleInput (code arg : Nat) (payload : List Byte) : List Byte :=
  natLe 8 (code * 2 ^ 56 + payload.length * 2 ^ 32 + arg) ++ padTo 8 payload

/-- Queue a rule input for the packet of frame `f` (R181). -/
def Leaf.ruleIn (l : Leaf) (f code arg : Nat) (payload : List Byte) : Leaf :=
  { l with ruleQ := l.ruleQ ++ [(f, ruleInput code arg payload)] }

/-- A fault record (Table 14.8). -/
def faultRec (kind locKind reporter loc frame detail : Nat) : List Byte :=
  natLe 32 (kind * 2 ^ 248 + locKind * 2 ^ 244 + reporter * 2 ^ 208 + loc * 2 ^ 160 + frame * 2 ^ 96 + detail)

/-- The location of a core of leaf `id` (Table 14.8). -/
def locCore (id core : Nat) : Nat := id * 2 ^ 14 + core

/-- The location of a leaf. -/
def locLeaf (id : Nat) : Nat := id * 2 ^ 14 + 0x3FFF

/-- Queue a fault record for the packet of frame `f` (R132, R154, R181); `at_` is the record's own frame. -/
def Leaf.fault (l : Leaf) (f kind locKind loc at_ detail : Nat) : Leaf :=
  { l with faultQ := l.faultQ ++ [(f, faultRec kind locKind l.b.addr.toNat loc at_ detail)] }

/-- The leaf's own identifier. -/
def Leaf.id (l : Leaf) : Nat := l.b.num K.leafId

/-! ### Acknowledgements (R131, R410) -/

/-- The fence vector (0x0E00:02). -/
def Blk.fenceVector (b : Blk) : Nat := b.coreBits 0

/-- A core_control has been applied: a changed fence awaits its acknowledgement, and the core may be found lost anew
(R131, R132). -/
def Leaf.coreWritten (l : Leaf) (c old new : Nat) : Leaf :=
  let f := { l.fen with mark := clearBit l.fen.mark c }
  let pend := if bit old 0 = bit new 0 ∨ l.coreOut c = true then f.pending.filter (· ≠ c)
    else if f.ack.testBit c = bit new 0 then f.pending.filter (· ≠ c)
    else f.pending.filter (· ≠ c) ++ [c]
  { l with fen := { f with pending := if bit old 0 = bit new 0 then f.pending else pend } }

/-- A fence-acknowledge failure (R131, R132). -/
def Leaf.ackFailure (l : Leaf) (c : Nat) : Leaf :=
  { l with b := l.b.bump K.fenceAckFailures,
           fen := { l.fen with failed := if c ∈ l.fen.failed then l.fen.failed else l.fen.failed ++ [c] } }

/-- FNC_ACK_CHANGE (R131, R410): the change is sampled; it completes a fence change, is a failure when it drops while
the core is fenced, or is spurious when it rises while the core is not and no change is pending. -/
def Leaf.ackChange (l : Leaf) (c : Nat) (v : Bool) : Leaf :=
  if l.fen.ack.testBit c = v then l
  else
    let l1 := { l with fen := { l.fen with ack := if v then setBit l.fen.ack c else clearBit l.fen.ack c } }
    let fenced := bit (l.b.num (coreKey c)) 0
    if l.coreOut c ∨ l.b.num K.powerStateNow = 2 then l1
    else if c ∈ l.fen.pending then
      if v = fenced then { l1 with fen := { l1.fen with pending := l1.fen.pending.filter (· ≠ c) } }
      else if fenced then l1.ackFailure c else l1
    else if fenced then (if v then l1 else l1.ackFailure c)
    else if v then { l1 with b := l1.b.bump K.spuriousAcks } else l1

/-- FENCE_ACK_TIMEOUT (R131): a pending change has not been followed in time. -/
def Leaf.ackTimeout (l : Leaf) (c : Nat) : Leaf :=
  if c ∈ l.fen.pending then
    let l1 := { l with fen := { l.fen with pending := l.fen.pending.filter (· ≠ c) } }
    if l.coreOut c ∨ l.b.num K.powerStateNow = 2 then l1 else l1.ackFailure c
  else l

/-! ### Lost cores (R132 to R134) -/

/-- The cores found lost at the close of `f` (R132). -/
def Leaf.findLost (l : Leaf) (f : Nat) : Leaf :=
  let n := l.b.num K.lostFrames
  let ids := (List.range 1024).filter (fun c => !l.fen.mark.testBit c &&
    (decide (n ≤ mget (fun _ => 0) l.smp.silent c) || l.fen.failed.contains c))
  let found := ids.map (fun c =>
    { core := c,
      silentFrom := if n ≤ mget (fun _ => 0) l.smp.silent c then some (f + 1 - n) else none,
      failFrame := if l.fen.failed.contains c then some f else none : LostCore })
  { l with fen := { l.fen with found := found, failed := [], mark := ids.foldl setBit l.fen.mark } }

/-- The bitmap of some cores as 128 bytes. -/
def coreBitmap (cs : List Nat) : List Byte := natLe 128 (cs.foldl setBit 0)

/-- The writes of an enforcing transaction (R133). -/
def lostWrites (cs : List Nat) : List Wr :=
  cs.map (fun c => (coreKey c, Val.num 0x07)) ++ [(K.routingNotify, .bytes (coreBitmap cs))]

/-- Commit one enforcing transaction for frame `a`, or keep it for a retry in the next frame (R133, R134). [DEDUCED, assumption 34] -/
def Leaf.commitLost (l : Leaf) (a : Nat) (cs : List Nat) : Leaf :=
  let r := l.b.raiseSelf (lostWrites cs) a
  if r.1 = stOk then { l with b := r.2 }
  else { l with fen := { l.fen with retry := l.fen.retry ++ [(l.b.now, a, cs)] } }

/-- Commit the enforcing transactions of one close: 255 cores each, in successive apply frames (R133, R134). -/
def Leaf.enforce (l : Leaf) : Leaf :=
  if l.b.num K.fenceAuthority ≠ 1 ∨ l.fen.committedFor = l.b.now then l
  else
    let l1 := { l with fen := { l.fen with committedFor := l.b.now } }
    ((pieces 255 (l.fen.found.map (·.core))).foldl (fun (acc : Leaf × Nat) cs =>
      (acc.1.commitLost acc.2 cs, acc.2 + 1)) (l1, l.b.now + 1)).1

/-- CORE_LOST (R132, R133): a core found lost at the last close is counted, reported by fault records and rule inputs,
and in enforcing authority fenced. [DEDUCED, assumption 34] -/
def Leaf.coreLost (l : Leaf) (c : Nat) : Leaf :=
  match l.fen.found.find? (fun x => x.core == c) with
  | none => l
  | some x =>
    let f := l.b.now - 1
    let l0 := l.enforce
    let l1 := { l0 with b := l0.b.bump K.coresLost,
                        fen := { l0.fen with found := l0.fen.found.filter (fun y => y.core != c) } }
    let l2 := match x.silentFrom with
      | some g => (l1.fault f 0x01 1 (locCore l.id c) g 0).ruleIn f 0x01 c (natLe 8 g)
      | none => l1
    match x.failFrame with
    | some g => (l2.fault f 0x02 1 (locCore l.id c) g 0).ruleIn f 0x02 c (natLe 8 g)
    | none => l2

/-- LOST_TXN_RETRY (R134): every refused commit of an earlier frame is tried again with an apply frame one later, and
the retry is counted. -/
def Leaf.retryLost (l : Leaf) : Leaf :=
  let due := l.fen.retry.filter (fun r => decide (r.1 < l.b.now))
  let l1 := { l with fen := { l.fen with retry := l.fen.retry.filter (fun r => !decide (r.1 < l.b.now)) } }
  due.foldl (fun acc r => ({ acc with b := acc.b.bump K.lostTxnRetries }).commitLost (r.2.1 + 1) r.2.2) l1

/-! ### Regions (R123 to R129) -/

/-- REGION_READING (R123): a reading of a mapped region is kept and joins the frame's values; in L2 readings are
ignored (Table 15.5). [DESIGN CHOICE, assumption 8] -/
def Leaf.regionReading (l : Leaf) (r kind v : Nat) : Leaf :=
  if l.b.num K.powerStateNow = 2 ∨ ¬ (l.b.bytes K.regionMap).any (fun x => x.toNat == r) then l
  else
    let key := 65536 + r * 4 + kind
    let seen := if l.b.frameIsOpen then mput l.smp.seen key (Seen.addF32 (mfind l.smp.seen key) (readingF32 kind v))
      else l.smp.seen
    { l with reg := { l.reg with readings := mput l.reg.readings (r * 4 + kind) v }, smp := { l.smp with seen := seen } }

/-- The reported power state of a region, if a reading has come. [DESIGN CHOICE, assumption 8] -/
def Leaf.powerReading (l : Leaf) (r : Nat) : Option Nat := (mfind l.reg.readings (r * 4 + 3)).map (· % 4)

/-- A region_control has been applied (R124, R125, R126, R129); a write of the value in force is no change and no later command: it starts
no new count. [DESIGN CHOICE, assumption 87] -/
def Leaf.regionWritten (l : Leaf) (r old new : Nat) : Leaf :=
  if old = new then l
  else
    let g := l.reg
    let settle := if bit new 3 then mdel g.settle r
      else if bit old 3 then mput g.settle r (l.b.now + l.b.num K.regionSettle + 1) else g.settle
    { l with reg := { g with pending := setBit g.pending r, mismatch := mdel g.mismatch r,
                             raised := clearBit g.raised r, settle := settle } }

/-- The close of a frame at the region port (R126, R129); a region of which no power state has been read yet counts as neither match nor
mismatch. [DEDUCED, assumption 32] [DESIGN CHOICE, assumption 8] -/
def Leaf.closeRegions (l : Leaf) : Leaf :=
  let judge := fun (acc : NMap Nat) r =>
    let cmd := l.b.regionCmd r
    let want := if bit cmd 3 then 2 else if bits cmd 0 3 = 0 then 0 else 1
    match l.powerReading r with
    | none => acc
    | some 3 => acc
    | some s => if s = want then mdel acc r else mput acc r (mget (fun _ => 0) acc r + 1)
  { l with reg := { l.reg with
      mismatch := (List.range 32).foldl judge l.reg.mismatch,
      closeOn := (List.range 32).foldl (fun acc r =>
        if l.powerReading r = some 0 ∨ l.powerReading r = some 1 then setBit acc r else acc) 0 } }

/-- REGION_MISMATCH (R126): the count of the command in force exceeds 0x0E00:12; counted and raised once. [DEDUCED, assumption 32] -/
def Leaf.regionMismatch (l : Leaf) (r : Nat) : Leaf :=
  if l.b.num K.regionSettle < mget (fun _ => 0) l.reg.mismatch r ∧ l.reg.raised.testBit r = false then
    ({ l with b := l.b.bump K.regionMismatches,
              reg := { l.reg with raised := setBit l.reg.raised r } }).ruleIn (l.b.now - 1) 0x04 r []
  else l

/-- REGION_SETTLE_END (R129): the settle time has passed and the region reported on or throttled at the last close. Its cores were dark
last in the frame before (R122). -/
def Leaf.settleEnd (l : Leaf) (r : Nat) : Leaf :=
  match mfind l.reg.settle r with
  | none => l
  | some e =>
    if e ≤ l.b.now + 1 ∧ l.reg.closeOn.testBit r then
      let cores := maskOf (fun x => decide (x.toNat = r)) (l.b.bytes K.regionMap)
      let l1 := ({ l with reg := { l.reg with settle := mdel l.reg.settle r },
                          fen := { l.fen with mark := andNot l.fen.mark cores } }).judgeCores
      { l1 with smp := { l1.smp with
          lastDark := (onesOf 1024 (andNot cores l1.smp.dark)).foldl (fun m c => mput m c l.b.now) l1.smp.lastDark } }
    else l

/-- The next pending region above `last`, wrapping (R125). -/
def nextRegion (pending last : Nat) : Option Nat :=
  ((List.range 32).map (fun i => (last + 1 + i) % 32)).find? (fun r => pending.testBit r)

/-- REGION_REQUEST_PRESENT (R125, R411): the mark is cleared and the command in force is driven. -/
def Leaf.presentRegion (l : Leaf) : Leaf :=
  match l.reg.presented, nextRegion l.reg.pending l.reg.lastPresented with
  | none, some r =>
    let cmd := l.b.regionCmd r
    { l with reg := { l.reg with pending := clearBit l.reg.pending r, presented := some r, lastPresented := r },
             b := l.b.emit (.region r (bit cmd 3) (bits cmd 0 3)) }
  | _, _ => l

/-- REGION_REQ_ACK (R411): the request ends. -/
def Leaf.regionAck (l : Leaf) : Leaf := { l with reg := { l.reg with presented := none } }

/-- REGION_REQ_TIMEOUT (R124): the request ends unacknowledged, is counted and raises region_unacked. -/
def Leaf.regionTimeout (l : Leaf) : Leaf :=
  match l.reg.presented with
  | none => l
  | some r =>
    ({ l with reg := { l.reg with presented := none }, b := l.b.bump K.regionUnacked }).ruleIn l.b.now 0x03 r []

/-- ROUTING_NOTIFY (R134): the bitmap goes to the subscriber through the serving channel's egress, unless it is empty or
no subscriber is set. -/
def Leaf.routingNotify (l : Leaf) (bitmap : List Byte) : Leaf :=
  if leNat bitmap = 0 ∨ l.b.num K.routingSubscriber = 0xFFFF then l
  else { l with notices := l.notices ++ [bitmap] }

end Sys2Proof.Machine
end

