-- ==== Sys2Proof/Machine/Touchstone.lean ====
section
/-! DEFINITION. Touchstone checksum verification (R142 to R158). -/

namespace Sys2Proof.Machine

/-! ### Settings and the table -/

/-- The settings in force (R156). -/
def Blk.tsSet (b : Blk) : TsSet :=
  { fixed := b.num K.toleranceMode == 1, fixedT := b.num K.toleranceFixed, floor := b.num K.toleranceFloor,
    ceiling := b.num K.toleranceCeiling, learn := b.num K.learnEntries, margin := b.num K.marginSixteenths,
    disabled := b.num K.sampleRatio == 0 }

/-- The tolerance entry of core c. -/
def Touch.entry (t : Touch) (c : Nat) : Tol := mget (fun _ => Tol.fresh) t.table c

/-- Give core c an entry. -/
def Touch.setEntry (t : Touch) (c : Nat) (e : Tol) : Touch := { t with table := mset (fun _ => Tol.fresh) t.table c e }

/-- The threshold in force for a core's entry (R146). -/
def TsSet.threshold (s : TsSet) (e : Tol) : Nat := if s.fixed then s.fixedT else if e.learned then e.t else s.ceiling

/-- A tolerance table entry as read (Table 5.9). -/
def TsSet.entryBytes (s : TsSet) (e : Tol) : List Byte :=
  natLe 8 ((if e.learned then e.t else s.ceiling) * 2 ^ 48 + min e.p 65535 * 2 ^ 32 + (if e.learned then 2 ^ 30 else 0) +
    min e.n (2 ^ 30 - 1))

/-- The table 0x0A00:20 as read. -/
def Touch.tableBytes (t : Touch) : List Byte := (List.range 1024).flatMap (fun c => t.set.entryBytes (t.entry c))

/-- Cores below `n` that have learned (0x0A00:19). -/
def Touch.learned (t : Touch) (n : Nat) : Nat := (t.table.filter (fun e => decide (e.1 < n) && e.2.learned)).length

/-- Change what is gathered for frame `f`. -/
def Touch.onFrame (t : Touch) (f : Nat) (g : TsFrame → TsFrame) : Touch :=
  { t with frames := t.frames.map (fun x => if x.frame = f then g x else x) }

/-- The first item later than frame `f` is decided: the cores learning at the close of earlier frames are noted
(Table 5.5), of those below the core_count of each frame. -/
def Touch.noteLearning (t : Touch) (f : Nat) : Touch :=
  { t with frames := t.frames.map (fun x =>
      if x.frame < f ∧ x.learning = none then { x with learning := some (x.cores - t.learned x.cores) } else x) }

/-! ### Selection (R143) -/

/-- A checksum beat at the port (R143, R151). -/
def Leaf.takeChecksum (l : Leaf) (d off : Nat) : Leaf :=
  let c := beatCore d
  let l1 := { l with b := l.b.bump K.beatsReceived }
  let n := l.b.num K.sampleRatio
  if l.smp.dark.testBit c then { l1 with b := l1.b.bump K.beatsSkippedDark }
  else if n = 0 then l1
  else
    let sel := mget (fun c => c % l.ts.base) l.ts.sel c
    let ts1 := { l1.ts with sel := mset (fun c => c % l.ts.base) l1.ts.sel c ((sel + 1) % n) }
    if sel ≠ 0 then { l1 with ts := ts1 }
    else
      let l2 := { l1 with ts := ts1, b := l1.b.bump K.beatsSelected }
      let held := (ts1.queue.filter (fun i => match i with | .beat _ _ _ _ => true | .mark _ _ _ => false)).length
      if 512 ≤ held then
        { l2 with b := (l2.b.bump K.beatsUnchecked).declareShort l.b.now causeTouchstone,
                  ts := ts1.onFrame l.b.now (fun x => { x with unchecked := x.unchecked + 1 }) }
      else
        { l2 with ts := { ts1 with
            queue := ts1.queue ++ [.beat l.b.now (off % 2 ^ 20) d (bit (l.b.num (coreKey c)) 0)] } }

/-- sample_ratio takes effect: above 0 it resets every selection count to c mod N (R143, R144). -/
def Leaf.setRatio (l : Leaf) (n : Nat) : Leaf :=
  { l with b := (l.b.setNum K.sampleRatio n).setNum K.configWarning (if n = 0 then 1 else 0),
           ts := if n = 0 then l.ts else { l.ts with sel := [], base := n } }

/-! ### Decision (R145 to R149) -/

/-- Residual k, read with −2^25 as its magnitude allows. -/
def tsResidual (d k : Nat) : Int := signed 26 (bits d (422 - 26 * k) 26)

/-- Class k. -/
def tsClass (d k : Nat) : Nat := bits d (30 - 2 * k) 2

/-- The exponent field of entry k's dimension. -/
def tsExp (d k : Nat) : Nat := if k < 8 then bits d 488 8 else bits d 480 8

/-- The beat is in format 1. -/
def tsFormat (d : Nat) : Bool := bit d 479

/-- The beat is malformed (Table 5.3, first row). -/
def tsMalformed (d : Nat) : Bool :=
  tsFormat d && (decide (bits d 488 8 ≠ 0) || decide (bits d 480 8 ≠ 0) ||
    (List.range 16).any (fun k => decide (tsClass d k ≠ 0)))

/-- Outcome of an entry: 0 match, 1 mismatch, 2 non-finite (Table 5.3). -/
def tsOutcome (d thr k : Nat) : Nat :=
  let f1 := tsFormat d
  let r := (tsResidual d k).natAbs
  if !f1 && tsExp d k == 255 then 2
  else if tsClass d k ≠ 0 then 2
  else if f1 && r != 0 then 1
  else if !f1 && tsExp d k == 0 && r != 0 then 1
  else if !f1 && decide (thr < r) then 1
  else 0

/-- Row and column mask of the entries with outcome `o` (R149). -/
def tsMasks (d thr o : Nat) : Nat × Nat :=
  let m := (List.range 16).foldl (fun acc k => if tsOutcome d thr k = o then setBit acc k else acc) 0
  (m % 256, m / 256)

/-- An event record (Table 5.6). -/
def tsEvent (kind d thr off core : Nat) (learning : Bool) (masks : Nat × Nat) (peak : Nat) : Nat :=
  let big := 2 ^ 25 - 1
  kind * 2 ^ 124 + (if tsFormat d then 2 ^ 123 else 0) + (if kind = 1 ∧ big ≤ peak then 2 ^ 122 else 0) +
    (if learning then 2 ^ 121 else 0) + core * 2 ^ 110 + masks.1 * 2 ^ 102 + masks.2 * 2 ^ 94 + off * 2 ^ 74 +
    min peak big * 2 ^ 49 + (if tsFormat d then 0 else thr) * 2 ^ 33 + bits d 448 31

/-- The learning of a core's entry from a format 0 beat without a non-finite entry (Table 5.4). -/
def Tol.learn (e : Tol) (s : TsSet) (mismatch : Bool) (peak : Nat) : Tol :=
  if e.learned then e
  else if mismatch then { e with p := 0, n := 0 }
  else
    let p := min (max e.p peak) 65535
    let n := min (e.n + 16) (2 ^ 30 - 1)
    if s.learn ≤ n then
      { learned := true, t := min (max ((p * s.margin + 15) / 16) s.floor) s.ceiling, p := p, n := n }
    else { e with p := p, n := n }

/-- Put events into the record of a frame, keeping the first 256 (R153). -/
def TsFrame.addEvent (x : TsFrame) (e : Nat) : TsFrame :=
  { x with events := if x.events.length < 256 then x.events ++ [e] else x.events, eventCount := x.eventCount + 1 }

/-- What a decided beat adds to its frame (R149, R153, R154). -/
def TsFrame.addBeat (x : TsFrame) (d off core thr : Nat) (learning : Bool) : TsFrame :=
  let mis := tsMasks d thr 1
  let non := tsMasks d thr 2
  let peak := (List.range 16).foldl (fun acc k =>
    if tsOutcome d thr k = 1 then max acc (tsResidual d k).natAbs else acc) 0
  let x1 := { x with compared := x.compared + 16 }
  let x2 := if mis = (0, 0) then x1
    else { x1.addEvent (tsEvent 1 d thr off core learning mis peak) with
           mismatches := x1.mismatches + 1, mapMis := setBit x1.mapMis core,
           firsts := if x1.firsts.any (fun f => f.1 == core) then x1.firsts
             else x1.firsts ++ [(core, mis.1, mis.2, bits d 448 31)] }
  if non = (0, 0) then x2
  else { x2.addEvent (tsEvent 2 d thr off core learning non 0) with
         nonfinites := x2.nonfinites + 1, mapNon := setBit x2.mapNon core }

/-- One selected beat is decided (R145 to R149). -/
def Leaf.decideBeat (l : Leaf) (f off d : Nat) (fenced : Bool) : Leaf :=
  let ts := l.ts.noteLearning f
  if tsMalformed d then
    { l with b := (l.b.bump K.malformedBeats).bump K.beatsUnchecked,
             ts := ts.onFrame f (fun x => { x with unchecked := x.unchecked + 1 }) }
  else
    let c := beatCore d
    let e := ts.entry c
    let thr := ts.set.threshold e
    let mis := tsMasks d thr 1 != (0, 0)
    let non := tsMasks d thr 2 != (0, 0)
    let peak := (List.range 16).foldl (fun acc k => max acc (tsResidual d k).natAbs) 0
    let ts1 := if tsFormat d || non || fenced || ts.set.fixed || ts.set.disabled then ts
      else ts.setEntry c (e.learn ts.set mis peak)
    let b1 := l.b.bump K.entriesCompared 16
    let b2 := if mis then b1.bump K.mismatchBeats else b1
    { l with b := if non then b2.bump K.nonfiniteBeats else b2,
             ts := ts1.onFrame f (fun x => x.addBeat d off c thr (!e.learned)) }

/-- A marker is reached: the new settings hold from here on, learned thresholds are clamped into a new range and the
named cores relearn (R147, R148, R156). -/
def Leaf.reachMark (l : Leaf) (f : Nat) (s : TsSet) (relearn : Nat) : Leaf :=
  let ts := l.ts.noteLearning f
  let clamp := fun (e : Tol) => if e.learned then { e with t := min (max e.t s.floor) s.ceiling } else e
  let tbl := if s.floor ≠ ts.set.floor ∨ s.ceiling ≠ ts.set.ceiling then ts.table.map (fun p => (p.1, clamp p.2)) else ts.table
  { l with ts := { ts with set := s, table := tbl.filter (fun p => !relearn.testBit p.1) } }

/-- Decide the item at the head of the queue. -/
def Leaf.decideOne (l : Leaf) : Leaf :=
  match l.ts.queue with
  | [] => l
  | .beat f off d fenced :: q => ({ l with ts := { l.ts with queue := q } }).decideBeat f off d fenced
  | .mark f s r :: q => ({ l with ts := { l.ts with queue := q } }).reachMark f s r

/-- Markers at the head of the queue take effect at once. [DEDUCED, assumption 74] -/
def Leaf.passMarks : Nat → Leaf → Leaf
  | 0, l => l
  | n + 1, l => match l.ts.queue with
    | .mark _ _ _ :: _ => Leaf.passMarks n l.decideOne
    | _ => l

/-- TS_BEAT_DECIDE (R145): the oldest queued beat is decided, and the markers around it take effect. -/
def Leaf.decideNext (l : Leaf) : Leaf :=
  let l1 := Leaf.passMarks l.ts.queue.length l
  let l2 := l1.decideOne
  Leaf.passMarks l2.ts.queue.length l2

/-- A marker joins the queue behind the beats accepted so far (R156). [DEDUCED, assumption 74] -/
def Leaf.addMark (l : Leaf) (s : TsSet) (relearn : Nat) : Leaf :=
  let l1 := { l with ts := { l.ts with queue := l.ts.queue ++ [.mark l.b.now s relearn], tail := s } }
  Leaf.passMarks l1.ts.queue.length l1

/-- RELEARN (R147, R157): the named cores below core_count return to learning. -/
def Leaf.relearn (l : Leaf) (bitmap : List Byte) : Leaf :=
  let r := leNat bitmap % 2 ^ l.b.num K.coreCount
  if r = 0 then l else l.addMark l.ts.tail r

/-- A write of relearn: at a boundary it takes effect together with the settings that change there (R156). -/
def Leaf.relearnAct (l : Leaf) (bitmap : List Byte) : Leaf :=
  if l.b.applying then { l with ts := { l.ts with relearn := l.ts.relearn ||| leNat bitmap } } else l.relearn bitmap

/-- What is gathered for a frame that begins under the settings in force (R153). -/
def Blk.tsFrame (b : Blk) (k : Nat) : TsFrame :=
  { frame := k, disabled := b.tsSet.disabled, fixed := b.tsSet.fixed, cores := b.num K.coreCount, room := b.num K.eventsMax,
    compared := 0, unchecked := 0, mismatches := 0, nonfinites := 0, events := [], eventCount := 0, mapMis := 0, mapNon := 0, firsts := [],
    learning := none }

/-- The frame that opens: one marker when a setting changed or cores relearn, and a record for the frame (R153, R156). -/
def Leaf.openTouch (l : Leaf) (k : Nat) : Leaf :=
  let s := l.b.tsSet
  let r := l.ts.relearn % 2 ^ l.b.num K.coreCount
  let l0 := { l with ts := { l.ts with relearn := 0 } }
  let l1 := if s = l.ts.tail ∧ r = 0 then l0 else l0.addMark s r
  { l1 with ts := { l1.ts with frames := l1.ts.frames ++ [l1.b.tsFrame k] } }

/-! ### The section (R152 to R154) -/

/-- Decide the beats of frame `f` and earlier that are still queued (R152). -/
def Leaf.decideThrough (f : Nat) : Nat → Leaf → Leaf
  | 0, l => l
  | n + 1, l =>
    if l.ts.queue.any (fun i => match i with | .beat g _ _ _ => decide (g ≤ f) | .mark _ _ _ => false) then
      Leaf.decideThrough f n l.decideOne
    else l

/-- The summary record (Table 5.5). -/
def TsFrame.summary (x : TsFrame) (sent : Nat) (learning : Nat) : Nat :=
  let cap := fun w n => min n (2 ^ w - 1)
  cap 32 x.compared * 2 ^ 96 + cap 24 x.unchecked * 2 ^ 72 + cap 20 x.mismatches * 2 ^ 52 + cap 20 x.nonfinites * 2 ^ 32 +
    sent * 2 ^ 23 + (if sent < x.eventCount then 2 ^ 22 else 0) + (if x.disabled then 2 ^ 21 else 0) +
    (if x.fixed then 2 ^ 20 else 0) + learning * 2 ^ 9

/-- The touchstone section of a frame, with `sent` events (R153). -/
def TsFrame.section_ (x : TsFrame) (sent learning : Nat) : List Byte :=
  natLe 16 (x.summary sent learning) ++ (x.events.take sent).flatMap (natLe 16) ++
    (if sent < x.eventCount then natLe 128 (x.mapMis ||| x.mapNon) else [])

/-- The rule inputs and fault records of a frame (R144, R154). -/
def Leaf.touchReports (l : Leaf) (x : TsFrame) : Leaf :=
  let l1 := if x.mapMis = 0 then l else l.ruleIn x.frame 0x05 0 (natLe 128 x.mapMis)
  let l2 := if x.mapNon = 0 then l1 else l1.ruleIn x.frame 0x06 0 (natLe 128 x.mapNon)
  let l3 := if x.unchecked = 0 then l2 else l2.ruleIn x.frame 0x07 (x.unchecked % 2 ^ 32) []
  let l4 := if x.disabled then l3.ruleIn x.frame 0x08 0 [] else l3
  x.firsts.foldl (fun acc m =>
    acc.fault x.frame 0x03 1 (locCore l.id m.1) x.frame (m.2.1 * 2 ^ 88 + m.2.2.1 * 2 ^ 80 + m.2.2.2)) l4

/-- Take the touchstone section of frame `f` out of the unit, with its reports queued (R152 to R154). -/
def Leaf.sealTouch (l : Leaf) (f : Nat) : List Byte × Leaf :=
  let l0 := Leaf.decideThrough f l.ts.queue.length l
  match l0.ts.frames.find? (fun x => x.frame == f) with
  | none => ([], l0)
  | some x =>
    let sent := min x.eventCount x.room
    let learning := x.learning.getD (x.cores - l0.ts.learned x.cores)
    let l1 := { l0 with ts := { l0.ts with frames := l0.ts.frames.filter (fun y => decide (f < y.frame)) } }
    let l2 := if sent < x.eventCount then { l1 with b := l1.b.bump K.eventsDropped (x.eventCount - sent) } else l1
    (x.section_ sent learning, l2.touchReports x)

/-- UNIT_OVERRUN of touchstone (Table 2.3): the last `left` queued beats of frame `f` are not compared. -/
def Leaf.overrunTouch (l : Leaf) (f left : Nat) : Leaf :=
  let isF := fun (i : TsItem) => match i with | .beat g _ _ _ => decide (g = f) | .mark _ _ _ => false
  let n := (l.ts.queue.filter isF).length
  let drop := min left n
  let q := (l.ts.queue.foldr (fun i (acc : List TsItem × Nat) =>
    if isF i = true ∧ acc.2 < drop then (acc.1, acc.2 + 1) else (i :: acc.1, acc.2)) ([], 0)).1
  let b1 := if drop = 0 then l.b else l.b.bump K.beatsUnchecked drop
  { l with b := b1.declareShort f causeTouchstone,
           ts := ({ l.ts with queue := q }).onFrame f (fun x => { x with unchecked := x.unchecked + drop }) }

end Sys2Proof.Machine
end

