-- ==== Sys2Proof/Machine/AssayLeaf.lean ====
section
/-! DEFINITION. Assay in the leaf build: the weight tap port, digests in GF(2^61 − 1), passes and epochs (R159 to
R167). -/

namespace Sys2Proof.Machine

/-- The modulus p = 2^61 − 1 (R161). -/
abbrev gfP : Nat := 2 ^ 61 - 1

/-- A tensor table entry (Table 6.3). -/
structure TensorEntry where
  key : Nat
  length : Nat
  passWords : Nat
  tensor : Nat
  group : Nat
  replica : Nat
  side : Bool
  contributes : Bool
  deriving DecidableEq, Repr

/-- The entry that 32 bytes hold. -/
def tensorEntry (n : Nat) : TensorEntry :=
  { key := bits n 192 61, length := bits n 160 32, passWords := bits n 128 32, tensor := bits n 108 20,
    group := bits n 100 8, replica := bits n 96 4, side := bit n 95, contributes := bit n 94 }

/-- The entries of a table. -/
def tensorTable (t : List Byte) : List TensorEntry := (pieces 32 t).map (fun p => tensorEntry (leNat p))

/-- Every field of an entry lies inside Table 6.3; reserved bits are not judged (R8). -/
def tensorEntryOk (n : Nat) : Bool :=
  let e := tensorEntry n
  decide (2 ≤ e.key) && decide (e.key ≤ 2 ^ 61 - 3) &&
    decide (1 ≤ e.length) && decide (1 ≤ e.passWords) && decide (e.passWords ≤ e.length) && decide (e.group ≤ 254)

/-- No value occurs twice. -/
def noRepeat : List Nat → Bool
  | [] => true
  | x :: xs => !xs.contains x && noRepeat xs

/-- The checks of R166 on a standby tensor table. -/
def tensorTableOk (t : List Byte) : Bool :=
  let ns := (pieces 32 t).map leNat
  decide (t.length % 32 = 0) && decide (ns.length ≤ 4096) && ns.all tensorEntryOk &&
    noRepeat (ns.map (fun n => (tensorEntry n).tensor))

/-- b^e mod p, by the binary digits of e from the lowest, `fuel` of them. -/
def gfPow : Nat → Nat → Nat → Nat
  | 0, _, _ => 1
  | fuel + 1, b, e =>
    let r := gfPow fuel (b * b % gfP) (e / 2)
    if e % 2 = 1 then r * b % gfP else r

/-- The digest of words from position i on (R161). -/
def digestFrom (key : Nat) : Nat → List Nat → Nat
  | _, [] => 0
  | i, w :: ws => ((w + 1) * gfPow 34 key (i + 1) + digestFrom key (i + 1) ws) % gfP

/-- The state of a tensor. -/
def Assay.tensor (a : Assay) (id : Nat) : Tensor := mget (fun _ => Tensor.lateState) a.tensors id

/-- Give a tensor a state. -/
def Assay.setTensor (a : Assay) (id : Nat) (t : Tensor) : Assay :=
  { a with tensors := mset (fun _ => Tensor.lateState) a.tensors id t }

/-- The entry of a tensor in the active table. -/
def Blk.tensorOf (b : Blk) (id : Nat) : Option TensorEntry :=
  (tensorTable (b.bytes K.tensorTableActive)).find? (fun e => e.tensor == id)

/-- The open pass of a tensor of the table is marked damaged (R160, R163). -/
def Leaf.damage (l : Leaf) (id : Nat) : Leaf :=
  let t := l.asy.tensor id
  if (l.b.tensorOf id).isNone ∨ t.late then l
  else { l with asy := l.asy.setTensor id { t with damaged := true } }

/-- WEIGHT_TAP_BEAT (R159, R163, R445): a beat enters the snoop buffer; one that finds it full is lost. -/
def Leaf.weightBeat (l : Leaf) (data tensor word count epoch : Nat) : Leaf :=
  if !l.b.frameIsOpen || count == 0 || l.b.num K.powerStateNow == 2 then l
  else if 256 ≤ l.asy.snoop.length then ({ l with b := l.b.bump K.beatsOverflowed }).damage tensor
  else
    let w : WBeat :=
      { frame := l.b.now, data := data, tensor := tensor, word := word, count := count, epoch := epoch }
    { l with asy := { l.asy with snoop := l.asy.snoop ++ [w] } }

/-- An assay record (Table 6.2) of one pass. -/
def assayRec (e : TensorEntry) (v n epoch : Nat) (damaged incomplete : Bool) : Nat :=
  v * 2 ^ 192 + n * 2 ^ 128 + e.tensor * 2 ^ 108 + e.group * 2 ^ 100 + e.replica * 2 ^ 96 +
    (if e.side then 2 ^ 95 else 0) + (if damaged then 2 ^ 94 else 0) + (if incomplete then 2 ^ 93 else 0) +
    epoch * 2 ^ 77 + 2 ^ 61

/-- A pass becomes the digest point (R164, R165): a record is entered when the entry contributes. -/
def Leaf.enterPass (l : Leaf) (e : TensorEntry) (f : Nat) (t : Tensor) (incomplete : Bool) : Leaf :=
  let b1 := if t.damaged then l.b.bump K.passesDamaged else l.b
  if e.contributes then
    { l with b := b1.bump K.passesReported,
             asy := { l.asy with records := l.asy.records ++ [(f, assayRec e t.v t.n t.epoch t.damaged incomplete)] } }
  else { l with b := b1 }

/-- A completed pass (R165): the digest point of its epoch, or a repeat that is compared with it. -/
def Leaf.passDone (l : Leaf) (e : TensorEntry) (f : Nat) : Leaf :=
  let t := l.asy.tensor e.tensor
  let fresh := { t with v := 0, n := 0, damaged := false }
  match t.point with
  | none =>
    let l1 := l.enterPass e f t false
    { l1 with asy := l1.asy.setTensor e.tensor { fresh with point := some (t.v, !t.damaged) } }
  | some (v, ok) =>
    let l1 := { l with asy := l.asy.setTensor e.tensor fresh,
                       b := if t.damaged then l.b.bump K.passesDamaged else l.b }
    if t.damaged ∨ ok = false ∨ v = t.v then l1
    else
      (({ l1 with b := l1.b.bump K.repeatDiffers }).ruleIn f 0x09 e.tensor (natLe 8 t.epoch)).fault f 0x04 2
        (locLeaf l.id) f (t.epoch * 2 ^ 32 + e.tensor)

/-- Words are accumulated; a pass that reaches pass_words completes, and the rest start the next (R165). `fuel` bounds
the passes that one beat can complete. -/
def Leaf.accumulate (e : TensorEntry) (f : Nat) : Nat → Leaf → Nat → List Nat → Leaf
  | 0, l, _, _ => l
  | fuel + 1, l, i, ws =>
    if ws.isEmpty then l
    else
      let t := l.asy.tensor e.tensor
      let room := e.passWords - t.n
      let now := ws.take room
      let t1 := { t with v := (t.v + digestFrom e.key i now) % gfP, n := t.n + now.length }
      let l1 := { l with asy := l.asy.setTensor e.tensor t1 }
      if t1.n < e.passWords then l1
      else Leaf.accumulate e f fuel (l1.passDone e f) (i + now.length) (ws.drop room)

/-- A newer epoch: the open pass closes and a fresh one starts (R164). -/
def Leaf.newEpoch (l : Leaf) (e : TensorEntry) (f epoch : Nat) : Leaf :=
  let t := l.asy.tensor e.tensor
  let l1 := if 0 < t.n then
      (if t.point.isNone then l.enterPass e f t true
       else if t.damaged then { l with b := l.b.bump K.passesDamaged } else l)
    else l
  let fresh : Tensor :=
    { late := false, first := none, epoch := epoch, v := 0, n := 0, damaged := false, point := none }
  { l1 with asy := l1.asy.setTensor e.tensor fresh }

/-- The words that a beat carries. -/
def WBeat.words (w : WBeat) : List Nat := (List.range w.count).map (fun j => bits w.data (32 * j) 32)

/-- How far an epoch lies ahead of another, modulo 2^16 (R164). -/
def epochAhead (x e : Nat) : Nat := (x + 65536 - e) % 65536

/-- A beat leaves the snoop buffer: it is dropped and counted, or its words are digested (R160 to R167). -/
def Leaf.digestBeat (l : Leaf) (w : WBeat) : Leaf :=
  match l.b.tensorOf w.tensor with
  | none => { l with b := l.b.bump K.beatsUnknownTensor }
  | some e =>
    if e.length < w.word + w.count ∨ 32 < w.count then
      ({ l with b := l.b.bump K.beatsOutOfRange }).damage w.tensor
    else
      let t := l.asy.tensor w.tensor
      if t.late then
        match t.first with
        | none => { l with asy := l.asy.setTensor w.tensor { t with first := some w.epoch } }
        | some x =>
          let a := epochAhead w.epoch x
          if 1 ≤ a ∧ a ≤ 32767 then
            Leaf.accumulate e w.frame 33 (l.newEpoch e w.frame w.epoch) w.word w.words
          else l
      else
        let a := epochAhead w.epoch t.epoch
        if 32768 ≤ a then { l with b := l.b.bump K.beatsStaleEpoch }
        else if a = 0 then Leaf.accumulate e w.frame 33 l w.word w.words
        else Leaf.accumulate e w.frame 33 (l.newEpoch e w.frame w.epoch) w.word w.words

/-- ASSAY_BEAT_DIGEST (R161): the oldest beat of the snoop buffer. -/
def Leaf.digestNext (l : Leaf) : Leaf :=
  match l.asy.snoop with
  | [] => l
  | w :: ws => ({ l with asy := { l.asy with snoop := ws } }).digestBeat w

/-- tensor_swap takes effect: unchanged entries keep their state, the others enter the late state (R166). -/
def Leaf.swapTensors (l : Leaf) : Leaf :=
  let t := l.b.bytes K.tensorTableStandby
  let old := tensorTable (l.b.bytes K.tensorTableActive)
  let same := (tensorTable t).filter (fun e => old.any (fun o =>
    o.tensor == e.tensor && o.key == e.key && o.length == e.length && o.passWords == e.passWords))
  { l with b := ((l.b.setBytes K.tensorTableActive t).setNum K.tensorCount (t.length / 32)).setBool K.tensorSwap false,
           asy := { l.asy with tensors := l.asy.tensors.filter (fun p => same.any (fun e => e.tensor == p.1)) } }

/-- Every tensor enters the late state (R167). -/
def Leaf.allLate (l : Leaf) : Leaf := { l with asy := { l.asy with tensors := [] } }

/-- The assay records of the packet of `f`: the oldest that were entered by then, at most 0x0B00:09; a frame that leaves
some waiting is counted. -/
def Leaf.takeAssay (l : Leaf) (f : Nat) : List Nat × Leaf :=
  let ready := l.asy.records.filter (fun r => decide (r.1 ≤ f))
  let rest := l.asy.records.filter (fun r => !decide (r.1 ≤ f))
  let n := l.b.num K.recordsMax
  let l1 := { l with asy := { l.asy with records := ready.drop n ++ rest } }
  ((ready.take n).map (·.2), if ready.length ≤ n then l1 else { l1 with b := l1.b.bump K.recordWaitFrames })

end Sys2Proof.Machine
end

