-- ==== Sys2Proof/Machine/Time.lean ====
section
/-! DEFINITION. The time unit (chapter Frames and Time): the two servos, the comparison of masters, the exchange of
stamps, steps and slews, guard lock, the switch of domain and holdover. A correction of the active domain that skips a
boundary is answered as the frame that opens at the step instant; the frame sequencer opens it. -/

namespace Sys2Proof.Machine

/-! ### Local time -/

/-- Phase slewed out while `e` ns pass: the servo after it and the signed amount (R48). [DEDUCED, assumption 13] [DEDUCED, assumption 15] -/
def Servo.drain (s : Servo) (limit e : Nat) : Servo × Int :=
  if s.slew = 0 then ({ s with slewRest := 0 }, 0)
  else
    let q := s.slewRest + e * limit
    let k := min (q / 1000000000) s.slew.natAbs
    let d : Int := if s.slew < 0 then -(k : Int) else k
    ({ s with slew := s.slew - d, slewRest := q % 1000000000, corr := s.corr + d, down := s.down.map (· + d) }, d)

/-- The remainder of a switch slewed while `e` ns pass (R55). [DEDUCED, assumption 15] -/
def Blk.drainRemain (b : Blk) (e : Nat) : Blk :=
  if b.remain = 0 then { b with remainRest := 0 }
  else
    let q := b.remainRest + e * b.num K.slewLimitPpb
    let k := min (q / 1000000000) b.remain.natAbs
    let d : Int := if b.remain < 0 then -(k : Int) else k
    { b with remain := b.remain - d, remainRest := q % 1000000000 }

/-- Local time of domain `d` has reached `x` ns: both domains advance by the time that passed, slews are drained, and
the time in holdover counts (R48, R55, R57). An instant that lies in the past moves nothing. -/
def Blk.advance (b : Blk) (d : Dom) (x : Nat) : Blk :=
  let e := x - b.time d
  let lim := b.num K.slewLimitPpb
  let r1 := (b.servo d).drain lim e
  let r2 := (b.servo (domOther d)).drain lim e
  let b1 := ((b.setServo d r1.1).setServo (domOther d) r2.1).setTime d (b.time d + e)
  let b2 := (b1.setTime (domOther d) ((b.time (domOther d) : Int) + e - r1.2 + r2.2).toNat).drainRemain e
  if b2.servoState b2.activeDom = svHoldover then
    let h := b2.holdNs + e
    ({ b2 with holdNs := h }.setNum K.holdoverElapsedMs (min (h / 1000000) (2 ^ 32 - 1))).judgeAlignment
  else b2

/-- Frame time has reached `t` ns. -/
def Blk.advanceFrame (b : Blk) (t : Nat) : Blk := b.advance b.activeDom ((t : Int) - b.remain).toNat

/-! ### Servo states (Table 2.5) -/

/-- Enter a servo state, and bring alignment_assured up to date. -/
def Blk.setServoState (b : Blk) (d : Dom) (st : Nat) : Blk := (b.setNum (servoKey d) st).judgeAlignment

/-- To acquiring: the count restarts and slewing ends. -/
def Blk.toAcquiring (b : Blk) (d : Dom) : Blk :=
  let s := b.servo d
  let b1 := b.setServo d { s with good := 0, refusals := 0, guardLock := false, timedOut := false, slew := 0 }
  let b2 := match d with | .a => { b1 with knownA := true } | .b => { b1 with knownB := true }
  b2.setServoState d svAcquiring

/-- To holdover, by a timeout or a guard lock. -/
def Blk.toHoldover (b : Blk) (d : Dom) (guard : Bool) : Blk :=
  let s := b.servo d
  (b.setServo d { s with good := 0, guardLock := guard, timedOut := !guard, slew := 0 }).setServoState d svHoldover

/-- To free-run. -/
def Blk.toFree (b : Blk) (d : Dom) : Blk :=
  let s := b.servo d
  (b.setServo d { s with good := 0, slew := 0 }).setServoState d svFree

/-- To locked; the sequencer may open frames once the active domain's servo has locked (R47). -/
def Blk.toLocked (b : Blk) (d : Dom) : Blk :=
  let s := b.servo d
  let b1 := b.setServo d { s with good := 0, refusals := 0, guardLock := false, timedOut := false, everLocked := true }
  let b2 := if d = b.activeDom then { b1 with needLock := false, holdNs := 0 } else b1
  b2.setServoState d svLocked

/-- The magnitude of time A − time B (R54, R56). -/
def Blk.domainGap (b : Blk) : Nat := ((b.timeA : Int) - b.timeB).natAbs

/-- The key of the grandmaster identity of a domain. -/
def gmKey : Dom → Nat
  | .a => K.gmIdentityA
  | .b => K.gmIdentityB

/-- Domain A is lost in dual mode (R54): the switch to B is committed for the next frame and counted when B is locked
and close and the grandmasters differ (R56); otherwise irq_err. The answer tells whether it was committed. -/
def Blk.dualTrigger (b : Blk) : Bool × Blk :=
  let ok := b.servoState .b == svLocked && decide (b.domainGap ≤ b.num K.dualSwitchLimitNs) &&
    decide (b.num K.gmIdentityA ≠ b.num K.gmIdentityB)
  if ok then
    let r := b.raiseSelf [(K.activeDomain, .num 1)] (b.now + 1)
    if r.1 = stOk then (true, r.2.bump K.switchCount) else (false, b.raiseErr irqTime)
  else (false, b.raiseErr irqTime)

/-- The trigger of R54 applies to domain `d`: dual mode is set and A is active and is the domain. -/
def Blk.dualApplies (b : Blk) (d : Dom) : Bool :=
  decide (d = .a) && b.activeDom == .a && bit b.timeMode 1

/-! ### Steps (R48 to R51) -/

/-- Declare missed every frame from `k`, `n` of them (R49): each is declared short with the cause missed of Table 2.4, which counts it
in 0x0400:04 too, and is counted in 0x0400:07. [DEDUCED, assumption 16] -/
def Blk.missFrames (b : Blk) (k n : Nat) : Blk :=
  (List.range n).foldl (fun acc i => (acc.declareShort (k + i) causeMissed).bump K.missedCount) b

/-- Move the local time of domain `d` by `delta` ns in one cycle. In the active domain an open frame is declared short
(R49, R50); when a boundary is crossed the answer names the frame that opens at the step instant. -/
def Blk.step (b : Blk) (d : Dom) (delta : Int) : Blk × Option Nat :=
  let s := b.servo d
  let t := ((b.time d : Int) + delta).toNat
  let b1 := (b.setServo d { s with corr := s.corr + delta, down := s.down.map (· + delta), slew := 0 }).setTime d t
  let b1 := if delta ≠ 0 ∧ d = b.activeDom then { b1 with steps := b1.steps + 1, passed := none } else b1
  if delta = 0 ∨ d ≠ b.activeDom ∨ b.frameIsOpen = false then (b1, none)
  else
    let b2 := b1.declareShort b.now causeStep
    let k1 := b1.frameTime / b.periodNs
    if delta < 0 ∨ k1 ≤ b.now then (b2, none)
    else (b2.missFrames (b.now + 1) (k1 - b.now - 1), some k1)

/-! ### Offsets (R46, R48, R52, R53, R444) -/

/-- The key of the reported offset of a domain. -/
def offsetKey : Dom → Nat
  | .a => K.offsetANs
  | .b => K.offsetBNs

/-- The key of the reported path delay of a domain. -/
def pathKey : Dom → Nat
  | .a => K.pathDelayANs
  | .b => K.pathDelayBNs

/-- The asymmetry a (R444). -/
def Blk.asymmetry (b : Blk) : Int := signed 32 (b.num K.asymmetryNs)

/-- Report an offset, clamped to the object's type (R444). -/
def Blk.reportOffset (b : Blk) (d : Dom) (o : Int) : Blk :=
  b.setNum (offsetKey d) (unsigned 32 (clampInt (-2147483648) 2147483647 o))

/-- The eighth refusal of a run puts the servo into guard lock (R53); in the active domain A of dual mode it triggers
the switch (R54). -/
def Blk.guardRefuse (b : Blk) (d : Dom) : Blk :=
  let s := b.servo d
  let b1 := ((b.setServo d { s with refusals := s.refusals + 1 }).bump K.guardRefusals).raiseEvt irqTime
  if s.refusals + 1 < 8 then b1
  else
    let b2 := if b1.dualApplies d then b1.dualTrigger.2 else b1
    (b2.toHoldover d true).raiseErr irqTime

/-- The servo acts on an offset o of domain `d` (Table 2.5, R48, R52): acquiring steps it, locked slews or steps it, or
refuses it in guarded mode. [DEDUCED, assumption 13] -/
def Blk.actOn (b : Blk) (d : Dom) (o : Int) : Blk × Option Nat :=
  let st := b.servoState d
  if st = svAcquiring then b.step d (-o)
  else if st = svLocked then
    let s := b.servo d
    if bit b.timeMode 0 then
      if b.num K.guardThresholdNs < o.natAbs then (b.guardRefuse d, none)
      else (b.setServo d { s with refusals := 0, slew := -o }, none)
    else if o.natAbs < b.num K.stepThresholdNs then (b.setServo d { s with refusals := 0, slew := -o }, none)
    else (b.setServo d { s with refusals := 0 }).step d (-o)
  else (b, none)

/-- One more Sync of the selected master in acquiring: sixteen consecutive offsets of 100 ns or less lock the servo
(Table 2.5). -/
def Blk.countSync (b : Blk) (d : Dom) (o : Int) : Blk :=
  if b.servoState d = svAcquiring then
    let s := b.servo d
    let g := if o.natAbs ≤ 100 then s.good + 1 else 0
    if 16 ≤ g then b.toLocked d else b.setServo d { s with good := g }
  else b

/-- Whether messages, and not the pulse-per-second, give the phase of domain `d` (R59). -/
def Blk.messagePhase (b : Blk) (d : Dom) : Bool :=
  !(decide (d = b.activeDom) && b.ppsGood && !b.isLeaf && b.num K.ppsEnable == 1)

/-- The whole seconds nearest to an offset, in ns. -/
def wholeSeconds (o : Int) : Int := (o + 500000000) / 1000000000 * 1000000000

/-- A message offset is acted on: as a phase, or, while the pulse gives the phase, by its whole seconds only, which are the time of
day (R59). [DEDUCED, assumption 13] -/
def Blk.actOnMessage (b : Blk) (d : Dom) (o : Int) : Blk × Option Nat :=
  if b.messagePhase d then b.actOn d o
  else if wholeSeconds o = 0 then (b, none)
  else b.actOn d (wholeSeconds o)

/-- A Sync with t2 − t1 = `down` has its origin time: a change of time_mode is in force from it on (R66), the offset is computed with
the mean path delay in force, reported, and acted on (R444). -/
def Blk.takeSync (b : Blk) (d : Dom) (down : Int) : Blk × Option Nat :=
  let s := b.servo d
  let o := down - s.m - b.asymmetry
  let b0 : Blk := { b with modeWas := none }
  let b1 := (b0.setServo d { s with down := some down, waiting := none }).reportOffset d o
  let r := b1.actOnMessage d o
  (r.1.countSync d o, r.2)

/-! ### Messages (Table 2.6) -/

/-- The domain whose instance a message belongs to. -/
def Blk.domOf (b : Blk) (n : Byte) : Option Dom :=
  if n.toNat = b.num K.domainNumberA then some .a
  else if n.toNat = b.num K.domainNumberB then some .b
  else none

/-- The messageType values of IEEE 1588-2019 for the messages that the block receives; every other is a message outside
Table 2.6: peer-to-peer, Signaling with unicast negotiation, Management, Delay_Req. [PRESUMED, assumption 12] -/
abbrev ptpSync : BitVec 4 := 0x0
abbrev ptpFollowUp : BitVec 4 := 0x8
abbrev ptpDelayResp : BitVec 4 := 0x9
abbrev ptpAnnounce : BitVec 4 := 0xB

/-- The header is inside the supported subset of Table 2.6 for a message of type `t`; `lo` and `hi` bound the log interval. -/
def Blk.ptpOk (b : Blk) (h : PtpHdr) (t : BitVec 4) (lo hi : Int) : Bool :=
  decide (h.msgType = t) && decide (h.version = 2) && decide (h.minor.toNat ≤ 1) && decide (h.sdo.toNat = b.num K.majorSdoId) &&
    decide (h.length.toNat ≤ 512) && decide (lo ≤ h.logInterval.toInt) && decide (h.logInterval.toInt ≤ hi)

/-- The correctionField in whole ns (units of 2^-16 ns, rounded down). [DEDUCED, assumption 75] -/
def ptpCorrNs (h : PtpHdr) : Int := h.correction.toInt / 65536

/-- Table 2.6 keeps the better of two datasets: the standard's default comparison (PRESUMED, assumption 12). -/
def Foreign.better (x y : Foreign) : Bool :=
  let rank := fun (f : Foreign) =>
    ((((f.data.priority1.toNat * 256 + f.data.clockClass.toNat) * 256 + f.data.accuracy.toNat) * 65536 +
      f.data.variance.toNat) * 256 + f.data.priority2.toNat) * 2 ^ 64 + f.data.gm.toNat
  if x.data.gm = y.data.gm then
    decide (x.data.steps.toNat < y.data.steps.toNat) ||
      (x.data.steps == y.data.steps && decide (x.source.toNat < y.source.toNat))
  else decide (rank x < rank y)

/-- The best of the foreign masters. [PRESUMED, assumption 12] -/
def bestOf : List Foreign → Option Foreign
  | [] => none
  | f :: fs => match bestOf fs with
    | none => some f
    | some g => if g.better f then some g else some f

/-- Put an Announce into the table of foreign masters; a fifth master is ignored (Table 2.6). -/
def Servo.hear (s : Servo) (f : Foreign) : Servo :=
  if s.foreign.any (fun g => g.source == f.source) then
    { s with foreign := s.foreign.map (fun g => if g.source == f.source then f else g) }
  else if s.foreign.length < 4 then { s with foreign := s.foreign ++ [f] }
  else s

/-- An accepted Announce (Table 2.5, R53, R54, R443): the comparison selects, and a change of grandmaster identity or a
return from holdover moves the servo; a Sync or an exchange of the former master counts no more. A change that triggers R54 in vain puts a servo that has been locked into holdover; the
next accepted Announce takes it to acquiring. [DEDUCED, assumption 14] -/
def Blk.takeAnnounce (b : Blk) (d : Dom) (f : Foreign) : Blk :=
  let s := (b.servo d).hear f
  let best := bestOf s.foreign
  let changed := match s.sel, best with
    | some x, some y => decide (x.data.gm ≠ y.data.gm)
    | _, _ => false
  let taken := match best with | some y => y.source == f.source | none => false
  let same := decide (s.sel.map (·.source) = best.map (·.source))
  let s := { s with waiting := if same then s.waiting else none, down := if same then s.down else none }
  let b1 := (b.setServo d { s with sel := best }).setNum (gmKey d) (match best with | some y => y.data.gm.toNat | none => 0)
  let st := b.servoState d
  let dual := changed && b.dualApplies d
  let b2 := if dual then b1.dualTrigger.2 else b1
  let stays := dual && !b1.dualTrigger.1 && s.everLocked
  if st = svFree then (if best.isSome then b1.toAcquiring d else b1)
  else if stays then b2.toHoldover d false
  else if st = svAcquiring then (if changed then b2.setServo d { s with sel := best, good := 0 } else b1)
  else if st = svLocked then (if changed then b2.toAcquiring d else b1)
  else if changed || (taken && (!s.guardLock || s.timedOut)) then b2.toAcquiring d
  else b1

/-- ANNOUNCE_RECEIVE (R443, R58). -/
def Blk.announce (b : Blk) (h : PtpHdr) (m : Announce) : Blk :=
  if !envTaken h.env 2 then b.badEnvelope h.env
  else match b.domOf h.domain with
  | none => b
  | some d =>
    if !b.ptpOk h ptpAnnounce (-3) 4 then b.bump K.unsupportedMsgs
    else if !m.ptpTimescale then b
    else b.takeAnnounce d { source := h.source, data := m }

/-- ANNOUNCE_TIMEOUT (R46, R53, R54): a foreign master leaves the table; when it is the selected one, the servo moves
as Table 2.5 gives. -/
def Blk.announceLost (b : Blk) (d : Dom) (src : BitVec 80) : Blk :=
  let s := b.servo d
  let s1 := { s with foreign := s.foreign.filter (fun f => f.source != src) }
  let isSel := match s.sel with | some f => f.source == src | none => false
  if !isSel then b.setServo d s1
  else
    let st := b.servoState d
    if st = svHoldover then
      let keep := b.setServo d { s1 with timedOut := true }
      if !s.timedOut && keep.dualApplies d then keep.dualTrigger.2 else keep
    else if st = svFree then b.setServo d { s1 with sel := none }
    else
      let keep := b.setServo d s1
      let b2 := if keep.dualApplies d then keep.dualTrigger.2 else keep
      if s.everLocked then b2.toHoldover d false else (b2.setServo d { s1 with sel := none }).toFree d

/-- The message comes from the selected master of a domain. -/
def Blk.fromSelected (b : Blk) (d : Dom) (h : PtpHdr) : Bool :=
  match (b.servo d).sel with | some f => f.source == h.source | none => false

/-- SYNC_RECEIVE (R444): the receive stamp advances local time; a one-step Sync is acted on, a two-step Sync waits for
its Follow_Up. [DEDUCED, assumption 14] [DEDUCED, assumption 75] -/
def Blk.sync (b : Blk) (h : PtpHdr) (t1 t2 : BitVec 96) : Blk × Option Nat :=
  if !envTaken h.env 2 then (b.badEnvelope h.env, none)
  else match b.domOf h.domain with
  | none => (b, none)
  | some d =>
    if !b.ptpOk h ptpSync (-7) 0 then (b.bump K.unsupportedMsgs, none)
    else
      let b0 := b.advance d (t96ns t2.toNat)
      let s := b0.servo d
      let st := b0.servoState d
      if !b0.fromSelected d h || (st != svAcquiring && st != svLocked) then (b0, none)
      else
        let rx : Int := (t96ns t2.toNat : Int) - ptpCorrNs h
        if h.twoStep then (b0.setServo d { s with waiting := some (h.source, h.seqId, rx) }, none)
        else b0.takeSync d (rx - t96ns t1.toNat)

/-- FOLLOW_UP_RECEIVE (R444): the origin time of the two-step Sync of the selected master with the same source and sequence. -/
def Blk.followUp (b : Blk) (h : PtpHdr) (t1 : BitVec 96) : Blk × Option Nat :=
  if !envTaken h.env 2 then (b.badEnvelope h.env, none)
  else match b.domOf h.domain with
  | none => (b, none)
  | some d =>
    if !b.ptpOk h ptpFollowUp (-128) 127 then (b.bump K.unsupportedMsgs, none)
    else match (b.servo d).waiting with
      | none => (b, none)
      | some (src, q, rx) =>
        if src = h.source ∧ q = h.seqId ∧ b.fromSelected d h = true then b.takeSync d (rx - ptpCorrNs h - t96ns t1.toNat) else (b, none)

/-- DELAY_REQ_SEND (R60): sent while a master is selected; its stamp is queued, or dropped and counted when 16 wait. -/
def Blk.delayReq (b : Blk) (d : Dom) (q : BitVec 16) (t3 : BitVec 96) : Blk :=
  if (b.servo d).sel.isNone then b
  else
    let b1 := (b.advance d (t96ns t3.toNat)).emit (.delayReq d q)
    if 16 ≤ b1.tsq.length then b1.bump K.tsqOverflow
    else { b1 with tsq := b1.tsq ++ [{ dom := d, seqId := q, stamp := t3, corrAt := (b1.servo d).corr }] }

/-- Remove the entry of domain `d` with the sequence identifier and every older entry of the domain (R60); the answer
is that entry. -/
def tsqMatch (d : Dom) (q : BitVec 16) : List TsqEntry → Option (TsqEntry × List TsqEntry)
  | [] => none
  | e :: es =>
    if e.dom = d ∧ e.seqId = q then some (e, es)
    else match tsqMatch d q es with
      | none => none
      | some (x, rest) => some (x, if e.dom = d then rest else e :: rest)

/-- The log interval of Delay_Req, clamped to −7 to 4 (Table 2.6). -/
def clampLog (l : Byte) : Byte := BitVec.ofInt 8 (clampInt (-7) 4 l.toInt)

/-- DELAY_RESP_RECEIVE (R60, R444): the matching stamp leaves the queue; from the selected master, the exchange is complete, the
mean path delay is computed and the offset that it gives is reported and acted on. -/
def Blk.delayResp (b : Blk) (h : PtpHdr) (t4 : BitVec 96) : Blk × Option Nat :=
  if !envTaken h.env 2 then (b.badEnvelope h.env, none)
  else match b.domOf h.domain with
  | none => (b, none)
  | some d =>
    if !b.ptpOk h ptpDelayResp (-128) 127 then (b.bump K.unsupportedMsgs, none)
    else
      let s := b.servo d
      match tsqMatch d h.seqId b.tsq with
        | none => (b, none)
        | some (e, rest) =>
          if !b.fromSelected d h then ({ b with tsq := rest }, none)
          else
          let b1 := { b with tsq := rest }.setServo d { s with logDelayReq := clampLog h.logInterval }
          match s.down with
          | none => (b1, none)
          | some dn =>
            let up : Int := (t96ns t4.toNat : Int) - ptpCorrNs h - (t96ns e.stamp.toNat + (s.corr - e.corrAt))
            let m := (dn + up) / 2
            let o := dn - m - b.asymmetry
            let b2 := ((b1.setServo d { s with logDelayReq := clampLog h.logInterval, m := m }).reportOffset d o).setNum
              (pathKey d) (clampInt 0 4294967295 m).toNat
            b2.actOnMessage d o

/-! ### Guard lock, switch, holdover, pulse-per-second -/

/-- A servo is in guard lock (R53). -/
def Blk.guardLocked (b : Blk) (d : Dom) : Bool := b.servoState d == svHoldover && (b.servo d).guardLock

/-- The check of guard_accept: TRUE needs a servo in guard lock (R53). -/
def Blk.guardAcceptStatus (b : Blk) (v : Nat) : Nat :=
  if v = 1 ∧ b.guardLocked .a = false ∧ b.guardLocked .b = false then stWrong else stOk

/-- The act of guard_accept: every servo in guard lock goes to acquiring (R53). -/
def Blk.guardAcceptAct (b : Blk) (v : Nat) : Blk :=
  if v ≠ 1 then b
  else
    let b1 := if b.guardLocked .a then b.toAcquiring .a else b
    if b1.guardLocked .b then b1.toAcquiring .b else b1

/-- The check of active_domain (R56): the target is locked and the two times are close. -/
def Blk.activeDomainStatus (b : Blk) (v : Nat) : Nat :=
  let d := if v = 1 then Dom.b else Dom.a
  if b.servoState d = svLocked ∧ b.domainGap ≤ b.num K.dualSwitchLimitNs then stOk else stWrong

/-- The switch of domain (R55): the remainder starts at the difference between the frame time and the incoming
domain's time. -/
def Blk.activeDomainAct (b : Blk) (v : Nat) : Blk :=
  let d := if v = 1 then Dom.b else Dom.a
  if d = b.activeDom then b
  else
    ({ b with remain := (b.frameTime : Int) - b.time d, remainRest := 0, steps := b.steps + 1,
              holdNs := if b.servoState d = svLocked then 0 else b.holdNs }.setNum K.activeDomain v).judgeAlignment

/-- HOLDOVER_BUDGET_EXPIRE (R57): the time in holdover has reached `ms`. -/
def Blk.holdoverMs (b : Blk) (ms : Nat) : Blk :=
  if b.servoState b.activeDom = svHoldover then
    ({ b with holdNs := ms * 1000000 }.setNum K.holdoverElapsedMs ms).judgeAlignment
  else b

/-- PPS_EDGE (R59): the stamp less the pulse's delay is a whole second of the active domain; what it lies off is the
phase offset, which the servo acts on and which 0x0300:13 or 14 reports. [DEDUCED, assumption 13] -/
def Blk.ppsEdge (b : Blk) (stamp : Nat) : Blk × Option Nat :=
  if b.isLeaf || b.num K.ppsEnable != 1 then (b, none)
  else
    let d := b.activeDom
    let b1 : Blk := { b.advance d stamp with ppsGood := true }
    let x := ((stamp : Int) - signed 32 (b.num K.ppsDelayNs)) % 1000000000
    let o := if 500000000 ≤ x then x - 1000000000 else x
    if b1.servoState d = svLocked ∨ b1.servoState d = svAcquiring then (b1.reportOffset d o).actOn d o else (b1, none)

/-- PPS_LOSS (R59): message phase again, and irq_evt. -/
def Blk.ppsLost (b : Blk) : Blk :=
  if b.num K.ppsEnable = 1 then { b with ppsGood := false }.raiseEvt irqTime else b

/-- The 16 bytes of a transmit time-stamp entry (Table 2.7). -/
def TsqEntry.bytes (e : TsqEntry) : List Byte :=
  natLe 16 (e.stamp.toNat + e.seqId.toNat * 2 ^ 96 + 1 * 2 ^ 112 + (if e.dom = .b then 2 ^ 116 else 0))

/-- A read of tsq_pop (R61): the oldest entry, or no bytes. -/
def Blk.tsqPop (b : Blk) : List Byte × Blk :=
  match b.tsq with
  | [] => ([], b)
  | e :: es => (e.bytes, { b with tsq := es })

end Sys2Proof.Machine
end

