-- ==== Sys2Proof/Machine/Codec.lean ====
section
/-! DEFINITION. The byte form of Bivan messages (Tables 3.6 to 3.9): what a mailbox or an SMBus block holds, parsed into
a request and rendered from a response. -/

namespace Sys2Proof.Machine

/-- The opcodes of Table 3.9. -/
abbrev opRead : Nat := 0x01
abbrev opWrite : Nat := 0x02
abbrev opSegRead : Nat := 0x03
abbrev opSegWrite : Nat := 0x04
abbrev opTxnOpen : Nat := 0x10
abbrev opTxnStage : Nat := 0x11
abbrev opTxnCommit : Nat := 0x12
abbrev opTxnAbort : Nat := 0x13
abbrev opTxnStatus : Nat := 0x14
abbrev opFleetRequest : Nat := 0x20
abbrev opPrepare : Nat := 0x21
abbrev opCommitToken : Nat := 0x23
abbrev opAbortToken : Nat := 0x24
abbrev opTokenQuery : Nat := 0x26
abbrev opCompensate : Nat := 0x27

/-- The body length that Table 3.9 gives a request of the opcode. -/
def bodyLen (op : Nat) : Nat :=
  if op = opTxnCommit ∨ op = opCommitToken ∨ op = opCompensate then 8
  else if op = opFleetRequest ∨ op = opPrepare then 32
  else 0

/-- Eight bytes of item header (Table 3.8), then the data padded to a multiple of 8. -/
def itemBytes (i : Item) : List Byte :=
  natLe 8 (i.index.toNat * 2 ^ 48 + i.sub.toNat * 2 ^ 40 + i.type.toNat * 2 ^ 32 + i.length.toNat * 2 ^ 16 +
    i.status.toNat * 2 ^ 8 + i.target.toNat) ++ padTo 8 i.data

/-- The whole items at the head of `b`, up to the first that lacks bytes; `fuel` bounds their number. -/
def parseItems : Nat → List Byte → List Item
  | 0, _ => []
  | fuel + 1, b =>
    if b.length < 8 then []
    else
      let h := leNat (b.take 8)
      let len := bits h 16 16
      let pad := (len + 7) / 8 * 8
      if b.length < 8 + pad then []
      else
        let it : Item := { index := BitVec.ofNat 16 (bits h 48 16), sub := BitVec.ofNat 8 (bits h 40 8),
                           type := BitVec.ofNat 8 (bits h 32 8), length := BitVec.ofNat 16 len,
                           status := BitVec.ofNat 8 (bits h 8 8), target := BitVec.ofNat 8 (bits h 0 8),
                           data := slice b 8 len }
        it :: parseItems fuel (b.drop (8 + pad))

/-- The 16-byte header of Table 3.7. -/
def hdrBytes (op status : Nat) (resp : Bool) (seq txn count : Nat) : List Byte :=
  natLe 16 (op * 2 ^ 120 + status * 2 ^ 112 + (if resp then 2 ^ 111 else 0) + seq * 2 ^ 64 + count * 2 ^ 48 + txn)

/-- The 16-byte envelope that a management-class frame of `len` bytes begins with (Table 3.6); the role is the fabric's. -/
def envelope (kind len : Nat) (src dst : Word) : List Byte :=
  natLe 16 (2 ^ 124 + kind * 2 ^ 120 + len * 2 ^ 96 + src.toNat * 2 ^ 64 + dst.toNat * 2 ^ 32)

/-- A request message as bytes (R76). -/
def reqBytes (op : Nat) (q : Req) : List Byte :=
  hdrBytes op 0 false q.seq.toNat q.txn.toNat q.items.length ++ q.body ++ q.items.flatMap itemBytes

/-- A response as bytes (R77). -/
def respBytes (r : Resp) : List Byte :=
  hdrBytes r.opcode.toNat r.status.toNat true r.seq.toNat r.txn.toNat r.items.length ++ r.body ++
    r.items.flatMap itemBytes

/-- The bytes that the header, the body and the items of a request take (R76). -/
def reqSize (q : Req) : Nat := 16 + q.body.length + (q.items.map (fun i => 8 + (i.data.length + 7) / 8 * 8)).sum

/-- A message's parts add up to its length, which is at most 8,192 bytes (R76). -/
def sumsOk (q : Req) : Bool := decide (reqSize q = q.env.carried) && decide (reqSize q ≤ 8192)

/-- A message is whole: its parts add up, and so do its items (R76). -/
def whole (q : Req) : Bool := sumsOk q && decide (q.count.toNat ≤ 511) && decide (q.count.toNat = q.items.length)

/-- The opcode and request that a message of at least 16 bytes spells, received by `way` from `src`. Its whole items are parsed, and
its length is kept, against which R76 judges them. -/
def parseReq (way : Way) (src : Word) (b : List Byte) : Nat × Req :=
  let h := leNat (b.take 16)
  let op := bits h 120 8
  let body := slice b 16 (bodyLen op)
  (op, { way := way, src := src, seq := BitVec.ofNat 32 (bits h 64 32), txn := BitVec.ofNat 32 (bits h 0 32),
         count := BitVec.ofNat 16 (bits h 48 16), items := parseItems b.length (b.drop (16 + bodyLen op)), body := body,
         env := { version := 1, kind := 1, length := BitVec.ofNat 16 b.length, carried := b.length } })

end Sys2Proof.Machine
end

