-- ==== Sys2Proof/Machine/Bivan.lean ====
section
/-! DEFINITION. The Bivan endpoint (chapter Object Dictionary): roles, the order in which a request is judged (R442),
the memory of sequence numbers (R81), reads and writes of items, segments of DOMAIN objects, and local transactions up
to their commit. The definitions are written once over an `Env`, which says how a leaf or a channel reads an object,
checks a write against its state and lets a write act. -/

namespace Sys2Proof.Machine

/-- How a build takes part in the dictionary: `σ` is its whole state. -/
structure Env (σ : Type) where
  blk : σ → Blk
  put : σ → Blk → σ
  /-- The value in force of an object. -/
  val : σ → Nat → Val
  /-- A read of an object by a request, which may take an entry (R61). -/
  rd : σ → Nat → Val × σ
  /-- Whether the object may be read now (R318). -/
  rchk : σ → Nat → Nat
  /-- The last check of step 6 of R442: the source, whether a transaction carries the write, the values it is judged
  against, the object and the value. -/
  chk : σ → Word → Bool → (Nat → Val) → Nat → Val → Nat
  /-- Whether a segment of the object may be loaded now (R91, R247). -/
  seg : σ → Nat → Nat
  /-- A segment of the object is accepted; `first` when it starts the value (R247). -/
  segd : σ → Nat → Bool → σ
  /-- An item is refused with a status (R276). -/
  miss : σ → Nat → Nat → σ
  /-- The images that writes make active and that a commit must store (R250, R272): their swap objects. -/
  images : σ → List Wr → List Nat
  /-- Why a commit of writes for an apply frame is refused beside R90, or OK (R250, R272, R397): source, number, writes. -/
  commitChk : σ → Word → Word → List Wr → Nat → Nat
  /-- The effect of an accepted write. -/
  act : σ → Word → Nat → Val → σ
  /-- The channel holds the clasp (R85). -/
  clasp : σ → Bool
  /-- What staging a write starts (R373). -/
  staged : σ → Nat → Val → σ
  /-- The further class S values that a write of the object stores at commit: the tables a swap makes active (R91). -/
  copies : σ → Nat → List (Nat × Val)
  /-- A store in flash has completed: the flash contents. -/
  stored : σ → FlashJob → σ
  /-- The pending copies of a transaction become current (R91). -/
  current : σ → Word → Word → σ
  /-- Forward a broadcast to the children and leaves (R99): opcode, txn, items, body, pods in scope. -/
  forward : σ → Nat → Word → List Item → List Byte → Nat → σ
  /-- A request, and a response, for another node goes on (R84). -/
  passReq : σ → Word → Nat → Req → σ
  passResp : σ → Word → Resp → σ

/-! ### Roles (R71, R73) -/

/-- A role entry matches a source address (R73, Table 3.4). -/
def roleMatches (e : Nat) (src : Word) : Bool :=
  let m := bits e 24 18
  decide (bits e 60 4 = bits src.toNat 28 4) && decide (bits src.toNat 0 18 &&& m = bits e 42 18 &&& m)

/-- The role of the first matching entry from subindex `k` on, 0 when none matches. -/
def Blk.roleFrom (b : Blk) (src : Word) : Nat → Nat → Nat
  | 0, _ => 0
  | n + 1, k =>
    let e := b.num (K.roleEntry + k)
    if roleMatches e src then bits e 0 2 else b.roleFrom src n (k + 1)

/-- The source address of a request (R84 to R86): the envelope's, the tray's host port, or its sideband. -/
def Blk.srcOf (b : Blk) (q : Req) : Word :=
  match q.way with
  | .fabric _ => q.src
  | .host => b.hostAddr
  | .sideband => b.sideAddr

/-- The opcodes that reach every node of the subtree below (R72). -/
def opBroadcast (op : Nat) : Bool := op == opPrepare || op == opCommitToken || op == opAbortToken || op == opCompensate

/-- The destination of a fabric message is this block (R84): its address, or every node for an opcode that is broadcast (R72). A leaf
without an identifier accepts every destination of kind 0x0 (R386). [DEDUCED, assumption 19] -/
def Blk.reaches (b : Blk) (op : Nat) (d : Word) : Bool :=
  d == b.addr || (d == 0xFFFFFFFF && opBroadcast op) || (b.isLeaf && decide (b.num K.bringupState < 8) && decide (bits d.toNat 28 4 = 0))

/-- The block executes the request (R84): it is addressed to it. A mailbox and a sideband request reach their own channel only
(R85, R86). [DEDUCED, assumption 19] -/
def Blk.mine (b : Blk) (op : Nat) (q : Req) : Bool :=
  match q.way, q.dst with
  | .fabric _, some d => b.reaches op d
  | _, _ => true

/-- What is addressed elsewhere is passed on by a channel that runs, and left alone by a leaf (R84); 0xFFFFFFFF under an opcode that
is not broadcast is no destination (R72). [DEDUCED, assumption 19] -/
def Blk.passOn (b : Blk) (dst : Word) (o : Out) : Blk :=
  if b.phase = .run ∧ b.isLeaf = false ∧ dst ≠ 0xFFFFFFFF then b.emit o else b

/-- The envelope of a request is one that the block takes (R75); a mailbox and a sideband message have none. [DESIGN CHOICE, assumption 78] -/
def envOk (q : Req) : Bool :=
  match q.way with
  | .fabric _ => envTaken q.env 1
  | .host => true
  | .sideband => true

/-- A request reaches a block that can execute it: not while it is in reset or a fast path; in C2 through the mailbox and the SMBus
only, off through the SMBus only (Table 15.6). [DEDUCED, assumption 60] -/
def Blk.hears (b : Blk) (q : Req) : Bool :=
  match b.phase, q.way with
  | .off, w => w == .sideband
  | .retained, .fabric _ => false
  | _, _ => b.live

/-- The effective role of a request (R73). -/
def Blk.effRole (b : Blk) (q : Req) : Nat :=
  let r := b.roleFrom (b.srcOf q) 32 0
  match q.way with
  | .fabric e => min r e.toNat
  | .host => r
  | .sideband => r

/-! ### Responses and the memory of R81 -/

/-- A response with the header alone (R77). -/
def bare (src : Word) (op st : Nat) (q : Req) : Resp :=
  { peer := src, opcode := BitVec.ofNat 8 op, status := BitVec.ofNat 8 st, seq := q.seq,
    txn := if opTxnStage ≤ op ∧ op ≤ opCompensate then q.txn else 0, items := [], body := [] }

/-- Send a response. -/
def Blk.respond (b : Blk) (q : Req) (r : Resp) : Blk := b.emit (.resp q.way r)

/-- The memory of a source, if it is held (R81). -/
def Blk.memOf (b : Blk) (src : Word) : Option SeqMem := b.seqs.find? (fun m => m.src == src)

/-- Note that a request of `src` with number `q` is executed: the source moves to the front, and the 65th drops out. -/
def Blk.heard (b : Blk) (src q : Word) : Blk :=
  let old := b.memOf src
  let m : SeqMem := match old with
    | some m => { m with high := q }
    | none => { src := src, high := q, resps := [] }
  { b with seqs := (m :: b.seqs.filter (fun x => x.src != src)).take 64 }

/-- Remember a response, the last 8 of its source; BUSY is not recorded (R81). -/
def Blk.remember (b : Blk) (r : Resp) : Blk :=
  { b with seqs := b.seqs.map (fun m => if m.src == r.peer then { m with resps := (r :: m.resps).take 8 } else m) }

/-- Forget that a request was executed, when it was refused with BUSY (R81): the source keeps its former number. -/
def Blk.unheard (b : Blk) (src : Word) (old : Option SeqMem) : Blk :=
  { b with seqs := match old with
      | some o => b.seqs.map (fun m => if m.src == src then o else m)
      | none => b.seqs.filter (fun m => m.src != src) }

/-- Count item refusals for role (R71). -/
def Blk.countRole (b : Blk) (n : Nat) : Blk := if n = 0 then b else b.bump K.requestsRefusedRole n

/-- The first status other than OK among items (R78). -/
def headStatus : List Item → Nat
  | [] => stOk
  | i :: is => if i.status = 0 then headStatus is else i.status.toNat

/-- The largest message that the request's way carries (R76, R86). [DEDUCED, assumption 18] -/
def wayLimit : Way → Nat
  | .fabric _ => 8192
  | .host => 8192
  | .sideband => 255

section
variable {σ : Type} (E : Env σ)

/-- Change the common part. -/
def Env.upd (s : σ) (f : Blk → Blk) : σ := E.put s (f (E.blk s))

/-- The objects answered in the block's present phase: all, or the few of R378 and Table 15.6. [DEDUCED, assumption 60] -/
def Blk.answers (b : Blk) (q : Req) (idx sub : Nat) : Bool :=
  match b.phase with
  | .failed => idx / 256 == 1 || idx / 256 == 2
  | .retained => idx / 256 == 1 || idx / 256 == 0x38
  | .off => q.way == .sideband && idx * 256 + sub == K.channelWake
  | _ => true

/-! ### Items (R442 step 6) -/

/-- An item without data, with a status. -/
def itemSt (i : Item) (st : Nat) : Item := { i with length := 0, data := [], status := BitVec.ofNat 8 st }

/-- The object's checks before its value: existence, role and access of a read. -/
def readStatus (leaf : Bool) (role idx sub : Nat) : Nat × Option ObjDef × Bool :=
  match lookup leaf idx sub with
  | .inl st => (st, none, false)
  | .inr d =>
    if role < d.rrole then (stDenied, none, true)
    else match d.access with
      | .wo => (stDenied, none, false)
      | _ => (stOk, some d, false)

/-- The checks of a written item: the status, the value it would give, and whether it was refused for role. -/
def writeStatus (s : σ) (q : Req) (src : Word) (role : Nat) (viaTxn : Bool) (view : Nat → Val) (i : Item) :
    Nat × Val × Bool :=
  let leaf := (E.blk s).isLeaf
  let idx := i.index.toNat
  let sub := i.sub.toNat
  let key := idx * 256 + sub
  if !(E.blk s).answers q idx sub then (stWrong, .num 0, false)
  else match lookup leaf idx sub with
    | .inl st => (st, .num 0, false)
    | .inr d =>
      if role < d.wrole then (stDenied, .num 0, true)
      else if d.access = .ro ∨ d.access = .const then (stReadOnly, .num 0, false)
      else if d.access = .rwt ∧ viaTxn = false then (stWrong, .num 0, false)
      else if i.type.toNat ≠ d.type then (stType, .num 0, false)
      else if i.length.toNat ≠ i.data.length ∨ (typeSize d.type).getD i.data.length ≠ i.data.length ∨
          (d.type = 12 ∧ 255 < i.data.length) then (stLength, .num 0, false)
      else match accept d leaf (dataVal d.type i.data) with
        | none => (stRange, .num 0, false)
        | some v =>
          if (d.tray || (key == K.resetRequest && !leaf && v == .num 1)) && !E.clasp s then (stNotClasp, .num 0, false)
          else
            let st := E.chk s src viaTxn view key v
            (st, v, false)

/-- The key of an item. -/
def itemKey (i : Item) : Nat := i.index.toNat * 256 + i.sub.toNat

/-- Values with writes laid over them, the latest first. -/
def overlay (view : Nat → Val) (ws : List Wr) : Nat → Val :=
  fun k => match ws.find? (fun w => w.1 == k) with
    | some w => w.2
    | none => view k

/-- Let writes act, in order. -/
def applyAll (s : σ) (src : Word) (ws : List Wr) : σ := ws.foldl (fun t w => E.act t src w.1 w.2) s

/-- What a pass over items leaves: the state, the response's items so far, accepted writes with their places (newest
first), refusals for role, and the bytes used. -/
structure Pass (σ : Type) where
  st : σ
  items : List Item
  writes : List (Nat × Wr)
  roleRefused : Nat
  used : Nat

/-- One item of a READ (R79). [DEDUCED, assumption 18] -/
def readOne (q : Req) (role : Nat) (p : Pass σ) (i : Item) : Pass σ :=
  let b := E.blk p.st
  let idx := i.index.toNat
  let sub := i.sub.toNat
  let bad := fun (st n : Nat) =>
    { p with items := p.items ++ [itemSt i st], roleRefused := p.roleRefused + n, used := p.used + 8 }
  if !b.answers q idx sub then bad stWrong 0
  else if sub ≠ 0 ∧ E.rchk p.st (itemKey i) ≠ stOk ∧ (readStatus b.isLeaf role idx sub).1 = stOk then
    bad (E.rchk p.st (itemKey i)) 0
  else match readStatus b.isLeaf role idx sub with
    | (st, none, rr) => bad st (if rr then 1 else 0)
    | (_, some d, _) =>
      let r := if sub = 0 then (d.dflt, p.st) else E.rd p.st (itemKey i)
      let data := valData d.type r.1
      if wayLimit q.way < p.used + 8 + (data.length + 7) / 8 * 8 then bad stLength 0
      else
        { p with st := r.2,
                 items := p.items ++ [{ i with type := BitVec.ofNat 8 d.type, length := BitVec.ofNat 16 data.length,
                                               status := 0, target := 0, data := data }],
                 used := p.used + 8 + (data.length + 7) / 8 * 8 }

/-- One item of a WRITE (R79): judged against the values in force and the earlier items of the request. -/
def writeOne (q : Req) (src : Word) (role : Nat) (p : Pass σ) (i : Item) : Pass σ :=
  let view := overlay (E.val p.st) (p.writes.map (·.2))
  let r := writeStatus E p.st q src role false view i
  { p with st := if r.1 = stOk then p.st else E.miss p.st (itemKey i) r.1,
           items := p.items ++ [itemSt i r.1],
           writes := if r.1 = stOk then (p.items.length, ((itemKey i), r.2.1)) :: p.writes else p.writes,
           roleRefused := p.roleRefused + (if r.2.2 then 1 else 0) }

/-! ### Completion of a request -/

/-- Send the response and remember it. A response with status BUSY is not recorded (R81); the same holds of a request whose header
status is the BUSY of an item. [DESIGN CHOICE, assumption 80] -/
def finishReq (s : σ) (q : Req) (old : Option SeqMem) (r : Resp) : σ :=
  E.upd s (fun b => if r.status = BitVec.ofNat 8 stBusy then (b.respond q r).unheard r.peer old
    else (b.respond q r).remember r)

/-- The writes of a request that must first be stored in flash: class S objects (R74). -/
def storesOf (leaf : Bool) (ws : List (Nat × Wr)) : List (Nat × Wr) := ws.filter (fun w => clsOf leaf w.2.1 == .s)

/-- End a WRITE or SEG_WRITE: with class S objects among its writes it waits for their stores (R74), else the values
take effect and the response is sent (R80). -/
def concludeWrite (s : σ) (q : Req) (old : Option SeqMem) (r : Resp) (ws : List (Nat × Wr)) : σ :=
  let st := storesOf (E.blk s).isLeaf ws
  if st.isEmpty then finishReq E (applyAll E s r.peer (ws.map (·.2))) q old r
  else E.upd s (fun b =>
    { b with
      execs := b.execs ++ [{ way := q.way, src := r.peer, seq := q.seq, resp := r, writes := ws,
                             waiting := st.length, fails := [] }],
      jobs := b.jobs ++ st.map (fun w => FlashJob.item r.peer q.seq w.1 w.2.1 w.2.2) })

/-! ### The order of judgement (R442) -/

/-- Steps 1 to 4 of R442, then the opcode's own execution. `need` is the role of step 4; `form` the opcode's own
condition of form. -/
def judge (s : σ) (op : Nat) (q : Req) (form : Bool) (need : Nat)
    (run : σ → Word → Nat → Option SeqMem → σ) : σ :=
  let b := E.blk s
  let src := b.srcOf q
  if !b.hears q || b.resetWanted.isSome then s
  else if !envOk q then E.upd s (fun b => b.badEnvelope q.env)
  else if !b.mine op q then E.passReq s (q.dst.getD b.addr) op q
  else if !whole q || !form then
    E.upd s (fun b => b.respond q (bare src op stLength q))
  else
    let old := b.memOf src
    let known := old.bind (fun m => m.resps.find? (fun r => r.seq == q.seq))
    match known with
    | some r => E.upd s (fun b => (match old with
        | some m => { b with seqs := m :: b.seqs.filter (fun x => x.src != src) }
        | none => b).respond q r)
    | none =>
      if (match old with | some m => !serialAfter q.seq m.high | none => false) then
        E.upd s (fun b => b.respond q (bare src op stWrong q))
      else if 32 ≤ b.execs.length then E.upd s (fun b => b.respond q (bare src op stBusy q))
      else
        let role := b.effRole q
        let s1 := E.upd s (fun b => b.heard src q.seq)
        if role < need then
          finishReq E (E.upd s1 (fun b => b.countRole 1)) q old (bare src op stDenied q)
        else run s1 src role old

/-- The empty pass. -/
def Pass.start (s : σ) : Pass σ := { st := s, items := [], writes := [], roleRefused := 0, used := 16 }

/-- An opcode that the block does not know is answered WRONG_STATE (R77). [DEDUCED, assumption 67] -/
def doUnknown (s : σ) (op : Nat) (q : Req) : σ :=
  judge E s op q (decide (q.body.length = bodyLen op)) 0 (fun s src _ old => finishReq E s q old (bare src op stWrong q))

/-- READ (R79). -/
def doRead (s : σ) (q : Req) : σ :=
  judge E s opRead q true 0 (fun s src role old =>
    let p := q.items.foldl (readOne E q role) (Pass.start s)
    finishReq E (E.upd p.st (fun b => b.countRole p.roleRefused)) q old
      { bare src opRead (headStatus p.items) q with items := p.items })

/-- WRITE (R79, R80, R74). -/
def doWrite (s : σ) (q : Req) : σ :=
  judge E s opWrite q true 0 (fun s src role old =>
    let p := q.items.foldl (writeOne E q src role) (Pass.start s)
    concludeWrite E (E.upd p.st (fun b => b.countRole p.roleRefused)) q old
      { bare src opWrite (headStatus p.items) q with items := p.items } p.writes.reverse)

/-! ### Segments (R83) -/

/-- The one item of a segment request. -/
def oneItem (q : Req) : Item :=
  match q.items with
  | i :: _ => i
  | [] => { index := 0, sub := 0, type := 0, length := 0, status := 0, target := 0, data := [] }

/-- The data bytes of a SEG_READ response that fit (R83). -/
def segRoom (w : Way) : Nat := (wayLimit w - 24) / 8 * 8

/-- SEG_READ (R83). -/
def doSegRead (s : σ) (q : Req) : σ :=
  judge E s opSegRead q (decide (q.items.length = 1)) 0 (fun s src role old =>
    let i := oneItem q
    let b := E.blk s
    let answer := fun (t : σ) (n : Nat) (it : Item) =>
      finishReq E (E.upd t (fun b => b.countRole n)) q old
        { bare src opSegRead (headStatus [it]) q with items := [it] }
    if !b.answers q i.index.toNat i.sub.toNat then answer s 0 (itemSt i stWrong)
    else match readStatus b.isLeaf role i.index.toNat i.sub.toNat with
      | (st, none, rr) => answer s (if rr then 1 else 0) (itemSt i st)
      | (_, some d, _) =>
        if d.type ≠ 13 then answer s 0 (itemSt i stType)
        else if i.data.length ≠ 8 then answer s 0 (itemSt i stLength)
        else if E.rchk s (itemKey i) ≠ stOk then answer s 0 (itemSt i (E.rchk s (itemKey i)))
        else
          let r := E.rd s (itemKey i)
          let data := slice r.1.toBytes (leAt i.data 0 4) (min (leAt i.data 4 4) (segRoom q.way))
          answer r.2 0 { i with type := 13, length := BitVec.ofNat 16 data.length, status := 0, target := 0, data := data })

/-- The Range column admits a value of `total` bytes. -/
def totalOk (d : ObjDef) (total : Nat) : Bool :=
  match d.range with
  | .len lo hi mult => decide (lo ≤ total) && decide (total ≤ hi) && decide (total % mult = 0)
  | .ent lo hi size _ => decide (lo ≤ total) && decide (total ≤ hi) && decide (total % size = 0)
  | .lens l => decide (total ∈ l)
  | _ => true

/-- Drop the partial value of an object. -/
def Blk.dropSeg (b : Blk) (key : Nat) : Blk := { b with segs := b.segs.filter (fun p => p.key != key) }

/-- SEG_WRITE (R83): the segment is refused and the partial value dropped when it is out of order; refused and the
partial value kept for any other reason; else taken, and at its end the value is written. The partial value of a class S object is
kept until its store has ended well. -/
def doSegWrite (s : σ) (q : Req) : σ :=
  judge E s opSegWrite q (decide (q.items.length = 1)) 0 (fun s src role old =>
    let i := oneItem q
    let b := E.blk s
    let key := (itemKey i)
    let answer := fun (t : σ) (n st : Nat) =>
      finishReq E (E.upd (if st = stOk then t else E.miss t key st) (fun b => b.countRole n)) q old
        { bare src opSegWrite st q with items := [itemSt i st] }
    if !b.answers q i.index.toNat i.sub.toNat then answer s 0 stWrong
    else match lookup b.isLeaf i.index.toNat i.sub.toNat with
      | .inl st => answer s 0 st
      | .inr d =>
        let off := leAt i.data 0 4
        let total := leAt i.data 4 4
        let bytes := i.data.drop 8
        let part := b.segs.find? (fun p => p.key == key)
        let before := if off = 0 then some [] else match part with
          | some p => if p.total = total ∧ p.data.length = off then some p.data else none
          | none => none
        if role < d.wrole then answer s 1 stDenied
        else if d.access = .ro ∨ d.access = .const then answer s 0 stReadOnly
        else if d.access = .rwt then answer s 0 stWrong
        else if d.type ≠ 13 ∨ i.type ≠ 13 then answer s 0 stType
        else if i.data.length < 8 ∨ i.length.toNat ≠ i.data.length then
          answer (E.upd s (fun b => b.dropSeg key)) 0 stLength
        else match before with
          | none => answer (E.upd s (fun b => b.dropSeg key)) 0 stLength
          | some d0 =>
            let data := d0 ++ bytes
            if total < data.length then answer (E.upd s (fun b => b.dropSeg key)) 0 stLength
            else if !totalOk d total then answer s 0 stRange
            else if d.tray && !E.clasp s then answer s 0 stNotClasp
            else if E.seg s key ≠ stOk then answer s 0 (E.seg s key)
            else if data.length < total then
              answer (E.upd (E.segd s key (decide (off = 0))) (fun b => { b.dropSeg key with
                segs := (b.dropSeg key).segs ++ [{ key := key, total := total, data := data }] })) 0 stOk
            else match accept d b.isLeaf (.bytes data) with
              | none => answer s 0 stRange
              | some v =>
                let st := E.chk s src false (E.val s) key v
                if st ≠ stOk then answer s 0 st
                else concludeWrite E (E.upd (E.segd s key (decide (off = 0)))
                    (fun b => if clsOf b.isLeaf key == .s then b else b.dropSeg key)) q old
                  { bare src opSegWrite stOk q with items := [itemSt i stOk] } [(0, (key, v))])

/-! ### Local transactions (R87 to R91) -/

/-- The open or committed transaction of a source. -/
def Blk.txnOf (b : Blk) (src num : Word) : Option Txn := b.txns.find? (fun t => t.src == src && t.num == num)

/-- The finished transaction of a source that is still remembered. -/
def Blk.doneOf (b : Blk) (src num : Word) : Option Done := b.done.find? (fun t => t.src == src && t.num == num)

/-- The status of a request that names no transaction of its source (R87). -/
def Blk.strangerStatus (b : Blk) (num : Word) : Nat :=
  if b.txns.any (fun t => t.num == num) || b.done.any (fun t => t.num == num) then stDenied else stNoObject

/-- Change a transaction in place. -/
def Blk.mapTxn (b : Blk) (src num : Word) (f : Txn → Txn) : Blk :=
  { b with txns := b.txns.map (fun t => if t.src == src && t.num == num then f t else t) }

/-- Take a transaction out and remember its final state (R87). -/
def Blk.endTxn (b : Blk) (t : Txn) (st : TxnState) (status : Nat) : Blk :=
  { b with txns := b.txns.filter (fun x => !(x.src == t.src && x.num == t.num)) }.finish
    { src := t.src, num := t.num, state := st, status := status, apply := t.apply }

/-- A request on a transaction (R87): the frame of the last one is kept. -/
def Blk.touchTxn (b : Blk) (src num : Word) : Blk := b.mapTxn src num (fun t => { t with last := b.now })

/-- A transaction just opened in frame `f`. -/
def Txn.fresh (src num : Word) (f : Nat) : Txn :=
  { src := src, num := num, state := .opened, items := [], dataBytes := 0, apply := 0, last := f, fleet := false, storing := 0,
    storeFailed := false, images := [] }

/-- TXN_OPEN (R87, R88). -/
def doTxnOpen (s : σ) (q : Req) : σ :=
  judge E s opTxnOpen q true 2 (fun s src _ old =>
    let b := E.blk s
    if b.phase = .failed ∨ b.phase = .off then finishReq E s q old (bare src opTxnOpen stWrong q)
    else if b.txnLimit ≤ b.txns.length then finishReq E s q old (bare src opTxnOpen stBusy q)
    else if (b.txnOf src q.seq).isSome then finishReq E s q old (bare src opTxnOpen stWrong q)
    else
      let s1 := E.upd s (fun b => { b with
        txns := b.txns ++ [Txn.fresh src q.seq b.now],
        done := b.done.filter (fun d => !(d.src == src && d.num == q.seq)) })
      finishReq E s1 q old { bare src opTxnOpen stOk q with txn := q.seq })

/-- One item of a TXN_STAGE (R89): judged against the values in force with the transaction's staged items. -/
def stageOne (q : Req) (src : Word) (role : Nat) (staged : List Wr) (p : Pass σ) (i : Item) : Pass σ :=
  let mine := p.writes.map (·.2) ++ staged
  let view := overlay (E.val p.st) mine
  let r := writeStatus E p.st q src role true view i
  let st := if r.1 = stOk ∧ mine.any (fun w => w.1 == (itemKey i)) then stConflict else r.1
  { p with st := if st = stOk then p.st else E.miss p.st (itemKey i) st,
           items := p.items ++ [itemSt i st],
           writes := if st = stOk then (p.items.length, ((itemKey i), r.2.1)) :: p.writes else p.writes,
           roleRefused := p.roleRefused + (if r.2.2 then 1 else 0) }

/-- TXN_STAGE (R87 to R89): all of its items are staged, or none. -/
def doTxnStage (s : σ) (q : Req) : σ :=
  judge E s opTxnStage q true 2 (fun s0 src role old =>
    let s := E.upd s0 (fun b => b.touchTxn src q.txn)
    let b := E.blk s
    let refuse := fun st => finishReq E s q old (bare src opTxnStage st q)
    match b.txnOf src q.txn with
    | none => refuse (if (b.doneOf src q.txn).isSome then stWrong else b.strangerStatus q.txn)
    | some t =>
      let bytes := (q.items.map (fun i => i.data.length)).sum
      if t.state ≠ .opened ∨ 0 < t.storing then refuse stWrong
      else if 256 < t.items.length + q.items.length ∨ 16384 < t.dataBytes + bytes then refuse stTooLarge
      else
        let p := q.items.foldl (stageOne E q src role t.items.reverse) (Pass.start s)
        let s1 := E.upd p.st (fun b => b.countRole p.roleRefused)
        let resp := { bare src opTxnStage (headStatus p.items) q with items := p.items }
        if headStatus p.items = stOk then
          let ws := p.writes.reverse.map (·.2)
          let s2 := E.upd s1 (fun b => b.mapTxn src q.txn (fun t =>
            { t with items := t.items ++ ws, dataBytes := t.dataBytes + bytes }))
          finishReq E (ws.foldl (fun t w => E.staged t w.1 w.2) s2) q old resp
        else finishReq E s1 q old resp)

/-- The stored copies that committing `t` writes (R91): its class S objects, and the tables its swaps make active. -/
def copiesOf (s : σ) (t : Txn) : List (Nat × Val) :=
  t.items.filter (fun w => clsOf (E.blk s).isLeaf w.1 == .s) ++
    (t.items.filter (fun w => w.2 != .num 0)).flatMap (fun w => E.copies s w.1)

/-- Commit an open transaction for frame `a`. -/
def Blk.commitTxn (b : Blk) (src num : Word) (a : Nat) : Blk :=
  b.mapTxn src num (fun t => { t with state := .committed, apply := a, storing := 0, storeFailed := false })

/-- TXN_COMMIT (R87, R90, R91). -/
def doTxnCommit (s : σ) (q : Req) : σ :=
  judge E s opTxnCommit q (decide (q.body.length = 8)) 2 (fun s0 src _ old =>
    let s := E.upd s0 (fun b => b.touchTxn src q.txn)
    let b := E.blk s
    let refuse := fun st => finishReq E s q old (bare src opTxnCommit st q)
    match b.txnOf src q.txn with
    | none => refuse (if (b.doneOf src q.txn).isSome then stWrong else b.strangerStatus q.txn)
    | some t =>
      if t.state ≠ .opened ∨ 0 < t.storing then refuse stWrong
      else
        let a := if leNat q.body = 0 then b.now + 1 else leNat q.body
        let imgs := E.images s t.items
        let st0 := E.commitChk s src q.txn t.items a
        let st := if st0 ≠ stOk ∨ imgs.isEmpty = false then st0 else b.commitStatus a (t.items.map (·.1))
        if st ≠ stOk then refuse st
        else
          let cs := copiesOf E s t
          if cs.isEmpty && imgs.isEmpty then
            finishReq E (E.upd s (fun b => b.commitTxn src q.txn a)) q old (bare src opTxnCommit stOk q)
          else E.upd s (fun b =>
            { b.mapTxn src q.txn (fun t =>
                { t with apply := a, storing := cs.length + imgs.length, images := imgs }) with
              execs := b.execs ++ [{ way := q.way, src := src, seq := q.seq, resp := bare src opTxnCommit stOk q,
                                     writes := [], waiting := cs.length + imgs.length, fails := [] }],
              jobs := b.jobs ++ cs.map (fun c => FlashJob.copy src q.txn c.1 c.2) }))

/-- TXN_ABORT (R87): only an open transaction. -/
def doTxnAbort (s : σ) (q : Req) : σ :=
  judge E s opTxnAbort q true 2 (fun s0 src _ old =>
    let s := E.upd s0 (fun b => b.touchTxn src q.txn)
    let b := E.blk s
    match b.txnOf src q.txn with
    | none =>
      finishReq E s q old (bare src opTxnAbort
        (if (b.doneOf src q.txn).isSome then stWrong else b.strangerStatus q.txn) q)
    | some t =>
      if t.state ≠ .opened ∨ 0 < t.storing then finishReq E s q old (bare src opTxnAbort stWrong q)
      else finishReq E (E.upd s (fun b => b.endTxn t .aborted stOk)) q old (bare src opTxnAbort stOk q))

/-- The body of a TXN_STATUS response (Table 3.9). -/
def statusBody (state status apply : Nat) : List Byte := natLe 1 state ++ natLe 1 status ++ natLe 6 0 ++ natLe 8 apply

/-- TXN_STATUS (R87). The last status of an open or committed transaction reads OK. [DESIGN CHOICE, assumption 81] -/
def doTxnStatus (s : σ) (q : Req) : σ :=
  judge E s opTxnStatus q true 2 (fun s0 src _ old =>
    let s := E.upd s0 (fun b => b.touchTxn src q.txn)
    let b := E.blk s
    let ok := fun body => finishReq E s q old { bare src opTxnStatus stOk q with body := body }
    match b.txnOf src q.txn, b.doneOf src q.txn with
    | some t, _ => ok (statusBody t.state.code stOk t.apply)
    | none, some d => ok (statusBody d.state.code d.status d.apply)
    | none, none => finishReq E s q old (bare src opTxnStatus (b.strangerStatus q.txn) q))

/-- TXN_OPEN_EXPIRE (R87): an open transaction left alone for 0x0500:03 frames is aborted with TXN_EXPIRED. -/
def expireTxn (s : σ) (src num : Word) : σ :=
  match (E.blk s).txnOf src num with
  | none => s
  | some t =>
    let b := E.blk s
    if t.state = .opened ∧ t.storing = 0 ∧ t.last + b.num K.txnOpenTimeout ≤ b.now then E.upd s (fun b => b.endTxn t .aborted stExpired) else s

/-! ### Stores in flash (R74, R91) -/

/-- Reduce two acknowledgement records of one sequence and phase (Table 3.14). -/
def combineAck (x y : AckRec) : AckRec :=
  { x with ok := x.ok + y.ok, refused := x.refused + y.refused,
           firstStatus := if y.firstNode.toNat < x.firstNode.toNat then y.firstStatus else x.firstStatus,
           firstNode := if y.firstNode.toNat < x.firstNode.toNat then y.firstNode else x.firstNode }

/-- Put a record among those of one packet (R100). -/
def mergeAck (r : AckRec) : List AckRec → List AckRec
  | [] => [r]
  | x :: xs => if x.seq = r.seq ∧ x.phase = r.phase then combineAck x r :: xs else x :: mergeAck r xs

/-- Put a record of a frame among the gathered ones (R100). -/
def mergeAckAt (f : Nat) (r : AckRec) : List (Nat × AckRec) → List (Nat × AckRec)
  | [] => [(f, r)]
  | x :: xs => if x.1 = f ∧ x.2.seq = r.seq ∧ x.2.phase = r.phase then (f, combineAck x.2 r) :: xs else x :: mergeAckAt f r xs

/-- The records that the packet of frame `f` carries (Table 3.14): those of the frame and what earlier packets had no place for, at most
8; the others wait. -/
def Blk.takeAcks (b : Blk) (f : Nat) : List AckRec × Blk :=
  let due := (b.acks.filter (fun p => decide (p.1 ≤ f))).foldl (fun l p => mergeAck p.2 l) []
  (due.take 8, { b with acks := (due.drop 8).map (fun r => (f, r)) ++ b.acks.filter (fun p => decide (f < p.1)) })

/-- One store of a WRITE ends: a failed item answers STORE_FAULT and keeps its old value; after the last store the
values take effect and the response is sent. -/
def endItemStore (s : σ) (src seq : Word) (place : Nat) (ok : Bool) : σ :=
  let b := E.blk s
  match b.execs.find? (fun e => e.src == src && e.seq == seq) with
  | none => s
  | some e =>
    let e1 := { e with waiting := e.waiting - 1, fails := if ok then e.fails else place :: e.fails }
    let rest := b.execs.filter (fun x => !(x.src == src && x.seq == seq))
    if 0 < e1.waiting then E.upd s (fun b => { b with execs := rest ++ [e1] })
    else
      let items := e1.fails.foldl (fun l k => modifyAt k (fun i => itemSt i stStore) l) e1.resp.items
      let ws := (e1.writes.filter (fun w => !e1.fails.contains w.1)).map (·.2)
      let r := { e1.resp with items := items, status := BitVec.ofNat 8 (headStatus items) }
      let whole := if e1.resp.opcode.toNat = opSegWrite then ws.map (·.1) else []
      let s1 := applyAll E (E.upd s (fun b =>
        { b with execs := rest, segs := b.segs.filter (fun p => !whole.contains p.key) })) src ws
      E.upd s1 (fun b => (b.emit (.resp e1.way r)).remember r)

/-- Enter an acknowledgement of this node (Table 3.14): combined with the record of the same sequence and phase. -/
def Blk.ackOwn (b : Blk) (seq : Word) (phase st : Nat) : Blk :=
  let r : AckRec := { seq := seq, phase := phase, firstStatus := st, ok := if st = stOk then 1 else 0,
                      refused := if st = stOk then 0 else 1, firstNode := if st = stOk then 0xFFFFFFFF else b.addr }
  { b with acks := mergeAckAt b.now r b.acks }

/-- Change the record of a fleet transaction. -/
def Blk.mapFleet (b : Blk) (seq : Word) (f : FleetRec → FleetRec) : Blk :=
  { b with fleet := b.fleet.map (fun r => if r.seq == seq then f r else r) }

/-- The stores of a fleet transaction's commit have ended: the node enters its commit record (R104, R91). -/
def Blk.fleetStored (b : Blk) (seq : Word) (st : Nat) : Blk :=
  let quiet := b.fleet.any (fun r => r.seq == seq && r.silent)
  let b1 := if st = stOk then b.mapFleet seq (fun r => { r with committed := true })
    else { b with txns := b.txns.filter (fun t => !(t.fleet && t.num == seq)) }
  if quiet then b1 else b1.ackOwn seq 2 st

/-- One copy of a commit ends: after the last one the transaction is committed, or the commit is refused with
STORE_FAULT, or with TXN_EXPIRED when its frame has opened meanwhile, and the transaction stays open (R91). -/
def endCopyStore (s : σ) (src num : Word) (ok : Bool) : σ :=
  match (E.blk s).txnOf src num with
  | none => s
  | some t =>
    let s1 := E.upd s (fun b => b.mapTxn src num (fun t =>
      { t with storing := t.storing - 1, storeFailed := t.storeFailed || !ok }))
    if 1 < t.storing then s1
    else
      let failed := t.storeFailed || !ok
      let others : Blk := { E.blk s with txns := (E.blk s).txns.filter (fun x => !(x.src == src && x.num == num)) }
      let st := if failed then stStore else others.commitStatus t.apply (t.items.map (·.1))
      let s2 := E.upd s1 (fun b =>
        if st = stOk then b.commitTxn src num t.apply
        else b.mapTxn src num (fun t => { t with apply := 0, storing := 0, storeFailed := false, images := [] }))
      match (E.blk s2).execs.find? (fun e => e.src == src && e.resp.txn == num && e.resp.opcode == 0x12) with
      | none =>
        if t.fleet then E.upd s2 (fun b => b.fleetStored num st)
        else if st = stOk then s2
        else E.upd s2 (fun b => b.endTxn t .aborted st)
      | some e =>
        let r := { e.resp with status := BitVec.ofNat 8 st }
        E.upd s2 (fun b => (({ b with
          execs := b.execs.filter (fun x => !(x.src == e.src && x.seq == e.seq)) }.emit (.resp e.way r)).remember r))

/-- FLASH_OPERATION_DONE (R349, R74, R91): the oldest store ends. [DEDUCED, assumption 26] -/
def endStore (s : σ) (ok : Bool) : σ :=
  match (E.blk s).jobs with
  | [] => s
  | j :: rest =>
    let s0 := E.upd s (fun b => { b with jobs := rest })
    let s1 := if ok then E.stored s0 j
      else E.upd s0 (fun b => if b.isLeaf then b else b.bump K.flashWriteFailures)
    match j with
    | .item src seq place _ _ => endItemStore E s1 src seq place ok
    | .copy src num _ _ => endCopyStore E s1 src num ok
    | .firmware _ => s1
    | .tray _ _ _ _ _ _ _ => s1

/-- The store of an image for the commit that swaps it in ends (R250, R272); none waits: nothing happens. -/
def endImageStore (s : σ) (swapKey : Nat) (ok : Bool) : σ :=
  match (E.blk s).txns.find? (fun t => t.images.contains swapKey) with
  | none => s
  | some t =>
    endCopyStore E (E.upd s (fun b => b.mapTxn t.src t.num (fun x =>
      { x with images := x.images.filter (fun k => k != swapKey) }))) t.src t.num ok

/-! ### Transactions of the block on itself (R87, R271) -/

/-- Open, stage and commit a transaction of the block on itself for frame `a`, with the stores that its class S objects
and its swaps need (R91): the status. -/
def commitOwn (s : σ) (ws : List Wr) (a : Nat) : Nat × σ :=
  let b := E.blk s
  if b.txnLimit ≤ b.txns.length then (stBusy, s)
  else
    let view := overlay (E.val s) ws.reverse
    let imgs := E.images s ws
    let num := BitVec.ofNat 32 b.ownNum
    let chk := ws.foldl (fun st w => if st = stOk then E.chk s b.addr true view w.1 w.2 else st) stOk
    let st0 := if chk ≠ stOk then chk else E.commitChk s b.addr num ws a
    let st := if st0 ≠ stOk ∨ imgs.isEmpty = false then st0 else b.commitStatus a (ws.map (·.1))
    if st ≠ stOk then (st, s)
    else
      let t : Txn := { Txn.fresh b.addr num b.now with items := ws, apply := a }
      let cs := copiesOf E s t
      let t1 : Txn := if cs.isEmpty && imgs.isEmpty then { t with state := .committed }
        else { t with storing := cs.length + imgs.length, images := imgs }
      let s1 := E.upd s (fun b => { b with
        selfNum := (b.ownNum + 1) % 2 ^ 32, txns := b.txns ++ [t1],
        jobs := b.jobs ++ cs.map (fun c => FlashJob.copy t.src num c.1 c.2) })
      (stOk, ws.foldl (fun t w => E.staged t w.1 w.2) s1)

end

end Sys2Proof.Machine
end

