-- ==== Sys2Proof/Machine/Txn.lean ====
section
/-! DEFINITION. The boundary that opens an apply frame (R92, R93) and what a node does in a fleet transaction
(R98 to R106). -/

namespace Sys2Proof.Machine

section
variable {σ : Type} (E : Env σ)

/-! ### Apply (R92, R93) -/

/-- The first status other than OK among the rechecks of a transaction's items. -/
def recheckTxn (s : σ) (view : Nat → Val) (t : Txn) : Nat :=
  t.items.foldl (fun st w => if st = stOk then E.chk s t.src true view w.1 w.2 else st) stOk

/-- Remove failing transactions until none fails (R93): those that remain, and the failed ones with their status.
Each round judges against the values that the remaining ones would leave together; `fuel` is their number. -/
def settle (s : σ) : Nat → List Txn → List (Txn × Nat) → List Txn × List (Txn × Nat)
  | 0, ts, bad => (ts, bad)
  | fuel + 1, ts, bad =>
    let view := overlay (E.val s) ((ts.flatMap (fun t => t.items)).reverse)
    let judged := ts.map (fun t => (t, recheckTxn E s view t))
    let failed := judged.filter (fun p => p.2 ≠ stOk)
    if failed.isEmpty then (ts, bad)
    else settle s fuel ((judged.filter (fun p => p.2 = stOk)).map (·.1)) (bad ++ failed)

/-- A transaction that fails its recheck (R93). -/
def failTxn (s : σ) (t : Txn) (st : Nat) : σ :=
  E.upd s (fun b =>
    ((((b.endTxn t .applyFailed st).setNum K.lastApplyFailTxn t.num.toNat).setNum K.lastApplyFailStatus st).setNum
      K.lastApplyFailSource t.src.toNat |>.bump K.applyFailCount).raiseErr irqTxn)

/-- The prior values that undo a fleet transaction (R106): its objects but the acts without state. The table or image that one of its
swap objects made active is no object that it wrote, and stays active. [DESIGN CHOICE, assumption 83] -/
def priorOf (s : σ) (t : Txn) : List (Nat × Val) :=
  (t.items.filter (fun w => match defOf (E.blk s).isLeaf w.1 with
    | some d => d.access != .wo
    | none => false)).map (fun w => (w.1, E.val s w.1))

/-- A transaction takes effect (R92): its writes act in item order, its copies become current, and the undo records of
earlier fleet transactions forget the objects it writes (R106). -/
def applyTxn (s : σ) (t : Txn) : σ :=
  let prior := priorOf E s t
  let keys := t.items.map (·.1)
  let s1 := applyAll E s t.src t.items
  let s2 := E.current s1 t.src t.num
  E.upd s2 (fun b =>
    let b1 := { b.endTxn t .applied stOk with
      undo := b.undo.map (fun u => { u with prior := u.prior.filter (fun p => !keys.contains p.1) }) }
    if t.fleet then
      { b1.mapFleet t.num (fun r => { r with applied := true, holds := false }) with
        undo := b1.undo ++ [{ seq := t.num, apply := t.apply, prior := prior }] }
    else b1)

/-- The transactions due at the boundary that opens frame `k`, those of skipped frames among them (R51, R94). -/
def Blk.due (b : Blk) (k : Nat) : List Txn := b.txns.filter (fun t => t.state == .committed && decide (t.apply ≤ k))

/-- Transactions that are due take effect together, or end apply_failed (R92, R93). -/
def applyThese (s : σ) (ts : List Txn) : σ :=
  let r := settle E s ts.length ts []
  let s1 := r.2.foldl (fun acc p => failTxn E acc p.1 p.2) s
  r.1.foldl (applyTxn E) s1

/-- Every transaction due at frame `k` takes effect, or ends apply_failed (R92, R93). -/
def applyDue (s : σ) (k : Nat) : σ := applyThese E s ((E.blk s).due k)

/-- The compensations due at frame `k` (R106): prior values that no later transaction has written are restored. The flash copy of a
restored class S object stays the one that the transaction made current (R91). [DESIGN CHOICE, assumption 83] -/
def applyComp (s : σ) (k : Nat) : σ :=
  let due := (E.blk s).fleet.filter (fun r => decide (0 < r.compAt) && decide (r.compAt ≤ k) && !r.compensated)
  due.foldl (fun acc r =>
    match (E.blk acc).undo.find? (fun u => u.seq == r.seq) with
    | none => E.upd acc (fun b => b.mapFleet r.seq (fun x => { x with compensated := true, compAt := 0 }))
    | some u =>
      let acc1 := applyAll E acc (E.blk acc).addr u.prior
      E.upd acc1 (fun b => { b.mapFleet r.seq (fun x => { x with compensated := true, compAt := 0 }) with
        undo := b.undo.filter (fun x => x.seq != r.seq) })) s

/-! ### Fleet transactions at a node (R98 to R106) -/

/-- The body of FLEET_REQUEST and PREPARE (Table 3.12). -/
def parseFleet (b : List Byte) : FleetBody :=
  let n := leNat b
  { apply := bits n 192 64, mask := bits n 64 128, part := bits n 48 16, guard := bits n 40 8, action := bits n 32 8 }

/-- The guard g of a fleet transaction: 0 selects 0x0500:11. -/
def Blk.guardOf (b : Blk) (f : FleetBody) : Nat := if f.guard = 0 then b.num K.guardFrames else f.guard

/-- The node is in scope (R98): a channel by its pod; a leaf, whose channel decides it, when the pod mask that the channel forwarded
names a pod. [DESIGN CHOICE, assumption 85] -/
def Blk.inScope (b : Blk) (f : FleetBody) : Bool :=
  if b.isLeaf then f.mask != 0 else decide (b.num K.podNumber ≤ 127) && f.mask.testBit (b.num K.podNumber)

/-- The items of a fleet transaction that this node stages (R98, Table 3.8). -/
def Blk.fleetItems (b : Blk) (f : FleetBody) (items : List Item) : List Item :=
  items.filter (fun i =>
    if b.isLeaf then bit i.target.toNat 0 && b.inScope f
    else (bit i.target.toNat 1 && b.inScope f) || (bit i.target.toNat 2 && b.num K.treeRole == 2))

/-- Check the items of a PREPARE in order, each as R89 has it for a transaction (R98): the pass holds each item's status and the
writes staged, as those of a TXN_STAGE. -/
def prepareItems (s : σ) (q : Req) (role : Nat) (items : List Item) : Pass σ :=
  items.foldl (stageOne E q q.src role []) (Pass.start s)

/-- The record of a fleet sequence number. [DESIGN CHOICE, assumption 24] -/
def Blk.fleetOf (b : Blk) (seq : Word) : Option FleetRec := b.fleet.find? (fun r => r.seq == seq)

/-- A record of a sequence number of which no PREPARE has been seen: a token or a COMPENSATE came first (R99, R106). -/
def FleetRec.early (seq : Word) (apply : Nat) (token : Option Bool) : FleetRec :=
  { seq := seq, body := { apply := apply, mask := 0, part := 0, guard := 0, action := 0 }, items := [], staged := [],
    inScope := true, prepared := false, holds := false, silent := false, token := token, committed := false, applied := false,
    resolved := false, compensated := false, compAt := 0 }

/-- Hold, check and stage a fleet transaction (R100); the answer is the node's own status, if it takes part. A sequence number that a
COMPENSATE has resolved stages nothing (R106). [DEDUCED, assumption 22] -/
def holdFleet (s0 : σ) (seq : Word) (body : FleetBody) (q : Req) (role : Nat) (silent : Bool) : Option Nat × σ :=
  let mine := (E.blk s0).fleetItems body q.items
  let scope := (E.blk s0).inScope body || !mine.isEmpty
  let old := ((E.blk s0).fleetOf seq).getD (FleetRec.early seq body.apply none)
  let p := prepareItems E s0 q role mine
  let s := E.upd p.st (fun b => b.countRole p.roleRefused)
  let b := E.blk s
  let ws := p.writes.reverse.map (·.2)
  let st := if headStatus p.items ≠ stOk then headStatus p.items
    else if body.apply ≤ b.now then stExpired
    else if b.now + 1048576 < body.apply then stRange
    else if b.conflict body.apply (ws.map (·.1)) then stConflict
    else stOk
  let good := decide (st = stOk) && scope && !old.resolved
  let rec_ : FleetRec :=
    { old with body := body, items := q.items, staged := if good then ws else [], inScope := scope, prepared := true,
               holds := good, silent := silent }
  let s1 := E.upd s (fun b => { b with fleet := b.fleet.filter (fun r => r.seq != seq) ++ [rec_] })
  let s2 := if good then ws.foldl (fun t w => E.staged t w.1 w.2) s1 else s1
  (if scope && !old.resolved then some st else none, s2)

/-- A node commits its staged fleet transaction for its apply frame (R104, R90, R91). It is added to the transactions of R88 and counts
among them from then on, however many there are. [DESIGN CHOICE, assumption 82] -/
def commitFleet (s : σ) (root seq : Word) : σ :=
  match (E.blk s).fleetOf seq with
  | none => s
  | some r =>
    if !r.holds || r.committed then s
    else
      let b0 := E.upd s (fun b => b.mapFleet seq (fun x => { x with holds := false }))
      let keys := r.staged.map (·.1)
      let imgs := E.images b0 r.staged
      let st0 := E.commitChk b0 root seq r.staged r.body.apply
      let st := if st0 ≠ stOk ∨ imgs.isEmpty = false then st0 else (E.blk b0).commitStatus r.body.apply keys
      let done := fun (t : σ) (st : Nat) => if r.silent then t else E.upd t (fun b => b.ackOwn seq 2 st)
      if st ≠ stOk then done b0 st
      else
        let t : Txn := { Txn.fresh root seq (E.blk b0).now with items := r.staged, apply := r.body.apply, fleet := true }
        let cs := copiesOf E b0 t
        if cs.isEmpty && imgs.isEmpty then
          done (E.upd b0 (fun b => { b.mapFleet seq (fun x => { x with committed := true }) with
            txns := b.txns ++ [{ t with state := .committed }] })) stOk
        else E.upd b0 (fun b => { b with
          txns := b.txns ++ [{ t with storing := cs.length + imgs.length, images := imgs }],
          jobs := b.jobs ++ cs.map (fun c => FlashJob.copy root seq c.1 c.2) })

/-- A token is acted on (R104): unless the sequence number is resolved (R106), a COMMIT_TOKEN commits the staged transaction and an
ABORT_TOKEN discards it. -/
def actToken (s : σ) (root seq : Word) (commit : Bool) : σ :=
  if (E.blk s).fleet.any (fun r => r.seq == seq && r.resolved) then s
  else if commit then commitFleet E s root seq
  else E.upd s (fun b => b.mapFleet seq (fun x => { x with holds := false, staged := [] }))

/-- The deadline frame of a fleet transaction has opened (R104). -/
def Blk.pastDeadline (b : Blk) (f : FleetBody) : Bool := decide (f.apply ≤ b.now + b.guardOf f)

/-- A token reaches the node (R104): the first one is kept (R99) and acted on, but one that comes when the deadline frame has opened is
ignored. One that precedes its PREPARE is kept for it; `apply` is the frame that it names. [DEDUCED, assumption 22] -/
def takeToken (s : σ) (root seq : Word) (apply : Nat) (commit : Bool) : σ :=
  match (E.blk s).fleetOf seq with
  | none => E.upd s (fun b => { b with fleet := b.fleet ++ [FleetRec.early seq apply (some commit)] })
  | some r =>
    if r.token.isSome || (r.prepared && (E.blk s).pastDeadline r.body) then s
    else
      let s1 := E.upd s (fun b => b.mapFleet seq (fun x => { x with token := some commit }))
      if r.prepared then actToken E s1 root seq commit else s1

/-- The pods that a node knows to be in scope of a sequence number (R98); all while it has seen no PREPARE. -/
def Blk.maskOf (b : Blk) (seq : Word) : Nat :=
  match b.fleetOf seq with
  | some r => if r.prepared then r.body.mask else 2 ^ 128 - 1
  | none => 2 ^ 128 - 1

/-- A broadcast of the fleet root is one that the node acts on (R72, R75, R76, R84). -/
def Blk.takesFleet (b : Blk) (op : Nat) (q : Req) : Bool :=
  b.hears q && envOk q && b.mine op q && whole q && decide (q.body.length = bodyLen op)

/-- A broadcast of the fleet root reaches a node (R72, R75, R76, R84): one that is addressed elsewhere goes on, one that is not whole is
dropped, since its opcode has no response, and any other is acted on. [DEDUCED, assumption 22] -/
def heardFleet (s : σ) (op : Nat) (q : Req) (act : σ → σ) : σ :=
  let b := E.blk s
  if !b.hears q then s
  else if !envOk q then E.upd s (fun b => b.badEnvelope q.env)
  else if !b.mine op q then E.passReq s (q.dst.getD b.addr) op q
  else if b.takesFleet op q then act s
  else s

/-- PREPARE (R99, R100): forwarded, checked, staged and acknowledged, and a token kept from before acted on; one seen before is only
forwarded. -/
def doPrepare (s : σ) (q : Req) : σ :=
  heardFleet E s opPrepare q (fun s =>
    let b := E.blk s
    let body := parseFleet q.body
    let s1 := E.forward s opPrepare q.txn q.items q.body body.mask
    if b.fleet.any (fun r => r.seq == q.txn && r.prepared) then s1
    else
      let silent := decide (b.num K.bringupState < 8)
      let r := holdFleet E s1 q.txn body q (b.effRole q) silent
      let s2 := match r.1 with
        | none => r.2
        | some st => if silent then r.2 else E.upd r.2 (fun b => b.ackOwn q.txn 1 st)
      match (b.fleetOf q.txn).bind (·.token) with
      | none => s2
      | some t => if b.pastDeadline body then s2 else actToken E s2 q.src q.txn t)

/-- COMMIT_TOKEN and ABORT_TOKEN (R99, R104). -/
def doToken (s : σ) (q : Req) (commit : Bool) : σ :=
  let op := if commit then opCommitToken else opAbortToken
  heardFleet E s op q (fun s =>
    takeToken E (E.forward s op q.txn q.items q.body ((E.blk s).maskOf q.txn)) q.src q.txn (leNat q.body) commit)

/-- TOKEN_QUERY (R104): the token held, or WRONG_STATE. -/
def doTokenQuery (s : σ) (q : Req) : σ :=
  judge E s opTokenQuery q true 0 (fun s src _ old =>
    match ((E.blk s).fleetOf q.txn).bind (fun r => r.token.map (fun t => (r, t))) with
    | none => finishReq E s q old (bare src opTokenQuery stWrong q)
    | some (r, t) =>
      finishReq E s q old { bare src opTokenQuery stOk q with
        body := natLe 1 (if t then opCommitToken else opAbortToken) ++ natLe 7 0 ++ natLe 8 r.body.apply })

/-- COMPENSATE for sequence `seq` with apply frame `ac` (R106): the status this node counts. -/
def takeComp (s : σ) (seq : Word) (ac : Nat) : Nat × σ :=
  let b := E.blk s
  match b.fleetOf seq with
  | none => (stOk, E.upd s (fun b => { b with fleet := b.fleet ++
      [{ FleetRec.early seq ac none with resolved := true, compensated := true }] }))
  | some r =>
    if r.compensated ∨ 0 < r.compAt then (stOk, s)
    else if r.applied ∧ ¬ b.undo.any (fun u => u.seq == seq) then (stExpired, s)
    else if r.applied ∨ r.committed then (stOk, E.upd s (fun b => b.mapFleet seq (fun x => { x with compAt := max 1 ac })))
    else (stOk, E.upd s (fun b => b.mapFleet seq (fun x =>
      { x with resolved := true, compensated := true, holds := false, staged := [] })))

/-- COMPENSATE (R99, R106). -/
def doCompensate (s : σ) (q : Req) : σ :=
  heardFleet E s opCompensate q (fun s =>
    let b := E.blk s
    let r := takeComp E (E.forward s opCompensate q.txn q.items q.body (b.maskOf q.txn)) q.txn (leNat q.body)
    let counts := match b.fleetOf q.txn with | some x => x.inScope && !x.silent | none => true
    if counts then E.upd r.2 (fun b => b.ackOwn q.txn 3 r.1) else r.2)

/-- GUARD_FRAME_QUERY (R104): in the guard frame A − g − 1, a node with a staged PREPARE and no token asks its standby parent. -/
def guardQuery (s : σ) (seq : Word) : σ :=
  let b := E.blk s
  match b.fleetOf seq with
  | none => s
  | some r =>
    if !r.holds || r.token.isSome || decide (b.now + b.guardOf r.body + 1 ≠ r.body.apply) || decide (b.num K.parentStandby = 0xFFFF) then s
    else E.upd s (fun b => (b.request (chanAddr (b.num K.parentStandby)) opTokenQuery seq.toNat [] []).bump K.tokenQueries)

/-- DEADLINE_FRAME_DISCARD (R104): once the deadline frame A − g has opened, a node without a token discards and counts itself refused with TXN_EXPIRED. -/
def deadlineDiscard (s : σ) (seq : Word) : σ :=
  match (E.blk s).fleetOf seq with
  | none => s
  | some r =>
    if !r.holds || r.token.isSome || !(E.blk s).pastDeadline r.body then s
    else E.upd s (fun b =>
      let b1 := b.mapFleet seq (fun x => { x with holds := false, staged := [], resolved := true })
      if r.silent then b1 else b1.ackOwn seq 2 stExpired)

/-- UNDO_HORIZON_EXPIRE (R106): the undo record of a fleet transaction that applied 0x0500:15 frames ago is dropped. -/
def undoExpire (s : σ) (seq : Word) : σ :=
  E.upd s (fun b => { b with undo := b.undo.filter (fun u => !(u.seq == seq && decide (u.apply + b.num K.undoHorizon ≤ b.now))) })

end

end Sys2Proof.Machine
end

