-- ==== Sys2Proof/Machine/Common.lean ====
section
/-! DEFINITION. What both builds share around the units: the objects that a read computes, the checks and acts of the
common registers, the repair list (R345, R346, R379), and the parts of a reset that are the same in both builds
(R375, Tables 15.7 and 15.8). -/

namespace Sys2Proof.Machine

/-! ### Objects that a read computes -/

/-- The object's value when it is a function of other state; none when the store holds it. [DEDUCED, assumption 27] -/
def Blk.view (b : Blk) (key : Nat) : Option Val :=
  if key = K.directory then some (.bytes (directory b.isLeaf))
  else if key = K.objectCount then some (.num (objectCount b.isLeaf))
  else if key = K.directoryCheck then some (.num (crc32c (directory b.isLeaf)))
  else if key = K.timeA then some (.num (if b.knownA then ns96 b.timeA else 0))
  else if key = K.timeB then some (.num (if b.knownB then ns96 b.timeB else 0))
  else if key = K.tsqDepth then some (.num b.tsq.length)
  else if key = K.txnOpenCount then some (.num (b.txns.filter (fun t => t.state == .opened)).length)
  else if key = K.txnCommittedCount then some (.num (b.txns.filter (fun t => t.state == .committed)).length)
  else none

/-! ### Common checks and acts -/

/-- The check of a common register against the block's state (R93): OK for every other. -/
def Blk.commonStatus (b : Blk) (view : Nat → Val) (key : Nat) (v : Val) : Nat :=
  if key = K.activeDomain then b.activeDomainStatus v.toNum
  else if key = K.guardAccept then b.guardAcceptStatus v.toNum
  else if key = K.domainNumberA then (if (view K.domainNumberB).toNum = v.toNum then stRange else stOk)
  else if key = K.domainNumberB then (if (view K.domainNumberA).toNum = v.toNum then stRange else stOk)
  else stOk

/-- A plain register takes its value; the common registers with an effect act (R53, R55, R57, R377). -/
def Blk.commonAct (b : Blk) (key : Nat) (v : Val) : Blk :=
  if key = K.activeDomain then b.activeDomainAct v.toNum
  else if key = K.guardAccept then b.guardAcceptAct v.toNum
  else if key = K.timeMode then { b with modeWas := some (b.timeMode) }.setVal key v
  else if key = K.holdoverBudgetMs then (b.setVal key v).judgeAlignment
  else if key = K.resetRequest then { b with resetWanted := some v.toNum }
  else b.setVal key v

/-! ### Repair list (R346, R379, Table 14.5) -/

/-- The entries of the repair list. -/
def Blk.repairs (b : Blk) : List Nat := (pieces 4 (b.bytes K.repairList)).map leNat

/-- The spares of an SRAM array (`dram` false) or of the stack that passed self-test and map nothing yet. -/
def Blk.freeSpares (b : Blk) (dram : Bool) (array : Nat) : List Nat :=
  let used := b.repairs.filter (fun e => if dram then bits e 30 2 == 1 else bits e 30 2 == 0 && bits e 11 10 == array)
  (List.range (if dram then 64 else 4)).filter (fun s =>
    !b.badSpares.contains (if dram then 4096 + s else array * 4 + s) &&
      !used.any (fun e => (if dram then bits e 24 6 else bits e 24 2) == s))

/-- Map one place of Table 14.5 onto the lowest spare; none when there is no spare. A place already mapped stays. -/
def Blk.mapPlace (b : Blk) (dram : Bool) (place : Nat) : Option Blk :=
  let kind := if dram then 2 ^ 30 else 0
  if b.repairs.any (fun e => bits e 30 2 == kind / 2 ^ 30 && bits e 0 21 == place) then some b
  else match b.freeSpares dram (place / 2048) with
    | [] => none
    | s :: _ =>
      some ((b.setBytes K.repairList (b.bytes K.repairList ++ natLe 4 (kind + s * 2 ^ 24 + place))).setNum K.sparesUsed
        (b.repairs.length + 1))

/-- Map several places in order; the flag tells that a spare was missing. -/
def Blk.mapPlaces (b : Blk) (dram : Bool) (ps : List Nat) : Blk × Bool :=
  ps.foldl (fun acc p => match acc.1.mapPlace dram p with
    | some b1 => (b1, acc.2)
    | none => (acc.1, true)) (b, false)

/-- The places of the failing rows of a self-test, spare rows apart (R379). -/
def rowPlaces (rows : List (BitVec 10 × BitVec 12)) : List Nat :=
  (rows.filter (fun r => decide (r.2.toNat < 2048))).map (fun r => r.1.toNat * 2048 + r.2.toNat)

/-- Self-test of the SRAM and the stack has ended: failing spares are noted, the repair list is derived anew, and the
flag tells that spares are exhausted (R346, R379). -/
def Blk.selftest (b : Blk) (rows : List (BitVec 10 × BitVec 12)) (segs : List (BitVec 16)) : Blk × Bool :=
  let bad := (rows.filter (fun r => decide (2048 ≤ r.2.toNat))).map (fun r => r.1.toNat * 4 + (r.2.toNat - 2048)) ++
    (segs.filter (fun s => decide (32768 ≤ s.toNat))).map (fun s => 4096 + (s.toNat - 32768))
  let b0 := ({ b with badSpares := bad }.setBytes K.repairList []).setNum K.sparesUsed 0
  let r1 := b0.mapPlaces false (rowPlaces rows)
  let r2 := r1.1.mapPlaces true ((segs.filter (fun s => decide (s.toNat < 32768))).map (·.toNat))
  (r2.1, r1.2 || r2.2)

/-! ### Resets -/

/-- Journalled packets after a reset: nothing is on its way (R198, R204). -/
def Blk.quietJournal (b : Blk) : List JEntry :=
  b.journal.map (fun e => { e with pending := false, replay := false, again := false, held := false, next := 0 })

/-- What a reset with retained memory leaves of a block (R375, Tables 15.7 and 15.8): the objects of `keep`, the
committed transactions, the memory of finished ones, the journal and local time; and of a fleet transaction that is committed or has applied,
its record and its undo record (R106). [DEDUCED, assumption 22] -/
def Blk.softReset (b0 : Blk) (keep : Nat → Bool) : Blk :=
  let b := b0.discard (fun t => t.state == .committed)
  { Blk.reset b.isLeaf b.place with
    phase := .fast, store := mfilter keep b.store, out := b.out, free := b.free, lastOpen := b.lastOpen,
    needLock := b.needLock, timeA := b.timeA, timeB := b.timeB, knownA := b.knownA, knownB := b.knownB,
    remain := b.remain, remainRest := b.remainRest, steps := b.steps,
    fleet := b.fleet.filter (fun r => r.applied || b.txns.any (fun t => t.fleet && t.num == r.seq)), undo := b.undo,
    txns := b.txns, done := b.done, nextSeq := b.nextSeq, badSpares := b.badSpares, journal := b.quietJournal }

/-- What a cold start leaves of a block: what crossed its ports, and the objects of `keep`. -/
def Blk.coldReset (b : Blk) (keep : Nat → Bool) : Blk :=
  { Blk.reset b.isLeaf b.place with
    phase := .cold, store := mfilter keep b.store, out := b.out, free := b.free }

/-- Local time without its reference (R383): free-run from 0. -/
def Blk.loseTime (b : Blk) : Blk :=
  { b with timeA := 0, timeB := 0, knownA := false, knownB := false, remain := 0, remainRest := 0, needLock := true, passed := none }

/-! ### Frames -/

/-- The sequencer is ready to open frames (R47): the block runs, or waits in the time phase of its cold start, and the active
servo has locked since the last cold start or time was kept. -/
def Blk.sequencing (b : Blk) : Bool :=
  (b.phase == .run || (b.phase == .cold && b.num K.bringupState == 5)) && !b.needLock

/-- One more than a frame number, 0 for none. -/
def after : Option Nat → Nat
  | some n => n + 1
  | none => 0

/-- The frame that the sequencer opens next (R37, R47): while a frame is open, the one after it; else the first frame whose opening
instant is at or after the frame time shown last, above every frame opened and every boundary that passed without
an opening. [DEDUCED, assumption 76] -/
def Blk.nextFrame (b : Blk) : Nat :=
  if b.frameIsOpen then b.now + 1
  else max ((b.frameTime + b.periodNs - 1) / b.periodNs) (max (after b.lastOpen) (after b.passed))

/-- The sequencer may open frame k now (R36, R37, R47). [DEDUCED, assumption 76] -/
def Blk.mayOpen (b : Blk) (k : Nat) : Bool :=
  b.sequencing && (match b.lastOpen with | some n => decide (n < k) | none => true) && decide (k = b.nextFrame)

/-- Local time reaches boundary k and the sequencer opens no frame there (R47). A boundary that local time has left behind moves
nothing, and a block without running time has none. [DEDUCED, assumption 89] -/
def Blk.passBoundary (b : Blk) (k : Nat) : Blk :=
  match b.phase with
  | .run => if b.frameIsOpen || b.sequencing then b else { b.advanceFrame (k * b.periodNs) with passed := some (max k (b.passed.getD 0)) }
  | .cold => if b.frameIsOpen || b.sequencing then b else { b.advanceFrame (k * b.periodNs) with passed := some (max k (b.passed.getD 0)) }
  | .fast => { b.advanceFrame (k * b.periodNs) with passed := some (max k (b.passed.getD 0)) }
  | .retained => { b.advanceFrame (k * b.periodNs) with passed := some (max k (b.passed.getD 0)) }
  | .asserted => b
  | .failed => b
  | .off => b

/-- A fast path ends before boundary k: the boundaries before it fell inside the reset (R47). -/
def Blk.resume (b : Blk) (k : Nat) : Blk := if k = 0 then b else { b with passed := some (k - 1) }

/-- The frame number of the frame that opens (R36, R37). [DEDUCED, assumption 76] -/
def Blk.setFrame (b : Blk) (k : Nat) : Blk :=
  { b with frameIsOpen := true, lastOpen := some k, passed := none }.setNum K.frameNow k

/-- Transactions and compensations due at frame k take effect under the checks of R93. -/
def boundary {σ : Type} (E : Env σ) (s : σ) (k : Nat) : σ :=
  let s0 := E.upd s (fun b => { b with applying := true })
  let s1 := applyComp E (applyDue E s0 k) k
  E.upd s1 (fun b => { b with applying := false })

/-- Frame f is short, apart from being missed (R42, Table 7.2). [DEDUCED, assumption 16] -/
def Blk.isShort (b : Blk) (f : Nat) : Bool := decide (b.shortCauses f % causeMissed ≠ 0)

end Sys2Proof.Machine
end

