-- ==== Sys2Proof/Machine/Aggregate.lean ====
section
/-! DEFINITION. The exact arithmetic of the reduction (R183 to R192): aggregate table entries, the state of a slot, the
addition of leaf values and of records, and the records and values that a slot yields. -/

namespace Sys2Proof.Machine

/-! ### Aggregate table (Table 7.5a) -/

/-- An aggregate table entry. -/
structure AggEntry where
  upKey : Nat
  base : Nat
  w : Nat
  level : Nat
  f32 : Bool
  op : Nat
  deriving DecidableEq, Repr

/-- An up key with the reserved bits of Table 7.4 read as 0 (R8). -/
def keyOf (n : Nat) : Nat := if n = 0xFFFFFFFF then n else bits n 28 4 * 2 ^ 28 + bits n 0 19

/-- The entry that a U64 holds. -/
def aggEntry (n : Nat) : AggEntry :=
  { upKey := keyOf (bits n 32 32), base := bits n 16 16, w := bits n 13 3, level := bits n 11 2, f32 := bit n 10, op := bits n 6 4 }

/-- The entry of a slot; a slot beyond the table is unused. -/
def aggAt (t : List Byte) (slot : Nat) : AggEntry :=
  if 8 * slot + 8 ≤ t.length then aggEntry (leAt t (8 * slot) 8) else aggEntry 0

/-- The op of a key (Table 7.4). -/
def keyOp (k : Nat) : Nat := bits k 28 4

/-- The slot of a key. -/
def keySlot (k : Nat) : Nat := bits k 0 19

/-- Grains of a window. -/
def AggEntry.grains (e : AggEntry) : Nat := 16 * 2 ^ e.w

/-- The payload bytes of the largest record of an entry (Table 7.7). -/
def AggEntry.payloadMax (e : AggEntry) : Nat :=
  match e.op with
  | 1 => if e.f32 then 24 else 8
  | 2 => 8
  | 3 => 8
  | 4 => 0
  | 5 => 8 + 4 * e.grains
  | 6 => 128
  | _ => 8

/-- Every field of a used entry lies inside Table 7.5a (R184, R450); reserved bits are not judged (R8). [DEDUCED, assumption 29] -/
def aggFieldOk (n : Nat) : Bool :=
  let e := aggEntry n
  decide (e.level = 0) ||
    (decide (1 ≤ e.op) && decide (e.op ≤ 7) &&
      (e.op != 5 || (decide (e.w ≤ 6) && decide (e.base + e.grains ≤ 32514))))

/-- The checks of R184 on a standby aggregate table. -/
def aggTableOk (t : List Byte) : Bool :=
  let ns := (pieces 8 t).map leNat
  let es := ns.map aggEntry
  let upOk := fun (e : AggEntry) =>
    decide (e.level = 0) || decide (e.upKey = 0xFFFFFFFF) ||
      (decide (e.level ≠ 3) && decide (keyOp e.upKey = e.op) &&
        (let u := aggAt t (keySlot e.upKey)
         decide (u.level = e.level + 1) && decide (u.op = e.op) && decide (u.f32 = e.f32)))
  let size : Nat → Nat := fun lv =>
    128 + 8 * (if lv = 1 then 2 else 64) +
      ((es.filter (fun e => decide (e.level = lv) && decide (e.upKey ≠ 0xFFFFFFFF))).map (fun e => 16 + e.payloadMax)).sum
  decide (t.length % 8 = 0) && decide (ns.length ≤ 524288) && ns.all aggFieldOk && es.all upOk &&
    decide (size 1 ≤ 458752) && decide (size 2 ≤ 458752)

/-! ### Grains (R191) -/

/-- The grain code of a binary32 value that is no NaN: the position in its octave is the largest j with
(1 + f)^128 ≥ 2^j. -/
def grainCode (x : Nat) : Nat :=
  if f32Inf x && !f32Neg x then 32513
  else if f32Neg x || decide (f32Mag x < 2 ^ 23) then 0
  else
    let m := 2 ^ 23 + x % 2 ^ 23
    1 + 128 * (f32Mag x / 2 ^ 23 - 1) + ((m ^ 128).log2 - 23 * 128)

/-- The place of a code in a window. -/
def AggEntry.place (e : AggEntry) (code : Nat) : Nat := min (code - e.base) (e.grains - 1)

/-! ### Slots -/

/-- What a slot has gathered in one section. -/
structure SlotAcc where
  count : Nat
  conflict : Bool
  nan : Bool
  posInf : Bool
  negInf : Bool
  ovr : Bool
  /-- Sum: the accumulator. -/
  sum : Int
  /-- Minimum and maximum: the value, none while every value was NaN. -/
  val : Option Nat
  /-- Histogram: the NaN count and the grains by place. -/
  nans : Nat
  hist : NMap Nat
  /-- Top-16: value bits and identity, in descending order. -/
  top : List (Nat × Nat)
  /-- Single: value bits and identity. -/
  one : Option (Nat × Nat)
  deriving DecidableEq, Repr

/-- The identity of every op (R187). -/
def SlotAcc.zero : SlotAcc :=
  { count := 0, conflict := false, nan := false, posInf := false, negInf := false, ovr := false, sum := 0, val := none,
    nans := 0, hist := [], top := [], one := none }

/-- x is below y in the order of R190 for the value type. -/
def AggEntry.lt (e : AggEntry) (x y : Nat) : Bool := if e.f32 then f32Lt x y else decide (x < y)

/-- The addend of R189: the integer nearest to x × 2^96, and whether x is out of range. -/
def addend (x : Nat) : Int × Bool :=
  if f32NaN x || f32Inf x then (0, false)
  else if f32Sub x then (0, false)
  else
    let mag := f32Abs149 x
    if 2 ^ 212 ≤ mag then (0, true)
    else
      let r := divRne mag (2 ^ 53)
      (if f32Neg x then -(r : Int) else r, false)

/-- Put an entry into a descending list, ties in rising identity. -/
def topInsert (e : AggEntry) (x : Nat × Nat) : List (Nat × Nat) → List (Nat × Nat)
  | [] => [x]
  | y :: ys =>
    if e.lt y.1 x.1 || (!e.lt x.1 y.1 && decide (x.2 < y.2)) then x :: y :: ys else y :: topInsert e x ys

/-- The better of two values for minimum and maximum. -/
def AggEntry.pick (e : AggEntry) (x y : Option Nat) : Option Nat :=
  match x, y with
  | none, v => v
  | v, none => v
  | some a, some b => if (if e.op = 2 then e.lt b a else e.lt a b) then some b else some a

/-- The quiet NaN stands for every NaN (R190). -/
def quietNaN (e : AggEntry) (v : Nat) : Nat := if e.f32 && f32NaN v then qNaN else v

/-- Combine two single entries: the lower identity is kept. -/
def pickOne (x y : Option (Nat × Nat)) : Option (Nat × Nat) :=
  match x, y with
  | none, v => v
  | v, none => v
  | some a, some b => if b.2 < a.2 then some b else some a

/-- Add one leaf value (Table 7.7). -/
def SlotAcc.addValue (a : SlotAcc) (e : AggEntry) (v ident : Nat) : SlotAcc :=
  let isNaN := e.f32 && f32NaN v
  let a1 := { a with count := a.count + 1 }
  match e.op with
  | 1 =>
    if e.f32 then
      let r := addend v
      { a1 with sum := a1.sum + r.1, ovr := a1.ovr || r.2, nan := a1.nan || f32NaN v,
                posInf := a1.posInf || (f32Inf v && !f32Neg v), negInf := a1.negInf || (f32Inf v && f32Neg v) }
    else { a1 with sum := a1.sum + v }
  | 2 => { a1 with val := e.pick a1.val (if isNaN then none else some v) }
  | 3 => { a1 with val := e.pick a1.val (if isNaN then none else some v) }
  | 4 => a1
  | 5 =>
    if isNaN then { a1 with nans := a1.nans + 1 }
    else
      let p := e.place (grainCode (if e.f32 then v else natF32 v))
      { a1 with hist := mset (fun _ => 0) a1.hist p (mget (fun _ => 0) a1.hist p + 1) }
  | 6 => if isNaN then a1 else { a1 with top := (topInsert e (v, ident) a1.top).take 16 }
  | _ =>
    { a1 with conflict := a1.conflict || a1.one.isSome, one := pickOne a1.one (some (quietNaN e v, ident)) }

/-! ### Records (Table 7.6) -/

/-- An aggregate record: header and payload. -/
structure AggRec where
  key : Nat
  count : Nat
  flags : Nat
  payload : List Byte
  deriving DecidableEq, Repr

/-- The conflict, overrange, nan, pos_inf and neg_inf flags of a record, bits 0 to 4. -/
def SlotAcc.flagBits (a : SlotAcc) (e : AggEntry) : Nat :=
  let allNaN := decide (0 < a.count) &&
    (match e.op with
     | 1 => a.nan
     | 2 => a.val.isNone
     | 3 => a.val.isNone
     | 6 => a.top.isEmpty
     | 7 => match a.one with | some x => e.f32 && f32NaN x.1 | none => false
     | _ => false)
  (if a.conflict then 1 else 0) + (if a.ovr then 2 else 0) + (if allNaN || (e.op == 1 && a.nan) then 4 else 0) +
    (if a.posInf then 8 else 0) + (if a.negInf then 16 else 0)

/-- The payload of a slot (Table 7.7). -/
def SlotAcc.payload (a : SlotAcc) (e : AggEntry) : List Byte :=
  if a.count = 0 then []
  else match e.op with
    | 1 => if e.f32 then natLe 24 (unsigned 192 a.sum) else natLe 8 a.sum.toNat
    | 2 => natLe 8 (a.val.getD qNaN)
    | 3 => natLe 8 (a.val.getD qNaN)
    | 4 => []
    | 5 =>
      natLe 8 (e.base + e.w * 2 ^ 16 + a.nans * 2 ^ 32) ++
        (List.range e.grains).flatMap (fun g => natLe 4 (mget (fun _ => 0) a.hist g))
    | 6 => a.top.flatMap (fun x => natLe 8 (x.1 + x.2 * 2 ^ 32))
    | _ => match a.one with | some x => natLe 8 (x.1 + x.2 * 2 ^ 32) | none => []

/-- The record that a slot yields under `key`, none without contributions and conflict (R187). -/
def SlotAcc.record (a : SlotAcc) (e : AggEntry) (key : Nat) : Option AggRec :=
  if a.count = 0 ∧ a.conflict = false then none
  else some { key := key, count := a.count, flags := a.flagBits e, payload := a.payload e }

/-- A record as bytes (Table 7.6). -/
def AggRec.bytes (r : AggRec) : List Byte :=
  natLe 16 (r.key * 2 ^ 96 + r.count * 2 ^ 64 + r.payload.length / 8 * 2 ^ 48 + r.flags * 2 ^ 32) ++ r.payload

/-- The records in the bytes of a section; `fuel` bounds their number. -/
def parseRecs : Nat → List Byte → List AggRec
  | 0, _ => []
  | fuel + 1, b =>
    if b.length < 16 then []
    else
      let h := leNat (b.take 16)
      let len := 8 * bits h 48 16
      { key := bits h 96 32, count := bits h 64 32, flags := bits h 32 5, payload := slice b 16 len } ::
        parseRecs fuel (b.drop (16 + len))

/-- Value bits and identities of a payload of 8-byte entries. -/
def payPairs (p : List Byte) : List (Nat × Nat) := (pieces 8 p).map (fun x => (leAt x 0 4, leAt x 4 4))

/-- Add one record (R188, Table 7.7): with count 0 only its flags. -/
def SlotAcc.addRecord (a : SlotAcc) (e : AggEntry) (r : AggRec) : SlotAcc :=
  let a1 := { a with conflict := a.conflict || bit r.flags 0, ovr := a.ovr || bit r.flags 1,
                     posInf := a.posInf || bit r.flags 3, negInf := a.negInf || bit r.flags 4 }
  if r.count = 0 then a1
  else
    let a2 := { a1 with count := a1.count + r.count }
    let word := leAt r.payload 0 8
    match e.op with
    | 1 =>
      if e.f32 then { a2 with sum := a2.sum + signed 192 (leNat r.payload), nan := a2.nan || bit r.flags 2 }
      else { a2 with sum := a2.sum + word }
    | 2 => { a2 with val := e.pick a2.val (if bit r.flags 2 then none else some (word % 2 ^ 32)) }
    | 3 => { a2 with val := e.pick a2.val (if bit r.flags 2 then none else some (word % 2 ^ 32)) }
    | 4 => a2
    | 5 =>
      let base := bits word 0 16
      let gs := (pieces 4 (r.payload.drop 8)).map leNat
      { a2 with nans := a2.nans + bits word 32 32,
                hist := (gs.foldl (fun (acc : NMap Nat × Nat) n =>
                  (if n = 0 then acc.1
                   else
                     let p := e.place (base + acc.2)
                     mset (fun _ => 0) acc.1 p (mget (fun _ => 0) acc.1 p + n), acc.2 + 1)) (a2.hist, 0)).1 }
    | 6 => { a2 with top := ((payPairs r.payload).foldl (fun t x => topInsert e x t) a2.top).take 16 }
    | _ =>
      let x := (payPairs r.payload).head?
      { a2 with conflict := a2.conflict || (a2.one.isSome && x.isSome), one := pickOne a2.one x }

/-! ### Reading a slot -/

/-- A sum as binary32: the accumulator rounded once; none when it reads as missing (R189). -/
def SlotAcc.sumF32 (a : SlotAcc) : Option Nat :=
  if a.nan || a.ovr || (a.posInf && a.negInf) then none
  else if a.posInf then some Sys2Proof.Machine.posInf
  else if a.negInf then some (Sys2Proof.Machine.posInf + 2 ^ 31)
  else some (roundF32 (decide (a.sum < 0)) a.sum.natAbs (2 ^ 96))

end Sys2Proof.Machine
end

