-- ==== Sys2Proof/Machine/TreeState.lean ====
section
/-! DEFINITION. What a channel keeps as a parent of the reduction tree (chapters Reduction, Bring-Up): its children with
their partial packets and credits, the sections it adds into, what it has added, what it still owes an acknowledgement
for, and the rehoming and joining under way. -/

namespace Sys2Proof.Machine

/-- A packet being assembled from data fragments (R177). -/
structure Partial where
  frame : Nat
  replay : Bool
  got : List (Option Byte)
  deriving DecidableEq, Repr

/-- Leaf sets: channel identifier to own bits and slots (Table 7.5). -/
abbrev LeafSet := NMap Nat

/-- What a child is: a leaf at a position, a channel, or the sender of packets of late blocks during an adoption that
this node answered (R205). -/
inductive ChildKind where
  | leaf
  | chan
  | guest
  deriving DecidableEq, Repr

/-- One child of a channel (R178, R179, R208). -/
structure Child where
  addr : Word
  kind : ChildKind
  /-- Position of a leaf, 0 to 23 home and 24 to 47 adopted. -/
  pos : Nat
  /-- The child belongs to the subtree as a member (R208, R390). -/
  member : Bool
  /-- An adopter serves the member (R202 step 3). -/
  away : Bool
  /-- A leaf of another home channel, or a channel that attached after a loss (R202, R203). -/
  adopted : Bool
  /-- Control fragments are sent to it (R179). -/
  attached : Bool
  /-- The first control fragment, with 16 credits and these entries, is still to be sent (R178, R202 step 5). -/
  entries : Option (List RelEntry)
  /-- Credits granted and not used; and buffers freed, to be returned in the next control fragment. -/
  held : Nat
  give : Nat
  /-- The level of the slots that its records feed: 1 leaf, 2 channel, 3 pod root (R186). -/
  level : Nat
  parts : List Partial
  /-- Frames of which a packet has been received, inside the late horizon (R179). -/
  got : List Nat
  /-- Oldest frame that it is acknowledged for, none before its first packet. -/
  base : Option Nat
  /-- The entry frames that count as present (R202 step 5). -/
  present : List RelEntry
  /-- Where its replayed data go as late blocks, with the number of mappings (R205), and the frame of its attach. -/
  answerer : Option (Word × Nat)
  since : Nat
  /-- Consecutive missed deadlines, the first missed frame (R201), and whether leaf_absent was recorded for the run. -/
  missed : Nat
  missFrom : Nat
  absentMade : Bool
  /-- Consecutive frames without a fragment, and whether one, or an answered query, came in the open frame (R398). -/
  quiet : Nat
  heard : Bool
  /-- The apply frame of the withdrawal that it is in (R395), and the steps taken. -/
  leaving : Option Nat
  leaveStep : Nat
  /-- The parent's copy of the leaf's active series table and its apply frame (R182). -/
  epoch : Option Nat
  table : List Byte
  /-- Complete packets that wait for the series table (R182). -/
  waits : List (List Byte)
  /-- The members and member_channels fields and the leaf set of its last packet (Table 7.2, Table 7.3), and its pod number (R390); of
  an adopted leaf, the pod of its home channel (R98). -/
  members : Nat
  memberChannels : Nat
  set : LeafSet
  pod : Nat
  deriving DecidableEq, Repr

/-- A child just met. -/
def Child.fresh (addr : Word) (kind : ChildKind) (pos level : Nat) : Child :=
  { addr := addr, kind := kind, pos := pos, member := false, away := false, adopted := false, attached := false,
    entries := none, held := 0, give := 0, level := level, parts := [], got := [], base := none, present := [],
    answerer := none, since := 0, missed := 0, missFrom := 0, absentMade := false, quiet := 0, heard := false,
    leaving := none, leaveStep := 0, epoch := none, table := [], waits := [], members := 0, memberChannels := 0, set := [], pod := 0xFF }

/-- A section being added into, or released and kept for late data (R187, R194, R195, R197). -/
structure Sec where
  uid : Nat
  frame : Nat
  level : Nat
  slots : NMap SlotAcc
  sets : LeafSet
  contributors : Nat
  shortBelow : Bool
  /-- Its packet has been sent, or its aggregate handed out: later data are late. -/
  done : Bool
  /-- The reduction engine has overrun on it (Table 2.3): later data are late. -/
  cut : Bool
  deriving DecidableEq, Repr

/-- A late block being formed (R195): where it rides (none: the node's own next packet) and how many up keys each
record is mapped through before it is written (R205). -/
structure LateSec where
  sec : Sec
  dst : Option Word
  maps : Nat
  deriving DecidableEq, Repr

/-- Data that the node has added (R194): frame, level, the child that sent it, and its leaf set. -/
structure Added where
  frame : Nat
  level : Nat
  src : Word
  set : LeafSet
  deriving DecidableEq, Repr

/-- A section of a child's packet that is not acknowledged yet (R199): the child and its packet's frame, the section of
this node that took it, and the packet in which that section went up. -/
structure Owe where
  child : Word
  frame : Nat
  uid : Nat
  pkt : Option (Option Word × Nat)
  deriving DecidableEq, Repr

/-- A release query under way (R202): the child that attaches, the parent it leaves, whether the query has gone to this
node's own parent, and the frame of the first query. -/
structure Ask where
  child : Word
  left : Word
  onward : Bool
  frame : Nat
  /-- A leaf that joins again (R388): what it replays goes up this node's own tree. -/
  own : Bool
  deriving DecidableEq, Repr

/-- A query that this node answered (R202 step 3, R205): from the parent left no section naming these leaves up to frame
`upTo` is accepted; the new parent sends late blocks here while the adoption is in force. -/
structure Grant where
  left : Word
  origin : Word
  leaves : LeafSet
  upTo : Nat
  level : Nat
  active : Bool
  deriving DecidableEq, Repr

/-- A section that ends at the channel (Table 7.3), with the frame to which it counts: section number, source, position
and bytes. -/
structure Rider where
  sec : Nat
  frame : Nat
  src : Word
  pos : Nat
  late : Bool
  data : List Byte
  deriving DecidableEq, Repr

/-- What was in force at the opening of a frame (R96, Table 7.2). -/
structure Opened where
  frame : Nat
  tag : Nat
  part : Nat
  deriving DecidableEq, Repr

/-- The parent side of the tree in one channel. -/
structure Tree where
  children : List Child
  secs : List Sec
  late : List LateSec
  added : List Added
  owes : List Owe
  nextUid : Nat
  /-- The tree role, and the active aggregate table, from their apply frames on, newest first (R24, R184). -/
  roles : List (Nat × Nat)
  tables : List (Nat × List Byte)
  opened : List Opened
  asks : List Ask
  grants : List Grant
  riders : List Rider
  /-- Acknowledgement records that reach the fleet root in pod packets (R101). -/
  rootAcks : List AckRec
  /-- Assay records to forward (R170), each with the frame whose packet carries it. -/
  assayUp : List (Nat × List Byte)
  /-- Positions and addresses refused at a join, with the frame from which they are checked again (R386). -/
  refused : List (Word × Nat × Nat)
  /-- The uplink port on which a channel attached last: true for port 1. -/
  ports : List (Word × Bool)
  deriving DecidableEq, Repr

/-- No child and nothing added. -/
def Tree.reset : Tree :=
  { children := [], secs := [], late := [], added := [], owes := [], nextUid := 1, roles := [], tables := [], opened := [],
    asks := [], grants := [], riders := [], rootAcks := [], assayUp := [], refused := [], ports := [] }

end Sys2Proof.Machine
end

