-- ==== Sys2Proof/Machine/ChanState.lean ====
section
/-! DEFINITION. One channel of the tray build: the state of its units (Table 1.6). -/

namespace Sys2Proof.Machine

/-- What a channel does when the responses to a chain of its own requests have come. -/
inductive Purpose where
  /-- The checks of a join (R386, R390). -/
  | joinCheck (child : Word) (pos : Nat)
  /-- The standby tables of a joining leaf are written and a join transaction is staged (R387). -/
  | joinStage (child : Word)
  /-- A commit of the join (R387). -/
  | joinCommit (child : Word)
  /-- A changed series table is read (R182). -/
  | seriesTable (child : Word)
  /-- Actions of the rule engine: the pairs of rule and subject, with the frame from which their image is active (R271). -/
  | ruleTxn (swapAt : Nat) (subjects : List (Nat × Nat))
  /-- Granted wakes of a leaf (R368): regions by number. -/
  | wakeTxn (regions : List Nat)
  /-- Permanent fencing of a core (R355): the core's location. -/
  | fenceTxn (loc : Nat)
  /-- The tree role of the role successor is read (R392). -/
  | successor
  /-- A trigger sent to a leaf (R311): its refusal is counted. -/
  | trigger
  /-- Any other transaction or write that the channel sends, whose answer changes nothing here. -/
  | plain
  deriving DecidableEq, Repr

/-- One request of a chain: an opcode with items and body; `inTxn` carries the chain's transaction number. -/
structure ROp where
  op : Nat
  inTxn : Bool
  items : List Item
  body : List Byte
  deriving DecidableEq, Repr

/-- A chain of requests to one node, the head of `ops` in flight under `seq`; `txn` is the number that its TXN_OPEN
gave, and `got` the bytes read so far. -/
structure Remote where
  dst : Word
  ops : List ROp
  seq : Nat
  txn : Nat
  got : List Byte
  purpose : Purpose
  /-- What its transaction writes, and the apply frame (R94). -/
  writes : List Wr
  apply : Nat
  deriving DecidableEq, Repr

/-- A rule input that waits to be read (R264): the frame in which the rule engine reads it, its code, the node it comes
from (a leaf identifier, or the channel's own), its argument and payload (Table 10.3). -/
structure RuleIn where
  at_ : Nat
  code : Nat
  node : Nat
  arg : Nat
  payload : List Byte
  deriving DecidableEq, Repr

/-- One of the 2 × R sums of a key (R171). -/
structure ASum where
  digest : Nat
  count : Nat
  damaged : Bool
  incomplete : Bool
  deriving DecidableEq, Repr

/-- An open key (R171): sums by replica × 2 + side, and the frame in which the last of them completed. -/
structure AKey where
  group : Nat
  tensor : Nat
  epoch : Nat
  opened : Nat
  sums : NMap ASum
  ready : Option Nat
  deriving DecidableEq, Repr

/-- The comparison of weight digests (R169 to R173): open keys, keys already closed, and one more than the frame of each
group's last agreement (R278). -/
structure AssayCmp where
  keys : List AKey
  closed : List (Nat × Nat × Nat)
  agreed : NMap Nat
  deriving DecidableEq, Repr

/-- A record of a channel's flash (R91, R349): whose object it is, its value, the transaction whose pending copy it is, and whether no
restore takes it any more: its check fails, or its transaction ended without applying. Older records of an object stay until the area is
compacted. -/
structure FlashRec where
  node : Word
  key : Nat
  v : Val
  pend : Option (Word × Word)
  dead : Bool
  deriving DecidableEq, Repr

/-- A series state record (Table 8.6); the values are binary32 patterns. -/
structure SerState where
  level : Nat
  trend : Nat
  variance : Nat
  cpos : Nat
  cneg : Nat
  value : Nat
  count : Nat
  update : Nat
  alarm : Nat
  updates : Nat
  gaps : Nat
  alarms : Nat
  /-- 0 empty, 1 warming, 2 running. -/
  state : Nat
  deriving DecidableEq, Repr

/-- An empty series. -/
def SerState.empty : SerState :=
  { level := 0, trend := 0, variance := 0, cpos := 0, cneg := 0, value := 0, count := 0, update := 0, alarm := 0,
    updates := 0, gaps := 0, alarms := 0, state := 0 }

/-- A hand-off record (Table 8.5). -/
structure Handoff where
  value : Nat
  forecast : Nat
  z : Nat
  qpos : Nat
  qneg : Nat
  tag : Nat
  changed : Bool
  down : Bool
  up : Bool
  state : Nat
  deriving DecidableEq, Repr

/-- An entry of the drift list (R222). -/
structure Drift where
  series : Nat
  down : Bool
  acc : Nat
  deriving DecidableEq, Repr

/-- The series unit: states and hand-off records by series index, and the drift list of the update frame. -/
structure Series where
  states : NMap SerState
  hand : NMap Handoff
  drift : List Drift
  deriving DecidableEq, Repr

/-- A row of the row store (R233, R238): its codes, and whether it read a stale source (R235). -/
structure RowRec where
  codes : List Nat
  missing : Nat
  stale : Bool
  deriving DecidableEq, Repr

/-- The last build of a row set (R232, R233): its frame, its data frame, and the rows that were built. -/
structure SetBuild where
  frame : Nat
  data : Nat
  rows : NMap RowRec
  deriving DecidableEq, Repr

/-- A score record (Table 9.8). -/
structure Score where
  score : Nat
  tag : Nat
  missing : Nat
  state : Nat
  deriving DecidableEq, Repr

/-- The facet stage and the balance engine: the last build of each row set, and the score records by row set × 65,536 +
row. -/
structure Balance where
  builds : NMap SetBuild
  scores : NMap Score
  deriving DecidableEq, Repr

/-- A barrier record taken in (R254): the serving position, the leaf and the core, its frame and arrival offset in ns. -/
structure LRec where
  pos : Nat
  leaf : Nat
  core : Nat
  frame : Nat
  arrival : Nat
  deriving DecidableEq, Repr

/-- A barrier instance (R254): identifier, first data frame, records, and once closed the data frame of its close. -/
structure LInst where
  ident : Nat
  first : Nat
  recs : List LRec
  closed : Option Nat
  deriving DecidableEq, Repr

/-- What a leaf's packet of a data frame said beside its records (R255): expected set, incomplete identifiers. -/
structure LHist where
  frame : Nat
  pos : Nat
  leaf : Nat
  expected : Nat
  incomplete : List Nat
  deriving DecidableEq, Repr

/-- A laggard entry (Table 10.1). -/
structure LEntry where
  score : Nat
  instances : Nat
  hits : Nat
  late : Nat
  suspect : Bool
  grace : Bool
  deriving DecidableEq, Repr

/-- An entry at reset. -/
def LEntry.zero : LEntry := { score := 0, instances := 0, hits := 0, late := 0, suspect := false, grace := false }

/-- The laggard scorer: open instances in order of opening, closed ones still to be scored, packets of the window,
entries by position × 1,024 + core, cores named by core_lost (true) and fence_unacked inputs with leaf and frame (R258), and
whether the entries of positions 24 to 47 belong to an adoption (R260); `stale` is a frame of overrun (R262). `marks` tells
which rule's suspect action a later suspect_set carries: apply frame, core or leaf, unit, rule (Table 14.9, kind 0x09). -/
structure Lag where
  insts : List LInst
  closed : List LInst
  hist : List LHist
  entries : NMap LEntry
  lost : List (Nat × Nat × Nat × Bool)
  adopting : Bool
  stale : Bool
  marks : List (Nat × Bool × Nat × Nat)
  deriving DecidableEq, Repr

/-- No instance and no entry. [DEDUCED, assumption 50] -/
def Lag.reset : Lag :=
  { insts := [], closed := [], hist := [], entries := [], lost := [], adopting := false, stale := false,
    marks := [] }

/-- The last value that the channel has committed to an RWT object of a leaf (R94), with the frame of the commit and the
apply frame. -/
structure Known where
  leaf : Word
  key : Nat
  v : Val
  at_ : Nat
  apply : Nat
  /-- The channel has committed it itself (R94); else it passed through. -/
  own : Bool
  deriving DecidableEq, Repr

/-- A request on a transaction of a leaf that another source sends through this channel (R84): a TXN_STAGE with its writes, or a
TXN_COMMIT with its apply frame; `answered` when the leaf has answered OK. What the channel forwards is how it knows of commands that it
has not raised (R128, R366, R368, R369, R372). -/
structure Passing where
  leaf : Word
  src : Word
  num : Word
  seq : Word
  writes : List (Nat × Val)
  commit : Option Nat
  answered : Bool
  deriving DecidableEq, Repr

/-- A subject of a rule (Table 10.7): 0 idle, 1 pending, 2 latched; the counter c; one more than the frame of its last
admission, 0 none. -/
structure Subj where
  state : Nat
  c : Nat
  last : Nat
  deriving DecidableEq, Repr

/-- Idle with c = 0. -/
def Subj.idle : Subj := { state := 0, c := 0, last := 0 }

/-- An admitted action that waits for its transaction (R271): its rule, subject and unit, its image's swap frame, the
target block (none: the channel itself), the apply frame and the items. -/
structure Adm where
  rule : Nat
  subject : Nat
  kind : Nat
  unit : Nat
  swapAt : Nat
  dst : Option Word
  apply : Nat
  items : List Wr
  /-- The blocks that a fleet write names (Table 10.8, kind 0x6). -/
  target : Nat
  deriving DecidableEq, Repr

/-- A step submitted to the loss monitor (R275): its number, loss and gradient norm as binary32 patterns, and the frame
of acceptance. -/
structure LossStep where
  step : Nat
  loss : Nat
  grad : Nat
  frame : Nat
  deriving DecidableEq, Repr

/-- The rule engine and the loss monitor: subjects by rule × 65,536 + subject, tokens spent by rule, the frame from which
the image is active and that of the last evaluation, admitted actions, the window and the step map, newest first. -/
structure Rules where
  subj : NMap Subj
  spent : NMap Nat
  swapAt : Nat
  lastEval : Nat
  admitted : List Adm
  /-- Notifications that admitted actions will send, with their subscribers (Table 10.8). -/
  notes : List (List Byte × Nat)
  window : List LossStep
  steps : List (Nat × Nat)
  deriving DecidableEq, Repr

/-- No image and no step. [DEDUCED, assumption 50] -/
def Rules.reset : Rules :=
  { subj := [], spent := [], swapAt := 0, lastEval := 0, admitted := [], notes := [], window := [], steps := [] }

/-- A wake that waits (R366): a rule entry names its rule and subject. -/
structure WakeReq where
  pos : Nat
  region : Nat
  notBefore : Nat
  rule : Option (Nat × Nat)
  deriving DecidableEq, Repr

/-- The wake pacer (R365 to R369): level in milli-tokens, queue, granted requests with the frame of the grant, granted
rule entries with their cost, milli-tokens to be returned at the next tick, transactions to be retried (leaf, regions), and
the frame of the last admitted or applied change of a region (R128). -/
structure Pacer where
  level : Nat
  queue : List WakeReq
  grants : List (Nat × Nat × Nat)
  rules : List (WakeReq × Nat)
  back : Nat
  retry : List (Word × List Nat × Nat)
  changed : Option Nat
  /-- Apply frames of region changes that other sources have committed, still to open (R128). -/
  moves : List Nat
  deriving DecidableEq, Repr

/-- Empty (R365). -/
def Pacer.reset : Pacer := { level := 0, queue := [], grants := [], rules := [], back := 0, retry := [], changed := none, moves := [] }

/-- A queue of egress (R286 to R293): packets with their length L, next sequence, drops, start tag, and the policer in
force with its two buckets in milli-bytes. -/
structure EQueue where
  pkts : List (Nat × List Byte)
  seq : Nat
  policed : Nat
  tails : Nat
  tag : Nat
  mode : Nat
  size1 : Nat
  size2 : Nat
  t1 : Nat
  t2 : Nat
  deriving DecidableEq, Repr

/-- An empty queue without a policer. -/
def EQueue.reset : EQueue :=
  { pkts := [], seq := 0, policed := 0, tails := 0, tag := 0, mode := 0, size1 := 0, size2 := 0, t1 := 0, t2 := 0 }

/-- A shaper in force (R294): level in milli-bytes, rate and size. -/
structure Shaper where
  on : Bool
  level : Int
  rate : Nat
  size : Nat
  deriving DecidableEq, Repr

/-- No shaper. -/
def Shaper.off : Shaper := { on := false, level := 0, rate := 0, size := 0 }

/-- A subscriber of egress (R291, R292): virtual time, start tag, whether it is active, its shaper, and whether it is
away from its home port (R299). -/
structure ESub where
  virt : Nat
  tag : Nat
  active : Bool
  shaper : Shaper
  moved : Bool
  deriving DecidableEq, Repr

/-- An idle subscriber on its home port. -/
def ESub.reset : ESub := { virt := 0, tag := 0, active := false, shaper := Shaper.off, moved := false }

/-- An uplink port: virtual time, shaper, and consecutive frames for which its link has been up (R299). -/
structure EPort where
  virt : Nat
  shaper : Shaper
  up : Nat
  deriving DecidableEq, Repr

/-- A port at reset. -/
def EPort.reset : EPort := { virt := 0, shaper := Shaper.off, up := 0 }

/-- A hand-off of a boundary, which waits for the refill of that boundary (R285, R295): queue, frame, content, pre-colour,
payloads in part order. -/
structure HandOff where
  queue : Nat
  frame : Nat
  content : Nat
  colour : Nat
  payloads : List (List Byte)
  deriving DecidableEq, Repr

/-- Egress: queues by 16 × subscriber + service, subscribers, the two ports; whether a boundary is under way whose refill is
still to come, and its hand-offs (R295). -/
structure Egress where
  queues : NMap EQueue
  subs : NMap ESub
  port0 : EPort
  port1 : EPort
  boundary : Bool
  waits : List HandOff
  deriving DecidableEq, Repr

/-- Empty (R300). -/
def Egress.reset : Egress :=
  { queues := [], subs := [], port0 := EPort.reset, port1 := EPort.reset, boundary := false, waits := [] }

/-- A request of the memory master port that awaits its response (R425): the client (mover 0 to 7, compressor 8,
decompressor 9), whether it writes, its place among the client's requests, its line, and whether it has timed out. The kind
tells what the response is for: 0 a descriptor, 1 source data, 2 destination data, 3 a written status. -/
structure MReq where
  client : Nat
  kind : Nat
  idx : Nat
  line : Nat
  dead : Bool
  deriving DecidableEq, Repr

/-- What a client of the memory is doing. -/
inductive DPhase where
  | idle
  /-- A descriptor is being read. -/
  | fetch
  /-- Source bytes are being read. -/
  | read
  /-- Destination bytes are being written. -/
  | write
  /-- The status is being written back. -/
  | back
  deriving DecidableEq, Repr

/-- A client of the memory (R339, R332): the descriptor's control word, source, destination, length and link; source bytes
by index; the bytes to write; requests made on each side, requests awaiting their responses, and the first byte that
failed on each side; the status that is being written back. -/
structure Dma where
  phase : DPhase
  control : Nat
  src : Nat
  dst : Nat
  len : Nat
  next : Nat
  got : NMap Byte
  data : List Byte
  asked : Nat
  sent : Nat
  live : Nat
  readFault : Option Nat
  writeFault : Option Nat
  status : Nat
  deriving DecidableEq, Repr

/-- A client at rest. -/
def Dma.idle : Dma :=
  { phase := .idle, control := 0, src := 0, dst := 0, len := 0, next := 0, got := [], data := [], asked := 0, sent := 0,
    live := 0, readFault := none, writeFault := none, status := 0 }

/-- The memory of a channel that movers and Carat jobs reach (R337): the two mover windows, the clients, and the requests
outstanding on the memory master port by request number; `turn` is the client that is served next (R344). -/
structure Mem where
  sram : NMap Byte
  dram : NMap Byte
  clients : NMap Dma
  reqs : NMap MReq
  turn : Nat
  deriving DecidableEq, Repr

/-- Nothing written, nothing moving. [DESIGN CHOICE, assumption 7] -/
def Mem.reset : Mem := { sram := [], dram := [], clients := [], reqs := [], turn := 0 }

/-- A Carat job (Table 13.6). -/
structure Job where
  src : Nat
  dst : Nat
  len : Nat
  cap : Nat
  op : Nat
  tag : Nat
  deriving DecidableEq, Repr

/-- A native stream of an output stream (R320, R331): kind, identifier, raw bytes not sealed yet, whether it has ended,
whether its header has been handed off, and data blocks sealed. -/
structure NStream where
  kind : Nat
  id : Nat
  raw : List Byte
  ended : Bool
  headed : Bool
  blocks : Nat
  deriving DecidableEq, Repr

/-- A trace fetch (R329): the leaf, the next offset, and whether a read awaits its answer. -/
structure Fetch where
  leaf : Word
  offset : Nat
  waiting : Bool
  deriving DecidableEq, Repr

/-- An output stream: its native streams, oldest first (only the last may be open), streams begun, chunks in the open one,
the fetch under way, and the reads made in the frame. -/
structure OStream where
  streams : List NStream
  begun : Nat
  chunks : Nat
  fetch : Option Fetch
  reads : Nat
  deriving DecidableEq, Repr

/-- No stream. -/
def OStream.reset : OStream := { streams := [], begun := 0, chunks := 0, fetch := none, reads := 0 }

/-- Carat in a channel: output streams, the source served next, waiting jobs, the job that each unit works on, and results,
oldest first. -/
structure Carat where
  streams : NMap OStream
  turn : Nat
  jobs : List Job
  comp : Option Job
  decomp : Option Job
  /-- Turns that the compress job has had (R334). -/
  sealedBlocks : Nat
  results : List (List Byte)
  deriving DecidableEq, Repr

/-- Nothing to do. -/
def Carat.reset : Carat := { streams := [], turn := 0, jobs := [], comp := none, decomp := none, sealedBlocks := 0, results := [] }

/-- An entry of the location table (R353), keyed by loc_kind × 2^48 + location: class, events, the frames of the latest two,
the frame of its last logged event plus 1, its latest record, and the order in which it was heard. -/
structure FLoc where
  perm : Bool
  events : Nat
  latest : Nat
  before : Nat
  logged : Nat
  record : List Byte
  heard : Nat
  deriving DecidableEq, Repr

/-- The fault history store (R353 to R357): the location table, entries waiting for flash (record, class, entry type), the
log and the firmware log in flash, oldest first, their next sequence numbers, the counter of events heard, and cores to be
fenced for good (leaf identifier, core). -/
structure Hist where
  locs : NMap FLoc
  waits : List (List Byte × Bool × Nat)
  log : List (List Byte)
  seq : Nat
  fw : List (List Byte)
  fwSeq : Nat
  heard : Nat
  fences : List (Nat × Nat)
  deriving DecidableEq, Repr

/-- An empty store. -/
def Hist.reset : Hist := { locs := [], waits := [], log := [], seq := 0, fw := [], fwSeq := 0, heard := 0, fences := [] }

/-- A join under way (R386, R387, R390): the address by which the joiner is spoken to, its position (31 for a channel),
the frame J of its attach, transactions still to be committed, the apply frame A_j once chosen, whether every one is
committed, and for a leaf that takes a leaf reset its standby parent (R388). -/
structure Join where
  dst : Word
  pos : Nat
  frame : Nat
  txns : List (List Wr)
  apply : Nat
  done : Bool
  standby : Nat
  deriving DecidableEq, Repr

/-- A pod's share of the expected count of a fleet transaction (R101): its nodes at P, those of them that the leaf set of its packet
named, and how many have been removed since. -/
structure PodShare where
  pod : Nat
  count : Nat
  set : NMap Nat
  gone : Nat
  deriving DecidableEq, Repr

/-- A fleet transaction at the fleet root (R97 to R107): the request's way, source and number; the acceptance frame; E
with the nodes removed since; per pod in scope the members last seen; the decision; the apply frame of the last COMPENSATE,
0 none; the partition map before it applied; and whether its count is complete, so that it is no longer in flight. -/
structure FleetTx where
  seq : Word
  body : FleetBody
  items : List Item
  way : Way
  src : Word
  num : Word
  accepted : Nat
  expected : Nat
  /-- The nodes counted in `expected`, pod by pod, and those of them whose removal has reached the root (R101). -/
  shares : List PodShare
  decided : Option Bool
  compAt : Nat
  /-- The frame in which COMPENSATE was last sent (R105). -/
  sentAt : Nat
  mapPrior : List (Nat × Nat)
  counted : Bool
  deriving DecidableEq, Repr

/-- A channel's window at the host port (Table 17.9): latched upper frame bits, enables, mailbox control and pointers, the
request and response words, and the number of the request in execution. -/
structure Win where
  frameHi : Nat
  evtEnable : BitVec 8
  errEnable : BitVec 8
  goRefused : Bool
  busy : Bool
  rspReady : Bool
  reqLen : Nat
  rspLen : Nat
  wptr : Nat
  rptr : Nat
  req : NMap Nat
  rsp : NMap Nat
  deriving DecidableEq, Repr

/-- Every register of the window at its reset value (R421). [DESIGN CHOICE, assumption 6] -/
def Win.reset : Win :=
  { frameHi := 0, evtEnable := 0xFF, errEnable := 0xFF, goRefused := false, busy := false, rspReady := false, reqLen := 0,
    rspLen := 0, wptr := 0, rptr := 0, req := [], rsp := [] }

/-- The fabric ports and the start of a channel (R378 to R382): ports whose PHY is up and that are being qualified, ports
judged since the cold start, whether the restore phase has ended, lanes per port in force, and the failing places and lane
counts that still owe a fault record: kind, loc_kind, location without its channel, frame (0 for the first frame), detail. -/
structure Start where
  lanes : Nat
  qualifying : List Nat
  judged : List Nat
  restored : Bool
  owed : List (Nat × Nat × Nat × Nat × Nat)
  deriving DecidableEq, Repr

/-- Nothing up, nothing tested. -/
def Start.reset : Start := { lanes := 8, qualifying := [], judged := [], restored := false, owed := [] }

/-- A channel. -/
structure Chan where
  joins : List Join
  /-- The role successor has been asked for its role in this frame (R392). -/
  roleAsk : Option Nat
  /-- The apply frame of the channel's own withdrawal (R397). -/
  leaveAt : Option Nat
  /-- The frame at whose opening the channel claims the clasp (R403), and whether a heartbeat was accepted in the open
  frame (R402). -/
  claimAt : Option Nat
  beat : Bool
  /-- Three frames without an accepted heartbeat have closed: the channel claims in this frame (R402). -/
  claimDue : Bool
  /-- The die temperature has reached the warning threshold and not fallen 5 °C below it since (R362). -/
  hot : Bool
  /-- Triggers to be sent at the opening of the next frame (R311): positions, one bit each. -/
  triggers : List Nat
  root : List FleetTx
  win : Win
  /-- Responses to sideband requests that have not been read, oldest first (R86). -/
  side : List (List Byte)
  start : Start
  mem : Mem
  car : Carat
  hist : Hist
  known : List Known
  passing : List Passing
  rul : Rules
  pac : Pacer
  egr : Egress
  lag : Lag
  bal : Balance
  /-- Work left over by a unit in the open frame (R40): the unit, the frame declared and the amount. -/
  ovr : List (Unt × Nat × Nat)
  ser : Series
  b : Blk
  tree : Tree
  rem : List Remote
  asy : AssayCmp
  flash : List FlashRec
  inputs : List RuleIn
  /-- Fault records that the fault history takes in this frame (R352). -/
  faultIn : List (List Byte)
  deriving DecidableEq, Repr

/-- A channel of a tray whose rst_por_n is low. Its identifier is the default of Table 1.3: its place, under tray number 0. -/
def Chan.reset (place : Nat) : Chan :=
  { joins := [], roleAsk := none, leaveAt := none, claimAt := none, beat := false, claimDue := false, hot := false, triggers := [], root := [],
    win := Win.reset, side := [], start := Start.reset, mem := Mem.reset, car := Carat.reset, hist := Hist.reset, known := [], passing := [],
    rul := Rules.reset, pac := Pacer.reset, egr := Egress.reset, lag := Lag.reset, bal := { builds := [], scores := [] },
    ovr := [], ser := { states := [], hand := [], drift := [] }, b := { Blk.reset false place with store := if place = 0 then [] else [(K.channelId, .num place)] }, tree := Tree.reset, rem := [],
    asy := { keys := [], closed := [], agreed := [] }, flash := [], inputs := [], faultIn := [] }

/-- The latest record of every object in a list that holds the later ones further on. -/
def newest : List FlashRec → List FlashRec
  | [] => []
  | r :: rs => if rs.any (fun x => x.node == r.node && x.key == r.key) then newest rs else r :: newest rs

/-- The latest current record of every object (R349). -/
def Chan.currentRecs (c : Chan) : List FlashRec := newest (c.flash.filter (fun x => x.pend.isNone && !x.dead))

end Sys2Proof.Machine
end

