-- ==== Sys2Proof/Machine/Link.lean ====
section
/-! DEFINITION. The child's side of the reduction tree, which a leaf and a channel share: the frame journal, fragments,
credits, loss of a parent, attach, replay and return (R176 to R179, R198, R201, R202, R204 to R207). -/

namespace Sys2Proof.Machine

/-- The channel identifier that stands for no channel (R21). -/
abbrev noChan : Nat := 0xFFFF

/-- The address to which a leaf without a parent attaches: its serving position (R386). -/
abbrev servingPosition : Word := 0x1000FFFF

/-- The parent in use (0x1000:08). -/
def Blk.inUse (b : Blk) : Nat := b.num K.parentInUse

/-! ### Journal (R198) -/

/-- Write a packet into the journal; without a free slot the oldest is overwritten and counted. -/
def Blk.journalPut (b : Blk) (e : JEntry) : Blk :=
  if b.num K.journalSlots ≤ b.journal.length then
    let b1 : Blk := { b with journal := b.journal.drop 1 ++ [e] }
    b1.bump K.journalOverwrites
  else { b with journal := b.journal ++ [e] }

/-- A packet just made. -/
def JEntry.fresh (frame : Nat) (dst : Option Word) (data : List Byte) (sets : List (Nat × List SetEntry)) : JEntry :=
  { frame := frame, dst := dst, data := data, sets := sets, pending := true, replay := false, again := false,
    held := false, next := 0 }

/-- A cumulative acknowledgement frees the slots of frames up to `g` for a receiver (R179, R198). -/
def Blk.journalAck (b : Blk) (dst : Option Word) (g : Nat) : Blk :=
  { b with journal := b.journal.filter (fun e => !(e.dst == dst && decide (e.frame ≤ g))) }

/-- The bytes of a packet with its short flag set (Table 7.2, bit 864). -/
def markShort (d : List Byte) : List Byte := natLe 128 (leNat (d.take 128) ||| 2 ^ 864) ++ d.drop 128

/-- UNIT_OVERRUN of the journal write (Table 2.3): the packet of `f`, which is not written yet, carries the short flag (R42) and
waits for the next frame. -/
def Blk.overrunJournal (b : Blk) (f : Nat) : Blk :=
  let b1 : Blk := { b with journal := b.journal.map (fun e =>
    if e.frame = f ∧ e.dst = none then { e with held := true, data := markShort e.data } else e) }
  b1.declareShort f causeJournal

/-! ### Presence (R202 step 3, R204) -/

/-- The data of a leaf of frame `f` is present by its entry. -/
def relHas (e : RelEntry) (f : Nat) : Bool :=
  decide (f < e.base.toNat) || e.bits.toNat.testBit (f - e.base.toNat)

/-- The leaf identifier of a slot of a channel (Table 1.1). -/
def leafIdOf (channel slot : Nat) : Nat := channel % 8192 * 32 + slot

/-- A leaf set entry is present: no own bit, and every leaf named and present. -/
def setPresent (es : List RelEntry) (f : Nat) (s : SetEntry) : Bool :=
  !bit s.bits 24 && !bit s.bits 25 &&
    (onesOf 24 s.bits).all (fun k => es.any (fun e => decide (e.node.toNat = leafIdOf s.channel k) && relHas e f))

/-- Every section of a packet is present (R204). -/
def JEntry.present (e : JEntry) (es : List RelEntry) : Bool := e.sets.all (fun p => p.2.all (setPresent es p.1))

/-! ### Attach (R202) -/

/-- Send an attach fragment to a parent; it names the parent being left (R202). -/
def Blk.sendAttach (b : Blk) (parent : Nat) : Blk :=
  b.emit (.attach (if parent = noChan then servingPosition else chanAddr parent) b.now b.link.leaving)

/-- The attach fragments of a frame: one to the parent in use until its entries come, or to both parents when both are
lost (R202, R207). -/
def Blk.callParents (b : Blk) : Blk :=
  if b.link.cutOff then
    let a := b.num K.parentActive
    let s := b.num K.parentStandby
    let b1 := if a = noChan then b else b.sendAttach a
    if s = noChan ∨ s = a then b1 else b1.sendAttach s
  else if b.link.attached then b
  else b.sendAttach b.inUse

/-- Move to another parent: live packets go there, and the child attaches, leaving its previous parent in use. -/
def Blk.switchTo (b : Blk) (p : Nat) : Blk :=
  let left := if b.inUse = noChan then 0xFFFFFFFF else chanAddr b.inUse
  { b.setNum K.parentInUse p with
    link := { b.link with attached := false, leaving := left, credits := 0, silent := 0, homeRun := 0 },
    journal := b.journal.map (fun e => if e.dst = none then
      { e with again := false, next := 0, replay := false, pending := e.pending && decide (b.now ≤ e.frame + 1) }
      else e) }

/-- Give the frame's replay place to the oldest packet that waits for one (R204). -/
def Blk.giveReplay (b : Blk) : Blk :=
  if !b.link.attached || b.link.cutOff || b.link.replayed || !b.journal.any (fun e => e.again) then b
  else { b with
    journal := replaceFirst (fun e => e.again)
      (fun e => { e with again := false, pending := true, replay := true, next := 0 }) b.journal,
    link := { b.link with replayed := true } }

/-- The parent's entries decide what is replayed: every journalled packet that is not present and is not the live packet
of this frame (R204); without entries every packet that is still journalled (R207). -/
def Blk.startReplay (b : Blk) (es : Option (List RelEntry)) : Blk :=
  let live := fun (e : JEntry) => e.pending && !e.replay && decide (b.now ≤ e.frame + 1)
  let mark := fun (e : JEntry) =>
    if e.dst.isSome || live e then e
    else match es with
      | some l => { e with pending := false, again := !e.present l }
      | none => { e with pending := false, again := true }
  { b with journal := b.journal.map mark }.giveReplay

/-- Act on a control fragment of the parent in use (R178, R179, R202 step 5); `resume` after a cut-off (R207). -/
def Blk.takeControl (b : Blk) (h : Heard) (resume : Bool) : Blk :=
  let b1 := match h.ack with
    | some g => (b.journalAck none g).setNum K.journalAcked g
    | none => b
  let waiting := !b1.link.attached || resume
  if waiting && !h.entries.isEmpty then
    ({ b1 with link := { b1.link with attached := true, leaving := 0xFFFFFFFF, credits := h.credits } }).startReplay
      (some h.entries)
  else if resume || (waiting && (b1.link.leaving == 0xFFFFFFFF) && b1.journal.isEmpty) then
    ({ b1 with link := { b1.link with attached := true, leaving := 0xFFFFFFFF,
                                      credits := min 255 (b1.link.credits + h.credits) } }).startReplay none
  else if b1.link.attached then
    { b1 with link := { b1.link with credits := min 255 (b1.link.credits + h.credits) } }
  else b1

/-- CONTROL_FRAGMENT_RECEIVE (R75, R179, R202, R205, R207): from a parent, or from an answerer that takes late blocks. -/
def Blk.control (b : Blk) (src : Word) (h : FragHdr) (es : List RelEntry) : Blk :=
  if !envTaken h.env 3 then b.badEnvelope h.env else
  let g := if h.frame = 0xFFFFFFFFFFFFFFFF then none else some h.frame.toNat
  let hd : Heard := { src := src, ack := g, credits := h.credits.toNat, entries := es }
  let a := chanAddr (b.num K.parentActive)
  let s := chanAddr (b.num K.parentStandby)
  let known := (src == a && decide (b.num K.parentActive ≠ noChan)) || (src == s && decide (b.num K.parentStandby ≠ noChan))
  let b0 := if b.link.answerers.any (fun x => x.addr == src) then
      let b1 := match g with
        | some n => b.journalAck (some src) n
        | none => b
      { b1 with link := { b1.link with answerers := b1.link.answerers.map (fun x =>
          if x.addr == src then { x with credits := min 255 (x.credits + h.credits.toNat) } else x) } }
    else b
  if !known then b0
  else
    let b1 := { b0 with link := { b0.link with heard := b0.link.heard.filter (fun x => x.src != src) ++ [hd] } }
    if b1.link.cutOff then b1
    else if src = chanAddr b1.inUse then
      let b2 : Blk := { b1 with link := { b1.link with lost := [] } }
      b2.takeControl hd false
    else b1

/-! ### Close and opening of a frame -/

/-- A control fragment of this parent arrived in the frame. -/
def Link.heardFrom (k : Link) (p : Nat) : Bool := decide (p ≠ noChan) && k.heard.any (fun x => x.src == chanAddr p)

/-- RESUME_PARENT (R207): a child that lost both parents resumes with one that was heard in the frame just closed, the
active one first. -/
def Blk.resumeParent (b : Blk) : Blk :=
  let a := b.num K.parentActive
  let s := b.num K.parentStandby
  let pick := if b.link.heardFrom a then some a else if b.link.heardFrom s then some s else none
  match pick with
  | none => b
  | some p =>
    let b1 := if p = b.inUse then b else b.bump K.parentSwitches
    let b2 := { b1.setNum K.parentInUse p with
      link := { b1.link with cutOff := false, silent := 0, lost := [], attached := b1.link.attached && decide (p = b.inUse) } }
    match b.link.heard.find? (fun x => x.src == chanAddr p) with
    | some h => b2.takeControl h true
    | none => b2

/-- The close of a frame at the link (R201, R206, R207); `counts` is false in L2 (R372). -/
def Blk.closeLink (b : Blk) (counts : Bool) : Blk :=
  let b0 := { b with link := { b.link with replayed := false } }
  if b0.link.cutOff then b0.resumeParent
  else if b0.inUse = noChan then b0
  else
    let here := b0.link.heardFrom b0.inUse
    let home := b0.num K.parentActive
    let run := if b0.inUse ≠ home ∧ b0.link.attached = true ∧ b0.link.heardFrom home = true then b0.link.homeRun + 1 else 0
    { b0 with link := { b0.link with silent := if here || !counts then 0 else b0.link.silent + 1, homeRun := run } }

/-- The opening of a frame at the link: a parent in use is chosen, a rewritten parent moves the child (R201), packets
held back go out, the replay place is given and the attach fragments are sent. `calls` says whether the child attaches
at all. -/
def Blk.openLink (b : Blk) (calls : Bool) : Blk :=
  let a := b.num K.parentActive
  let s := b.num K.parentStandby
  let b0 := { b with
    link := { b.link with heard := [], heardBefore := b.link.heard.map (·.src) },
    journal := b.journal.map (fun e => { e with held := false }) }
  let b1 :=
    if b0.inUse = noChan then (if a = noChan then b0.setNum K.parentInUse s else b0.setNum K.parentInUse a)
    else if b0.inUse ≠ a ∧ b0.inUse ≠ s then
      let b1 : Blk := { b0 with link := { b0.link with cutOff := false, lost := [] } }
      (b1.switchTo (if a = noChan then s else a)).bump K.parentSwitches
    else b0
  let b2 := b1.giveReplay
  if calls then b2.callParents else b2

/-- PARENT_LOST (R201, R207): the silent parent in use is declared lost, and the child switches to its other parent, or is
cut off when that one is lost too. -/
def Blk.parentLost (b : Blk) : Blk :=
  if b.link.cutOff ∨ b.inUse = noChan ∨ b.link.silent < b.num K.parentLossFrames then b
  else
    let lost := b.inUse
    let a := b.num K.parentActive
    let other := if lost = a then b.num K.parentStandby else a
    let b0 : Blk := { b with link := { b.link with
      lost := if lost ∈ b.link.lost then b.link.lost else b.link.lost ++ [lost], silent := 0,
      note := if b.isLeaf && decide (lost = a) then some (lost, b.now - 1) else b.link.note } }
    if other = noChan ∨ other ∈ b0.link.lost then
      let b1 : Blk := { b0 with link := { b0.link with
        cutOff := true,
        leaving := if b0.link.leaving = 0xFFFFFFFF then chanAddr lost else b0.link.leaving } }
      b1.callParents
    else ((b0.switchTo other).bump K.parentSwitches).callParents

/-- RETURN_HOME (R206): after 0x1000:0D clean frames the child returns to its active parent by attach. -/
def Blk.returnHome (b : Blk) : Blk :=
  if b.link.homeRun < b.num K.returnFrames ∨ b.inUse = b.num K.parentActive ∨ b.link.cutOff then b
  else ((b.switchTo (b.num K.parentActive)).bump K.parentSwitches).callParents

/-! ### Fragments (R176, R178) -/

/-- A packet may send a fragment now: its receiver has granted a credit. -/
def Blk.maySend (b : Blk) (e : JEntry) : Bool :=
  e.pending && !e.held &&
    (match e.dst with
     | none => b.link.attached && !b.link.cutOff && decide (0 < b.link.credits) && decide (b.inUse ≠ noChan)
     | some d => b.link.answerers.any (fun x => x.addr == d && decide (0 < x.credits)))

/-- FRAGMENT_SEND (R178): the next fragment of the oldest packet that may send one. [DEDUCED, assumption 38] -/
def Blk.fragmentSend (b : Blk) : Blk :=
  match b.journal.find? b.maySend with
  | none => b
  | some e =>
    let d := slice e.data e.next 8176
    let h : FragHdr :=
      { frame := BitVec.ofNat 64 e.frame, offset := BitVec.ofNat 24 e.next, total := BitVec.ofNat 24 e.data.length,
        typ := 0, replay := e.replay, credits := 0, env := fragEnv d.length }
    let dst := e.dst.getD (chanAddr b.inUse)
    let e1 := if e.next + d.length < e.data.length then { e with next := e.next + d.length }
      else { e with next := 0, pending := false }
    let k := b.link
    let k1 := match e.dst with
      | none => { k with credits := k.credits - 1 }
      | some a => { k with answerers := k.answerers.map (fun x => if x.addr == a then { x with credits := x.credits - 1 } else x) }
    let b1 : Blk := { b with journal := replaceFirst b.maySend (fun _ => e1) b.journal, link := k1 }
    b1.emit (.fragment dst h d)

end Sys2Proof.Machine
end

