-- ==== Sys2Proof/Machine/Packet.lean ====
section
/-! DEFINITION. The frame packet of a leaf and of a channel (R180, R181, Tables 7.2 and 7.3) and the records that both
builds carry: acknowledgement records (Table 3.14). -/

namespace Sys2Proof.Machine

/-- The header of a frame packet without its directory (Table 7.2). -/
structure PktHdr where
  frame : Nat
  source : Nat
  tag : Nat
  part : Nat
  aligned : Bool
  missed : Bool
  shortBelow : Bool
  short : Bool
  seriesCount : Nat
  contributors : Nat
  members : Nat
  memberChannels : Nat
  tableEpoch : Nat
  deriving DecidableEq, Repr

/-- The directory entries of sections placed one after another from byte `off`: an absent section's entry is 0. -/
def dirFrom : Nat → List (List Byte) → List Nat
  | _, [] => []
  | off, s :: ss =>
    if s.isEmpty then 0 :: dirFrom off ss else (off * 2 ^ 32 + s.length) :: dirFrom (off + s.length) ss

/-- One when the flag is set. -/
def flag (b : Bool) : Nat := if b then 1 else 0

/-- The bytes of a packet with its ten sections in ascending number (R180, R181). -/
def packetBytes (h : PktHdr) (secs : List (List Byte)) : List Byte :=
  let len := 128 + (secs.map (·.length)).sum
  natLe 80 (((dirFrom 128 secs).foldr (fun e acc => e + acc * 2 ^ 64) 0)) ++ natLe 8 h.tableEpoch ++ natLe 4 len ++
    natLe 2 0 ++ natLe 2 h.memberChannels ++ natLe 4 h.members ++ natLe 4 h.contributors ++ natLe 4 h.seriesCount ++
    natLe 2 (flag h.short + 2 * flag h.shortBelow + 4 * flag h.missed + 8 * flag h.aligned) ++ natLe 2 h.part ++
    natLe 4 h.tag ++ natLe 4 h.source ++ natLe 8 h.frame ++ secs.flatten

/-- The header that a packet carries. -/
def pktHdr (d : List Byte) : PktHdr :=
  let n := leNat (d.take 128)
  { frame := bits n 960 64, source := bits n 928 32, tag := bits n 896 32, part := bits n 880 16, aligned := bit n 867,
    missed := bit n 866, shortBelow := bit n 865, short := bit n 864, seriesCount := bits n 832 32,
    contributors := bits n 800 32, members := bits n 768 32, memberChannels := bits n 752 16,
    tableEpoch := bits n 640 64 }

/-- Section k of a packet, empty when absent. -/
def pktSection (d : List Byte) (k : Nat) : List Byte :=
  let e := leAt d (8 * k) 8
  if e = 0 then [] else slice d (bits e 32 32) (bits e 0 32)

/-- An acknowledgement record as bytes (Table 3.14). -/
def ackBytes (r : AckRec) : List Byte :=
  natLe 24 (r.seq.toNat * 2 ^ 160 + r.phase * 2 ^ 152 + r.firstStatus * 2 ^ 144 + r.ok * 2 ^ 96 + r.refused * 2 ^ 64 +
    r.firstNode.toNat * 2 ^ 32)

/-- The acknowledgement record that 24 bytes hold. -/
def ackOf (b : List Byte) : AckRec :=
  let n := leNat b
  { seq := BitVec.ofNat 32 (bits n 160 32), phase := bits n 152 8, firstStatus := bits n 144 8, ok := bits n 96 32,
    refused := bits n 64 32, firstNode := BitVec.ofNat 32 (bits n 32 32) }

/-- A fragment header as bytes (Table 7.1). -/
def hdrOfFrag (h : FragHdr) : List Byte :=
  natLe 16 (h.frame.toNat * 2 ^ 64 + h.offset.toNat * 2 ^ 40 + h.total.toNat * 2 ^ 16 + h.typ.toNat * 2 ^ 12 +
    flag h.replay * 2 ^ 8 + h.credits.toNat)

/-- An entry of a release answer as bytes (R202 step 3). -/
def relBytes (e : RelEntry) : List Byte := natLe 4 e.node.toNat ++ natLe 4 0 ++ natLe 8 e.base.toNat ++ natLe 8 e.bits.toNat

/-- A management-class frame: its envelope and what it holds (R75). -/
def Blk.frameOf (b : Blk) (kind : Nat) (dst : Word) (d : List Byte) : List Byte := envelope kind d.length b.addr dst ++ d

/-- The bytes of a message that the block sends on the fabric (R75, R76, R176, R202), none for what is no message of its own there. An
attach fragment is a header alone: the spec gives the field of the parent left no place. [DEDUCED, assumption 78] -/
def Blk.wire (b : Blk) (o : Out) : Option (List Byte) :=
  match o with
  | .resp (.fabric _) r => some (b.frameOf 1 r.peer (respBytes r))
  | .msg m => some (b.frameOf 1 m.dst (hdrBytes m.opcode 0 false m.seq m.txn m.items.length ++ m.body ++ m.items.flatMap itemBytes))
  | .fragment dst h d => some (b.frameOf 3 dst (hdrOfFrag h ++ d))
  | .control dst h es => some (b.frameOf 3 dst (hdrOfFrag h ++ es.flatMap relBytes))
  | .attach dst f _ => some (b.frameOf 3 dst (natLe 16 (f % 2 ^ 64 * 2 ^ 64 + 2 ^ 13)))
  | .query dst src h left children =>
    let d := hdrOfFrag h ++ natLe 4 left.toNat ++ natLe 4 children.length ++ children.flatMap (fun x => natLe 4 x.toNat)
    some (envelope 3 d.length src dst ++ d)
  | .answer dst h es => some (b.frameOf 3 dst (hdrOfFrag h ++ es.flatMap relBytes))
  | .stream _ _ _ d => some d
  | _ => none

/-- The records that fit in `room` bytes, in order, and those that wait (R181). -/
def fitRecords (room : Nat) : List (List Byte) → List Byte × List (List Byte)
  | [] => ([], [])
  | r :: rs =>
    if r.length ≤ room then
      let x := fitRecords (room - r.length) rs
      (r ++ x.1, x.2)
    else ([], r :: rs)

/-- Two-bit states packed from bit 0 of byte 0 (Table 7.3). -/
def packStates (l : List Nat) : List Byte :=
  (pieces 4 l).map (fun p => BitVec.ofNat 8 (p.foldr (fun s acc => s + 4 * acc) 0))

end Sys2Proof.Machine
end

