-- ==== Sys2Proof/Machine/Reduce.lean ====
section
/-! DEFINITION. The reduction of a channel: sections added once (R193, R194), on time or late (R195, R196), into slots of
the active aggregate table (R184 to R188), and the packets in which they go up (R180, R181). -/

namespace Sys2Proof.Machine

/-! ### Tables and roles of a frame -/

/-- The value in force at frame `f` in a history, newest first. -/
def atFrame {α : Type} (d : α) : List (Nat × α) → Nat → α
  | [], _ => d
  | (a, x) :: rest, f => if a ≤ f then x else atFrame d rest f

/-- The aggregate table under which frame `f` is reduced (R184, R185). -/
def Tree.table (t : Tree) (f : Nat) : List Byte := atFrame [] t.tables f

/-- The apply frame of that table (table_epoch of Table 7.2). -/
def tableApply : List (Nat × List Byte) → Nat → Nat
  | [], _ => 0
  | (a, _) :: rest, f => if a ≤ f then a else tableApply rest f

/-- The tree role under which frame `f` is reduced (R24): 0 channel only, 1 pod root, 2 fleet root. -/
def Tree.role (t : Tree) (f : Nat) : Nat := atFrame 0 t.roles f

/-- The top level that a role reduces for frame `f`. -/
def Tree.levels (t : Tree) (f : Nat) : List Nat :=
  match t.role f with
  | 0 => [1]
  | 1 => [1, 2]
  | _ => [1, 3]

/-- The frames between a frame and the close at which its section of a level is complete (R195): a leaf packet of F by
the close of F + 1, a channel packet by F + 2, a pod packet by F + 3. -/
def levelDelay (level : Nat) : Nat := level

/-! ### Leaf sets (R193, R194) -/

/-- The bits of a channel in a set. -/
def LeafSet.bitsOf (s : LeafSet) (channel : Nat) : Nat := mget (fun _ => 0) s channel

/-- Union. -/
def LeafSet.union (s t : LeafSet) : LeafSet :=
  t.foldl (fun acc e => mset (fun _ => 0) acc e.1 (acc.bitsOf e.1 ||| e.2)) s

/-- No leaf and no own bit in common. -/
def LeafSet.disjoint (s t : LeafSet) : Bool := s.all (fun e => e.2 &&& t.bitsOf e.1 == 0)

/-- Every leaf and own bit of `s` is in `t`. -/
def LeafSet.subset (s t : LeafSet) : Bool := s.all (fun e => e.2 &&& t.bitsOf e.1 == e.2)

/-- A leaf set entry as bytes (Table 7.5). -/
def setBytes (s : LeafSet) : List Byte := s.flatMap (fun e => natLe 8 (e.1 * 2 ^ 48 + e.2))

/-- The leaf set that bytes hold. -/
def parseSet (b : List Byte) : LeafSet :=
  (pieces 8 b).foldl (fun acc p =>
    let n := leNat p
    acc.union [(bits n 48 16, bits n 0 26)]) []

/-- The leaf set as journal entries. -/
def LeafSet.entries (s : LeafSet) : List SetEntry := s.map (fun e => { channel := e.1, bits := e.2 })

/-- The set of one leaf. -/
def leafSet (id : Nat) : LeafSet := [(id / 32, 2 ^ (id % 32))]

/-! ### Slots -/

/-- The state of a slot in a section. -/
def slotOf (m : NMap SlotAcc) (slot : Nat) : SlotAcc := mget (fun _ => SlotAcc.zero) m slot

/-- Change a slot. -/
def slotSet (m : NMap SlotAcc) (slot : Nat) (a : SlotAcc) : NMap SlotAcc := mset (fun _ => SlotAcc.zero) m slot a

/-- What a reduction pass counts: contributions discarded (0x1000:28) and addends out of range (0x1000:2A). -/
structure Sums where
  slots : NMap SlotAcc
  conflicts : Nat
  ovr : Nat

/-- R186: a contribution of `op` and value type meets slot `slot` fed at `level`; `f` adds it. -/
def Sums.contribute (t : List Byte) (level slot op : Nat) (f32 : Option Bool) (s : Sums)
    (f : AggEntry → SlotAcc → SlotAcc) : Sums :=
  let e := aggAt t slot
  if e.level ≠ level then { s with conflicts := s.conflicts + 1 }
  else if e.op != op || (match f32 with | some x => x != e.f32 | none => false) then
    { s with conflicts := s.conflicts + 1,
             slots := slotSet s.slots slot { slotOf s.slots slot with conflict := true } }
  else { s with slots := slotSet s.slots slot (f e (slotOf s.slots slot)) }

/-- Add a leaf value under its descriptor (R183, R186, R189); `index` is the series index. -/
def Sums.value (t : List Byte) (leaf : Nat) (s : Sums) (index : Nat) (d : SerDesc) (v : Nat) : Sums :=
  let e := aggAt t (keySlot d.key)
  let r := s.contribute t 1 (keySlot d.key) (keyOp d.key) (some d.f32)
    (fun e a => a.addValue e v (leaf * 2 ^ 14 + index))
  if e.level = 1 ∧ e.op = keyOp d.key ∧ e.f32 = d.f32 ∧ e.op = 1 ∧ e.f32 = true ∧ (addend v).2 = true then
    { r with ovr := r.ovr + 1 }
  else r

/-- The value type that a record's payload shows: a sum of three words is F32 (Table 7.7); the others do not tell. -/
def AggRec.f32 (r : AggRec) : Option Bool :=
  if keyOp r.key = 1 ∧ 0 < r.count then some (decide (r.payload.length = 24)) else none

/-- Add a record at the level (R186, R188). -/
def Sums.record (t : List Byte) (level : Nat) (s : Sums) (r : AggRec) : Sums :=
  s.contribute t level (keySlot r.key) (keyOp r.key) r.f32 (fun e a => a.addRecord e r)

/-- Combine the slots of one section into another of the same table and level (R188). -/
def mergeSlots (t : List Byte) (m n : NMap SlotAcc) : NMap SlotAcc :=
  n.foldl (fun acc p =>
    let e := aggAt t p.1
    match p.2.record e 0 with
    | some r => slotSet acc p.1 ((slotOf acc p.1).addRecord e r)
    | none => acc) m

/-- The records of a section under the up keys of its slots (R187); a slot without an up key is not forwarded. -/
def upRecords (t : List Byte) (m : NMap SlotAcc) : List AggRec :=
  m.filterMap (fun p =>
    let e := aggAt t p.1
    if e.upKey = 0xFFFFFFFF then none else p.2.record e e.upKey)

/-- The records of a section under the keys of its own slots (R205, no mapping). -/
def ownRecords (t : List Byte) (m : NMap SlotAcc) : List AggRec :=
  m.filterMap (fun p => let e := aggAt t p.1; p.2.record e (e.op * 2 ^ 28 + p.1))

/-- The slots that records of a level fill. -/
def fillSlots (t : List Byte) (level : Nat) (rs : List AggRec) : NMap SlotAcc :=
  (rs.foldl (Sums.record t level) { slots := [], conflicts := 0, ovr := 0 }).slots

/-- The records after `maps` mappings through up keys (R205): each mapping merges what meets at one slot. -/
def mappedRecords (t : List Byte) (level : Nat) (m : NMap SlotAcc) : Nat → List AggRec
  | 0 => ownRecords t m
  | 1 => upRecords t m
  | k + 1 => mappedRecords t (level + 1) (fillSlots t (level + 1) (upRecords t m)) k

/-- A late block as bytes (Table 7.8). -/
def lateBytes (frame contributors : Nat) (set : LeafSet) (rs : List AggRec) : List Byte :=
  let rb := rs.flatMap AggRec.bytes
  natLe 32 (frame * 2 ^ 192 + contributors * 2 ^ 160 + rs.length * 2 ^ 128 + set.length * 2 ^ 96 + rb.length * 2 ^ 64) ++
    setBytes set ++ rb

/-- The late blocks of section 3: frame, contributors, leaf set and records; `fuel` bounds their number. -/
def parseLate : Nat → List Byte → List (Nat × Nat × LeafSet × List AggRec)
  | 0, _ => []
  | fuel + 1, b =>
    if b.length < 32 then []
    else
      let h := leNat (b.take 32)
      let ns := bits h 96 32
      let len := bits h 64 32
      (bits h 192 64, bits h 160 32, parseSet (slice b 32 (8 * ns)),
        parseRecs (bits h 128 32) (slice b (32 + 8 * ns) len)) :: parseLate fuel (b.drop (32 + 8 * ns + len))

/-! ### Sections of a channel -/

/-- Change the tree. -/
def Chan.onTree (c : Chan) (f : Tree → Tree) : Chan := { c with tree := f c.tree }

/-- Change the common part. -/
def Chan.onB (c : Chan) (f : Blk → Blk) : Chan := { c with b := f c.b }

/-- The section of a frame and level, if there is one. -/
def Tree.sec (t : Tree) (f level : Nat) : Option Sec := t.secs.find? (fun s => s.frame == f && s.level == level)

/-- A section with nothing in it. -/
def Sec.fresh (uid f level : Nat) : Sec :=
  { uid := uid, frame := f, level := level, slots := [], sets := [], contributors := 0, shortBelow := false, done := false,
    cut := false }

/-- Make sure that the section of a frame and level exists. -/
def Tree.needSec (t : Tree) (f level : Nat) : Tree :=
  match t.sec f level with
  | some _ => t
  | none => { t with secs := t.secs ++ [Sec.fresh t.nextUid f level], nextUid := t.nextUid + 1 }

/-- Change the section of a frame and level. -/
def Tree.mapSec (t : Tree) (f level : Nat) (g : Sec → Sec) : Tree :=
  { t with secs := t.secs.map (fun s => if s.frame == f && s.level == level then g s else s) }

/-- Data of frame `f` lie outside the late horizon (R196). [DEDUCED, assumption 40] -/
def Chan.expired (c : Chan) (f : Nat) : Bool := decide (f + c.b.num K.lateHorizon < c.b.now)

/-- What of frame `f` and level the node has added (R194). -/
def Tree.addedSet (t : Tree) (f level : Nat) : LeafSet :=
  (t.added.filter (fun a => a.frame == f && a.level == level)).foldl (fun s a => s.union a.set) []

/-- A query answered by this node forbids the section (R202 step 3): it comes from the parent left, of a frame up to the
answer's, and names a leaf that moved. -/
def Tree.stopped (t : Tree) (src : Word) (f : Nat) (set : LeafSet) : Bool :=
  t.grants.any (fun g => g.left == src && decide (f ≤ g.upTo) && !set.disjoint g.leaves)

/-- The late block into which late data of frame `f` and level go (R195, R205). [DEDUCED, assumption 40] -/
def Tree.needLate (t : Tree) (f level : Nat) (dst : Option Word) (maps : Nat) : Tree :=
  if t.late.any (fun l => l.sec.frame == f && l.sec.level == level && l.dst == dst) then t
  else { t with late := t.late ++ [{ sec := Sec.fresh t.nextUid f level, dst := dst, maps := maps }],
                nextUid := t.nextUid + 1 }

/-- Change that late block. -/
def Tree.mapLate (t : Tree) (f level : Nat) (dst : Option Word) (g : Sec → Sec) : Tree :=
  { t with late := t.late.map (fun l =>
      if l.sec.frame == f && l.sec.level == level && l.dst == dst then { l with sec := g l.sec } else l) }

/-- Put data into a section. -/
def Sec.take (t : List Byte) (set : LeafSet) (contributors : Nat) (below : Bool) (slots : NMap SlotAcc) (s : Sec) : Sec :=
  { s with slots := mergeSlots t s.slots slots, sets := s.sets.union set, contributors := s.contributors + contributors,
           shortBelow := s.shortBelow || below }

/-- What one section of a child's packet brings: its frame, level, sender, leaf set, leaf packets, short flag, the sums it
forms, whether it came as a late block, and where it goes when late. -/
structure Arrival where
  frame : Nat
  level : Nat
  src : Word
  pktFrame : Nat
  set : LeafSet
  contributors : Nat
  below : Bool
  sums : Sums
  block : Bool
  dst : Option Word
  maps : Nat

/-- A section arrives (R194, R195, R196, R199): expired, stopped, duplicate, overlapping, or added on time or late. -/
def Chan.arrive (c : Chan) (a : Arrival) : Chan :=
  let owe := fun (c : Chan) (uid : Nat) =>
    c.onTree (fun t => { t with owes := t.owes ++ [{ child := a.src, frame := a.pktFrame, uid := uid, pkt := none }] })
  if c.expired a.frame then c.onB (·.bump K.lateExpired)
  else if c.tree.stopped a.src a.frame a.set then owe c 0
  else
    let have_ := c.tree.addedSet a.frame a.level
    if a.set.subset have_ then c.onB (·.bump K.duplicates)
    else if !a.set.disjoint have_ then c.onB (fun b => (b.bump K.overlaps).raiseErr irqFault)
    else
      let tb := c.tree.table a.frame
      let c1 := (c.onB (fun b => (b.bump K.slotConflicts a.sums.conflicts).bump K.overrangeAddends a.sums.ovr)).onTree
        (fun t => { t.needSec a.frame a.level with
          added := t.added ++ [{ frame := a.frame, level := a.level, src := a.src, set := a.set }],
          grants := t.grants.map (fun g =>
            if g.left == a.src && decide (g.upTo < a.frame) && !a.set.disjoint g.leaves then { g with active := false }
            else g) })
      let put := Sec.take tb a.set a.contributors a.below a.sums.slots
      let past := decide (a.frame + levelDelay a.level < c.b.now)
      let late := a.block || past || (match c1.tree.sec a.frame a.level with | some s => s.done || s.cut | none => false)
      if late = false then
        let c2 := c1.onTree (fun t => t.mapSec a.frame a.level put)
        owe c2 (match c2.tree.sec a.frame a.level with | some s => s.uid | none => 0)
      else
        let c2 := c1.onTree (fun t => ((t.needLate a.frame a.level a.dst a.maps).mapLate a.frame a.level a.dst put).mapSec
          a.frame a.level (fun s => { s with done := s.done || past }))
        owe c2 (match c2.tree.late.find? (fun l => l.sec.frame == a.frame && l.sec.level == a.level && l.dst == a.dst) with
          | some l => l.sec.uid | none => 0)

end Sys2Proof.Machine
end

