-- ==== Sys2Proof/Machine/Tree.lean ====
section
/-! DEFINITION. A channel as a parent: fragments and packets of its children (R176 to R182, R186, R197), the packets it
sends at its deadlines (R195, R180), late blocks (R195, R205), acknowledgements and control fragments (R179, R199). -/

namespace Sys2Proof.Machine

/-! ### Children -/

/-- The child with an address. -/
def Tree.child (t : Tree) (a : Word) : Option Child := t.children.find? (fun x => x.addr == a)

/-- Change a child. -/
def Tree.mapChild (t : Tree) (a : Word) (f : Child → Child) : Tree :=
  { t with children := t.children.map (fun x => if x.addr == a then f x else x) }

/-- Change a child of a channel. -/
def Chan.onChild (c : Chan) (a : Word) (f : Child → Child) : Chan := c.onTree (fun t => t.mapChild a f)

/-- Add a child, in place of one with the same address. -/
def Tree.putChild (t : Tree) (x : Child) : Tree :=
  { t with children := t.children.filter (fun y => y.addr != x.addr) ++ [x] }

/-- The channel's own identifier. -/
def Chan.id (c : Chan) : Nat := c.b.num K.channelId

/-- The channel is a member of the tree (R391). -/
def Chan.member (c : Chan) : Bool := c.b.num K.bringupState == 8 || c.b.num K.bringupState == 9

/-- The leaf identifier of a child. -/
def Child.leafId (x : Child) : Nat := x.addr.toNat % 2 ^ 18

/-! ### Requests of the channel's own (R77) -/

/-- Send the head of a chain. -/
def Chan.sendOp (c : Chan) (r : Remote) : Chan :=
  match r.ops with
  | [] => c
  | o :: _ =>
    let seq := c.b.nextSeq
    let r1 := { r with seq := seq, txn := if o.op = opTxnOpen then seq else r.txn }
    { c with b := c.b.request r.dst o.op (if o.inTxn then r1.txn else 0) o.items o.body, rem := c.rem ++ [r1] }

/-- Start a chain of requests. -/
def Chan.remote (c : Chan) (dst : Word) (purpose : Purpose) (ops : List ROp) : Chan :=
  c.sendOp { dst := dst, ops := ops, seq := 0, txn := 0, got := [], purpose := purpose, writes := [], apply := 0 }

/-- A response comes for the chain's head: the next request goes out, or the chain ends and is returned with the
response. -/
def Chan.remoteNext (c : Chan) (r : Resp) : Chan × Option (Remote × Resp) :=
  match c.rem.find? (fun x => x.dst == r.peer && x.seq == r.seq.toNat) with
  | none => (c, none)
  | some x =>
    let c1 := { c with rem := c.rem.filter (fun y => !(y.dst == x.dst && y.seq == x.seq)) }
    let x1 := { x with got := x.got ++ (r.items.map (·.data)).flatten, ops := x.ops.drop 1 }
    if r.status ≠ 0 ∨ x1.ops.isEmpty = true then (c1, some (x1, r)) else (c1.sendOp x1, none)

/-- An item that names an object. -/
def keyItem (key : Nat) (type : Nat) (data : List Byte) : Item :=
  { index := BitVec.ofNat 16 (key / 256), sub := BitVec.ofNat 8 key, type := BitVec.ofNat 8 type,
    length := BitVec.ofNat 16 data.length, status := 0, target := 0, data := data }

/-- A request outside a transaction. -/
def rPlain (op : Nat) (items : List Item) : ROp := { op := op, inTxn := false, items := items, body := [] }

/-- A write of a leaf's object with its type. -/
def leafItem (key : Nat) (v : Val) : Item := keyItem key (typeOf true key) (valData (typeOf true key) v)

/-- A whole transaction (R87): open, stage each group of items, commit for frame `a`. -/
def txnOps (groups : List (List Item)) (a : Nat) : List ROp :=
  rPlain opTxnOpen [] :: groups.map (fun g => { op := opTxnStage, inTxn := true, items := g, body := [] }) ++
    [{ op := opTxnCommit, inTxn := true, items := [], body := natLe 8 a }]

/-- A transaction of the channel on a leaf (R87): its writes for apply frame `a`. -/
def Chan.remoteTxn (c : Chan) (dst : Word) (purpose : Purpose) (ws : List Wr) (a : Nat) : Chan :=
  c.sendOp { dst := dst, ops := txnOps [ws.map (fun w => leafItem w.1 w.2)] a, seq := 0, txn := 0, got := [],
             purpose := purpose, writes := ws, apply := a }

/-- Of the entries that satisfy `p` only the first stays. -/
def dropPast (p : Known → Bool) : Bool → List Known → List Known
  | _, [] => []
  | seen, k :: ks =>
    if p k then (if seen then dropPast p true ks else k :: dropPast p true ks) else k :: dropPast p seen ks

/-- Writes of a leaf's RWT objects that have been committed for frame `apply` are kept: by this channel (R94), or by another source whose
transaction passed through it. [DEDUCED, assumption 72] -/
def Chan.noteWrites (c : Chan) (leaf : Word) (ws : List Wr) (apply : Nat) (own : Bool) : Chan :=
  (ws.filter (fun w => match defOf true w.1 with
    | some d => d.access == .rwt && d.type != 1
    | none => false)).foldl (fun acc w =>
    let k : Known := { leaf := leaf, key := w.1, v := w.2, at_ := acc.b.now, apply := apply, own := own }
    let past := fun (x : Known) => x.leaf == leaf && x.key == w.1 && x.own == own && decide (x.apply ≤ acc.b.now)
    { acc with known := dropPast past false (k :: acc.known) }) c

/-- A transaction of the channel's own on a leaf has been committed (R94). [DEDUCED, assumption 72] -/
def Chan.noteCommit (c : Chan) (r : Remote) : Chan := c.noteWrites r.dst r.writes r.apply true

/-- The entries of the fleet ledger (R393, Table 16.6), in ascending sequence. -/
def Blk.ledger (b : Blk) : List (List Byte) := pieces 64 (b.bytes K.fleetLedger)

/-- Fields of a ledger entry: apply frame, sequence, object, target, data. -/
def ledApply (e : List Byte) : Nat := leAt e 56 8
def ledSeq (e : List Byte) : Nat := leAt e 52 4
def ledKey (e : List Byte) : Nat := leAt e 50 2 * 256 + leAt e 49 1
def ledType (e : List Byte) : Nat := leAt e 48 1
def ledTarget (e : List Byte) : Nat := leAt e 47 1
def ledData (e : List Byte) : List Byte := e.take (leAt e 44 2)

/-- The ledger's value of an object of leaves (target bit 0) or of channels (bit 1), with its apply frame. -/
def Blk.ledgerVal (b : Blk) (target key : Nat) : Option (Nat × Val) :=
  (b.ledger.find? (fun e => bit (ledTarget e) target && ledKey e == key)).map
    (fun e => (ledApply e, dataVal (ledType e) (ledData e)))

/-- Of commits the one that applies last, the newer of two at one frame; the newest commit stands first. -/
def latestKnown : List Known → Option Known
  | [] => none
  | k :: ks => match latestKnown ks with
    | none => some k
    | some x => if x.apply ≤ k.apply then some k else some x

/-- The value of a leaf's object as this channel knows it, in force in frame `f`: of what it has committed itself, what passed through it
and what a fleet transaction has written, the later one; none before any. -/
def Chan.leafValAt (c : Chan) (f : Nat) (leaf : Word) (key : Nat) : Option Val :=
  let own := latestKnown (c.known.filter (fun k => k.leaf == leaf && k.key == key && decide (k.apply ≤ f)))
  match own, c.b.ledgerVal 0 key with
  | some k, some (a, v) => if a ≤ f ∧ k.apply < a then some v else some k.v
  | some k, none => some k.v
  | none, some (a, v) => if a ≤ f then some v else none
  | none, none => none

/-- The value in force in the open frame. -/
def Chan.leafVal (c : Chan) (leaf : Word) (key : Nat) : Option Val := c.leafValAt c.b.now leaf key

/-- The SEG_READs that fetch `len` bytes of an object (R83), from byte `off`; `fuel` bounds their number. -/
def segReads (key len : Nat) : Nat → Nat → List ROp
  | 0, _ => []
  | fuel + 1, off =>
    if len ≤ off then []
    else rPlain opSegRead [keyItem key 13 (natLe 4 off ++ natLe 4 8168)] :: segReads key len fuel (off + 8168)

/-- The SEG_WRITEs that load a value (R83); `fuel` bounds their number. -/
def segWrites (key : Nat) (v : List Byte) : Nat → Nat → List ROp
  | 0, _ => []
  | fuel + 1, off =>
    let d := slice v off 8160
    let op := rPlain opSegWrite [keyItem key 13 (natLe 4 off ++ natLe 4 v.length ++ d)]
    if v.length ≤ off + 8160 then [op] else op :: segWrites key v fuel (off + 8160)

/-! ### Rule inputs and fault records of the channel's own -/

/-- A rule input that the channel makes is read in the frame in which it is made (R264). -/
def Chan.ruleIn (c : Chan) (code node arg : Nat) (payload : List Byte) : Chan :=
  { c with inputs := c.inputs ++ [{ at_ := c.b.now, code := code, node := node, arg := arg, payload := payload }] }

/-- A fault record of the channel (Table 14.8). -/
def Chan.fault (c : Chan) (kind locKind loc frame detail : Nat) : Chan :=
  { c with faultIn := c.faultIn ++ [faultRec kind locKind c.b.addr.toNat loc frame detail] }

/-! ### Riders (R181, R197, R264) -/

/-- The rule inputs in section 7 of a packet; `fuel` bounds their number. -/
def parseInputs (at_ leaf : Nat) : Nat → List Byte → List RuleIn
  | 0, _ => []
  | fuel + 1, b =>
    if b.length < 8 then []
    else
      let h := leNat (b.take 8)
      let len := bits h 32 16
      { at_ := at_, code := bits h 56 8, node := leaf, arg := bits h 0 32, payload := slice b 8 len } ::
        parseInputs at_ leaf fuel (b.drop (8 + (len + 7) / 8 * 8))

/-- The sections of a leaf packet that end at the channel or ride on (Table 7.3): barrier records only when on time;
rule inputs, touchstone, assay, acknowledgement and fault records as of the frame in which the packet completes when it
is late. -/
def Chan.takeRiders (c : Chan) (x : Child) (f : Nat) (late : Bool) (d : List Byte) : Chan :=
  let as_ := if late then c.b.now else f
  let mk := fun k => ({ sec := k, frame := as_, src := x.addr, pos := x.pos, late := late, data := pktSection d k } : Rider)
  let riders := ((if late then [] else [mk 4]) ++ [mk 5, mk 6]).filter (fun r => !r.data.isEmpty)
  let c1 := c.onTree (fun t => { t with riders := t.riders ++ riders })
  let acks := (pieces 24 (pktSection d 8)).map ackOf
  { c1 with
    b := { c1.b with acks := acks.foldl (fun l r => mergeAckAt as_ r l) c1.b.acks },
    inputs := c1.inputs ++ parseInputs (as_ + 2) x.leafId 256 (pktSection d 7),
    faultIn := c1.faultIn ++ pieces 32 (pktSection d 9) }

/-- The sections of a channel's packet that go on: assay and acknowledgement records (Table 7.3). -/
def Chan.takeForwards (c : Chan) (x : Child) (f : Nat) (late : Bool) (d : List Byte) : Chan :=
  let as_ := if late then c.b.now else f
  let s6 := pktSection d 6
  let c1 := if s6.isEmpty then c else c.onTree (fun t =>
    { t with riders := t.riders ++ [{ sec := 6, frame := as_, src := x.addr, pos := x.pos, late := late, data := s6 }] })
  let acks := (pieces 24 (pktSection d 8)).map ackOf
  if x.level = 3 then c1.onTree (fun t => { t with rootAcks := acks.foldl (fun l r => mergeAck r l) t.rootAcks })
  else { c1 with b := { c1.b with acks := acks.foldl (fun l r => mergeAckAt as_ r l) c1.b.acks } }

/-! ### Packets (R182, R186, R194, R195) -/

/-- The values of a leaf packet with their series indices and descriptors: missing and dark ones are no contribution
(R186). -/
def leafValues (table : List Byte) (f : Nat) (d : List Byte) : List (Nat × SerDesc × Nat) :=
  let due := ((List.range (table.length / 8)).zip (serTable table)).filter (fun p => p.2.due f)
  let vals := (pieces 4 (pktSection d 0)).map leNat
  let st := leNat (pktSection d 1)
  (((List.range due.length).zip due).zip vals).filterMap (fun p =>
    if bits st (2 * p.1.1) 2 = 0 then some (p.1.2.1, p.1.2.2, p.2) else none)

/-- Data of frame `f` of the child are replayed data, which go to the answerer of its adoption (R205). -/
def Child.lateTo (x : Child) (f : Nat) : Option Word × Nat :=
  match x.answerer with
  | some (a, k) => if f ≤ x.since then (some a, k) else (none, 1)
  | none => (none, 1)

/-- A leaf packet is reduced against the parent's copy of the leaf's series table (R182, R186). -/
def Chan.reduceLeaf (c : Chan) (x : Child) (d : List Byte) : Chan :=
  let h := pktHdr d
  let f := h.frame
  let vals := leafValues x.table f d
  let tb := c.tree.table f
  let sums := vals.foldl (fun s p => s.value tb x.leafId p.1 p.2.1 p.2.2) ({ slots := [], conflicts := 0, ovr := 0 } : Sums)
  let dest := x.lateTo f
  let c1 := (c.onB (·.bump K.packetsReduced)).arrive
    { frame := f, level := 1, src := x.addr, pktFrame := f, set := leafSet x.leafId, contributors := 1,
      below := h.short || h.shortBelow, sums := sums, block := false, dst := dest.1, maps := dest.2 }
  if c.tree.added.length < c1.tree.added.length then c1.takeRiders x f (decide (f + 1 < c.b.now)) d else c1

/-- One section of a channel's packet: its records at the child's level (R186, R194). -/
def Chan.reduceSection (c : Chan) (x : Child) (pktFrame f contributors : Nat) (set : LeafSet) (below block : Bool)
    (rs : List AggRec) : Chan :=
  let sums := rs.foldl (Sums.record (c.tree.table f) x.level) { slots := [], conflicts := 0, ovr := 0 }
  let dest := x.lateTo f
  c.arrive { frame := f, level := x.level, src := x.addr, pktFrame := pktFrame, set := set, contributors := contributors,
             below := below, sums := sums, block := block, dst := dest.1, maps := dest.2 }

/-- A packet of a channel, or of late blocks for an adoption (R205): section 0 with its leaf set, then each late block. -/
def Chan.reduceChan (c : Chan) (x : Child) (d : List Byte) : Chan :=
  let h := pktHdr d
  let s0 := pktSection d 0
  let set := parseSet (pktSection d 2)
  let c0 := c.onB (·.bump K.packetsReduced)
  let c1 := if set.isEmpty then c0
    else c0.reduceSection x h.frame h.frame h.contributors set (h.short || h.shortBelow) false (parseRecs s0.length s0)
  let c2 := if c0.tree.added.length < c1.tree.added.length then
      (c1.takeForwards x h.frame (decide (h.frame + levelDelay x.level < c.b.now)) d).onChild x.addr
        (fun y => { y with members := h.members, memberChannels := h.memberChannels, set := set })
    else c1
  let s3 := pktSection d 3
  (parseLate s3.length s3).foldl
    (fun acc l => acc.reduceSection x h.frame l.1 l.2.1 l.2.2.1 false true l.2.2.2) c2

/-- A leaf's series table is to be read (R182): first its length, a U16, which SEG_READ would refuse (R83), by READ. [DEDUCED, assumption 72] -/
def Chan.fetchTable (c : Chan) (a : Word) : Chan :=
  if c.rem.any (fun r => r.purpose == .seriesTable a) then c
  else c.remote a (.seriesTable a) [rPlain opRead [keyItem K.seriesCount 0 []]]

/-- A complete packet of a child (R177, R182). -/
def Chan.packet (c : Chan) (x : Child) (d : List Byte) : Chan :=
  let f := (pktHdr d).frame
  let c1 := c.onChild x.addr (fun y =>
    { y with got := if f ∈ y.got then y.got else insertBy (fun n => n) f y.got,
             base := some (match y.base with | some m => min m f | none => f) })
  if x.kind = .leaf then
    if x.epoch = some (pktHdr d).tableEpoch then c1.reduceLeaf x d
    else (c1.onChild x.addr (fun y => { y with waits := y.waits ++ [d] })).fetchTable x.addr
  else c1.reduceChan x d

/-- The copy of a leaf's series table is complete: the packets that waited for it are reduced, and a packet of a further
table makes the parent read again (R182). -/
def Chan.tableDone (c : Chan) (x : Child) (t : List Byte) : Chan :=
  match x.waits with
  | [] => c
  | d :: _ =>
    let e := (pktHdr d).tableEpoch
    let mine := x.waits.filter (fun w => (pktHdr w).tableEpoch == e)
    let rest := x.waits.filter (fun w => (pktHdr w).tableEpoch != e)
    let x1 := { x with epoch := some e, table := t, waits := rest }
    let c1 := mine.foldl (fun acc w => acc.reduceLeaf x1 w) (c.onChild x.addr (fun y =>
      { y with epoch := some e, table := t, waits := rest }))
    if rest.isEmpty then c1 else c1.fetchTable x.addr

/-- The responses that bring a leaf's series table (R182): its count, then its bytes. -/
def Chan.tableRead (c : Chan) (a : Word) (r : Remote) (resp : Resp) : Chan :=
  match c.tree.child a with
  | none => c
  | some x =>
    if resp.status ≠ 0 then c
    else if resp.opcode = BitVec.ofNat 8 opRead then
      let n := leNat r.got
      if n = 0 then c.tableDone x [] else c.remote a (.seriesTable a) (segReads K.seriesTableActive (8 * n) (n + 1) 0)
    else c.tableDone x r.got

/-! ### Fragments (R177, R178) -/

/-- The bytes of a packet under assembly that a fragment covers. -/
def covered (got : List (Option Byte)) (off len : Nat) : List (Option Byte) := (got.drop off).take len

/-- A fragment of an assembled packet: dropped, refused, or placed (R177). -/
def placeFragment (got : List (Option Byte)) (off : Nat) (d : List Byte) : Option (List (Option Byte)) :=
  let have_ := covered got off d.length
  if have_.all (·.isNone) then some (got.take off ++ d.map some ++ got.drop (off + d.length))
  else if (have_.zip d).all (fun p => p.1.isNone || p.1 == some p.2) then some got
  else none

/-- DATA_FRAGMENT_RECEIVE (R75, R177, R178). -/
def Chan.fragment (c : Chan) (src : Word) (h : FragHdr) (d : List Byte) : Chan :=
  let total := h.total.toNat
  let off := h.offset.toNat
  if envTaken h.env 3 = false ∨ h.typ ≠ 0 ∨ total < 128 ∨ 1048576 < total ∨ d.isEmpty = true ∨ 8176 < d.length ∨ total < off + d.length then
    c.onB (·.badEnvelope h.env)
  else match c.tree.child src with
    | none => c.onB (·.bump K.redCreditViolations)
    | some x0 =>
      if x0.held = 0 then c.onB (·.bump K.redCreditViolations)
      else
        let f := h.frame.toNat
        let x := { x0 with held := x0.held - 1, give := min 255 (x0.give + 1), heard := true }
        let c0 := c.onTree (fun t => t.mapChild src (fun _ => x))
        let part : Partial := (x.parts.find? (fun p => p.frame == f)).getD
          { frame := f, replay := h.replay, got := List.replicate total none }
        let others := x.parts.filter (fun p => p.frame != f)
        let drop := (c0.onChild src (fun y => { y with parts := others })).onB (·.bump K.overlaps)
        if part.got.length ≠ total then drop
        else match placeFragment part.got off d with
          | none => drop
          | some got =>
            match allSome got with
            | none => c0.onChild src (fun y => { y with parts := others ++ [{ part with got := got }] })
            | some bytes =>
              let x1 := { x with parts := others }
              if (pktHdr bytes).frame ≠ f then c0.onChild src (fun y => { y with parts := others })
              else (c0.onChild src (fun y => { y with parts := others })).packet x1 bytes

/-! ### Acknowledgement (R179, R199) -/

/-- Sections whose packet the receiver has acknowledged are acknowledged (R199). -/
def Chan.settle (c : Chan) : Chan :=
  c.onTree (fun t => { t with owes := t.owes.filter (fun o =>
    match o.pkt with
    | none => true
    | some (none, p) => decide (c.b.num K.journalAcked < p)
    | some (some a, p) => c.b.journal.any (fun e => e.dst == some a && e.frame == p)) })

/-- Frame `f` of a child needs no further packet: outside the horizon, or received or present, with nothing owed. -/
def Chan.settled (c : Chan) (x : Child) (f : Nat) : Bool :=
  c.expired f ||
    ((x.got.contains f || (x.kind == .leaf && x.present.any (fun e => e.node == x.addr && relHas e f))) &&
      !c.tree.owes.any (fun o => o.child == x.addr && o.frame == f))

/-- The settled frames in a row from `f` on; `fuel` bounds them. -/
def Chan.runFrom (c : Chan) (x : Child) : Nat → Nat → Nat
  | 0, _ => 0
  | fuel + 1, f => if c.settled x f then 1 + c.runFrom x fuel (f + 1) else 0

/-- The cumulative acknowledgement of a child (R179), none before the first. -/
def Chan.ackOf (c : Chan) (x : Child) : Option Nat :=
  match x.base with
  | none => none
  | some m =>
    let start := max m (c.b.now - c.b.num K.lateHorizon)
    let n := c.runFrom x (c.b.num K.lateHorizon + 1) start
    if n = 0 ∧ start = m then none else some (start + n - 1)

/-- The control fragment of a child (R179): credits, acknowledgement, and its entries when it is the first after an
attach (R178, R202 step 5). -/
def Chan.control (c : Chan) (x : Child) : Chan :=
  let credits := if x.entries.isSome then 16 else x.give
  let h : FragHdr :=
    { frame := match c.ackOf x with | some g => BitVec.ofNat 64 g | none => 0xFFFFFFFFFFFFFFFF,
      offset := 0, total := 0, typ := 1, replay := false, credits := BitVec.ofNat 8 credits,
      env := fragEnv (24 * (x.entries.getD []).length) }
  (c.onB (·.emit (.control x.addr h (x.entries.getD [])))).onChild x.addr (fun y =>
    { y with entries := none, give := 0, held := if x.entries.isSome then 16 else y.held + credits })

/-- The control fragments of a frame's opening (R179, R205). -/
def Chan.controls (c : Chan) : Chan :=
  (c.tree.children.filter (·.attached)).foldl (fun acc x =>
    match acc.tree.child x.addr with
    | some y => acc.control y
    | none => acc) c

/-! ### Packets of the channel's own (R180, R195, R205) -/

/-- The member leaves of the channel (R208). -/
def Chan.memberLeaves (c : Chan) : Nat := (c.tree.children.filter (fun x => x.kind == .leaf && x.member)).length

/-- The member channels below a root. [DEDUCED, assumption 41] -/
def Tree.memberChans (t : Tree) : List Child := t.children.filter (fun x => x.kind == .chan && x.member)

/-- Leaves that an adopter below this root serves and whose home channel is no member any more: they stay members, counted
here for the adopter (R398, R208). -/
def Tree.orphans (t : Tree) (own : Nat) : Nat :=
  let homes := own :: t.memberChans.map (fun x => x.addr.toNat % 2 ^ 16)
  let served := (t.grants.filter (·.active)).foldl (fun s g => LeafSet.union s g.leaves) ([] : LeafSet)
  ((served.filter (fun e => !homes.contains e.1)).map (fun e => popCount 24 e.2)).sum

/-- The members field for a level (Table 7.2, R208): the pod root counts its own channel among them. [DEDUCED, assumption 41] -/
def Chan.membersAt (c : Chan) (level : Nat) : Nat :=
  if level = 1 then c.memberLeaves
  else c.memberLeaves + (c.tree.memberChans.map (·.members)).sum + c.tree.orphans c.id

/-- The late blocks that go into a packet now, oldest frame first, while they fit into `room` bytes (R196); the others
wait. -/
def fitLate (tab : Nat → List Byte) (room : Nat) : List LateSec → List (LateSec × List Byte) × List LateSec
  | [] => ([], [])
  | l :: ls =>
    let t := tab l.sec.frame
    let d := lateBytes l.sec.frame l.sec.contributors l.sec.sets (mappedRecords t l.sec.level l.sec.slots l.maps)
    if d.length ≤ room then
      let r := fitLate tab (room - d.length) ls
      ((l, d) :: r.1, r.2)
    else ([], l :: ls)

/-- Late blocks have gone up in packet (dst, p): what they hold joins the stored aggregates (R197), and its
acknowledgement waits for the packet (R199). -/
def Chan.lateSent (c : Chan) (dst : Option Word) (p : Nat) (ls : List LateSec) : Chan :=
  ls.foldl (fun acc l =>
    let tb := acc.tree.table l.sec.frame
    (acc.onTree (fun t => { t.mapSec l.sec.frame l.sec.level
        (Sec.take tb l.sec.sets l.sec.contributors l.sec.shortBelow l.sec.slots) with
      late := t.late.filter (fun x => x.sec.uid != l.sec.uid),
      owes := t.owes.map (fun o => if o.uid == l.sec.uid then { o with pkt := some (dst, p) } else o) })).onB
        (·.bump K.lateBlocks)) c

/-- The late blocks of a level for a receiver, oldest frame first. -/
def Tree.lateFor (t : Tree) (level : Nat) (dst : Option Word) : List LateSec :=
  sortBy (fun l => l.sec.frame) (t.late.filter (fun l => l.sec.level == level && l.dst == dst))

/-- The assay records that ride in the packet of frame `f` (R169, Table 7.3): those of the frame, and of earlier frames that had no
packet. -/
def Chan.takeAssayUp (c : Chan) (f : Nat) : List Byte × Chan :=
  ((c.tree.assayUp.filter (fun p => decide (p.1 ≤ f))).flatMap (·.2),
   c.onTree (fun t => { t with assayUp := t.assayUp.filter (fun p => decide (f < p.1)) }))

/-- The block never opened frame `f` (R49). -/
def Blk.isMissed (b : Blk) (f : Nat) : Bool := decide (b.shortCauses f / causeMissed % 2 = 1)

/-- What was in force at the opening of a frame (R96). -/
def Tree.openedAt (t : Tree) (f : Nat) : Opened :=
  (t.opened.find? (fun o => o.frame == f)).getD { frame := f, tag := 0, part := 0xFFFF }

/-- The packet of frame `f` of a level goes up (R180, R195): journalled, with the late blocks that fit. -/
def Chan.sendUp (c : Chan) (s : Sec) : Chan :=
  let tb := c.tree.table s.frame
  let rs := upRecords tb s.slots
  let s0 := rs.flatMap AggRec.bytes
  let s2 := setBytes s.sets
  let asy := c.takeAssayUp s.frame
  let acks := asy.2.b.takeAcks s.frame
  let c1 := { asy.2 with b := acks.2 }
  let s8 := acks.1.flatMap ackBytes
  let used := 128 + s0.length + s2.length + asy.1.length + s8.length
  let late := fitLate c1.tree.table (1048576 - used) (c1.tree.lateFor s.level none)
  let o := c1.tree.openedAt s.frame
  let h : PktHdr :=
    { frame := s.frame, source := c.b.addr.toNat, tag := o.tag, part := o.part, aligned := c.b.num K.alignmentAssured == 1,
      missed := c.b.isMissed s.frame, shortBelow := s.shortBelow,
      short := c.b.isShort s.frame, seriesCount := rs.length,
      contributors := s.contributors, members := c.membersAt s.level,
      memberChannels := if s.level = 2 then c.tree.memberChans.length + 1 else 0,
      tableEpoch := tableApply c.tree.tables s.frame }
  let d := packetBytes h [s0, [], s2, late.1.flatMap (·.2), [], [], asy.1, [], s8, []]
  let sets := (s.frame, s.sets.entries) :: late.1.map (fun l => (l.1.sec.frame, l.1.sec.sets.entries))
  let c2 := c1.onB (fun b => b.journalPut (JEntry.fresh s.frame none d sets))
  let c3 := c2.onTree (fun t => { t with
    owes := t.owes.map (fun w => if w.uid == s.uid then { w with pkt := some (none, s.frame) } else w) })
  c3.lateSent none s.frame (late.1.map (·.1))

/-- The packets of late blocks for the answerers of adoptions (R205), at the close of frame `f`. -/
def Chan.sendAnswerers (c : Chan) (f : Nat) : Chan :=
  let dsts := (c.tree.late.filterMap (·.dst)).eraseDups
  dsts.foldl (fun acc a =>
    let late := fitLate acc.tree.table (1048576 - 128) (sortBy (fun l => l.sec.frame) (acc.tree.late.filter (fun l => l.dst == some a)))
    if late.1.isEmpty then acc
    else
      let o := acc.tree.openedAt f
      let h : PktHdr :=
        { frame := f, source := acc.b.addr.toNat, tag := o.tag, part := o.part, aligned := acc.b.num K.alignmentAssured == 1,
          missed := false, shortBelow := false, short := false, seriesCount := 0, contributors := 0, members := 0,
          memberChannels := 0, tableEpoch := tableApply acc.tree.tables f }
      let d := packetBytes h [[], [], [], late.1.flatMap (·.2), [], [], [], [], [], []]
      (acc.onB (fun b => b.journalPut (JEntry.fresh f (some a) d
        (late.1.map (fun l => (l.1.sec.frame, l.1.sec.sets.entries)))))).lateSent (some a) f (late.1.map (·.1))) c

/-- The pod root reduces its own channel packet of `f` into its pod aggregate, with its late blocks (R195). -/
def Chan.sendInto (c : Chan) (s : Sec) : Chan :=
  let give := fun (acc : Chan) (s : Sec) (block : Bool) =>
    let tb := acc.tree.table s.frame
    let sums := (upRecords tb s.slots).foldl (Sums.record tb 2) ({ slots := [], conflicts := 0, ovr := 0 } : Sums)
    let n := acc.tree.owes.length
    let acc1 := acc.arrive
      { frame := s.frame, level := 2, src := acc.b.addr, pktFrame := s.frame, set := s.sets, contributors := s.contributors,
        below := s.shortBelow || (!block && acc.b.isShort s.frame), sums := sums, block := block, dst := none, maps := 1 }
    -- what was owed below now waits for the section that took it
    let uid := match (acc1.tree.owes.drop n).head? with | some o => some o.uid | none => none
    acc1.onTree (fun t => { t with owes := (t.owes.take n).filterMap (fun o =>
      if o.uid == s.uid then uid.map (fun u => { o with uid := u }) else some o) })
  let c1 := give c s false
  let late := c1.tree.lateFor 1 none
  late.foldl (fun acc l =>
    let acc1 := give acc l.sec true
    let tb := acc1.tree.table l.sec.frame
    acc1.onTree (fun t => { t.mapSec l.sec.frame 1 (Sec.take tb l.sec.sets l.sec.contributors l.sec.shortBelow l.sec.slots) with
      late := t.late.filter (fun x => x.sec.uid != l.sec.uid) })) c1

/-- The channel's own entry in a leaf set: bit 24, and bit 25 for the records of a pod root (R193). -/
def Chan.ownSet (c : Chan) (level : Nat) : LeafSet :=
  if level = 1 then [(c.id, 2 ^ 24)] else [(c.id, 2 ^ 25)]

/-- The packet of a missed frame has zero series (R49): what the children have sent of it goes up as a late block.
[DEDUCED, assumption 16] -/
def Tree.emptySec (t : Tree) (f level : Nat) : Tree :=
  match t.sec f level with
  | none => t
  | some s =>
    if s.sets.isEmpty then t
    else
      let t1 := (t.needLate f level none 1).mapLate f level none (Sec.take (t.table f) s.sets s.contributors s.shortBelow s.slots)
      let uid := ((t1.late.find? (fun l => l.sec.frame == f && l.sec.level == level && l.dst == none)).map (fun l => l.sec.uid)).getD 0
      { t1.mapSec f level (fun s => Sec.fresh s.uid f level) with
        owes := t1.owes.map (fun o => if o.uid == s.uid then { o with uid := uid } else o) }

/-- The section of a level for frame `f` is complete by its deadline: it is released (R195). -/
def Chan.release (c : Chan) (f level : Nat) (sends : Bool) : Chan :=
  let c0 := if c.b.isMissed f && level != 3 then c.onTree (fun t => t.emptySec f level) else c
  let c1 := c0.onTree (fun t => (t.needSec f level).mapSec f level (fun s =>
    { s with done := true, sets := if level = 3 then s.sets else s.sets.union (c.ownSet level) }))
  match c1.tree.sec f level with
  | none => c1
  | some s =>
    if level = 3 then c1
    else if level = 1 ∧ c.tree.role f = 1 then c1.sendInto s
    else if sends then c1.sendUp s
    else c1

/-- Late data join the fleet aggregates, which are then handed again (R195): the frames concerned. -/
def Chan.lateFleet (c : Chan) : List Nat × Chan :=
  let late := c.tree.lateFor 3 none
  ((late.map (fun l => l.sec.frame)).eraseDups, late.foldl (fun acc l =>
    let uid := match acc.tree.sec l.sec.frame 3 with | some s => s.uid | none => 0
    acc.onTree (fun t => { t.mapSec l.sec.frame 3
        (Sec.take (t.table l.sec.frame) l.sec.sets l.sec.contributors l.sec.shortBelow l.sec.slots) with
      late := t.late.filter (fun x => x.sec.uid != l.sec.uid),
      owes := t.owes.map (fun o => if o.uid == l.sec.uid then { o with uid := uid } else o) })) c)

/-- A frame's fleet aggregate has been handed to egress: its sections are acknowledged (R199). -/
def Chan.handed (c : Chan) (f : Nat) : Chan :=
  match c.tree.sec f 3 with
  | none => c
  | some s => c.onTree (fun t => { t.mapSec f 3 (fun x => { x with done := true }) with
      owes := t.owes.filter (fun o => o.uid != s.uid) })

/-! ### Absence (R201, R208) -/

/-- The deadline of leaf packets of frame `f` passes: members without a packet are absent (R208), but for those that leave
or sleep (R395, R372). -/
def Chan.judgeAbsent (c : Chan) (f : Nat) : Chan :=
  (c.tree.children.filter (fun x => x.kind == .leaf && x.member && !x.away)).foldl (fun acc x =>
    if x.got.contains f then acc.onChild x.addr (fun y => { y with missed := 0, absentMade := false })
    else if (match x.leaving with | some w => decide (w ≤ f) | none => false) ||
        (match acc.leafValAt f x.addr K.powerState with | some v => decide (2 ≤ v.toNum) | none => false) then acc
    else
      ((acc.onB (·.bump K.absentContributions)).onChild x.addr (fun y =>
        { y with missed := y.missed + 1, missFrom := if y.missed = 0 then f else y.missFrom })).ruleIn 0x32 x.leafId 0 []) c

/-- LEAF_ABSENT (R201): two consecutive deadlines missed make a fault record located at the leaf. -/
def Chan.leafAbsent (c : Chan) (pos : Nat) : Chan :=
  match c.tree.children.find? (fun x => x.kind == .leaf && x.pos == pos && x.member) with
  | none => c
  | some x =>
    if x.missed < 2 ∨ x.absentMade = true then c
    else (c.fault 0x08 2 (locLeaf x.leafId) x.missFrom 0).onChild x.addr (fun y => { y with absentMade := true })

/-! ### Horizon (R177, R194, R196) -/

/-- The entries of a history that frames inside the horizon can still need. -/
def keepHist {α : Type} (live : Nat → Bool) (h : List (Nat × α)) : List (Nat × α) :=
  h.filter (fun e => live e.1) ++ ((h.find? (fun e => !live e.1)).map (fun e => [e])).getD []

/-- Drop what has left the late horizon. -/
def Chan.pruneTree (c : Chan) : Chan :=
  let live := fun f => !c.expired f
  c.onTree (fun t => { t with
    secs := t.secs.filter (fun s => live s.frame),
    late := t.late.filter (fun l => live l.sec.frame),
    added := t.added.filter (fun a => live a.frame),
    owes := t.owes.filter (fun o => live o.frame),
    opened := t.opened.filter (fun o => live o.frame),
    grants := t.grants.filter (fun g => g.active || live g.upTo),
    roles := keepHist live t.roles, tables := keepHist live t.tables,
    children := t.children.map (fun x => { x with
      parts := x.parts.filter (fun p => live p.frame), got := x.got.filter live,
      waits := x.waits.filter (fun w => live (pktHdr w).frame) }) })

end Sys2Proof.Machine
end

