-- ==== Sys2Proof/Machine/AssayChan.lean ====
section
/-! DEFINITION. Assay in a channel: records merged and forwarded (R169, R170), and the comparison of replica groups
(R171 to R173). -/

namespace Sys2Proof.Machine

/-- An assay record as its numbers (Table 6.2). -/
structure ARec where
  digest : Nat
  count : Nat
  tensor : Nat
  group : Nat
  replica : Nat
  side : Nat
  damaged : Bool
  incomplete : Bool
  epoch : Nat
  passes : Nat
  deriving DecidableEq, Repr

/-- The record that 32 bytes hold. -/
def aRec (b : List Byte) : ARec :=
  let n := leNat b
  { digest := bits n 192 64, count := bits n 128 64, tensor := bits n 108 20, group := bits n 100 8, replica := bits n 96 4,
    side := bits n 95 1, damaged := bit n 94, incomplete := bit n 93, epoch := bits n 77 16, passes := bits n 61 16 }

/-- A record as bytes. -/
def ARec.bytes (r : ARec) : List Byte :=
  natLe 32 (r.digest * 2 ^ 192 + r.count * 2 ^ 128 + r.tensor * 2 ^ 108 + r.group * 2 ^ 100 + r.replica * 2 ^ 96 +
    r.side * 2 ^ 95 + flag r.damaged * 2 ^ 94 + flag r.incomplete * 2 ^ 93 + r.epoch * 2 ^ 77 + r.passes % 2 ^ 16 * 2 ^ 61)

/-- Two records may be merged (R169). -/
def ARec.like (x y : ARec) : Bool :=
  x.tensor == y.tensor && x.group == y.group && x.replica == y.replica && x.side == y.side && x.epoch == y.epoch

/-- Merge (R169). -/
def ARec.merge (x y : ARec) : ARec :=
  { x with digest := (x.digest + y.digest) % gfP, count := x.count + y.count, passes := x.passes + y.passes,
           damaged := x.damaged || y.damaged, incomplete := x.incomplete || y.incomplete }

/-- Put a record among those that the packet of frame `f` forwards (R169). -/
def mergeARec (f : Nat) (r : ARec) : List (Nat × List Byte) → List (Nat × List Byte)
  | [] => [(f, r.bytes)]
  | x :: xs => if x.1 = f ∧ (aRec x.2).like r = true then (f, ((aRec x.2).merge r).bytes) :: xs else x :: mergeARec f r xs

/-- A group entry (Table 6.4): level, replicas, window. -/
def Chan.group (c : Chan) (g : Nat) : Nat × Nat × Nat :=
  let e := c.b.num (K.groupEntry + g)
  (bits e 8 2, bits e 16 5, bits e 32 11)

/-- The words of a tensor (R171): from a tensor table that the channel stores for one of its leaves, else open. [DEDUCED, assumption 36] -/
def Chan.tensorWords (c : Chan) (tensor : Nat) : Nat :=
  let entries := (c.currentRecs.filter (fun r => r.key == K.tensorTableActive)).flatMap (fun r => tensorTable r.v.toBytes)
  match entries.find? (fun e => e.tensor == tensor) with
  | some e => e.length
  | none => Config.tensorWords tensor

/-- The sum of a replica and side. -/
def AKey.sum (k : AKey) (rep side : Nat) : Option ASum := mfind k.sums (rep * 2 + side)

/-- A sum is complete (R171). -/
def sumFull (words : Nat) (s : Option ASum) : Bool :=
  match s with
  | some s => s.count == words && !s.damaged && !s.incomplete
  | none => false

/-- The sides of a key that hold any record. -/
def AKey.sides (k : AKey) : List Nat := [0, 1].filter (fun s => k.sums.any (fun e => e.1 % 2 == s))

/-- Every replica is complete on each side that holds any record (R172). -/
def AKey.allFull (k : AKey) (words replicas : Nat) : Bool :=
  k.sides.all (fun s => (List.range replicas).all (fun r => sumFull words (k.sum r s)))

/-- The subject number of a replica (Table 10.5). -/
def replicaUnit (group rep : Nat) : Nat := group * 16 + rep

/-- Close a key: later records of it are discarded (R172). -/
def Chan.closeKey (c : Chan) (k : AKey) : Chan :=
  { c with asy := { c.asy with
      keys := c.asy.keys.filter (fun x => !(x.group == k.group && x.tensor == k.tensor && x.epoch == k.epoch)),
      closed := c.asy.closed ++ [(k.group, k.tensor, k.epoch)] } }

/-- One record that this node compares (R171). -/
def Chan.keepRecord (c : Chan) (replicas : Nat) (r : ARec) : Chan :=
  let same := fun (k : AKey) => k.group == r.group && k.tensor == r.tensor && k.epoch == r.epoch
  let drop := c.onB (·.bump K.recordsDiscarded)
  if c.asy.closed.contains (r.group, r.tensor, r.epoch) ∨ replicas ≤ r.replica then drop
  else if (c.asy.keys.find? same).isNone ∧ 4096 ≤ c.asy.keys.length then
    (c.onB (·.bump K.keysRefused)).ruleIn 0x13 (replicaUnit r.group r.replica) (2 ^ r.replica) []
  else
    let k := (c.asy.keys.find? same).getD
      { group := r.group, tensor := r.tensor, epoch := r.epoch, opened := c.b.now, sums := [], ready := none }
    let s := (k.sum r.replica r.side).getD { digest := 0, count := 0, damaged := false, incomplete := false }
    let s1 : ASum := { digest := (s.digest + r.digest) % gfP, count := s.count + r.count, damaged := s.damaged || r.damaged,
                       incomplete := s.incomplete || r.incomplete }
    let k1 := { k with sums := mput k.sums (r.replica * 2 + r.side) s1 }
    let words := c.tensorWords r.tensor
    let k2 := { k1 with ready := if k1.allFull words replicas then some c.b.now else none }
    let c1 := { c with asy := { c.asy with
      keys := if (c.asy.keys.find? same).isSome then c.asy.keys.map (fun x => if same x then k2 else x)
        else c.asy.keys ++ [k2] } }
    if words < s1.count then
      (List.range replicas).foldl (fun acc i => acc.ruleIn 0x14 (replicaUnit r.group i) 0 []) (c1.closeKey k2)
    else c1

/-- One record that reaches the channel in a packet of a child of level `level`, counted to frame `f` (R170). -/
def Chan.takeRecord (c : Chan) (level f : Nat) (r : ARec) : Chan :=
  let g := c.group r.group
  let role := c.b.num K.treeRole
  let keeps := decide (g.1 = 1) || (decide (g.1 = 2) && role == 1) || (decide (g.1 = 3) && role == 2)
  if (1 ≤ g.1 ∧ g.1 < level) ∨ (level = 3 ∧ keeps = false) then c.onB (·.bump K.recordsDiscarded)
  else if keeps then c.keepRecord g.2.1 r
  else c.onTree (fun t => { t with assayUp := mergeARec f r t.assayUp })

/-- The assay sections that have come are merged (R169, R170); at the close of the reduction frame. -/
def Chan.reduceAssay (c : Chan) : Chan :=
  let mine := c.tree.riders.filter (fun r => r.sec == 6)
  let c0 := c.onTree (fun t => { t with riders := t.riders.filter (fun r => r.sec != 6) })
  let c1 := mine.foldl (fun acc r =>
    let level := match c.tree.child r.src with | some x => x.level | none => 1
    (pieces 32 r.data).foldl (fun a d => a.takeRecord level r.frame (aRec d)) acc) c0
  c1.onB (fun b => b.setNum K.keysOpen c1.asy.keys.length)

/-- The location of a replica in a fault record (Table 14.8). -/
def Chan.replicaLoc (c : Chan) (group rep : Nat) : Nat := c.id * 2 ^ 32 + group * 2 ^ 8 + rep

/-- The replicas of a key that are not complete on a side that holds records (R172). -/
def AKey.missing (k : AKey) (words replicas : Nat) : List Nat :=
  (List.range replicas).filter (fun r => k.sides.any (fun s => !sumFull words (k.sum r s)))

/-- A key is incomplete in these replicas (R172, Table 10.5). -/
def Chan.raiseIncomplete (c : Chan) (k : AKey) (miss : List Nat) : Chan :=
  let mask := miss.foldl setBit 0
  miss.foldl (fun acc r => acc.ruleIn 0x13 (replicaUnit k.group r) mask []) (c.onB (·.bump K.incompletes))

/-- The replicas missing at the window are incomplete (R172). -/
def Chan.raiseMissing (c : Chan) (k : AKey) (replicas : Nat) : Chan :=
  let miss := k.missing (c.tensorWords k.tensor) replicas
  if miss.isEmpty then c else c.raiseIncomplete k miss

/-- A key is closed as incomplete by a write of its group's entry (Table 6.6): the mask names the replicas that are missing, or every
replica when none is. [DESIGN CHOICE, assumption 86] -/
def Chan.raiseClosed (c : Chan) (k : AKey) (replicas : Nat) : Chan :=
  let miss := k.missing (c.tensorWords k.tensor) replicas
  c.raiseIncomplete k (if miss.isEmpty then List.range replicas else miss)

/-- One side of a key is compared (R172): agreement, divergence from the majority, or a split. -/
def Chan.compareSide (k : AKey) (words replicas : Nat) (c : Chan) (side : Nat) : Chan :=
  let full := (List.range replicas).filter (fun r => sumFull words (k.sum r side))
  let digest := fun r => match k.sum r side with | some s => s.digest | none => 0
  if full.isEmpty then c
  else
    let votes := fun r => (full.filter (fun q => digest q == digest r)).length
    match full.find? (fun r => decide (replicas < 2 * votes r)) with
    | none =>
      let mask := full.foldl setBit 0
      full.foldl (fun acc r => acc.ruleIn 0x11 (replicaUnit k.group r) mask []) (c.onB (·.bump K.splits))
    | some m =>
      let bad := full.filter (fun r => digest r != digest m)
      if bad.isEmpty then
        { c.onB (·.bump K.sidesAgreed) with
          asy := { c.asy with agreed := mput c.asy.agreed k.group (c.b.now + 1) } }
      else bad.foldl (fun acc r =>
        ((acc.onB (·.bump K.divergences)).ruleIn 0x10 (replicaUnit k.group r) 0 []).fault 5 3 (c.replicaLoc k.group r) c.b.now
          (k.tensor + k.epoch * 2 ^ 32)) c

/-- The two sides of each replica are compared (R172): equal counts and unequal digests are a transit. -/
def Chan.compareTransit (k : AKey) (words replicas : Nat) (c : Chan) : Chan :=
  ((List.range replicas).filter (fun r =>
    sumFull words (k.sum r 0) && sumFull words (k.sum r 1) &&
      (match k.sum r 0, k.sum r 1 with
       | some x, some y => x.count == y.count && x.digest != y.digest
       | _, _ => false))).foldl (fun acc r =>
    ((acc.onB (·.bump K.transits)).ruleIn 0x12 (replicaUnit k.group r) 0 []).fault 6 3 (c.replicaLoc k.group r) c.b.now
      (k.tensor + k.epoch * 2 ^ 32)) c

/-- A key is compared and closed (R172); `atWindow` says whether its window ended it. -/
def Chan.compareKey (c : Chan) (k : AKey) (atWindow : Bool) : Chan :=
  let replicas := (c.group k.group).2.1
  let words := c.tensorWords k.tensor
  let c1 := [0, 1].foldl (Chan.compareSide k words replicas) (c.onB (·.bump K.keysCompared))
  let c2 := Chan.compareTransit k words replicas c1
  let c3 := if atWindow then c2.raiseMissing k replicas else c2
  let c4 := c3.closeKey k
  c4.onB (fun b => b.setNum K.keysOpen c4.asy.keys.length)

/-- The comparisons of analysis frame `g` (R172): keys whose last sum completed in an earlier frame. -/
def Chan.compareReady (c : Chan) (g : Nat) : Chan :=
  (c.asy.keys.filter (fun k => match k.ready with | some r => decide (r < g) | none => false)).foldl
    (fun acc k => acc.compareKey k false) c

/-- ASSAY_WINDOW_EXPIRE (R172): a key open for its group's window is compared and closed. -/
def Chan.assayWindow (c : Chan) (group tensor epoch : Nat) : Chan :=
  match c.asy.keys.find? (fun k => k.group == group && k.tensor == tensor && k.epoch == epoch) with
  | none => c
  | some k => if c.b.now < k.opened + (c.group group).2.2 then c else c.compareKey k true

/-- GROUP_ENTRY_WRITE (R170, Table 6.6): the entry applies and the group's open keys are closed as incomplete. [DESIGN CHOICE, assumption 86] -/
def Chan.writeGroup (c : Chan) (group v : Nat) : Chan :=
  let mine := c.asy.keys.filter (fun k => k.group == group)
  let replicas := (c.group group).2.1
  let c1 := mine.foldl (fun acc k => (acc.raiseClosed k replicas).closeKey k) c
  c1.onB (fun b => (b.setNum (K.groupEntry + group) v).setNum K.keysOpen c1.asy.keys.length)

end Sys2Proof.Machine
end

