-- ==== Sys2Proof/Machine/Rehome.lean ====
section
/-! DEFINITION. Attach, release query and release answer (R202, R203, R205): how a channel takes a child over, and how it
answers for a child that leaves. -/

namespace Sys2Proof.Machine

/-! ### What has been added of a leaf (R202 step 3) -/

/-- The entry of a leaf by the sets added at a level: the frames of the late horizon, frames below counting as present. -/
def Chan.entryOf (c : Chan) (level leaf : Nat) : RelEntry :=
  let base := c.b.now - c.b.num K.lateHorizon
  let n := (List.range 64).foldl (fun acc k =>
    if bit ((c.tree.addedSet (base + k) level).bitsOf (leaf / 32)) (leaf % 32) then setBit acc k else acc) 0
  { node := BitVec.ofNat 32 leaf, base := BitVec.ofNat 64 base, bits := BitVec.ofNat 64 n }

/-- Both entries of one leaf say together which frames are present (R202 step 5): each is moved to the lower base. -/
def unionEntry (x y : RelEntry) : RelEntry :=
  let base := min x.base.toNat y.base.toNat
  let n := (List.range 64).foldl (fun acc k => if relHas x (base + k) || relHas y (base + k) then setBit acc k else acc) 0
  { node := x.node, base := BitVec.ofNat 64 base, bits := BitVec.ofNat 64 n }

/-- The home channels whose leaves lie under a named child: itself, and every one that a set of a section added from
`src` names (R202 step 3). -/
def Tree.homesFrom (t : Tree) (channel : Nat) (src : Word) : List Nat :=
  (channel :: ((t.added.filter (fun a => a.src == src)).flatMap (fun a => a.set.map (·.1)))).eraseDups

/-- The leaves under a named node: a leaf itself, or the slots of a channel's homes. -/
def Tree.leavesUnder (t : Tree) (node src : Word) : List Nat :=
  if bits node.toNat 28 4 = 0 then [node.toNat % 2 ^ 18]
  else (t.homesFrom (node.toNat % 2 ^ 16) src).flatMap (fun h => (List.range 24).map (fun k => h % 8192 * 32 + k))

/-- The set of some leaves. -/
def setOfLeaves (ls : List Nat) : LeafSet := ls.foldl (fun s l => s.union (leafSet l)) []

/-! ### Release query (R202 steps 1 to 3) -/

/-- The level at which this node added the data in question: that of the parent left when it is a child here, else that of
the child which leaves. -/
def Tree.queryLevel (t : Tree) (own left : Word) (node : Word) : Nat :=
  if left = own then (match t.child node with
    | some x => x.level
    | none => if bits node.toNat 28 4 = 0 then 1 else 2)
  else match t.child left with
    | some x => x.level
    | none => 2

/-- The child has moved to another parent: a member stays one, served by its adopter, and goes on hearing this node; an
adopted child is no longer one here (R203, R206, R398). -/
def Chan.moved (c : Chan) (a : Word) : Chan :=
  match c.tree.child a with
  | none => c
  | some x =>
    if x.member && !x.adopted then c.onChild a (fun y => { y with away := true, quiet := 0, heard := true })
    else c.onTree (fun t => { t with children := t.children.filter (fun y => y.addr != a) })

/-- The header of a fragment of type 0x2 to 0x4 (Table 7.1): the sender's current frame and the bytes of its payload. -/
def Blk.typeHdr (b : Blk) (typ bytes : Nat) : FragHdr :=
  { frame := BitVec.ofNat 64 b.now, offset := 0, total := BitVec.ofNat 24 bytes, typ := BitVec.ofNat 4 typ, replay := false,
    credits := 0, env := fragEnv bytes }

/-- The header of a release query, whose payload is an address, a count and addresses (R202 step 2). -/
def Blk.queryHdr (b : Blk) (nodes : List Word) : FragHdr := b.typeHdr 3 (8 + 4 * nodes.length)

/-- The header of a release answer, of 24 bytes an entry (R202 step 3). -/
def Blk.answerHdr (b : Blk) (es : List RelEntry) : FragHdr := b.typeHdr 4 (24 * es.length)

/-- RELEASE_QUERY_RECEIVE (R202): answered, or forwarded to this node's own parent in use. [DEDUCED, assumption 42] -/
def Chan.releaseQuery (c : Chan) (src left : Word) (nodes : List Word) : Chan :=
  let own := c.b.addr
  if !c.member then c
  else if left ≠ own ∧ (c.tree.child left).isNone = true then
    (if c.b.inUse = noChan then c else c.onB (fun b => b.emit (.query (chanAddr b.inUse) src (b.queryHdr nodes) left nodes)))
  else
    let entries := nodes.flatMap (fun n =>
      let level := c.tree.queryLevel own left n
      (c.tree.leavesUnder n (if left = own then n else left)).map (c.entryOf level))
    let grants := nodes.map (fun n =>
      ({ left := if left = own then n else left, origin := src,
         leaves := setOfLeaves (c.tree.leavesUnder n (if left = own then n else left)), upTo := c.b.now,
         level := c.tree.queryLevel own left n, active := true } : Grant))
    let level := match grants with | g :: _ => g.level | [] => 1
    let c1 := c.onTree (fun t =>
      let t1 := { t with grants := t.grants ++ grants }
      if (t.child src).isSome then t1
      else t1.putChild { Child.fresh src .guest 0 level with attached := true, entries := some [] })
    let c2 := if left = own then nodes.foldl Chan.moved c1 else c1
    c2.onB (fun b => b.emit (.answer src (b.answerHdr entries) entries))

/-! ### The new parent (R202 steps 4 and 5) -/

/-- Grants that ended: the child is back, or serves elsewhere under a later answer. -/
def Chan.endGrants (c : Chan) (a : Word) : Chan :=
  c.onTree (fun t => { t with grants := t.grants.map (fun g =>
    if !g.leaves.disjoint (setOfLeaves (t.leavesUnder a a)) then { g with active := false } else g) })

/-- Packets of late blocks may go to this node (R205). -/
def Blk.addAnswerer (b : Blk) (d : Word) : Blk :=
  let n : Answerer := { addr := d, credits := 0 }
  if b.link.answerers.any (fun n => n.addr == d) then b
  else { b with link := { b.link with answerers := b.link.answerers ++ [n] } }

/-- The pod that decides whether a leaf is in scope (R98): that of its home channel, which the channel holds for a leaf it adopts. [DESIGN CHOICE, assumption 85] -/
def Chan.podOf (c : Chan) (a : Word) : Nat :=
  match c.tree.child a with
  | some x => if x.adopted then x.pod else c.b.num K.podNumber
  | none => c.b.num K.podNumber

/-- The body of a PREPARE as it is forwarded to a node (R98, R99): unchanged, but to a leaf out of scope with an empty pod mask, by which the
leaf knows it. [DESIGN CHOICE, assumption 85] -/
def Chan.prepareBody (c : Chan) (dst : Word) (mask : Nat) (body : List Byte) : List Byte :=
  if bits dst.toNat 28 4 = 0 ∧ ¬ (c.podOf dst ≤ 127 ∧ mask.testBit (c.podOf dst) = true) then
    body.take 8 ++ natLe 16 0 ++ body.drop 24
  else body

/-- The requests of a fleet transaction that a parent holds, for one child (R99, R394): its PREPARE, its token and its
COMPENSATE. -/
def Chan.sendHeldOne (c : Chan) (dst : Word) (r : FleetRec) : Chan :=
  let n := r.body
  let body := natLe 32 (n.apply * 2 ^ 192 + n.mask * 2 ^ 64 + n.part * 2 ^ 48 + n.guard * 2 ^ 40 + n.action * 2 ^ 32)
  let c1 := if r.prepared then c.onB (fun b => b.request dst opPrepare r.seq.toNat r.items (c.prepareBody dst n.mask body)) else c
  let c2 := match r.token with
    | some true => c1.onB (fun b => b.request dst opCommitToken r.seq.toNat [] (natLe 8 n.apply))
    | some false => c1.onB (fun b => b.request dst opAbortToken r.seq.toNat [] [])
    | none => c1
  if r.compAt = 0 then c2 else c2.onB (fun b => b.request dst opCompensate r.seq.toNat [] (natLe 8 r.compAt))

/-- What a parent sends a child that it adopts or admits (R99, R394): every PREPARE, token and COMPENSATE that it holds
whose apply frame has not opened. -/
def Chan.sendHeld (c : Chan) (dst : Word) : Chan :=
  (c.b.fleet.filter (fun r => decide (c.b.now < r.body.apply) || decide (c.b.now < r.compAt))).foldl
    (fun acc r => acc.sendHeldOne dst r) c

/-- The first control fragment goes out: entries are the union of the answer and the node's own added set, and the child's
credits are granted (R202 step 5, R178). -/
def Chan.takeOver (c : Chan) (a : Word) (answer : List RelEntry) (answerer : Option (Word × Nat)) : Chan :=
  match c.tree.child a with
  | none => c
  | some x =>
    let own := (c.tree.leavesUnder a a).map (c.entryOf x.level)
    let mine := own.map (fun e => (answer.filter (fun r => r.node == e.node)).foldl unionEntry e)
    let extra := answer.filter (fun r => !own.any (fun e => e.node == r.node))
    let entries := mine ++ extra
    let c0 := c.endGrants a
    let c1 := c0.onChild a (fun y => { y with
      attached := true, entries := some entries, present := entries, held := 0, give := 0, since := c.b.now, away := false,
      answerer := answerer, base := none, got := [], parts := [] })
    let c2 := match answerer with
      | some (d, _) => c1.onB (fun b => b.addAnswerer d)
      | none => c1
    let c3 := c2.onTree (fun t => { t with asks := t.asks.filter (fun k => k.child != a) })
    let c4 := (if x.adopted then c3.onB (·.bump K.adoptions) else c3).sendHeld a
    match c4.tree.child a with
    | some y => c4.control y
    | none => c4

/-- Ask what of the child's data already sits above (R202 steps 1, 4): no query without a parent left, nor by a standby fleet root, which
has no answerer. A fleet root is the standby of the parent that a pod root leaves unless that parent is its own successor, which served
while the fleet root was away (R206). [DEDUCED, assumption 42] -/
def Chan.askRelease (c : Chan) (a left : Word) (own : Bool := false) : Chan :=
  match c.tree.child a with
  | none => c
  | some x =>
    if left = 0xFFFFFFFF ∨ left = c.b.addr ∨ (x.level = 3 ∧ left ≠ chanAddr (c.b.num K.roleSuccessor)) then c.takeOver a [] none
    else
      (c.onTree (fun t => { t with
        asks := t.asks.filter (fun k => k.child != a) ++ [{ child := a, left := left, onward := false, frame := c.b.now, own := own }] })).onB
        (fun b => b.emit (.query left b.addr (b.queryHdr [a]) left [a]))

/-- RELEASE_QUERY_TIMEOUT (R202 step 1): the query goes to this node's own parent in use. -/
def Chan.queryTimeout (c : Chan) (a : Word) : Chan :=
  match c.tree.asks.find? (fun k => k.child == a && !k.onward) with
  | none => c
  | some k =>
    let c1 := c.onTree (fun t => { t with asks := t.asks.map (fun q => if q.child == a then { q with onward := true } else q) })
    if c.b.inUse = noChan then c1 else c1.onB (fun b => b.emit (.query (chanAddr b.inUse) b.addr (b.queryHdr [a]) k.left [a]))

/-- RELEASE_ANSWER_MISSING (R202 step 4): every answered set counts as empty. -/
def Chan.answerMissing (c : Chan) (a : Word) : Chan :=
  if c.tree.asks.any (fun k => k.child == a) then c.takeOver a [] none else c

/-- Where the late blocks of a child go, and through how many mappings (R205). The answerer that is this node's own parent sits one level
above and is reached by the node's own packets. Any other is sent packets of its own: the parent left sits at this node's level; what it
sent its packets to sits one level above, when that is a pod root of this node's pod or the child is a channel, and else, as the fleet
root for a pod root's own leaves, two. -/
def Chan.answererFor (c : Chan) (child src left : Word) : Option (Word × Nat) :=
  let level := match c.tree.child child with | some x => x.level | none => 1
  if src = chanAddr c.b.inUse then none
  else if src = left then some (src, 0)
  else if level = 2 ∨ src = chanAddr (c.b.num K.parentActive) ∨ src = chanAddr (c.b.num K.parentStandby) then some (src, 1)
  else some (src, 2)

/-- RELEASE_ANSWER_RECEIVE (R202 steps 3 and 5, R205). -/
def Chan.releaseAnswer (c : Chan) (src : Word) (es : List RelEntry) : Chan :=
  let fits := fun (k : Ask) =>
    (k.onward || k.left == src) && es.any (fun e => (c.tree.leavesUnder k.child k.child).contains e.node.toNat)
  match c.tree.asks.find? fits with
  | none => c
  | some k =>
    c.takeOver k.child es (if k.own then none else c.answererFor k.child src k.left)

/-! ### Attach of a child (R202, R203) -/

/-- A child that this node may serve attaches, leaving `left`: the first attach starts the query, a later one repeats the
grant when the child has not heard it. -/
def Chan.attachKnown (c : Chan) (x : Child) (frame : Nat) (left : Word) : Chan :=
  let c1 := c.onTree (fun t => t.putChild { x with heard := true })
  if c.tree.asks.any (fun k => k.child == x.addr) then c1
  else if x.attached && !x.away && decide (frame ≤ x.since + 1) then c1
  else c1.askRelease x.addr left

/-- A leaf of another home channel attaches (R203). Its home channel lies in this channel's pod (R200), which is kept as its pod (R98).
It is refused while the leaves of a third home channel are served. -/
def Chan.adoptLeaf (c : Chan) (src : Word) (frame : Nat) (left : Word) : Chan :=
  let id := src.toNat % 2 ^ 18
  let others := c.tree.children.any (fun x => x.kind == .leaf && x.adopted && decide (x.leafId / 32 ≠ id / 32))
  if others then c.onB (·.bump K.adoptionsRefused)
  else
    let x := (c.tree.child src).getD { Child.fresh src .leaf (24 + id % 32) 1 with adopted := true, pod := c.b.num K.podNumber }
    c.attachKnown x frame left

/-! ### The opening of a frame -/

/-- Senders of late blocks whose adoptions have all ended are dropped, and so are answerers that nothing is owed to
(R205). -/
def Chan.dropGuests (c : Chan) : Chan :=
  let c1 := c.onTree (fun t => { t with children := t.children.filter (fun x =>
    x.kind != .guest || t.grants.any (fun g => g.active && g.origin == x.addr)) })
  c1.onB (fun b => { b with link := { b.link with answerers := b.link.answerers.filter (fun n =>
    b.journal.any (fun e => e.dst == some n.addr) ||
      c1.tree.children.any (fun x => match x.answerer with | some (d, _) => d == n.addr | none => false)) } })

end Sys2Proof.Machine
end

