-- ==== Sys2Proof/Machine/Image.lean ====
section
/-! DEFINITION. Signed images (R246, R265, R350): the signature block and the header fields that both kinds share. -/

namespace Sys2Proof.Machine

/-- Bits of an image header, `off` bytes from its start and `size` bytes long. -/
def hdrBits (img : List Byte) (lo width : Nat) : Nat := bits (leNat (img.take 128)) lo width

/-- The 160-byte signature block of Table 14.7 at its end: format, key slot, digest, r and s. -/
def sigBlock (img : List Byte) (off : Nat) : Nat × Nat × List Byte × List Byte :=
  let s := slice img off 160
  (leAt s 158 2, (leAt s 157 1), slice s 96 48, slice s 48 48 ++ slice s 0 48)

/-- R350: the image's length, digest, key and signature are right. -/
def Blk.signed (b : Blk) (img : List Byte) (off : Nat) : Bool :=
  let s := sigBlock img off
  let key := b.bytes (K.verifyKey + s.2.1)
  decide (img.length = off + 160) && decide (s.1 = 1) && decide (s.2.1 ≤ 3) &&
    decide (sha384 (img.take off) = s.2.2.1) && decide (key.length = 97) &&
    ecdsaVerify (beNat (slice key 1 48), beNat (slice key 49 48)) (img.take off) s.2.2.2

/-- The first check that fails: cause and index, (0, 0) when all pass. -/
def firstFail : List (Bool × Nat × Nat) → Nat × Nat
  | [] => (0, 0)
  | (ok, r) :: rest => if ok then firstFail rest else r

end Sys2Proof.Machine
end

