-- ==== Sys2Proof/Machine/SeriesUnit.lean ====
section
/-! DEFINITION. The series unit of a channel (chapter Series Unit and Drift). -/

namespace Sys2Proof.Machine

/-! ### Descriptors (Table 8.2) -/

/-- A channel series descriptor. -/
structure ChDesc where
  extract : Nat
  arg : Nat
  code : Nat
  phase : Nat
  param : Nat
  handoff : Bool
  slot : Nat
  deriving DecidableEq, Repr

/-- The descriptor that a U64 holds. -/
def chDesc (n : Nat) : ChDesc :=
  { extract := bits n 60 4, arg := bits n 56 4, code := bits n 54 2, phase := bits n 48 6, param := bits n 42 6,
    handoff := bit n 41, slot := bits n 0 19 }

/-- The cadence n = 4^c. -/
def ChDesc.cadence (d : ChDesc) : Nat := 4 ^ d.code

/-- The descriptors of a packed table. -/
def chTable (t : List Byte) : List ChDesc := (pieces 8 t).map (fun p => chDesc (leNat p))

/-- The extract suits the op of a slot (Table 8.3). [DEDUCED, assumption 44] -/
def ChDesc.suits (d : ChDesc) (e : AggEntry) : Bool :=
  match d.extract with
  | 0 => e.op == 1 || e.op == 2 || e.op == 3 || e.op == 4 || e.op == 7
  | 1 => e.op == 1
  | 2 => decide (1 ≤ e.op)
  | 3 => e.op == 5
  | 4 => e.op == 6
  | _ => false

/-- Every field holds a value inside Table 8.2; reserved bits are not judged (R8). -/
def chFieldOk (n : Nat) : Bool :=
  let d := chDesc n
  decide (d.phase < d.cadence) &&
    (match d.extract with
     | 3 => decide (1 ≤ d.arg) && decide (d.arg ≤ 12)
     | 4 => true
     | x => decide (x ≤ 2) && decide (d.arg = 0))

/-- The lane-cycles of an update (R226). -/
def ChDesc.cost (d : ChDesc) (e : AggEntry) : Nat := if d.extract = 3 then 48 + 2 ^ (e.w + 1) else 48

/-- The checks of R213 and R226 on a standby series table, with the aggregate table and the period in µs. [DEDUCED, assumption 44] -/
def chTableOk (agg : List Byte) (periodUs : Nat) (t : List Byte) : Bool :=
  let ns := (pieces 8 t).map leNat
  let ds := ns.map (fun n => (chDesc n, aggAt agg (chDesc n).slot))
  let load : Nat → Nat → Nat := fun level r =>
    ((ds.filter (fun p => p.2.level == level && r % p.1.cadence == p.1.phase)).map (fun p => p.1.cost p.2)).sum
  let peak : Nat → Nat := fun level => (List.range 64).foldl (fun m r => max m (load level r)) 0
  decide (t.length % 8 = 0) && decide (ns.length ≤ 524288) &&
    decide ((ds.filter (fun p => p.1.handoff)).length ≤ 262144) && ns.all chFieldOk &&
    ds.all (fun p => decide (1 ≤ p.2.level) && p.1.suits p.2) && decide (peak 1 + peak 2 + peak 3 ≤ 288000 * periodUs)

/-! ### Parameter sets (Table 8.4) -/

/-- A parameter set. -/
structure Param where
  alpha : Nat
  beta : Nat
  lam : Nat
  k : Nat
  h : Nat
  clip : Nat
  floor : Nat
  warmup : Nat
  gap : Nat
  rescale : Bool
  deriving DecidableEq, Repr

/-- Set `i` of the 64. -/
def Blk.param (b : Blk) (i : Nat) : Param :=
  let n := leAt (b.bytes K.paramSets) (32 * i) 32
  { alpha := bits n 224 32, beta := bits n 192 32, lam := bits n 160 32, k := bits n 128 32, h := bits n 96 32,
    clip := bits n 64 32, floor := bits n 32 32, warmup := bits n 16 16, gap := bits n 8 8, rescale := bit n 0 }

/-! ### Extraction (R214, R215, Table 8.3) -/

/-- What a scheduled series reads. -/
inductive Extracted where
  /-- No input; the extract does not suit the slot when the flag is set (0x1400:42). -/
  | absent (mismatch : Bool)
  | value (x count : Nat)
  deriving DecidableEq, Repr

/-- The least m with (2^23 + m)^128 ≥ 2^(j + 2944) (R191), by bits from `k` down. -/
def grainEdge (j : Nat) : Nat → Nat → Nat
  | 0, m => m
  | k + 1, m => if (2 ^ 23 + m + 2 ^ k - 1) ^ 128 < 2 ^ (j + 23 * 128) then grainEdge j k (m + 2 ^ k) else grainEdge j k m

/-- The lower bound of a grain code as binary32 (R215). -/
def grainLow (code : Nat) : Nat :=
  if code = 0 then 0
  else if 32513 ≤ code then posInf
  else ((code - 1) / 128 + 1) * 2 ^ 23 + grainEdge ((code - 1) % 128) 23 0

/-- The lowest place whose running count reaches `t`. -/
def runTo (h : NMap Nat) (t : Nat) : Nat → Nat → Nat → Nat
  | 0, p, _ => p
  | fuel + 1, p, acc =>
    let acc1 := acc + mget (fun _ => 0) h p
    if t ≤ acc1 then p else runTo h t fuel (p + 1) acc1

/-- R215: the quantile of a histogram for argument a. -/
def quantile (e : AggEntry) (a : SlotAcc) (arg : Nat) : Extracted :=
  let n := (a.hist.map (·.2)).sum
  if n = 0 then .absent false
  else .value (grainLow (e.base + runTo a.hist (n - n / 2 ^ arg) e.grains 0 0)) n

/-- A value of the slot's type as binary32. -/
def AggEntry.asF32 (e : AggEntry) (v : Nat) : Nat := if e.f32 then v else natF32 v

/-- R214: the input of a series from a slot; the entry is that of the table under which the frame was reduced. -/
def extract (d : ChDesc) (e : AggEntry) (a : SlotAcc) : Extracted :=
  if a.count = 0 ∨ a.conflict = true then .absent false
  else
    let sum : Extracted :=
      if e.f32 then (match a.sumF32 with | some x => .value x a.count | none => .absent false)
      else .value (natF32 a.sum.toNat) a.count
    match d.extract with
    | 0 =>
      match e.op with
      | 1 => sum
      | 4 => .value (natF32 a.count) a.count
      | 7 => (match a.one with | some x => .value (e.asF32 x.1) a.count | none => .absent false)
      | _ => (match a.val with | some v => .value (e.asF32 v) a.count | none => .value qNaN a.count)
    | 1 =>
      if e.f32 && (a.nan || a.ovr || a.posInf || a.negInf) then sum
      else .value (roundF32 (decide (a.sum < 0)) a.sum.natAbs (a.count * (if e.f32 then 2 ^ 96 else 1))) a.count
    | 2 => .value (natF32 a.count) a.count
    | 3 => quantile e a d.arg
    | _ => (match a.top[d.arg]? with | some x => .value (e.asF32 x.1) a.count | none => .absent false)

/-! ### The update (R218 to R223) -/

/-- floor(256 × acc / h), at most 255 (Table 8.5). -/
def cusumQ (acc h : Nat) : Nat :=
  if !f32Fin acc || f32Neg acc then 0 else min 255 (256 * f32Abs149 acc / max 1 (f32Abs149 h))

/-- start(s, x, c, D) of R218. [DEDUCED, assumption 43] -/
def SerState.start (s : SerState) (x c d : Nat) : SerState :=
  { s with level := x, trend := 0, variance := 0, cpos := 0, cneg := 0, updates := 1, state := 1, value := x, count := c,
           update := d }

/-- The level, trend, variance and accumulators are finite (R220). -/
def SerState.finite (s : SerState) : Bool :=
  f32Fin s.level && f32Fin s.trend && f32Fin s.variance && f32Fin s.cpos && f32Fin s.cneg

/-- What an update did, for the counters. -/
structure SerStep where
  st : SerState
  hand : Handoff
  drift : List Drift
  alarms : Nat
  restarted : Bool
  broken : Bool
  updated : Bool

/-- A hand-off record from a state (R223, Table 8.5). -/
def handOf (s : SerState) (p : Param) (value forecast z d state : Nat) (changed : Bool) : Handoff :=
  { value := value, forecast := forecast, z := z, qpos := cusumQ s.cpos p.h, qneg := cusumQ s.cneg p.h, tag := d % 256,
    changed := changed, down := false, up := false, state := state }

/-- The forecast level + m × trend (R218, R223). -/
def SerState.forecast (s : SerState) (m : Nat) : Nat := fAdd s.level (fMul (natF32 m) s.trend)

/-- A finite input meets a warming or running series inside its gap limit (R218); an alarm of a running update stands even
when the check that follows it returns the series to empty (R220, R222). -/
def serAdvance (i : Nat) (s0 : SerState) (p : Param) (rescales : Bool) (x c d m : Nat) : SerStep :=
  let changed := decide (c ≠ s0.count)
  let s1 :=
    if p.rescale && rescales && changed then
      let q := fDiv (natF32 c) (natF32 s0.count)
      { s0 with level := fMul s0.level q, trend := fMul s0.trend q, variance := fMul (fMul s0.variance q) q }
    else s0
  let f := s1.forecast m
  let e := fSub x f
  let ups := satAdd 32 s1.updates 1
  let s2 := { s1 with updates := ups, value := x, count := c, update := d }
  let ab := fMul p.alpha p.beta
  if s1.state = 1 then
    let g := fMaximum p.lam (fDiv (natF32 1) (natF32 (ups - 1)))
    let s3 := { s2 with
      level := fAdd f (fMul p.alpha e), trend := fAdd s1.trend (fMul ab e),
      variance := fAdd s1.variance (fMul g (fSub (fMul e e) s1.variance)), state := if ups = p.warmup then 2 else 1 }
    if s3.finite then
      { st := s3, hand := handOf s3 p x f qNaN d 1 changed, drift := [], alarms := 0, restarted := false, broken := false,
        updated := true }
    else
      { st := SerState.empty, hand := handOf SerState.empty p x f qNaN d 3 changed, drift := [], alarms := 0,
        restarted := false, broken := true, updated := true }
  else
    let sigma := fSqrt (fMaximum s1.variance p.floor)
    let z := fDiv e sigma
    let zc := fMinimum (fMaximum z (f32Negate p.clip)) p.clip
    let ec := fMul zc sigma
    let s3 := { s2 with
      level := fAdd f (fMul p.alpha ec), trend := fAdd s1.trend (fMul ab ec),
      variance := fAdd s1.variance (fMul p.lam (fSub (fMul ec ec) s1.variance)),
      cpos := fMaximum 0 (fSub (fAdd s1.cpos zc) p.k), cneg := fMaximum 0 (fSub (fSub s1.cneg zc) p.k) }
    let up := ieeeLe p.h s3.cpos
    let down := ieeeLe p.h s3.cneg
    let n := flag up + flag down
    let s4 : SerState :=
      if s3.finite then
        { s3 with
          cpos := if up then 0 else s3.cpos, cneg := if down then 0 else s3.cneg,
          alarm := if 0 < n then d else s3.alarm, alarms := satAdd 32 s3.alarms n }
      else SerState.empty
    { st := s4, hand := { handOf s3 p x f z d (if s3.finite then 0 else 3) changed with up := up, down := down },
      drift := (if up then [{ series := i, down := false, acc := s3.cpos }] else []) ++
        (if down then [{ series := i, down := true, acc := s3.cneg }] else []),
      alarms := n, restarted := false, broken := !s3.finite, updated := true }

/-- One scheduled series (R218, R223). [DEDUCED, assumption 43] -/
def serUpdate (i : Nat) (desc : ChDesc) (sumSlot : Bool) (s : SerState) (p : Param) (inp : Extracted) (d : Nat) : SerStep :=
  let m := (d - s.update) / desc.cadence
  let fc := if s.state = 0 then qNaN else s.forecast m
  match inp with
  | .absent _ =>
    let s1 := { s with gaps := satAdd 32 s.gaps 1 }
    { st := s1, hand := handOf s1 p qNaN fc qNaN d 2 false, drift := [], alarms := 0, restarted := false, broken := false,
      updated := false }
  | .value x c =>
    if !f32Fin x then
      { st := s, hand := handOf s p (if f32NaN x then qNaN else x) fc qNaN d 3 false, drift := [], alarms := 0,
        restarted := false, broken := false, updated := false }
    else if s.state = 0 ∨ p.gap < m then
      let s1 := s.start x c d
      { st := s1, hand := handOf s1 p x qNaN qNaN d 1 (decide (s.state ≠ 0) && decide (c ≠ s.count)), drift := [], alarms := 0,
        restarted := decide (s.state ≠ 0), broken := false, updated := true }
    else serAdvance i s p (decide (desc.extract = 0) && sumSlot) x c d m

/-! ### A frame's run (R211, R213, R224, R227) -/

/-- The data frame of a level as seen in update frame `g` (Table 8.1). -/
def dataFrame (g level : Nat) : Nat := g - 1 - max 1 level

/-- The state of a series. -/
def Series.state (s : Series) (i : Nat) : SerState := mget (fun _ => SerState.empty) s.states i

/-- The amount of work that a unit left over in the open frame (R40). -/
def Chan.left (c : Chan) (u : Unt) : Nat := ((c.ovr.filter (fun o => o.1 == u)).map (fun o => o.2.2)).sum

/-- The active series with their indices and table entries in force. -/
def Chan.seriesNow (c : Chan) : List (Nat × ChDesc × AggEntry) :=
  let t := chTable (c.b.bytes K.serSeriesTableActive)
  let agg := c.b.bytes K.aggTableActive
  ((List.range t.length).zip t).map (fun p => (p.1, p.2, aggAt agg p.2.slot))

/-- A series is scheduled in update frame `g` (R212). -/
def schedHere (g : Nat) (p : Nat × ChDesc × AggEntry) : Bool :=
  dataFrame g p.2.2.level % p.2.1.cadence == p.2.1.phase

/-- The position of a series' hand-off record: its rank among the descriptors with handoff set (R224). -/
def Chan.rankOf (c : Chan) (i : Nat) : Nat :=
  (((chTable (c.b.bytes K.serSeriesTableActive)).take i).filter (·.handoff)).length

/-- One series of the run: inactive, or updated from the aggregate of its data frame. Rules read the drift list (R222): an
entry that the list has no room for makes no rule input. -/
def Chan.runSeries (g : Nat) (c : Chan) (p : Nat × ChDesc × AggEntry) : Chan :=
  let i := p.1
  let desc := p.2.1
  let level := p.2.2.level
  let d := dataFrame g level
  let prm := c.b.param desc.param
  let s := c.ser.state i
  let put := fun (c : Chan) (h : Handoff) =>
    if desc.handoff then { c with ser := { c.ser with hand := mput c.ser.hand (c.rankOf i) h } } else c
  if !(c.tree.levels d).contains level then put c (handOf s prm qNaN qNaN qNaN d 4 false)
  else
    let e := aggAt (c.tree.table d) desc.slot
    let a := match c.tree.sec d level with | some sec => slotOf sec.slots desc.slot | none => SlotAcc.zero
    let inp := if !desc.suits e then .absent true else if e.level ≠ level then .absent false else extract desc e a
    let r := serUpdate i desc (decide (e.op = 1)) s prm inp d
    let b1 := match inp with
      | .absent mis =>
        let b1 := c.b.bump K.absentInputs
        if mis then b1.bump K.extractMismatches else b1
      | _ => c.b
    let b2 := if r.updated then b1.bump K.updates else b1
    let b3 := if r.restarted then b2.bump K.gapRestarts else b2
    let b4 := if r.broken then b3.bump K.nonfiniteResets else b3
    let room := b4.num K.driftListMax - c.ser.drift.length
    let b5 := (b4.bump K.alarms r.alarms).bump K.driftListDropped (r.drift.length - room)
    let c1 := { c with
      b := b5, ser := { c.ser with
        states := mset (fun _ => SerState.empty) c.ser.states i r.st, drift := c.ser.drift ++ r.drift.take room } }
    let c2 := put c1 r.hand
    (r.drift.take room).foldl (fun acc x => acc.ruleIn (if x.down then 0x21 else 0x20) i 0 []) c2

/-- The series unit's run in update frame `g`; the series not reached are those of highest index (R227). -/
def Chan.runSeriesUnit (c : Chan) (g : Nat) : Chan :=
  let sched := c.seriesNow.filter (schedHere g)
  let n := sched.length - min sched.length (c.left .series)
  let done := sched.take n
  let c0 := { c with ser := { c.ser with drift := [] } }
  let c1 := done.foldl (Chan.runSeries g) c0
  let cost := ((done.filter (fun p => (c.tree.levels (dataFrame g p.2.2.level)).contains p.2.2.level)).map
    (fun p => p.2.1.cost p.2.2)).sum
  c1.onB (fun b => (b.bump K.seriesNotReached (sched.length - n)).setNum K.laneCyclesLast cost)

/-- The data frame of the latest scheduled update of a series at or before update frame `g` (R224). -/
def latestData (g : Nat) (desc : ChDesc) (level : Nat) : Nat :=
  let d := dataFrame g level
  d - (d + desc.cadence - desc.phase) % desc.cadence

/-- The hand-off record of series `i` when it is not stale in frame `g` (R224); an unwritten record is stale. -/
def Chan.handoff (c : Chan) (g i : Nat) : Option Handoff :=
  match (chTable (c.b.bytes K.serSeriesTableActive))[i]? with
  | none => none
  | some desc =>
    let level := (aggAt (c.b.bytes K.aggTableActive) desc.slot).level
    if !desc.handoff then none
    else match mfind c.ser.hand (c.rankOf i) with
      | some h => if h.tag = latestData g desc level % 256 then some h else none
      | none => none

/-- CHANNEL_SERIES_SWAP (R213, R228): a series whose descriptor is the same but for param_set and handoff keeps its state.
The hand-off records stay at their positions until they are rewritten (R224). -/
def Chan.swapSeries (c : Chan) : Chan :=
  let old := chTable (c.b.bytes K.serSeriesTableActive)
  let t := c.b.bytes K.serSeriesTableStandby
  let new := chTable t
  let core := fun (d : ChDesc) => { d with param := 0, handoff := false }
  let keep := fun i => match old[i]?, new[i]? with
    | some x, some y => core x == core y
    | _, _ => false
  { c with
    b := ((c.b.setBytes K.serSeriesTableActive t).setNum K.serSeriesCount new.length).setNum K.handoffCount
      (new.filter (·.handoff)).length,
    ser := { c.ser with states := mfilter keep c.ser.states } }

/-- The selected state record as bytes (Table 8.6), none beyond the table (R225). -/
def Chan.seriesRead (c : Chan) : List Byte :=
  let i := c.b.num K.serStateSelect
  if c.b.num K.serSeriesCount ≤ i then []
  else
    let s := c.ser.state i
    natLe 4 s.state ++ natLe 4 0 ++ natLe 4 s.alarms ++ natLe 4 s.gaps ++ natLe 4 s.updates ++ natLe 8 s.alarm ++
      natLe 8 s.update ++ natLe 4 s.count ++ natLe 4 s.value ++ natLe 4 s.cneg ++ natLe 4 s.cpos ++ natLe 4 s.variance ++
      natLe 4 s.trend ++ natLe 4 s.level

end Sys2Proof.Machine
end

