-- ==== Sys2Proof/Machine/BalanceUnit.lean ====
section
/-! DEFINITION. The facet stage and the balance engine (chapter Facet Stage and Balance Engine). -/

namespace Sys2Proof.Machine

/-! ### The image (Tables 9.1, 9.3, 9.6, 9.7, 9.10) -/

/-- The header of a balance image. -/
structure BalHdr where
  kind : Nat
  format : Nat
  version : Nat
  id : Nat
  period : Nat
  width : Nat
  sets : Nat
  facets : Nat
  trees : Nat
  edges : Nat
  nodes : Nat
  facetCycles : Nat
  evaluations : Nat
  rowBytes : Nat
  sig : Nat
  deriving DecidableEq, Repr

/-- The header that an image begins with. -/
def balHdr (img : List Byte) : BalHdr :=
  let h := hdrBits img
  { kind := h 1008 16, format := h 992 16, version := h 960 32, id := h 896 64, period := h 880 16, width := h 872 8,
    sets := h 864 8, facets := h 848 16, trees := h 832 16, edges := h 800 32, nodes := h 768 32, facetCycles := h 736 32,
    evaluations := h 704 32, rowBytes := h 672 32, sig := h 640 32 }

/-- The bytes of an image before its facets, edges, directory, nodes and signature. -/
def BalHdr.edgeAt (h : BalHdr) : Nat := 384 + 32 * h.facets

/-- The tree directory's place. -/
def BalHdr.dirAt (h : BalHdr) : Nat := h.edgeAt + 4 * h.edges

/-- The node section's place. -/
def BalHdr.nodeAt (h : BalHdr) : Nat := h.dirAt + 4 * h.trees

/-- The signature block's place. -/
def BalHdr.endAt (h : BalHdr) : Nat := h.nodeAt + 4 * h.nodes

/-- A row set entry. -/
structure RowSet where
  rows : Nat
  facets : Nat
  facetFirst : Nat
  trees : Nat
  treeFirst : Nat
  level : Nat
  code : Nat
  phase : Nat
  shift : Nat
  base : Int
  deriving DecidableEq, Repr

/-- Row set k of an image. -/
def rowSet (img : List Byte) (k : Nat) : RowSet :=
  let n := leAt img (128 + 32 * k) 32
  { rows := bits n 224 32, facets := bits n 208 16, facetFirst := bits n 192 16, trees := bits n 178 14,
    treeFirst := bits n 165 13, level := bits n 163 2, code := bits n 161 2, phase := bits n 155 6, shift := bits n 150 5,
    base := signed 64 (bits n 64 64) }

/-- The row sets in use. -/
def rowSets (img : List Byte) : List RowSet := (List.range (balHdr img).sets).map (rowSet img)

/-- The cadence n = 4^c. -/
def RowSet.cadence (s : RowSet) : Nat := 4 ^ s.code

/-- A facet entry. -/
structure Facet where
  kind : Nat
  field : Nat
  arg : Nat
  transform : Nat
  base : Nat
  stride : Nat
  crossA : Nat
  crossB : Nat
  bins : Nat
  edgeFirst : Nat
  offset : Nat
  factor : Nat
  deriving DecidableEq, Repr

/-- Facet i of the table. -/
def facetAt (img : List Byte) (i : Nat) : Facet :=
  let n := leAt img (384 + 32 * i) 32
  { kind := bits n 252 4, field := bits n 248 4, arg := bits n 244 4, transform := bits n 242 2, base := bits n 218 19,
    stride := bits n 199 19, crossA := bits n 189 10, crossB := bits n 179 10, bins := bits n 163 16, edgeFirst := bits n 139 24,
    offset := bits n 96 32, factor := bits n 64 32 }

/-- Edge i of the pool. -/
def edgeOf (img : List Byte) (i : Nat) : Nat := leAt img ((balHdr img).edgeAt + 4 * i) 4

/-- Tree i: its depth and the word of its root. -/
def treeAt (img : List Byte) (i : Nat) : Nat × Nat :=
  let n := leAt img ((balHdr img).dirAt + 4 * i) 4
  (bits n 24 5, bits n 0 24)

/-- Word w of the node section. -/
def nodeWord (img : List Byte) (w : Nat) : Nat := leAt img ((balHdr img).nodeAt + 4 * w) 4

/-- A split's left child, and its right child. -/
def leftChild (img : List Byte) (w : Nat) : Nat := nodeWord img (w + 1) % 2 ^ 24

/-- The right child of a split. -/
def rightChild (img : List Byte) (w : Nat) : Nat := leftChild img w + (if bit (nodeWord img w) 29 then 1 else 2)

/-! ### The checks of Table 9.11 -/

/-- The bytes of one code. -/
def BalHdr.codeBytes (h : BalHdr) : Nat := if h.width = 8 then 1 else 2

/-- The quantities of Table 9.9: facet-cycles, evaluations and row store. -/
def balCost (img : List Byte) : Nat × Nat × Nat :=
  let h := balHdr img
  let ss := rowSets img
  let peak := (List.range 64).foldl (fun m r =>
    max m ((ss.filter (fun s => r % s.cadence == s.phase)).map (fun s => s.rows * s.facets)).sum) 0
  (peak, (ss.map (fun s => (s.rows + s.cadence - 1) / s.cadence * s.trees)).sum,
    (ss.map (fun s => s.rows * s.facets * h.codeBytes)).sum)

/-- A row set entry in use lies inside Table 9.1, its ranges inside the tables. -/
def RowSet.ok (s : RowSet) (h : BalHdr) : Bool :=
  decide (1 ≤ s.rows) && decide (s.rows ≤ 65536) && decide (1 ≤ s.facets) && decide (s.facets ≤ 1024) &&
    decide (s.facetFirst + s.facets ≤ h.facets) && decide (s.trees ≤ 8192) && decide (s.treeFirst + s.trees ≤ h.trees) &&
    decide (1 ≤ s.level) && decide (s.level ≤ 3) && decide (s.phase < s.cadence) && decide (-(2 ^ 62) ≤ s.base) &&
    decide (s.base < 2 ^ 62)

/-- The counts of the header lie inside Table 9.10, and the parts lie as R246 gives. -/
def balFormat (img : List Byte) : List (Bool × Nat × Nat) :=
  let h := balHdr img
  let head := (h.width == 8 || h.width == 16) && decide (1 ≤ h.sets) && decide (h.sets ≤ 8) && decide (1 ≤ h.facets) &&
    decide (h.facets ≤ 8192) && decide (h.trees ≤ 8192) && decide (h.edges ≤ 262144) && decide (h.nodes ≤ 16777216) &&
    decide (h.sig = h.endAt)
  (head, 4, 0) :: (List.range 8).map (fun k =>
    (if k < h.sets then (rowSet img k).ok h else leAt img (128 + 32 * k) 32 == 0, 4, k))

/-- Edges are finite and no subnormals, and rise strictly. -/
def edgesRise : List Nat → Bool
  | [] => true
  | [x] => f32Fin x && !f32Sub x
  | x :: y :: rest => f32Fin x && !f32Sub x && ieeeLt x y && edgesRise (y :: rest)

/-- The edges of a facet. -/
def facetEdges (img : List Byte) (f : Facet) : List Nat := (List.range (f.bins - 1)).map (fun k => edgeOf img (f.edgeFirst + k))

/-- Facet i lies inside Table 9.3, in the table and in every row set that holds it (R234, R235, R239). -/
def facetOk (img : List Byte) (i : Nat) : Bool :=
  let h := balHdr img
  let f := facetAt img i
  let cap := if h.width = 8 then 255 else 65535
  let sets := (rowSets img).filter (fun s => decide (s.facetFirst ≤ i) && decide (i < s.facetFirst + s.facets))
  let crossOk := fun (s : RowSet) =>
    decide (f.crossA < i - s.facetFirst) && decide (f.crossB < i - s.facetFirst) &&
      decide (f.bins = (facetAt img (s.facetFirst + f.crossA)).bins * (facetAt img (s.facetFirst + f.crossB)).bins)
  decide (f.kind ≤ 2) && decide (1 ≤ f.bins) && decide (f.bins ≤ cap) &&
    (match f.kind with
     | 2 => decide (f.field = 0) && decide (f.transform = 0) && decide (f.base = 0) && decide (f.stride = 0) &&
         decide (f.edgeFirst = 0) && decide (f.arg = 0) && sets.all crossOk
     | k =>
       (if k = 0 then decide (f.field ≤ 5) else f.field == 0 || f.field == 1 || f.field == 2 || f.field == 4) &&
         (decide (f.arg = 0) || (decide (k = 1) && decide (f.field = 4))) && decide (f.crossA = 0) && decide (f.crossB = 0) &&
         (if f.bins = 1 then decide (f.edgeFirst = 0)
          else decide (f.edgeFirst + (f.bins - 1) ≤ h.edges) && edgesRise (facetEdges img f)) &&
         (decide (f.transform ≠ 1) || (f32Fin f.offset && f32Fin f.factor && !f32Zero f.factor)) &&
         sets.all (fun s => decide (f.base + (s.rows - 1) * f.stride ≤ 524287)))

/-- Walk a tree from a word: the words it takes and its longest path, or the word that is at fault. `lim` bounds the
facets it may test. -/
def walkTree (img : List Byte) (lim : Nat) : Nat → Nat → Nat ⊕ (List Nat × Nat)
  | 0, w => .inl w
  | fuel + 1, w =>
    let h := balHdr img
    let n := nodeWord img w
    if bit n 31 then .inr ([w], 0)
    else if h.nodes ≤ w + 1 ∨ (h.width = 8 ∧ 0xFE < bits n 3 16) ∨ bits n 3 16 = 0xFFFF ∨ lim ≤ bits n 19 10 then .inl w
    else if h.nodes ≤ leftChild img w ∨ h.nodes ≤ rightChild img w then .inl w
    else match walkTree img lim fuel (leftChild img w), walkTree img lim fuel (rightChild img w) with
      | .inl x, _ => .inl x
      | _, .inl x => .inl x
      | .inr x, .inr y => .inr (w :: (w + 1) :: x.1 ++ y.1, 1 + max x.2 y.2)

/-- The first entry of a list that occurs again, or lacks among the words below n. -/
def wordFault (n : Nat) (ws : List Nat) : Option Nat :=
  (List.range n).find? (fun w => ((ws.filter (fun x => x == w)).length) != 1)

/-- The node checks (cause 0x06): every word in exactly one tree, every tree as deep as its directory entry says. -/
def balNodes (img : List Byte) : List (Bool × Nat × Nat) :=
  let h := balHdr img
  let lim := fun i => (((rowSets img).filter (fun s => decide (s.treeFirst ≤ i) && decide (i < s.treeFirst + s.trees))).map
    (·.facets)).foldl min 1024
  let walks := (List.range h.trees).map (fun i =>
    let t := treeAt img i
    (i, t, if t.2 < h.nodes then walkTree img (lim i) 17 t.2 else .inl t.2))
  let each := walks.map (fun p => match p.2.2 with
    | .inl w => (false, 6, w)
    | .inr r => (decide (r.2 = p.2.1.1) && decide (r.2 ≤ 16), 6, p.2.1.2))
  let all := walks.flatMap (fun p => match p.2.2 with | .inl _ => [] | .inr r => r.1)
  each ++ [match wordFault h.nodes all with | some w => (false, 6, w) | none => (true, 6, 0)]

/-- R248: the cause of a refusal and the index of the offending entry, (0, 0) when the image is ready; `other` is the
node words of the image in the other slot. -/
def Blk.balCheck (b : Blk) (img : List Byte) (other : Nat) : Nat × Nat :=
  let h := balHdr img
  let p := b.num K.framePeriodActive
  let cost := balCost img
  let early := firstFail ([
    (b.signed img h.sig, 1, 0),
    (h.kind == 1 && h.format == 1 && h.version == 0x00030000, 2, 0),
    (h.period == p, 3, 0)] ++ balFormat img)
  if early ≠ (0, 0) then early
  else firstFail ((List.range h.facets).map (fun i => (facetOk img i, 5, i)) ++
    (List.range h.edges).map (fun i => (f32Fin (edgeOf img i) && !f32Sub (edgeOf img i), 5, i)) ++ balNodes img ++ [
    (h.facetCycles == cost.1 && h.evaluations == cost.2.1 && h.rowBytes == cost.2.2, 7, 0),
    (decide (cost.1 ≤ 72000 * p) && decide (cost.2.1 ≤ 40000 * p) && decide (cost.2.2 ≤ 4194304), 8, 0),
    (decide (h.nodes + other ≤ 16777216), 9, 0)])

/-! ### Facets (R235 to R239) -/

/-- The missing code of a plan. -/
def BalHdr.missing (h : BalHdr) : Nat := if h.width = 8 then 0xFF else 0xFFFF

/-- log2 in grains of 1/128 octave (Table 9.5). -/
def log2Grain (x : Nat) : Nat :=
  if f32NaN x then qNaN
  else if f32Zero x ∨ f32Sub x = true then posInf + 2 ^ 31
  else if f32Neg x then qNaN
  else if f32Inf x then posInf
  else ratF32 ((grainCode x : Int) - 1 - 126 * 128) 128

/-- The transform of a facet (R236). -/
def Facet.apply (f : Facet) (x0 : Nat) : Nat :=
  let x := flushIn x0
  match f.transform with
  | 0 => x
  | 1 => flushOut (mulF32 (flushOut (subF32 x f.offset)) f.factor)
  | 2 => log2Grain x
  | _ => fAbs x

/-- The code of an input among the edges (R237). -/
def binOf (missing y : Nat) (edges : List Nat) : Nat :=
  if f32NaN y then missing else (edges.takeWhile (fun e => !ieeeLe y e)).length

/-- What a facet reads (R235): its input, whether it is stale (by its frame_tag, or as a series of another level than the
set's), and whether its source does not match: no hand-off record, or a slot of another level or op (R249). [DEDUCED, assumption 45] -/
def Chan.facetInput (c : Chan) (s : RowSet) (d r : Nat) (f : Facet) : Nat × Bool × Bool :=
  let i := f.base + r * f.stride
  if f.kind = 0 then
    match (chTable (c.b.bytes K.serSeriesTableActive))[i]? with
    | none => (qNaN, false, true)
    | some desc =>
      if !desc.handoff then (qNaN, false, true)
      else match mfind c.ser.hand (c.rankOf i) with
        | none => (qNaN, true, false)
        | some h =>
          let x := match f.field with
            | 0 => h.value
            | 1 => h.forecast
            | 2 => h.z
            | 3 => subF32 h.value h.forecast
            | 4 => natF32 h.qpos
            | _ => natF32 h.qneg
          (x, decide (h.tag ≠ d % 256) || decide ((aggAt (c.b.bytes K.aggTableActive) desc.slot).level ≠ s.level), false)
  else
    let e := aggAt (c.tree.table d) i
    let desc : ChDesc := { extract := f.field, arg := f.arg, code := 0, phase := 0, param := 0, handoff := false, slot := i }
    let a := match c.tree.sec d s.level with | some sec => slotOf sec.slots i | none => SlotAcc.zero
    if e.level = s.level ∧ desc.suits e = true then
      match extract desc e a with
      | .value x _ => (x, false, false)
      | .absent _ => (qNaN, false, false)
    else (qNaN, false, true)

/-- One facet of a row, appended to the codes so far (R239): the codes, a stale source, an unbound source. -/
def Chan.facetStep (c : Chan) (img : List Byte) (s : RowSet) (d r : Nat) (acc : List Nat × Bool × Nat) (k : Nat) :
    List Nat × Bool × Nat :=
  let h := balHdr img
  let f := facetAt img (s.facetFirst + k)
  if f.kind = 2 then
    let a := (acc.1[f.crossA]?).getD h.missing
    let b := (acc.1[f.crossB]?).getD h.missing
    let code := if a = h.missing ∨ b = h.missing then h.missing
      else a * (facetAt img (s.facetFirst + f.crossB)).bins + b
    (acc.1 ++ [code], acc.2)
  else
    let x := c.facetInput s d r f
    (acc.1 ++ [binOf h.missing (f.apply x.1) (facetEdges img f)], acc.2.1 || x.2.1, acc.2.2 + flag x.2.2)

/-- The key of a score record. -/
def scoreKey (set row : Nat) : Nat := set * 65536 + row

/-- A record before the first score (R251). -/
def Score.none_ : Score := { score := qNaN, tag := 0, missing := 0, state := 3 }

/-- The score record of a row. -/
def Balance.score (x : Balance) (set row : Nat) : Score := mget (fun _ => Score.none_) x.scores (scoreKey set row)

/-- Write a score record. -/
def Chan.putScore (c : Chan) (set row : Nat) (s : Score) : Chan :=
  { c with bal := { c.bal with scores := mset (fun _ => Score.none_) c.bal.scores (scoreKey set row) s } }

/-- A row keeps its score and takes state 1 (R243, R244). [DEDUCED, assumption 45] -/
def Chan.staleRow (c : Chan) (set row : Nat) : Chan :=
  let old := c.bal.score set row
  (c.putScore set row { old with state := 1 }).onB (·.bump K.rowsStale)

/-- One row is built (R235, R238). -/
def Chan.buildRow (img : List Byte) (set : Nat) (s : RowSet) (d : Nat) (c : Chan) (r : Nat) : Chan :=
  let h := balHdr img
  let x := (List.range s.facets).foldl (c.facetStep img s d r) ([], false, 0)
  let miss := (x.1.filter (fun k => k == h.missing)).length
  let b1 := ((c.b.bump K.rowsBuilt).bump K.missingCodes miss).bump K.sourceUnbound x.2.2
  let b2 := if x.2.1 then b1.bump K.rowsStaleInput else b1
  let old := (mfind c.bal.builds set).getD { frame := 0, data := 0, rows := [] }
  let row : RowRec := { codes := x.1, missing := miss, stale := x.2.1 }
  let bd : SetBuild := { old with rows := mput old.rows r row }
  { c with b := b2, bal := { c.bal with builds := mput c.bal.builds set bd } }

/-- The role does not reduce the row set's level (R232). -/
def Chan.setIdle (c : Chan) (g : Nat) (s : RowSet) : Bool := !(c.tree.levels (dataFrame g s.level)).contains s.level

/-- The facet stage's run in frame `g` (R232, R244): row sets of reduced levels whose data frame is due; the rows not built
are the last ones. The records of the other levels read state 4. -/
def Chan.runFacets (c : Chan) (g : Nat) : Chan :=
  let img := c.b.bytes K.activeImage
  if img.isEmpty then c
  else
    let sets := (List.range (balHdr img).sets).map (fun k => (k, rowSet img k))
    let active := sets.filter (fun p => dataFrame g p.2.level % p.2.cadence == p.2.phase && !c.setIdle g p.2)
    let idle := sets.filter (fun p => c.setIdle g p.2)
    let c0 := idle.foldl (fun acc p => (List.range p.2.rows).foldl (fun a r =>
      a.putScore p.1 r { Score.none_ with state := 4 }) acc) c
    let c1 := active.foldl (fun acc p =>
      let bd : SetBuild := { frame := g, data := dataFrame g p.2.level, rows := [] }
      { acc with bal := { acc.bal with builds := mput acc.bal.builds p.1 bd } }) c0
    let jobs := active.flatMap (fun p => (List.range p.2.rows).map (fun r => (p.1, p.2, r)))
    let n := jobs.length - min jobs.length (c.left .facet)
    let c2 := (jobs.take n).foldl (fun acc j => acc.buildRow img j.1 j.2.1 (dataFrame g j.2.1.level) j.2.2) c1
    let c3 := (jobs.drop n).foldl (fun acc j => (acc.staleRow j.1 j.2.2).onB (·.bump K.rowsNotBuilt)) c2
    c3.onB (fun b => b.setNum K.facetCyclesLast ((jobs.take n).map (fun j => j.2.1.facets)).sum)

/-! ### Trees and scores (R241 to R244) -/

/-- The leaf value that a row reaches in a tree (R241). -/
def runTree (img : List Byte) (codes : List Nat) : Nat → Nat → Int
  | 0, _ => 0
  | fuel + 1, w =>
    let n := nodeWord img w
    if bit n 31 then signed 31 (n % 2 ^ 31)
    else
      let code := (codes[bits n 19 10]?).getD (balHdr img).missing
      let right := if code = (balHdr img).missing then bit n 30 else decide (bits n 3 16 < code)
      runTree img codes fuel (if right then rightChild img w else leftChild img w)

/-- s × 2^−q with s rounded once (R242). -/
def scoreOf (s : Int) (q : Nat) : Nat := ratF32 s (2 ^ q)

/-- One row is evaluated (R242, R243). -/
def Chan.scoreRow (img : List Byte) (set : Nat) (s : RowSet) (bd : SetBuild) (c : Chan) (r : Nat) : Chan :=
  match mfind bd.rows r with
  | none => c
  | some row =>
    if row.stale then c.staleRow set r
    else if row.missing = s.facets then
      (c.putScore set r { score := qNaN, tag := bd.data % 256, missing := min 255 row.missing, state := 2 }).onB
        (·.bump K.rowsAllMissing)
    else
      let sum := (List.range s.trees).foldl (fun acc k => acc + runTree img row.codes 17 (treeAt img (s.treeFirst + k)).2) s.base
      (c.putScore set r { score := scoreOf sum s.shift, tag := bd.data % 256, missing := min 255 row.missing, state := 0 }).onB
        (fun b => (b.bump K.rowsScored).bump K.evaluations s.trees)

/-- The rows of slice k (R233). -/
def RowSet.slice (s : RowSet) (k : Nat) : List Nat :=
  (List.range s.rows).filter (fun r => r * s.cadence / s.rows == k)

/-- The balance engine's run in frame `g` (R233, R244): the slices due; the rows not finished are the last ones. -/
def Chan.runBalance (c : Chan) (g : Nat) : Chan :=
  let img := c.b.bytes K.activeImage
  if img.isEmpty then c
  else
    let jobs := (List.range (balHdr img).sets).flatMap (fun k =>
      let s := rowSet img k
      match mfind c.bal.builds k with
      | none => []
      | some bd => if bd.frame ≤ g ∧ g < bd.frame + s.cadence ∧ c.setIdle g s = false then (s.slice (g - bd.frame)).map (fun r => (k, s, bd, r)) else [])
    let n := jobs.length - min jobs.length (c.left .balance)
    let before := c.b.num K.evaluations
    let c1 := (jobs.take n).foldl (fun acc j => acc.scoreRow img j.1 j.2.1 j.2.2.1 j.2.2.2) c
    let c2 := (jobs.drop n).foldl (fun acc j => acc.staleRow j.1 j.2.2.2) c1
    c2.onB (fun b => b.setNum K.evaluationsLast (b.num K.evaluations - before))

/-! ### Loading and swapping (R247 to R252) -/

/-- IMAGE_CHECK_DONE of the balance image (R247, R248). [DEDUCED, assumption 46] -/
def Chan.balChecked (c : Chan) : Chan :=
  if c.b.num K.standbyState ≠ 2 then c
  else
    let img := c.b.bytes K.standbyImage
    let r := c.b.balCheck img (c.b.num K.activeNodeWords)
    c.onB (fun b => ((((b.setNum K.standbyState (if r.1 = 0 then 3 else 4)).setNum K.standbyRefusal r.1).setNum
      K.standbyRefusalIndex r.2).setNum K.standbyImageId (balHdr img).id))

/-- R250: a swap needs a ready standby image of the period in force. -/
def Blk.balSwapOk (b : Blk) : Bool :=
  b.num K.standbyState == 3 && (balHdr (b.bytes K.standbyImage)).period == b.num K.framePeriodActive

/-- The objects that describe the active image (Tables 9.12 and 9.13). -/
def Blk.setBalActive (b : Blk) (img : List Byte) : Blk :=
  let h := if img.isEmpty then balHdr [] else balHdr img
  (((((((b.setBytes K.activeImage img).setNum K.activeImageId h.id).setNum K.activeNodeWords h.nodes).setNum K.activeTrees
    h.trees).setNum K.activePeriodUs h.period).setNum K.planWidth h.width).setNum K.rowSets h.sets).setNum K.facetsTotal h.facets

/-- BALANCE_IMAGE_SWAP (R251): the slots are exchanged, and every score is gone. -/
def Chan.balSwap (c : Chan) : Chan :=
  let old := c.b.bytes K.activeImage
  let b1 := c.b.setBalActive (c.b.bytes K.standbyImage)
  let b2 := (((b1.setBytes K.standbyImage old).setNum K.standbyState (if old.isEmpty then 0 else 3)).setNum K.standbyImageId
    (if old.isEmpty then 0 else (balHdr old).id)).setNum K.imageSwap 0
  { c with b := b2.bump K.swaps, bal := { builds := [], scores := [] } }

/-- The codes of the selected row (0x1800:31). -/
def Chan.rowRead (c : Chan) : List Byte :=
  let n := c.b.num K.rowSelect
  let set := bits n 16 3
  let row := bits n 0 16
  let img := c.b.bytes K.activeImage
  if img.isEmpty ∨ (balHdr img).sets ≤ set ∨ (rowSet img set).rows ≤ row then []
  else match (mfind c.bal.builds set).bind (fun bd => mfind bd.rows row) with
    | none => []
    | some r => r.codes.flatMap (natLe (balHdr img).codeBytes)

/-- A score record as bytes (Table 9.8). -/
def Score.bytes (s : Score) : List Byte := natLe 8 (s.score * 2 ^ 32 + s.tag * 2 ^ 24 + s.missing * 2 ^ 16 + s.state)

/-- The selected score record (0x1A00:31). -/
def Chan.scoreRead (c : Chan) : List Byte :=
  let n := c.b.num K.scoreSelect
  let set := bits n 16 3
  let row := bits n 0 16
  let img := c.b.bytes K.activeImage
  if img.isEmpty ∨ (balHdr img).sets ≤ set ∨ (rowSet img set).rows ≤ row then []
  else if c.setIdle c.b.now (rowSet img set) then ({ Score.none_ with state := 4 } : Score).bytes
  else (c.bal.score set row).bytes

end Sys2Proof.Machine
end

