-- ==== Sys2Proof/Machine/Laggard.lean ====
section
/-! DEFINITION. The laggard scorer (R254 to R262): barrier instances, their ranking, the laggard table and the suspect
marks (R281). -/

namespace Sys2Proof.Machine

/-- Change the scorer. -/
def Chan.onLag (c : Chan) (f : Lag → Lag) : Chan := { c with lag := f c.lag }

/-- The laggard entry of a unit, position × 1,024 + core. -/
def Lag.entry (l : Lag) (unit : Nat) : LEntry := mget (fun _ => LEntry.zero) l.entries unit

/-- Change an entry. -/
def Lag.mapEntry (l : Lag) (unit : Nat) (f : LEntry → LEntry) : Lag :=
  { l with entries := mset (fun _ => LEntry.zero) l.entries unit (f (l.entry unit)) }

/-- Table 10.1. -/
def LEntry.bytes (e : LEntry) : List Byte :=
  natLe 8 (e.score * 2 ^ 48 + e.instances * 2 ^ 36 + e.hits * 2 ^ 24 + e.late * 2 ^ 4 + 2 * flag e.suspect + flag e.grace)

/-! ### Intake (R254, R255) -/

/-- The records of a barrier section (Table 4.2): core, arrival in ns, identifier. -/
def barrierRecs (d : List Byte) : List (Nat × Nat × Nat) :=
  (pieces 8 (slice d 136 (8 * leAt d 0 2))).map (fun p =>
    let n := leNat p
    (bits n 54 10, bits n 32 20, bits n 0 32))

/-- The identifiers that a barrier section marks incomplete (R115). -/
def barrierIncomplete (d : List Byte) : List Nat := (pieces 4 (slice d (136 + 8 * leAt d 0 2) (4 * leAt d 4 2))).map leNat

/-- One record is taken in: it joins the open instance of its identifier, or opens one; a second record of a core in an
instance adds nothing, and a 513th instance is refused (R254, R262). [DEDUCED, assumption 47] -/
def Chan.takeBarrier (w : Nat) (c : Chan) (ident : Nat) (r : LRec) : Chan :=
  let c1 := c.onB (·.bump K.recordsTaken)
  match c1.lag.insts.find? (fun i => i.ident == ident && decide (r.frame < i.first + w)) with
  | some i =>
    if i.recs.any (fun x => x.leaf == r.leaf && x.core == r.core) then c1
    else c1.onLag (fun l => { l with insts := l.insts.map (fun y =>
      if y.ident == ident && y.first == i.first then { y with recs := y.recs ++ [r] } else y) })
  | none =>
    if 512 ≤ c1.lag.insts.length then c1.onB (·.bump K.recordsRefused)
    else c1.onLag (fun l => { l with insts := l.insts ++ [{ ident := ident, first := r.frame, recs := [r], closed := none }] })

/-- The leaves of an instance that stay in it at data frame `d`: those with a packet of every frame since the first
(R255). -/
def Lag.staying (l : Lag) (i : LInst) (d : Nat) : List Nat :=
  ((i.recs.map (·.pos)).eraseDups).filter (fun p =>
    (List.range (d + 1 - i.first)).all (fun k => l.hist.any (fun h => h.pos == p && h.frame == i.first + k)))

/-- The expected cores of an instance, as position, leaf and core (R255). -/
def Lag.expectedCores (l : Lag) (i : LInst) (d : Nat) : List (Nat × Nat × Nat) :=
  (l.staying i d).flatMap (fun p =>
    match l.hist.find? (fun h => h.pos == p && h.frame == i.first) with
    | some h => (onesOf 1024 h.expected).map (fun k => (p, h.leaf, k))
    | none => [])

/-- The last expected core has arrived (R256). -/
def Lag.complete (l : Lag) (i : LInst) (d : Nat) : Bool :=
  (l.expectedCores i d).all (fun e => i.recs.any (fun r => r.leaf == e.2.1 && r.core == e.2.2))

/-- Instances that close at data frame `d` move to the queue of those to be scored. [DEDUCED, assumption 47] -/
def Lag.close (l : Lag) (p : LInst → Bool) (d : Nat) : Lag :=
  { l with insts := l.insts.filter (fun i => !p i),
           closed := l.closed ++ (l.insts.filter p).map (fun i => { i with closed := some d }) }

/-- The barrier sections of data frame `d`, all of them on time, are taken in (R254), position by position; instances
whose last expected core has arrived close (R256). -/
def Chan.intake (c : Chan) (d : Nat) : Chan :=
  let w := c.b.num K.barrierWindow
  let here := sortBy (·.pos) (c.tree.children.filter (fun x => x.kind == .leaf && x.got.contains d))
  let mine := c.tree.riders.filter (fun r => r.sec == 4 && r.frame == d)
  let secOf := fun (x : Child) => match mine.find? (fun r => r.src == x.addr) with | some r => r.data | none => []
  let hist := here.map (fun x =>
    ({ frame := d, pos := x.pos, leaf := x.leafId, expected := leAt (secOf x) 8 128,
       incomplete := barrierIncomplete (secOf x) } : LHist))
  let c1 := (c.onTree (fun t => { t with riders := t.riders.filter (fun r => !(r.sec == 4 && decide (r.frame ≤ d))) })).onLag
    (fun l => { l with hist := l.hist.filter (fun h => decide (d < h.frame + 32)) ++ hist })
  let c2 := here.foldl (fun acc x => (barrierRecs (secOf x)).foldl (fun a r =>
    a.takeBarrier w r.2.2 { pos := x.pos, leaf := x.leafId, core := r.1, frame := d, arrival := r.2.1 }) acc) c1
  c2.onLag (fun l => l.close (fun i => l.complete i d) d)

/-- BARRIER_WINDOW_EXPIRE (R256): in the analysis of data frame D + W − 1 the instance closes without all arrivals. -/
def Chan.windowExpire (c : Chan) (ident : Nat) : Chan :=
  let w := c.b.num K.barrierWindow
  let due : LInst → Bool := fun i => i.ident == ident && decide (i.first + w + 1 ≤ c.b.now)
  c.onLag (fun l => l.close due ((match l.insts.find? due with | some i => i.first | none => 0) + w - 1))

/-! ### Ranking (R257, R258) -/

/-- A core_lost or fence_unacked input for the core names a frame up to `d` (R258). -/
def Lag.isLost (l : Lag) (leaf core d : Nat) : Bool :=
  l.lost.any (fun x => x.1 == leaf && x.2.1 == core && decide (x.2.2.1 ≤ d))

/-- The core's leaf lost another core and the instance falls into its grace (R258). -/
def Lag.inGrace (l : Lag) (leaf core first grace : Nat) : Bool :=
  l.lost.any (fun x => x.1 == leaf && x.2.1 != core && x.2.2.2 && decide (x.2.2.1 ≤ first) && decide (first ≤ x.2.2.1 + grace))

/-- The arrival of a record in its instance, in ns (R257). -/
def LRec.at_ (r : LRec) (first periodNs : Nat) : Nat := (r.frame - first) * periodNs + r.arrival

/-- Order of arrival: time, then leaf, then core (R257). -/
def LRec.key (r : LRec) (first periodNs : Nat) : Nat := (r.at_ first periodNs * 2 ^ 18 + r.leaf) * 2 ^ 10 + r.core

/-- The floor of (H − L) / 2^g added to L (R259). -/
def scoreStep (score g : Nat) (hit : Bool) : Nat :=
  ((score : Int) + ((if hit then (65535 : Int) else 0) - score) / 2 ^ g).toNat

/-- One core of a scored instance (R259). -/
def LEntry.take (e : LEntry) (g : Nat) (hit grace : Bool) (late : Nat) : LEntry :=
  { e with score := scoreStep e.score g hit, instances := min 4095 (e.instances + 1),
           hits := min 4095 (e.hits + flag hit), late := min 0xFFFFF late, grace := grace }

/-- One instance is scored, or void (R255 to R259). -/
def Chan.scoreInstance (c : Chan) (i : LInst) : Chan :=
  let l := c.lag
  let d := i.closed.getD i.first
  let stay := l.staying i d
  let gone := ((i.recs.map (·.pos)).eraseDups).length - stay.length
  let c1 := if gone = 0 then c else c.onB (·.bump K.leavesRemoved gone)
  let lastF := i.first + c.b.num K.barrierWindow - 1
  let expected := (l.expectedCores i d).filter (fun e => !l.isLost e.2.1 e.2.2 lastF)
  let p := c.b.periodNs
  let ranked := sortBy (fun r => LRec.key r i.first p) (i.recs.filter (fun r =>
    stay.contains r.pos && expected.any (fun e => e.2.1 == r.leaf && e.2.2 == r.core)))
  let n := ranked.length
  let void_ := l.hist.any (fun h => (i.recs.any (fun r => r.pos == h.pos)) && decide (i.first ≤ h.frame) && decide (h.frame ≤ d) &&
    h.incomplete.contains i.ident)
  if void_ || decide (n < c.b.num K.minArrivals) then c1.onB (·.bump K.instancesVoid)
  else
    let g := c.b.num K.gainShift
    let graceOf := fun (leaf core : Nat) => l.inGrace leaf core i.first (c.b.num K.graceFrames)
    let med := match ranked[(n - 1) / 2]? with | some r => r.at_ i.first p | none => 0
    let c2 := ((List.range n).zip ranked).foldl (fun acc q =>
      let r := q.2
      let late := r.at_ i.first p - med
      let slow := decide (med + c.b.num K.lateThresholdNs ≤ r.at_ i.first p) && decide (n ≤ q.1 + c.b.num K.lastN)
      let gr := graceOf r.leaf r.core
      acc.onLag (fun l => l.mapEntry (r.pos * 1024 + r.core) (fun e => e.take g (slow && !gr) gr late))) c1
    let missing := expected.filter (fun e => !ranked.any (fun r => r.leaf == e.2.1 && r.core == e.2.2))
    let c3 := missing.foldl (fun acc e =>
      let gr := graceOf e.2.1 e.2.2
      acc.onLag (fun l => l.mapEntry (e.1 * 1024 + e.2.2) (fun x => x.take g (!gr) gr 0xFFFFF))) c2
    c3.onB (·.bump K.instancesScored)

/-! ### The fleet's slowest cores (R261) -/

/-- Entries with enough instances, highest score first, ties to the lower identity; at most 16. -/
def Chan.slowest (c : Chan) : List (Nat × Nat) :=
  let who := fun (pos : Nat) => match c.tree.children.find? (fun x => x.kind == .leaf && x.pos == pos) with
    | some x => x.leafId
    | none => leafIdOf c.id (pos % 24)
  let all := (c.lag.entries.filter (fun e => decide (c.b.num K.minInstances ≤ e.2.instances))).map (fun e =>
    (e.2.score, who (e.1 / 1024) * 2 ^ 14 + e.1 % 1024))
  (sortBy (fun p => (65535 - p.1) * 2 ^ 32 + p.2) all).take 16

/-- The channel's own level 1 contributions to frame `f`: op, value type, slot, value, identity (R186, R261, R276). -/
def Chan.contributeOwn (c : Chan) (f : Nat) (vs : List (Nat × Option Bool × Nat × Nat × Nat)) : Chan :=
  let t := c.tree.table f
  let s := vs.foldl (fun s v => s.contribute t 1 v.2.2.1 v.1 v.2.1 (fun e a => a.addValue e v.2.2.2.1 v.2.2.2.2))
    ({ slots := [], conflicts := 0, ovr := 0 } : Sums)
  (c.onB (fun b => (b.bump K.slotConflicts s.conflicts).bump K.overrangeAddends s.ovr)).onTree (fun tr =>
    (tr.needSec f 1).mapSec f 1 (fun x => { x with slots := mergeSlots t x.slots s.slots }))

/-- The op code of top-16 and of single (Table 7.6). -/
abbrev opTop16 : Nat := 6
abbrev opSingle : Nat := 7

/-- The scorer's contribution to the open frame. -/
def Chan.publishSlowest (c : Chan) (f : Nat) : Chan :=
  let slot := c.b.num K.topSlot
  if slot = 0xFFFFFFFF then c
  else c.contributeOwn f (c.slowest.map (fun p => (opTop16, some true, slot, ratF32 p.1 65536, p.2)))

/-- The scorer's run at the close of frame `g` (R256, R262): core_lost and fence_unacked inputs are noted, the closed
instances are scored but for the last ones in an overrun, and the slowest cores are published. -/
def Chan.runLaggards (c : Chan) (g : Nat) : Chan :=
  let named := c.inputs.filter (fun i => decide (i.at_ ≤ g) && (i.code == 1 || i.code == 2))
  let news := named.map (fun i => (i.node, i.arg, leNat i.payload, i.code == 1))
  let c0 := c.onLag (fun l => { l with lost := (l.lost ++ news).eraseDups })
  let left := min c0.lag.closed.length (c0.left .laggard)
  let n := c0.lag.closed.length - left
  let todo := c0.lag.closed.take n
  let c1 := todo.foldl Chan.scoreInstance c0
  (c1.onLag (fun l => { l with closed := l.closed.drop n, stale := decide (0 < c.left .laggard) })).publishSlowest g

/-! ### Adoption (R260) -/

/-- The entries of positions 24 to 47 are zeroed when an adoption begins or ends. -/
def Chan.noteAdoption (c : Chan) : Chan :=
  let now := c.tree.children.any (fun x => x.kind == .leaf && x.adopted)
  if now = c.lag.adopting then c
  else c.onLag (fun l => { l with adopting := now, entries := mfilter (fun k => decide (k < 24 * 1024)) l.entries })

/-! ### Objects (R281) -/

/-- The unit of a suspect entry: core (true) or leaf, and its number. -/
def suspectUnits (d : List Byte) : List (Bool × Nat) :=
  (pieces 4 d).map (fun p => (bits (leNat p) 30 2 == 1, bits (leNat p) 0 30))

/-- The location of a unit at a position (Table 14.8). -/
def Chan.unitLeaf (c : Chan) (pos : Nat) : Nat :=
  match c.tree.children.find? (fun x => x.kind == .leaf && x.pos == pos) with
  | some x => x.leafId
  | none => leafIdOf c.id (pos % 24)

/-- The rule whose suspect action names the unit now, 0 when none does (Table 14.9). -/
def Lag.ruleOf (l : Lag) (now : Nat) (u : Bool × Nat) : Nat :=
  match l.marks.find? (fun m => m.1 == now && m.2.1 == u.1 && m.2.2.1 == u.2) with
  | some m => m.2.2.2
  | none => 0

/-- SUSPECT_SET (R281, Table 10.8): units are marked, with a fault record of kind suspect each. -/
def Chan.setSuspects (c : Chan) (d : List Byte) : Chan :=
  (suspectUnits d).foldl (fun acc u =>
    if u.1 then
      (acc.onLag (fun l => l.mapEntry u.2 (fun e => { e with suspect := true }))).fault 0x09 1
        (locCore (acc.unitLeaf (u.2 / 1024)) (u.2 % 1024)) acc.b.now (acc.lag.ruleOf acc.b.now u)
    else
      (acc.onB (fun b => b.setNum K.suspectLeaves (setBit (b.num K.suspectLeaves) u.2))).fault 0x09 2
        (locLeaf (acc.unitLeaf u.2)) acc.b.now (acc.lag.ruleOf acc.b.now u)) c

/-- SUSPECT_CLEAR (R281). -/
def Chan.clearSuspects (c : Chan) (d : List Byte) : Chan :=
  (suspectUnits d).foldl (fun acc u =>
    if u.1 then acc.onLag (fun l => l.mapEntry u.2 (fun e => { e with suspect := false }))
    else acc.onB (fun b => b.setNum K.suspectLeaves (clearBit (b.num K.suspectLeaves) u.2))) c

/-- The selected entry (0x2000:31). -/
def Chan.entryRead (c : Chan) : List Byte := (c.lag.entry (c.b.num K.entrySelect)).bytes

end Sys2Proof.Machine
end

