-- ==== Sys2Proof/Machine/EgressUnit.lean ====
section
/-! DEFINITION. Egress of a channel (chapter Egress Scheduling): admission, policers, start-tag fair queuing, shapers, the
refill ticks and the uplink ports (R282 to R301). -/

namespace Sys2Proof.Machine

/-! ### Entries (Tables 11.1 to 11.3) -/

/-- The keys of a subscriber's, a queue's and a policer's entry (R282, R283). -/
def subKey (s : Nat) : Nat := K.subscriberEntry + s / 128 * 256 + s % 128
def queueKey (q : Nat) : Nat := K.queueEntry + q / 128 * 256 + q % 128
def policerKey (q : Nat) : Nat := K.policerEntry + q / 128 * 256 + q % 128

/-- The number that an entry key of a table names, with the first key of the table. -/
def entryNo (base key : Nat) : Nat := (key - base) / 256 * 128 + (key - base) % 256

/-- A subscriber entry. -/
structure SubEntry where
  address : Nat
  weight : Nat
  port : Nat
  fallback : Bool
  shaped : Bool
  rate : Nat
  burst : Nat
  deriving DecidableEq, Repr

/-- The subscriber entry that bytes hold. -/
def subEntry (d : List Byte) : SubEntry :=
  let n := leNat d
  { address := bits n 96 32, weight := bits n 80 16, port := bits n 79 1, fallback := bit n 78, shaped := bit n 77,
    rate := bits n 32 32, burst := bits n 0 32 }

/-- A queue entry. -/
structure QueueEntry where
  weight : Nat
  source : Nat
  policer : Nat
  keepRed : Bool
  limit : Nat
  yellow : Nat
  selA : Nat
  selB : Nat
  deriving DecidableEq, Repr

/-- The queue entry that bytes hold. -/
def queueEntryOf (d : List Byte) : QueueEntry :=
  let n := leNat d
  { weight := bits n 240 16, source := bits n 236 4, policer := bits n 233 3, keepRed := bit n 232, limit := bits n 192 32,
    yellow := bits n 160 32, selA := bits n 128 32, selB := bits n 96 32 }

/-- A policer entry: cir, cbs, pir, and ebs or pbs. -/
def policerOf (d : List Byte) : Nat × Nat × Nat × Nat :=
  let n := leNat d
  (bits n 96 32, bits n 64 32, bits n 32 32, bits n 0 32)

/-- The entries in force. -/
def Blk.sub (b : Blk) (s : Nat) : SubEntry := subEntry (b.bytes (subKey s))
def Blk.queue (b : Blk) (q : Nat) : QueueEntry := queueEntryOf (b.bytes (queueKey q))

/-- A policer's parameters suit the mode of its queue (R283). -/
def policerSuits (mode : Nat) (d : List Byte) : Bool :=
  let p := policerOf d
  if mode = 0 then true
  else if mode ≤ 2 then decide (0 < p.2.1) || decide (0 < p.2.2.2)
  else decide (p.1 ≤ p.2.2.1) && decide (p.2.2.1 ≤ 80000000) && decide (0 < p.2.1) && decide (0 < p.2.2.2)

/-- The check of a written egress entry against its fellow (R283). -/
def egressStatus (view : Nat → Val) (key : Nat) (v : Val) : Nat :=
  if K.queueEntry ≤ key ∧ key < K.policerEntry then
    (if policerSuits (queueEntryOf v.toBytes).policer (view (key - K.queueEntry + K.policerEntry)).toBytes then stOk else stRange)
  else if K.policerEntry ≤ key ∧ key < K.policerEntry + 0x20000 then
    (if policerSuits (queueEntryOf (view (key - K.policerEntry + K.queueEntry)).toBytes).policer v.toBytes then stOk else stRange)
  else stOk

/-! ### State -/

/-- Change egress. -/
def Chan.onEgr (c : Chan) (f : Egress → Egress) : Chan := { c with egr := f c.egr }

/-- The state of a queue. -/
def Egress.queue (e : Egress) (q : Nat) : EQueue := mget (fun _ => EQueue.reset) e.queues q

/-- Change a queue. -/
def Egress.mapQueue (e : Egress) (q : Nat) (f : EQueue → EQueue) : Egress :=
  { e with queues := mset (fun _ => EQueue.reset) e.queues q (f (e.queue q)) }

/-- The state of a subscriber. -/
def Egress.sub (e : Egress) (s : Nat) : ESub := mget (fun _ => ESub.reset) e.subs s

/-- Change a subscriber. -/
def Egress.mapSub (e : Egress) (s : Nat) (f : ESub → ESub) : Egress :=
  { e with subs := mset (fun _ => ESub.reset) e.subs s (f (e.sub s)) }

/-- An uplink port. -/
def Egress.port (e : Egress) (p : Nat) : EPort := if p = 0 then e.port0 else e.port1

/-- Change a port. -/
def Egress.mapPort (e : Egress) (p : Nat) (f : EPort → EPort) : Egress :=
  if p = 0 then { e with port0 := f e.port0 } else { e with port1 := f e.port1 }

/-- The depth of a queue in bytes. -/
def EQueue.depth (q : EQueue) : Nat := (q.pkts.map (·.1)).sum

/-- Bytes held in the pool (R287). -/
def Egress.held (e : Egress) : Nat := (e.queues.map (fun q => q.2.depth)).sum

/-- The pool (R287): 8 MiB of SRAM and 128 MiB of DRAM. -/
def poolBytes : Nat := 142606336

/-- The port to which a subscriber is bound (R299). -/
def Chan.portOf (c : Chan) (s : Nat) : Nat := if (c.egr.sub s).moved then 1 - (c.b.sub s).port else (c.b.sub s).port

/-- The level of a shaper lets packets go (R294). -/
def Shaper.eligible (s : Shaper) : Bool := !s.on || decide (0 ≤ s.level)

/-- A queue is active (R291). -/
def Chan.queueActive (c : Chan) (q : Nat) : Bool := !(c.egr.queue q).pkts.isEmpty && decide (0 < (c.b.queue q).weight)

/-- The active queues of a subscriber, in service order. -/
def Chan.activeQueues (c : Chan) (s : Nat) : List Nat := ((List.range 16).map (fun k => 16 * s + k)).filter c.queueActive

/-- A subscriber is active on its port (R292). -/
def Chan.subActive (c : Chan) (s : Nat) : Bool :=
  decide (0 < (c.b.sub s).weight) && !(c.activeQueues s).isEmpty && (c.egr.sub s).shaper.eligible

/-- A subscriber that becomes active starts at its port's virtual time (R293). -/
def Chan.judgeSub (c : Chan) (s : Nat) : Chan :=
  let now := c.subActive s
  let x := c.egr.sub s
  if now = x.active then c
  else c.onEgr (fun e => e.mapSub s (fun y => { y with active := now, tag := if now then (e.port (c.portOf s)).virt else y.tag }))

/-- The subscribers that have an entry or state. -/
def Chan.subsListed (c : Chan) : List Nat :=
  let stored := (c.b.store.filter (fun p => decide (K.subscriberEntry ≤ p.1) && decide (p.1 < K.queueEntry))).map (fun p =>
    entryNo K.subscriberEntry p.1)
  sortBy (fun n => n) (stored ++ c.egr.subs.map (·.1)).eraseDups

/-- The queues that have an entry or state. -/
def Chan.queuesListed (c : Chan) : List Nat :=
  let stored := (c.b.store.filter (fun p => decide (K.queueEntry ≤ p.1) && decide (p.1 < K.policerEntry))).map (fun p =>
    entryNo K.queueEntry p.1)
  sortBy (fun n => n) (stored ++ c.egr.queues.map (·.1)).eraseDups

/-! ### Admission (R286 to R289) -/

/-- The colours. -/
abbrev green : Nat := 0
abbrev yellow : Nat := 1
abbrev red : Nat := 2

/-- The policer marks a packet of `n` milli-bytes (R288, R289): its colour and the queue with tokens taken. -/
def EQueue.mark (q : EQueue) (pre n : Nat) : Nat × EQueue :=
  match q.mode with
  | 0 => (pre, q)
  | 1 => if n ≤ q.t1 then (green, { q with t1 := q.t1 - n })
    else if n ≤ q.t2 then (yellow, { q with t2 := q.t2 - n }) else (red, q)
  | 2 => if pre = green ∧ n ≤ q.t1 then (green, { q with t1 := q.t1 - n })
    else if pre ≤ yellow ∧ n ≤ q.t2 then (yellow, { q with t2 := q.t2 - n }) else (red, q)
  | 3 => if q.t2 < n then (red, q)
    else if q.t1 < n then (yellow, { q with t2 := q.t2 - n })
    else (green, { q with t1 := q.t1 - n, t2 := q.t2 - n })
  | _ => if pre = red ∨ q.t2 < n then (red, q)
    else if pre = yellow ∨ q.t1 < n then (yellow, { q with t2 := q.t2 - n })
    else (green, { q with t1 := q.t1 - n, t2 := q.t2 - n })

/-- A packet before its admission: frame, content, pre-colour, part, last, payload. -/
structure Offer where
  frame : Nat
  content : Nat
  colour : Nat
  part : Nat
  last : Bool
  payload : List Byte

/-- The 32-byte stream header (Table 11.4). -/
def Offer.header (o : Offer) (seq chan q colour tag : Nat) : List Byte :=
  natLe 32 (o.frame * 2 ^ 192 + seq * 2 ^ 160 + chan * 2 ^ 144 + q * 2 ^ 128 + o.content * 2 ^ 124 + colour * 2 ^ 122 +
    tag * 2 ^ 64 + o.payload.length * 2 ^ 48 + o.part * 2 ^ 32 + flag o.last * 2 ^ 31)

/-- The job tag in force at the opening of a frame. -/
def Chan.tagAt (c : Chan) (f : Nat) : Nat :=
  match c.tree.opened.find? (fun o => o.frame == f) with
  | some o => o.tag
  | none => c.b.num K.jobTag

/-- A packet is handed to a queue (R286, R287). -/
def Chan.offer (c : Chan) (q : Nat) (o : Offer) : Chan :=
  let s := q / 16
  let e := c.b.queue q
  let len := 48 + o.payload.length
  let x := c.egr.queue q
  let seq := x.seq
  let c1 := c.onEgr (fun g => g.mapQueue q (fun y => { y with seq := (y.seq + 1) % 2 ^ 32 }))
  if e.weight = 0 ∨ (c.b.sub s).weight = 0 then c1.onB (·.bump K.disabledDrops)
  else
    let m := (c1.egr.queue q).mark o.colour (len * 1000)
    let c2 := c1.onEgr (fun g => g.mapQueue q (fun _ => m.2))
    let depth := x.depth
    if m.1 = red ∧ e.keepRed = false then
      (c2.onB (·.bump K.redDrops)).onEgr (fun g => g.mapQueue q (fun y => { y with policed := satAdd 32 y.policed 1 }))
    else if green < m.1 ∧ e.yellow ≤ depth then c2.onB (·.bump K.yellowDrops)
    else if e.limit < depth + len then
      (c2.onB (·.bump K.tailDrops)).onEgr (fun g => g.mapQueue q (fun y => { y with tails := satAdd 32 y.tails 1 }))
    else if poolBytes < c.egr.held + len then c2.onB (·.bump K.poolDrops)
    else
      let d := o.header seq c.id q m.1 (c.tagAt o.frame) ++ o.payload
      let c3 := c2.onEgr (fun g => g.mapQueue q (fun y =>
        { y with pkts := y.pkts ++ [(len, d)], tag := if y.pkts.isEmpty then (g.sub s).virt else y.tag }))
      c3.judgeSub s

/-- The packets of one hand-off (R285): payloads in part order; without any, one empty packet. -/
def Chan.offerAll (c : Chan) (h : HandOff) : Chan :=
  let ps := if h.payloads.isEmpty then [[]] else h.payloads
  ((List.range ps.length).zip ps).foldl (fun acc p =>
    acc.offer h.queue { frame := h.frame, content := h.content, colour := h.colour, part := p.1,
                        last := decide (p.1 + 1 = ps.length), payload := p.2 }) c

/-- A producer hands packets to a queue (R285); at a boundary they wait for its refill, which comes before any packet is marked
(R295). -/
def Chan.handOff (c : Chan) (q frame content colour : Nat) (payloads : List (List Byte)) : Chan :=
  let h : HandOff := { queue := q, frame := frame, content := content, colour := colour, payloads := payloads }
  if c.egr.boundary then c.onEgr (fun e => { e with waits := e.waits ++ [h] }) else c.offerAll h

/-- Records packed into payloads of at most 8,160 bytes, split only between records. -/
def packRecords : List (List Byte) → List Byte → List (List Byte)
  | [], acc => if acc.isEmpty then [] else [acc]
  | r :: rs, acc =>
    if acc.length + r.length ≤ 8160 then packRecords rs (acc ++ r)
    else (if acc.isEmpty then [] else [acc]) ++ packRecords rs r

/-! ### Producers (R285, Table 11.5) -/

/-- A notification for a subscriber: the lowest service with source 0x3, or unrouted. -/
def Chan.notifyTo (c : Chan) (sub : Nat) (payload : List Byte) : Chan :=
  let q := if sub ≤ 4095 then ((List.range 16).map (fun k => 16 * sub + k)).find? (fun q => (c.b.queue q).source == 3) else none
  match q with
  | none => c.onB (·.bump K.notifyUnrouted)
  | some q => c.handOff q c.b.now 3 green [payload]

/-- A routing notification of a leaf (R134): leaf identifier, 4 reserved bytes, the bitmap. -/
def Chan.routing (c : Chan) (leaf sub : Nat) (bitmap : List Byte) : Chan :=
  c.notifyTo sub (natLe 4 leaf ++ natLe 4 0 ++ fitTo 128 bitmap)

/-- The slots of a level in a queue's range. [DEDUCED, assumption 52] -/
def QueueEntry.slotsAt (e : QueueEntry) (t : List Byte) (level : Nat) : List Nat :=
  ((List.range e.selB).map (fun k => e.selA + k)).filter (fun s => decide (8 * s + 8 ≤ t.length) && (aggAt t s).level == level)

/-- The records of the slots of a section in a queue's range, restricted to `only` when it is given. [DEDUCED, assumption 52] -/
def Chan.rangeRecords (c : Chan) (s : Sec) (e : QueueEntry) (only : Option (List Nat)) : List (List Byte) :=
  let t := c.tree.table s.frame
  let mine := s.slots.filter (fun p => decide (e.selA ≤ p.1) && decide (p.1 < e.selA + e.selB) &&
    (match only with | some l => l.contains p.1 | none => true))
  (ownRecords t mine).map AggRec.bytes

/-- The aggregate of a frame and level is handed to every queue with source 0x1 whose range holds slots of the level. -/
def Chan.handAggregate (c : Chan) (f level : Nat) : Chan :=
  match c.tree.sec f level with
  | none => c
  | some s =>
    c.queuesListed.foldl (fun acc q =>
      let e := c.b.queue q
      if e.source = 1 ∧ (e.slotsAt (c.tree.table f) level).isEmpty = false then
        acc.handOff q f 1 green (packRecords (c.rangeRecords s e none) [])
      else acc) c

/-- The updated records of a late block's slots are handed to every queue with source 0x2 that holds any of them. -/
def Chan.handLate (c : Chan) (f level : Nat) (slots : List Nat) : Chan :=
  match c.tree.sec f level with
  | none => c
  | some s =>
    c.queuesListed.foldl (fun acc q =>
      let e := c.b.queue q
      if e.source = 2 ∧ slots.any (fun k => decide (e.selA ≤ k) && decide (k < e.selA + e.selB)) = true then
        acc.handOff q f 2 yellow (packRecords (c.rangeRecords s e (some slots)) [])
      else acc) c

/-! ### Sending (R290 to R292, R294, R298) -/

/-- ceil(L × 65,536 / w). -/
def tagInc (len w : Nat) : Nat := (len * 65536 + w - 1) / w

/-- Tag a comes before tag b in serial arithmetic. -/
def tagBefore (a b : Nat) : Bool := decide (a ≠ b) && decide ((b + 2 ^ 64 - a) % 2 ^ 64 < 2 ^ 63)

/-- The first of the candidates with the smallest tag. -/
def minTag (tag : Nat → Nat) : List Nat → Option Nat
  | [] => none
  | x :: xs => match minTag tag xs with
    | none => some x
    | some y => if tagBefore (tag y) (tag x) then some y else some x

/-- The state of an uplink port: 0 up, 1 backpressured, 2 down. -/
def Chan.portState (c : Chan) (p : Nat) : Nat := c.b.num (K.port0State + p)

/-- A fragment of a frame packet may go: it goes ahead of stream packets (R297). [DESIGN CHOICE, assumption 88] -/
def Blk.fragmentWaits (b : Blk) : Bool := b.journal.any b.maySend

/-- A packet of `len` bytes takes from a shaper. -/
def Shaper.take (s : Shaper) (len : Nat) : Shaper := if s.on then { s with level := s.level - len * 1000 } else s

/-- STREAM_PACKET_SEND (R291, R292, R297): the packet leaves in an envelope of kind 0x4 to the subscriber's address (R284). [DESIGN CHOICE, assumption 88] -/
def Chan.streamSend (c : Chan) (p : Nat) : Chan :=
  if c.portState p ≠ 0 ∨ (c.egr.port p).shaper.eligible = false ∨ c.b.fragmentWaits = true then c
  else
    let cands := c.subsListed.filter (fun s => c.subActive s && c.portOf s == p)
    match minTag (fun s => (c.egr.sub s).tag) cands with
    | none => c
    | some s =>
      match minTag (fun q => (c.egr.queue q).tag) (c.activeQueues s) with
      | none => c
      | some q =>
        match (c.egr.queue q).pkts with
        | [] => c
        | (len, d) :: rest =>
          let c1 := c.onEgr (fun e => e.mapPort p (fun x => { x with virt := (e.sub s).tag, shaper := x.shaper.take len }))
          let c2 := c1.onEgr (fun e =>
            (e.mapSub s (fun x => { x with virt := (e.queue q).tag, shaper := x.shaper.take len })).mapQueue q (fun x =>
              { x with pkts := rest }))
          let c3 := if c2.queueActive q then c2.onEgr (fun e => e.mapQueue q (fun x =>
              { x with tag := (x.tag + tagInc len (c.b.queue q).weight) % 2 ^ 64 })) else c2
          let c4 := if c3.subActive s then c3.onEgr (fun e => e.mapSub s (fun x =>
              { x with tag := (x.tag + tagInc len (c.b.sub s).weight) % 2 ^ 64 })) else c3
          (c4.judgeSub s).onB (fun b => ((b.bump K.packetsSent).bump K.bytesSent len).emit (.stream p s q
            (envelope 4 d.length c.b.addr (BitVec.ofNat 32 (c.b.sub s).address) ++ d)))

/-! ### Refill (R288, R289, R294 to R296) -/

/-- A shaper at a tick: the level is kept and clipped to the new size, a shaper switched on starts full, then the refill. -/
def Shaper.tick (s : Shaper) (on : Bool) (rate burst : Nat) : Shaper :=
  if on = false then Shaper.off
  else
    let size := burst * 1000
    let l := if s.on then min s.level size else (size : Int)
    { on := true, level := min (l + rate) size, rate := rate, size := size }

/-- A policer at a tick. -/
def EQueue.tick (q : EQueue) (mode : Nat) (p : Nat × Nat × Nat × Nat) : EQueue :=
  if mode = 0 then { q with mode := 0, size1 := 0, size2 := 0, t1 := 0, t2 := 0 }
  else
    let s1 := p.2.1 * 1000
    let s2 := p.2.2.2 * 1000
    let a1 := if q.mode = mode then min q.t1 s1 else s1
    let a2 := if q.mode = mode then min q.t2 s2 else s2
    let n1 := min (a1 + p.1) s1
    let n2 := if mode ≤ 2 then min (a2 + (a1 + p.1 - n1)) s2 else min (a2 + p.2.2.1) s2
    { q with mode := mode, size1 := s1, size2 := s2, t1 := n1, t2 := n2 }

/-- The refill of egress at a tick. -/
def Chan.refillEgress (c : Chan) : Chan :=
  let c1 := c.queuesListed.foldl (fun acc q =>
    acc.onEgr (fun e => e.mapQueue q (fun x => x.tick (c.b.queue q).policer (policerOf (c.b.bytes (policerKey q)))))) c
  let c2 := c1.subsListed.foldl (fun acc s =>
    let e := c.b.sub s
    (acc.onEgr (fun g => g.mapSub s (fun x => { x with shaper := x.shaper.tick e.shaped e.rate e.burst }))).judgeSub s) c1
  [0, 1].foldl (fun acc p =>
    let n := leNat (c.b.bytes (K.port0Shaper + p))
    acc.onEgr (fun e => e.mapPort p (fun x => { x with shaper := x.shaper.tick (bit n 127) (bits n 32 32) (bits n 0 32) }))) c2

/-- Egress after a reset, under the entries in force (R300): empty, every bucket full, every subscriber on its home port. -/
def Blk.freshEgress (b : Blk) : Egress := ({ Chan.reset b.place with b := b } : Chan).refillEgress.egr

/-- The tick at the boundary that opens a frame (R295): the refill, then the hand-offs of the boundary in the order of Table 11.5. -/
def Chan.boundaryTick (c : Chan) : Chan :=
  let hs := sortBy (fun (h : HandOff) => h.content) c.egr.waits
  hs.foldl Chan.offerAll (c.refillEgress.onEgr (fun e => { e with boundary := false, waits := [] }))

/-! ### Changes of entries (R290) -/

/-- A queue loses its packets, which are counted as disabled drops. -/
def Chan.emptyQueue (c : Chan) (q : Nat) : Chan :=
  let n := (c.egr.queue q).pkts.length
  if n = 0 then c else (c.onEgr (fun e => e.mapQueue q (fun x => { x with pkts := [] }))).onB (·.bump K.disabledDrops n)

/-- The home port of a subscriber is written anew: it is bound there, and starts afresh at a port that is new to it (R293). [DEDUCED, assumption 53] -/
def Chan.rehome (c before : Chan) (s : Nat) : Chan :=
  if (c.b.sub s).port = (before.b.sub s).port then c
  else
    let stays := decide ((c.b.sub s).port = before.portOf s)
    c.onEgr (fun e => e.mapSub s (fun x => { x with moved := false, active := x.active && stays }))

/-- A subscriber or queue entry takes its value; a weight of 0 discards what is queued. -/
def Chan.entryWritten (c : Chan) (key : Nat) (v : Val) : Chan :=
  let c0 := c.onB (fun b => b.setVal key v)
  if key < K.queueEntry then
    let s := entryNo K.subscriberEntry key
    let c1 := c0.rehome c s
    let c2 := if (subEntry v.toBytes).weight = 0 then
        ((List.range 16).map (fun k => 16 * s + k)).foldl Chan.emptyQueue c1 else c1
    c2.judgeSub s
  else if key < K.policerEntry then
    let q := entryNo K.queueEntry key
    let c2 := if (queueEntryOf v.toBytes).weight = 0 then c0.emptyQueue q else c0
    c2.judgeSub (q / 16)
  else c0

/-! ### Ports (R298, R299, R414) -/

/-- A subscriber starts afresh at the port to which it is now bound (R293). -/
def Chan.rebind (c : Chan) (s : Nat) (moved : Bool) : Chan :=
  (c.onEgr (fun e => e.mapSub s (fun x => { x with moved := moved, active := false }))).judgeSub s

/-- An uplink port goes down: bound subscribers with fallback move to the other port (R299). [DEDUCED, assumption 53] -/
def Chan.egressDown (c : Chan) (p : Nat) : Chan :=
  let c1 := (c.onB (fun b => b.setNum (K.port0State + p) 2)).onEgr (fun e => e.mapPort p (fun x => { x with up := 0 }))
  (c1.subsListed.filter (fun s => c1.portOf s == p && (c1.b.sub s).fallback)).foldl (fun acc s =>
    acc.rebind s (!(acc.egr.sub s).moved)) c1

/-- An uplink port comes up. -/
def Chan.egressUp (c : Chan) (p : Nat) : Chan := c.onB (fun b => b.setNum (K.port0State + p) 0)

/-- PORT_RETURN (R299): a home port that has been up for 0x2400:04 frames takes its moved subscribers back. -/
def Chan.portReturn (c : Chan) (p : Nat) : Chan :=
  if c.portState p = 2 ∨ (c.egr.port p).up < c.b.num K.portReturnFrames then c
  else (c.subsListed.filter (fun s => (c.egr.sub s).moved && (c.b.sub s).port == p)).foldl (fun acc s => acc.rebind s false) c

/-- A frame opens: ports whose link is up count it. -/
def Chan.countPorts (c : Chan) : Chan :=
  [0, 1].foldl (fun acc p => acc.onEgr (fun e => e.mapPort p (fun x =>
    { x with up := if acc.portState p = 2 then 0 else min 65535 (x.up + 1) }))) c

/-- UPLINK_BACKPRESSURE and BACKPRESSURE_CLEAR (R414). -/
def Chan.backpressure (c : Chan) (p : Nat) (on : Bool) : Chan :=
  let st := c.portState p
  if on then (if st = 0 then c.onB (fun b => b.setNum (K.port0State + p) 1) else c)
  else (if st = 1 then c.onB (fun b => b.setNum (K.port0State + p) 0) else c)

/-! ### Reads (R301) -/

/-- 0x2400:31. -/
def Chan.queueRead (c : Chan) : List Byte :=
  let q := c.b.num K.queueSelect
  if 65536 ≤ q then []
  else
    let x := c.egr.queue q
    natLe 32 (x.depth * 2 ^ 224 + x.pkts.length * 2 ^ 192 + x.seq * 2 ^ 160 + x.policed * 2 ^ 128 + x.tails * 2 ^ 96 + x.tag)

/-- 0x2400:33. -/
def Chan.subRead (c : Chan) : List Byte :=
  let s := c.b.num K.subscriberSelect
  if 4096 ≤ s then []
  else
    let x := c.egr.sub s
    natLe 24 (unsigned 64 x.shaper.level * 2 ^ 128 + x.tag * 2 ^ 64 + (if c.subActive s then c.portOf s else 0xFF))

end Sys2Proof.Machine
end

