-- ==== Sys2Proof/Machine/RuleUnit.lean ====
section
/-! DEFINITION. The rule engine (R263 to R274), the loss monitor (R275 to R277) and the detection chain (R278): the rule
image, its check, the evaluation of a frame with the admission of its actions, notifications and taint records. -/

namespace Sys2Proof.Machine

/-! ### The image (Tables 10.4 to 10.6) -/

/-- The header of a rule image. -/
structure RulHdr where
  kind : Nat
  format : Nat
  version : Nat
  id : Nat
  period : Nat
  rules : Nat
  states : Nat
  cycles : Nat
  sig : Nat
  deriving DecidableEq, Repr

/-- Table 10.4. -/
def rulHdr (img : List Byte) : RulHdr :=
  { kind := hdrBits img 1008 16, format := hdrBits img 992 16, version := hdrBits img 960 32, id := hdrBits img 896 64,
    period := hdrBits img 880 16, rules := hdrBits img 864 16, states := hdrBits img 832 32, cycles := hdrBits img 800 32,
    sig := hdrBits img 768 32 }

/-- A rule head (Table 10.5). -/
structure Rule where
  subjectKind : Nat
  any : Bool
  terms : Nat
  first : Nat
  count : Nat
  persist : Nat
  repeat_ : Nat
  depth : Nat
  refill : Nat
  action : Nat
  lead : Nat
  arg0 : Nat
  arg1 : Nat
  value : Nat
  deriving DecidableEq, Repr

/-- Rule r of an image. -/
def ruleAt (img : List Byte) (r : Nat) : Rule :=
  let n := leAt img (128 + 128 * r) 64
  { subjectKind := bits n 508 4, any := bit n 507, terms := bits n 505 2 + 1, first := bits n 464 32, count := bits n 448 16,
    persist := max 1 (bits n 440 8), repeat_ := bits n 432 8, depth := bits n 424 8, refill := bits n 408 16,
    action := bits n 404 4, lead := bits n 400 4, arg0 := bits n 352 32, arg1 := bits n 320 32, value := bits n 256 64 }

/-- A term (Table 10.6). -/
structure Term where
  source : Nat
  compare : Nat
  select : Nat
  base : Nat
  stride : Nat
  threshold : Nat
  hyst : Nat
  deriving DecidableEq, Repr

/-- Term k of rule r. -/
def termAt (img : List Byte) (r k : Nat) : Term :=
  let n := leAt img (128 + 128 * r + 64 + 16 * k) 16
  { source := bits n 124 4, compare := bits n 122 2, select := bits n 112 10, base := bits n 93 19, stride := bits n 74 19,
    threshold := bits n 32 32, hyst := bits n 0 32 }

/-- One more than the highest unit of a subject kind. -/
def unitsOfKind (k : Nat) : Nat :=
  match k with
  | 0 => 1
  | 1 => 49152
  | 2 => 48
  | 3 => 1536
  | 4 => 65536
  | 5 => 4080
  | 6 => 524288
  | _ => 0

/-- The codes of Table 10.3. -/
def inputCodes : List Nat :=
  [0x01, 0x02, 0x03, 0x04, 0x05, 0x06, 0x07, 0x08, 0x09, 0x10, 0x11, 0x12, 0x13, 0x14, 0x20, 0x21, 0x30, 0x31, 0x32, 0x33]

/-- A used term lies inside Table 10.6. -/
def Term.ok (t : Term) : Bool :=
  decide (t.source ≤ 5) && f32Fin t.threshold && f32Fin t.hyst && (!f32Neg t.hyst || f32Zero t.hyst) &&
    (match t.source with
     | 0 => decide (t.select ≤ 7)
     | 1 => decide (t.select ≤ 5)
     | 3 => inputCodes.contains t.select
     | 4 => inputCodes.contains t.select
     | _ => true)

/-- The key of the object that a kind 0x5 or 0x6 action writes. -/
def Rule.object (r : Rule) : Nat := bits r.arg0 16 16 * 256 + bits r.arg0 8 8

/-- The object exists in the tray build, is RW or RWT, and needs no role above operator (R273). -/
def Rule.objectOk (r : Rule) : Bool :=
  match defOf false r.object with
  | some d => (d.access == .rw || d.access == .rwt) && decide (d.wrole ≤ 2)
  | none => false

/-- The subscriber field of kinds 0x3 and 0x4. -/
def Rule.arg1Ok (r : Rule) : Bool := decide (r.arg1 ≤ 4095) || decide (r.arg1 = 0xFFFF)

/-- The action suits the subject kind, and its arguments lie inside Table 10.8 (R273, R278). -/
def Rule.actionOk (r : Rule) : Bool :=
  match r.action with
  | 0 => true
  | 1 => r.subjectKind == 1
  | 2 => r.subjectKind == 3 && decide (r.arg0 ≤ 2)
  | 3 => (r.subjectKind == 1 || r.subjectKind == 2) && r.arg1Ok
  | 4 => r.arg1Ok && (!bit r.arg0 0 ||
      (let layer := bits r.arg0 4 4
       decide (1 ≤ layer) && decide (layer ≤ 4) && (layer != 2 || r.subjectKind == 5) && (layer != 3 || r.subjectKind == 0)))
  | 5 => (r.subjectKind == 0 || r.subjectKind == 4 || r.subjectKind == 6) && r.objectOk
  | 6 => r.subjectKind == 0 && r.objectOk
  | _ => false

/-- Rule r of an image passes cause 0x05 (R273). -/
def ruleOk (img : List Byte) (k : Nat) : Bool :=
  let r := ruleAt img k
  decide (r.subjectKind ≤ 6) && decide (1 ≤ r.count) && decide (r.first + r.count ≤ unitsOfKind r.subjectKind) &&
    decide (1 ≤ r.depth) && decide (1 ≤ r.refill) && decide (r.action ≤ 6) && decide (1 ≤ r.lead) && r.actionOk &&
    (List.range r.terms).all (fun t => (termAt img k t).ok)

/-- The cycles of a rule in a frame (R274); `terms` counts the terms used, and the field term_count is one less. -/
def Rule.cost (r : Rule) : Nat := 16 + (r.count * r.terms + 7) / 8

/-- The rules of an image. -/
def rulesOf (img : List Byte) : List Rule := (List.range (rulHdr img).rules).map (ruleAt img)

/-- R273: cause and index of a refusal, (0, 0) when the image is ready. -/
def Blk.rulCheck (b : Blk) (img : List Byte) : Nat × Nat :=
  let h := rulHdr img
  let p := b.num K.framePeriodActive
  let early := firstFail [
    (b.signed img h.sig, 1, 0),
    (h.kind == 2 && h.format == 1 && h.version == 0x00030000, 2, 0),
    (h.period == p, 3, 0),
    (decide (1 ≤ h.rules) && decide (h.rules ≤ 256) && decide (h.sig = 128 + 128 * h.rules), 4, 0)]
  if early ≠ (0, 0) then early
  else
    let rs := rulesOf img
    let states := (rs.map (·.count)).sum
    let cycles := (rs.map (·.cost)).sum
    firstFail ((List.range h.rules).map (fun k => (ruleOk img k, 5, k)) ++ [
      (h.states == states && h.cycles == cycles, 7, 0),
      (decide (cycles ≤ 1000 * p) && decide (states ≤ 262144), 8, 0)])

/-! ### Inputs (Table 10.3) -/

/-- The serving leaf at a position. -/
def Chan.leafAt (c : Chan) (pos : Nat) : Option Child :=
  c.tree.children.find? (fun x => x.kind == .leaf && x.pos == pos && !x.away)

/-- The position of a leaf that this channel serves. -/
def Chan.posOf (c : Chan) (leaf : Nat) : Option Nat :=
  (c.tree.children.find? (fun x => x.kind == .leaf && x.leafId == leaf)).map (·.pos)

/-- The units for which an input is latched. -/
def Chan.inputUnits (c : Chan) (i : RuleIn) : List Nat :=
  let at_ := fun (f : Nat → List Nat) => match c.posOf i.node with | some p => f p | none => []
  if i.code = 0x01 ∨ i.code = 0x02 then at_ (fun p => [p * 1024 + i.arg])
  else if i.code = 0x03 ∨ i.code = 0x04 then at_ (fun p => [p * 32 + i.arg])
  else if i.code = 0x05 ∨ i.code = 0x06 then at_ (fun p => (onesOf 1024 (leNat i.payload)).map (fun k => p * 1024 + k))
  else if i.code ≤ 0x09 ∨ i.code = 0x32 then at_ (fun p => [p])
  else if i.code ≤ 0x21 then [i.node]
  else [0]

/-- The latched inputs of the frame with their units: code, unit, argument, and the frame as of which it is read. -/
def Chan.latched (c : Chan) (g : Nat) : List (Nat × Nat × Nat × Nat) :=
  let own := (if 0 < c.b.shortCauses (g - 1) % causeMissed ∧ 0 < g then [(0x30, 0, 0, g)] else []) ++
    (if c.b.num K.alignmentAssured = 0 then [(0x31, 0, 0, g)] else [])
  (c.inputs.filter (fun i => decide (i.at_ ≤ g))).flatMap (fun i =>
    (c.inputUnits i).map (fun u => (i.code, u, i.arg, i.at_))) ++ own

/-- The position of a unit whose input a leaf makes, none for the channel's own inputs. -/
def leafUnitPos (code unit : Nat) : Option Nat :=
  if code = 0x01 ∨ code = 0x02 ∨ code = 0x05 ∨ code = 0x06 then some (unit / 1024)
  else if code = 0x03 ∨ code = 0x04 then some (unit / 32)
  else if code = 0x07 ∨ code = 0x08 ∨ code = 0x09 then some unit
  else none

/-- The packet of the data frame read is absent, for a leaf that is served (R267). -/
def Chan.inputStale (c : Chan) (g code unit : Nat) : Bool :=
  match leafUnitPos code unit with
  | none => false
  | some p => (c.leafAt p).isSome && !c.lag.hist.any (fun h => h.pos == p && h.frame + 2 == g)

/-! ### Terms and conditions (R267, R268) -/

/-- What a term reads, or what it says. -/
inductive TermIn where
  | value (v : Nat)
  | stale
  | absent
  deriving DecidableEq, Repr

/-- A value, absent when it is NaN. -/
def TermIn.of (v : Nat) : TermIn := if f32NaN v then .absent else .value v

/-- A field of a hand-off record (Table 9.4). -/
def Handoff.field (h : Handoff) (k : Nat) : Nat :=
  match k with
  | 0 => h.value
  | 1 => h.forecast
  | 2 => h.z
  | 3 => subF32 h.value h.forecast
  | 4 => natF32 h.qpos
  | _ => natF32 h.qneg

/-- The value of a term for index `i` (R267). -/
def Chan.termIn (c : Chan) (g : Nat) (lat : List (Nat × Nat × Nat × Nat)) (leafKind : Bool) (t : Term) (i : Nat) : TermIn :=
  let one : Bool → TermIn := fun x => .value (natF32 (flag x))
  match t.source with
  | 0 =>
    let s := c.bal.score t.select i
    if s.state = 1 ∨ s.state = 4 then .stale else if s.state = 0 then TermIn.of s.score else .absent
  | 1 => match c.handoff g i with
    | none => .stale
    | some h => if h.state = 4 then .stale else if h.state = 2 ∨ h.state = 3 then .absent else TermIn.of (h.field t.select)
  | 2 =>
    let e := c.lag.entry i
    if c.lag.stale then .stale
    else if e.instances < c.b.num K.minInstances then .absent else .value (ratF32 e.score 65536)
  | 3 => if c.inputStale g t.select i then .stale else one (lat.any (fun x => x.1 == t.select && x.2.1 == i))
  | 4 => if c.inputStale g t.select i then .stale
    else match lat.find? (fun x => x.1 == t.select && x.2.1 == i) with
      | some x => .value (natF32 x.2.2.1)
      | none => .value 0
  | _ => one (if leafKind then bit (c.b.num K.suspectLeaves) i else (c.lag.entry i).suspect)

/-- A condition is true, false or stale. -/
inductive Cond where
  | yes
  | no
  | stale
  deriving DecidableEq, Repr

/-- One term's say; `held` tells that the subject is pending or latched, which moves the threshold (R267). -/
def Term.judge (t : Term) (held : Bool) (x : TermIn) : Cond :=
  match x with
  | .stale => .stale
  | .absent => .no
  | .value v =>
    let low := if held then subF32 t.threshold t.hyst else t.threshold
    let high := if held then addF32 t.threshold t.hyst else t.threshold
    let ok := match t.compare with
      | 0 => ieeeLt low v
      | 1 => ieeeLe low v
      | 2 => ieeeLt v high
      | _ => ieeeLe v high
    if ok then .yes else .no

/-- The terms combine (R268). -/
def combineConds (any : Bool) (cs : List Cond) : Cond :=
  if any then (if cs.contains .yes then .yes else if cs.contains .stale then .stale else .no)
  else (if cs.contains .no then .no else if cs.contains .stale then .stale else .yes)

/-- The condition of a subject. -/
def Chan.condition (c : Chan) (g : Nat) (lat : List (Nat × Nat × Nat × Nat)) (img : List Byte) (k : Nat) (r : Rule) (s : Nat)
    (held : Bool) : Cond :=
  combineConds r.any ((List.range r.terms).map (fun n =>
    let t := termAt img k n
    t.judge held (c.termIn g lat (r.subjectKind == 2) t (t.base + s * t.stride))))

/-! ### Subjects -/

/-- Change the rule engine. -/
def Chan.onRul (c : Chan) (f : Rules → Rules) : Chan := { c with rul := f c.rul }

/-- The key of a subject. -/
def subjKey (rule s : Nat) : Nat := rule * 65536 + s

/-- The state of a subject. -/
def Rules.subject (x : Rules) (rule s : Nat) : Subj := mget (fun _ => Subj.idle) x.subj (subjKey rule s)

/-- Give a subject a state. -/
def Rules.setSubject (x : Rules) (rule s : Nat) (y : Subj) : Rules :=
  { x with subj := mset (fun _ => Subj.idle) x.subj (subjKey rule s) y }

/-- Tokens in a rule's bucket. -/
def Rules.tokens (x : Rules) (rule depth : Nat) : Nat := depth - mget (fun _ => 0) x.spent rule

/-- The tokens gained since the last evaluation (R270): one every `refill` frames from the swap on. -/
def refillCount (swapAt last g refill : Nat) : Nat :=
  if refill = 0 then 0 else (g - swapAt) / refill - (max last swapAt - swapAt) / refill

/-! ### Actions (R271, Table 10.8) -/

/-- The region_control of a region of a leaf, as this channel has set it. -/
def Chan.regionNow (c : Chan) (leaf : Word) (r : Nat) : Nat :=
  match c.leafVal leaf (regionKey r) with
  | some v => v.toNum
  | none => 0

/-- The value that a region action writes (Table 10.8, kind 0x2). -/
def Rule.regionValue (r : Rule) (now : Nat) : Nat :=
  match r.arg0 with
  | 0 => r.value % 16
  | 1 => now / 8 % 2 * 8 + min 7 (now % 8 + 1)
  | _ => now / 8 % 2 * 8 + (now % 8 - 1)

/-- Little-endian bytes of a rule's notification (Table 10.8). -/
def notification (rule action unit g : Nat) : List Byte :=
  natLe 16 (rule * 2 ^ 120 + action * 2 ^ 112 + unit * 2 ^ 64 + g)

/-- The step in progress at a frame (R277). -/
def Rules.stepAt (x : Rules) (f : Nat) : Nat :=
  match (x.steps.filter (fun s => decide (s.2 ≤ f))).map (·.1) with
  | [] => 0xFFFFFFFF
  | l => (l.foldl max 0 + 1) % 2 ^ 32

/-- The data frame that a rule's first term read (R278, layer 4). -/
def Chan.dataRead (c : Chan) (g : Nat) (img : List Byte) (k s : Nat) : Nat :=
  let t := termAt img k 0
  let i := t.base + s * t.stride
  let tagged := fun tag => g - (g + 256 - tag) % 256
  match t.source with
  | 0 => tagged (c.bal.score t.select i).tag
  | 1 => match c.handoff g i with | some h => tagged h.tag | none => g - 2
  | _ => g - 2

/-- The identity of a unit in a taint record (Table 10.9); the spec gives none for the other kinds, and the value is
open. [DEDUCED, assumption 49] -/
def Chan.taintIdentity (c : Chan) (kind unit : Nat) : Nat × Chan :=
  match kind with
  | 1 => (locCore (c.unitLeaf (unit / 1024)) (unit % 1024), c)
  | 2 => (locLeaf (c.unitLeaf unit), c)
  | 5 => (unit / 16 * 256 + unit % 16, c)
  | _ =>
    let d := c.b.draw
    (d.1 % 2 ^ 32, { c with b := d.2 })

/-- A taint record (R278, Table 10.9). With an empty window layer 3 has no oldest step, and its frame and step are open. [DEDUCED, assumption 49] -/
def Chan.taint (c : Chan) (g : Nat) (img : List Byte) (k s : Nat) (r : Rule) (lat : List (Nat × Nat × Nat × Nat)) :
    List Byte × Chan :=
  let layer := bits r.arg0 4 4
  let unit := r.first + s
  let id := c.taintIdentity r.subjectKind unit
  let c0 := id.2
  let inputFrame := match lat.find? (fun x => x.2.1 == unit && x.1 == (termAt img k 0).select) with
    | some x => x.2.2.2 - 2
    | none => g - 2
  let fs : Nat × Nat × Chan := match layer with
    | 1 => (inputFrame, c0.rul.stepAt inputFrame, c0)
    | 2 =>
      let f := mget (fun _ => 0) c0.asy.agreed (unit / 16)
      (f, c0.rul.stepAt f, c0)
    | 3 => match c0.rul.window.getLast? with
      | some w => (w.frame, w.step, c0)
      | none =>
        let d := c0.b.draw
        let e := d.2.draw
        (d.1 % 2 ^ 64, e.1 % 2 ^ 32, { c0 with b := e.2 })
    | _ =>
      let f := c0.dataRead g img k s
      (f, c0.rul.stepAt f, c0)
  (natLe 32 (layer * 2 ^ 248 + k * 2 ^ 240 + id.1 * 2 ^ 192 + fs.1 * 2 ^ 128 + fs.2.1 * 2 ^ 96 + g * 2 ^ 32 + c.b.num K.jobTag),
   fs.2.2)

/-- The low bytes of a rule's value as a value of an object's type. -/
def Rule.objectVal (r : Rule) : Val :=
  let t := typeOf false r.object
  match typeSize t with
  | some n => dataVal t (natLe n r.value)
  | none => dataVal t (natLe 8 r.value)

/-- The target block and the items of an action (Table 10.8); the taint record is made as of the evaluation. -/
def Chan.actionItems (c : Chan) (g : Nat) (img : List Byte) (k s : Nat) (r : Rule) (lat : List (Nat × Nat × Nat × Nat)) :
    Option Word × List Wr × Chan :=
  let unit := r.first + s
  match r.action with
  | 1 => match c.leafAt (unit / 1024) with
    | some x =>
      let v := r.value % 256
      let core := unit % 1024
      (some x.addr, (coreKey core, .num v) :: (if bit v 0 then [(K.routingNotify, .bytes (natLe 128 (setBit 0 core)))] else []), c)
    | none => (none, [], c)
  | 2 => match c.leafAt (unit / 32) with
    | some x => (some x.addr, [(regionKey (unit % 32), .num (r.regionValue (c.regionNow x.addr (unit % 32))))], c)
    | none => (none, [], c)
  | 3 =>
    let e := natLe 4 ((if r.subjectKind = 1 then 1 else 2) * 2 ^ 30 + unit)
    (none, (K.suspectSet, .bytes e) :: (if r.arg1 = 0xFFFF then [] else [(K.notify, .bytes (notification k 3 unit g))]), c)
  | 4 =>
    let n := notification k 4 unit g
    if bit r.arg0 0 then
      let t := c.taint g img k s r lat
      (none, [(K.notify, .bytes (n ++ t.1))], t.2)
    else (none, [(K.notify, .bytes n)], c)
  | 5 => (none, [(r.object, r.objectVal)], c)
  | 6 => (none, [(r.object, r.objectVal)], c)
  | _ => (none, [], c)

/-! ### Admission (R270, R128, R366) -/

/-- The cost of a wake in tokens (R365). -/
def Blk.wakeCost (b : Blk) (pos region : Nat) : Nat := leAt (b.bytes K.wakeCost) (pos * 32 + region) 1

/-- The temperature of a region as the latest channel aggregate holds it (R128). -/
def Chan.regionTemp (c : Chan) (x : Child) (region : Nat) : Option Nat :=
  match (serTable x.table).find? (fun d => d.source == 1 && d.unit == region && d.number == 2) with
  | none => none
  | some d =>
    let done := c.tree.secs.filter (fun s => s.level == 1 && s.done)
    match sortBy (fun s => 2 ^ 64 - s.frame) done with
    | [] => none
    | s :: _ =>
      let t := c.tree.table s.frame
      let slot := keySlot d.key
      match extract { extract := 0, arg := 0, code := 0, phase := 0, param := 0, handoff := false, slot := slot } (aggAt t slot)
          (slotOf s.slots slot) with
      | .value v _ => some v
      | .absent _ => none

/-- A region action that is a candidate under R128: its rule and subject, and its rank, lowest first. -/
def Chan.regionRank (c : Chan) (r : Rule) (s : Nat) : Int × Int × Nat :=
  let unit := r.first + s
  match c.leafAt (unit / 32) with
  | none => (0, 0, 0)
  | some x =>
    let region := unit % 32
    let now := c.regionNow x.addr region
    let v := r.regionValue now
    let up := decide (now / 8 % 2 < v / 8 % 2) || (decide (v / 8 % 2 = now / 8 % 2) && decide (now % 8 < v % 8))
    let temp : Int := match c.regionTemp x region with
      | none => 2 ^ 40
      | some t => if up then -(f32Key t) else f32Key t
    (if up then 0 else 1, temp, x.leafId * 32 + region)

/-- Rank x comes before rank y. -/
def rankBefore (x y : Int × Int × Nat) : Bool :=
  decide (x.1 < y.1) || (decide (x.1 = y.1) && (decide (x.2.1 < y.2.1) || (decide (x.2.1 = y.2.1) && decide (x.2.2 < y.2.2))))

/-- The action of a subject would clear off (R366). -/
def Chan.wakes (c : Chan) (r : Rule) (s : Nat) : Bool :=
  let unit := r.first + s
  r.action == 2 && (match c.leafAt (unit / 32) with
    | some x =>
      let now := c.regionNow x.addr (unit % 32)
      bit now 3 && !bit (r.regionValue now) 3
    | none => false)

/-- Change the pacer. -/
def Chan.onPac (c : Chan) (f : Pacer → Pacer) : Chan := { c with pac := f c.pac }

/-- A rule's wake enters the tail of the queue, unless the region is queued or its grant is held (R366). -/
def Chan.queueRuleWake (c : Chan) (k s pos region : Nat) : Chan :=
  if c.pac.queue.any (fun q => q.pos == pos && q.region == region) ||
      c.pac.rules.any (fun q => q.1.pos == pos && q.1.region == region) then c
  else c.onPac (fun p => { p with queue := p.queue ++ [{ pos := pos, region := region, notBefore := 0, rule := some (k, s) }] })

/-- The pacer has granted the subject's wake. -/
def Pacer.granted (p : Pacer) (k s : Nat) : Bool := p.rules.any (fun q => q.1.rule == some (k, s))

/-- The spacing of R128 lets a region change be admitted in frame g. [DEDUCED, assumption 51] -/
def Chan.regionFree (c : Chan) (g : Nat) : Bool :=
  match c.pac.changed with
  | some f => decide (f + c.b.num K.regionChangeSpacing ≤ g)
  | none => true

/-- What one evaluation keeps besides the channel: objects written by admitted actions (R270 step 3), and the items of
each pair of target block and apply frame (step 4). -/
structure Eval where
  c : Chan
  objs : List (Option Word × Nat)
  groups : List (Option Word × Nat × Nat)

/-- The places left for new transactions of a block: the channel's own limit counts those that are open or committed
(R88). [DEDUCED, assumption 48] -/
def Eval.roomFor (e : Eval) (dst : Option Word) (a n : Nat) : Bool :=
  match e.groups.find? (fun g => g.1 == dst && g.2.1 == a) with
  | some g => decide (g.2.2 + n ≤ 256)
  | none => decide (e.groups.length < e.c.b.num K.txnPerFrame) &&
      (dst.isSome || decide (e.c.b.txns.length + (e.groups.filter (fun g => g.1 == none)).length < e.c.b.txnLimit))

/-- Count items into their transaction. -/
def Eval.addItems (e : Eval) (dst : Option Word) (a n : Nat) : Eval :=
  if e.groups.any (fun g => g.1 == dst && g.2.1 == a) then
    { e with groups := e.groups.map (fun g => if g.1 == dst && g.2.1 == a then (g.1, g.2.1, g.2.2 + n) else g) }
  else { e with groups := e.groups ++ [(dst, a, n)] }

/-- The items that an action adds to its transaction: the routing bitmaps of several actions are one item (Table 10.8). [DEDUCED, assumption 48] -/
def Eval.newItems (e : Eval) (dst : Option Word) (apply : Nat) (ws : List Wr) : Nat :=
  let routes := fun (l : List Wr) => l.any (fun w => w.1 == K.routingNotify)
  (ws.filter (fun w => w.1 != K.routingNotify)).length +
    flag (routes ws && !e.c.rul.admitted.any (fun a => a.dst == dst && a.apply == apply && routes a.items))

/-- The target block of an action's transaction: for a fleet write every node that it names. -/
def Rule.block (r : Rule) (dst : Option Word) : Option Word := if r.action = 6 then some 0xFFFFFFFF else dst

/-- The objects of blocks that an action writes (R270 step 3): a fleet write those of channels, this one among them, and of leaves, as its
target names them. -/
def Rule.written (r : Rule) (dst : Option Word) (keys : List Nat) : List (Option Word × Nat) :=
  if r.action = 6 then
    (if bits r.arg0 1 2 ≠ 0 then keys.map (fun k => (none, k)) else []) ++
      (if bit r.arg0 0 then keys.map (fun k => (some 0xFFFFFFFF, k)) else [])
  else keys.map (fun k => (dst, k))

/-- An admitted attempt takes its token, is counted, and joins the frame's transactions with its items `a.2.1` for `a.1` (R270,
R271); a region change is noted for the spacing (R128), a mark waits for its frame. -/
def Eval.admitAct (e : Eval) (g k s : Nat) (r : Rule) (swapAt apply : Nat) (keys : List (Option Word × Nat)) (a : Option Word × List Wr × Chan) : Eval :=
  let unit := r.first + s
  let adm : Adm := { rule := k, subject := s, kind := r.action, unit := unit, swapAt := swapAt, dst := a.1,
                     apply := apply, items := a.2.1, target := bits r.arg0 0 3 }
  let notes := (a.2.1.filter (fun w => w.1 == K.notify)).map (fun w => (w.2.toBytes, r.arg1))
  let c1 := (a.2.2.onB (·.bump K.actionsAdmitted)).onRul (fun x => { x with
    spent := mset (fun _ => 0) x.spent k (mget (fun _ => 0) x.spent k + 1),
    notes := x.notes ++ notes,
    admitted := if a.2.1.isEmpty then x.admitted else x.admitted ++ [adm] })
  let c2 := if r.action = 2 then
      (c1.onPac (fun p => { p with changed := some g, rules := p.rules.filter (fun q => q.1.rule != some (k, s)) })).onB
        (fun b => b.setNum K.lastRegionChange apply)
    else c1
  let c3 := if r.action = 3 then c2.onLag (fun l => { l with marks := l.marks ++ [(apply, r.subjectKind == 1, unit, k)] })
    else c2
  let e1 : Eval := { e with c := c3, objs := keys ++ e.objs }
  if a.2.1.isEmpty then e1 else e1.addItems (r.block a.1) apply (e.newItems a.1 apply a.2.1)

/-- An attempt (R270): admitted, or deferred. `winner` is the region change that R128 lets through. -/
def Eval.attempt (e : Eval) (g : Nat) (img : List Byte) (k s : Nat) (r : Rule) (lat : List (Nat × Nat × Nat × Nat))
    (winner : Option (Nat × Nat)) : Bool × Eval :=
  let unit := r.first + s
  let wake := e.c.wakes r s
  let c0 := if wake then e.c.queueRuleWake k s (unit / 32) (unit % 32) else e.c
  let defer := (false, { e with c := c0.onB (·.bump K.attemptsDeferred) })
  if c0.rul.tokens k r.depth = 0 then defer
  else if r.action = 2 ∧ (winner ≠ some (k, s) ∨ (wake = true ∧ c0.pac.granted k s = false)) then defer
  else
    let a := c0.actionItems g img k s r lat
    let keys := r.written a.1 ((a.2.1.map (·.1)).filter (fun x => x != K.routingNotify || a.1.isNone))
    let fleet := r.action == 6
    if keys.any (fun x => e.objs.contains x) then
      (false, { e with c := (c0.onB (·.bump K.attemptsDeferred)).onB (·.bump K.attemptsConflicted) })
    else
      let apply := if fleet then g + 13 + c0.b.num K.guardFrames else g + 1 + r.lead
      if a.2.1.isEmpty = false ∧ e.roomFor (r.block a.1) apply (e.newItems a.1 apply a.2.1) = false then defer
      else (true, e.admitAct g k s r c0.rul.swapAt apply keys a)

/-- A subject whose kind names a position without a leaf is not evaluated (R266). -/
def Chan.evaluated (c : Chan) (r : Rule) (s : Nat) : Bool :=
  let unit := r.first + s
  match r.subjectKind with
  | 1 => (c.leafAt (unit / 1024)).isSome
  | 2 => (c.leafAt unit).isSome
  | 3 => (c.leafAt (unit / 32)).isSome
  | _ => true

/-- One subject in frame g (R269, Table 10.7). -/
def Eval.subject (g : Nat) (img : List Byte) (k : Nat) (r : Rule) (lat : List (Nat × Nat × Nat × Nat))
    (winner : Option (Nat × Nat)) (e : Eval) (s : Nat) : Eval :=
  if !e.c.evaluated r s then e
  else
    let x := e.c.rul.subject k s
    let put := fun (e : Eval) (y : Subj) => { e with c := e.c.onRul (fun z => z.setSubject k s y) }
    let tryIt := fun (yes no : Subj) =>
      let a := e.attempt g img k s r lat winner
      put a.2 (if a.1 then yes else no)
    match e.c.condition g lat img k r s (decide (0 < x.state)) with
    | .stale => e
    | .no => put e { x with state := 0, c := 0 }
    | .yes =>
      if x.state = 0 then
        let n := min 255 (x.c + 1)
        if n < r.persist then put e { x with c := n }
        else tryIt { state := 2, c := n, last := g + 1 } { x with state := 1, c := n }
      else if x.state = 1 then tryIt { x with state := 2, last := g + 1 } x
      else if 0 < r.repeat_ ∧ x.last + r.repeat_ ≤ g + 1 then tryIt { x with last := g + 1 } x
      else e

/-- The first `n` rules of the image in frame g, rule by rule and subject by subject (R270). -/
def Eval.rules (g : Nat) (img : List Byte) (n : Nat) (lat : List (Nat × Nat × Nat × Nat)) (winner : Option (Nat × Nat))
    (e : Eval) : Eval :=
  (List.range n).foldl (fun acc k =>
    let r := ruleAt img k
    (List.range r.count).foldl (Eval.subject g img k r lat winner) acc) e

/-- The region changes that would be attempted in frame g (R128): a subject whose condition holds, whose state asks for an
attempt, whose bucket holds a token, and whose wake, if it is one, is granted. -/
def Chan.regionCandidates (c : Chan) (g : Nat) (img : List Byte) (lat : List (Nat × Nat × Nat × Nat)) : List (Nat × Nat) :=
  (List.range (rulHdr img).rules).flatMap (fun k =>
    let r := ruleAt img k
    if r.action ≠ 2 ∨ c.rul.tokens k r.depth = 0 then []
    else ((List.range r.count).filter (fun s =>
      let x := c.rul.subject k s
      c.evaluated r s && c.condition g lat img k r s (decide (0 < x.state)) == .yes &&
        (if x.state = 0 then decide (r.persist ≤ x.c + 1) else x.state == 1 ||
          (decide (0 < r.repeat_) && decide (x.last + r.repeat_ ≤ g + 1))) &&
        (!c.wakes r s || c.pac.granted k s))).map (fun s => (k, s)))

/-- The first candidate of R128. [DEDUCED, assumption 51] -/
def Chan.regionWinner (c : Chan) (img : List Byte) : List (Nat × Nat) → Option (Nat × Nat)
  | [] => none
  | p :: ps => match c.regionWinner img ps with
    | none => some p
    | some q => if rankBefore (c.regionRank (ruleAt img q.1) q.2) (c.regionRank (ruleAt img p.1) p.2) then some q else some p

/-- Granted rule wakes that nothing waits for any more are withdrawn, and their cost returns (R368). -/
def Chan.withdrawWakes (c : Chan) (keep : Nat → Nat → Bool) : Chan :=
  let gone := c.pac.rules.filter (fun q => match q.1.rule with | some (k, s) => !keep k s | none => true)
  let size := c.b.num K.wakeDepth * 1000
  (c.onPac (fun p => { p with
    level := if gone.isEmpty then p.level else min size (p.level + (gone.map (·.2)).sum * 1000),
    rules := p.rules.filter (fun q => match q.1.rule with | some (k, s) => keep k s | none => false) })).onB
      (fun b => if gone.isEmpty then b else b.bump K.wakeWithdrawn gone.length)

/-- The rule engine's run in frame g (R264, R269, R270). In an overrun the rules not reached are the last ones (Table
2.3). -/
def Chan.runRules (c : Chan) (g : Nat) : Chan :=
  let img := c.b.bytes K.rulActiveImage
  let drop := fun (c : Chan) => { c with inputs := c.inputs.filter (fun i => !decide (i.at_ ≤ g)) }
  if img.isEmpty then drop c
  else
    let n := (rulHdr img).rules - min (rulHdr img).rules (c.left .rule)
    let full := c.onRul (fun x => { x with
      lastEval := g,
      spent := (List.range (rulHdr img).rules).foldl (fun m k =>
        mset (fun _ => 0) m k (mget (fun _ => 0) m k - refillCount x.swapAt x.lastEval g (ruleAt img k).refill)) x.spent })
    let lat := full.latched g
    let winner := if full.regionFree g then
        full.regionWinner img ((full.regionCandidates g img lat).filter (fun p => decide (p.1 < n))) else none
    let e0 : Eval := { c := full, objs := [], groups := [] }
    let e := e0.rules g img n lat winner
    let cycles := ((List.range n).map (fun k => (ruleAt img k).cost)).sum
    let c1 := e.c.onB (fun b => b.setNum K.cyclesLast cycles)
    ((drop c1).withdrawWakes (fun k s => (c1.rul.subject k s).state != 0)).onRul (fun x =>
      { x with notes := x.notes.filter (fun p => decide (g ≤ leAt p.1 0 8 + 17)) })

/-! ### Refused commits (R271) -/

/-- A transaction of actions was refused with TXN_CONFLICT, BUSY or TXN_EXPIRED: its subjects are pending again, and
their tokens return. -/
def Chan.returnActions (c : Chan) (swapAt : Nat) (subjects : List (Nat × Nat)) : Chan :=
  let c1 := c.onB (·.bump K.commitRefusals)
  if swapAt ≠ c.rul.swapAt then c1
  else subjects.foldl (fun acc p => acc.onRul (fun x =>
    let y := { x with spent := mset (fun _ => 0) x.spent p.1 (mget (fun _ => 0) x.spent p.1 - 1) }
    y.setSubject p.1 p.2 { x.subject p.1 p.2 with state := 1 })) c1

/-- A status that returns the subjects (R271). -/
def returnsSubjects (st : Nat) : Bool := st == stConflict || st == stBusy || st == stExpired

/-! ### Notifications (R278, R285) -/

/-- NOTIFY: the notification goes to the subscriber that its action had at admission; one that no action makes, to that of the rule that it
names. [DEDUCED, assumption 49] -/
def Chan.sendNotify (c : Chan) (d : List Byte) : Chan :=
  match c.rul.notes.find? (fun p => p.1 == d) with
  | some p => (c.onRul (fun x => { x with notes := x.notes.erase p })).notifyTo p.2 d
  | none =>
    let rule := leAt d 15 1
    let img := c.b.bytes K.rulActiveImage
    c.notifyTo (if img.isEmpty ∨ (rulHdr img).rules ≤ rule then 0xFFFF else (ruleAt img rule).arg1) d

/-! ### Loss monitor (R275 to R277) -/

/-- A submitted step is refused unless it lies beyond the last one. -/
def Chan.lossStatus (c : Chan) (d : List Byte) : Nat :=
  if leAt d 12 4 ≤ c.b.num K.lastStep then stRange else stOk

/-- LOSS_SUBMIT (R275, R276, R277). -/
def Chan.submitLoss (c : Chan) (d : List Byte) : Chan :=
  let s : LossStep := { step := leAt d 12 4, loss := leAt d 8 4, grad := leAt d 4 4, frame := c.b.now }
  let w := c.b.num K.lossWindow
  let c1 := (c.onB (fun b => b.setNum K.lastStep s.step)).onRul (fun x => { x with
    window := (s :: x.window).filter (fun y => decide (s.step < y.step + w)),
    steps := ((s.step, s.frame) :: x.steps).take 1024 })
  if f32Fin s.loss && f32Fin s.grad then c1 else c1.ruleIn 0x33 0 0 []

/-- loss_window takes a new value: the window is empty (R281). -/
def Chan.setLossWindow (c : Chan) (v : Nat) : Chan :=
  let same := c.b.num K.lossWindow = v
  let c1 := c.onB (fun b => b.setNum K.lossWindow v)
  if same then c1 else c1.onRul (fun x => { x with window := [] })

/-- The window is contributed to the aggregate of the frame that closes (R276). -/
def Chan.publishLoss (c : Chan) (f : Nat) : Chan :=
  let base := c.b.num K.lossSlotBase
  let w := c.b.num K.lossWindow
  let last := c.b.num K.lastStep
  if base = 0xFFFFFFFF then c
  else c.contributeOwn f (c.rul.window.flatMap (fun x =>
    let j := last - x.step
    [(opSingle, some true, base + j, x.loss, 0), (opSingle, some true, base + w + j, x.grad, 0),
     (opSingle, some false, base + 2 * w + j, x.step, 0)]))

/-- 0x2200:70. -/
def Rules.stepMap (x : Rules) : List Byte := x.steps.flatMap (fun s => natLe 4 s.1 ++ natLe 4 0 ++ natLe 8 s.2)

/-- 0x2200:31. -/
def Chan.ruleStateRead (c : Chan) : List Byte :=
  let n := c.b.num K.rulStateSelect
  let k := bits n 24 8
  let s := bits n 0 16
  let img := c.b.bytes K.rulActiveImage
  if img.isEmpty ∨ (rulHdr img).rules ≤ k ∨ (ruleAt img k).count ≤ s then []
  else
    let x := c.rul.subject k s
    let since := if x.last = 0 then 65535 else min 65535 (c.b.now + 1 - x.last)
    natLe 8 (x.state + x.c * 2 ^ 8 + since * 2 ^ 16 + c.rul.tokens k (ruleAt img k).depth * 2 ^ 32)

/-! ### Loading and swapping (R272, R273) -/

/-- IMAGE_CHECK_DONE of the rule image. [DEDUCED, assumption 46] -/
def Chan.rulChecked (c : Chan) : Chan :=
  if c.b.num K.rulStandbyState ≠ 2 then c
  else
    let img := c.b.bytes K.rulStandbyImage
    let r := c.b.rulCheck img
    c.onB (fun b => ((b.setNum K.rulStandbyState (if r.1 = 0 then 3 else 4)).setNum K.rulStandbyRefusal r.1).setNum
      K.rulStandbyRefusalIndex r.2)

/-- R250 for the rule image. -/
def Blk.rulSwapOk (b : Blk) : Bool :=
  b.num K.rulStandbyState == 3 && (rulHdr (b.bytes K.rulStandbyImage)).period == b.num K.framePeriodActive

/-- The objects that describe the active rule image. -/
def Blk.setRulActive (b : Blk) (img : List Byte) : Blk :=
  let h := rulHdr img
  ((b.setBytes K.rulActiveImage img).setNum K.rulActiveImageId (if img.isEmpty then 0 else h.id)).setNum K.ruleCount
    (if img.isEmpty then 0 else h.rules)

/-- RULE_IMAGE_SWAP (R272): the slots are exchanged, subjects start idle and buckets full, and granted wakes of the old
image are withdrawn. -/
def Chan.rulSwap (c : Chan) : Chan :=
  let old := c.b.bytes K.rulActiveImage
  let b1 := c.b.setRulActive (c.b.bytes K.rulStandbyImage)
  let b2 := ((b1.setBytes K.rulStandbyImage old).setNum K.rulStandbyState (if old.isEmpty then 0 else 3)).setNum K.rulImageSwap 0
  let c1 := ({ c with b := b2 }).withdrawWakes (fun _ _ => false)
  (c1.onPac (fun p => { p with queue := p.queue.filter (fun q => q.rule.isNone) })).onRul (fun x =>
    { x with subj := [], spent := [], swapAt := c.b.now, lastEval := c.b.now })

end Sys2Proof.Machine
end

