-- ==== Sys2Proof/Machine/MoverUnit.lean ====
section
/-! DEFINITION. The movers, the mover windows and the memory master port of a channel (R337 to R344, R425 to R427). -/

namespace Sys2Proof.Machine

/-! ### Addresses and windows (R337, R341) -/

/-- The space of a mover address, and its offset. -/
def spaceOf (a : Nat) : Nat := bits a 60 4
def offsetOf (a : Nat) : Nat := a % 2 ^ 60

/-- One more than the largest offset of a space; 0 for a space that Table 14.1 does not list. -/
def spaceSize (s : Nat) : Nat :=
  match s with
  | 0 => 2 ^ 48
  | 1 => 8388608
  | 2 => 268435456
  | _ => 0

/-- The `n` bytes from address `a` on lie within one listed space. -/
def spanOk (a n : Nat) : Bool := decide (offsetOf a + n ≤ spaceSize (spaceOf a)) && decide (offsetOf a < spaceSize (spaceOf a))

/-- A descriptor address passes R337 and R338. -/
def descAddrOk (a : Nat) : Bool := spanOk a 32 && decide (a % 32 = 0)

/-- The byte of a window; one that nothing has written reads 0. [DESIGN CHOICE, assumption 7] -/
def winByte (m : NMap Byte) (k : Nat) : Byte := mget (fun _ => 0) m k

/-- Write one byte of a window. -/
def winPut (m : NMap Byte) (k : Nat) (v : Byte) : NMap Byte := mset (fun _ => 0) m k v

/-- Write bytes from offset `k` on. -/
def winWrite : NMap Byte → Nat → List Byte → NMap Byte
  | m, _, [] => m
  | m, k, v :: vs => winWrite (winPut m k v) (k + 1) vs

/-- Read `n` bytes from offset `k` on. -/
def winRead (m : NMap Byte) (k n : Nat) : List Byte := (List.range n).map (fun i => winByte m (k + i))

/-- The window of a space. -/
def Mem.window (m : Mem) (space : Nat) : NMap Byte := if space = 1 then m.sram else m.dram

/-- Write to a window. -/
def Mem.store (m : Mem) (space off : Nat) (d : List Byte) : Mem :=
  if space = 1 then { m with sram := winWrite m.sram off d } else { m with dram := winWrite m.dram off d }

/-- Change the memory. -/
def Chan.onMem (c : Chan) (f : Mem → Mem) : Chan := { c with mem := f c.mem }

/-- A client. -/
def Mem.client (m : Mem) (k : Nat) : Dma := mget (fun _ => Dma.idle) m.clients k

/-- Change a client. -/
def Mem.mapClient (m : Mem) (k : Nat) (f : Dma → Dma) : Mem :=
  { m with clients := mset (fun _ => Dma.idle) m.clients k (f (m.client k)) }

/-! ### Requests of a side in space 0 (R341, R425) -/

/-- How many requests a side of `len` bytes takes: one per line, or one per 8 bytes of a fixed side. -/
def sideCount (off len : Nat) (fixed : Bool) : Nat :=
  if len = 0 then 0 else if fixed then len / 8 else (off % 64 + len + 63) / 64

/-- Request k of a side: line, first byte in the line, first byte of the transfer, number of bytes. -/
def sideReq (off len : Nat) (fixed : Bool) (k : Nat) : Nat × Nat × Nat × Nat :=
  if fixed then (off / 64, off % 64, 8 * k, 8)
  else
    let lo := if k = 0 then off % 64 else 0
    let at_ := if k = 0 then 0 else 64 * k - off % 64
    (off / 64 + k, lo, at_, min (64 - lo) (len - at_))

/-- The mask of a request (R425). -/
def lineMask (lo n : Nat) : Nat := (2 ^ n - 1) * 2 ^ lo

/-- The client's destination bytes go out on the memory master port. -/
def Dma.writesOut (d : Dma) : Bool := spaceOf d.dst == 0

/-- Requests of the source and of the destination side. -/
def Dma.reads (d : Dma) : Nat := if spaceOf d.src = 0 then sideCount (offsetOf d.src) d.len (bit d.control 0) else 0
def Dma.writes (d : Dma) : Nat :=
  if spaceOf d.dst = 0 then sideCount (offsetOf d.dst) d.data.length (bit d.control 1) else 0

/-- The next request of a client: kind, place, line, first byte in the line, bytes, and data when it writes. -/
def Dma.wants (d : Dma) (desc : Nat) : Option (Nat × Nat × Nat × Nat × Nat × List Byte) :=
  match d.phase with
  | .fetch => if d.asked = 0 ∧ spaceOf desc = 0 ∧ descAddrOk desc = true then
      some (0, 0, offsetOf desc / 64, offsetOf desc % 64, 32, []) else none
  | .read => if d.asked < d.reads ∧ d.readFault.isNone = true then
      let r := sideReq (offsetOf d.src) d.len (bit d.control 0) d.asked
      some (1, d.asked, r.1, r.2.1, r.2.2.2, []) else none
  | .write => if d.sent < d.writes ∧ d.writeFault.isNone = true then
      let r := sideReq (offsetOf d.dst) d.data.length (bit d.control 1) d.sent
      some (2, d.sent, r.1, r.2.1, r.2.2.2, slice d.data r.2.2.1 r.2.2.2) else none
  | .back => if d.sent = 0 then
      some (3, 0, offsetOf (desc + 8) / 64, offsetOf (desc + 8) % 64, 4, natLe 4 (d.control % 2 ^ 24 + d.status * 2 ^ 24)) else none
  | .idle => none

/-- The descriptor address of a mover (0x2C10:04 on); the other clients have none. -/
def Chan.descOf (c : Chan) (k : Nat) : Nat := c.b.num (K.current + 256 * k)

/-- A free request number (R425, R427). -/
def Mem.freeTag (m : Mem) : Option Nat := (List.range 64).find? (fun n => (mfind m.reqs n).isNone)

/-- The request may be presented: no write to its line awaits its response (R426). -/
def Mem.lineFree (m : Mem) (line : Nat) : Bool := !m.reqs.any (fun r => 2 ≤ r.2.kind && r.2.line == line && !r.2.dead)

/-- Client k presents its next request, if it may. -/
def Chan.present (c : Chan) (k : Nat) : Option Chan :=
  let d := c.mem.client k
  match d.wants (c.descOf k), c.mem.freeTag with
  | some (kind, idx, line, lo, n, data), some tag =>
    if !c.mem.lineFree line then none
    else
      let m := c.mem.mapClient k (fun x =>
        if 2 ≤ kind then { x with sent := x.sent + 1, live := x.live + 1 } else { x with asked := x.asked + 1, live := x.live + 1 })
      let r : MReq := { client := k, kind := kind, idx := idx, line := line, dead := false }
      some ({ c with
        mem := { m with reqs := mput m.reqs tag r, turn := (k + 1) % 10 },
        b := c.b.emit (.mmp (c.b.place * 64 + tag) (decide (2 ≤ kind)) line (lineMask lo n) data) })
  | _, _ => none

/-- The clients in turn (R344). [DEDUCED, assumption 77] -/
def Mem.order (m : Mem) : List Nat := (List.range 10).map (fun k => (m.turn + k) % 10)

/-- One client of the ten presents a request. -/
def Chan.presentOne (c : Chan) : List Nat → Option Chan
  | [] => none
  | k :: ks => match c.present k with
    | some c1 => some c1
    | none => c.presentOne ks

/-- Requests are presented while one may be; at most 64 are outstanding. [DEDUCED, assumption 77] -/
def Chan.present64 (c : Chan) : Nat → Chan
  | 0 => c
  | fuel + 1 => match c.presentOne c.mem.order with
    | none => c
    | some c1 => c1.present64 fuel

/-! ### Movers (R338 to R343) -/

/-- The keys of mover m's objects. -/
def moverKey (key m : Nat) : Nat := key + 256 * m

/-- The state of a mover: 0 idle, 1 running, 2 stopping, 3 halted. -/
def Chan.moverState (c : Chan) (m : Nat) : Nat := c.b.num (moverKey K.state m)

/-- The check of a write to a mover's start object (R343). -/
def Chan.startStatus (c : Chan) (m a : Nat) : Nat :=
  if !descAddrOk a then stRange
  else if c.moverState m = 1 ∨ c.moverState m = 2 then stWrong
  else stOk

/-- A mover turns to the descriptor at `a`. -/
def Chan.fetchDesc (c : Chan) (m a : Nat) : Chan :=
  ((c.onB (fun b => b.setNum (moverKey K.current m) a)).onMem (fun x => x.mapClient m (fun _ =>
    { Dma.idle with phase := .fetch }))).present64 64

/-- MOVER_START (R343). -/
def Chan.moverStart (c : Chan) (m a : Nat) : Chan := (c.onB (fun b => b.setNum (moverKey K.state m) 1)).fetchDesc m a

/-- MOVER_STOP (R342). -/
def Chan.moverStop (c : Chan) (m : Nat) : Chan :=
  if c.moverState m = 1 then c.onB (fun b => b.setNum (moverKey K.state m) 2) else c

/-- A mover halts with a status (R339 step 5). -/
def Chan.moverHalt (c : Chan) (m st : Nat) : Chan :=
  (c.onMem (fun x => x.mapClient m (fun _ => Dma.idle))).onB (fun b =>
    (((b.bump K.moverErrors).setNum (moverKey K.lastStatus m) st).setNum (moverKey K.state m) 3).raiseErr irqCarat)

/-- The status of a descriptor has been written back: the list goes on, ends, or the mover halts (R339 steps 4 and 5). -/
def Chan.descEnd (c : Chan) (m : Nat) : Chan :=
  let d := c.mem.client m
  if d.status ≠ 1 then c.moverHalt m d.status
  else
    let b1 := (c.b.bump (moverKey K.descriptorsDone m)).bump (moverKey K.bytesMoved m) d.len
    let b2 := if bit d.control 2 then b1.raiseEvt irqMover else b1
    let c1 : Chan := { c with b := b2 }
    if bit d.control 3 || c.moverState m == 2 then
      (c1.onMem (fun x => x.mapClient m (fun _ => Dma.idle))).onB (fun b => b.setNum (moverKey K.state m) 0)
    else c1.fetchDesc m d.next

/-- The status is written back: at once in a window, by a request in space 0. -/
def Chan.writeBack (c : Chan) (m st : Nat) : Chan :=
  let d := c.mem.client m
  let a := c.descOf m
  let c1 := c.onMem (fun x => x.mapClient m (fun y => { y with phase := .back, status := st, sent := 0 }))
  if spaceOf a = 0 then c1.present64 64
  else (c1.onMem (fun x => x.store (spaceOf a) (offsetOf a + 8) (natLe 4 (d.control % 2 ^ 24 + st * 2 ^ 24)))).descEnd m

/-- The status of a descriptor before it moves: 1 when it may move (R337, R341). -/
def Dma.addressStatus (d : Dma) : Nat :=
  let sideOk := fun (a : Nat) (fixed : Bool) => spanOk a (if fixed then 8 else d.len)
  let sf := bit d.control 0
  let df := bit d.control 1
  if !sideOk d.src sf || !sideOk d.dst df then 0x81
  else if (sf && decide (d.src % 8 ≠ 0)) || (df && decide (d.dst % 8 ≠ 0)) || ((sf || df) && decide (d.len % 8 ≠ 0)) then 0x83
  else 1

/-- The source bytes in order; those of a fixed source in a window are the same 8 bytes again and again. -/
def Chan.sourceBytes (c : Chan) (d : Dma) : List Byte :=
  let s := spaceOf d.src
  if s = 0 then (List.range d.len).map (fun i => mget (fun _ => 0) d.got i)
  else (List.range d.len).map (fun i => winByte (c.mem.window s) (offsetOf d.src + (if bit d.control 0 then i % 8 else i)))

/-- Destination bytes that the source range overlaps hold unspecified values (R343): each is drawn anew. [DEDUCED, assumption 55] -/
def Chan.openBytes (c : Chan) (d : Dma) (data : List Byte) : List Byte × Chan :=
  let sl := if bit d.control 0 then 8 else d.len
  let inSrc := fun i =>
    let a := offsetOf d.dst + (if bit d.control 1 then i % 8 else i)
    spaceOf d.dst == spaceOf d.src && decide (offsetOf d.src ≤ a) && decide (a < offsetOf d.src + sl)
  if (List.range d.len).any inSrc then
    (((List.range d.len).zip data).map (fun p => if inSrc p.1 then BitVec.ofNat 8 (Config.freeNat (c.b.free + p.1)) else p.2),
     { c with b := { c.b with free := c.b.free + d.len } })
  else (data, c)

/-- All source bytes of a mover's descriptor are there: they go to the destination. [DEDUCED, assumption 55] -/
def Chan.moveOut (c : Chan) (m : Nat) : Chan :=
  let d := c.mem.client m
  let r := c.openBytes d (c.sourceBytes d)
  (r.2.onMem (fun x => x.mapClient m (fun y => { y with phase := .write, data := r.1 }))).present64 64

/-- DESCRIPTOR_FETCH (R339 steps 1 and 2): the 32 bytes have been read, and the mover begins to move. -/
def Chan.descFetch (c : Chan) (m : Nat) : Chan :=
  let a := c.descOf m
  let d := c.mem.client m
  if d.phase ≠ .fetch then c
  else if !descAddrOk a then c.moverHalt m 0x81
  else if d.readFault.isSome then c.moverHalt m 0x82
  else if spaceOf a = 0 ∧ (d.asked = 0 ∨ 0 < d.live) then c
  else
    let n := leNat (if spaceOf a = 0 then (List.range 32).map (fun i => mget (fun _ => 0) d.got i)
      else winRead (c.mem.window (spaceOf a)) (offsetOf a) 32)
    let x : Dma := { Dma.idle with phase := .read, src := bits n 192 64, dst := bits n 128 64, len := bits n 96 32,
                                   control := bits n 64 32, next := bits n 0 64 }
    let c1 := c.onMem (fun y => y.mapClient m (fun _ => x))
    if x.len = 0 then c1.onMem (fun y => y.mapClient m (fun z => { z with phase := .write }))
    else if x.addressStatus ≠ 1 then c1.onMem (fun y => y.mapClient m (fun z => { z with phase := .write, status := x.addressStatus }))
    else if spaceOf x.src = 0 then c1.present64 64
    else c1.moveOut m

/-- Destination bytes in a window: a fixed destination takes 8 bytes again and again. -/
def Chan.landBytes (c : Chan) (d : Dma) : Chan :=
  let s := spaceOf d.dst
  if s = 0 ∨ d.data.isEmpty = true then c
  else if bit d.control 1 then c.onMem (fun x => x.store s (offsetOf d.dst) (d.data.drop (d.len - 8)))
  else c.onMem (fun x => x.store s (offsetOf d.dst) d.data)

/-- DESCRIPTOR_DONE (R339 steps 3 to 5): the transfer has ended. -/
def Chan.descDone (c : Chan) (m : Nat) : Chan :=
  let d := c.mem.client m
  if d.phase = .read then
    (if d.readFault.isSome ∧ d.live = 0 then c.writeBack m 0x82 else c)
  else if d.phase ≠ .write ∨ 0 < d.live then c
  else if d.status ≠ 0 then c.writeBack m d.status
  else if d.writeFault.isSome then c.writeBack m 0x82
  else if d.sent < d.writes then c
  else (c.landBytes d).writeBack m 1

/-! ### Responses (R425 to R427) -/

/-- The bytes that a response brings: those of the request's mask, from the lane of each. -/
def lineBytes (data : Nat) (lo n : Nat) : List Byte := (List.range n).map (fun i => BitVec.ofNat 8 (bits data (8 * (lo + i)) 8))

/-- Put bytes into a sparse table from a place on. -/
def gotBytes (g : NMap Byte) (at_ : Nat) (d : List Byte) : NMap Byte := winWrite g at_ d

/-- What a response to a request means for its client. -/
def Dma.answer (d : Dma) (r : MReq) (desc : Nat) (err : Bool) (data : Nat) : Dma :=
  let x := { d with live := d.live - 1 }
  match r.kind with
  | 0 => if err then { x with readFault := some 0 } else { x with got := gotBytes [] 0 (lineBytes data (offsetOf desc % 64) 32) }
  | 1 =>
    let q := sideReq (offsetOf d.src) d.len (bit d.control 0) r.idx
    if err then { x with readFault := some (match d.readFault with | some f => min f q.2.2.1 | none => q.2.2.1) }
    else { x with got := gotBytes d.got q.2.2.1 (lineBytes data q.2.1 q.2.2.2) }
  | 2 =>
    let q := sideReq (offsetOf d.dst) d.data.length (bit d.control 1) r.idx
    if err then { x with writeFault := some (match d.writeFault with | some f => min f q.2.2.1 | none => q.2.2.1) } else x
  | _ => if err then { x with writeFault := some 0 } else x

/-- The source bytes of a client are all there. -/
def Dma.filled (d : Dma) : Bool := d.phase == .read && d.live == 0 && d.asked == d.reads && d.readFault.isNone

/-- After a response a mover moves on: full source bytes go out; a status that has been written back ends its descriptor,
and one that could not be written halts the mover. -/
def Chan.moverGoes (c : Chan) (m : Nat) (r : MReq) : Chan :=
  let d := c.mem.client m
  if d.filled then c.moveOut m
  else if r.kind = 3 then (if d.writeFault.isSome then c.moverHalt m 0x82 else c.descEnd m)
  else c

end Sys2Proof.Machine
end

