-- ==== Sys2Proof/Machine/CaratUnit.lean ====
section
/-! DEFINITION. Carat (R320 to R336): the format with its decoder and encoder, output streams, trace fetches and jobs. -/

namespace Sys2Proof.Machine

/-! ### Tokens (R322, Table 13.3) -/

/-- The bytes that a match of length `n` at distance `d` copies from the end of `out`. -/
def matchBytes (out : List Byte) (d n : Nat) : List Byte :=
  (List.range n).map (fun i => (out[out.length - d + i % d]?).getD 0)

/-- What a decoder meets: an error with its code and input offset, or the output with the offset and bytes that follow. -/
abbrev Decoded := (Nat × Nat) ⊕ (List Byte × Nat × List Byte)

/-- Tokens from input offset `off` until the output reaches `raw` bytes (R322, R325); `fuel` bounds their number. -/
def decodeTokens (raw : Nat) : Nat → Nat → List Byte → List Byte → Decoded
  | 0, off, _, _ => .inl (0x11, off)
  | fuel + 1, off, inp, out =>
    if out.length = raw then .inr (out, off, inp)
    else match inp with
      | [] => .inl (0x11, off)
      | c :: rest =>
        let k := c.toNat
        if k = 0x80 then .inl (0x10, off)
        else if k < 0x80 then
          if rest.length < k + 1 then .inl (0x11, off)
          else if raw < out.length + k + 1 then .inl (0x13, off)
          else decodeTokens raw fuel (off + k + 2) (rest.drop (k + 1)) (out ++ rest.take (k + 1))
        else
          let long := k == 0xFF
          let need := if long then 3 else 2
          if rest.length < need then .inl (0x11, off)
          else
            let n := if long then 129 + leAt rest 0 1 else k - 0x7E
            let d := leAt rest (need - 2) 2 + 1
            if out.length < d then .inl (0x12, off)
            else if raw < out.length + n then .inl (0x13, off)
            else decodeTokens raw fuel (off + need + 1) (rest.drop need) (out ++ matchBytes out d n)

/-- Literal runs alone: a legal coding of any bytes. -/
def literalTokens (raw : List Byte) : List Byte :=
  (pieces 128 raw).flatMap (fun p => BitVec.ofNat 8 (p.length - 1) :: p)

/-- The coded data of a block: the encoder's choice, which is no part of the format, when it codes these bytes. [DESIGN CHOICE, assumption 54] -/
def codedData (raw : List Byte) : List Byte :=
  let t := Config.caratTokens raw
  match decodeTokens raw.length (t.length + 1) 0 t [] with
  | .inr (out, _, []) => if out = raw then t else literalTokens raw
  | _ => literalTokens raw

/-! ### Blocks and streams (R320, R323, Tables 13.1 and 13.2) -/

/-- A stream header. -/
def streamHeader (kind id : Nat) : List Byte := natLe 8 (0xCA7A * 2 ^ 48 + 2 ^ 40 + kind * 2 ^ 32 + id % 2 ^ 32)

/-- A block header. -/
def blockHeader (check type raw : Nat) : List Byte := natLe 8 (check * 2 ^ 32 + type * 2 ^ 30 + raw * 2 ^ 13)

/-- A data block in native mode, and whether it is coded. -/
def dataBlock (raw : List Byte) : List Byte × Bool :=
  let t := codedData raw
  if t.length < raw.length then (blockHeader (crc32c raw) 0 raw.length ++ t, true)
  else (blockHeader (crc32c raw) 1 raw.length ++ raw, false)

/-- An end block. -/
def endBlock (blocks : Nat) : List Byte := blockHeader blocks 2 0

/-- The block of legacy mode, none when it is not smaller (R324). -/
def legacyBlock (raw : List Byte) : Option (List Byte) :=
  let t := codedData raw
  if raw.length ≤ 8 + t.length then none else some (blockHeader (crc32c raw) 0 raw.length ++ t)

/-! ### Decoding (R325, R326, Table 13.4) -/

/-- What a decoder leaves: result, error offset, input consumed, and the good blocks, each with the input offset behind it. -/
structure DOut where
  result : Nat
  off : Nat
  consumed : Nat
  blocks : List (List Byte × Nat)

/-- One data block behind its header at `at_`: its raw bytes, the offset behind it and the rest. -/
def blockBody (type raw at_ : Nat) (body : List Byte) : Decoded :=
  if type = 1 then (if body.length < raw then .inl (0x11, at_) else .inr (body.take raw, at_ + 8 + raw, body.drop raw))
  else decodeTokens raw (body.length + 1) (at_ + 8) body []

/-- Block after block; `cap` is the output still allowed, `n` the blocks so far. -/
def decodeBlocks (legacy : Bool) : Nat → Nat → Nat → Nat → List Byte → DOut
  | 0, _, _, off, _ => { result := 0x11, off := off, consumed := off, blocks := [] }
  | fuel + 1, cap, n, off, inp =>
    let bad : Nat → Nat → DOut := fun code at_ => { result := code, off := at_, consumed := off, blocks := [] }
    if inp.length < 8 then bad 0x11 off
    else
      let h := leNat (inp.take 8)
      let type := bits h 30 2
      let raw := bits h 13 17
      if type = 3 ∨ bits h 0 13 ≠ 0 ∨ 65536 < raw ∨ (type = 2 ∧ (0 < raw ∨ legacy = true)) then bad 0x10 off
      else if type = 2 then
        if 8 < inp.length then bad 0x13 off
        else if bits h 32 32 ≠ n % 2 ^ 32 then bad 0x14 off
        else { result := 0, off := 0xFFFFFFFF, consumed := off + 8, blocks := [] }
      else match blockBody type raw off (inp.drop 8) with
        | .inl e => bad e.1 e.2
        | .inr (out, next, rest) =>
          if cap < raw ∨ (legacy = true ∧ rest.isEmpty = false) then bad 0x13 off
          else if crc32c out ≠ bits h 32 32 then bad 0x14 off
          else if legacy then { result := 0, off := 0xFFFFFFFF, consumed := next, blocks := [(out, next)] }
          else
            let r := decodeBlocks legacy fuel (cap - raw) (n + 1) next rest
            { r with blocks := (out, next) :: r.blocks }

/-- A native stream, or one legacy block. -/
def decodeCarat (legacy : Bool) (cap : Nat) (inp : List Byte) : DOut :=
  if legacy then decodeBlocks true 2 cap 0 0 inp
  else if inp.length < 8 then { result := 0x11, off := 0, consumed := 0, blocks := [] }
  else
    let h := leNat (inp.take 8)
    if bits h 48 16 ≠ 0xCA7A ∨ bits h 40 8 ≠ 1 then { result := 0x10, off := 0, consumed := 0, blocks := [] }
    else decodeBlocks false (inp.length + 1) cap 0 8 (inp.drop 8)

/-! ### Output streams (R327 to R331) -/

/-- An output stream entry (Table 13.5): source, level, frames per stream, first slot, slots. -/
structure StreamEntry where
  source : Nat
  level : Nat
  frames : Nat
  first : Nat
  count : Nat
  deriving DecidableEq, Repr

/-- The entry that bytes hold. -/
def streamEntryOf (d : List Byte) : StreamEntry :=
  let n := leNat d
  { source := bits n 124 4, level := bits n 122 2, frames := bits n 104 16, first := bits n 32 32, count := bits n 0 32 }

/-- The entry of output stream s. -/
def Blk.stream (b : Blk) (s : Nat) : StreamEntry := streamEntryOf (b.bytes (K.streamEntry + s))

/-- Change Carat. -/
def Chan.onCar (c : Chan) (f : Carat → Carat) : Chan := { c with car := f c.car }

/-- An output stream. -/
def Carat.stream (x : Carat) (s : Nat) : OStream := mget (fun _ => OStream.reset) x.streams s

/-- Change an output stream. -/
def Carat.mapStream (x : Carat) (s : Nat) (f : OStream → OStream) : Carat :=
  { x with streams := mset (fun _ => OStream.reset) x.streams s (f (x.stream s)) }

/-- Bytes in the archive staging area (R330). -/
def Carat.staged (x : Carat) : Nat := (x.streams.map (fun s => (s.2.streams.map (fun n => n.raw.length)).sum)).sum

/-- The archive staging area (Table 13.8). -/
def stagingBytes : Nat := 536870912

/-- The stream is open. -/
def OStream.isOpen (o : OStream) : Bool := match o.streams.getLast? with | some n => !n.ended | none => false

/-- Change the last native stream. -/
def OStream.mapLast (o : OStream) (f : NStream → NStream) : OStream :=
  match o.streams.reverse with
  | [] => o
  | n :: ns => { o with streams := (f n :: ns).reverse }

/-- A native stream begins. -/
def OStream.begin_ (o : OStream) (kind id : Nat) : OStream :=
  { o with streams := o.streams ++ [{ kind := kind, id := id, raw := [], ended := false, headed := false, blocks := 0 }],
           begun := (o.begun + 1) % 2 ^ 32, chunks := 0 }

/-- The open native stream ends. -/
def OStream.end_ (o : OStream) : OStream := if o.isOpen then o.mapLast (fun n => { n with ended := true }) else o

/-- Raw bytes join the open stream when they fit into the staging area; the flag tells that they did (R330). -/
def Chan.stage (c : Chan) (s : Nat) (d : List Byte) : Bool × Chan :=
  if stagingBytes < c.car.staged + d.length then
    (false, (c.onB (·.bump K.stagingRefusals)).onCar (fun x => x.mapStream s OStream.end_))
  else (true, c.onCar (fun x => x.mapStream s (fun o => o.mapLast (fun n => { n with raw := n.raw ++ d }))))

/-- The chunk of a frame for an aggregate archive (R328): its head holds the frame first. [DEDUCED, assumption 56] -/
def Chan.chunk (c : Chan) (sec : Sec) (e : StreamEntry) : List Byte :=
  let t := c.tree.table sec.frame
  let rs := (ownRecords t (sec.slots.filter (fun p => decide (e.first ≤ p.1) && decide (p.1 < e.first + e.count)))).map AggRec.bytes
  natLe 8 sec.frame ++ natLe 4 rs.length ++ natLe 4 rs.flatten.length ++ rs.flatten

/-- The aggregate of a frame and level is taken by the output streams that archive the level (R328). -/
def Chan.archive (c : Chan) (f level : Nat) : Chan :=
  match c.tree.sec f level with
  | none => c
  | some sec =>
    (List.range 16).foldl (fun acc s =>
      let e := acc.b.stream s
      if e.source ≠ 2 ∨ e.level ≠ level then acc
      else
        let d := acc.chunk sec e
        let fits := decide (acc.car.staged + d.length ≤ stagingBytes)
        let acc1 := if (acc.car.stream s).isOpen || !fits then acc
          else acc.onCar (fun x => x.mapStream s (fun o => o.begin_ 2 o.begun))
        let r := acc1.stage s d
        if !r.1 then r.2
        else
          let acc2 := r.2.onCar (fun x => x.mapStream s (fun o => { o with chunks := o.chunks + 1 }))
          if e.frames ≤ (acc2.car.stream s).chunks then acc2.onCar (fun x => x.mapStream s OStream.end_) else acc2) c

/-- A stream entry takes a new value: an open stream ends (R327). -/
def Chan.writeStream (c : Chan) (s : Nat) (v : List Byte) : Chan :=
  let c1 := c.onB (fun b => b.setBytes (K.streamEntry + s) v)
  if c.b.bytes (K.streamEntry + s) = c1.b.bytes (K.streamEntry + s) then c1
  else c1.onCar (fun x => x.mapStream s (fun o => { o.end_ with fetch := none }))

/-! ### Trace fetches (R329) -/

/-- The check of a write of trace_fetch, with the items of its own transaction (R93). -/
def Chan.fetchStatus (c : Chan) (view : Nat → Val) (v : Nat) : Nat :=
  let s := v / 256
  if 15 < s ∨ (streamEntryOf (view (K.streamEntry + s)).toBytes).source ≠ 1 ∨ (c.car.stream s).fetch.isSome = true ∨ (c.leafAt (v % 256)).isNone = true then stWrong
  else stOk

/-- The next read of a fetch goes out, at most so many in a frame. -/
def Chan.fetchRead (c : Chan) (s : Nat) : Chan :=
  let o := c.car.stream s
  match o.fetch with
  | none => c
  | some f =>
    if f.waiting = true ∨ c.b.num K.fetchReadsPerFrame ≤ o.reads then c
    else
      (c.onB (fun b => b.request f.leaf opSegRead 0 [keyItem K.traceBuffer 13 (natLe 4 f.offset ++ natLe 4 8168)] [])).onCar
        (fun x => x.mapStream s (fun o => { o with reads := o.reads + 1, fetch := some { f with waiting := true } }))

/-- TRACE_FETCH: a stream begins with the leaf's identifier, and the first read goes out. -/
def Chan.startFetch (c : Chan) (v : Nat) : Chan :=
  let s := v / 256
  let c0 := c.onB (fun b => b.setNum K.traceFetch v)
  match c.leafAt (v % 256) with
  | none => c0
  | some x =>
    (c0.onCar (fun y => y.mapStream s (fun o =>
      { o.begin_ 1 x.leafId with fetch := some { leaf := x.addr, offset := 0, waiting := false } }))).fetchRead s

/-- TRACE_FETCH_RESPONSE (R329, R330). -/
def Chan.fetchAnswer (c : Chan) (s status : Nat) (d : List Byte) : Chan :=
  match (c.car.stream s).fetch with
  | none => c
  | some f =>
    if f.waiting = false then c
    else
      let stop := fun (c : Chan) => c.onCar (fun x => x.mapStream s (fun o => { o.end_ with fetch := none }))
      if status ≠ 0 then stop (c.onB (·.bump K.fetchFailures))
      else if d.isEmpty then stop c
      else
        let r := c.stage s d
        if !r.1 then stop (r.2.onB (·.bump K.fetchFailures))
        else (r.2.onCar (fun x => x.mapStream s (fun o =>
          { o with fetch := some { f with offset := f.offset + d.length, waiting := false } }))).fetchRead s

/-- A frame opens: fetches may read again. -/
def Chan.openFetches (c : Chan) : Chan :=
  (List.range 16).foldl (fun acc s =>
    if (acc.car.stream s).fetch.isSome then
      (acc.onCar (fun x => x.mapStream s (fun o => { o with reads := 0 }))).fetchRead s
    else acc) c

/-! ### Sealing (R323, R331, R334) -/

/-- The output stream has a block to seal, or an end block to hand off. -/
def OStream.ready (o : OStream) : Bool :=
  match o.streams with
  | [] => false
  | n :: _ => n.ended || decide (65536 ≤ n.raw.length)

/-- The next block of an output stream is sealed and handed to egress (R331). -/
def Chan.sealStream (c : Chan) (s : Nat) : Chan :=
  match (c.car.stream s).streams with
  | [] => c
  | n :: ns =>
    let raw := n.raw.take 65536
    let rest := n.raw.drop 65536
    let blk := if raw.isEmpty then ([], false) else dataBlock raw
    let blocks := n.blocks + (if raw.isEmpty then 0 else 1)
    let ovr := n.ended && rest.isEmpty
    let d := (if n.headed then [] else streamHeader n.kind n.id) ++ blk.1 ++ (if ovr then endBlock blocks else [])
    let left := if ovr then ns else { n with raw := rest, headed := true, blocks := blocks } :: ns
    let b1 := (c.b.bump K.rawBytesIn raw.length).bump K.caratBytesOut d.length
    let b2 := if raw.isEmpty then b1 else b1.bump (if blk.2 then K.blocksCoded else K.blocksStored)
    let c1 : Chan := { c with b := if ovr then b2.bump K.streamsEnded else b2 }
    let c2 := c1.onCar (fun x => { x.mapStream s (fun o => { o with streams := left }) with turn := s + 1 })
    (c2.queuesListed.filter (fun q => (c2.b.queue q).source == 4 && (c2.b.queue q).selA == s)).foldl
      (fun acc q => acc.handOff q acc.b.now 4 yellow (pieces 8160 d)) c2

/-! ### Jobs (R332, R333) -/

/-- The job that 32 bytes describe (Table 13.6). -/
def parseJob (d : List Byte) : Job :=
  let n := leNat d
  { src := bits n 192 64, dst := bits n 128 64, len := bits n 96 32, cap := bits n 64 32, op := bits n 56 8, tag := bits n 0 32 }

/-- The bound of R323. -/
def caratBound (n : Nat) : Nat := n + 8 * ((n + 65535) / 65536) + 16

/-- The check of a submitted job. -/
def Chan.jobStatus (c : Chan) (d : List Byte) : Nat :=
  let j := parseJob d
  if j.op = 0 ∨ 4 < j.op ∨ (j.op = 2 ∧ (65536 < j.len ∨ j.cap < j.len)) ∨ (j.op = 1 ∧ j.cap < caratBound j.len) then stRange
  else if 16 ≤ c.car.jobs.length then stBusy
  else stOk

/-- The client numbers of the two units on the memory. -/
abbrev compClient : Nat := 8
abbrev decompClient : Nat := 9

/-- What a job writes: the result, its error offset (none where the spec gives none), the output, and the places at which
the output is whole with the input consumed by then and the blocks good by then. -/
structure JobOut where
  result : Nat
  off : Option Nat
  data : List Byte
  marks : List (Nat × Nat)

/-- Blocks with the running length of the output and the input consumed behind each. -/
def runMarks : Nat → List (List Byte × Nat) → List (Nat × Nat)
  | _, [] => []
  | n, b :: bs => (n + b.1.length, b.2) :: runMarks (n + b.1.length) bs

/-- A compress job of a native stream over the bytes read; a fault leaves the whole blocks before it. -/
def compressOut (j : Job) (inp : List Byte) (fault : Bool) : JobOut :=
  let raws := if fault then pieces 65536 (inp.take (inp.length / 65536 * 65536)) else pieces 65536 inp
  let head := streamHeader 3 j.tag
  let blocks := raws.map (fun r => (dataBlock r).1)
  let marks := (runMarks 8 (blocks.zip ((List.range raws.length).map (fun k => min j.len (65536 * (k + 1))))))
  if fault then { result := 0x30, off := none, data := if raws.isEmpty then [] else head ++ blocks.flatten, marks := marks }
  else { result := 0, off := some 0xFFFFFFFF, data := head ++ blocks.flatten ++ endBlock raws.length, marks := marks }

/-- What a job makes of the bytes read. -/
def jobOut (j : Job) (inp : List Byte) (fault : Bool) : JobOut :=
  if j.op = 1 then compressOut j inp fault
  else if j.op = 2 then
    if fault then { result := 0x30, off := none, data := [], marks := [] }
    else match legacyBlock inp with
      | none => { result := 1, off := some 0xFFFFFFFF, data := [], marks := [] }
      | some d => { result := 0, off := some 0xFFFFFFFF, data := d, marks := [(d.length, j.len)] }
  else
    let r := decodeCarat (j.op == 4) j.cap inp
    let short := fault && (decide (r.result = 0x11) || decide (r.result = 0))
    { result := if short then 0x30 else r.result, off := some r.off, data := (r.blocks.map (·.1)).flatten,
      marks := runMarks 0 r.blocks }

/-- The job of a unit. -/
def Carat.job (x : Carat) (decomp : Bool) : Option Job := if decomp then x.decomp else x.comp

/-- The client of a unit. -/
def jobClient (decomp : Bool) : Nat := if decomp then decompClient else compClient

/-- The source bytes that a unit has, up to the first that failed. -/
def Chan.jobBytes (c : Chan) (d : Dma) : List Byte :=
  match d.readFault with
  | some f => (c.sourceBytes d).take f
  | none => c.sourceBytes d

/-- The turns that a compress job needs at the compressor: one a block, the end block of an empty stream included; after a fault the
whole blocks before it. -/
def jobTurns (inp : List Byte) (fault : Bool) : Nat := if fault then inp.length / 65536 else max 1 ((inp.length + 65535) / 65536)

/-- The compress job has a block to seal (R334): its source is there. -/
def Chan.jobReady (c : Chan) : Bool :=
  let d := c.mem.client compClient
  c.car.comp.isSome && decide (d.phase = .read) && decide (d.live = 0) && (decide (d.asked = d.reads) || d.readFault.isSome) &&
    decide (c.car.sealedBlocks < jobTurns (c.jobBytes d) d.readFault.isSome)

/-- The source is there, and a compress job has had its turns: the output goes to the destination (R334). -/
def Chan.jobGoes (c : Chan) (decomp : Bool) : Chan :=
  let k := jobClient decomp
  let d := c.mem.client k
  match c.car.job decomp with
  | none => c
  | some j =>
    if d.phase = .read ∧ d.live = 0 ∧ (d.asked = d.reads ∨ d.readFault.isSome = true) ∧ (decomp = true ∨ c.jobReady = false) then
      let o := jobOut j (c.jobBytes d) d.readFault.isSome
      (c.onMem (fun m => m.mapClient k (fun y => { y with phase := .write, data := o.data }))).present64 64
    else c

/-- A unit that is free takes its oldest job: source bytes are requested; an address outside Table 14.1 is a memory fault. -/
def Chan.startJob (c : Chan) (decomp : Bool) : Chan :=
  if (c.car.job decomp).isSome then c
  else
    let mine := fun (j : Job) => if decomp then decide (3 ≤ j.op) else decide (j.op ≤ 2)
    match c.car.jobs.find? mine with
    | none => c
    | some j =>
      let bad := (decide (0 < j.len) && !spanOk j.src j.len) || (decide (0 < j.cap) && !spanOk j.dst j.cap)
      let rest := (c.car.jobs.takeWhile (fun x => !mine x)) ++ (c.car.jobs.dropWhile (fun x => !mine x)).drop 1
      let x : Dma := { Dma.idle with phase := .read, src := j.src, dst := j.dst, len := j.len,
                                     readFault := if bad then some 0 else none }
      let c1 := (c.onCar (fun y => if decomp then { y with jobs := rest, decomp := some j } else { y with jobs := rest, comp := some j, sealedBlocks := 0 })).onMem
        (fun m => m.mapClient (jobClient decomp) (fun _ => x))
      (c1.present64 64).jobGoes decomp

/-- The compressor's sources in the order of its turns (R334): the output streams, and 16 for the job queue. [DEDUCED, assumption 91] -/
def Chan.sealOrder (c : Chan) : List Nat := (List.range 17).map (fun k => (c.car.turn + k) % 17)

/-- A source of the compressor has a block to seal. -/
def Chan.sealReady (c : Chan) (s : Nat) : Bool := if s < 16 then (c.car.stream s).ready else c.jobReady

/-- CARAT_BLOCK_SEAL (R323, R331, R334): the next source in turn with a block to seal: an output stream, or the job queue. [DEDUCED, assumption 91] -/
def Chan.sealBlock (c : Chan) : Chan :=
  match c.sealOrder.find? c.sealReady with
  | none => c
  | some s =>
    if s < 16 then c.sealStream s
    else (c.onCar (fun x => { x with sealedBlocks := x.sealedBlocks + 1, turn := 0 })).jobGoes false

/-- JOB_SUBMIT. -/
def Chan.submitJob (c : Chan) (d : List Byte) : Chan :=
  ((c.onCar (fun x => { x with jobs := x.jobs ++ [parseJob d] })).startJob false).startJob true

/-- A result record enters the queue (R333, Table 13.7). -/
def Chan.putResult (c : Chan) (tag result consumed produced good off : Nat) : Chan :=
  let r := natLe 32 (tag * 2 ^ 224 + result * 2 ^ 216 + consumed * 2 ^ 160 + produced * 2 ^ 128 + good * 2 ^ 96 + off * 2 ^ 64 +
    c.b.now)
  let full := decide (16 ≤ c.car.results.length)
  let b1 := if full then c.b.bump K.resultsLost else c.b
  let c1 : Chan := { c with b := b1.raiseEvt irqCarat }
  c1.onCar (fun x => { x with results := (if full then x.results.drop 1 else x.results) ++ [r] })

/-- JOB_COMPLETE (R333): every byte of the output has been written, or a write has failed. -/
def Chan.jobDone (c : Chan) (decomp : Bool) : Chan :=
  let k := jobClient decomp
  let d := c.mem.client k
  match c.car.job decomp with
  | none => c
  | some j =>
    if d.phase ≠ .write ∨ 0 < d.live ∨ (d.writeFault.isNone = true ∧ d.sent < d.writes) then c
    else
      let o := jobOut j (c.jobBytes d) d.readFault.isSome
      let cut := match d.writeFault with | some f => f | none => o.data.length
      let good := o.marks.filter (fun m => decide (m.1 ≤ cut))
      let failed := d.writeFault.isSome
      let base := if j.op = 3 then min 8 j.len else 0
      let whole := !failed && decide (o.result < 0x10)
      let consumed := if whole then j.len
        else match good.getLast? with | some m => m.2 | none => base
      let produced := if whole then o.data.length else match good.getLast? with | some m => m.1 | none => 0
      let result := if failed then 0x30 else o.result
      let draw := c.b.draw
      let off := if failed ∧ decomp = true then (consumed, c.b) else match o.off with
        | some x => if failed then (draw.1 % 2 ^ 32, draw.2) else (x, c.b)
        | none => (draw.1 % 2 ^ 32, draw.2)
      let c0 : Chan := { c with b := off.2 }
      let c1 := (c0.landBytes { d with data := o.data.take produced, control := 0 }).onMem (fun m => m.mapClient k (fun _ => Dma.idle))
      let blocks := good.length
      let coded := if j.op = 1 then (((pieces 65536 (c.jobBytes d)).take blocks).filter (fun r => (dataBlock r).2)).length else if j.op = 2 then blocks else 0
      let c2 := c1.onB (fun b =>
        if decomp then
          let b1 := (b.bump K.decodedBytesIn consumed).bump K.decodedBytesOut produced
          if 0x10 ≤ result ∧ result ≤ 0x14 then b1.bump K.decodeErrors else b1
        else
          let b1 := (b.bump K.rawBytesIn consumed).bump K.caratBytesOut produced
          let b2 := (b1.bump K.blocksCoded coded).bump K.blocksStored (blocks - coded)
          let b3 := if result = 1 then b2.bump K.notSmaller else b2
          if j.op = 1 ∧ result = 0 then b3.bump K.streamsEnded else b3)
      let c3 := c2.onCar (fun x => if decomp then { x with decomp := none } else { x with comp := none })
      (c3.putResult j.tag result consumed produced blocks off.1).startJob decomp

/-- A read of job_result pops the oldest record (R333). -/
def Chan.popResult (c : Chan) : List Byte × Chan :=
  match c.car.results with
  | [] => ([], c)
  | r :: rs => (r, c.onCar (fun x => { x with results := rs }))

/-! ### Responses of the memory master port (R425 to R427) -/

/-- A request has its answer: its client takes it and goes on. -/
def Chan.clientAnswer (c : Chan) (r : MReq) (err : Bool) (data : Nat) : Chan :=
  let c1 := c.onMem (fun m => m.mapClient r.client (fun d => d.answer r (c.descOf r.client) err data))
  let c2 := if r.client = compClient then c1.jobGoes false
    else if r.client = decompClient then c1.jobGoes true
    else c1.moverGoes r.client r
  c2.present64 64

/-- MMP_RESPONSE. -/
def Chan.mmpResponse (c : Chan) (n : Nat) (err : Bool) (data : Nat) : Chan :=
  match mfind c.mem.reqs n with
  | none => c.onB (·.bump K.mmpLateResponses)
  | some r =>
    let c1 := c.onMem (fun m => { m with reqs := mdel m.reqs n })
    if r.dead then (c1.onB (·.bump K.mmpLateResponses)).present64 64 else c1.clientAnswer r err data

/-- MMP_TIMEOUT: a memory fault; the tag stays reserved. -/
def Chan.mmpTimeout (c : Chan) (n : Nat) : Chan :=
  match mfind c.mem.reqs n with
  | none => c
  | some r =>
    if r.dead then c
    else ((c.onB (·.bump K.mmpTimeouts)).onMem (fun m => { m with reqs := mput m.reqs n { r with dead := true } })).clientAnswer r true 0

end Sys2Proof.Machine
end

