-- ==== Sys2Proof/Machine/FaultStore.lean ====
section
/-! DEFINITION. A channel's flash (R349, R351, R356, R357, R440) and its fault history store (R352 to R356). -/

namespace Sys2Proof.Machine

/-! ### Stored objects (R349) -/

/-- The object lies in the stored-object area: keys, images and logs have areas of their own (Table 14.6). -/
def inStoreArea (key : Nat) : Bool :=
  !(key == K.activeImage || key == K.rulActiveImage || key == K.historyLog || key == K.firmwareLog ||
    (decide (K.verifyKey ≤ key) && decide (key ≤ K.verifyKey + 3)))

/-- The bytes of one record: 16 of header, the data padded to 8, check and mark. -/
def recordSize (leaf : Bool) (key : Nat) (v : Val) : Nat :=
  24 + ((valData (typeOf leaf key) v).length + 7) / 8 * 8

/-- The bytes of a record of this channel's flash; a node of kind 0x0 is a leaf. -/
def FlashRec.size (r : FlashRec) : Nat :=
  if inStoreArea r.key then recordSize (bits r.node.toNat 28 4 == 0) r.key r.v else 0

/-- The size of one copy of the stored-object area. -/
abbrev storeArea : Nat := 16777216

/-- The bytes used of the current copy of the stored-object area. -/
def areaUsed (l : List FlashRec) : Nat := (l.map FlashRec.size).sum

/-- A record is written (R349): it is appended to the current copy of the stored-object area, and when it does not fit, the latest current
values and the pending records of transactions that are still committed are compacted into the other copy under the next generation. A key,
an image or a log takes the place of what its own area held. -/
def Chan.putFlash (c : Chan) (r : FlashRec) : Chan :=
  if !inStoreArea r.key then
    { c with flash := c.flash.filter (fun x => !(r.pend.isNone && x.pend.isNone && x.node == r.node && x.key == r.key)) ++ [r] }
  else if areaUsed c.flash + r.size ≤ storeArea then
    { c with flash := c.flash ++ [r], b := c.b.setNum K.storeBytesUsed (areaUsed c.flash + r.size) }
  else
    let kept := c.currentRecs ++ c.flash.filter (fun x => x.pend.isSome && !x.dead) ++ [r]
    { c with flash := kept,
             b := (c.b.setNum K.storeBytesUsed (areaUsed kept)).setNum K.storeGeneration ((c.b.num K.storeGeneration + 1) % 2 ^ 32) }

/-- Pending copies of a node's transaction become current (R91). -/
def Chan.promote (c : Chan) (node src num : Word) : Chan :=
  let mine := c.flash.filter (fun x => x.node == node && x.pend == some (src, num) && !x.dead)
  let put := fun (l : List FlashRec) (r : FlashRec) =>
    l.filter (fun x => x != r && (inStoreArea r.key || !(x.pend.isNone && x.node == r.node && x.key == r.key))) ++
      [{ r with pend := none }]
  { c with flash := mine.foldl put c.flash }

/-- Pending copies of a transaction that is no longer committed are dropped at the next compaction (R349). -/
def Chan.dropPending (c : Chan) (node src num : Word) : Chan :=
  { c with flash := c.flash.map (fun x => if x.node == node && x.pend == some (src, num) then { x with dead := true } else x) }

/-- The current stored value of an object. -/
def Chan.stored (c : Chan) (node : Word) (key : Nat) : Option Val :=
  (c.currentRecs.find? (fun x => x.node == node && x.key == key)).map (·.v)

/-- The current stored values of a node. -/
def Chan.storedOf (c : Chan) (node : Word) : List Wr :=
  (c.currentRecs.filter (fun x => x.node == node)).map (fun x => (x.key, x.v))

/-! ### The firmware log (R357) -/

/-- The check of an entry (Tables 14.10 and 14.11) over its bytes 4 to 63, put in front of them. -/
def withCheck (d : List Byte) : List Byte := natLe 4 (crc32c d) ++ d

/-- An entry of the firmware log (Table 14.11) from a written value: TIME96 and data. -/
def firmwareEntry (seq : Nat) (v : List Byte) : List Byte :=
  let data := v.drop 12
  withCheck (natLe 4 seq ++ [0, 0] ++ fitTo 40 data ++ natLe 1 data.length ++ [0x80] ++ v.take 12)

/-- Firmware entries that wait for flash. -/
def Blk.firmwareWaits (b : Blk) : Nat :=
  (b.jobs.filter (fun j => match j with | .firmware _ => true | _ => false)).length

/-- Append to a ring of `cap` entries in sectors of 1,024: a full ring first loses its oldest sector. [DEDUCED, assumption 56] -/
def ringPut (cap : Nat) (log : List (List Byte)) (e : List Byte) : List (List Byte) :=
  (if cap ≤ log.length then log.drop 1024 else log) ++ [e]

/-- An entry of the firmware log has been written. -/
def Chan.putFirmware (c : Chan) (v : List Byte) : Chan :=
  { c with hist := { c.hist with fw := ringPut 262144 c.hist.fw (firmwareEntry c.hist.fwSeq v),
                                 fwSeq := (c.hist.fwSeq + 1) % 2 ^ 32 } }

/-- A store ends well: what flash then holds (R74, R91, R349, R357). -/
def Chan.storeDone (c : Chan) (node : Word) (j : FlashJob) : Chan :=
  match j with
  | .item _ _ _ key v => c.putFlash { node := node, key := key, v := v, pend := none, dead := false }
  | .copy src num key v => c.putFlash { node := node, key := key, v := v, pend := some (src, num), dead := false }
  | .firmware v => c.putFirmware v
  | .tray _ gen src num _ key v =>
    c.putFlash { node := c.b.hostAddr, key := key, v := .bytes (natLe 4 gen ++ valData (typeOf false key) v),
                 pend := some (src, num), dead := false }

/-! ### Fault records (R352, Table 14.8) -/

/-- loc_kind and location of a record as one number, as 0x3400:08 writes it. -/
def locOf (d : List Byte) : Nat := bits (leNat d) 244 4 * 2 ^ 48 + bits (leNat d) 160 48

/-- The frame of a record. -/
def frameOf (d : List Byte) : Nat := bits (leNat d) 96 64

/-- The kind of a record. -/
def kindOf (d : List Byte) : Nat := bits (leNat d) 248 8

/-- An entry of the fault history log (Table 14.10). -/
def logEntry (seq stamp : Nat) (d : List Byte) (perm : Bool) (type : Nat) : List Byte :=
  withCheck ([0, 0, 0, 0] ++ natLe 4 seq ++ natLe 12 stamp ++ [0, 0, 0, 0, 0, 0] ++ natLe 1 type ++ natLe 1 (flag perm) ++ d)

/-- Queue an entry for the log; a full queue drops it (R356). -/
def Chan.queueLog (c : Chan) (d : List Byte) (perm : Bool) (type : Nat) : Chan :=
  if 4096 ≤ c.hist.waits.length then c.onB (·.bump K.logDropped)
  else { c with hist := { c.hist with waits := c.hist.waits ++ [(d, perm, type)] } }

/-- Permanent locations. -/
def Hist.permanent (h : Hist) : Nat := (h.locs.filter (fun e => e.2.perm)).length

/-- 0x3400:02 and 0x3400:03 follow the table. -/
def Chan.countLocs (c : Chan) : Chan :=
  c.onB (fun b => (b.setNum K.locationsTracked c.hist.locs.length).setNum K.permanentCount c.hist.permanent)

/-- The transient location heard least recently. -/
def Hist.oldest (h : Hist) : Option Nat :=
  (h.locs.filter (fun e => !e.2.perm)).foldl (fun best e => match best with
    | none => some e.1
    | some k => if e.2.heard < ((mfind h.locs k).map (·.heard)).getD 0 then some e.1 else some k) none

/-- Room for a new location: a full table gives up its oldest transient one, if there is one (R353). -/
def Hist.makeRoom (h : Hist) : Option Hist :=
  if h.locs.length < 65536 then some h
  else h.oldest.map (fun k => { h with locs := mdel h.locs k })

/-- A core that is permanent from now on is to be fenced when 0x3400:04 is TRUE and its leaf's fence authority is
enforcing (R355). [DEDUCED, assumption 57] -/
def Chan.wantFence (c : Chan) (loc : Nat) : Chan :=
  let leaf := bits loc 14 18
  let core := bits loc 0 14
  let auth := match c.leafVal (BitVec.ofNat 32 leaf) K.fenceAuthority with
    | some v => v.toNum
    | none => c.b.num K.fenceAuthority
  if loc / 2 ^ 48 = 1 ∧ core < 1024 ∧ c.b.num K.fencePermanent = 1 ∧ auth = 1 then
    { c with hist := { c.hist with fences := c.hist.fences ++ [(leaf, core)] } }
  else c

/-- One event at a location (R353, R354, R356): classified, and logged unless the location was logged within the
spacing. -/
def Chan.takeEvent (c : Chan) (d : List Byte) (reproduced : Bool) : Chan :=
  let loc := locOf d
  let f := frameOf d
  let c0 := c.onB (·.bump K.fltRecordsTaken)
  let found := mfind c0.hist.locs loc
  match (match found with | some _ => some c0.hist | none => c0.hist.makeRoom) with
  | none => (c0.onB (·.bump K.tableFull)).queueLog d false 1
  | some h0 =>
    let e0 : FLoc := found.getD { perm := false, events := 0, latest := 0, before := 0, logged := 0, record := [], heard := 0 }
    let third := decide (2 ≤ e0.events) && decide (f < e0.before + 2 ^ 20)
    let turns := !e0.perm && ((reproduced && found.isSome) || third) && decide (h0.permanent < 16384)
    let logs := turns || decide (e0.logged = 0) || decide (e0.logged + c0.b.num K.logSpacing ≤ c0.b.now + 1)
    let e1 : FLoc :=
      { perm := e0.perm || turns, events := min (e0.events + 1) (2 ^ 32 - 1), latest := f, before := e0.latest,
        logged := if logs then c0.b.now + 1 else e0.logged, record := d, heard := h0.heard }
    let c1 := ({ c0 with hist := { h0 with locs := mput h0.locs loc e1, heard := h0.heard + 1 } }).countLocs
    let c2 := if logs then c1.queueLog d e1.perm (if turns then 2 else 1) else c1
    if turns then (c2.onB (·.raiseEvt irqFault)).wantFence loc else c2

/-- Kinds that a start-up test makes: they count as reproduced (R354). -/
def startKind (d : List Byte) : Bool := kindOf d == 0x14 || kindOf d == 0x16

/-- The fault history takes the records of the channel and of its leaves (R352). -/
def Chan.drainFaults (c : Chan) : Chan :=
  c.faultIn.foldl (fun acc d => acc.takeEvent d (startKind d)) { c with faultIn := [] }

/-! ### The log in flash (R356) -/

/-- The locations whose latest entry lies in the oldest sector and that are permanent: their class is carried. -/
def Hist.carried (h : Hist) : List Nat :=
  let old := (h.log.take 1024).map (fun e => locOf (slice e 32 32))
  let rest := (h.log.drop 1024).map (fun e => locOf (slice e 32 32))
  (old.eraseDups).filter (fun k => !rest.contains k && ((mfind h.locs k).map (·.perm)).getD false)

/-- One entry is put into the log. -/
def Hist.put (h : Hist) (stamp : Nat) (d : List Byte) (perm : Bool) (type : Nat) : Hist :=
  { h with log := h.log ++ [logEntry h.seq stamp d perm type], seq := (h.seq + 1) % 2 ^ 32 }

/-- A full ring gives up oldest sectors until an entry fits; before a sector goes, the classes that only it holds are appended. There are
512 sectors. [DEDUCED, assumption 56] -/
def Hist.sweep : Nat → Nat → Hist → Hist
  | 0, _, h => h
  | n + 1, stamp, h =>
    if h.log.length < 524288 then h
    else
      let h1 := h.carried.foldl (fun x k => x.put stamp (((mfind h.locs k).map (·.record)).getD []) true 3) h
      Hist.sweep n stamp { h1 with log := h1.log.drop 1024 }

/-- Append an entry to the log. [DEDUCED, assumption 56] -/
def Hist.append (h : Hist) (stamp : Nat) (d : List Byte) (perm : Bool) (type : Nat) : Hist :=
  (Hist.sweep 512 stamp h).put stamp d perm type

/-- FAULT_LOG_WRITE (R356): the oldest entry that waits is written. -/
def Chan.faultLogWrite (c : Chan) (stamp : Nat) : Chan :=
  match c.hist.waits with
  | [] => c
  | (d, perm, type) :: rest => { c with hist := ({ c.hist with waits := rest }).append stamp d perm type }

/-- One entry of the log rebuilds the table, within its limits (R353, R356); the spacing of 0x3400:05 runs on from the frame of the event. [DEDUCED, assumption 56] -/
def Hist.replay (h : Hist) (e : List Byte) : Hist :=
  let d := slice e 32 32
  let loc := locOf d
  let type := leAt e 30 1
  let found := mfind h.locs loc
  match (match found with | some _ => some h | none => h.makeRoom) with
  | none => h
  | some h0 =>
    let e0 : FLoc := found.getD { perm := false, events := 0, latest := 0, before := 0, logged := 0, record := [], heard := 0 }
    let perm := leAt e 31 1 == 1 && (e0.perm || decide (h0.permanent < 16384))
    let e1 : FLoc := if type = 1 ∨ type = 2 then
        { e0 with perm := perm, events := e0.events + 1, latest := frameOf d, before := e0.latest, logged := frameOf d + 1, record := d,
                  heard := h0.heard }
      else { e0 with perm := perm, record := d, heard := h0.heard }
    { h0 with locs := mput h0.locs loc e1, heard := h0.heard + 1 }

/-- The location table rebuilt from the log at a cold start (R356): the log and its sequence stay. -/
def Hist.rebuild (h : Hist) : Hist :=
  h.log.foldl Hist.replay { Hist.reset with log := h.log, seq := h.seq, fw := h.fw, fwSeq := h.fwSeq }

/-- The permanent rows or segments of the block itself, as places of Table 14.5 (R346, R379). -/
def Chan.permanentPlaces (c : Chan) (dram : Bool) : List Nat :=
  (c.hist.locs.filter (fun e => e.2.perm && decide (e.1 / 2 ^ 48 = (if dram then 6 else 4)) &&
    decide (bits e.1 32 16 = c.id))).map (fun e => bits e.1 0 (if dram then 15 else 21))

/-- The permanent rows of a leaf (R387). -/
def Chan.leafPlaces (c : Chan) (leaf : Nat) : List Nat :=
  (c.hist.locs.filter (fun e => e.2.perm && decide (e.1 / 2 ^ 48 = 5) && decide (bits e.1 30 18 = leaf))).map
    (fun e => bits e.1 0 19)

/-- The permanent cores of a leaf (R355, R387). -/
def Chan.permanentCores (c : Chan) (leaf : Nat) : List Nat :=
  ((c.hist.locs.filter (fun e => e.2.perm && decide (e.1 / 2 ^ 48 = 1) && decide (bits e.1 14 18 = leaf))).map
    (fun e => bits e.1 0 14)).filter (fun k => decide (k < 1024))

/-! ### Acts (R353 to R355, R357) -/

/-- CLEAR_LOCATION (R353): a permanent location is transient again. -/
def Chan.clearLocation (c : Chan) (v : Nat) : Chan :=
  let loc := v % 2 ^ 52
  match mfind c.hist.locs loc with
  | none => c
  | some e =>
    if !e.perm then c
    else (({ c with hist := { c.hist with locs := mput c.hist.locs loc { e with perm := false } } }).countLocs).queueLog
      e.record false 4

/-- A record that stands for a failure named by the tray controller (R354): the spec names no kind for it. -/
def Chan.startupFailures (c : Chan) (v : List Byte) : Chan :=
  (pieces 8 v).foldl (fun acc e =>
    let d := acc.b.draw
    let n := leNat e
    ({ acc with b := d.2 }).takeEvent (faultRec (d.1 % 256) (bits n 48 4) acc.b.addr.toNat (n % 2 ^ 48) acc.b.now 0) true) c

/-- 0x3400:12 (Table 14.14). -/
def Chan.locationRead (c : Chan) : List Byte :=
  match mfind c.hist.locs (c.b.num K.locationSelect % 2 ^ 52) with
  | none => []
  | some e => natLe 24 (e.latest * 2 ^ 128 + e.before * 2 ^ 64 + e.events * 2 ^ 32 + flag e.perm)

/-- PERMANENT_FENCE_COMMIT (R355): one core is fenced on its leaf, with its routing bitmap. [DEDUCED, assumption 57] -/
def Chan.permanentFence (c : Chan) : Chan :=
  match c.hist.fences with
  | [] => c
  | (leaf, core) :: rest =>
    ({ c with hist := { c.hist with fences := rest } }).remoteTxn (BitVec.ofNat 32 leaf) (.fenceTxn (leaf * 2 ^ 14 + core))
      [(coreKey core, .num 7), (K.routingNotify, .bytes (coreBitmap [core]))] (c.b.now + 1)

end Sys2Proof.Machine
end

