-- ==== Sys2Proof/Machine/Shared.lean ====
section
/-! DEFINITION. The shared logic of the tray build (R28): tray-level objects (R439, R440), the clasp registers (R399), the
bus-sense path (R363, R364), the core target (R360), and the pins that belong to no channel (Table 17.6). -/

namespace Sys2Proof.Machine

/-- The shared logic. -/
structure Shared where
  /-- rst_por_n is high. -/
  powered : Bool
  /-- The tray-level objects in force (Table 18.7). -/
  store : NMap Val
  /-- The tray generation (R440), generations one of whose stores failed, and whether a channel has finished its restore. -/
  gen : Nat
  bad : List Nat
  /-- The generation of each tray-level value in force; and transactions and requests whose copies become current. -/
  gens : NMap Nat
  currents : List (Word × Word)
  restored : Bool
  /-- E_h and H (R399), 0xFF none; and heartbeats accepted, modulo 2^16 (Table 17.8). -/
  epoch : Nat
  holder : Nat
  beats : Nat
  /-- The frames that the four channels were in when the holder last released the clasp (R403, R404). -/
  freed : List Nat
  /-- The claims of the open window: channel and epoch (R400). -/
  claims : Option (List (Nat × Nat))
  /-- The last 8 bus samples in mV, newest first (R364). -/
  samples : List Nat
  /-- Samples of the open frame: sum, count, lowest filtered value, and whether every filtered value allows a recovery. -/
  sum : Nat
  count : Nat
  low : Nat
  good : Bool
  /-- Whole frames in a row that allow a recovery (Table 15.3), and the channel whose frames are counted. -/
  goodFrames : Nat
  sampler : Nat
  /-- Changes of the core target, modulo 2^16 (Table 17.8). -/
  changes : Nat
  /-- hp_warm_reset_n is low and a warm reset stays in its enter step (R424). -/
  warmHeld : Bool
  /-- The Alert Response Address has been answered since a response last became ready (R428). -/
  muted : Bool
  /-- The instruction of the test access port (R429). -/
  ir : Byte
  out : List Out
  deriving DecidableEq, Repr

/-- The shared logic while rst_por_n is low. [PRESUMED, assumption 10] -/
def Shared.reset : Shared :=
  { powered := false, store := [], gen := 0, bad := [], gens := [], currents := [], restored := false, epoch := 0, holder := 0xFF, beats := 0, freed := [],
    claims := none, samples := [], sum := 0, count := 0, low := 0, good := true, goodFrames := 0, sampler := 0, changes := 0,
    warmHeld := false, muted := false, ir := 0x01, out := [] }

/-- The object is tray-level (R439). -/
def isTray (key : Nat) : Bool :=
  match defOf false key with
  | some d => d.tray
  | none => false

/-- The value in force of a tray-level object. -/
def Shared.val (sh : Shared) (key : Nat) : Val := mget (dflt false) sh.store key

/-- Its number. -/
def Shared.num (sh : Shared) (key : Nat) : Nat := (sh.val key).toNum

/-- Give a tray-level object a value. -/
def Shared.setVal (sh : Shared) (key : Nat) (v : Val) : Shared := { sh with store := mset (dflt false) sh.store key v }

/-- Give it a number. -/
def Shared.setNum (sh : Shared) (key n : Nat) : Shared := sh.setVal key (.num n)

/-- A counter of the shared logic advances and stops at its largest value. -/
def Shared.bump (sh : Shared) (key : Nat) : Shared := sh.setNum key (min (sh.num key + 1) (typeMax (typeOf false key)))

/-- Something leaves the shared logic. -/
def Shared.emit (sh : Shared) (o : Out) : Shared := { sh with out := sh.out ++ [o] }

/-! ### The bus (R363, R364) -/

/-- Bus states (Table 15.3). -/
abbrev busNormal : Nat := 0
abbrev busDroop : Nat := 1
abbrev busFloor : Nat := 2
abbrev busOver : Nat := 3

/-- The reading of a code in mV (R363). -/
def Shared.reading (sh : Shared) (code : Nat) : Nat := code * sh.num K.dividerRatio / 262144

/-- The mean of the samples held, 0 without one. [DEDUCED, assumption 58] -/
def mean (l : List Nat) : Nat := l.sum / l.length

/-- The bus state after a filtered value, the rows of Table 15.3 in order; a recovery from droop is DROOP_RECOVER. -/
def Shared.busNext (sh : Shared) (f : Nat) : Nat :=
  let old := sh.num K.busState
  if 60000 < f then busOver
  else if f < sh.num K.busFloorMv then busFloor
  else if f < sh.num K.droopThresholdMv then busDroop
  else if old = busFloor ∨ old = busDroop then busDroop
  else busNormal

/-- A sample is taken (R364): the shared logic, and whether the bus enters droop or overrange. [DEDUCED, assumption 58] -/
def Shared.sample (sh : Shared) (code chan : Nat) : Shared × Bool × Bool :=
  let mv := sh.reading code
  let samples := (mv :: sh.samples).take 8
  let f := mean samples
  let old := sh.num K.busState
  let st := sh.busNext f
  let sh1 := { sh with
    samples := samples, sum := sh.sum + mv, count := sh.count + 1, low := if sh.count = 0 then f else min sh.low f,
    good := sh.good && decide (sh.num K.droopThresholdMv + sh.num K.droopHysteresisMv ≤ f),
    goodFrames := if sh.num K.droopThresholdMv + sh.num K.droopHysteresisMv ≤ f then sh.goodFrames else 0, sampler := chan }
  let droop := decide (st = busDroop) && decide (old ≠ busDroop)
  let ovr := decide (st = busOver) && decide (old ≠ busOver)
  let sh2 := if droop then sh1.bump K.droopEvents else sh1
  let sh3 := if ovr then sh2.bump K.overrangeEvents else sh2
  (sh3.setNum K.busState st, droop, ovr)

/-- A frame of the sampling channel opens (R364): the mean and the lowest value of the last frame, and the count of whole
frames without a dip. -/
def Shared.rollFrame (sh : Shared) : Shared :=
  let sh1 := if sh.count = 0 then sh
    else (sh.setNum K.busMv (sh.sum / sh.count)).setNum K.busMinMv sh.low
  { sh1 with sum := 0, count := 0, low := 0, good := true, goodFrames := if sh.good && decide (0 < sh.count) then sh.goodFrames + 1 else 0 }

/-- DROOP_RECOVER (R364). -/
def Shared.recover (sh : Shared) : Shared :=
  if sh.num K.busState = busDroop ∧ sh.num K.droopRecoverFrames ≤ sh.goodFrames then sh.setNum K.busState busNormal else sh

/-! ### The core target (R360) -/

/-- The target that the needs of the channels in C0 ask for. [DEDUCED, assumption 59] -/
def Shared.wanted (sh : Shared) (needs : List Nat) : Nat :=
  let lo := sh.num K.coreMinMv
  match needs with
  | [] => lo
  | _ => min (sh.num K.coreMaxMv) (max lo (needs.foldl max 0))

/-- The target changes, and the change is counted (Table 17.8). -/
def Shared.setTarget (sh : Shared) (t : Nat) : Shared :=
  if t = sh.num K.coreTargetMv then sh
  else { sh.setNum K.coreTargetMv t with changes := (sh.changes + 1) % 65536 }

/-- A rise takes effect at once. [DEDUCED, assumption 59] -/
def Shared.raiseTarget (sh : Shared) (needs : List Nat) : Shared :=
  let t := sh.wanted needs
  if sh.num K.coreTargetMv < t then sh.setTarget t else sh

/-- CORE_TARGET_STEP (R360): a fall by at most 10 mV. -/
def Shared.stepTarget (sh : Shared) (needs : List Nat) : Shared :=
  let t := sh.wanted needs
  if t < sh.num K.coreTargetMv then sh.setTarget (max t (sh.num K.coreTargetMv - 10)) else sh

/-! ### The clasp (R399 to R401) -/

/-- A channel presents a claim (R400): the first claim above E_h opens the window. -/
def Shared.claim (sh : Shared) (c epoch : Nat) : Shared :=
  match sh.claims with
  | some l => { sh with claims := some (l ++ [(c, epoch)]) }
  | none => if sh.epoch < epoch then { sh with claims := some [(c, epoch)] } else sh

/-- CLAIM_WINDOW_CLOSE (R400): the channel that is granted the clasp, those that collided, and every one that steps down. -/
def Shared.closeWindow (sh : Shared) : Option Nat × List Nat × List Nat × Shared :=
  match sh.claims with
  | none => (none, [], [], sh)
  | some l =>
    let top := (l.map (·.2)).foldl max 0
    let best := ((l.filter (fun p => p.2 == top)).map (·.1)).eraseDups
    let sh1 := { sh with claims := none }
    match best with
    | [w] => (some w, [], ((l.map (·.1)).filter (fun c => c != w)).eraseDups,
        { sh1 with epoch := top % 2 ^ 32, holder := w })
    | _ => (none, (l.map (·.1)).eraseDups, (l.map (·.1)).eraseDups, sh1)

/-- A heartbeat of channel `c` with epoch `e` is accepted (R401). -/
def Shared.heartbeatOk (sh : Shared) (c e : Nat) : Bool := sh.holder == c && sh.epoch == e

end Sys2Proof.Machine
end

