-- ==== Sys2Proof/Machine/Supply.lean ====
section
/-! DEFINITION. A channel's part of chapter Supply, Thermal and Low-Power States: the wake pacer (R365 to R369), the core
voltage that it needs (R360) and its die temperature (R362). -/

namespace Sys2Proof.Machine

/-! ### The wake pacer -/

/-- The level and the queue as the dictionary shows them (Table 15.9). -/
def Chan.showPacer (c : Chan) : Chan :=
  c.onB (fun b => (b.setNum K.wakeLevel c.pac.level).setNum K.wakeQueued c.pac.queue.length)

/-- The effective rate in a bus state (R365). -/
def Blk.wakeRateAt (b : Blk) (bus fraction : Nat) : Nat :=
  if bus = busFloor then 0
  else if bus = busDroop then b.num K.wakeRate * fraction / 16
  else b.num K.wakeRate

/-- Grants from the head of the queue as long as they may be made (R367); `fuel` bounds them. -/
def Chan.grant (c : Chan) (bus : Nat) : Nat → Chan
  | 0 => c
  | fuel + 1 =>
    match c.pac.queue with
    | [] => c
    | q :: rest =>
      let cost := c.b.wakeCost q.pos q.region
      if c.b.now < q.notBefore ∨ bus = busFloor ∨ c.pac.level < cost * 1000 then c
      else
        let c1 := c.onPac (fun p => { p with
          level := p.level - cost * 1000, queue := rest,
          grants := if q.rule.isNone then p.grants ++ [(c.b.now, q.pos, q.region)] else p.grants,
          rules := if q.rule.isSome then p.rules ++ [(q, cost)] else p.rules })
        (c1.onB (·.bump K.wakeGrants)).grant bus fuel

/-- A tick of the pacer (R365, R367, R369): what teardowns return, the refill, then the grants. -/
def Chan.pacerTick (c : Chan) (bus fraction : Nat) : Chan :=
  let size := c.b.num K.wakeDepth * 1000
  let rate := c.b.wakeRateAt bus fraction
  let c1 := (c.onPac (fun p => { p with level := min size (p.level + p.back + rate), back := 0 })).onB
    (fun b => b.setNum K.wakeRateEffective rate)
  (c1.grant bus (c1.pac.queue.length)).showPacer

/-- The regions that a leaf's map names, in rising order. -/
def regionsOf (map : List Byte) : List Nat := (List.range 32).filter (fun r => map.any (fun x => decide (x.toNat = r)))

/-- The region map of a leaf as this channel knows it: committed, stored, or the default. -/
def Chan.leafMap (c : Chan) (leaf : Word) : List Byte :=
  match c.leafVal leaf K.regionMap with
  | some v => v.toBytes
  | none => ((c.stored leaf K.regionMap).getD (dflt true K.regionMap)).toBytes

/-- WAKE_REQUEST (R366): entries for the named regions that are off and not queued, by position and region. -/
def Chan.wakeRequest (c : Chan) (v : List Byte) : Chan :=
  let pos := leAt v 1 1
  let region := leAt v 0 1
  let places := (List.range 48).filter (fun p => pos == 0xFF || p == pos)
  let c1 := places.foldl (fun acc p =>
    match acc.leafAt p with
    | none => acc
    | some x =>
      let named := if region = 0xFF then regionsOf (acc.leafMap x.addr) else if region < 32 then [region] else []
      named.foldl (fun a r =>
        if bit (a.regionNow x.addr r) 3 && !a.pac.queue.any (fun q => q.pos == p && q.region == r) then
          a.onPac (fun k => { k with queue := k.queue ++ [{ pos := p, region := r, notBefore := leAt v 8 8, rule := none }] })
        else a) acc) c
  c1.showPacer

/-- What a wake transaction writes on a leaf (R368): off cleared with the level kept, and L0 for a leaf in L2. -/
def Chan.wakeWrites (c : Chan) (leaf : Word) (regions : List Nat) : List Wr :=
  regions.map (fun r => (regionKey r, .num (c.regionNow leaf r % 8))) ++
    (match c.leafVal leaf K.powerState with
      | some v => if v.toNum = 2 then [(K.powerState, .num 0)] else []
      | none => [])

/-- WAKE_TXN_COMMIT (R368): the grants of the frames before are grouped by leaf and committed for the next frame, with the
transactions that were refused before. -/
def Chan.commitWakes (c : Chan) : Chan :=
  let g := c.b.now
  let due := c.pac.grants.filter (fun q => decide (q.1 < g))
  let c0 := c.onPac (fun p => { p with grants := p.grants.filter (fun q => !decide (q.1 < g)),
                                       retry := p.retry.filter (fun q => !decide (q.2.2 < g)) })
  let again := (c.pac.retry.filter (fun q => decide (q.2.2 < g))).map (fun q => (q.1, q.2.1))
  let fresh := ((due.map (fun q => q.2.1)).eraseDups).filterMap (fun p =>
    (c.leafAt p).map (fun x => (x.addr, ((due.filter (fun q => q.2.1 == p)).map (fun q => q.2.2)).eraseDups)))
  (again ++ fresh).foldl (fun acc q => acc.remoteTxn q.1 (.wakeTxn q.2) (acc.wakeWrites q.1 q.2) (g + 1)) c0

/-- A wake transaction is answered: TXN_CONFLICT and BUSY make it wait for the next frame (R368). -/
def Chan.wakeAnswer (c : Chan) (r : Remote) (regions : List Nat) (status : Nat) : Chan :=
  if status = 0 then c.noteCommit r
  else if status = stConflict ∨ status = stBusy then
    c.onPac (fun p => { p with retry := p.retry ++ [(r.dst, regions, c.b.now)] })
  else c

/-- Frame k opens: what another source has committed for it restarts the spacing of region changes and is recorded (R128). -/
def Chan.judgeMoves (c : Chan) (k : Nat) : Chan :=
  let due := c.pac.moves.filter (fun a => decide (a ≤ k))
  let c1 := c.onPac (fun p => { p with moves := p.moves.filter (fun a => !decide (a ≤ k)) })
  due.foldl (fun acc a => (acc.onPac (fun p => { p with changed := some (max a (p.changed.getD 0)) })).onB
    (fun b => b.setNum K.lastRegionChange a)) c1

/-- Frame k opens after f: regions that a transaction has switched off since return their tokens at the next tick (R369). -/
def Chan.judgeReturns (c : Chan) (f k : Nat) : Chan :=
  let homes := c.tree.children.filter (fun x => x.kind == .leaf && !x.away)
  homes.foldl (fun acc x =>
    (List.range 32).foldl (fun a r =>
      let was := match a.leafValAt f x.addr (regionKey r) with | some v => v.toNum | none => 0
      let is := match a.leafValAt k x.addr (regionKey r) with | some v => v.toNum | none => 0
      if bit is 3 && !bit was 3 then
        (a.onPac (fun p => { p with back := p.back + a.b.wakeCost x.pos r * 1000 })).onB (·.bump K.wakeReturns)
      else a) acc) c

/-! ### Core voltage and temperature -/

/-- CHANNEL_NEED_CHANGE (R360): the measured least voltage rounded up to 10 mV with a guard of 20 mV. -/
def Chan.needChange (c : Chan) (mv : Nat) : Chan :=
  c.onB (fun b => b.setNum K.channelNeedMv (min 850 (max 650 ((mv + 9) / 10 * 10 + 20))))

/-- MARGIN_EVENT (R360): the measured core voltage lies more than 15 mV below the channel's need. -/
def Chan.marginEvent (c : Chan) (mv : Nat) : Chan :=
  if mv + 15 < c.b.num K.channelNeedMv then c.onB (fun b => (b.bump K.marginEvents).raiseErr irqSupply) else c

/-- The die temperature of a frame (R362). -/
def Chan.takeTemp (c : Chan) (t : Nat) : Chan :=
  let now := signed 16 t
  let warn := signed 16 (c.b.num K.dieTempWarn)
  let top := signed 16 (c.b.num K.dieTempMax)
  let b1 := (c.b.setNum K.dieTemp (t % 65536)).setNum K.dieTempMax (unsigned 16 (if top < now then now else top))
  if !c.hot && decide (warn ≤ now) then { c with b := b1.raiseEvt irqSupply, hot := true }
  else { c with b := b1, hot := c.hot && decide (warn - 80 < now) }

end Sys2Proof.Machine
end

