-- ==== Sys2Proof/Machine/Member.lean ====
section
/-! DEFINITION. Membership (R386 to R398, R447, R448): joins, the fleet ledger, withdrawal of leaves and of the channel,
and surprise removal. -/

namespace Sys2Proof.Machine

/-! ### Refusals of a join (R386) -/

/-- The identifier that a leaf at a position of this channel has, or will have (R20). -/
def Chan.leafAddr (c : Chan) (pos : Nat) : Word := BitVec.ofNat 32 (leafIdOf c.id pos)

/-- A join is refused: counted, recorded and signalled; the joiner is ignored for 0x0200:24 frames. -/
def Chan.refuseJoin (c : Chan) (a : Word) (pos status : Nat) : Chan :=
  let b1 := ((c.b.bump K.joinRefusals).setNum K.lastJoinRefusal (status * 2 ^ 56 + a.toNat)).raiseErr irqFault
  { c with b := b1, joins := c.joins.filter (fun j => j.dst != a),
           tree := { c.tree with refused := c.tree.refused.filter (fun r => r.1 != a) ++
             [(a, pos, c.b.now + c.b.num K.joinRetryFrames)] } }

/-- JOIN_RETRY_EXPIRE (R386): the attaches of a refused joiner are checked again. -/
def Chan.joinRetry (c : Chan) (pos : Nat) : Chan :=
  c.onTree (fun t => { t with refused := t.refused.filter (fun r => r.2.1 != pos) })

/-- A refused joiner is ignored now. -/
def Chan.ignores (c : Chan) (a : Word) : Bool := c.tree.refused.any (fun r => r.1 == a && decide (c.b.now < r.2.2))

/-! ### The start of a join (R386, R390) -/

/-- The objects read by the checks, in their order: version, build kind and frame period; of a channel also its pod number
and the check of its aggregate table. -/
def joinReads (chan : Bool) : List Nat :=
  [K.version, K.buildKind, K.framePeriodActive] ++ (if chan then [K.podNumber, K.aggTableCheck] else [])

/-- Start a join: the position and the attach's frame are judged at once, and the reads go out. A join whose answers have
not come for 64 frames is started anew. [DEDUCED, assumption 63] -/
def Chan.startJoin (c : Chan) (a : Word) (pos frame standby : Nat) (listed : Bool) : Chan :=
  if c.ignores a ∨ c.joins.any (fun j => j.dst == a && decide (c.b.now ≤ j.frame + 64)) = true then c
  else
    let c0 := { c with joins := c.joins.filter (fun j => j.dst != a) }
    if pos ≠ 31 ∧ 23 < pos then c0.refuseJoin a pos stRange
    else if !listed then c0.refuseJoin a pos stWrong
    else if frame + 1 < c.b.now ∨ c.b.now + 1 < frame then c0.refuseJoin a pos stWrong
    else
      let j : Join := { dst := a, pos := pos, frame := c.b.now, txns := [], apply := 0, done := false, standby := standby }
      ({ c0 with joins := c0.joins ++ [j] }).remote a (.joinCheck a pos)
        [rPlain opRead ((joinReads (pos == 31)).map (fun k => keyItem k 0 []))]

/-- The channel identifiers of 0x1000:0A. -/
def Blk.podList (b : Blk) : List Nat := (pieces 2 (b.bytes K.podMembers)).map leNat

/-- A leaf of this channel attaches at a home position (R386, R388, R202): a member that names no parent left after it has
been heard has taken a reset and joins again. [DEDUCED, assumption 42] -/
def Chan.attachHome (c : Chan) (pos frame : Nat) (left : Word) : Chan :=
  let a := c.leafAddr pos
  let standby := match c.leafVal a K.parentStandby with
    | some v => v.toNum
    | none => ((c.stored a K.parentStandby).getD (.num noChan)).toNum
  match c.tree.child a with
  | some x =>
    if x.member && !(left == 0xFFFFFFFF && !x.got.isEmpty) then c.attachKnown x frame left
    else c.startJoin a pos frame (if x.member then standby else noChan) true
  | none => c.startJoin a pos frame noChan true

/-- The level at which this root takes the records of channels (R186); a channel to which they rehome as the standby of their pod root
takes them as a pod root does. -/
def Chan.rootLevel (c : Chan) : Nat := max 1 (c.b.num K.treeRole) + 1

/-- A fleet root has 64 pod roots, `src` apart, on the uplink port (R22). [DEDUCED, assumption 90] -/
def Chan.rootFull (c : Chan) (src : Word) (port : Bool) : Bool :=
  c.b.num K.treeRole == 2 && decide (64 ≤ (c.tree.children.filter (fun x =>
    x.kind == .chan && x.member && x.addr != src && c.tree.ports.contains (x.addr, port))).length)

/-- A channel attaches (R202, R390, R448): a member resumes, one that left another parent is adopted, also by the standby of its pod root,
which holds the pod's member list (R200), and one that left none joins, unless a fleet root has all that its port takes. [DEDUCED, assumption 90] -/
def Chan.attachChan (c0 : Chan) (src : Word) (port : Bool) (frame : Nat) (left : Word) : Chan :=
  let c := c0.onTree (fun t => { t with ports := t.ports.filter (fun p => p.1 != src) ++ [(src, port)] })
  let role := c.b.num K.treeRole
  let join := fun (listed : Bool) =>
    if role = 0 then c
    else if c.rootFull src port then (if c.ignores src then c else c.refuseJoin src 31 stRange)
    else c.startJoin src 31 frame noChan listed
  let listed := role == 2 || c.b.podList.contains (src.toNat % 2 ^ 16)
  match c.tree.child src with
  | some x => if x.kind = .chan ∧ x.member = true then c.attachKnown x frame left
    else join listed
  | none =>
    if left = 0xFFFFFFFF then join listed
    else if !listed || c.rootFull src port then c
    else
      let x := { Child.fresh src .chan 31 c.rootLevel with adopted := true, member := true, pod := c.b.num K.podNumber }
      c.attachKnown x frame left

/-- ATTACH_RECEIVE (R202, R203, R386, R390, R391): only a member admits, and a restarted root not before its successor has
answered (R392). The parent left is a channel identifier, 0xFFFF none. -/
def Chan.attach (c : Chan) (src : Word) (port : Bool) (pos frame left : Nat) : Chan :=
  let from_ : Word := if left = noChan then 0xFFFFFFFF else chanAddr left
  if !c.member || c.roleAsk.isSome then c
  else if pos ≠ 31 then c.attachHome pos frame from_
  else if bits src.toNat 28 4 = 0 then
    (if src.toNat % 2 ^ 18 / 32 = c.id % 8192 then c else c.adoptLeaf src frame from_)
  else if bits src.toNat 28 4 = 1 then c.attachChan src port frame from_
  else c

/-! ### What a join writes (R387, R390, Table 16.5) -/

/-- A value that one source gives an object, with the frame that counts (R387). -/
abbrev Given := Nat × Wr

/-- Of the values of each object the one applied latest. -/
def latestOf (gs : List Given) : List Wr :=
  let keys := (gs.map (fun g => g.2.1)).eraseDups
  keys.filterMap (fun k => (gs.filter (fun g => g.2.1 == k)).foldl (fun (best : Option Given) g => match best with
    | none => some g
    | some h => if h.1 ≤ g.1 then some g else some h) none |>.map (·.2))

/-- The object of a build can be written by a transaction. -/
def writable (leaf : Bool) (key : Nat) : Bool :=
  match defOf leaf key with
  | some d => d.access == .rw || d.access == .rwt
  | none => false

/-- Stored objects, RWT values and ledger entries of a leaf with the frames at which they count: a stored copy is the
oldest, an RWT value counts at its commit, a ledger entry at its apply frame. The home parent is assigned, and a power state
of L3 is not restored: the leaf has left it by power-on. [DEDUCED, assumption 63] -/
def Chan.leafGivens (c : Chan) (a : Word) : List Given :=
  let ok := fun (k : Nat) => writable true k && k != K.parentActive && k != K.fenceAuthority
  (((c.storedOf a).filter (fun w => ok w.1)).map (fun w => ((0, w) : Given))) ++
    (c.known.reverse.filter (fun k => k.own && k.leaf == a && ok k.key && !(k.key == K.powerState && k.v == .num 3))).map (fun k => (k.at_, (k.key, k.v))) ++
    ((c.b.ledger.filter (fun e => bit (ledTarget e) 0 && ok (ledKey e))).map (fun e =>
      (ledApply e, (ledKey e, dataVal (ledType e) (ledData e)))))

/-- Everything that the join of a leaf writes, repair mappings first (Table 16.5). -/
def Chan.leafJoinWrites (c : Chan) (a : Word) (pos : Nat) : List Wr :=
  let id := leafIdOf c.id pos
  let rows := c.leafPlaces id
  let cores := if c.b.num K.fencePermanent = 1 then c.permanentCores id else []
  let given := (latestOf (c.leafGivens a)).filter (fun w => !cores.any (fun k => coreKey k == w.1))
  (if rows.isEmpty then [] else [(K.repairAdd, .bytes (rows.flatMap (natLe 4)))]) ++ given ++
    cores.map (fun k => (coreKey k, .num 7)) ++
    [(K.fenceAuthority, .num (c.b.num K.fenceAuthority)), (K.seriesSwap, .num 1), (K.tensorSwap, .num 1),
     (K.joinAssign, .num id)]

/-- The ledger entries of a joining channel (R390). -/
def Chan.chanJoinWrites (c : Chan) : List Wr :=
  latestOf ((c.b.ledger.filter (fun e => bit (ledTarget e) 1 && writable false (ledKey e))).map (fun e =>
    (ledApply e, (ledKey e, dataVal (ledType e) (ledData e)))))

/-- The data bytes of a write. -/
def wrBytes (leaf : Bool) (w : Wr) : Nat := (valData (typeOf leaf w.1) w.2).length

/-- Writes cut into pieces of at most `n` items and `m` data bytes each, in order. -/
def cutWrites (leaf : Bool) (n m : Nat) (ws : List Wr) : List (List Wr) :=
  let put := fun (acc : List (List Wr)) (w : Wr) => match acc with
    | [] => [[w]]
    | g :: rest =>
      if g.length < n ∧ (g.map (wrBytes leaf)).sum + wrBytes leaf w ≤ m then (g ++ [w]) :: rest else [w] :: g :: rest
  (ws.foldl put []).reverse

/-- An item of a write of an object of either build. -/
def buildItem (leaf : Bool) (w : Wr) : Item := keyItem w.1 (typeOf leaf w.1) (valData (typeOf leaf w.1) w.2)

/-- Send one join transaction for frame `a` (R387): staged in messages that fit (R76). -/
def Chan.sendJoinTxn (c : Chan) (dst : Word) (leaf : Bool) (ws : List Wr) (a : Nat) : Chan :=
  c.sendOp { dst := dst, ops := txnOps ((cutWrites leaf 200 4096 ws).map (fun g => g.map (buildItem leaf))) a, seq := 0,
             txn := 0, got := [], purpose := .joinCommit dst, writes := ws, apply := a }

/-- A_j (R387): the first frame from J + 4 on after the commits that is the apply frame of no PREPARE or token held. -/
def Chan.joinFrame (c : Chan) (j : Nat) : Nat :=
  let start := max (j + 4) (c.b.now + 2)
  let taken := c.b.fleet.map (fun r => r.body.apply)
  (((List.range (taken.length + 1)).map (start + ·)).find? (fun a => !taken.contains a)).getD start

/-- Change a join under way. -/
def Chan.onJoin (c : Chan) (a : Word) (f : Join → Join) : Chan :=
  { c with joins := c.joins.map (fun j => if j.dst == a then f j else j) }

/-- The next transaction of a join goes out, or the join is complete and the joiner hears of the fleet transactions that are
held (R394); A_j is chosen with the first. -/
def Chan.joinNext (c : Chan) (a : Word) : Chan :=
  match c.joins.find? (fun j => j.dst == a) with
  | none => c
  | some j =>
    let apply := if j.apply = 0 then c.joinFrame j.frame else j.apply
    match j.txns with
    | [] => (c.onJoin a (fun x => { x with apply := apply, done := true })).sendHeld a
    | ws :: rest => (c.onJoin a (fun x => { x with apply := apply, txns := rest })).sendJoinTxn a (j.pos != 31) ws apply

/-- A join has failed: a later attach starts it anew. -/
def Chan.dropJoin (c : Chan) (a : Word) : Chan := { c with joins := c.joins.filter (fun j => j.dst != a) }

/-- The number that a READ item answered. -/
def readNum (r : Resp) (k : Nat) : Nat := ((r.items[k]?).map (fun i => leNat i.data)).getD 0

/-- The reads of a join are answered (R386, R390): refused at the first check that fails, else the standby tables are
written (leaf) or the ledger is staged (channel). -/
def Chan.joinChecked (c : Chan) (a : Word) (pos : Nat) (r : Resp) : Chan :=
  if !c.joins.any (fun j => j.dst == a) then c
  else
    let same := fun (k key : Nat) => readNum r k == (dflt false key).toNum
    let period := readNum r 2 == c.b.num K.framePeriodActive
    if pos ≠ 31 then
      if r.status = 0 ∧ same 0 K.version = true ∧ readNum r 1 = 1 ∧ period = true then
        let t := ((c.stored a K.seriesTableActive).getD (.bytes [])).toBytes
        let n := ((c.stored a K.tensorTableActive).getD (.bytes [])).toBytes
        let ws := c.leafJoinWrites a pos
        (c.onJoin a (fun j => { j with txns := cutWrites true 256 16384 ws })).remote a (.joinStage a)
          (segWrites K.seriesTableStandby t (t.length + 1) 0 ++ segWrites K.tensorTableStandby n (n.length + 1) 0)
      else c.refuseJoin a pos stWrong
    else
      let role := c.b.num K.treeRole
      let pod := readNum r 3
      let podOk := if role = 1 then decide (pod = c.b.num K.podNumber)
        else !c.tree.children.any (fun x => x.kind == .chan && x.member && decide (x.pod = pod) && x.addr != a)
      if r.status = 0 ∧ podOk = true ∧ same 0 K.version = true ∧ readNum r 1 = 2 ∧ period = true ∧
          readNum r 4 = c.b.num K.aggTableCheck then
        ((c.onJoin a (fun j => { j with txns := cutWrites false 256 16384 c.chanJoinWrites })).onTree (fun t =>
          t.putChild { (t.child a).getD (Child.fresh a .chan 31 c.rootLevel) with pod := pod })).joinNext a
      else c.refuseJoin a pos stWrong

/-- A commit of a join is answered: its values are kept (R94), and the next one follows. -/
def Chan.joinCommitted (c : Chan) (a : Word) (r : Remote) (status : Nat) : Chan :=
  if status ≠ 0 then c.dropJoin a
  else ((if bits a.toNat 28 4 = 0 then c.noteCommit r else c)).joinNext a

/-- A_j opens: the joiner is a member, and its first control fragment grants credits (R387, R388, R390). -/
def Chan.admitJoins (c : Chan) (k : Nat) : Chan :=
  (c.joins.filter (fun j => j.done && decide (j.apply ≤ k))).foldl (fun acc j =>
    let old := acc.tree.child j.dst
    let x0 := old.getD (Child.fresh j.dst (if j.pos = 31 then .chan else .leaf) j.pos (if j.pos = 31 then acc.rootLevel else 1))
    let x := { x0 with member := true, adopted := false, away := false, attached := false, epoch := none, table := [],
                       waits := [], parts := [], leaving := none, leaveStep := 0, missed := 0, absentMade := false, quiet := 0,
                       heard := true }
    let acc1 := (acc.dropJoin j.dst).onTree (fun t => t.putChild x)
    if j.standby = noChan then acc1.takeOver j.dst [] none
    else acc1.askRelease j.dst (chanAddr j.standby) true) c

/-! ### The fleet ledger (R393) -/

/-- A ledger entry as bytes (Table 16.6). -/
def ledgerEntry (apply seq key type target : Nat) (d : List Byte) : List Byte :=
  fitTo 40 d ++ natLe 4 0 ++ natLe 2 d.length ++ [0] ++ natLe 1 target ++ natLe 1 type ++ natLe 1 (key % 256) ++
    natLe 2 (key / 256) ++ natLe 4 seq ++ natLe 8 apply

/-- The ledger takes its entries. -/
def Blk.setLedger (b : Blk) (es : List (List Byte)) : Blk :=
  (b.setBytes K.fleetLedger es.flatten).setNum K.ledgerEntries es.length

/-- One item of a fleet transaction is recorded for the kinds in `target`. -/
def Blk.recordItem (b : Blk) (r : FleetRec) (i : Item) (target : Nat) : Blk :=
  if i.target.toNat % 4 = 0 ∨ 40 < i.data.length then b.bump K.ledgerUnrecorded
  else if target = 0 then b
  else
    let e := ledgerEntry r.body.apply r.seq.toNat (itemKey i) i.type.toNat target i.data
    let rest := b.ledger.filter (fun x => !(ledTarget x == target && ledKey x == itemKey i))
    let es := if rest.length < 1024 then rest else rest.drop 1
    let b1 := if rest.length < 1024 then b else b.bump K.ledgerUnrecorded
    b1.setLedger (sortBy ledSeq (es ++ [e]))

/-- The object is a region_control (Table 18.6). -/
def isRegion (key : Nat) : Bool := decide (regionKey 0 ≤ key) && decide (key < regionKey 32)

/-- The ledger at the opening of frame k, `p` the frame before, and the region changes that fleet transactions make then (R128): items of fleet transactions that apply here, or whose
COMMIT_TOKEN went to the leaves; and the entries of compensated sequences are removed. -/
def Chan.recordLedger (c : Chan) (p k : Nat) (comp : List Word) : Chan :=
  let due := c.b.fleet.filter (fun r => decide (p < r.body.apply) && decide (r.body.apply ≤ k) && r.token == some true)
  let moved := due.filter (fun r => decide (c.b.num K.podNumber ≤ 127) && r.body.mask.testBit (c.b.num K.podNumber) &&
    r.items.any (fun i => bit i.target.toNat 0 && isRegion (itemKey i)))
  let c0 : Chan := { c with pac := { c.pac with moves := c.pac.moves ++ moved.map (fun r => r.body.apply) } }
  c0.onB (fun b =>
    let b1 := due.foldl (fun acc r =>
      let own := if r.applied then 2 else 0
      let leaves := if b.num K.podNumber ≤ 127 ∧ r.body.mask.testBit (b.num K.podNumber) = true then 1 else 0
      if own + leaves = 0 then acc
      else r.items.foldl (fun a i => a.recordItem r i ((own + leaves) &&& i.target.toNat)) acc) b
    if comp.isEmpty then b1
    else b1.setLedger (b1.ledger.filter (fun e => !comp.contains (BitVec.ofNat 32 (ledSeq e)))))

/-! ### Withdrawal of leaves (R395, Table 16.7) -/

/-- WITHDRAW_LEAVES: at W the named leaves begin to leave; a named position without a leaf is done at once. -/
def Chan.withdrawLeaves (c : Chan) (v : Nat) : Chan :=
  let w := c.b.now
  (onesOf 48 v).foldl (fun acc p =>
    match acc.leafAt p with
    | none => acc.onB (fun b => b.setNum K.withdrawn (setBit (b.num K.withdrawn) p))
    | some x => acc.onChild x.addr (fun y => { y with leaving := some w, leaveStep := 0 })) (c.onB (fun b => b.setNum K.withdrawLeaves v))

/-- Leaving leaves at a step of Table 16.7 whose frame has come. -/
def Chan.leavers (c : Chan) (step offset : Nat) : List Child :=
  c.tree.children.filter (fun x => x.kind == .leaf && x.leaveStep == step &&
    (match x.leaving with | some w => decide (w + offset ≤ c.b.now) | none => false))

/-- WITHDRAW_REGIONS_OFF: every mapped region that is not off is switched off in the next frame. -/
def Chan.leaveRegions (c : Chan) : Chan :=
  (c.leavers 0 1).foldl (fun acc x =>
    let on := (regionsOf (acc.leafMap x.addr)).filter (fun r => !bit (acc.regionNow x.addr r) 3)
    let acc1 := acc.onChild x.addr (fun y => { y with leaveStep := 1 })
    if on.isEmpty then acc1
    else acc1.remoteTxn x.addr .plain (on.map (fun r => (regionKey r, .num (setBit (acc.regionNow x.addr r) 3)))) (c.b.now + 1)) c

/-- WITHDRAW_ENTER_L2. -/
def Chan.leaveSleep (c : Chan) : Chan :=
  (c.leavers 1 2).foldl (fun acc x =>
    (acc.onChild x.addr (fun y => { y with leaveStep := 2 })).remoteTxn x.addr .plain [(K.powerState, .num 2)] (c.b.now + 1)) c

/-- LEAF_WITHDRAW_DONE: once the acknowledgement covers W + 2 the leaf is no member, and L3 is committed. -/
def Chan.leaveDone (c : Chan) (pos : Nat) : Chan :=
  match (c.leavers 2 3).find? (fun x => x.pos == pos) with
  | none => c
  | some x =>
    let w := x.leaving.getD 0
    if (match c.ackOf x with | some g => decide (w + 2 ≤ g) | none => false) then
      let c1 := c.onB (fun b => b.setNum K.withdrawn (setBit (b.num K.withdrawn) pos))
      (c1.onTree (fun t => { t with children := t.children.filter (fun y => y.addr != x.addr) })).remoteTxn x.addr .plain
        [(K.powerState, .num 3)] (c.b.now + 1)
    else c

/-! ### Withdrawal of a channel and removal (R396 to R398) -/

/-- The channel serves a leaf (R373, R397). -/
def Chan.serves (c : Chan) : Bool := c.tree.children.any (fun x => x.kind == .leaf && !x.away && (x.member || x.attached))

/-- The hand-over of R396, in the frame of staging: every leaf served is moved to its other parent two frames on. -/
def Chan.handOver (c : Chan) : Chan :=
  (c.tree.children.filter (fun x => x.kind == .leaf && !x.away && (x.member || x.attached))).foldl (fun acc x =>
    acc.remoteTxn x.addr .plain [(K.moveParent, .num 1)] (c.b.now + 2)) c

/-- WITHDRAW_CHANNEL (R397): the channel's last live packet is that of the frame before. -/
def Chan.withdraw (c : Chan) (n : Nat) : Chan :=
  let b1 := c.b.setNum K.withdrawChannel n
  if n = 1 ∧ c.member = true then { c with b := b1.setNum K.bringupState 9, leaveAt := some c.b.now } else { c with b := b1 }

/-- CHANNEL_WITHDRAW_DONE (R397): the last packet is acknowledged, the parent is told, and the channel reads withdrawn. -/
def Chan.withdrawDone (c : Chan) : Chan :=
  match c.leaveAt with
  | none => c
  | some w =>
    if c.b.num K.bringupState ≠ 9 ∨ c.b.journal.any (fun e => e.dst.isNone && decide (e.frame < w)) = true ∨
        c.b.now ≤ w then c
    else
      let c1 := if c.b.inUse = noChan then c
        else c.remote (chanAddr c.b.inUse) .plain [rPlain opWrite [keyItem K.memberLeave 3 (natLe 2 c.id)]]
      c1.onB (fun b => (b.setNum K.withdrawn (setBit (b.num K.withdrawn) 48)).setNum K.bringupState 0x0A)

/-- MEMBER_LEAVE (R397): a member child that leaves is counted no more from the next frame on. -/
def Chan.memberLeave (c : Chan) (src : Word) (id : Nat) : Chan :=
  match c.tree.child src with
  | none => c
  | some x =>
    if x.kind = .chan ∧ x.member = true ∧ id = src.toNat % 2 ^ 16 then
      c.onChild src (fun y => { y with leaving := some (c.b.now + 1) })
    else c

/-- CHANNEL_REMOVAL (R398): a member channel that has been silent long enough is removed. -/
def Chan.removeChild (c : Chan) (id : Nat) : Chan :=
  match c.tree.child (chanAddr id) with
  | none => c
  | some x =>
    if x.kind = .chan ∧ x.member = true ∧ c.b.num K.removalFrames ≤ x.quiet then
      (c.onTree (fun t => { t with children := t.children.filter (fun y => y.addr != x.addr) })).onB
        (fun b => (b.bump K.removals).raiseErr irqFault)
    else c

/-- The close of a frame at the children (R398): frames without a fragment are counted for channels that serve here. -/
def Chan.closeChildren (c : Chan) : Chan :=
  c.onTree (fun t => { t with children := t.children.map (fun x =>
    { x with quiet := if x.heard || x.away then 0 else x.quiet + 1, heard := false }) })

/-- The opening of a frame at the children: a channel that has left is a child no more (R397). -/
def Chan.dropLeft (c : Chan) (k : Nat) : Chan :=
  c.onTree (fun t => { t with children := t.children.filter (fun x =>
    !(x.kind == .chan && (match x.leaving with | some w => decide (w ≤ k) | none => false))) })

/-! ### The channel as a child (R390, R392, R447, R448) -/

/-- A channel that is not a member attaches leaving no parent (R390, R448). -/
def Blk.leaveNone (b : Blk) : Blk :=
  if b.num K.bringupState = 7 then { b with link := { b.link with leaving := 0xFFFFFFFF } } else b

/-- PARENT_LOST at a channel: one that is not a member names no parent left. -/
def Chan.parentLost (c : Chan) : Chan :=
  if c.b.num K.bringupState ≠ 7 then c.onB (·.parentLost)
  else
    let b1 := c.b.parentLost
    if b1.inUse = c.b.inUse then { c with b := b1 }
    else
      let b2 : Blk := { b1 with out := c.b.out }
      { c with b := b2.leaveNone.callParents }

/-- The channel is a member from the first control fragment that admits it (R390, R391, R448). -/
def Chan.judgeMember (c : Chan) : Chan :=
  if c.b.num K.bringupState = 7 ∧ c.b.link.attached = true then c.onB (fun b => b.setNum K.bringupState 8) else c

/-- CONTROL_FRAGMENT_RECEIVE at a channel: what its parent has acknowledged is acknowledged below (R199). -/
def Chan.parentControl (c : Chan) (src : Word) (h : FragHdr) (es : List RelEntry) : Chan :=
  ((c.onB (fun b => b.control src h es)).settle).judgeMember

/-- A channel that holds a stored root role asks its successor before it admits anyone (R392). -/
def Chan.askSuccessor (c : Chan) : Chan :=
  let s := c.b.num K.roleSuccessor
  if c.b.num K.treeRole = 0 ∨ s = noChan then c
  else ({ c with roleAsk := some c.b.now }).remote (chanAddr s) .successor [rPlain opRead [keyItem K.treeRole 0 []]]

/-- ROLE_SUCCESSOR_TIMEOUT (R392): the channel keeps its role. -/
def Chan.successorSilent (c : Chan) : Chan :=
  match c.roleAsk with
  | some f => if f + 16 ≤ c.b.now then { c with roleAsk := none } else c
  | none => c

end Sys2Proof.Machine
end

