-- ==== Sys2Proof/Machine/ChanEnv.lean ====
section
/-! DEFINITION. A channel as a Bivan endpoint: how its dictionary is read, what a write is checked against, and what an
accepted write does, object by object. Tray-level objects are read and written in the shared logic (R439). -/

namespace Sys2Proof.Machine

/-- A channel with the shared logic of its tray. -/
structure CS where
  ch : Chan
  sh : Shared
  deriving DecidableEq, Repr

/-- Change the channel. -/
def CS.on (s : CS) (f : Chan → Chan) : CS := { s with ch := f s.ch }

/-! ### Reads -/

/-- Objects of a channel that a read computes from other state. [DEDUCED, assumption 27] -/
def Chan.computed (c : Chan) (key : Nat) : Option Val :=
  if key = K.serStateRead then some (.bytes c.seriesRead)
  else if key = K.rowRead then some (.bytes c.rowRead)
  else if key = K.scoreRead then some (.bytes c.scoreRead)
  else if key = K.entryRead then some (.bytes c.entryRead)
  else if key = K.rulStateRead then some (.bytes c.ruleStateRead)
  else if key = K.stepMap then some (.bytes c.rul.stepMap)
  else if key = K.queueRead then some (.bytes c.queueRead)
  else if key = K.subscriberRead then some (.bytes c.subRead)
  else if key = K.locationRead then some (.bytes c.locationRead)
  else if key = K.historyLog then some (.bytes c.hist.log.flatten)
  else if key = K.firmwareLog then some (.bytes c.hist.fw.flatten)
  else if key = K.jobResult then some (.bytes (c.car.results.headD []))
  else if key = K.jobsQueued then some (.num c.car.jobs.length)
  else if key = K.stagingBytes then some (.num c.car.staged)
  else if key = K.poolFreeBytes then some (.num (poolBytes - c.egr.held))
  else if key = K.openInstances then some (.num c.lag.insts.length)
  else if key = K.channelIndex then some (.num c.b.place)
  else if key = K.fleetInFlight then some (.num (c.root.filter (fun t => !t.counted)).length)
  else none

/-- The value in force of an object. -/
def CS.val (s : CS) (key : Nat) : Val :=
  if isTray key then s.sh.val key
  else if key = K.claspEpoch then .num s.sh.epoch
  else if key = K.claspHolder then .num s.sh.holder
  else (s.ch.computed key).getD ((s.ch.b.view key).getD (s.ch.b.val key))

/-- A read by a request: tsq_pop and job_result give up an entry (R61, R333). -/
def CS.rd (s : CS) (key : Nat) : Val × CS :=
  if key = K.tsqPop then
    let r := s.ch.b.tsqPop
    (.bytes r.1, s.on (fun c => { c with b := r.2 }))
  else if key = K.jobResult then
    let r := s.ch.popResult
    (.bytes r.1, { s with ch := r.2 })
  else (s.val key, s)

/-! ### Checks -/

/-- A transaction that writes one of these is committed, or its copies are being stored. -/
def Blk.swapTaken (b : Blk) (p : Wr → Bool) : Bool :=
  b.txns.any (fun t => (t.state == .committed || decide (0 < t.storing)) && t.items.any p)

/-- Whether a standby table or image may be loaded now (R91, R184, R213, R247, R272): not while a transaction that swaps it in is committed;
an image not even while one writes FALSE to its swap object (R247). -/
def Chan.loadStatus (c : Chan) (key : Nat) : Nat :=
  let swap := if key = K.aggTableStandby then K.aggSwap
    else if key = K.serSeriesTableStandby then K.serSeriesSwap
    else if key = K.standbyImage then K.imageSwap
    else if key = K.rulStandbyImage then K.rulImageSwap
    else 0
  let image := swap == K.imageSwap || swap == K.rulImageSwap
  if swap ≠ 0 ∧ c.b.swapTaken (fun w => w.1 == swap && (image || w.2 == .num 1)) = true then stWrong else stOk

/-- The aggregate table that the values judged would leave active. -/
def aggLeft (view : Nat → Val) : List Byte :=
  if (view K.aggSwap).toNum = 1 then (view K.aggTableStandby).toBytes else (view K.aggTableActive).toBytes

/-- The check of a written power_state (R371, R373, Table 15.6). [DEDUCED, assumption 60] -/
def Chan.powerStatus (c : Chan) (view : Nat → Val) (n : Nat) : Nat :=
  let now := c.b.num K.powerStateNow
  if n = 0 then (if now = 0 then stOk else stWrong)
  else if (view K.treeRole).toNum ≠ 0 then stWrong
  else if n = 2 then (if now = 0 ∧ (c.b.applying && c.serves) = false then stOk else stWrong)
  else if n = 3 then (if now = 2 ∨ (now = 0 ∧ (c.b.applying && c.serves) = false) then stOk else stWrong)
  else stRange

/-- The check of withdraw_channel but for its frame (R397). -/
def Chan.withdrawStatus (c : Chan) (view : Nat → Val) (n : Nat) : Nat :=
  if n = 1 ∧ ((view K.treeRole).toNum ≠ 0 ∨ c.serves = true) then stWrong else stOk

/-- A pod root would have more than 64 channels, its own counted among them (R22). -/
def Chan.fanOver (c : Chan) (view : Nat → Val) : Bool :=
  let ids := (pieces 2 (view K.podMembers).toBytes).map leNat
  decide ((view K.treeRole).toNum = 1) && decide (64 ≤ (ids.filter (fun i => i != noChan && i != c.id)).eraseDups.length)

/-- The last check of step 6 of R442 for objects of a channel (R93). -/
def Chan.status (c : Chan) (view : Nat → Val) (key : Nat) (v : Val) : Nat :=
  let n := v.toNum
  if key = K.aggSwap then (if n = 1 ∧ aggTableOk (view K.aggTableStandby).toBytes = false then stRange else stOk)
  else if key = K.serSeriesSwap then
    (if n = 1 ∧ chTableOk (aggLeft view) (c.b.num K.framePeriodActive) (view K.serSeriesTableStandby).toBytes = false
      then stRange else stOk)
  else if key = K.imageSwap then (if n = 1 ∧ c.b.balSwapOk = false then stWrong else stOk)
  else if key = K.rulImageSwap then (if n = 1 ∧ c.b.rulSwapOk = false then stWrong else stOk)
  else if key = K.aggTableStandby ∨ key = K.serSeriesTableStandby ∨ key = K.standbyImage ∨ key = K.rulStandbyImage then
    c.loadStatus key
  else if K.podPartition ≤ key ∧ key < K.podPartition + 128 then stWrong
  else if key = K.treeRole ∨ key = K.podMembers then (if c.fanOver view then stRange else stOk)
  else if key = K.powerState then c.powerStatus view n
  else if key = K.channelWake then (if c.b.phase = .retained ∨ c.b.phase = .off then stOk else stWrong)
  else if key = K.withdrawChannel then c.withdrawStatus view n
  else if key = K.firmwareLogWrite then (if 64 ≤ c.b.firmwareWaits then stBusy else stOk)
  else if key = K.startupFailures then (if c.b.lastOpen.isSome then stWrong else stOk)
  else if key = K.busFloorMv then (if (view K.droopThresholdMv).toNum < n then stRange else stOk)
  else if key = K.droopThresholdMv then (if n < (view K.busFloorMv).toNum then stRange else stOk)
  else if key = K.coreMinMv then (if (view K.coreMaxMv).toNum < n then stRange else stOk)
  else if key = K.coreMaxMv then (if n < (view K.coreMinMv).toNum then stRange else stOk)
  else if key = K.lossSlotBase then
    (if n ≠ 0xFFFFFFFF ∧ 524288 < n + 3 * (view K.lossWindow).toNum then stRange else stOk)
  else if key = K.lossSubmit then c.lossStatus v.toBytes
  else if key = K.jobSubmit then c.jobStatus v.toBytes
  else if key = K.traceFetch then c.fetchStatus view n
  else if K.start ≤ key ∧ key < K.start + 0x800 ∧ key % 256 = 1 then c.startStatus ((key - K.start) / 256) n
  else if K.subscriberEntry ≤ key ∧ key < K.policerEntry + 0x20000 then egressStatus view key v
  else c.b.commonStatus view key v

/-- Why a commit is refused beside R90 (R250, R272, R397). -/
def Chan.commitCheck (c : Chan) (src num : Word) (ws : List Wr) (a : Nat) : Nat :=
  let others : Blk := { c.b with txns := c.b.txns.filter (fun t => !(t.src == src && t.num == num)) }
  let swap := fun (key : Nat) (ready : Bool) =>
    if !ws.contains (key, .num 1) then stOk
    else if !ready then stWrong
    else if others.swapTaken (fun w => w == (key, .num 1)) then stConflict
    else stOk
  let s1 := swap K.imageSwap c.b.balSwapOk
  let s2 := swap K.rulImageSwap c.b.rulSwapOk
  if s1 ≠ stOk then s1
  else if s2 ≠ stOk then s2
  else if ws.contains (K.withdrawChannel, .num 1) ∧ a ≤ c.b.now + 16 then stWrong
  else stOk

/-! ### Acts -/

/-- AGG_TABLE_SWAP (R184): the standby table is active, its check value follows, and frames from now on are reduced under
it. -/
def Chan.swapAgg (c : Chan) : Chan :=
  let t := c.b.bytes K.aggTableStandby
  { c with b := (((c.b.setBytes K.aggTableActive t).setNum K.aggSlots (t.length / 8)).setNum K.aggTableCheck (crc32c t)).setNum
             K.aggSwap 0,
           tree := { c.tree with tables := (c.b.now, t) :: c.tree.tables } }

/-- A segment of an image is accepted; the first discards the standby contents (R247). -/
def Chan.loading (c : Chan) (key : Nat) (first : Bool) : Chan :=
  if !first then c
  else if key = K.standbyImage then
    c.onB (fun b => ((((b.setBytes key []).setNum K.standbyState 1).setNum K.standbyRefusal 0).setNum K.standbyRefusalIndex 0).setNum
      K.standbyImageId 0)
  else if key = K.rulStandbyImage then
    c.onB (fun b => (((b.setBytes key []).setNum K.rulStandbyState 1).setNum K.rulStandbyRefusal 0).setNum
      K.rulStandbyRefusalIndex 0)
  else c

/-- Triggers go to the leaves at the named positions (R311). -/
def Chan.sendTriggers (c : Chan) (v : Nat) : Chan :=
  (onesOf 48 v).foldl (fun acc p => match acc.leafAt p with
    | none => acc
    | some x => acc.remote x.addr .trigger [rPlain opWrite [leafItem K.traceCommand (.num 2)]]) c

/-- A write of trace_trigger_leaves: at its boundary, or in the frame after a WRITE's response (R311). -/
def Chan.triggerWritten (c : Chan) (v : Nat) : Chan :=
  let c1 := c.onB (fun b => b.setNum K.traceTriggerLeaves v)
  if c.b.applying then c1.sendTriggers v else { c1 with triggers := c1.triggers ++ [v] }

/-- C2 begins (R371, R373, Table 15.7): frames stop; open transactions are discarded. -/
def Chan.enterC2 (c : Chan) : Chan :=
  if c.b.num K.powerStateNow ≠ 0 then c
  else
    let b1 := ((c.b.setNum K.powerState 2).setNum K.powerStateNow 2).bump K.powerEntries
    let b2 : Blk := { b1.discard (fun t => t.state == .committed) with phase := .retained, frameIsOpen := false }
    { c with b := b2 }

/-- What stays in flash when everything else of a channel is lost: stored objects, images, keys and logs. -/
def Chan.blank (c : Chan) : Chan :=
  let fresh := Chan.reset c.b.place
  let b1 : Blk := { fresh.b with out := c.b.out, free := c.b.free }
  { fresh with
    b := b1.setNum K.storeGeneration (c.b.num K.storeGeneration),
    flash := c.flash.map (fun r => if bits r.node.toNat 28 4 == 1 && r.pend.isSome then { r with dead := true } else r), hist := { Hist.reset with log := c.hist.log, seq := c.hist.seq, fw := c.hist.fw, fwSeq := c.hist.fwSeq } }

/-- C3 begins (R371, R373, Table 15.7): nothing behind the power switches is kept. -/
def Chan.enterC3 (c : Chan) : Chan :=
  if c.b.num K.powerStateNow = 3 then c
  else
    let c1 := c.blank
    { c1 with b := ({ c1.b with phase := .off }.setNum K.powerState 3).setNum K.powerStateNow 3 }

/-- power_state takes effect. -/
def Chan.powerAct (c : Chan) (n : Nat) : Chan :=
  if n = 2 then c.enterC2 else if n = 3 then c.enterC3 else c

/-- The channel leaves C2 (R371, R373): frames open again under R47. -/
def Chan.wakeC2 (c : Chan) : Chan :=
  if c.b.phase ≠ .retained then c
  else
    let b1 : Blk := { c.b with phase := .run }
    { c with b := (b1.setNum K.powerState 0).setNum K.powerStateNow 0 }

/-- A cold start of the channel begins (Table 16.2), keeping the objects of `keep` (R384); `owed` are fault records that
wait for it. A channel whose clocks run already goes straight to its memory test. The lanes per port are those that flash
holds (R385). -/
def Chan.startCold (c : Chan) (keep : Nat → Bool) (owed : List (Nat × Nat × Nat × Nat × Nat)) (state : Nat) : Chan :=
  let b0 := c.b.coldReset keep
  let c1 := c.blank
  let b1 : Blk := { c1.b with phase := .cold, store := b0.store }
  let b2 := b1.setNum K.storeGeneration (c.b.num K.storeGeneration)
  let own := c.currentRecs.filter (fun r => bits r.node.toNat 28 4 == 1 && r.key == K.lanesPerPort)
  let lanes := match own.getLast? with | some r => r.v.toNum | none => (dflt false K.lanesPerPort).toNum
  { c1 with b := (b2.setNum K.channelId c.b.place).setNum K.bringupState state,
            start := { Start.reset with owed := owed, lanes := lanes } }

/-- CHANNEL_WAKE (R371): out of C2, or out of C3 through a cold start. -/
def Chan.wake (c : Chan) : Chan :=
  if c.b.phase = .off then c.startCold (fun _ => false) [] 1 else c.wakeC2

/-- A standby table or image takes its value; an image is checked next (R247). -/
def Chan.loaded (c : Chan) (key : Nat) (v : Val) : Chan :=
  let c1 := c.onB (fun b => b.setVal key v)
  if key = K.standbyImage then c1.onB (fun b => b.setNum K.standbyState 2)
  else if key = K.rulStandbyImage then c1.onB (fun b => b.setNum K.rulStandbyState 2)
  else c1

/-- The effect of an accepted write on a channel's own object. -/
def Chan.act (c : Chan) (src : Word) (key : Nat) (v : Val) : Chan :=
  let n := v.toNum
  if key = K.aggSwap then (if n = 1 then c.swapAgg else c)
  else if key = K.serSeriesSwap then (if n = 1 then c.swapSeries else c)
  else if key = K.imageSwap then (if n = 1 then c.balSwap else c)
  else if key = K.rulImageSwap then (if n = 1 then c.rulSwap else c)
  else if key = K.standbyImage ∨ key = K.rulStandbyImage then c.loaded key v
  else if key = K.powerState then c.powerAct n
  else if key = K.channelWake then c.wake
  else if key = K.withdrawLeaves then c.withdrawLeaves n
  else if key = K.withdrawChannel then c.withdraw n
  else if key = K.memberLeave then c.memberLeave src n
  else if key = K.traceTriggerLeaves then c.triggerWritten n
  else if key = K.notify then c.sendNotify v.toBytes
  else if key = K.suspectSet then c.setSuspects v.toBytes
  else if key = K.suspectClear then c.clearSuspects v.toBytes
  else if key = K.lossSubmit then c.submitLoss v.toBytes
  else if key = K.lossWindow then c.setLossWindow n
  else if key = K.jobSubmit then c.submitJob v.toBytes
  else if key = K.traceFetch then c.startFetch n
  else if K.start ≤ key ∧ key < K.start + 0x800 ∧ key % 256 = 1 then c.moverStart ((key - K.start) / 256) n
  else if K.start ≤ key ∧ key < K.start + 0x800 ∧ key % 256 = 2 then c.moverStop ((key - K.start) / 256)
  else if K.streamEntry ≤ key ∧ key < K.streamEntry + 16 then c.writeStream (key - K.streamEntry) v.toBytes
  else if K.groupEntry ≤ key ∧ key < K.groupEntry + 255 then c.writeGroup (key - K.groupEntry) n
  else if K.subscriberEntry ≤ key ∧ key < K.policerEntry then c.entryWritten key v
  else if key = K.clearLocation then c.clearLocation n
  else if key = K.startupFailures then c.startupFailures v.toBytes
  else if key = K.firmwareLogWrite then c.onB (fun b => { b with jobs := b.jobs ++ [.firmware v.toBytes] })
  else if key = K.wakeRequest then c.wakeRequest v.toBytes
  else c.onB (fun b => b.commonAct key v)

/-! ### Forwarding (R99) -/

/-- A broadcast goes to the children and to blocks whose join is under way, whether or not they are in scope (R99); to leaves only
while the channel is a member (R391). Pod roots below a fleet root hear from its own broadcast. [DESIGN CHOICE, assumption 85] -/
def Chan.forward (c : Chan) (op : Nat) (txn : Word) (items : List Item) (body : List Byte) (mask : Nat) : Chan :=
  let kids := (c.tree.children.filter (fun x => x.kind != .guest && x.level != 3 && !x.away && (x.member || x.attached))).map (·.addr)
  let joins := (c.joins.filter (fun j => j.done)).map (·.dst)
  let dsts := (kids ++ joins).eraseDups
  (dsts.filter (fun a => bits a.toNat 28 4 != 0 || c.member)).foldl (fun acc a =>
    acc.onB (fun b => b.request a op txn.toNat items (if op = opPrepare then c.prepareBody a mask body else body))) c

/-- Where a message for another node goes (R84): to a leaf served here over the ingress ports; to a channel below, or from the fleet root,
down the tree; and else toward the root. -/
def Chan.hopTo (c : Chan) (d : Word) : Hop :=
  let leaf := bits d.toNat 28 4 == 0
  let home := if leaf then chanAddr (d.toNat % 2 ^ 18 / 32) else d
  if leaf && (c.tree.children.any (fun x => x.kind == .leaf && x.addr == d) || home == c.b.addr) then .ingress
  else if c.b.num K.treeRole = 2 ∨ c.tree.children.any (fun x => x.kind == .chan && x.addr == home) = true then .down
  else .up

/-! ### Passing on (R84) -/

/-- A request on a transaction of a leaf that passes through: its writes or its apply frame wait for the leaf's answer. -/
def Chan.watchReq (c : Chan) (leaf : Word) (op : Nat) (q : Req) : Chan :=
  let p : Passing := { leaf := leaf, src := q.src, num := q.txn, seq := q.seq, writes := [], commit := none, answered := false }
  let ws := q.items.map (fun i => (itemKey i, dataVal i.type.toNat i.data))
  if op = opTxnStage then { c with passing := c.passing ++ [{ p with writes := ws }] }
  else if op = opTxnCommit then { c with passing := c.passing ++ [{ p with commit := some (leNat q.body) }] }
  else c

/-- A transaction of another source on a leaf has been committed: its values are known, and a change of a region restarts the spacing of
R128 at its apply frame. -/
def Chan.passed (c : Chan) (leaf : Word) (ws : List Wr) (a : Nat) : Chan :=
  let c1 := c.noteWrites leaf ws a false
  if ws.any (fun w => isRegion w.1) then c1.onPac (fun p => { p with moves := p.moves ++ [a] }) else c1

/-- The answer of a leaf to such a request passes through. -/
def Chan.watchResp (c : Chan) (dst : Word) (r : Resp) : Chan :=
  match c.passing.find? (fun p => p.leaf == r.peer && p.src == dst && p.seq == r.seq && !p.answered) with
  | none => c
  | some p =>
    let rest := c.passing.filter (fun x => x != p)
    let same := fun (x : Passing) => x.answered && x.leaf == p.leaf && x.src == p.src && x.num == p.num
    if r.status ≠ 0 then { c with passing := rest }
    else match p.commit with
      | none => { c with passing := rest ++ [{ p with answered := true }] }
      | some a => ({ c with passing := rest.filter (fun x => !same x) }).passed p.leaf ((rest.filter same).flatMap (fun (x : Passing) => x.writes))
          (if a = 0 then c.b.now + 1 else a)

/-- A request for another node goes on. -/
def Chan.passReq (c : Chan) (d : Word) (op : Nat) (q : Req) : Chan :=
  (c.onB (fun b => b.passOn d (.relay (c.hopTo d) d op q))).watchReq d op q

/-- A response for another node goes on. -/
def Chan.passResp (c : Chan) (d : Word) (r : Resp) : Chan :=
  (c.onB (fun b => b.passOn d (.relayResp (c.hopTo d) d r))).watchResp d r

/-! ### The endpoint -/

/-- The tables that a swap makes active are stored at its commit (R91, R184, R213). -/
def Chan.copies (c : Chan) (key : Nat) : List (Nat × Val) :=
  if key = K.aggSwap then
    let t := c.b.bytes K.aggTableStandby
    [(K.aggTableActive, .bytes t), (K.aggSlots, .num (t.length / 8))]
  else if key = K.serSeriesSwap then
    let t := c.b.bytes K.serSeriesTableStandby
    [(K.serSeriesTableActive, .bytes t), (K.serSeriesCount, .num (t.length / 8)),
     (K.handoffCount, .num ((chTable t).filter (·.handoff)).length)]
  else []

/-- The images that writes make active (R250, R272): their swap objects. -/
def imagesOf (ws : List Wr) : List Nat := [K.imageSwap, K.rulImageSwap].filter (fun k => ws.contains (k, .num 1))

/-- The channel as a Bivan endpoint. -/
def chanEnv : Env CS :=
  { blk := fun s => s.ch.b
    put := fun s b => s.on (fun c => { c with b := b })
    val := CS.val
    rd := CS.rd
    rchk := fun _ _ => stOk
    chk := fun s _ _ view key v => s.ch.status view key v
    seg := fun s key => s.ch.loadStatus key
    segd := fun s key first => s.on (fun c => c.loading key first)
    miss := fun s key st => if key = K.lossSubmit ∧ st = stRange then s.on (fun c => c.onB (·.bump K.submissionsRefused)) else s
    images := fun _ ws => imagesOf ws
    commitChk := fun s src num ws a => s.ch.commitCheck src num ws a
    act := fun s src key v => if isTray key then { s with sh := s.sh.setVal key v } else s.on (fun c => c.act src key v)
    clasp := fun s => s.sh.holder == s.ch.b.place && s.ch.b.num K.claspHeld == 1
    staged := fun s key v => if key = K.powerState ∧ 2 ≤ v.toNum ∧ s.ch.b.num K.powerStateNow = 0 then s.on Chan.handOver else s
    copies := fun s key => s.ch.copies key
    stored := fun s j => s.on (fun c => c.storeDone c.b.addr j)
    current := fun s src num =>
      let s1 := s.on (fun c => c.promote c.b.addr src num)
      { s1 with sh := { s1.sh with currents := s1.sh.currents ++ [(src, num)] } }
    forward := fun s op txn items body mask => s.on (fun c => c.forward op txn items body mask)
    passReq := fun s d op q => s.on (fun c => c.passReq d op q)
    passResp := fun s d r => s.on (fun c => c.passResp d r) }

end Sys2Proof.Machine
end

