-- ==== Sys2Proof/Machine/FleetRoot.lean ====
section
/-! DEFINITION. The fleet root (R95, R97, R101 to R107): it accepts fleet requests, broadcasts PREPARE, decides, counts
commits, compensates, and keeps the partition map. -/

namespace Sys2Proof.Machine

/-! ### Counts (R101) -/

/-- The pod roots of a pod. -/
def Tree.podRoots (t : Tree) (pod : Nat) : List Child :=
  t.children.filter (fun x => x.kind == .chan && x.level == 3 && x.member && x.pod == pod)

/-- The nodes of a pod by the latest packets of its pod root (Table 7.2). -/
def Tree.podNodes (t : Tree) (pod : Nat) : Nat := ((t.podRoots pod).map (fun x => x.members + x.memberChannels)).foldl max 0

/-- The nodes of a pod that the leaf sets of those packets name (Table 7.5). -/
def Tree.podSet (t : Tree) (pod : Nat) : LeafSet := (t.podRoots pod).foldl (fun s x => s.union x.set) []

/-- The leaves and channels that a leaf set names. -/
def LeafSet.nodes (s : LeafSet) : Nat := (s.map (fun e => popCount 25 e.2)).sum

/-- The nodes that two leaf sets both name. -/
def LeafSet.common (s t : LeafSet) : Nat := (s.map (fun e => popCount 25 (e.2 &&& t.bitsOf e.1))).sum

/-- The shares of the pods in a mask at P (R101). -/
def Tree.scopeShares (t : Tree) (mask : Nat) : List PodShare :=
  (onesOf 128 mask).map (fun p => { pod := p, count := t.podNodes p, set := t.podSet p, gone := 0 })

/-- E, taken at P: the nodes of the pods in scope, and the root itself when only its own share puts it in scope (R98). -/
def Chan.expected (c : Chan) (b : FleetBody) (items : List Item) : Nat :=
  let own := c.b.num K.podNumber
  ((c.tree.scopeShares b.mask).map (·.count)).sum +
    (if (decide (own ≤ 127) && b.mask.testBit own) || !items.any (fun i => bit i.target.toNat 2) then 0 else 1)

/-- The nodes of a share whose removal has reached the root (R101): those counted at P that the pod's packets name no more, less the
members that a packet can lack without having left. A node that joined after P is none of them. [DEDUCED, assumption 23] -/
def PodShare.recount (p : PodShare) (t : Tree) : PodShare :=
  let now := t.podSet p.pod
  let kept := LeafSet.common p.set now
  let unnamed := min (LeafSet.nodes now - kept) (p.count - LeafSet.nodes p.set)
  let absent := t.podNodes p.pod - LeafSet.nodes now
  { p with gone := max p.gone (p.count - (kept + unnamed + absent)) }

/-- Nodes whose removal has reached the root are subtracted (R101). -/
def FleetTx.recount (x : FleetTx) (t : Tree) : FleetTx := { x with shares := x.shares.map (fun p => p.recount t) }

/-- The expected count less the removed nodes. -/
def FleetTx.left (x : FleetTx) : Nat := x.expected - (x.shares.map (·.gone)).sum

/-- The reduced record of a sequence and phase at the root. -/
def Tree.rootAck (t : Tree) (seq : Word) (phase : Nat) : AckRec :=
  (t.rootAcks.find? (fun r => r.seq == seq && r.phase == phase)).getD
    { seq := seq, phase := phase, firstStatus := 0, ok := 0, refused := 0, firstNode := 0xFFFFFFFF }

/-- The ok_count of a phase equals E less the removed nodes (R102, R105). [DEDUCED, assumption 23] -/
def Chan.complete (c : Chan) (x : FleetTx) (phase : Nat) : Bool := decide ((c.tree.rootAck x.seq phase).ok = x.left)

/-- Change a transaction at the root. -/
def Chan.onRoot (c : Chan) (seq : Word) (f : FleetTx → FleetTx) : Chan :=
  { c with root := c.root.map (fun x => if x.seq == seq then f x else x) }

/-! ### Broadcast (R97, R103) -/

/-- The request as the root's own channel receives it. -/
def ownReq (b : Blk) (seq : Word) (items : List Item) (body : List Byte) : Req :=
  let q : Req :=
    { way := .fabric 3, src := b.addr, seq := 0, txn := seq, count := BitVec.ofNat 16 items.length, items := items, body := body,
      env := { version := 1, kind := 1, length := 0, carried := 0 } }
  { q with env := { q.env with length := BitVec.ofNat 16 (reqSize q), carried := reqSize q } }

/-- To whom a root sends its fleet messages: its standby first, then the pod roots (R97, R103). -/
def Chan.fleetDsts (c : Chan) : List Word :=
  let s := c.b.num K.roleSuccessor
  let pods := (c.tree.children.filter (fun x => x.kind == .chan && x.level == 3 && !x.away && (x.member || x.attached))).map (·.addr)
  ((if s = noChan then [] else [chanAddr s]) ++ pods).eraseDups

/-- A fleet message goes to each of them. -/
def Chan.broadcast (c : Chan) (op : Nat) (seq : Word) (items : List Item) (body : List Byte) : Chan :=
  c.fleetDsts.foldl (fun acc a => acc.onB (fun b => b.request a op seq.toNat items body)) c

/-- A fleet message leaves the root, and the root's own channel acts on it. -/
def CS.spread (s : CS) (op : Nat) (seq : Word) (items : List Item) (body : List Byte) : CS :=
  let s1 := s.on (fun c => c.broadcast op seq items body)
  let q := ownReq s1.ch.b seq items body
  if op = opPrepare then doPrepare chanEnv s1 q
  else if op = opCommitToken then doToken chanEnv s1 q true
  else if op = opAbortToken then doToken chanEnv s1 q false
  else doCompensate chanEnv s1 q

/-! ### Acceptance (R95, R97, R107) -/

/-- Pods of the mask whose owner forbids the request. -/
def Blk.mapConflict (b : Blk) (f : FleetBody) : Bool :=
  f.part != 0xFFFE && (onesOf 128 f.mask).any (fun p =>
    let o := b.num (K.podPartition + p)
    o != f.part && !(o == 0xFFFF && f.action == 1))

/-- Why a request is refused, or OK. -/
def Chan.fleetStatus (c : Chan) (f : FleetBody) : Nat :=
  let flying := c.root.filter (fun x => !x.counted)
  if c.b.num K.treeRole ≠ 2 then stWrong
  else if 64 < f.guard ∨ 2 < f.action ∨ f.part = 0xFFFF then stRange
  else if f.apply < c.b.now + 12 + c.b.guardOf f then stExpired
  else if 8 ≤ flying.length then stBusy
  else if c.b.mapConflict f ∨
      flying.any (fun x => f.part == 0xFFFE || x.body.part == 0xFFFE || x.body.mask &&& f.mask != 0) = true then stConflict
  else stOk

/-- A request is accepted: it takes the next sequence number, and its PREPARE goes out. -/
def CS.acceptFleet (s : CS) (way : Way) (src num : Word) (f : FleetBody) (items : List Item) (body : List Byte) : CS :=
  let n := s.ch.b.num K.fleetSeqNext
  let seq := BitVec.ofNat 32 n
  let tx : FleetTx :=
    { seq := seq, body := f, items := items, way := way, src := src, num := num, accepted := s.ch.b.now,
      expected := s.ch.expected f items, shares := s.ch.tree.scopeShares f.mask, decided := none, compAt := 0, sentAt := 0,
      mapPrior := [], counted := false }
  let s1 := s.on (fun c => { c with b := c.b.setNum K.fleetSeqNext ((n + 1) % 2 ^ 32), root := c.root ++ [tx] })
  s1.spread opPrepare seq items body

/-- FLEET_REQUEST (R97): refused at once, or answered at the decision. -/
def CS.fleetRequest (s : CS) (q : Req) : CS :=
  judge chanEnv s opFleetRequest q (decide (q.body.length = 32)) 2 (fun s src _ old =>
    let f := parseFleet q.body
    let st := s.ch.fleetStatus f
    if st ≠ stOk then finishReq chanEnv s q old (bare src opFleetRequest st q)
    else
      let s1 := s.on (fun c => c.onB (fun b => { b with
        execs := b.execs ++ [{ way := q.way, src := src, seq := q.seq, resp := bare src opFleetRequest stOk q, writes := [],
                               waiting := 1, fails := [] }] }))
      s1.acceptFleet q.way src q.seq f q.items q.body)

/-- The requester is answered (R102). -/
def Blk.answerFleet (b : Blk) (x : FleetTx) (status : Nat) : Blk :=
  match b.execs.find? (fun e => e.src == x.src && e.seq == x.num && e.resp.opcode == BitVec.ofNat 8 opFleetRequest) with
  | none => b
  | some e =>
    let r : Resp := { e.resp with status := BitVec.ofNat 8 status, txn := x.seq }
    let b1 : Blk := { b with execs := b.execs.filter (fun y => !(y.src == e.src && y.seq == e.seq)) }
    (b1.emit (.resp e.way r)).remember r

/-! ### Decision, count, compensation (R102, R105) -/

/-- The first refusal of a phase is kept in 0x0500:17 and 0x0500:18. -/
def Chan.noteRefusal (c : Chan) (seq : Word) (phase : Nat) : Chan :=
  let r := c.tree.rootAck seq phase
  if r.refused = 0 then c
  else c.onB (fun b => (b.setNum K.lastFleetRefusalNode r.firstNode.toNat).setNum K.lastFleetRefusalStatus r.firstStatus)

/-- COMMIT_TOKEN goes out, and the request is answered OK. -/
def CS.decideCommit (s : CS) (x : FleetTx) : CS :=
  let s1 := s.spread opCommitToken x.seq [] (natLe 8 x.body.apply)
  s1.on (fun c => (c.onRoot x.seq (fun y => { y with decided := some true })).onB (fun b => b.answerFleet x stOk))

/-- ABORT_TOKEN goes out, and the transaction is over: it is in flight no longer. [DESIGN CHOICE, assumption 84] -/
def CS.decideAbort (s : CS) (x : FleetTx) (status : Nat) : CS :=
  let s1 := s.spread opAbortToken x.seq [] []
  s1.on (fun c => { c with root := c.root.filter (fun y => y.seq != x.seq), b := c.b.answerFleet x status })

/-- The last decision frame A − g − 4 has been reached (R102), or passed. -/
def Blk.lastDecided (b : Blk) (f : FleetBody) (past : Nat) : Bool := decide (f.apply + past ≤ b.now + b.guardOf f + 4)

/-- A transaction whose prepare record decides it is decided, not after its last decision frame (R102). [DEDUCED, assumption 23] -/
def CS.decideOne (s : CS) (x : FleetTx) : CS :=
  if x.decided.isSome || s.ch.b.lastDecided x.body 1 then s
  else
    let r := s.ch.tree.rootAck x.seq 1
    if 0 < r.refused then (s.on (fun c => c.noteRefusal x.seq 1)).decideAbort x r.firstStatus
    else if s.ch.complete x 1 then s.decideCommit x
    else s

/-- LAST_DECISION_FRAME (R102): the close of frame A − g − 4, or a later one. [DEDUCED, assumption 23] -/
def CS.lastDecision (s : CS) (seq : Word) : CS :=
  match s.ch.root.find? (fun x => x.seq == seq) with
  | none => s
  | some x => if x.decided.isSome || !s.ch.b.lastDecided x.body 0 then s else s.decideAbort x stExpired

/-- COMPENSATE goes out with a new apply frame, is counted, and raises irq_err; what earlier rounds counted counts no more (R105). -/
def CS.sendComp (s : CS) (x : FleetTx) : CS :=
  let ac := max (x.body.apply + 1) (s.ch.b.now + 4)
  let s0 := s.on (fun c => c.onB (fun b => (b.bump K.compensateCount).raiseErr irqTxn))
  let s1 := s0.on (fun c => (c.onRoot x.seq (fun y => { y with compAt := ac, sentAt := c.b.now })).onTree (fun t => { t with
    rootAcks := t.rootAcks.filter (fun r => !(r.seq == x.seq && r.phase == 3)) }))
  s1.spread opCompensate x.seq [] (natLe 8 ac)

/-- A transaction is in flight no longer; it is kept until its map action has been taken. -/
def Chan.endFlight (c : Chan) (x : FleetTx) : Chan :=
  if x.body.apply ≤ c.b.now ∧ (x.compAt = 0 ∨ x.mapPrior = []) then { c with root := c.root.filter (fun y => y.seq != x.seq) }
  else c.onRoot x.seq (fun y => { y with counted := true })

/-- A compensation whose count is complete ends the transaction's flight (R107). -/
def Chan.endCompensated (c : Chan) : Chan :=
  (c.root.filter (fun x => decide (0 < x.compAt) && !x.counted && c.complete x 3)).foldl Chan.endFlight c

/-- The root at the close of a frame: removals are counted, what can be decided is decided, and compensations end. [DEDUCED, assumption 23] -/
def CS.decideAll (s : CS) : CS :=
  let s1 := s.on (fun c => { c with root := c.root.map (fun x => x.recount c.tree) })
  (s1.ch.root.foldl CS.decideOne s1).on Chan.endCompensated

/-- COMMIT_COUNT_CHECK (R105): the close of frame A − g + 2, or a later one. [DEDUCED, assumption 23] -/
def CS.commitCount (s : CS) (seq : Word) : CS :=
  match s.ch.root.find? (fun x => x.seq == seq) with
  | none => s
  | some x =>
    if x.decided ≠ some true ∨ x.counted = true ∨ 0 < x.compAt ∨ s.ch.b.now + s.ch.b.guardOf x.body < x.body.apply + 2 then s
    else if s.ch.complete x 2 then s.on (fun c => c.endFlight x)
    else (s.on (fun c => c.noteRefusal x.seq 2)).sendComp x

/-- COMPENSATE_RETRY (R105): repeated every 0x0500:14 frames until the compensate record is complete. -/
def CS.compRetry (s : CS) (seq : Word) : CS :=
  match s.ch.root.find? (fun x => x.seq == seq) with
  | none => s
  | some x =>
    if x.compAt = 0 ∨ x.counted = true then s
    else if s.ch.complete x 3 then s.on (fun c => c.endFlight x)
    else if s.ch.b.now < x.sentAt + s.ch.b.num K.compensateRetry then s
    else (s.on (fun c => c.noteRefusal x.seq 3)).sendComp x

/-! ### The partition map (R95, R97) -/

/-- The map action of a transaction that applies; the former entries are kept for a compensation, and an earlier transaction's compensation
no longer restores the pods that it writes (R106). -/
def Chan.mapAct (c : Chan) (x : FleetTx) : Chan :=
  if x.body.part = 0xFFFE ∨ x.body.action = 0 ∨ x.mapPrior ≠ [] then c
  else
    let pods := onesOf 128 x.body.mask
    let v := if x.body.action = 1 then x.body.part else 0xFFFF
    let prior := pods.map (fun p => (p, c.b.num (K.podPartition + p)))
    let c1 : Chan := { c with root := c.root.map (fun y => { y with mapPrior := y.mapPrior.filter (fun p => !pods.contains p.1) }) }
    (c1.onB (fun b => pods.foldl (fun b p => b.setNum (K.podPartition + p) v) b)).onRoot x.seq (fun y => { y with mapPrior := prior })

/-- The former entries return (R106). -/
def Chan.mapUndo (c : Chan) (x : FleetTx) : Chan :=
  (c.onB (fun b => x.mapPrior.foldl (fun b p => b.setNum (K.podPartition + p.1) p.2) b)).onRoot x.seq (fun y =>
    { y with mapPrior := [] })

/-- Frame k opens at the root: maps change with A and with Ac, and transactions that are over go. [DEDUCED, assumption 23] -/
def Chan.rootFrame (c : Chan) (p k : Nat) : Chan :=
  let c1 := (c.root.filter (fun x => x.decided == some true && decide (p < x.body.apply) && decide (x.body.apply ≤ k))).foldl
    Chan.mapAct c
  let c2 := (c1.root.filter (fun x => decide (0 < x.compAt) && decide (p < x.compAt) && decide (x.compAt ≤ k))).foldl
    Chan.mapUndo c1
  { c2 with root := c2.root.filter (fun x => !(x.counted && decide (x.body.apply ≤ k) && decide (x.compAt ≤ k))) }

/-- A transaction that a former root has decided to commit is in flight at this one (R103): its commit count, its map action and, if need be,
its compensation are completed here; its requester has been answered or asks again (Table 3.16). -/
def Chan.adoptFlight (c : Chan) (r : FleetRec) : Chan :=
  if !r.prepared || c.root.any (fun x => x.seq == r.seq) then c
  else { c with root := c.root ++ [
      { seq := r.seq, body := r.body, items := r.items, way := .fabric 0, src := 0xFFFFFFFF, num := 0, accepted := c.b.now,
        expected := c.expected r.body r.items, shares := c.tree.scopeShares r.body.mask, decided := some true, compAt := 0, sentAt := 0,
        mapPrior := [], counted := false }] }

/-- The channel takes the fleet root's role: what is in flight is completed with the decision held, or aborted (R103); a
channel that gives it up forgets its requests. -/
def CS.roleChanged (s : CS) (old new : Nat) : CS :=
  if new = 2 ∧ old ≠ 2 then
    (s.ch.b.fleet.filter (fun r => decide (s.ch.b.now < r.body.apply))).foldl (fun acc r =>
      if r.token = some true then (acc.on (fun c => c.adoptFlight r)).on (fun c => c.broadcast opCommitToken r.seq [] (natLe 8 r.body.apply))
      else if r.token = some false then acc.on (fun c => c.broadcast opAbortToken r.seq [] [])
      else acc.spread opAbortToken r.seq [] []) s
  else if new ≠ 2 ∧ old = 2 then s.on (fun c => { c with root := [] })
  else s

end Sys2Proof.Machine
end

