-- ==== Sys2Proof/Machine/TraceUnit.lean ====
section
/-! DEFINITION. The trace unit (R302 to R318). Times are nanoseconds of the active domain; where a rule counts cycles of
the stall, the offsets of the beats and the cycles of the written records show them (assumption 20). -/

namespace Sys2Proof.Machine

/-- The size of the ring. -/
abbrev ringSize : Nat := 8388608

abbrev trIdle : Nat := 0
abbrev trArmed : Nat := 1
abbrev trTriggered : Nat := 2
abbrev trFrozen : Nat := 3

/-- 0x0C00:03. -/
def Leaf.trState (l : Leaf) : Nat := l.b.num K.traceState

/-- The unit captures. -/
def Leaf.capturing (l : Leaf) : Bool := l.trState == trArmed || l.trState == trTriggered

/-- The bit of a record that names the active domain. -/
def Blk.domBit (b : Blk) : Nat := if b.activeDom = .b then 1 else 0

/-- Active-domain time of an offset in the open frame (R303). -/
def Leaf.eventTime (l : Leaf) (off : Nat) : Nat := (l.openAt + off + (l.b.servo l.b.activeDom).corr).toNat

/-- Active-domain time as the commands have shown it. -/
def Leaf.nowTime (l : Leaf) : Nat := l.b.time l.b.activeDom

/-- The time at which a write takes effect that names none: the latest that the commands have shown, with the beats of the
open frame. [DEDUCED, assumption 21] -/
def Leaf.actTime (l : Leaf) : Nat := max l.nowTime (l.eventTime l.tr.cycle)

/-! ### Record heads (Table 12.2) -/

/-- A head of type `t` with sub-code `k` in [123:120] and the rest below. -/
def trHead (t k rest : Nat) : List Byte := natLe 16 (t * 2 ^ 124 + k * 2 ^ 120 + rest)

/-- An event record. -/
def trEvent (core code priv words context delta : Nat) (payload : List Byte) : List Byte :=
  natLe 16 (1 * 2 ^ 124 + words * 2 ^ 121 + priv * 2 ^ 118 + core * 2 ^ 108 + code * 2 ^ 100 + delta * 2 ^ 80 +
    context * 2 ^ 32) ++ payload

/-- A record that carries a TIME96: time-stamp (0x2) or power marker (0x6). -/
def trStamp (t k dom time : Nat) : List Byte := trHead t k (dom * 2 ^ 96 + ns96 time)

/-! ### The ring (R305, R310) -/

/-- Bytes held. -/
def Trace.used (t : Trace) : Nat := (t.ring.map (fun r => r.data.length)).sum

/-- Records dropped from the oldest on until `need` bytes are free; none when the trigger record would go. -/
def makeRoom (need : Nat) : List TrRec → Nat → Option (List TrRec)
  | [], _ => some []
  | r :: rs, used =>
    if used + need ≤ ringSize then some (r :: rs)
    else if r.trigger then none
    else makeRoom need rs (used - r.data.length)

/-- Append records: the oldest make room for them (R305). -/
def Leaf.append (l : Leaf) (rs : List TrRec) : Leaf :=
  let len := (rs.map (fun r => r.data.length)).sum
  let kept := (makeRoom len (l.tr.ring.map (fun r => { r with trigger := false })) l.tr.used).getD []
  let flags := l.tr.ring.drop (l.tr.ring.length - kept.length)
  let pos := l.tr.pos + len
  let l1 := { l with tr := { l.tr with ring := flags ++ rs, pos := pos % ringSize } }
  if ringSize ≤ pos then { l1 with b := l1.b.bump K.wraps (pos / ringSize) } else l1

/-- The stall falls, and the cycles it was high are counted (R313). [DEDUCED, assumption 20] -/
def Leaf.stallFall (l : Leaf) (upTo : Nat) : Leaf :=
  if !l.tr.stall then l
  else
    let n := upTo - l.tr.stallFrom
    { l with b := (l.b.bump K.stallCycles n).emit (.stall false),
             tr := { l.tr with stall := false, stallUsed := l.tr.stallUsed + n } }

/-- The stall as the queue's filling asks for (R313). [DEDUCED, assumption 20] -/
def Leaf.judgeStall (l : Leaf) : Leaf :=
  let n := l.tr.queue.length
  let may := l.b.num K.stallEnable == 1 && l.capturing && l.b.num K.powerStateNow == 0 && !l.tr.spent
  if l.tr.stall then (if n ≤ 64 ∨ may = false then l.stallFall l.tr.cycle else l)
  else if may && decide (128 ≤ n) then
    { l with b := l.b.emit (.stall true), tr := { l.tr with stall := true, stallFrom := l.tr.cycle } }
  else l

/-- The unit goes to idle: what still waits is dropped. -/
def Leaf.traceIdle (l : Leaf) : Leaf :=
  ({ l with b := l.b.setNum K.traceState trIdle,
            tr := { l.tr with queue := [], stopAt := none, lost := 0, lostAfter := false } }).judgeStall

/-- The records that must stand before a record of time `time` (R307): a loss record with its time-stamp, or a
time-stamp after a step or a long interval; and the base that the record's delta counts from. -/
def Leaf.preamble (l : Leaf) (time steps dom : Nat) : List TrRec × Nat :=
  let stamp := fun k => ({ data := trStamp 2 k dom time, stamp := true, trigger := false } : TrRec)
  if 0 < l.tr.lost then
    ([{ data := trHead 3 (if l.tr.lostAfter then 1 else 0) (min l.tr.lost 0xFFFFFFFF * 2 ^ 32), stamp := false,
        trigger := false }, stamp 2], time)
  else if l.tr.noBase ∨ l.tr.baseSteps ≠ steps then ([stamp 3], time)
  else if time < l.tr.base ∨ l.b.num K.timestampIntervalNs ≤ time - l.tr.base then ([stamp 0], time)
  else ([], l.tr.base)

/-- The bytes of records. -/
def recsLen (rs : List TrRec) : Nat := (rs.map (fun r => r.data.length)).sum

/-- After a trigger, `rs` would reach the trigger record, or leave no room before it for a stop record with a loss record and a
time-stamp (R310). [DEDUCED, assumption 73] -/
def Leaf.tight (l : Leaf) (rs : List TrRec) : Bool :=
  l.trState == trTriggered && (makeRoom (recsLen rs + 48) l.tr.ring l.tr.used).isNone

/-- Records take their place, and deltas count from `base` on. -/
def Leaf.put (l : Leaf) (rs : List TrRec) (base steps : Nat) : Leaf :=
  let l1 := l.append rs
  { l1 with tr := { l1.tr with base := base, baseSteps := steps, noBase := false, lost := 0, lostAfter := false } }

/-- A record with its preamble (R307); `mk` makes it from its delta. -/
def Leaf.put1 (l : Leaf) (time steps dom : Nat) (mk : Nat → List Byte) (trigger : Bool) : Leaf :=
  let p := l.preamble time steps dom
  l.put (p.1 ++ [{ data := mk (time - p.2), stamp := false, trigger := trigger }]) p.2 steps

/-- A stop record of cause `k`, and idle (R310). -/
def Leaf.putStop (l : Leaf) (k time steps dom : Nat) : Leaf :=
  (l.put1 time steps dom (fun d => trHead 5 k (d * 2 ^ 80)) false).traceIdle

/-- Put one record, with its preamble, into the ring; after the trigger, one that would reach the trigger record is replaced by a
stop record of cause 1 (R307, R310). `trigger` tells the trigger record itself. -/
def Leaf.place (l : Leaf) (time steps dom : Nat) (mk : Nat → List Byte) (trigger : Bool) : Leaf :=
  let p := l.preamble time steps dom
  if !trigger && l.tight (p.1 ++ [{ data := mk (time - p.2), stamp := false, trigger := trigger }]) then
    l.putStop 1 time steps dom
  else l.put1 time steps dom mk trigger

/-- Cycles that writing `n` bytes takes. -/
def writeCycles (n : Nat) : Nat := max 1 ((n + 31) / 32)

/-- Write one item of the intake queue. -/
def Leaf.writeItem (l : Leaf) (i : TrItem) : Leaf :=
  let l0 := { l with tr := { l.tr with cycle := l.tr.cycle + 1 } }
  match i.kind with
  | .event core code priv words context payload =>
    let l1 := l0.place i.time i.steps i.dom (fun d => trEvent core code priv words context d payload) false
    if l1.trState = l0.trState then
      { l1 with b := l1.b.bump K.eventsWritten,
                tr := { l1.tr with cycle := l.tr.cycle + writeCycles (16 + 8 * words) } }
    else l1
  | .trigger source core code =>
    l0.place i.time i.steps i.dom (fun d => trHead 4 source (core * 2 ^ 108 + code * 2 ^ 100 + d * 2 ^ 80)) true

/-- TRACE_RECORD_WRITE (R305): the next record of the intake queue. [DEDUCED, assumption 21] -/
def Leaf.writeNext (l : Leaf) : Leaf :=
  match l.tr.queue with
  | [] => l
  | i :: is =>
    if l.capturing then (({ l with tr := { l.tr with queue := is } }).writeItem i).judgeStall else l

/-- Write the queued records whose time is at or before `t`, in order (R310). [DEDUCED, assumption 21] -/
def Leaf.writeThrough (t : Nat) : List TrItem → Leaf → Leaf
  | [], l => l
  | i :: is, l => if i.time ≤ t ∧ l.capturing = true then Leaf.writeThrough t is (l.writeItem i) else Leaf.writeThrough t is l

/-- A stop record of cause `k` at time `t` after what was captured by then, and idle (R308, R310). -/
def Leaf.traceHalt (l : Leaf) (k t : Nat) : Leaf :=
  let l1 := Leaf.writeThrough t l.tr.queue { l with tr := { l.tr with queue := [] } }
  if !l1.capturing then l1
  else l1.putStop k t l1.b.steps l1.b.domBit

/-! ### Intake (R304, R309) -/

/-- The trigger matches an event (R309). -/
def Blk.trigMatch (b : Blk) (core code : Nat) : Bool :=
  let m := b.num K.triggerCodeMask
  b.num K.triggerEnable == 1 && (code &&& m) == (b.num K.triggerCode &&& m) &&
    (b.num K.triggerCore == 0xFFFF || b.num K.triggerCore == core)

/-- The unit triggers at time `t`: the trigger record takes its place in the intake order (R309). -/
def Leaf.trigger (l : Leaf) (source core code t : Nat) : Leaf :=
  { l with b := (l.b.setNum K.traceState trTriggered).setNum K.triggerTime (ns96 t),
           tr := { l.tr with queue := l.tr.queue ++ [{ time := t, steps := l.b.steps, dom := l.b.domBit, kind := .trigger source core code }],
                             stopAt := some (t + l.b.num K.stopDelayNs) } }

/-- With a stop delay of 0 the stop record directly follows the trigger record (R310). -/
def Leaf.stopIfZero (l : Leaf) (t : Nat) : Leaf := if l.tr.stopAt = some t then l.traceHalt 0 t else l

/-- A trace event at the port (R304). -/
def Leaf.takeTrace (l : Leaf) (d off : Nat) : Leaf :=
  let core := beatCore d
  let priv := bits d 493 3
  let words := bits d 490 3
  let code := bits d 480 8
  if !l.capturing then { l with b := l.b.bump K.beatsIdle }
  else if bit (l.b.num K.privilegeExclude) priv then { l with b := l.b.bump K.eventsExcluded }
  else if 512 ≤ l.tr.queue.length then
    { l with b := l.b.bump K.eventsLost,
             tr := { l.tr with lost := l.tr.lost + 1, lostAfter := l.tr.lostAfter || l.tr.spent } }
  else
    let t := l.eventTime off
    let payload := (List.range words).flatMap (fun j => natLe 8 (beatPayload d j))
    let item : TrItem :=
      { time := t, steps := l.b.steps, dom := l.b.domBit, kind := .event core code priv words (beatWord d) payload }
    let l1 := { l with tr := { l.tr with queue := l.tr.queue ++ [item], cycle := max l.tr.cycle off } }
    if l.trState = trArmed ∧ l.b.trigMatch core code then ((l1.trigger 0 core code t).judgeStall).stopIfZero t
    else l1.judgeStall

/-! ### Commands (R308) -/

/-- The check of a trace command in the current state (Table 12.3); `authorised` is 0x0C00:02 with the items of its own transaction
(R93, R308). -/
def Leaf.traceStatus (l : Leaf) (authorised v : Nat) : Nat :=
  let s := l.trState
  let ok := match v with
    | 1 => s == trIdle && authorised == 1
    | 2 => s == trArmed || s == trTriggered
    | 3 => s == trArmed || s == trTriggered
    | 4 => s == trIdle
    | _ => false
  if ok then stOk else stWrong

/-- The buffer is emptied. -/
def Leaf.emptyTrace (l : Leaf) : Leaf :=
  { l with tr := { l.tr with queue := [], ring := [], pos := 0, noBase := true, stopAt := none, lost := 0,
                             lostAfter := false } }

/-- arm at time t. -/
def Leaf.traceArm (l : Leaf) (t : Nat) : Leaf :=
  let l1 := l.emptyTrace.append [{ data := trStamp 2 1 l.b.domBit t, stamp := true, trigger := false }]
  { l1 with b := l1.b.setNum K.traceState trArmed,
            tr := { l1.tr with base := t, baseSteps := l.b.steps, noBase := false } }

/-- trigger at time t. -/
def Leaf.traceTrig (l : Leaf) (t : Nat) : Leaf :=
  if l.trState = trTriggered then { l with b := l.b.bump K.triggersIgnored }
  else (l.trigger 1 0 0 t).stopIfZero t

/-- A command of Table 12.3 takes effect at time t; one that the state does not allow does nothing. -/
def Leaf.traceAct (l : Leaf) (v t : Nat) : Leaf :=
  if l.traceStatus 1 v ≠ stOk then l
  else match v with
    | 1 => l.traceArm t
    | 2 => l.traceTrig t
    | 3 => l.traceHalt 2 t
    | _ => l.emptyTrace

/-- TRACE_STOP_INSTANT (R310). -/
def Leaf.stopInstant (l : Leaf) : Leaf :=
  match l.tr.stopAt with
  | some t => if l.trState = trTriggered then l.traceHalt 0 t else l
  | none => l

/-- A step of time has carried the stop instant past (R310). -/
def Leaf.stopAfterStep (l : Leaf) (before : Nat) : Leaf :=
  match l.tr.stopAt with
  | some t =>
    if l.trState = trTriggered ∧ l.b.steps ≠ before ∧ t ≤ l.nowTime then l.traceHalt 0 l.nowTime else l
  | none => l

/-- STALL_BUDGET_EXPIRE (R313). -/
def Leaf.stallBudget (l : Leaf) : Leaf :=
  if !l.tr.stall then l
  else
    let n := l.b.num K.stallBudgetCycles - l.tr.stallUsed
    { l with b := ((l.b.bump K.stallCycles n).bump K.stallBudgetHits).emit (.stall false),
             tr := { l.tr with stall := false, stallUsed := l.tr.stallUsed + n, spent := true } }

/-- The frame closes: a stall that is high has been high to its end; the budget starts afresh (R313). -/
def Leaf.closeTrace (l : Leaf) : Leaf :=
  let n := l.b.periodNs - l.tr.stallFrom
  let b1 := if l.tr.stall then l.b.bump K.stallCycles n else l.b
  ({ l with b := b1, tr := { l.tr with stallFrom := 0, stallUsed := 0, spent := false, cycle := 0 } }).judgeStall

/-! ### Low-power states (R315, R316) -/

/-- The loss record that waits, with its time-stamp: it goes before whatever record comes next (R307). -/
def Leaf.lossFirst (l : Leaf) (t : Nat) : List TrRec := if 0 < l.tr.lost then (l.preamble t l.b.steps l.b.domBit).1 else []

/-- Entry to L1 (k = 1) or L2 (k = 2) at time t (Table 12.4). [DEDUCED, assumption 73] -/
def Leaf.traceSleep (l : Leaf) (k t : Nat) : Leaf :=
  let l0 := l.stallFall l.tr.cycle
  if !l0.capturing then l0
  else
    let q := l0.tr.queue
    let l1 := Leaf.writeThrough t q { l0 with tr := { l0.tr with queue := [] } }
    if !l1.capturing then l1
    else
      let rs := l1.lossFirst t ++ [{ data := trStamp 6 k l1.b.domBit t, stamp := true, trigger := false }]
      if l1.tight rs then l1.putStop 1 t l1.b.steps l1.b.domBit
      else
        let l3 := l1.put rs t l1.b.steps
        if k = 2 then
          { l3 with b := l3.b.setNum K.traceState trFrozen, tr := { l3.tr with frozenFrom := l.trState } }
        else l3

/-- A stop instant that fell within L2 stops the unit on exit at time t (R316). [DEDUCED, assumption 73] -/
def Leaf.lateStop (l : Leaf) (k t : Nat) : Leaf :=
  match l.tr.stopAt with
  | some s => if k = 2 ∧ s ≤ t ∧ l.trState = trTriggered then l.traceHalt 0 t else l
  | none => l

/-- Exit from L1 or L2 at time t: what was captured before it is written, then the resume marker and a time-stamp of reason 4; a
stop instant that fell in between stops the unit (R315, R316). [DEDUCED, assumption 73] -/
def Leaf.traceWake (l : Leaf) (k t : Nat) : Leaf :=
  let back := if k = 2 ∧ l.trState = trFrozen then l.tr.frozenFrom else l.trState
  if back ≠ trArmed ∧ back ≠ trTriggered then l
  else
    let l0 := { l with b := l.b.setNum K.traceState back, tr := { l.tr with frozenFrom := 0 } }
    let l1 := Leaf.writeThrough t l0.tr.queue { l0 with tr := { l0.tr with queue := [] } }
    if !l1.capturing then l1
    else
      let rs := l1.lossFirst t ++ [{ data := trHead 7 k 0, stamp := false, trigger := false },
        { data := trStamp 2 4 l1.b.domBit t, stamp := true, trigger := false }]
      if l1.tight rs then l1.putStop 1 t l1.b.steps l1.b.domBit
      else
        (l1.put rs t l1.b.steps).lateStop k t

/-! ### Readout (R318) -/

/-- The held records from the oldest that carries a TIME96 (R318). -/
def Trace.linear (t : Trace) : List Byte := ((t.ring.dropWhile (fun r => !r.stamp)).map (·.data)).flatten

/-- The length of what a read presents (0x0C00:21). -/
def Trace.held (t : Trace) : Nat := ((t.ring.dropWhile (fun r => !r.stamp)).map (fun r => r.data.length)).sum

end Sys2Proof.Machine
end

