-- ==== Sys2Proof/Machine/LeafUnit.lean ====
section
/-! DEFINITION. A leaf as a whole: how its dictionary is read, checked and acted on, its frame packet (R180, R181), the
opening of a frame (R36, R92, R116, R372), its low-power states (Table 15.5) and its resets (Tables 15.8 and 18.5). -/

namespace Sys2Proof.Machine

/-! ### Dictionary -/

/-- The value in force of an object of a leaf. -/
def Leaf.val (l : Leaf) (key : Nat) : Val :=
  if key = K.fenceVector then .bytes (natLe 128 l.b.fenceVector)
  else if key = K.ackVector then .bytes (natLe 128 l.fen.ack)
  else if key = K.toleranceTable then .bytes l.ts.tableBytes
  else if key = K.coresLearned then .num (l.ts.learned (l.b.num K.coreCount))
  else if key = K.traceBuffer then .bytes l.tr.linear
  else if key = K.bytesHeld then .num l.tr.held
  else (l.b.view key).getD (l.b.val key)

/-- A read by a request: a read of tsq_pop takes the oldest entry (R61). -/
def Leaf.rd (l : Leaf) (key : Nat) : Val × Leaf :=
  if key = K.tsqPop then
    let r := l.b.tsqPop
    (.bytes r.1, { l with b := r.2 })
  else (l.val key, l)

/-- The trace buffer is read only while the unit is idle (R318). -/
def Leaf.readStatus (l : Leaf) (key : Nat) : Nat :=
  if key = K.traceBuffer ∧ l.trState ≠ trIdle then stWrong else stOk

/-- A committed transaction writes TRUE to the swap object `key` (R120, R166). -/
def Blk.swapCommitted (b : Blk) (key : Nat) : Bool :=
  b.txns.any (fun t => (t.state == .committed || decide (0 < t.storing)) && t.items.contains (key, .num 1))

/-- Whether a standby table may be loaded now (R120, R166). -/
def Leaf.loadStatus (l : Leaf) (key : Nat) : Nat :=
  if key = K.seriesTableStandby ∧ l.b.swapCommitted K.seriesSwap = true then stWrong
  else if key = K.tensorTableStandby ∧ l.b.swapCommitted K.tensorSwap = true then stWrong
  else stOk

/-- Every region of the map is off in the values judged (Table 15.5). -/
def Leaf.allOff (l : Leaf) (view : Nat → Val) : Bool :=
  (l.b.bytes K.regionMap).all (fun x => decide (32 ≤ x.toNat) || bit (view (regionKey x.toNat)).toNum 3)

/-- The conditions of Table 15.5 on a write of power_state. -/
def Leaf.powerStatus (l : Leaf) (view : Nat → Val) (v : Nat) : Nat :=
  let p := l.b.num K.powerStateNow
  let ok := match v with
    | 0 => true
    | 1 => decide (p < 2)
    | 2 => decide (p < 2) && l.allOff view
    | _ => p == 2 && l.b.num K.bringupState == 0x0A
  if ok then stOk else stWrong

/-- The parent that is not in use (R396). -/
def Blk.otherParent (b : Blk) : Nat :=
  if b.inUse = b.num K.parentActive then b.num K.parentStandby else b.num K.parentActive

/-- The other parent has sent a control fragment in the last two frames (R396). -/
def Blk.otherHeard (b : Blk) : Bool :=
  let p := b.otherParent
  decide (p ≠ noChan) && (b.link.heardFrom p || b.link.heardBefore.contains (chanAddr p))

/-- The leaf is a member (R389, Table 16.7). -/
def Leaf.member (l : Leaf) : Bool :=
  let s := l.b.num K.bringupState
  s == 8 || s == 9 || s == 0x0A

/-- The check of a written object against the leaf's state (R93, step 6 of R442). -/
def Leaf.status (l : Leaf) (src : Word) (viaTxn : Bool) (view : Nat → Val) (key : Nat) (v : Val) : Nat :=
  let n := v.toNum
  if key = K.seriesSwap then
    (if n = 1 ∧ seriesTableOk (l.b.num K.framePeriodActive) (view K.seriesTableStandby).toBytes = false then stRange else stOk)
  else if key = K.tensorSwap then
    (if n = 1 ∧ tensorTableOk (view K.tensorTableStandby).toBytes = false then stRange else stOk)
  else if key = K.seriesTableStandby ∨ key = K.tensorTableStandby then l.loadStatus key
  else if key = K.toleranceFloor then (if (view K.toleranceCeiling).toNum < n then stRange else stOk)
  else if key = K.toleranceCeiling then (if n < (view K.toleranceFloor).toNum then stRange else stOk)
  else if regionKey 0 ≤ key ∧ key < regionKey 32 then
    let clears := bit (l.b.num key) 3 && !bit n 3
    if clears && src != chanAddr l.b.inUse then stWrong
    else if clears && l.b.num K.powerStateNow == 2 && (view K.powerState).toNum != 0 then stWrong
    else stOk
  else if key = K.powerState then l.powerStatus view n
  else if key = K.traceCommand then l.traceStatus (view K.traceAuthorised).toNum n
  else if key = K.joinAssign then
    (if viaTxn && !l.member && src == chanAddr (n / 32) then stOk else stWrong)
  else if key = K.moveParent then (if l.b.applying && !l.b.otherHeard then stWrong else stOk)
  else l.b.commonStatus view key v

/-! ### Power states (Table 15.5, R371, R372) -/

/-- ENTER_L1 (R371, R315). -/
def Leaf.enterL1 (l : Leaf) (t : Nat) : Leaf :=
  if l.b.num K.powerStateNow ≠ 0 then l
  else
    let l1 := { l with b := (l.b.setNum K.powerState 1).setNum K.powerStateNow 1 }
    l1.traceSleep 1 t

/-- ENTER_L2 (R372, R315): no packet of the frame is sent, and the sampler keeps nothing of the frames before: neither last nor latched
values. The beats in assay's snoop buffer are digested first (R163). [DESIGN CHOICE, assumption 87] -/
def Leaf.enterL2 (l : Leaf) (t : Nat) : Leaf :=
  if 2 ≤ l.b.num K.powerStateNow then l
  else
    let l1 := { l with b := (l.b.setNum K.powerState 2).setNum K.powerStateNow 2, smp := Sampler.reset, sends := false }
    (l1.asy.snoop.foldl (fun (x : Leaf) _ => x.digestNext) l1).traceSleep 2 t

/-- ENTER_L0 (R371, R372): from L1 the trace resumes; from L2 the packet of the frame is a heartbeat, every tensor is
late and the count of silent frames of the parent starts afresh. -/
def Leaf.enterL0 (l : Leaf) (t : Nat) : Leaf :=
  let p := l.b.num K.powerStateNow
  if p = 0 then l
  else
    let b1 := (l.b.setNum K.powerState 0).setNum K.powerStateNow 0
    if p = 1 then ({ l with b := b1 }).traceWake 1 t
    else
      let b2 : Blk := { b1 with link := { b1.link with silent := 0 } }
      ({ l with b := b2, heartbeat := true }).allLate.traceWake 2 t

/-- ENTER_L3 (R371): the leaf stops; its journal and memory are lost. -/
def Leaf.enterL3 (l : Leaf) : Leaf :=
  let off := Leaf.reset
  let b1 : Blk := { off.b with phase := .off, out := l.b.out, free := l.b.free }
  { off with b := b1, tapIr := l.tapIr }

/-- power_state takes effect. -/
def Leaf.powerAct (l : Leaf) (v t : Nat) : Leaf :=
  match v with
  | 0 => l.enterL0 t
  | 1 => l.enterL1 t
  | 2 => l.enterL2 t
  | _ => l.enterL3

/-! ### Acts -/

/-- Fault records owed since a cold start or a reset join the packet of the open frame (R345, R379, R384). -/
def Leaf.payOwed (l : Leaf) : Leaf :=
  let l1 := l.owed.foldl (fun acc o => acc.fault acc.b.now o.1 5 (acc.id * 2 ^ 30 + o.2.1) o.2.2 0) l
  { l1 with owed := [] }

/-- JOIN_ASSIGN (R389, Table 16.5): the leaf takes its identifier and home channel and is a member. -/
def Leaf.joinAssign (l : Leaf) (v : Nat) : Leaf :=
  let home := v / 32
  let b1 := (((l.b.setNum K.leafId v).setNum K.parentActive home).setNum K.parentInUse home).setNum K.bringupState 8
  let b2 : Blk := { b1 with link := { b1.link with attached := false, leaving := 0xFFFFFFFF, credits := 0, silent := 0 } }
  ({ l with b := b2 }).payOwed

/-- REPAIR_ADD (R387): each row takes the lowest spare of its array. -/
def Leaf.repairAdd (l : Leaf) (v : List Byte) : Leaf :=
  { l with b := (l.b.mapPlaces false ((pieces 4 v).map (fun e => bits (leNat e) 0 21))).1 }

/-- MOVE_PARENT (R396): the leaf attaches to its other parent. -/
def Leaf.moveParent (l : Leaf) : Leaf :=
  if l.b.otherParent = noChan then l
  else { l with b := (l.b.switchTo l.b.otherParent).bump K.parentSwitches }

/-- The effect of an accepted write on a leaf. -/
def Leaf.act (l : Leaf) (key : Nat) (v : Val) : Leaf :=
  let n := v.toNum
  let t := l.actTime
  if key = K.seriesSwap then (if n = 1 then l.swapSeries else l)
  else if key = K.tensorSwap then (if n = 1 then l.swapTensors else l)
  else if key = K.sampleRatio then l.setRatio n
  else if key = K.relearn then l.relearnAct v.toBytes
  else if key = K.traceCommand then l.traceAct n t
  else if key = K.traceAuthorised then
    let l1 := { l with b := l.b.setNum key n }
    if n = 0 ∧ l.capturing = true then l1.traceHalt 2 t else l1
  else if key = K.stallEnable then ({ l with b := l.b.setNum key n }).judgeStall
  else if key = K.routingNotify then l.routingNotify v.toBytes
  else if key = K.powerState then l.powerAct n t
  else if key = K.joinAssign then l.joinAssign n
  else if key = K.repairAdd then l.repairAdd v.toBytes
  else if key = K.moveParent then l.moveParent
  else if coreKey 0 ≤ key ∧ key < regionKey 0 then
    let c := (key / 256 - 0x4000) * 128 + key % 256 - 1
    let old := l.b.num key
    ({ l with b := l.b.setNum key n }).coreWritten c old n
  else if regionKey 0 ≤ key ∧ key < regionKey 32 then
    let old := l.b.num key
    ({ l with b := l.b.setNum key n }).regionWritten (key - regionKey 0) old n
  else { l with b := l.b.commonAct key v }

/-- The tables that a committed swap stores (R91, R120, R166). -/
def Leaf.copies (l : Leaf) (key : Nat) : List (Nat × Val) :=
  if key = K.seriesSwap then
    let t := l.b.bytes K.seriesTableStandby
    [(K.seriesTableActive, .bytes t), (K.seriesCount, .num (t.length / 8))]
  else if key = K.tensorSwap then
    let t := l.b.bytes K.tensorTableStandby
    [(K.tensorTableActive, .bytes t), (K.tensorCount, .num (t.length / 32))]
  else []

/-- The leaf as a Bivan endpoint. -/
def leafEnv : Env Leaf :=
  { blk := fun l => l.b
    put := fun l b => { l with b := b }
    val := Leaf.val
    rd := Leaf.rd
    rchk := Leaf.readStatus
    chk := Leaf.status
    seg := Leaf.loadStatus
    segd := fun l _ _ => l
    miss := fun l _ _ => l
    images := fun _ _ => []
    commitChk := fun _ _ _ _ _ => stOk
    act := fun l _ key v => l.act key v
    clasp := fun _ => true
    staged := fun l _ _ => l
    copies := Leaf.copies
    stored := fun l j => { l with stores := l.stores ++ [j] }
    current := fun l src num => { l with currents := l.currents ++ [(src, num)] }
    forward := fun l _ _ _ _ _ => l
    passReq := fun l _ _ _ => l
    passResp := fun l _ _ => l }

/-! ### The packet (R180, R181) -/

/-- Split off what may ride in the packet of `f`: records of frames up to `f`, in order, as far as they fit; the rest
waits for the next packet. -/
def takeDue (f room : Nat) (q : List (Nat × List Byte)) : List Byte × List (Nat × List Byte) :=
  let r := fitRecords room ((q.filter (fun e => decide (e.1 ≤ f))).map (·.2))
  (r.1, r.2.map (fun d => (f + 1, d)) ++ q.filter (fun e => !decide (e.1 ≤ f)))

/-- The header of a leaf's packet. -/
def Leaf.header (l : Leaf) (f tag part epoch values : Nat) (aligned missed : Bool) : PktHdr :=
  { frame := f, source := l.b.addr.toNat, tag := tag, part := part, aligned := aligned, missed := missed,
    shortBelow := false, short := l.b.isShort f, seriesCount := values, contributors := 1, members := 1,
    memberChannels := 0, tableEpoch := epoch }

/-- The leaf set of its own packets (R193): the leaf itself. -/
def Leaf.ownSet (l : Leaf) : List SetEntry := [{ channel := l.id / 32, bits := 2 ^ (l.id % 32) }]

/-- Journal the packet of frame f (R198). -/
def Leaf.sendPacket (l : Leaf) (h : PktHdr) (secs : List (List Byte)) : Leaf :=
  { l with b := l.b.journalPut (JEntry.fresh h.frame none (packetBytes h secs) [(h.frame, l.ownSet)]) }

/-- The rule inputs and fault records that ride in the packet of `f` (R181). -/
def Leaf.takeReports (l : Leaf) (f : Nat) : List Byte × List Byte × Leaf :=
  let rules := takeDue f 2048 l.ruleQ
  let faults := takeDue f 2048 l.faultQ
  (rules.1, faults.1, { l with ruleQ := rules.2, faultQ := faults.2 })

/-- The packet being gathered is completed and journalled (R152, R180, R181, R198). [DEDUCED, assumption 35] -/
def Leaf.sealDraft (l : Leaf) : Leaf :=
  match l.draft with
  | none => l
  | some d =>
    let l0 := { l with draft := none }
    let ts := l0.sealTouch d.frame
    let r := ts.2.takeReports d.frame
    let l2 := r.2.2
    let states := if d.values.all (fun v => decide (v.1 = 0)) then [] else packStates (d.values.map (·.1))
    l2.sendPacket (l2.header d.frame d.tag d.part d.tableEpoch d.values.length d.aligned false)
      [d.values.flatMap (fun v => natLe 4 v.2), states, [], [], d.barrier, ts.1, d.assay.flatMap (natLe 32), r.1,
       d.acks.flatMap ackBytes, r.2.1]

/-- TS_SECTION_SEAL (R152): at its cycle the touchstone section is sealed, and with it the packet. [DEDUCED, assumption 35] -/
def Leaf.sectionSeal (l : Leaf) : Leaf := l.sealDraft

/-- The packets of missed frames, from `k`, `n` of them: zero series and the missed flag (R49), with the summary and the rule input that
every packet has (R144, R153) and the reports that wait. [DEDUCED, assumption 16] -/
def Leaf.sendMissed (l : Leaf) (k n : Nat) : Leaf :=
  (List.range n).foldl (fun acc i =>
    let x := acc.b.tsFrame (k + i)
    let r := (acc.touchReports x).takeReports (k + i)
    r.2.2.sendPacket (acc.header (k + i) acc.openTag acc.openPart acc.tableEpoch 0 (acc.b.num K.alignmentAssured == 1) true)
      [[], [], [], [], [], x.section_ 0 (x.cores - acc.ts.learned x.cores), [], r.1, [], r.2.1]) l

/-! ### The opening of a frame -/

/-- The close of the open frame (R43, R112, R113, R118, R126, R132, R201, R313): in L2 no sampling, no acknowledgement
checks and no count of silent frames (R372). -/
def Leaf.closeFrame (l : Leaf) : Leaf :=
  if !l.b.frameIsOpen then l
  else
    let f := l.b.now
    let awake := decide (l.b.num K.powerStateNow < 2)
    let l1 := if awake then ((l.closeSampler f).closeRegions).findLost f else l
    let l2 := l1.closeTrace
    let l3 := { l2 with b := (l2.b.judgeShortRun).closeLink awake }
    let l4 := l3.sealDraft
    if !l.sends then l4
    else
      let ser := if l.heartbeat then ([], l4) else l4.sampleSeries f
      let asy := ser.2.takeAssay f
      let l5 := asy.2
      let acks := l5.b.takeAcks f
      let d : Draft :=
        { frame := f, tag := l.openTag, part := l.openPart, aligned := l.b.num K.alignmentAssured == 1,
          heartbeat := l.heartbeat, tableEpoch := l.tableEpoch, values := ser.1,
          barrier := l1.barrierSection, assay := asy.1, acks := acks.1 }
      let b1 : Blk := acks.2
      { l5 with draft := some d, b := b1, heartbeat := false }

/-- A leaf that entered a withdrawal reads withdrawn once its parent has acknowledged its last live packet (Table 15.5,
Table 16.7). [DEDUCED, assumption 64] -/
def Leaf.judgeLeaving (l : Leaf) (k : Nat) : Leaf :=
  let due := match l.leaveAt with | some w => decide (w ≤ k) | none => false
  let l1 := if due && l.b.num K.bringupState == 8 then { l with b := l.b.setNum K.bringupState 9 } else l
  if l1.b.num K.bringupState = 9 ∧ l1.b.num K.powerStateNow = 2 ∧ l1.draft.isNone = true ∧ l1.b.journal.isEmpty = true then
    { l1 with b := l1.b.setNum K.bringupState 0x0A }
  else l1

/-- The first frame after bring-up or a reset: the leaf is ready (R378, R383). -/
def Leaf.firstFrame (l : Leaf) (k : Nat) : Leaf :=
  let l1 := { l with owed := l.owed.map (fun o => (o.1, o.2.1, if o.2.2 = 0 then k else o.2.2)) }
  if l1.b.phase = .cold ∨ l1.b.num K.bringupState = 5 then
    let d := l1.b.draw
    let ms := d.1 % 2 ^ 32
    let b1 := if l1.b.phase = .cold then d.2.setNum K.readyMs ms else l1.b
    let b2 : Blk := { b1 with phase := .run }
    { l1 with b := b2.setNum K.bringupState 7 }
  else l1

/-- Frame k opens: the frame before closes, transactions take effect, and the units work on k with the new values (R36,
R49, R92). `byStep` tells that a step of time opens it. -/
def Leaf.openFrame (l : Leaf) (k : Nat) (byStep : Bool) : Leaf :=
  if !l.b.mayOpen k && !byStep then { l with b := l.b.passBoundary k }
  else
    let f := l.b.now
    let wasOpen := l.b.frameIsOpen
    let l0 := if byStep then l else { l with b := l.b.advanceFrame (k * l.b.periodNs) }
    let l1 := l0.closeFrame
    let l2 := if wasOpen && byStep && l.sends then (l1.sealDraft).sendMissed (f + 1) (k - f - 1) else l1
    let l3 := ({ l2 with b := l2.b.setFrame k }).firstFrame k
    let l4 := if byStep then { l3 with b := l3.b.declareShort k causeStep } else l3
    let l5 := boundary leafEnv l4 k
    if l5.b.phase = .off then l5
    else
      let l6 := (l5.judgeLeaving k).openTouch k
      let l7 := l6.openSampler k
      let st := l7.b.num K.bringupState
      { l7 with
        b := l7.b.openLink true, openTag := l7.b.num K.jobTag, openPart := l7.b.num K.partitionId,
        sends := (st == 8 || st == 9) && decide (l7.b.num K.powerStateNow < 2),
        openAt := (l7.nowTime : Int) - (l7.b.servo l7.b.activeDom).corr }

/-- What a time command leaves: the frame that a step opens, and the trace's stop instant carried past (R49, R310). -/
def Leaf.afterTime (before : Leaf) (r : Blk × Option Nat) : Leaf :=
  let l1 := ({ before with b := r.1 }).stopAfterStep before.b.steps
  match r.2 with
  | some k => l1.openFrame k true
  | none => l1

/-! ### Resets (Tables 15.8 and 18.5) -/

/-- The objects that a leaf reset keeps: those of Table 18.5, and the repair list, which is reused (R346). -/
def leafKeeps (key : Nat) : Bool :=
  key == K.bringupFailure || key == K.lastResetKind || key == K.fastPathCount || key == K.readyMs ||
  key == K.toleranceTable || key == K.traceBuffer || key == K.bytesHeld || key == K.triggerTime ||
  (decide (coreKey 0 ≤ key) && decide (key < regionKey 32)) || key == K.lastUncorrectable ||
  key == K.repairList || key == K.sparesUsed

/-- Regions that the map names, one bit each. -/
def Blk.mappedRegions (b : Blk) : Nat :=
  (b.bytes K.regionMap).foldl (fun acc x => if x.toNat < 32 then setBit acc x.toNat else acc) 0

/-- A leaf reset starts (R377, R383, Table 15.8). -/
def Leaf.startReset (l : Leaf) : Leaf :=
  let b2 := ((l.b.softReset leafKeeps).discard (fun _ => false)).setNum K.lastResetKind 3
  let fresh := Leaf.reset
  { fresh with
    b := b2,
    fen := { Fence.reset with ack := l.fen.ack },
    reg := { Regions.reset with pending := l.b.mappedRegions, settle := l.reg.settle },
    ts := { Touch.reset with table := l.ts.table, base := b2.num K.sampleRatio },
    tr := { Trace.reset with ring := l.tr.ring, pos := l.tr.pos },
    owed := l.owed, leaveAt := none, tapIr := l.tapIr }

/-- LEAF_RESET_REQUEST (R377): a running leaf takes a leaf reset. -/
def Leaf.resetRequest (l : Leaf) : Leaf := if l.b.live then l.startReset else l

/-- A cold start begins, keeping the objects of `keep` (R379, R384): memory self-test is the leaf's first phase. The reset is
released, and the leaf sends its initial credits (R111, Table 17.4). [DEDUCED, assumption 33] [DEDUCED, assumption 71] -/
def Leaf.startCold (l : Leaf) (keep : Nat → Bool) (owed : List (Nat × Nat × Nat)) : Leaf :=
  let b1 := (l.b.coldReset keep).setNum K.bringupState 2
  let fresh := Leaf.reset
  { fresh with
    b := b1.emit (.credit 256), ts := { Touch.reset with base := b1.num K.sampleRatio }, owed := owed, tapIr := l.tapIr }

/-- ALWAYS_ON_RESET_ASSERT (R407): the leaf enters reset; everything is lost. -/
def Leaf.resetAssert (l : Leaf) : Leaf :=
  let fresh := Leaf.reset
  let b1 : Blk := { fresh.b with out := l.b.out, free := l.b.free }
  { fresh with b := b1 }

/-- LEAF_POWER_ON (R407, R378): the release of rst_aon_n starts the cold start. -/
def Leaf.powerOn (l : Leaf) : Leaf :=
  match l.b.phase with
  | .asserted => l.startCold (fun _ => false) []
  | .off => l.startCold (fun _ => false) []
  | _ => l

/-- SELFTEST_DONE of a leaf (R379, R384): the time phase follows, or the leaf fails on exhausted spares. -/
def Leaf.selftestDone (l : Leaf) (rows : List (BitVec 10 × BitVec 12)) : Leaf :=
  if l.b.phase ≠ .cold ∨ l.b.num K.bringupState ≠ 2 then l
  else
    let r := l.b.selftest rows []
    let owed := l.owed ++ (rowPlaces rows).map (fun p => (0x16, p, 0))
    if r.2 then
      let b1 : Blk := { r.1 with phase := .failed }
      { l with b := (b1.setNum K.bringupState 0x0F).setNum K.bringupFailure 1, owed := owed }
    else
      let b1 := r.1.setNum K.bringupState 5
      { l with b := b1, owed := owed }

/-- SRAM_UNCORRECTABLE of a leaf (R345): the address is kept and the leaf takes a leaf reset; its record is sent after
the join. -/
def Leaf.uncorrectable (l : Leaf) (array row : Nat) : Leaf :=
  if !l.b.live then l
  else
    let place := array * 2048 + row
    let l1 := { l with b := l.b.setNum K.lastUncorrectable (5 * 2 ^ 48 + l.id * 2 ^ 30 + place),
                       owed := l.owed ++ [(0x11, place, l.b.now)] }
    l1.startReset

/-- FAST_PATH_DONE of a leaf (R383, R384): the first frame opens with time kept, or the leaf waits for its servo; an
uncorrectable word found by the scrub starts a cold start. -/
def Leaf.fastPathDone (l : Leaf) (scrub : Option Nat) (refOk : Bool) (k ms : Nat) : Leaf :=
  if l.b.phase ≠ .fast then l
  else match scrub with
    | some w =>
      let l1 := l.startCold (fun key => key == K.lastUncorrectable)
        (l.owed ++ [(0x11, w % 2 ^ 21, l.b.now)])
      { l1 with b := l1.b.setNum K.lastUncorrectable w }
    | none =>
      let b0 := if refOk then { l.b with phase := .run, needLock := false } else { l.b.loseTime with phase := .run }
      let b1 := (((b0.bump K.fastPathCount).setNum K.readyMs ms).setNum K.bringupState 5).resume k
      let l1 := { l with b := b1.emit (.credit 256) }
      if refOk then l1.openFrame k false else l1

end Sys2Proof.Machine
end

