-- ==== Sys2Proof/Machine/State.lean ====
section
/-! DEFINITION. The state of the machine: one leaf build, the four channels of one tray build, their shared logic, and the
commands that wait. Everything else of a fleet is surroundings: it sends commands, and what leaves the blocks is recorded
in their `out` lists. -/

namespace Sys2Proof.Machine

/-- The machine stops with a fault. The spec gives every command an effect, a response or a discard on every state, so no
command raises one: the type has no constructor. -/
inductive Fault where
  deriving DecidableEq, Repr

/-- Why a command has no meaning here. -/
inductive Refusal where
  /-- The command's row has no meaning in this model: raised by Dispatch alone, and safe, since nothing can be proved of
  it. -/
  | notModelled (mnemonic : String)
  deriving DecidableEq, Repr

/-- The whole state. [DESIGN CHOICE, assumption 4] -/
structure State where
  /-- Commands that wait, first in, first out. -/
  pending : List Instr
  leaf : Leaf
  ch : Quad Chan
  sh : Shared
  deriving DecidableEq, Repr

/-- Both builds with their reset inputs low (R406, R407, R417): every register at its reset value, and no command. [DESIGN CHOICE, assumption 3] -/
def State.reset : State :=
  { pending := [], leaf := Leaf.reset,
    ch := { c0 := Chan.reset 0, c1 := Chan.reset 1, c2 := Chan.reset 2, c3 := Chan.reset 3 }, sh := Shared.reset }

end Sys2Proof.Machine
end

