-- ==== Sys2Proof/Machine/Glue.lean ====
section
/-! DEFINITION. How a command reaches the leaf or a channel, and what follows from it: responses reach the mailbox and the
sideband (R86, R423), fault records the history (R352), stores the flash of every channel that keeps a copy (R74, R440), and
the shared logic settles (R360, R397, R404). -/

namespace Sys2Proof.Machine

/-- What a meaning answers. -/
abbrev Answer := Host.Outcome State Fault Refusal

/-- The four channels of a tray. -/
def allCh : List Ch := [0, 1, 2, 3]

/-- One channel. -/
def State.chan (s : State) (c : Ch) : Chan := s.ch.get c

/-- Replace a channel. -/
def State.putChan (s : State) (c : Ch) (x : Chan) : State := { s with ch := s.ch.set c x }

/-- The units of a block work: it runs, or is in a cold start. -/
def Blk.works (b : Blk) : Bool :=
  match b.phase with
  | .run => true
  | .cold => true
  | _ => false

/-- The channel is in C0 (Table 15.6): its clocks run. -/
def Chan.inC0 (c : Chan) : Bool :=
  match c.b.phase with
  | .asserted => false
  | .retained => false
  | .off => false
  | _ => true

/-! ### The shared logic settles -/

/-- The voltages that the channels in C0 need (R360). -/
def State.needs (s : State) : List Nat := ((s.ch.toList).filter Chan.inC0).map (fun c => c.b.num K.channelNeedMv)

/-- The holder has entered C2 or C3: the clasp is released (R404). -/
def State.released (s : State) : Bool :=
  allCh.any (fun c => decide (s.sh.holder = c.val) && ((s.chan c).b.phase == .retained || (s.chan c).b.phase == .off))

/-- What follows in the shared logic from the channels as they stand: the release of the clasp (R404), a rise of the core
target (R360), and removal_ready (R397). -/
def State.settle (s : State) : State :=
  if !s.sh.powered then s
  else
    let sh1 : Shared := if s.released then { s.sh with holder := 0xFF, freed := (s.ch.toList).map (fun c => c.b.now) } else s.sh
    let out := (s.ch.toList).all (fun c => c.b.num K.bringupState == 0x0A)
    { s with sh := (sh1.raiseTarget s.needs).setNum K.removalReady (if out then 1 else 0) }

/-! ### Stores of tray-level objects (R440) -/

/-- The channel keeps copies of tray-level objects now: it is in C0 with its restore done, or in C2. -/
def Chan.keepsCopies (c : Chan) : Bool :=
  c.b.phase == .run || c.b.phase == .retained || (c.b.phase == .cold && c.start.restored)

/-- The store of a tray-level object under a generation, for one of the channel's own stores; none for the others. -/
def trayJob (c : Ch) (gen : Nat) : FlashJob → Option FlashJob
  | .item src seq at_ key v => if isTray key then some (.tray c.val gen src seq (some at_) key v) else none
  | .copy src num key v => if isTray key then some (.tray c.val gen src num none key v) else none
  | .firmware _ => none
  | .tray .. => none

/-- Stores of tray-level objects that a channel has just begun are made in every channel that keeps copies, each under the
next tray generation; the request or transaction waits for all of them. -/
def State.fanOut (s : State) (c : Ch) : State :=
  let b := (s.chan c).b
  if b.jobs.all (fun j => (trayJob c 0 j).isNone) then s
  else
    let others := allCh.filter (fun d => d != c && (s.chan d).keepsCopies)
    let n := others.length
    let r := b.jobs.foldl (fun (acc : List FlashJob × List FlashJob × Nat) j =>
      match trayJob c ((acc.2.2 + 1) % 2 ^ 32) j with
      | none => (acc.1 ++ [j], acc.2.1, acc.2.2)
      | some t => (acc.1 ++ [t], acc.2.1 ++ [t], (acc.2.2 + 1) % 2 ^ 32)) ([], [], s.sh.gen)
    let ofItem := fun (e : Exec) => (r.2.1.filter (fun j => match j with
      | .tray _ _ src num (some _) _ _ => src == e.src && num == e.seq
      | _ => false)).length
    let ofTxn := fun (t : Txn) => (r.2.1.filter (fun j => match j with
      | .tray _ _ src num none _ _ => src == t.src && num == t.num
      | _ => false)).length
    let b1 : Blk := { b with jobs := r.1, execs := b.execs.map (fun e => { e with waiting := e.waiting + n * ofItem e }),
                             txns := b.txns.map (fun t => { t with storing := t.storing + n * ofTxn t }) }
    let s1 := s.putChan c { s.chan c with b := b1 }
    let s2 := others.foldl (fun (acc : State) d =>
      acc.putChan d ((acc.chan d).onB (fun x => { x with jobs := x.jobs ++ r.2.1 }))) s1
    { s2 with sh := { s2.sh with gen := r.2.2 } }

/-- The generation in a stored tray-level copy. -/
def FlashRec.gen (r : FlashRec) : Nat := leAt r.v.toBytes 0 4

/-- Copies of tray-level objects become current in every channel (R91, R440). -/
def State.promoteOne (s : State) (t : Word × Word) : State :=
  let mine := (s.ch.toList).flatMap (fun c => c.flash.filter (fun r => r.node == c.b.hostAddr && r.pend == some t))
  if mine.isEmpty then s
  else
    { s with ch := s.ch.map (fun c => c.promote c.b.hostAddr t.1 t.2),
             sh := { s.sh with gens := mine.foldl (fun g r => mset (fun _ => 0) g r.key r.gen) s.sh.gens } }

/-- Every copy that a boundary or a finished WRITE has made current. -/
def State.promoteAll (s : State) : State :=
  let s1 := s.sh.currents.foldl State.promoteOne s
  { s1 with sh := { s1.sh with currents := [] } }

/-! ### Responses (R85, R86, R423) -/

/-- Put words into a message buffer from word `k` on. -/
def putWords (m : NMap Nat) : Nat → List Nat → NMap Nat
  | _, [] => m
  | k, w :: ws => putWords (mset (fun _ => 0) m k w) (k + 1) ws

/-- A response reaches the mailbox that waits for one (R423 step 4). -/
def Chan.deliverHost (c : Chan) (r : Resp) : Chan :=
  if !c.win.busy then c
  else
    let d := respBytes r
    let w : Win := { c.win with busy := false, rspReady := true, rspLen := d.length,
                                rsp := putWords c.win.rsp 0 ((pieces 4 d).map leNat) }
    { c with win := w, b := (c.b.raiseEvt irqMailbox).emit .mailbox }

/-- What left the block since `before`. -/
def Chan.newOut (c before : Chan) : List Out := c.b.out.drop before.b.out.length

/-- Responses go where their requests came from: the mailbox, or the sideband's queue. -/
def Chan.deliver (c before : Chan) : Chan :=
  (c.newOut before).foldl (fun acc o => match o with
    | .resp .host r => acc.deliverHost r
    | .resp .sideband r => { acc with side := acc.side ++ [respBytes r] }
    | _ => acc) c

/-- A sideband response has become ready. -/
def Chan.newSide (c before : Chan) : Bool :=
  (c.newOut before).any (fun o => match o with | .resp .sideband _ => true | _ => false)

/-! ### Fence authority (R133) -/

/-- The home leaves are written a fence authority for a frame. -/
def Chan.sendAuthority (c : Chan) (w : Wr) (apply : Nat) : Chan :=
  (c.tree.children.filter (fun x => x.kind == .leaf && x.member && decide (x.pos < 24))).foldl
    (fun a x => a.remoteTxn x.addr .plain [w] apply) c

/-- The compensations begun since `before` that will restore fence_authority (R106): the value and the frame. One whose transaction has not
applied yet will restore what is in force now. -/
def Blk.authorityBack (b before : Blk) : List (Wr × Nat) :=
  (b.fleet.filter (fun r => decide (0 < r.compAt) && !before.fleet.any (fun o => o.seq == r.seq && decide (0 < o.compAt)))).filterMap
    (fun r => match b.undo.find? (fun u => u.seq == r.seq) with
      | some u => (u.prior.find? (fun w => w.1 == K.fenceAuthority)).map (fun w => (w, r.compAt))
      | none => if r.staged.any (fun w => w.1 == K.fenceAuthority) then some ((K.fenceAuthority, .num (b.num K.fenceAuthority)), r.compAt)
        else none)

/-- Fence_authority will change, by a transaction that has been committed or by a compensation: the home leaves are written for the same
frame. -/
def Chan.spreadAuthority (c before : Chan) : Chan :=
  let new := c.b.txns.filter (fun t => t.state == .committed &&
    !before.b.txns.any (fun o => o.src == t.src && o.num == t.num && o.state == .committed))
  let writes := new.filterMap (fun t => (t.items.find? (fun w => w.1 == K.fenceAuthority)).map (fun w => (w, t.apply)))
  (writes ++ c.b.authorityBack before.b).foldl (fun acc p => acc.sendAuthority p.1 p.2) c

/-! ### Around a command -/

/-- The leaf learns that it leaves with the withdrawal of W, and reads so from W + 1 (Table 16.7). [DEDUCED, assumption 64] -/
def State.tellLeaf (s : State) (c : Ch) : State :=
  match ((s.chan c).tree.child s.leaf.b.addr).bind (·.leaving) with
  | none => s
  | some w =>
    if s.leaf.leaveAt.isNone && s.leaf.b.phase == .run && s.leaf.member && decide (s.leaf.b.inUse = (s.chan c).id) then
      { s with leaf := { s.leaf with leaveAt := some (w + 1) } }
    else s

/-- The transactions and stores begun since `before`, by source and number. -/
def Blk.begun (b before : Blk) : List (Word × Word) :=
  ((b.txns.map (fun t => (t.src, t.num))).filter (fun p => !before.txns.any (fun t => t.src == p.1 && t.num == p.2))) ++
    ((b.execs.map (fun e => (e.src, e.seq))).filter (fun p => !before.execs.any (fun e => e.src == p.1 && e.seq == p.2)))

/-- What `before` had committed or was storing, and is no longer so: a transaction that has ended or gone back to open, and a store that has
finished, by source and number. -/
def Blk.ended (b before : Blk) : List (Word × Word) :=
  let held := fun (t : Txn) => t.state == .committed || decide (0 < t.storing)
  ((before.txns.filter held).map (fun t => (t.src, t.num))).filter (fun p =>
      !b.txns.any (fun t => held t && t.src == p.1 && t.num == p.2)) ++
    ((before.execs.map (fun e => (e.src, e.seq))).filter (fun p => !b.execs.any (fun e => e.src == p.1 && e.seq == p.2)))

/-- Pending copies that have not become current belong to no committed transaction any more (R349): of numbers used anew, and of
transactions that have ended. -/
def State.dropStale (s : State) (node : Chan → Word) (gone : List (Word × Word)) : State :=
  if gone.isEmpty then s
  else { s with ch := s.ch.map (fun (x : Chan) => gone.foldl (fun a p => a.dropPending (node x) p.1 p.2) x) }

/-- What follows from a command of channel `c`, which stood as `before`. -/
def State.afterChan (s0 : State) (c : Ch) (before : Chan) : State :=
  let begun := (s0.chan c).b.begun before.b
  let own := (s0.chan c).b.addr
  let s := (s0.dropStale (fun _ => own) begun).dropStale (fun x => x.b.hostAddr) begun
  let x := s.chan c
  let s1 := s.putChan c (((x.deliver before).drainFaults).spreadAuthority before)
  let s2 : State := if x.newSide before then { s1 with sh := { s1.sh with muted := false } } else s1
  let ended := (s0.chan c).b.ended before.b
  (((((s2.fanOut c).tellLeaf c).promoteAll).dropStale (fun _ => own) ended).dropStale (fun x => x.b.hostAddr) ended).settle

/-- A command acts on a channel with the shared logic. -/
def State.onCS (s : State) (c : Ch) (f : CS → CS) : State :=
  let before := s.chan c
  let r := f { ch := before, sh := s.sh }
  ({ s with sh := r.sh }.putChan c r.ch).afterChan c before

/-- A command acts on a channel. -/
def State.onChan (s : State) (c : Ch) (f : Chan → Chan) : State := s.onCS c (fun x => x.on f)

/-- A command acts on a channel whose units work; at any other time nothing comes of it. -/
def State.atWork (s : State) (c : Ch) (f : Chan → Chan) : State := if (s.chan c).b.works then s.onChan c f else s

/-- The channel with an identifier, if its units work. -/
def State.chanOf (s : State) (id : Nat) : Option Ch := allCh.find? (fun c => decide ((s.chan c).id = id) && (s.chan c).b.works)

/-- Routing bitmaps of the leaf go to the egress of the channel that serves it (R134). -/
def State.takeNotices (s : State) : State :=
  if s.leaf.notices.isEmpty then s
  else
    let sub := s.leaf.b.num K.routingSubscriber
    let l := { s.leaf with notices := [] }
    match s.chanOf l.b.inUse with
    | some c => s.leaf.notices.foldl (fun acc n => acc.onChan c (fun x => x.routing l.id sub n)) { s with leaf := l }
    | none => { s with leaf := { l with b := s.leaf.notices.foldl (fun b n => b.emit (.notice l.b.inUse sub l.id n)) l.b } }

/-- Stores of the leaf go to the flash of its home channel, and pending copies become current there (R74, R91). -/
def State.takeStores (s : State) : State :=
  if s.leaf.stores.isEmpty && s.leaf.currents.isEmpty then s
  else
    let l := { s.leaf with stores := [], currents := [] }
    let s1 : State := { s with leaf := l }
    match s.chanOf (l.b.num K.parentActive) with
    | none => s1
    | some c =>
      let s2 := s.leaf.stores.foldl (fun acc j => acc.onChan c (fun x => x.storeDone l.b.addr j)) s1
      s.leaf.currents.foldl (fun acc t => acc.onChan c (fun x => x.promote l.b.addr t.1 t.2)) s2

/-- A command acts on the leaf. -/
def State.onLeaf (s : State) (f : Leaf → Leaf) : State :=
  let l := f s.leaf
  ((({ s with leaf := l }).dropStale (fun _ => l.b.addr) (l.b.begun s.leaf.b)).takeNotices).takeStores.dropStale
    (fun _ => l.b.addr) (l.b.ended s.leaf.b)

/-- A command acts on the leaf while its units work. -/
def State.leafWork (s : State) (f : Leaf → Leaf) : State := if s.leaf.b.works then s.onLeaf f else s

/-- A command acts on the leaf or on a channel. -/
def State.onNode (s : State) (n : Node) (l : Leaf → Leaf) (f : CS → CS) : State :=
  match n with
  | .leaf => s.onLeaf l
  | .chan c => s.onCS c f

/-- A command acts on the common part of a block that executes commands. -/
def State.onBlk (s : State) (n : Node) (f : Blk → Blk) : State :=
  match n with
  | .leaf => if s.leaf.b.live then s.onLeaf (fun l => { l with b := f l.b }) else s
  | .chan c => if (s.chan c).b.live then s.onChan c (fun x => x.onB f) else s

end Sys2Proof.Machine
end

