-- ==== Sys2Proof/Machine/Clasp.lean ====
section
/-! DEFINITION. The clasp (R399 to R404): heartbeats counted and claims timed in the channels, the window and the grant in the
shared logic. -/

namespace Sys2Proof.Machine

/-- The channel takes part in the clasp (R402, R403): it has become ready, and is in C0. -/
def Chan.mayClaim (c : Chan) : Bool :=
  c.b.phase == .run && decide (7 ≤ c.b.num K.bringupState) && decide (c.b.num K.bringupState ≤ 0x0A)

/-- The channel draws a back-off of 1 to 8 frames from frame `x` on (R403): the generator's draw is open. -/
def Chan.backOff (c : Chan) (x : Nat) : Chan :=
  let d := c.b.draw
  { c with b := d.2, claimAt := some (x + 1 + d.1 % 8) }

/-- The channel holds the clasp: it has been granted it, has not been refused since, and is H (R399, R401). -/
def CS.holds (s : CS) : Bool := s.sh.holder == s.ch.b.place && s.ch.b.num K.claspHeld == 1

/-- One frame has closed: without an accepted heartbeat the count of missed frames grows, and at the third the channel
claims in the frame that opens (R402). [DEDUCED, assumption 65] -/
def CS.countMissed (s : CS) : CS :=
  if s.holds || s.ch.beat || !s.ch.mayClaim then s
  else
    let n := s.ch.b.num K.claspMissed
    s.on (fun c => { c with b := c.b.setNum K.claspMissed (min 3 (n + 1)), claimDue := c.claimDue || decide (n = 2) })

/-- The clasp at the opening of a frame; `closed` tells that a frame of the channel closed. A channel that finds H at 0xFF, on
becoming ready or by a release, backs off from the frame in which it found it (R403). [DEDUCED, assumption 65] -/
def CS.claspFrame (s : CS) (closed : Bool) : CS :=
  let s1 := if closed then s.countMissed else s
  let s2 := s1.on (fun c => { c with beat := false })
  let k := s2.ch.b.now
  let found := if closed && decide ((s2.sh.freed[s2.ch.b.place]?).getD k + 1 = k) then k - 1 else k
  if s2.ch.mayClaim && decide (s2.sh.holder = 0xFF) && s2.ch.claimAt.isNone then s2.on (fun c => c.backOff found) else s2

/-- Channel `c` presents E_h + 1 (R400). -/
def CS.claim (s : CS) (c : Ch) : CS :=
  { s with ch := { s.ch with claimAt := none, claimDue := false }, sh := s.sh.claim c.val (s.sh.epoch + 1) }

/-- CLASP_CLAIM (R402). -/
def CS.claimMissed (s : CS) (c : Ch) : CS := if s.ch.claimDue && s.ch.mayClaim then s.claim c else s

/-- CLAIM_BACKOFF_EXPIRE (R403): the frame X + b has opened. -/
def CS.claimBackoff (s : CS) (c : Ch) : CS :=
  match s.ch.claimAt with
  | some x => if decide (x ≤ s.ch.b.now) && s.ch.mayClaim then s.claim c else s
  | none => s

/-- The epoch changes or a heartbeat is accepted: the count of missed frames returns to 0 (R402). -/
def Chan.claspSeen (c : Chan) : Chan := if c.b.works then { c with b := c.b.setNum K.claspMissed 0, claimDue := false } else c

/-- CLAIM_WINDOW_CLOSE (R400, R403): one channel is granted the clasp, or those that presented the highest epoch collide; every
other claimant steps down and backs off. -/
def State.closeClaims (s : State) : State :=
  let r := s.sh.closeWindow
  let s1 : State := { s with sh := r.2.2.2 }
  let s2 := r.2.1.foldl (fun (acc : State) i => match allCh.find? (fun c => c.val == i) with
    | some c => acc.putChan c ((acc.chan c).onB (fun b => b.bump K.claspCollisions))
    | none => acc) s1
  let s3 := r.2.2.1.foldl (fun (acc : State) i => match allCh.find? (fun c => c.val == i) with
    | some c => if (acc.chan c).mayClaim then acc.putChan c ((acc.chan c).backOff (acc.chan c).b.now) else acc
    | none => acc) s2
  match r.1 with
  | none => s3
  | some w => { s3 with ch := s3.ch.map (fun c =>
      let c1 := c.claspSeen
      if c.b.place = w then { c1 with b := c1.b.setNum K.claspHeld 1, claimAt := none } else c1) }

/-- CLASP_HEARTBEAT (R401): accepted from H with E_h, which cancels every pending claim (R403); a refused one ends the hold. -/
def State.heartbeat (s : State) (c : Ch) : State :=
  let x := s.chan c
  if !x.b.works || decide (x.b.num K.claspHeld = 0) then s
  else if s.sh.heartbeatOk c.val s.sh.epoch then
    { s with
      sh := { s.sh with beats := (s.sh.beats + 1) % 65536 },
      ch := s.ch.map (fun y => if y.b.works then
        { y.claspSeen with beat := true, claimAt := if y.b.place = c.val then y.claimAt else none } else y) }
  else s.putChan c (x.onB (fun b => (b.setNum K.claspHeld 0).bump K.claspDepositions))

end Sys2Proof.Machine
end

