-- ==== Sys2Proof/Machine/ChanFrame.lean ====
section
/-! DEFINITION. The frames of a channel: what the close of a frame does (Table 1.4, R195, R211, R232, R263), what its opening
does (R92, R179, R387, R397), and the work that a unit leaves over (R40). -/

namespace Sys2Proof.Machine

/-! ### The close of a frame -/

/-- The deadlines that pass when frame k opens after f: each level with the frames whose sections are complete (R195). -/
def Tree.deadlines (t : Tree) (f k : Nat) : List (Nat × Nat) :=
  (List.range (k - f)).flatMap (fun i =>
    ([1, 2, 3].filter (fun l => decide (levelDelay l ≤ f + i))).filterMap (fun l =>
      let g := f + i - levelDelay l
      if (t.levels g).contains l then some (l, g) else none))

/-- The channel sends live packets of frame `g`: as a member, and during its withdrawal of the frames before it (R391, R397). -/
def Chan.sendsOf (c : Chan) (g : Nat) : Bool :=
  decide (c.b.num K.bringupState = 8) ||
    (decide (c.b.num K.bringupState = 9) && (match c.leaveAt with | some w => decide (g < w) | none => true))

/-- Late blocks that have joined the aggregates of the level which a channel below the fleet root tops are handed out (R195,
R197, R285); `before` is the channel before they went up. -/
def Chan.handSent (c before : Chan) : Chan :=
  let top := if c.b.num K.treeRole = 1 then 2 else 1
  let gone := before.tree.late.filter (fun l => l.sec.level == top && !c.tree.late.any (fun x => x.sec.uid == l.sec.uid) &&
    (match c.tree.sec l.sec.frame top with | some s => s.done | none => false))
  if c.b.num K.treeRole = 2 then c
  else ((gone.map (fun l => l.sec.frame)).eraseDups).foldl (fun acc f =>
    acc.handLate f top (((gone.filter (fun l => l.sec.frame == f)).flatMap (fun l => l.sec.slots.map (·.1))).eraseDups)) c

/-- A level's aggregate of a frame is complete: it is sent up, or handed out, and archived (R195, R285, R328). -/
def Chan.deadline (c : Chan) (p : Nat × Nat) : Chan :=
  let c1 := (((c.release p.2 p.1 (c.sendsOf p.2)).handAggregate p.2 p.1).handSent c).archive p.2 p.1
  if p.1 = 3 then c1.handed p.2 else c1

/-- Late data of fleet aggregates are handed out again (R195). -/
def Chan.handLateFleet (c : Chan) : Chan :=
  let late := c.tree.lateFor 3 none
  let r := c.lateFleet
  r.1.foldl (fun acc f =>
    let slots := ((late.filter (fun l => l.sec.frame == f)).flatMap (fun l => l.sec.slots.map (·.1))).eraseDups
    (acc.handLate f 3 slots).handed f) r.2

/-- The analysis of the frame that closes (Table 1.4): assay compares the keys that earlier frames completed before it takes the records of
this one (R172); then series, facets, balance, laggards, loss and rules. -/
def Chan.analyse (c : Chan) (f : Nat) : Chan :=
  let c1 := (((c.compareReady f).reduceAssay).runSeriesUnit f).runFacets f
  let c2 := (c1.runBalance f).runLaggards f
  (c2.publishLoss f).runRules f

/-- The leaf packets whose deadline passes when k opens after f (R201, R208). -/
def Chan.judgeDeadlines (c : Chan) (f k : Nat) : Chan :=
  (List.range (k - f)).foldl (fun acc i => if f + i = 0 then acc else acc.judgeAbsent (f + i - 1)) c

/-- The close of frame f when k opens: the run of short frames, the link, the analysis, the deadlines and the fleet root's
decisions (R43, R102, R195). -/
def CS.closeFrame (s : CS) (f k : Nat) : CS :=
  if !s.ch.b.frameIsOpen then s
  else
    let s1 := s.on (fun c => (c.onB (fun b => b.judgeShortRun.closeLink true)).closeChildren)
    let s2 := s1.on (fun c => (c.analyse f).judgeDeadlines f k)
    let s3 := s2.on (fun c => (c.tree.deadlines f k).foldl Chan.deadline c)
    let s4 := s3.on (fun c => (c.handLateFleet.sendAnswerers f).handSent c)
    let s5 := s4.decideAll
    s5.on (fun c => { c.pruneTree with ovr := [] })

/-! ### The opening of a frame -/

/-- The first frame after bring-up or a reset: the channel is ready, and a fleet root is a member at once (R378, R383, R447); a
channel with a root role asks its successor, an uplink port that is not qualified reports down (R381), and the records that a start owed are made (R345, R379, R392). -/
def Chan.firstFrame (c : Chan) (k : Nat) : Chan :=
  if c.b.num K.bringupState ≠ 4 ∧ c.b.num K.bringupState ≠ 5 then c
  else
    let d := c.b.draw
    let b1 := if c.b.phase = .cold then d.2.setNum K.readyMs (d.1 % 2 ^ 32) else c.b
    let b2 : Blk := { b1 with phase := .run }
    let c1 := { c with b := b2.setNum K.bringupState (if b2.num K.treeRole = 2 then 8 else 7) }
    let c2 : Chan := { c1 with start := { c1.start with owed := [], qualifying := [] } }
    let c3 := [0, 1].foldl (fun acc p => if bit (acc.b.num K.portsQualified) (2 + p) then acc else acc.egressDown p) c2
    (c.start.owed.foldl (fun acc o => acc.fault o.1 o.2.1 (c.id * 2 ^ 32 + o.2.2.1)
      (if o.2.2.2.1 = 0 then k else o.2.2.2.1) o.2.2.2.2) c3).askSuccessor

/-- The role in force changes with a transaction that applies (R24, R103). -/
def CS.noteRole (s : CS) (k : Nat) : CS :=
  let old := s.ch.tree.role k
  let new := s.ch.b.num K.treeRole
  if old = new then s
  else (s.on (fun c => c.onTree (fun t => { t with roles := (k, new) :: t.roles }))).roleChanged old new

/-- What is in force at the opening of frame k (R96). -/
def Chan.noteOpened (c : Chan) (k : Nat) : Chan :=
  c.onTree (fun t => { t with
    opened := { frame := k, tag := c.b.num K.jobTag, part := c.b.num K.partitionId } :: t.opened })

/-- The barrier sections that are all on time when k opens after f (R254). -/
def Chan.intakes (c : Chan) (f k : Nat) : Chan :=
  (List.range (k - f)).foldl (fun acc i => if f + i = 0 then acc else acc.intake (f + i - 1)) c

/-- The sequences whose compensation took effect at this opening: due before it, done after it (R106). -/
def compDone (before after : Blk) : List Word :=
  ((before.fleet.filter (fun r => decide (0 < r.compAt))).filter (fun r =>
    after.fleet.any (fun x => x.seq == r.seq && x.compensated && decide (x.compAt = 0)))).map (·.seq)

/-- What a channel does at the opening of frame k once transactions have taken effect. -/
def Chan.workOn (c : Chan) (f k : Nat) (temp : Nat) : Chan :=
  let c1 := ((c.noteOpened k).admitJoins k).dropLeft k
  let c2 := ((c1.intakes f k).judgeReturns f k).judgeMoves k
  let c3 := c2.onB (fun b => b.leaveNone.openLink true)
  let c4 := ((c3.settle.controls).dropGuests).noteAdoption
  let c5 := (c4.countPorts.openFetches).takeTemp temp
  let c6 : Chan := { c5 with triggers := [] }
  c5.triggers.foldl Chan.sendTriggers c6

/-- A boundary at which the channel opens no frame. In C2 local time runs, and C3 is entered from it there (R371, Table 15.6); what else is
committed waits for the first frame (R94). [DEDUCED, assumption 89] -/
def CS.passBoundary (s : CS) (k : Nat) : CS :=
  let s0 := s.on (fun c => c.onB (fun b => b.passBoundary k))
  if s.ch.b.phase ≠ .retained then s0
  else
    let s1 := s0.on (fun c => c.onB (fun b => { b with applying := true }))
    let ts := (s0.ch.b.due k).filter (fun t => t.items.contains (K.powerState, .num 3))
    (applyThese chanEnv s1 ts).on (fun c => c.onB (fun b => { b with applying := false }))

/-- Frame k opens (R36, R49, R92): the frame before closes, transactions take effect, the units work on k with the new
values, and the boundary's tick refills the buckets (R295). `byStep` tells that a step of time opens it, `temp` is the die temperature. -/
def CS.openFrame (s : CS) (k temp : Nat) (byStep : Bool) : CS :=
  if !s.ch.b.mayOpen k && !byStep then s.passBoundary k
  else
    let f := s.ch.b.now
    let wasOpen := s.ch.b.frameIsOpen
    let s0 := if byStep then s else s.on (fun c => c.onB (fun b => b.advanceFrame (k * b.periodNs)))
    let s1 := (s0.on (fun c => c.onEgr (fun e => { e with boundary := true }))).closeFrame f k
    let s2 := s1.on (fun c => (c.onB (fun b => b.setFrame k)).firstFrame k)
    let s3 := if byStep then s2.on (fun c => c.onB (fun b => b.declareShort k causeStep)) else s2
    let s4 := boundary chanEnv s3 k
    if s4.ch.b.phase = .off ∨ s4.ch.b.phase = .retained then s4
    else
      let from_ := if wasOpen then f else k - 1
      let s5 := (s4.noteRole k).on (fun c =>
        (c.rootFrame from_ k).recordLedger from_ k (compDone s3.ch.b s4.ch.b))
      let s6 := s5.on (fun c => c.workOn from_ k temp)
      let s7 : CS := if s6.sh.sampler = s6.ch.b.place then { s6 with sh := s6.sh.rollFrame } else s6
      (s7.claspFrame wasOpen).on (fun c => c.boundaryTick.pacerTick (s7.sh.num K.busState) (s7.sh.num K.droopFraction))

/-- What a time command leaves on a channel: the frame that a step opens (R49). The die temperature that the sensor shows in it is a
free value (R362). [DEDUCED, assumption 79] -/
def CS.afterTime (s : CS) (r : Blk × Option Nat) : CS :=
  let s1 := s.on (fun c => { c with b := r.1 })
  match r.2 with
  | some k =>
    let d := s1.ch.b.draw
    (s1.on (fun c => { c with b := d.2 })).openFrame k (d.1 % 65536) true
  | none => s1

/-! ### Overrun (R40, Table 2.3) -/

/-- UNIT_OVERRUN of a channel's unit: work left over is carried, dropped or deferred. [DEDUCED, assumption 37] -/
def Chan.overrun (c : Chan) (u : Unt) (f left : Nat) : Chan :=
  let later := fun (cause : Nat) => { c with b := c.b.declareShort f cause, ovr := c.ovr ++ [(u, f, left)] }
  match u with
  | .journal => c.onB (fun b => b.overrunJournal f)
  | .reduction =>
    (c.onB (fun b => b.declareShort f causeReduction)).onTree (fun t => { t with secs := t.secs.map (fun s =>
      if s.frame = f ∧ s.done = false ∧ f + levelDelay s.level ≤ c.b.now then { s with cut := true } else s) })
  | .series => later causeSeries
  | .facet => later causeFacet
  | .balance => later causeBalance
  | .laggard => later causeLaggard
  | .rule => later causeRule
  | .sampler => c
  | .touchstone => c
  | .assay => c

/-- UNIT_OVERRUN of a leaf's unit; the work of assay stays in its buffer and goes on in the next frame. [DEDUCED, assumption 37] -/
def Leaf.overrun (l : Leaf) (u : Unt) (f left : Nat) : Leaf :=
  match u with
  | .sampler => l.overrunSampler f left
  | .touchstone => l.overrunTouch f left
  | .assay => { l with b := l.b.declareShort f causeAssay }
  | .journal => { l with b := l.b.overrunJournal f }
  | .reduction => l
  | .series => l
  | .facet => l
  | .balance => l
  | .laggard => l
  | .rule => l

end Sys2Proof.Machine
end

