-- ==== Sys2Proof/Machine/Reset.lean ====
section
/-! DEFINITION. Bring-up and reset of the tray build (R377 to R384, Tables 15.7, 16.2 and 16.4), the fabric ports (R380 to R382), and
the reconciliation of tray-level objects (R440). -/

namespace Sys2Proof.Machine

/-! ### Failure -/

/-- The channel fails (R378): state 0x0F with its cause, and irq_err. -/
def Chan.fail (c : Chan) (cause : Nat) : Chan :=
  let b1 : Blk := { c.b with phase := .failed, frameIsOpen := false }
  { c with b := ((b1.setNum K.bringupState 0x0F).setNum K.bringupFailure cause).raiseErr irqFault }

/-! ### The fast path (R383) -/

/-- Classes C, S and W are kept through a warm reset and a channel reset (Table 15.7). -/
def chanKeeps (key : Nat) : Bool := clsOf false key != .v

/-- What a warm or channel reset leaves of a child: a member stays one, and is granted fresh credits (R178, R448). [DEDUCED, assumption 38] -/
def Child.afterReset (x : Child) : Child :=
  { Child.fresh x.addr x.kind x.pos x.level with
    member := true, away := x.away, attached := !x.away, entries := if x.away then none else some [], pod := x.pod,
    heard := true }

/-- The tree side of a channel after a warm or channel reset: members, and the histories of role and table (R448). -/
def Tree.afterReset (t : Tree) : Tree :=
  { Tree.reset with
    children := (t.children.filter (·.member)).map Child.afterReset, nextUid := t.nextUid, roles := t.roles, tables := t.tables, ports := t.ports }

/-- A warm reset (kind 1) or a channel reset (kind 2) starts: the fast path with what Table 15.7 keeps. -/
def Chan.fastReset (c : Chan) (kind : Nat) : Chan :=
  let fresh := Chan.reset c.b.place
  { fresh with
    b := (c.b.softReset chanKeeps).setNum K.lastResetKind kind,
    side := c.side, start := { c.start with qualifying := [] }, mem := { Mem.reset with sram := c.mem.sram, dram := c.mem.dram },
    hist := { c.hist with waits := [], fences := [] }, known := c.known, flash := c.flash,
    rul := { Rules.reset with swapAt := c.rul.swapAt, lastEval := c.b.now, notes := c.rul.notes },
    ser := { c.ser with drift := [] }, lag := { Lag.reset with entries := c.lag.entries, marks := c.lag.marks }, tree := c.tree.afterReset,
    egr := (c.b.softReset chanKeeps).freshEgress }

/-- The channel has memory to retain (R383): it runs, is in a fast path or in C2, or waits for its servo at the end of a cold
start. -/
def Chan.retains (c : Chan) : Bool :=
  match c.b.phase with
  | .run => true
  | .fast => true
  | .retained => true
  | .cold => decide (c.b.num K.bringupState = 5)
  | .asserted => false
  | .failed => false
  | .off => false

/-- The channel identifier composed of the tray number and the channel's place (R21). -/
def Chan.compose (c : Chan) : Chan := c.onB (fun b => b.setNum K.channelId (b.num K.trayNumber % 2048 * 4 + b.place))

/-- What flash holds of the channel itself and of its tray follows the channel's identifier: own records carry the channel's
address, tray-level ones that of the host port (Table 3.3). -/
def Chan.readdress (c : Chan) : Chan :=
  { c with flash := c.flash.map (fun r =>
      if bits r.node.toNat 28 4 = 1 then { r with node := c.b.addr }
      else if bits r.node.toNat 28 4 = 2 then { r with node := c.b.hostAddr } else r) }

/-- A channel reset: the fast path, or a cold start anew for a channel that is still in one. [DEDUCED, assumption 61] -/
def Chan.resetNow (c : Chan) : Chan :=
  if c.retains then c.fastReset 2
  else if c.b.phase = .cold ∧ 2 ≤ c.b.num K.bringupState then c.startCold (fun _ => false) [] 2
  else c

/-- CHANNEL_RESET_REQUEST (R377). -/
def State.resetChan (s : State) (c : Ch) : State := (s.putChan c (s.chan c).resetNow).settle

/-- The shared logic after a warm reset (R399, Table 15.7): objects of class V at their defaults, arbitration anew. -/
def Shared.warm (h : Shared) : Shared :=
  { Shared.reset with
    powered := h.powered, store := mfilter chanKeeps h.store, gen := h.gen, bad := h.bad, gens := h.gens, restored := h.restored,
    warmHeld := h.warmHeld, ir := h.ir, out := h.out }

/-- A warm reset of the tray (R377, R424): every channel that is not in a cold start, failed or off takes the fast path, and the
tray number takes effect (R19). -/
def State.warmReset (s : State) : State :=
  ({ s with ch := s.ch.map (fun (c : Chan) => if c.retains then ((c.fastReset 1).compose).readdress else c), sh := s.sh.warm }).settle

/-- A channel is in its cold start (Table 16.2, phases 0x01 to 0x05), in which the warm reset input is ignored (R424). -/
def State.starting (s : State) : Bool := allCh.any (fun c => (s.chan c).b.phase == .cold)

/-! ### Uncorrectable errors (R345, R347, R384) -/

/-- SRAM_UNCORRECTABLE and DRAM_UNCORRECTABLE of a channel: the address is kept, the channel takes a channel reset, and the record is
entered afterwards. `kind` is the fault kind, `lk` the location kind. [DEDUCED, assumption 61] -/
def Chan.uncorrectable (c : Chan) (kind lk place : Nat) : Chan :=
  let w := lk * 2 ^ 48 + c.id * 2 ^ 32 + place
  let owed := c.start.owed ++ [(kind, lk, place, c.b.now, 0)]
  if c.retains then
    let c1 := c.onB (fun b => b.setNum K.lastUncorrectable w)
    ({ c1 with start := { c.start with owed := owed } }).fastReset 2
  else if c.b.phase = .cold ∧ 2 ≤ c.b.num K.bringupState then
    (c.startCold (fun _ => false) owed 2).onB (fun b => b.setNum K.lastUncorrectable w)
  else c

/-! ### Cold start (Table 16.2) -/

/-- PLL_LOCK: the clocks run, and the memory is tested. -/
def Chan.pllLock (c : Chan) : Chan :=
  if c.b.phase = .cold ∧ c.b.num K.bringupState = 1 then c.onB (fun b => b.setNum K.bringupState 2) else c

/-- SELFTEST_DONE (R379): failing places are mapped and owe their records, or the channel fails on exhausted spares. -/
def Chan.selftestDone (c : Chan) (rows : List (BitVec 10 × BitVec 12)) (segs : List (BitVec 16)) : Chan :=
  if c.b.phase ≠ .cold ∨ c.b.num K.bringupState ≠ 2 then c
  else
    let r := c.b.selftest rows segs
    let owed := (rowPlaces rows).map (fun p => (0x16, 4, p, 0, 0)) ++
      ((segs.filter (fun s => decide (s.toNat < 32768))).map (fun s => (0x16, 6, s.toNat, 0, 0)))
    let c1 := { c with b := r.1, start := { c.start with owed := c.start.owed ++ owed } }
    if r.2 then c1.fail 1 else c1.onB (fun b => b.setNum K.bringupState 3)

/-- The ports that the channel needs are qualified (R381): one ingress port and one uplink port. -/
def Chan.portsOk (c : Chan) : Bool :=
  let q := c.b.num K.portsQualified
  (bit q 0 || bit q 1) && (bit q 2 || bit q 3)

/-- After the restore phase the channel waits for its links, goes on to the time phase, or fails with cause 0x02 (R381). -/
def Chan.judgeLinks (c : Chan) : Chan :=
  if c.b.phase ≠ .cold ∨ c.start.restored = false then c
  else if c.portsOk then c.onB (fun b => b.setNum K.bringupState 5)
  else if [0, 1, 2, 3].all (fun p => c.start.judged.contains p) then c.fail 2
  else c.onB (fun b => b.setNum K.bringupState 4)

/-- The stored active images are checked before the first frame (R252, R272): one that fails leaves its slot empty. -/
def Chan.restoreImages (c : Chan) : Chan :=
  let bal := c.b.bytes K.activeImage
  let r1 := if bal.isEmpty then (0, 0) else c.b.balCheck bal 0
  let b1 := if r1.1 = 0 then (if bal.isEmpty then c.b else c.b.setBalActive bal)
    else ((c.b.setBalActive []).setNum K.restoreStatus r1.1).raiseErr irqMailbox
  let rul := b1.bytes K.rulActiveImage
  let r2 := if rul.isEmpty then (0, 0) else b1.rulCheck rul
  let b2 := if r2.1 = 0 then (if rul.isEmpty then b1 else b1.setRulActive rul)
    else ((b1.setRulActive []).setNum K.rulRestoreStatus r2.1).raiseErr irqMailbox
  { c with b := b2 }

/-- The channel's own stored objects return (R349), and with them its identifier, its period, and what follows from its tables. [DEDUCED, assumption 71] -/
def Chan.restoreObjects (c : Chan) : Chan :=
  let own := c.currentRecs.filter (fun r => bits r.node.toNat 28 4 == 1)
  let c1 := (c.onB (fun b => own.foldl (fun a r => a.setVal r.key r.v) b)).compose.readdress
  let b1 := (c1.b.setNum K.framePeriodActive (c1.b.num K.framePeriodUs)).setNum K.storeBytesUsed (areaUsed c.flash)
  let agg := b1.bytes K.aggTableActive
  { c1 with b := b1.setNum K.aggTableCheck (crc32c agg), egr := b1.freshEgress,
            tree := { c1.tree with tables := [(0, agg)], roles := [(0, b1.num K.treeRole)] } }

/-- The records of flash at the given places fail their check: they are ignored, and their objects keep earlier values (R349). -/
def Chan.spoil (c : Chan) (bad : List Nat) : Chan :=
  { c with flash := c.flash.zipIdx.map (fun p => if bad.contains p.2 then { p.1 with dead := true } else p.1) }

/-- RESTORE_DONE of one channel (Table 16.2, R346, R356, R379): keys and objects, the fault location table with its permanent
places, then the images. `bad` names the records of flash that fail their check. -/
def Chan.restore (c : Chan) (bad : List Nat) : Chan :=
  let c1 := ({ (c.spoil bad).restoreObjects with hist := c.hist.rebuild }).countLocs
  let m1 := c1.b.mapPlaces false (c1.permanentPlaces false)
  let m2 := m1.1.mapPlaces true (c1.permanentPlaces true)
  let c2 : Chan := { c1 with b := m2.1 }
  if m1.2 || m2.2 then c2.fail 1
  else
    let c3 := c2.restoreImages
    ({ c3 with start := { c3.start with restored := true } }).judgeLinks

/-! ### Tray-level objects at a restore (R440) -/

/-- Generation `a` is later than `b` in serial arithmetic. -/
def genAfter (a b : Nat) : Bool := decide ((a + 2 ^ 32 - b % 2 ^ 32) % 2 ^ 32 ≠ 0) && decide ((a + 2 ^ 32 - b % 2 ^ 32) % 2 ^ 32 < 2 ^ 31)

/-- The current copies of tray-level objects in a channel's flash. -/
def Chan.trayCopies (c : Chan) : List FlashRec := c.currentRecs.filter (fun r => bits r.node.toNat 28 4 == 2)

/-- The generation of an object's copy in a channel's flash. -/
def Chan.copyGen (c : Chan) (key : Nat) : Option Nat := ((c.trayCopies.filter (fun r => r.key == key)).getLast?).map FlashRec.gen

/-- The value in force of an object is written to every channel that keeps copies and whose copy is older or absent. -/
def State.spreadTray (s : State) (key gen : Nat) (v : Val) : State :=
  { s with ch := s.ch.map (fun (c : Chan) =>
      if !c.keepsCopies then c
      else if (match c.copyGen key with | some g => genAfter gen g | none => true) then
        c.putFlash { node := c.b.hostAddr, key := key, v := .bytes (natLe 4 gen ++ valData (typeOf false key) v), pend := none, dead := false }
      else c) }

/-- One object is reconciled with the copy of the channel that has just restored. -/
def State.reconcileOne (s : State) (c : Ch) (key : Nat) : State :=
  let copy := ((s.chan c).trayCopies.filter (fun r => r.key == key)).getLast?
  match copy, mfind s.sh.gens key with
  | none, none => s
  | some r, none =>
    let v := dataVal (typeOf false key) (r.v.toBytes.drop 4)
    ({ s with sh := { s.sh.setVal key v with gens := mput s.sh.gens key r.gen, gen := if genAfter r.gen s.sh.gen then r.gen else s.sh.gen } }).spreadTray
      key r.gen v
  | some r, some g =>
    if genAfter r.gen g then
      let v := dataVal (typeOf false key) (r.v.toBytes.drop 4)
      ({ s with sh := { s.sh.setVal key v with gens := mput s.sh.gens key r.gen, gen := if genAfter r.gen s.sh.gen then r.gen else s.sh.gen } }).spreadTray
        key r.gen v
    else s.spreadTray key g (s.sh.val key)
  | none, some g => s.spreadTray key g (s.sh.val key)

/-- The shared logic compares every tray-level object of class S when a channel has restored. -/
def State.reconcile (s : State) (c : Ch) : State :=
  let keys := (((s.chan c).trayCopies.map (·.key)) ++ s.sh.gens.map (·.1)).eraseDups
  let s1 := keys.foldl (fun acc k => acc.reconcileOne c k) s
  { s1 with sh := { s1.sh with restored := true } }

/-- RESTORE_DONE (R378, R440): flash that cannot be read fails the channel with cause 0x03. -/
def State.restoreDone (s : State) (c : Ch) (readable : Bool) (bad : List Nat) : State :=
  let x := s.chan c
  if x.b.phase ≠ .cold ∨ x.b.num K.bringupState ≠ 3 then s
  else if !readable then (s.putChan c (x.fail 3)).settle
  else
    let s1 := s.putChan c (x.restore bad)
    if (s1.chan c).b.phase = .failed then s1.settle else (s1.reconcile c).settle

/-! ### Fabric ports (R380 to R382) -/

/-- PHY_LINK_UP (R380, R382): qualification of a port that is out of service begins. -/
def Chan.linkUp (c : Chan) (p : Nat) : Chan :=
  if !c.b.works || bit (c.b.num K.portsQualified) p || c.start.qualifying.contains p then c
  else { c with start := { c.start with qualifying := c.start.qualifying ++ [p] } }

/-- The lane counts of a port in 0x0200:12: 16 lanes of 4 bytes. -/
def putLanes (old : List Byte) (p : Nat) (lanes : List Nat) : List Byte :=
  let d := fitTo 256 old
  d.take (64 * p) ++ fitTo 64 (lanes.flatMap (natLe 4)) ++ d.drop (64 * p + 64)

/-- LINK_QUALIFY_DONE (R380, R382): the port passes when every lane counts 6 errors or fewer; a lane count that is not given
stands for a lane without sync. [DEDUCED, assumption 62] -/
def Chan.qualified (c : Chan) (p : Nat) (lanes : List Word) : Chan :=
  if !c.b.works || !c.start.qualifying.contains p then c
  else
    let ls := (List.range c.start.lanes).map (fun k => ((lanes[k]?).map (·.toNat)).getD 0xFFFFFFFF)
    let pass := ls.all (fun e => decide (e ≤ 6))
    let q := c.b.num K.portsQualified
    let b1 := (c.b.setBytes K.laneErrors (putLanes (c.b.bytes K.laneErrors) p ls)).setNum K.portsQualified
      (if pass then setBit q p else q)
    let cold := decide (c.b.phase = .cold)
    let b2 := if cold then b1 else b1.bump K.requalifications
    let st : Start := { c.start with qualifying := c.start.qualifying.filter (· != p), judged := (c.start.judged ++ [p]).eraseDups }
    let worst := ls.foldl max 0
    let c1 := { c with b := b2, start := if cold && !pass then { st with owed := st.owed ++ [(0x14, 7, p, 0, worst)] } else st }
    let c2 := if cold || pass then c1 else c1.fault 0x14 7 (c1.id * 2 ^ 32 + p) c1.b.now worst
    let c3 := if p < 2 then c2 else if pass then c2.egressUp (p - 2) else c2.egressDown (p - 2)
    c3.judgeLinks

/-- PHY_LINK_DOWN (R382, R299, R414): the frame in progress is abandoned, and the port is out of service until it passes
qualification again. [DEDUCED, assumption 62] -/
def Chan.linkDown (c : Chan) (p : Nat) : Chan :=
  if !c.b.works then c
  else
    let was := bit (c.b.num K.portsQualified) p
    let b1 := (c.b.bump K.framesAborted).setNum K.portsQualified (andNot (c.b.num K.portsQualified) (2 ^ p))
    let c1 := { c with b := b1, start := { c.start with qualifying := c.start.qualifying.filter (· != p) } }
    if p < 2 then c1
    else
      let c2 := c1.egressDown (p - 2)
      if was && decide (c.b.phase = .run) then c2.fault 0x15 7 (c2.id * 2 ^ 32 + p) c2.b.now 0 else c2

/-! ### The end of the fast path -/

/-- FAST_PATH_DONE of a channel (R383, R384): the die temperature of the frame is a free value (R362); the first frame opens with time kept, or waits for the servo; an uncorrectable word
found by the scrub starts a cold start. [DESIGN CHOICE, assumption 79] -/
def CS.fastDone (s : CS) (scrub : Option Nat) (refOk : Bool) (k ms : Nat) : CS :=
  let c := s.ch
  if c.b.phase ≠ .fast then s
  else match scrub with
    | some w =>
      let lk := bits w 48 4
      let owed := c.start.owed ++ [(if lk = 6 then 0x13 else 0x11, lk, w % 2 ^ 32, c.b.now, 0)]
      s.on (fun x => (x.startCold (fun _ => false) owed 2).onB (fun b => b.setNum K.lastUncorrectable w))
    | none =>
      let b0 : Blk := if refOk then { c.b with phase := .run, needLock := false } else { c.b.loseTime with phase := .run }
      let b1 := (((b0.bump K.fastPathCount).setNum K.readyMs ms).setNum K.bringupState 5).resume k
      let d := b1.draw
      let s1 := s.on (fun x => { x with b := d.2 })
      if refOk then s1.openFrame k (d.1 % 65536) false else s1

/-! ### Power -/

/-- POWER_ON_RESET (R378): the release of rst_por_n starts the cold start of every channel. -/
def State.powerOn (s : State) : State :=
  if s.sh.powered then s
  else ({ s with ch := s.ch.map (fun (c : Chan) => c.startCold (fun _ => false) [] 1), sh := { s.sh with powered := true } }).settle

/-- POWER_ON_RESET_ASSERT (R417): the tray build enters reset; what stays is in flash. -/
def State.powerOff (s : State) : State :=
  { s with ch := s.ch.map Chan.blank, sh := { Shared.reset with out := s.sh.out } }

end Sys2Proof.Machine
end

