-- ==== Sys2Proof/Machine/Endpoint.lean ====
section
/-! DEFINITION. What reaches a channel's Bivan endpoint and what it does itself with transactions: requests by opcode (Table 3.9),
answers to its own requests (R77, R94, R271, R368, R387, R392), the transactions of the rule engine (R271), and the ends of stores
in flash (R74, R91, R349, R440). -/

namespace Sys2Proof.Machine

/-! ### Requests by opcode -/

/-- A request is executed (Table 3.9); an opcode that a message in a mailbox or a block cannot carry to any effect is answered as an
unknown one (R77). [DEDUCED, assumption 67] -/
def CS.bivan (s : CS) (op : Nat) (q : Req) : CS :=
  if op = opRead then doRead chanEnv s q
  else if op = opWrite then doWrite chanEnv s q
  else if op = opSegRead then doSegRead chanEnv s q
  else if op = opSegWrite then doSegWrite chanEnv s q
  else if op = opTxnOpen then doTxnOpen chanEnv s q
  else if op = opTxnStage then doTxnStage chanEnv s q
  else if op = opTxnCommit then doTxnCommit chanEnv s q
  else if op = opTxnAbort then doTxnAbort chanEnv s q
  else if op = opTxnStatus then doTxnStatus chanEnv s q
  else if op = opFleetRequest then s.fleetRequest q
  else if op = opTokenQuery then doTokenQuery chanEnv s q
  else doUnknown chanEnv s op q

/-- The next number after a sequence number that has been used, when it is the later one in serial arithmetic (R81, R103). [DESIGN CHOICE, assumption 24] -/
def Blk.seqUsed (b : Blk) (n : Word) : Blk :=
  if serialAfter (n + 1) (BitVec.ofNat 32 (b.num K.fleetSeqNext)) then b.setNum K.fleetSeqNext (n + 1).toNat else b

/-- A PREPARE at a channel: its sequence number is used from now on, should the channel take the root's role (R97, R103).
[DESIGN CHOICE, assumption 24] -/
def CS.prepare (s : CS) (q : Req) : CS :=
  let s1 := doPrepare chanEnv s q
  if s.ch.b.takesFleet opPrepare q then s1.on (fun c => c.onB (fun b => b.seqUsed q.txn)) else s1

/-! ### Answers to own requests -/

/-- The answer that ends a chain of requests is acted on. -/
def CS.answered (s : CS) (r : Remote) (resp : Resp) : CS :=
  let st := resp.status.toNat
  match r.purpose with
  | .joinCheck child pos => s.on (fun c => c.joinChecked child pos resp)
  | .joinStage child => s.on (fun c => if st = 0 then c.joinNext child else c.dropJoin child)
  | .joinCommit child => s.on (fun c => c.joinCommitted child r st)
  | .seriesTable child => s.on (fun c => c.tableRead child r resp)
  | .ruleTxn at_ subjects => s.on (fun c =>
      if st = 0 then c.noteCommit r else if returnsSubjects st then c.returnActions at_ subjects else c)
  | .wakeTxn regions => s.on (fun c => c.wakeAnswer r regions st)
  | .fenceTxn _ => s.on (fun c => if st = 0 then c.noteCommit r else c)
  | .successor =>
    let s1 := s.on (fun c => { c with roleAsk := none })
    if st = 0 ∧ readNum resp 0 = s.ch.b.num K.treeRole then (commitOwn chanEnv s1 [(K.treeRole, .num 0)] (s.ch.b.now + 1)).2
    else s1
  | .trigger => if st = 0 then s else s.on (fun c => c.onB (·.bump K.triggerRefusals))
  | .plain => s.on (fun c => if st = 0 then c.noteCommit r else c)

/-- The token in the answer to a TOKEN_QUERY (R104): its opcode stands in the first byte of the body, its apply frame in the last eight. -/
def tokenIn (r : Resp) : Option Bool :=
  if r.opcode.toNat = opTokenQuery ∧ r.status = 0 then
    (if leAt r.body 0 1 = opCommitToken then some true else if leAt r.body 0 1 = opAbortToken then some false else none)
  else none

/-- A response reaches a node (R75, R77, R84): its envelope is judged, one for another node goes on, and a token in it is acted on (R104);
`act` takes any other. In C2 nothing comes over the fabric (Table 15.6). -/
def heardResp {σ : Type} (E : Env σ) (s : σ) (r : Resp) (act : σ → σ) : σ :=
  let b := E.blk s
  let d := r.dst.getD b.addr
  if !b.live || b.phase == .retained then s
  else if !envTaken r.env 1 then E.upd s (fun b => b.badEnvelope r.env)
  else if !b.reaches 0 d then E.passResp s d r
  else match tokenIn r with
    | some t => takeToken E s r.peer r.txn (leAt r.body 8 8) t
    | none => act s

/-- BIVAN_RESPONSE at a channel. -/
def CS.response (s : CS) (r : Resp) : CS :=
  heardResp chanEnv s r (fun s =>
      let n := s.ch.remoteNext r
      let s1 := { s with ch := n.1 }
      match n.2 with
      | none => s1
      | some (x, resp) => s1.answered x resp)

/-- BIVAN_RESPONSE at a leaf: only a TOKEN_QUERY has an answer that it acts on. -/
def Leaf.response (l : Leaf) (r : Resp) : Leaf := heardResp leafEnv l r (fun l => l)

/-! ### The transactions of the rule engine (R271) -/

/-- Bits of two routing bitmaps together. -/
def orBytes (a b : List Byte) : List Byte := (List.range (max a.length b.length)).map (fun k => BitVec.ofNat 8 (leAt a k 1 ||| leAt b k 1))

/-- The items of one transaction: routing bitmaps of several actions are one item (Table 10.8, kind 0x1). -/
def mergeItems (ws : List Wr) : List Wr :=
  let maps := ws.filter (fun w => w.1 == K.routingNotify)
  ws.filter (fun w => w.1 != K.routingNotify) ++
    (if maps.isEmpty then [] else [(K.routingNotify, .bytes ((maps.map (fun w => w.2.toBytes)).foldl orBytes []))])

/-- The body of the FLEET_REQUEST of a fleet write (Table 10.8, kind 0x6). -/
def fleetWriteBody (apply : Nat) : FleetBody := { apply := apply, mask := 2 ^ 128 - 1, part := 0xFFFE, guard := 0, action := 0 }

/-- The fleet writes of one apply frame: one request of the channel to itself as fleet root. -/
def CS.fleetWrites (s : CS) (apply : Nat) (as : List Adm) : CS :=
  let f := fleetWriteBody apply
  let items := as.flatMap (fun a => a.items.map (fun w => { buildItem false w with target := BitVec.ofNat 8 a.target }))
  let st := s.ch.fleetStatus f
  if st = stOk then
    s.acceptFleet .host s.ch.b.addr (BitVec.ofNat 32 s.ch.b.nextSeq) f items
      (natLe 32 (f.apply * 2 ^ 192 + f.mask * 2 ^ 64 + f.part * 2 ^ 48))
  else if returnsSubjects st then s.on (fun c => c.returnActions (match as with | a :: _ => a.swapAt | [] => 0) (as.map (fun a => (a.rule, a.subject))))
  else s

/-- One transaction of admitted actions. -/
def CS.ruleTxn (s : CS) (dst : Option Word) (apply : Nat) (as : List Adm) : CS :=
  let ws := mergeItems (as.flatMap (·.items))
  let subjects := as.map (fun a => (a.rule, a.subject))
  let at_ := match as with | a :: _ => a.swapAt | [] => 0
  match dst with
  | some d => s.on (fun c => c.remoteTxn d (.ruleTxn at_ subjects) ws apply)
  | none =>
    let r := commitOwn chanEnv s ws apply
    if returnsSubjects r.1 then r.2.on (fun c => c.returnActions at_ subjects) else r.2

/-- RULE_TXN_COMMIT (R271): one transaction per target block and apply frame, and the fleet writes. -/
def CS.ruleCommit (s : CS) : CS :=
  let as := s.ch.rul.admitted
  let s1 := s.on (fun c => c.onRul (fun x => { x with admitted := [] }))
  let own := as.filter (fun a => a.kind != 6)
  let groups := (own.map (fun a => (a.dst, a.apply))).eraseDups
  let s2 := groups.foldl (fun acc g => acc.ruleTxn g.1 g.2 (own.filter (fun a => a.dst == g.1 && a.apply == g.2))) s1
  let fleet := as.filter (fun a => a.kind == 6)
  ((fleet.map (·.apply)).eraseDups).foldl (fun acc f => acc.fleetWrites f (fleet.filter (fun a => a.apply == f))) s2

/-! ### Stores in flash (R74, R91, R349, R440) -/

/-- Stores that are still to end for a WRITE of channel `c`. -/
def State.itemStores (s : State) (c : Ch) (e : Exec) : Nat :=
  ((s.chan c).b.jobs.filter (fun j => match j with
    | .item src seq _ _ _ => src == e.src && seq == e.seq
    | _ => false)).length +
  ((s.ch.toList.flatMap (fun x => x.b.jobs)).filter (fun j => match j with
    | .tray o _ src num (some _) _ _ => o == c.val && src == e.src && num == e.seq
    | _ => false)).length

/-- Copies that are still to end for a transaction of channel `c`. -/
def State.copyStores (s : State) (c : Ch) (t : Txn) : Nat :=
  ((s.chan c).b.jobs.filter (fun j => match j with
    | .copy src num _ _ => src == t.src && num == t.num
    | _ => false)).length +
  ((s.ch.toList.flatMap (fun x => x.b.jobs)).filter (fun j => match j with
    | .tray o _ src num none _ _ => o == c.val && src == t.src && num == t.num
    | _ => false)).length + t.images.length

/-- The end of one store of a WRITE or commit on its own channel; the copies of a finished WRITE become current. -/
def CS.endStoreFor (s : CS) (src num : Word) (place : Option Nat) (ok : Bool) : CS :=
  match place with
  | none => endCopyStore chanEnv s src num ok
  | some p =>
    let there := fun (x : CS) => x.ch.b.execs.any (fun e => e.src == src && e.seq == num)
    let s1 := endItemStore chanEnv s src num p ok
    if there s && !there s1 then { s1 with sh := { s1.sh with currents := s1.sh.currents ++ [(src, num)] } } else s1

/-- Stores in another channel that a reset of it has lost: that channel misses the write (R440), and the request or commit goes
on without it. -/
def State.reapStores (s : State) (c : Ch) : State :=
  let b := (s.chan c).b
  let es := (b.execs.filter (fun e => e.resp.opcode.toNat == opWrite || e.resp.opcode.toNat == opSegWrite)).map (fun e =>
    (e.src, e.seq, some 0, e.waiting - s.itemStores c e))
  let ts := b.txns.map (fun t => (t.src, t.num, (none : Option Nat), t.storing - s.copyStores c t))
  (es ++ ts).foldl (fun (acc : State) p =>
    (List.replicate p.2.2.2 ()).foldl (fun (a : State) _ => a.onCS c (fun x => x.endStoreFor p.1 p.2.1 p.2.2.1 true)) acc) s

/-- Copies of a generation of which a store has failed never become current. -/
def State.dropGen (s : State) (gen : Nat) : State :=
  { s with ch := s.ch.map (fun (c : Chan) => { c with flash := c.flash.filter (fun r =>
      !(bits r.node.toNat 28 4 == 2 && r.pend.isSome && decide (r.gen = gen))) }) }

/-- A store of a tray-level object ends in channel `d`: the record is pending until every store of it has ended well. -/
def State.endTrayStore (s : State) (d : Ch) (ok : Bool) (j : FlashJob) (owner gen : Nat) (src num : Word) (place : Option Nat) : State :=
  let x := (s.chan d).onB (fun b => { b with jobs := b.jobs.drop 1 })
  let good := ok && !s.sh.bad.contains gen
  let x1 := if good then x.storeDone x.b.hostAddr j else x
  let s1 := s.putChan d (if ok then x1 else x1.onB (·.bump K.flashWriteFailures))
  let s2 := if ok then s1 else { s1.dropGen gen with sh := { s1.sh with bad := (s1.sh.bad ++ [gen]).eraseDups } }
  match allCh.find? (fun c => c.val == owner) with
  | none => s2
  | some o => s2.onCS o (fun cs => cs.endStoreFor src num place good)

/-- FLASH_OPERATION_DONE at a channel: its oldest store ends. -/
def State.flashDone (s : State) (d : Ch) (ok : Bool) : State :=
  match (s.chan d).b.jobs with
  | [] => s
  | j :: _ => match j with
    | .tray o gen src num place _ _ => s.endTrayStore d ok j o gen src num place
    | .item .. => s.onCS d (fun cs => endStore chanEnv cs ok)
    | .copy .. => s.onCS d (fun cs => endStore chanEnv cs ok)
    | .firmware _ => s.onCS d (fun cs => endStore chanEnv cs ok)

/-- The swap object and the active image of an image kind (R250, R272). -/
def imageKeys : Img → Nat × Nat × Nat
  | .balance => (K.imageSwap, K.activeImage, K.standbyImage)
  | .rule => (K.rulImageSwap, K.rulActiveImage, K.rulStandbyImage)

/-- IMAGE_STORE_DONE (R250, R272, R349): the image that a commit makes active has been stored, pending until its frame. -/
def CS.imageStored (s : CS) (i : Img) (ok : Bool) : CS :=
  let k := imageKeys i
  match s.ch.b.txns.find? (fun t => t.images.contains k.1) with
  | none => s
  | some t =>
    let s1 := if ok then s.on (fun c => c.putFlash
        { node := c.b.addr, key := k.2.1, v := .bytes (c.b.bytes k.2.2), pend := some (t.src, t.num), dead := false })
      else s.on (fun c => c.onB (·.bump K.flashWriteFailures))
    endImageStore chanEnv s1 k.1 ok

end Sys2Proof.Machine
end

