-- ==== Sys2Proof/Machine/HostPort.lean ====
section
/-! DEFINITION. The ports of the tray controller: the host port (R418 to R424), the SMBus sideband (R86, R428), and the test access
port (R429). -/

namespace Sys2Proof.Machine

/-! ### The windows (R418, R421) -/

/-- A channel's window answers: not during a reset of the channel, and not in C3 (R421). [DEDUCED, assumption 66] -/
def Chan.answersHost (c : Chan) : Bool :=
  match c.b.phase with
  | .run => true
  | .cold => true
  | .retained => true
  | .failed => true
  | .asserted => false
  | .fast => false
  | .off => false

/-- An access completes (R418): nothing answers while rst_por_n is low. [DEDUCED, assumption 66] -/
def State.hostOut (s : State) (data : Nat) (err : Bool) : State :=
  if s.sh.powered then { s with sh := s.sh.emit (.host data err) } else s

/-- An access is refused with hp_err. -/
def State.hostErr (s : State) : State := s.hostOut 0 true

/-- An access to a register of a channel's window: refused when the window does not answer, else the window's change and the data
read. -/
def State.onWin (s : State) (c : Ch) (f : Chan → Chan × Nat × Bool) : State :=
  if !s.sh.powered then s
  else if !(s.chan c).answersHost then s.hostErr
  else
    let r := f (s.chan c)
    (s.putChan c r.1).hostOut r.2.1 r.2.2

/-- Bits [7:0] of HP_PRESENCE's fields: ready, in C2, in C3, failed. -/
def State.presence (s : State) : Nat :=
  let field := fun (p : Chan → Bool) => (allCh.filter (fun c => p (s.chan c))).foldl (fun acc c => setBit acc c.val) 0
  field (fun c => c.b.phase == .run && decide (7 ≤ c.b.num K.bringupState)) +
    field (fun c => c.b.phase == .retained) * 2 ^ 4 + field (fun c => c.b.phase == .off) * 2 ^ 8 +
    field (fun c => c.b.phase == .failed) * 2 ^ 12

/-- The shared registers (Table 17.8); none where the offset is unmapped. -/
def State.sharedReg (s : State) (off : Nat) : Option Nat :=
  if off = 0x000 then some 0x00030000
  else if off = 0x004 then some 0x00000402
  else if off = 0x010 then some (s.sh.epoch % 2 ^ 32)
  else if off = 0x014 then some (s.sh.beats % 2 ^ 16 * 2 ^ 16 + s.sh.holder % 2 ^ 8)
  else if off = 0x020 then some (s.sh.changes % 2 ^ 16 * 2 ^ 16 + s.sh.num K.coreTargetMv % 2 ^ 16)
  else if off = 0x030 then some s.presence
  else none

/-- HP_CH_ID (Table 17.9, R421). -/
def Chan.hostId (c : Chan) : Nat :=
  (if c.b.phase = .off then 3 else c.b.num K.powerStateNow) * 2 ^ 24 + c.b.num K.bringupState * 2 ^ 16 + c.id

/-- HP_MBX_CTRL as read (Table 17.11). -/
def Win.ctrl (w : Win) : Nat := flag w.goRefused * 16 + flag w.busy * 8 + flag w.rspReady * 2

/-- What a read of a window register returns where the read changes nothing (Table 17.9); none where the offset is unmapped. [DEDUCED, assumption 68] -/
def Chan.winReg (c : Chan) (off : Nat) : Option Nat :=
  if off = 0x000 then some c.hostId
  else if off = 0x004 then some (c.b.now % 2 ^ 32)
  else if off = 0x008 then some c.win.frameHi
  else if off = 0x010 then some c.b.evt.toNat
  else if off = 0x014 then some c.win.evtEnable.toNat
  else if off = 0x018 then some c.b.err.toNat
  else if off = 0x01C then some c.win.errEnable.toNat
  else if off = 0x020 then some c.win.ctrl
  else if off = 0x024 then some c.win.reqLen
  else if off = 0x028 then some c.win.rspLen
  else if off = 0x02C then some (c.win.wptr * 4)
  else if off = 0x030 then some (c.win.rptr * 4)
  else if off = 0x034 then some (mget (fun _ => 0) c.win.rsp c.win.rptr)
  else none

/-- What the host port answers to a read (R418 to R421): the data and hp_err. [DEDUCED, assumption 68] -/
def State.hostRead (s : State) (addr : Nat) : Nat × Bool :=
  let bad := (0, true)
  if addr % 4 ≠ 0 ∨ 0x5000 ≤ addr then bad
  else if addr < 0x1000 then (match s.sharedReg addr with | some d => (d, false) | none => bad)
  else match allCh.find? (fun c => decide (c.val = addr / 0x1000 - 1)) with
    | none => bad
    | some c =>
      if addr % 0x1000 = 0 then ((s.chan c).hostId, false)
      else if !(s.chan c).answersHost then bad
      else match (s.chan c).winReg (addr % 0x1000) with
        | some d => (d, false)
        | none => bad

/-- irq_evt and irq_err of a channel (R422): high while an enabled bit of the status is set. -/
def Chan.irqs (c : Chan) : Bool × Bool :=
  (decide (c.b.evt &&& c.win.evtEnable ≠ 0), decide (c.b.err &&& c.win.errEnable ≠ 0))

/-! ### The mailbox (R423) -/

/-- FRAME_LO_READ: the upper half is latched. -/
def Chan.frameLo (c : Chan) : Chan × Nat × Bool :=
  ({ c with win := { c.win with frameHi := c.b.now / 2 ^ 32 % 2 ^ 32 } }, c.b.now % 2 ^ 32, false)

/-- MAILBOX_DATA_WRITE. -/
def Chan.mbxWrite (c : Chan) (d : Nat) : Chan × Nat × Bool :=
  if c.win.busy then (c, 0, true)
  else ({ c with win := { c.win with req := mset (fun _ => 0) c.win.req c.win.wptr d, wptr := (c.win.wptr + 1) % 2048 } }, 0, false)

/-- MAILBOX_DATA_READ. [DESIGN CHOICE, assumption 6] -/
def Chan.mbxRead (c : Chan) : Chan × Nat × Bool :=
  ({ c with win := { c.win with rptr := (c.win.rptr + 1) % 2048 } }, mget (fun _ => 0) c.win.rsp c.win.rptr, false)

/-- MAILBOX_RSP_DONE. -/
def Chan.rspDone (c : Chan) : Chan := { c with win := { c.win with rspReady := false } }

/-- The bytes of the request that waits in the mailbox. -/
def Win.request (w : Win) (n : Nat) : List Byte :=
  ((List.range ((n + 3) / 4)).flatMap (fun k => natLe 4 (mget (fun _ => 0) w.req k))).take n

/-- The length of a mailbox request is one that the mailbox executes (R423). -/
def mbxLenOk (n : Nat) : Bool := decide (n % 8 = 0) && decide (16 ≤ n) && decide (n ≤ 8192)

/-- MAILBOX_GO: the request is executed as a Bivan message from the host port, answered LENGTH, or ignored. -/
def State.mailboxGo (s : State) (c : Ch) : State :=
  let x := s.chan c
  if x.win.busy || x.win.rspReady then s.putChan c { x with win := { x.win with goRefused := true } }
  else
    let n := x.win.reqLen
    let busy : Chan := { x with win := { x.win with busy := true } }
    let s1 := s.putChan c busy
    if mbxLenOk n then
      let m := parseReq .host x.b.hostAddr (x.win.request n)
      s1.onCS c (fun cs => cs.bivan m.1 m.2)
    else
      let m := parseReq .host x.b.hostAddr (x.win.request 16)
      s1.onCS c (fun cs => cs.on (fun y => y.deliverHost (bare x.b.hostAddr m.1 stLength m.2)))

/-- A write of the status registers (R422): bits written 1 are cleared but for those that a cause sets in the same cycle. -/
def Chan.irqClear (c : Chan) (err : Bool) (clear sets : Nat) : Chan :=
  let f := fun (old : BitVec 8) => (old &&& ~~~(BitVec.ofNat 8 clear)) ||| BitVec.ofNat 8 sets
  c.onB (fun b => if err then { b with err := f b.err } else { b with evt := f b.evt })

/-- A write of HP_MBX_CTRL (Table 17.11): go_refused is cleared, a response is done with, and a request is executed. -/
def State.ctrlWrite (s : State) (c : Ch) (d : Nat) : State :=
  let s1 := s.onWin c (fun x =>
    let x1 : Chan := if bit d 4 then { x with win := { x.win with goRefused := false } } else x
    (if bit d 2 then x1.rspDone else x1, 0, false))
  if s.sh.powered && (s.chan c).answersHost && bit d 0 then s1.mailboxGo c else s1

/-- A write of a window register without an act (Table 17.9). -/
def Chan.winWrite (c : Chan) (off d : Nat) : Chan × Nat × Bool :=
  let ok := fun (w : Win) => ({ c with win := w }, 0, false)
  let bad := (c, 0, true)
  if off = 0x010 then (c.irqClear false d 0, 0, false)
  else if off = 0x014 then ok { c.win with evtEnable := BitVec.ofNat 8 d }
  else if off = 0x018 then (c.irqClear true d 0, 0, false)
  else if off = 0x01C then ok { c.win with errEnable := BitVec.ofNat 8 d }
  else if off = 0x024 then (if c.win.busy then bad else ok { c.win with reqLen := d % 2 ^ 14 })
  else if off = 0x02C then (if c.win.busy then bad else ok { c.win with wptr := d / 4 % 2048 })
  else if off = 0x030 then ok { c.win with rptr := d / 4 % 2048 }
  else if off = 0x034 then c.mbxWrite d
  else bad

/-- HOST_REGISTER_WRITE (R418 to R420): unmapped, misaligned and read-only registers are refused with hp_err. -/
def State.hostWrite (s : State) (addr d : Nat) : State :=
  if addr % 4 ≠ 0 ∨ addr < 0x1000 ∨ 0x5000 ≤ addr then s.hostErr
  else match allCh.find? (fun c => decide (c.val = addr / 0x1000 - 1)) with
    | none => s.hostErr
    | some c => if addr % 0x1000 = 0x020 then s.ctrlWrite c d else s.onWin c (fun x => x.winWrite (addr % 0x1000) d)

/-- MAILBOX_GO and MAILBOX_RSP_DONE are writes of HP_MBX_CTRL. -/
def State.goWrite (s : State) (c : Ch) : State := s.ctrlWrite c 1

/-! ### The sideband (R86, R428) -/

/-- The channel of an SMBus command code: 0xB0 + 2c takes a request, 0xB1 + 2c returns a response. -/
def smbChan (base cmd : Nat) : Option Ch := allCh.find? (fun c => decide (cmd = base + 2 * c.val))

/-- A message that is shorter than a header has no opcode that could be answered by name; its parts do not add up to its length
(R76). -/
def parseShort (way : Way) (src : Word) (d : List Byte) : Nat × Req :=
  let m := parseReq way src (fitTo 16 d)
  (m.1, { m.2 with env := { m.2.env with length := BitVec.ofNat 16 d.length, carried := d.length } })

/-- SMBUS_BLOCK_WRITE (R86): one without a right PEC, or longer than a block, is discarded. -/
def State.smbWrite (s : State) (cmd : Nat) (d : List Byte) (pecOk : Bool) : State :=
  if !s.sh.powered || !pecOk || decide (255 < d.length) then s
  else match smbChan 0xB0 cmd with
    | none => s
    | some c =>
      let src := (s.chan c).b.sideAddr
      let m := if d.length < 16 then parseShort .sideband src d else parseReq .sideband src d
      s.onCS c (fun cs => cs.bivan m.1 m.2)

/-- SMBUS_BLOCK_READ (R86): the oldest response that is ready, or a block of byte count 0. -/
def State.smbRead (s : State) (cmd : Nat) : State :=
  if !s.sh.powered then s
  else match smbChan 0xB1 cmd with
    | none => s
    | some c =>
      let x := s.chan c
      let s1 := s.putChan c { x with side := x.side.drop 1 }
      { s1 with sh := s1.sh.emit (.smbus (x.side.headD [])) }

/-- smb_alert_n is asserted (R428): an unread response waits, and the Alert Response Address has not been answered since the last
one became ready. -/
def State.alert (s : State) : Bool := !s.sh.muted && (s.ch.toList).any (fun c => !c.side.isEmpty)

/-- SMBUS_ALERT_RESPONSE (R428). [DEDUCED, assumption 39] -/
def State.alertResponse (s : State) : State :=
  if s.sh.powered then { s with sh := { s.sh with muted := true }.emit (.smbus [BitVec.ofNat 8 (0x3C + Config.smbAddr.toNat)]) } else s

/-- SMBUS_CLOCK_LOW_TIMEOUT (R428). -/
def State.clockLow (s : State) : State := if s.sh.powered then { s with sh := s.sh.emit .smbusRelease } else s

/-! ### Test access (R429) -/

/-- The data register of an instruction (Table 17.12): `high` tells that the build's reset input is high, `ijtag` that the
instruments are enabled. [DEDUCED, assumption 69] -/
def tapReg (ir : Nat) (high ijtag : Bool) : TapReg :=
  if ir = 0x00 then (if high then .bypass else .boundary)
  else if ir = 0x01 then .idcode
  else if ir = 0x02 then .boundary
  else if ir = 0x20 then (if ijtag then .network else .segment)
  else .bypass

/-- What a data register captures: identification, 0 in the bypass and the 1-bit segment, and an open value in the others. -/
def tapCapture (r : TapReg) (leaf : Bool) (open_ : Nat) : Nat :=
  match r with
  | .idcode => if leaf then 0x35A7054F else 0x35A7154F
  | .bypass => 0
  | .segment => 0
  | .boundary => open_
  | .network => open_

/-- TAP_INSTRUCTION. [DEDUCED, assumption 69] -/
def State.tap (s : State) (n : Node) (ir : Byte) : State :=
  match n with
  | .leaf =>
    let d := s.leaf.b.draw
    let r := tapReg ir.toNat (s.leaf.b.phase != .asserted) (s.leaf.b.num K.instrumentsEnabled == 1)
    { s with leaf := { s.leaf with tapIr := ir, b := d.2.emit (.tap r (tapCapture r true d.1)) } }
  | .chan c =>
    let d := (s.chan c).b.draw
    let r := tapReg ir.toNat s.sh.powered ((s.chan c).b.num K.instrumentsEnabled == 1)
    let s1 := s.putChan c { s.chan c with b := d.2 }
    { s1 with sh := { s1.sh with ir := ir }.emit (.tap r (tapCapture r false d.1)) }

/-! ### The warm reset input (R424) -/

/-- WARM_RESET_INPUT: a pulse shorter than 100 ns is ignored, and so is the input in reset and during a cold start. -/
def State.warmInput (s : State) (ns : Nat) : State :=
  if ns < 100 ∨ s.sh.powered = false ∨ s.starting = true then s
  else { s.warmReset with sh := { s.warmReset.sh with warmHeld := true } }

/-- WARM_RESET_INPUT_RELEASE: the enter step ends. -/
def State.warmRelease (s : State) : State := { s with sh := { s.sh with warmHeld := false } }

end Sys2Proof.Machine
end

