-- ==== Sys2Proof/Machine/Rows.lean ====
section
/-! DEFINITION. How the commands of the table reach the units: writes of one object taking effect by themselves (R80, R92,
R93), time messages, core tap beats, and the images of a tray build's channel. -/

namespace Sys2Proof.Machine

/-! ### Writes of one object -/

/-- A block takes the write of an object now: all of them while it runs or starts, few in its other phases (R378, Tables 15.6
and 16.2). -/
def Blk.takes (b : Blk) (key : Nat) : Bool :=
  match b.phase with
  | .run => true
  | .cold => true
  | .failed => key / 65536 == 1 || key / 65536 == 2
  | .retained => key / 65536 == 1 || key / 65536 == 0x38
  | .off => key == K.channelWake
  | .asserted => false
  | .fast => false

section
variable {σ : Type} (E : Env σ)

/-- The checks of R93 on a value that takes effect: existence, size, range and state; with the value as it is kept. The role and
way of the request that carried it have been judged with that request. -/
def rowStatus (s : σ) (src : Word) (key : Nat) (v : Val) : Nat × Val :=
  let b := E.blk s
  match lookup b.isLeaf (key / 256) (key % 256) with
  | .inl st => (st, v)
  | .inr d =>
    let n := (valData d.type v).length
    if (typeSize d.type).getD n ≠ n ∨ (typeSize d.type).isSome ≠ (match v with | .num _ => true | .bytes _ => false) then (stLength, v)
    else match accept d b.isLeaf v with
      | none => (stRange, v)
      | some x => (E.chk s src true (overlay (E.val s) [(key, x)]) key x, x)

/-- A write of one object takes effect by `act`, or is refused; what it came to leaves the block. -/
def rowAct (s : σ) (src : Word) (key : Nat) (v : Val) (act : σ → Val → σ) : σ :=
  if !(E.blk s).takes key then s
  else
    let s0 := E.upd s (fun b => { b with applying := true })
    let r := rowStatus E s0 src key v
    let s1 := if r.1 = stOk then act s0 r.2 else E.miss s0 key r.1
    E.upd s1 (fun b => ({ b with applying := false }).emit (.act key r.1))

end

/-- A write of an object of the leaf takes effect by `f`. -/
def State.leafRow (s : State) (src : Word) (key : Nat) (v : Val) (f : Leaf → Val → Leaf) : State :=
  s.onLeaf (fun l => rowAct leafEnv l src key v f)

/-- The same from the leaf's home channel. -/
def State.leafOwn (s : State) (key : Nat) (v : Val) (f : Leaf → Val → Leaf) : State :=
  s.leafRow (chanAddr s.leaf.b.inUse) key v f

/-- A write of an object of a channel takes effect by `f`. -/
def State.chanRow (s : State) (c : Ch) (key : Nat) (v : Val) (f : Chan → Val → Chan) : State :=
  s.onCS c (fun cs => rowAct chanEnv cs cs.ch.b.hostAddr key v (fun t x => t.on (fun y => f y x)))

/-- A write of power_state of a channel: nothing outside the channel and the shared logic follows (R29). -/
def State.chanPower (s : State) (c : Ch) (n : Nat) (f : Chan → Chan) : State :=
  (s.putChan c (rowAct chanEnv { ch := s.chan c, sh := s.sh } (s.chan c).b.hostAddr K.powerState (.num n)
    (fun t _ => t.on f)).ch).settle

/-! ### Time -/

/-- The time unit of a block runs (Tables 15.5 and 15.6). -/
def Blk.timed (b : Blk) : Bool :=
  match b.phase with
  | .run => true
  | .cold => true
  | .retained => true
  | .asserted => false
  | .fast => false
  | .failed => false
  | .off => false

/-- The channels in C0 raise an interrupt of the supply (R364): irq_err for an overrange, irq_evt for a droop. -/
def State.signalSupply (s : State) (droop ovr : Bool) : State :=
  { s with ch := s.ch.map (fun (x : Chan) =>
      if !x.inC0 then x
      else
        let x1 := if droop then x.onB (fun b => b.raiseEvt irqSupply) else x
        if ovr then x1.onB (fun b => b.raiseErr irqSupply) else x1) }

/-- A sample of the bus is taken by channel `c` (R363, R364). -/
def State.busSample (s : State) (c : Ch) (code : Nat) : State :=
  let r := s.sh.sample code c.val
  ({ s with sh := r.1 }).signalSupply r.2.1 r.2.2

/-- The frame that channel `c` last opened is not the one of `before`. -/
def State.opened (s : State) (before : Blk) (c : Ch) : Bool :=
  s.sh.powered && (s.chan c).b.works && decide ((s.chan c).b.lastOpen ≠ before.lastOpen)

/-- The sample of the tick at the boundary of a frame that a step of time or a fast path opens (R295, R363): a free value.
[DESIGN CHOICE, assumption 79] -/
def State.boundarySample (s : State) (before : Blk) (c : Ch) : State :=
  if s.opened before c && decide (s.sh.sampler = c.val) then
    (s.putChan c ((s.chan c).onB (fun b => b.draw.2))).busSample c ((s.chan c).b.draw.1 % 4096)
  else s

/-- A time event acts on a block, and opens the frame that a step of its time makes due (R49). -/
def State.onTime (s : State) (n : Node) (f : Blk → Blk × Option Nat) : State :=
  match n with
  | .leaf => if s.leaf.b.timed then s.onLeaf (fun l => l.afterTime (f l.b)) else s
  | .chan c => if (s.chan c).b.timed then
      (s.onCS c (fun cs => cs.afterTime (f cs.ch.b))).boundarySample (s.chan c).b c
    else s

/-- A time event that steps nothing. -/
def State.onClock (s : State) (n : Node) (f : Blk → Blk) : State := s.onTime n (fun b => (f b, none))

/-! ### Core tap beats (R110, R111, R445) -/

/-- The leaf takes beats from the release of its reset on (R111, R445), unless it is in L2. -/
def Leaf.portOpen (l : Leaf) : Bool :=
  match l.b.phase with
  | .run => decide (l.b.num K.powerStateNow < 2)
  | .cold => true
  | .asserted => false
  | .fast => false
  | .failed => false
  | .retained => false
  | .off => false

/-- A trace event that a leaf in L2 receives is counted in 0x0C00:33 (R316); nothing else of it is seen. [DEDUCED, assumption 73] -/
def Leaf.asleepBeat (l : Leaf) (d : Nat) : Leaf :=
  if l.b.phase = .run ∧ l.b.num K.powerStateNow = 2 ∧ l.b.frameIsOpen = true ∧ beatKind d = 4 ∧ l.b.beatBad d = false then
    { l with b := (l.b.emit (.credit 1)).bump K.beatsIdle }
  else l

/-- The beats that are still in the intake buffer at offset `off` (R111): it gives one up in every cycle. [DESIGN CHOICE, assumption 33] -/
def Sampler.waiting (s : Sampler) (off : Nat) : Nat := s.intake - (off - s.intakeAt)

/-- The intake buffer holds one beat more (R111). [DESIGN CHOICE, assumption 33] -/
def Sampler.arrive (s : Sampler) (off : Nat) : Sampler := { s with intake := s.waiting off + 1, intakeAt := max s.intakeAt off }

/-- A beat arrives (R110, R111, R445): at a full intake buffer it is discarded and counted, without a credit; else its credit goes back
when it is removed, and it is discarded and counted, or reaches the unit of its kind. [DEDUCED, assumption 33] -/
def Leaf.takeBeat (l : Leaf) (d off : Nat) : Leaf :=
  if !l.portOpen then l.asleepBeat d
  else if 256 ≤ l.smp.waiting off then
    { l with b := l.b.bump K.creditViolations, smp := { l.smp with discarded := l.smp.discarded + 1 } }
  else if l.b.beatBad d || (!l.b.frameIsOpen && beatKind d != 1) then
    { l with b := (l.b.emit (.credit 1)).bump K.beatsDiscarded,
             smp := { l.smp.arrive off with discarded := l.smp.discarded + 1 } }
  else
    let l1 := { l with b := l.b.emit (.credit 1), smp := { l.smp.arrive off with accepted := l.smp.accepted + 1 } }
    if beatKind d = 1 then l1.takeCounters d
    else if beatKind d = 2 then l1.takeBarrier d off
    else if beatKind d = 3 then l1.takeChecksum d off
    else l1.takeTrace d off

/-! ### The common parts of a channel's commands -/

/-- A command acts on a channel with the shared logic while its units work. -/
def State.csWork (s : State) (c : Ch) (f : CS → CS) : State := if (s.chan c).b.works then s.onCS c f else s

/-- A command acts on the shared logic while rst_por_n is high. -/
def State.onShared (s : State) (f : Shared → Shared) : State := if s.sh.powered then { s with sh := f s.sh } else s

end Sys2Proof.Machine
end

