-- ==== Sys2Proof/Machine/ExecBivan.lean ====
section
/-! DEFINITION. The meanings of the commands of the chapter Object Dictionary: requests (R77 to R90), local transactions (R87 to
R94) and fleet transactions (R97 to R106), at the leaf or at a channel. -/

namespace Sys2Proof.Machine

/-- READ (R79); one with an opcode that no row of Table 3.9 has is a request of an unknown opcode (R77). [DESIGN CHOICE, assumption 78] -/
def execRead (n : Node) (q : Req) (s : State) : Answer :=
  match q.other with
  | none => .next (s.onNode n (fun l => doRead leafEnv l q) (fun cs => doRead chanEnv cs q))
  | some op => .next (s.onNode n (fun l => doUnknown leafEnv l op.toNat q) (fun cs => doUnknown chanEnv cs op.toNat q))

/-- WRITE (R80, R74). -/
def execWrite (n : Node) (q : Req) (s : State) : Answer :=
  .next (s.onNode n (fun l => doWrite leafEnv l q) (fun cs => doWrite chanEnv cs q))

/-- SEG_READ (R83). -/
def execSegRead (n : Node) (q : Req) (s : State) : Answer :=
  .next (s.onNode n (fun l => doSegRead leafEnv l q) (fun cs => doSegRead chanEnv cs q))

/-- SEG_WRITE (R83). -/
def execSegWrite (n : Node) (q : Req) (s : State) : Answer :=
  .next (s.onNode n (fun l => doSegWrite leafEnv l q) (fun cs => doSegWrite chanEnv cs q))

/-- TXN_OPEN (R87, R88). -/
def execTxnOpen (n : Node) (q : Req) (s : State) : Answer :=
  .next (s.onNode n (fun l => doTxnOpen leafEnv l q) (fun cs => doTxnOpen chanEnv cs q))

/-- TXN_STAGE (R89). -/
def execTxnStage (n : Node) (q : Req) (s : State) : Answer :=
  .next (s.onNode n (fun l => doTxnStage leafEnv l q) (fun cs => doTxnStage chanEnv cs q))

/-- TXN_COMMIT (R90, R91). -/
def execTxnCommit (n : Node) (q : Req) (s : State) : Answer :=
  .next (s.onNode n (fun l => doTxnCommit leafEnv l q) (fun cs => doTxnCommit chanEnv cs q))

/-- TXN_ABORT (R87). -/
def execTxnAbort (n : Node) (q : Req) (s : State) : Answer :=
  .next (s.onNode n (fun l => doTxnAbort leafEnv l q) (fun cs => doTxnAbort chanEnv cs q))

/-- TXN_STATUS (R87). -/
def execTxnStatus (n : Node) (q : Req) (s : State) : Answer :=
  .next (s.onNode n (fun l => doTxnStatus leafEnv l q) (fun cs => doTxnStatus chanEnv cs q))

/-- TXN_OPEN_EXPIRE (R87). [DEDUCED, assumption 17] -/
def execTxnOpenExpire (n : Node) (src num : Word) (s : State) : Answer :=
  .next (s.onNode n (fun l => if l.b.live then expireTxn leafEnv l src num else l)
    (fun cs => if cs.ch.b.live then expireTxn chanEnv cs src num else cs))

/-- BIVAN_RESPONSE (R77). -/
def execBivanResponse (n : Node) (r : Resp) (s : State) : Answer :=
  .next (s.onNode n (fun l => l.response r) (fun cs => cs.response r))

/-- A request that only the fleet root takes is answered WRONG_STATE by a leaf (R97). -/
def Leaf.refuseFleet (l : Leaf) (q : Req) : Leaf :=
  judge leafEnv l opFleetRequest q (decide (q.body.length = 32)) 2 (fun t src _ old => finishReq leafEnv t q old (bare src opFleetRequest stWrong q))

/-- FLEET_REQUEST (R97 to R99). -/
def execFleetRequest (n : Node) (q : Req) (s : State) : Answer :=
  .next (s.onNode n (fun l => l.refuseFleet q) (fun cs => cs.fleetRequest q))

/-- PREPARE (R100). -/
def execPrepare (n : Node) (q : Req) (s : State) : Answer :=
  .next (s.onNode n (fun l => doPrepare leafEnv l q) (fun cs => cs.prepare q))

/-- COMMIT_TOKEN (R104). -/
def execCommitToken (n : Node) (q : Req) (s : State) : Answer :=
  .next (s.onNode n (fun l => doToken leafEnv l q true) (fun cs => doToken chanEnv cs q true))

/-- ABORT_TOKEN (R104). -/
def execAbortToken (n : Node) (q : Req) (s : State) : Answer :=
  .next (s.onNode n (fun l => doToken leafEnv l q false) (fun cs => doToken chanEnv cs q false))

/-- TOKEN_QUERY (R104). -/
def execTokenQuery (n : Node) (q : Req) (s : State) : Answer :=
  .next (s.onNode n (fun l => doTokenQuery leafEnv l q) (fun cs => doTokenQuery chanEnv cs q))

/-- COMPENSATE (R106). -/
def execCompensate (n : Node) (q : Req) (s : State) : Answer :=
  .next (s.onNode n (fun l => doCompensate leafEnv l q) (fun cs => doCompensate chanEnv cs q))

/-- LAST_DECISION_FRAME (R102). -/
def execLastDecisionFrame (c : Ch) (seq : Word) (s : State) : Answer := .next (s.csWork c (fun cs => cs.lastDecision seq))

/-- GUARD_FRAME_QUERY (R104). -/
def execGuardFrameQuery (n : Node) (seq : Word) (s : State) : Answer :=
  .next (s.onNode n (fun l => if l.b.works then guardQuery leafEnv l seq else l)
    (fun cs => if cs.ch.b.works then guardQuery chanEnv cs seq else cs))

/-- DEADLINE_FRAME_DISCARD (R104). -/
def execDeadlineFrameDiscard (n : Node) (seq : Word) (s : State) : Answer :=
  .next (s.onNode n (fun l => if l.b.works then deadlineDiscard leafEnv l seq else l)
    (fun cs => if cs.ch.b.works then deadlineDiscard chanEnv cs seq else cs))

/-- COMMIT_COUNT_CHECK (R105). -/
def execCommitCountCheck (c : Ch) (seq : Word) (s : State) : Answer := .next (s.csWork c (fun cs => cs.commitCount seq))

/-- COMPENSATE_RETRY (R105). -/
def execCompensateRetry (c : Ch) (seq : Word) (s : State) : Answer := .next (s.csWork c (fun cs => cs.compRetry seq))

/-- UNDO_HORIZON_EXPIRE (R106). -/
def execUndoHorizonExpire (n : Node) (seq : Word) (s : State) : Answer :=
  .next (s.onNode n (fun l => if l.b.works then undoExpire leafEnv l seq else l)
    (fun cs => if cs.ch.b.works then undoExpire chanEnv cs seq else cs))

end Sys2Proof.Machine
end

