-- ==== Sys2Proof/Machine/ExecBring.lean ====
section
/-! DEFINITION. The meanings of the commands of the chapter Bring-Up, Reset, Hot Plug and the Clasp. -/

namespace Sys2Proof.Machine

/-! ### Bring-up -/

/-- POWER_ON_RESET (R378): rst_por_n rises. -/
def execPowerOnReset (s : State) : Answer := .next s.powerOn

/-- LEAF_POWER_ON (R378, R407): rst_aon_n rises. -/
def execLeafPowerOn (s : State) : Answer := .next (s.onLeaf Leaf.powerOn)

/-- PLL_LOCK (R378). -/
def execPllLock (c : Ch) (s : State) : Answer := .next (s.onChan c Chan.pllLock)

/-- SELFTEST_DONE (R379). -/
def execSelftestDone (n : Node) (rows : List (BitVec 10 × BitVec 12)) (segs : List (BitVec 16)) (s : State) : Answer :=
  match n with
  | .leaf => .next (s.onLeaf (fun l => l.selftestDone rows))
  | .chan c => .next (s.onChan c (fun x => x.selftestDone rows segs))

/-- RESTORE_DONE (R10, R349, R378, R440): `read.bad` names the records of flash, counted from 0, that fail their check. -/
def execRestoreDone (c : Ch) (read : FlashRead) (s : State) : Answer :=
  .next (s.restoreDone c read.readable read.bad)

/-- PHY_LINK_UP (R380, R382). -/
def execPhyLinkUp (c : Ch) (port : Fin 4) (s : State) : Answer := .next (s.onChan c (fun x => x.linkUp port.val))

/-- LINK_QUALIFY_DONE (R380, R381). -/
def execLinkQualifyDone (c : Ch) (port : Fin 4) (lanes : List Word) (s : State) : Answer :=
  .next (s.onChan c (fun x => x.qualified port.val lanes))

/-- PHY_LINK_DOWN (R382, R414). -/
def execPhyLinkDown (c : Ch) (port : Fin 4) (s : State) : Answer := .next (s.onChan c (fun x => x.linkDown port.val))

/-- MLP_LINK_DOWN (R412): `mid` tells that a frame was being received, which is discarded and counted. -/
def execMlpLinkDown (mid : Bool) (s : State) : Answer :=
  .next (s.leafWork (fun l => if mid then { l with b := l.b.bump K.framesAborted } else l))

/-- POWER_ON_RESET_ASSERT (R417): rst_por_n falls. -/
def execPowerOnResetAssert (s : State) : Answer := .next s.powerOff

/-- ALWAYS_ON_RESET_ASSERT (R407): rst_aon_n falls. -/
def execAlwaysOnResetAssert (s : State) : Answer := .next (s.onLeaf Leaf.resetAssert)

/-! ### Resets -/

/-- WARM_RESET_INPUT (R424): a low pulse of `ns` on hp_warm_reset_n. -/
def execWarmResetInput (ns : Word) (s : State) : Answer := .next (s.warmInput ns.toNat)

/-- WARM_RESET_INPUT_RELEASE (R424). -/
def execWarmResetInputRelease (s : State) : Answer := .next s.warmRelease

/-- A warm reset is due by channel `c`: the channel holds the clasp, or a request that it has taken waits (R377). -/
def State.warmDue (s : State) (c : Ch) : Bool :=
  let x : CS := { ch := s.chan c, sh := s.sh }
  x.ch.b.live && (x.holds || x.ch.b.resetWanted == some 1)

/-- WARM_RESET_REQUEST (R377): through a channel without the clasp it is refused with NOT_CLASP_HOLDER. -/
def execWarmResetRequest (c : Ch) (s : State) : Answer :=
  if s.warmDue c then .next s.warmReset
  else .next (s.onChan c (fun x => if x.b.live then x.onB (fun b => b.emit (.act K.resetRequest stNotClasp)) else x))

/-- CHANNEL_RESET_REQUEST (R377). -/
def execChannelResetRequest (c : Ch) (s : State) : Answer := .next (s.resetChan c)

/-- LEAF_RESET_REQUEST (R377). -/
def execLeafResetRequest (s : State) : Answer := .next (s.onLeaf Leaf.resetRequest)

/-- The enter step of a warm reset lasts while hp_warm_reset_n is low (R424). -/
def CS.held (cs : CS) : Bool := cs.sh.warmHeld && cs.ch.b.num K.lastResetKind == 1

/-- FAST_PATH_DONE (R383, R384): `scrub` names a word that the scrub found uncorrectable, `refOk` tells that the reference stayed
good, `k` is the frame that opens then and `ms` the time taken. -/
def execFastPathDone (n : Node) (scrub : Option (BitVec 52)) (refOk : Bool) (k : Word64) (ms : Word) (s : State) : Answer :=
  match n with
  | .leaf => .next (s.onLeaf (fun l => l.fastPathDone (scrub.map (·.toNat)) refOk k.toNat ms.toNat))
  | .chan c => .next ((s.onCS c (fun cs =>
      if cs.held then cs else cs.fastDone (scrub.map (·.toNat)) refOk k.toNat ms.toNat)).boundarySample (s.chan c).b c)

/-! ### Joins -/

/-- JOIN_ASSIGN (R389): the home channel writes it in the join's transaction. -/
def execJoinAssign (v : Word) (s : State) : Answer :=
  .next (s.leafRow (chanAddr (v.toNat / 32)) K.joinAssign (.num v.toNat) (fun l x => l.joinAssign x.toNum))

/-- REPAIR_ADD (R387). -/
def execRepairAdd (v : List Byte) (s : State) : Answer :=
  .next (s.leafOwn K.repairAdd (.bytes v) (fun l x => l.repairAdd x.toBytes))

/-- JOIN_RETRY_EXPIRE (R386). -/
def execJoinRetryExpire (c : Ch) (pos : BitVec 5) (s : State) : Answer := .next (s.atWork c (fun x => x.joinRetry pos.toNat))

/-- ROLE_SUCCESSOR_TIMEOUT (R392). -/
def execRoleSuccessorTimeout (c : Ch) (s : State) : Answer := .next (s.atWork c Chan.successorSilent)

/-! ### Withdrawal and removal -/

/-- WITHDRAW_LEAVES (R395). -/
def execWithdrawLeaves (c : Ch) (v : Word64) (s : State) : Answer :=
  .next (s.chanRow c K.withdrawLeaves (.num v.toNat) (fun x y => x.withdrawLeaves y.toNum))

/-- WITHDRAW_REGIONS_OFF (R395, Table 16.7). -/
def execWithdrawRegionsOff (c : Ch) (s : State) : Answer := .next (s.atWork c Chan.leaveRegions)

/-- WITHDRAW_ENTER_L2 (R395). -/
def execWithdrawEnterL2 (c : Ch) (s : State) : Answer := .next (s.atWork c Chan.leaveSleep)

/-- LEAF_WITHDRAW_DONE (R395). -/
def execLeafWithdrawDone (c : Ch) (pos : BitVec 6) (s : State) : Answer := .next (s.atWork c (fun x => x.leaveDone pos.toNat))

/-- MOVE_PARENT (R396): TRUE is written to move_parent at its apply frame. -/
def execMoveParent (s : State) : Answer := .next (s.leafOwn K.moveParent (.num 1) (fun l _ => l.moveParent))

/-- WITHDRAW_CHANNEL (R397): TRUE is written to withdraw_channel at its apply frame. -/
def execWithdrawChannel (c : Ch) (s : State) : Answer :=
  .next (s.chanRow c K.withdrawChannel (.num 1) (fun x y => x.withdraw y.toNum))

/-- CHANNEL_WITHDRAW_DONE (R397). -/
def execChannelWithdrawDone (c : Ch) (s : State) : Answer := .next (s.atWork c Chan.withdrawDone)

/-- MEMBER_LEAVE (R397). -/
def execMemberLeave (c : Ch) (src : Word) (id : BitVec 16) (s : State) : Answer :=
  .next (s.chanRow c K.memberLeave (.num id.toNat) (fun x y => x.memberLeave src y.toNum))

/-- CHANNEL_REMOVAL (R398). -/
def execChannelRemoval (c : Ch) (child : BitVec 16) (s : State) : Answer :=
  .next (s.atWork c (fun x => x.removeChild child.toNat))

/-! ### The clasp -/

/-- CLASP_CLAIM (R402). -/
def execClaspClaim (c : Ch) (s : State) : Answer := .next (s.csWork c (fun cs => cs.claimMissed c))

/-- CLAIM_WINDOW_CLOSE (R400, R403). -/
def execClaimWindowClose (s : State) : Answer := .next s.closeClaims

/-- CLAIM_BACKOFF_EXPIRE (R403). -/
def execClaimBackoffExpire (c : Ch) (s : State) : Answer := .next (s.csWork c (fun cs => cs.claimBackoff c))

/-- CLASP_HEARTBEAT (R401). -/
def execClaspHeartbeat (c : Ch) (s : State) : Answer := .next (s.heartbeat c)

end Sys2Proof.Machine
end

