-- ==== Sys2Proof/Machine/ExecEgress.lean ====
section
/-! DEFINITION. The meanings of the commands of the chapters Egress, Carat and Movers, and of the memory master port. -/

namespace Sys2Proof.Machine

/-! ### Egress -/

/-- STREAM_PACKET_SEND (R291, R292). -/
def execStreamPacketSend (c : Ch) (port : Fin 2) (s : State) : Answer := .next (s.atWork c (fun x => x.streamSend port.val))

/-- REFILL_TICK (R288, R294, R295, R364, R365), a tick after that of the boundary, which FRAME_OPEN makes: buckets refill and the pacer grants in the bus state that the tick finds; then
the sample counts, when the channel is the one that samples. -/
def execRefillTick (c : Ch) (sample : Option (BitVec 12)) (s : State) : Answer :=
  let s1 := s.atWork c (fun x => x.refillEgress.pacerTick (s.sh.num K.busState) (s.sh.num K.droopFraction))
  match sample with
  | some code => .next (if s.sh.powered && (s.chan c).b.works then s1.busSample c code.toNat else s1)
  | none => .next s1

/-- DROOP_RECOVER (R364). -/
def execDroopRecover (s : State) : Answer := .next (s.onShared Shared.recover)

/-- UPLINK_BACKPRESSURE (R414). -/
def execUplinkBackpressure (c : Ch) (port : Fin 2) (s : State) : Answer :=
  .next (s.atWork c (fun x => x.backpressure port.val true))

/-- BACKPRESSURE_CLEAR (R414). -/
def execBackpressureClear (c : Ch) (port : Fin 2) (s : State) : Answer :=
  .next (s.atWork c (fun x => x.backpressure port.val false))

/-- PORT_RETURN (R299). -/
def execPortReturn (c : Ch) (port : Fin 2) (s : State) : Answer := .next (s.atWork c (fun x => x.portReturn port.val))

/-- TRACE_TRIGGER_LEAVES (R311): the write takes effect at its apply frame. -/
def execTraceTriggerLeaves (c : Ch) (v : Word64) (s : State) : Answer :=
  .next (s.chanRow c K.traceTriggerLeaves (.num v.toNat) (fun x y => x.triggerWritten y.toNum))

/-! ### Carat -/

/-- CARAT_BLOCK_SEAL (R323, R331, R334). -/
def execCaratBlockSeal (c : Ch) (s : State) : Answer := .next (s.atWork c Chan.sealBlock)

/-- TRACE_FETCH (R329). -/
def execTraceFetch (c : Ch) (v : BitVec 16) (s : State) : Answer :=
  .next (s.chanRow c K.traceFetch (.num v.toNat) (fun x y => x.startFetch y.toNum))

/-- TRACE_FETCH_RESPONSE (R329, R330). -/
def execTraceFetchResponse (c : Ch) (stream : BitVec 4) (status : Byte) (data : List Byte) (s : State) : Answer :=
  .next (s.atWork c (fun x => x.fetchAnswer stream.toNat status.toNat data))

/-- JOB_SUBMIT (R332). -/
def execJobSubmit (c : Ch) (v : List Byte) (s : State) : Answer :=
  .next (s.chanRow c K.jobSubmit (.bytes v) (fun x y => x.submitJob y.toBytes))

/-- JOB_COMPLETE (R333). -/
def execJobComplete (c : Ch) (decomp : Bool) (s : State) : Answer := .next (s.atWork c (fun x => x.jobDone decomp))

/-- A read of job_result that hands out the record it removes. -/
def Chan.popJob (c : Chan) : Chan := c.popResult.2.onB (fun b => b.emit (.data K.jobResult c.popResult.1))

/-- JOB_RESULT (R333). -/
def execJobResult (c : Ch) (s : State) : Answer :=
  .next (s.onChan c (fun x => if x.b.takes K.jobResult then x.popJob else x))

/-! ### Movers and the memory master port -/

/-- MOVER_START (R343). -/
def execMoverStart (c : Ch) (m : Fin 8) (a : Word64) (s : State) : Answer :=
  .next (s.chanRow c (K.start + 256 * m.val) (.num a.toNat) (fun x y => x.moverStart m.val y.toNum))

/-- MOVER_STOP (R342): TRUE is written to a mover's stop object. -/
def execMoverStop (c : Ch) (m : Fin 8) (s : State) : Answer :=
  .next (s.chanRow c (K.stop + 256 * m.val) (.num 1) (fun x _ => x.moverStop m.val))

/-- DESCRIPTOR_FETCH (R339). -/
def execDescriptorFetch (c : Ch) (m : Fin 8) (s : State) : Answer := .next (s.atWork c (fun x => x.descFetch m.val))

/-- DESCRIPTOR_DONE (R339). -/
def execDescriptorDone (c : Ch) (m : Fin 8) (s : State) : Answer := .next (s.atWork c (fun x => x.descDone m.val))

/-- The channel that a tag names (R425): its bits [7:6]. -/
def tagChan (tag : Byte) : Ch := ⟨tag.toNat / 64, by have := tag.isLt; omega⟩

/-- MMP_RESPONSE (R425). -/
def execMmpResponse (tag : Byte) (err : Bool) (data : BitVec 512) (s : State) : Answer :=
  .next (s.atWork (tagChan tag) (fun x => x.mmpResponse (tag.toNat % 64) err data.toNat))

/-- MMP_TIMEOUT (R427). -/
def execMmpTimeout (tag : Byte) (s : State) : Answer :=
  .next (s.atWork (tagChan tag) (fun x => x.mmpTimeout (tag.toNat % 64)))

end Sys2Proof.Machine
end

