-- ==== Sys2Proof/Machine/ExecEngine.lean ====
section
/-! DEFINITION. The meanings of the commands of the chapters Balance, Laggards and Rules. -/

namespace Sys2Proof.Machine

/-- IMAGE_CHECK_DONE (R247, R248, R273). -/
def execImageCheckDone (c : Ch) (img : Img) (s : State) : Answer :=
  match img with
  | .balance => .next (s.atWork c Chan.balChecked)
  | .rule => .next (s.atWork c Chan.rulChecked)

/-- IMAGE_STORE_DONE (R250, R272, R349). -/
def execImageStoreDone (c : Ch) (img : Img) (ok : Bool) (s : State) : Answer :=
  .next (s.csWork c (fun cs => cs.imageStored img ok))

/-- BALANCE_IMAGE_SWAP (R251). -/
def execBalanceImageSwap (c : Ch) (s : State) : Answer := .next (s.chanRow c K.imageSwap (.num 1) (fun x _ => x.balSwap))

/-- RULE_IMAGE_SWAP (R272). -/
def execRuleImageSwap (c : Ch) (s : State) : Answer := .next (s.chanRow c K.rulImageSwap (.num 1) (fun x _ => x.rulSwap))

/-- BARRIER_WINDOW_EXPIRE (R256). -/
def execBarrierWindowExpire (c : Ch) (barrier : Word) (s : State) : Answer :=
  .next (s.atWork c (fun x => x.windowExpire barrier.toNat))

/-- RULE_TXN_COMMIT (R271). -/
def execRuleTxnCommit (c : Ch) (s : State) : Answer := .next (s.csWork c CS.ruleCommit)

/-- NOTIFY (R278, R279): a notification is written to notify. -/
def execNotify (c : Ch) (v : List Byte) (s : State) : Answer :=
  .next (s.chanRow c K.notify (.bytes v) (fun x y => x.sendNotify y.toBytes))

/-- SUSPECT_SET (R281). -/
def execSuspectSet (c : Ch) (v : List Byte) (s : State) : Answer :=
  .next (s.chanRow c K.suspectSet (.bytes v) (fun x y => x.setSuspects y.toBytes))

/-- SUSPECT_CLEAR (R281). -/
def execSuspectClear (c : Ch) (v : List Byte) (s : State) : Answer :=
  .next (s.chanRow c K.suspectClear (.bytes v) (fun x y => x.clearSuspects y.toBytes))

/-- LOSS_SUBMIT (R275, R277). -/
def execLossSubmit (c : Ch) (v : List Byte) (s : State) : Answer :=
  .next (s.chanRow c K.lossSubmit (.bytes v) (fun x y => x.submitLoss y.toBytes))

end Sys2Proof.Machine
end

