-- ==== Sys2Proof/Machine/ExecFrame.lean ====
section
/-! DEFINITION. The meanings of the commands of the chapter Frames and Time. -/

namespace Sys2Proof.Machine

/-- Errors that a leaf has corrected in the open frame (R345): each is counted, and makes a record for its packet. [DESIGN CHOICE, assumption 70] -/
def Leaf.corrected (l : Leaf) (fixed : List (Bool × BitVec 21)) : Leaf :=
  if l.b.phase ≠ .run then l
  else (fixed.filter (fun e => !e.1 && decide (e.2.toNat < 192 * 2048))).foldl (fun (x : Leaf) e =>
    ({ x with b := x.b.bump K.sramCorrected }).fault x.b.now 0x10 5 (x.id * 2 ^ 30 + e.2.toNat) x.b.now 0) l

/-- Errors that a channel has corrected in the open frame, in SRAM or in DRAM (R345, R347). [DESIGN CHOICE, assumption 70] -/
def Chan.corrected (c : Chan) (fixed : List (Bool × BitVec 21)) : Chan :=
  if c.b.phase ≠ .run then c
  else (fixed.filter (fun e => !e.1 || decide (e.2.toNat < 32768))).foldl (fun (x : Chan) e =>
    (x.onB (·.bump (if e.1 then K.dramCorrected else K.sramCorrected))).fault (if e.1 then 0x12 else 0x10) (if e.1 then 6 else 4)
      (x.id * 2 ^ 32 + e.2.toNat) x.b.now 0) c

/-- FRAME_OPEN (R36, R37, R47): frame k opens if it may, with the die temperature (R362), the errors that were corrected in the frame before
(R345, R347) and, when the channel is the one that samples, the bus sample of the boundary's tick (R295, R363). -/
def execFrameOpen (n : Node) (k : Word64) (given : Boundary) (s : State) : Answer :=
  match n with
  | .leaf => .next (s.onLeaf (fun l => (l.corrected given.fixed).openFrame k.toNat false))
  | .chan c =>
    let s1 := (s.reapStores c).onCS c (fun cs => (cs.on (·.corrected given.fixed)).openFrame k.toNat given.temp.toNat false)
    match given.sample with
    | some code => .next (if s1.opened (s.chan c).b c then s1.busSample c code.toNat else s1)
    | none => .next s1

/-- UNIT_OVERRUN (R40, Table 2.3): `left` is the work that is left over. -/
def execUnitOverrun (n : Node) (u : Unt) (f : Word64) (left : Nat) (s : State) : Answer :=
  match n with
  | .leaf => .next (s.leafWork (fun l => l.overrun u f.toNat left))
  | .chan c => .next (s.atWork c (fun x => x.overrun u f.toNat left))

/-- ANNOUNCE_RECEIVE (R443, R58). -/
def execAnnounceReceive (n : Node) (h : PtpHdr) (m : Announce) (s : State) : Answer :=
  .next (s.onClock n (fun b => b.announce h m))

/-- ANNOUNCE_TIMEOUT (R46, R53, R54). [DEDUCED, assumption 17] -/
def execAnnounceTimeout (n : Node) (d : Dom) (src : BitVec 80) (s : State) : Answer :=
  .next (s.onClock n (fun b => b.announceLost d src))

/-- SYNC_RECEIVE (R444). -/
def execSyncReceive (n : Node) (h : PtpHdr) (t1 t2 : BitVec 96) (s : State) : Answer :=
  .next (s.onTime n (fun b => b.sync h t1 t2))

/-- FOLLOW_UP_RECEIVE (R444). -/
def execFollowUpReceive (n : Node) (h : PtpHdr) (t1 : BitVec 96) (s : State) : Answer :=
  .next (s.onTime n (fun b => b.followUp h t1))

/-- DELAY_RESP_RECEIVE (R60, R444). -/
def execDelayRespReceive (n : Node) (h : PtpHdr) (t4 : BitVec 96) (s : State) : Answer :=
  .next (s.onTime n (fun b => b.delayResp h t4))

/-- DELAY_REQ_SEND (R60). -/
def execDelayReqSend (n : Node) (d : Dom) (seqId : BitVec 16) (t3 : BitVec 96) (s : State) : Answer :=
  .next (s.onClock n (fun b => b.delayReq d seqId t3))

/-- GUARD_ACCEPT (R53): TRUE is written to guard_accept. -/
def execGuardAccept (n : Node) (s : State) : Answer :=
  match n with
  | .leaf => .next (s.leafOwn K.guardAccept (.num 1) (fun l v => { l with b := l.b.guardAcceptAct v.toNum }))
  | .chan c => .next (s.chanRow c K.guardAccept (.num 1) (fun x v => x.onB (fun b => b.guardAcceptAct v.toNum)))

/-- ACTIVE_DOMAIN_WRITE (R55, R56): the switch takes effect at its apply frame. -/
def execActiveDomainWrite (n : Node) (v : Byte) (s : State) : Answer :=
  match n with
  | .leaf => .next (s.leafOwn K.activeDomain (.num v.toNat) (fun l x => { l with b := l.b.activeDomainAct x.toNum }))
  | .chan c => .next (s.chanRow c K.activeDomain (.num v.toNat) (fun y x => y.onB (fun b => b.activeDomainAct x.toNum)))

/-- HOLDOVER_BUDGET_EXPIRE (R57): the time in holdover has reached `ms`. -/
def execHoldoverBudgetExpire (n : Node) (ms : Word) (s : State) : Answer :=
  .next (s.onClock n (fun b => b.holdoverMs ms.toNat))

/-- PPS_EDGE (R59). -/
def execPpsEdge (c : Ch) (stamp : BitVec 96) (s : State) : Answer :=
  .next (s.onTime (.chan c) (fun b => b.ppsEdge (t96ns stamp.toNat)))

/-- PPS_LOSS (R59). -/
def execPpsLoss (c : Ch) (s : State) : Answer := .next (s.onClock (.chan c) (fun b => b.ppsLost))

/-- A read of tsq_pop that hands out the entry it removes. -/
def Blk.popStamp (b : Blk) : Blk := b.tsqPop.2.emit (.data K.tsqPop b.tsqPop.1)

/-- TSQ_POP (R61). -/
def execTsqPop (n : Node) (s : State) : Answer :=
  .next (s.onBlk n (fun b => if b.takes K.tsqPop then b.popStamp else b))

end Sys2Proof.Machine
end

