-- ==== Sys2Proof/Machine/ExecLeaf.lean ====
section
/-! DEFINITION. The meanings of the commands of the leaf's own chapters: sampling and fencing, touchstone, assay and trace. -/

namespace Sys2Proof.Machine

/-! ### Leaf sampling and fencing -/

/-- COUNTER_RECORD (R110 to R112, R445). -/
def execCounterRecord (b : BitVec 512) (off : BitVec 20) (s : State) : Answer :=
  .next (s.onLeaf (fun l => l.takeBeat b.toNat off.toNat))

/-- BARRIER_EVENT (R114, R115). -/
def execBarrierEvent (b : BitVec 512) (off : BitVec 20) (s : State) : Answer :=
  .next (s.onLeaf (fun l => l.takeBeat b.toNat off.toNat))

/-- CHECKSUM_WORD (R143, R151). -/
def execChecksumWord (b : BitVec 512) (off : BitVec 20) (s : State) : Answer :=
  .next (s.onLeaf (fun l => l.takeBeat b.toNat off.toNat))

/-- TRACE_EVENT (R304, R309). -/
def execTraceEvent (b : BitVec 512) (off : BitVec 20) (s : State) : Answer :=
  .next (s.onLeaf (fun l => l.takeBeat b.toNat off.toNat))

/-- CORE_LOST (R132, R133). -/
def execCoreLost (core : BitVec 10) (s : State) : Answer := .next (s.leafWork (fun l => l.coreLost core.toNat))

/-- LOST_TXN_RETRY (R134). -/
def execLostTxnRetry (s : State) : Answer := .next (s.leafWork Leaf.retryLost)

/-- FENCE_ACK_TIMEOUT (R131). -/
def execFenceAckTimeout (core : BitVec 10) (s : State) : Answer := .next (s.leafWork (fun l => l.ackTimeout core.toNat))

/-- FNC_ACK_CHANGE (R131, R410). -/
def execFncAckChange (core : BitVec 10) (v : Bool) (s : State) : Answer :=
  .next (s.leafWork (fun l => l.ackChange core.toNat v))

/-- REGION_READING (R123). -/
def execRegionReading (region : BitVec 5) (kind : BitVec 2) (value : BitVec 16) (s : State) : Answer :=
  .next (s.leafWork (fun l => l.regionReading region.toNat kind.toNat value.toNat))

/-- REGION_REQUEST_PRESENT (R125). -/
def execRegionRequestPresent (s : State) : Answer := .next (s.leafWork Leaf.presentRegion)

/-- REGION_REQ_ACK (R411). -/
def execRegionReqAck (s : State) : Answer := .next (s.leafWork Leaf.regionAck)

/-- REGION_REQ_TIMEOUT (R124). -/
def execRegionReqTimeout (s : State) : Answer := .next (s.leafWork Leaf.regionTimeout)

/-- REGION_MISMATCH (R126). -/
def execRegionMismatch (region : BitVec 5) (s : State) : Answer := .next (s.leafWork (fun l => l.regionMismatch region.toNat))

/-- REGION_SETTLE_END (R129). -/
def execRegionSettleEnd (region : BitVec 5) (s : State) : Answer := .next (s.leafWork (fun l => l.settleEnd region.toNat))

/-- ROUTING_NOTIFY (R134). -/
def execRoutingNotify (bitmap : List Byte) (s : State) : Answer :=
  .next (s.leafOwn K.routingNotify (.bytes bitmap) (fun l v => l.routingNotify v.toBytes))

/-- SERIES_TABLE_SWAP (R120): TRUE is written to series_swap at its apply frame. -/
def execSeriesTableSwap (s : State) : Answer := .next (s.leafOwn K.seriesSwap (.num 1) (fun l _ => l.swapSeries))

/-! ### Touchstone -/

/-- SAMPLE_RATIO_WRITE (R143, R144). -/
def execSampleRatioWrite (v : BitVec 16) (s : State) : Answer :=
  .next (s.leafOwn K.sampleRatio (.num v.toNat) (fun l x => l.setRatio x.toNum))

/-- TS_BEAT_DECIDE (R145 to R149). -/
def execTsBeatDecide (s : State) : Answer := .next (s.leafWork Leaf.decideNext)

/-- TS_SECTION_SEAL (R152 to R154). -/
def execTsSectionSeal (s : State) : Answer := .next (s.leafWork Leaf.sectionSeal)

/-- RELEARN (R147, R157). -/
def execRelearn (bitmap : List Byte) (s : State) : Answer :=
  .next (s.leafOwn K.relearn (.bytes bitmap) (fun l v => l.relearn v.toBytes))

/-! ### Assay -/

/-- WEIGHT_TAP_BEAT (R159, R163, R445). -/
def execWeightTapBeat (data : BitVec 1024) (tensor : BitVec 20) (word : Word) (count : BitVec 6) (epoch : BitVec 16) (s : State) :
    Answer :=
  .next (s.leafWork (fun l => l.weightBeat data.toNat tensor.toNat word.toNat count.toNat epoch.toNat))

/-- ASSAY_BEAT_DIGEST (R160 to R167). -/
def execAssayBeatDigest (s : State) : Answer := .next (s.leafWork Leaf.digestNext)

/-- TENSOR_TABLE_SWAP (R166): TRUE is written to tensor_swap at its apply frame. -/
def execTensorTableSwap (s : State) : Answer := .next (s.leafOwn K.tensorSwap (.num 1) (fun l _ => l.swapTensors))

/-! ### Trace unit -/

/-- TRACE_ARM (R308): the arm command at time `t` of the active domain. -/
def execTraceArm (t : BitVec 96) (s : State) : Answer :=
  .next (s.leafOwn K.traceCommand (.num 1) (fun l _ => l.traceAct 1 (t96ns t.toNat)))

/-- TRACE_TRIGGER (R308, R309). -/
def execTraceTrigger (t : BitVec 96) (s : State) : Answer :=
  .next (s.leafOwn K.traceCommand (.num 2) (fun l _ => l.traceAct 2 (t96ns t.toNat)))

/-- TRACE_STOP (R308). -/
def execTraceStop (t : BitVec 96) (s : State) : Answer :=
  .next (s.leafOwn K.traceCommand (.num 3) (fun l _ => l.traceAct 3 (t96ns t.toNat)))

/-- TRACE_CLEAR (R308). -/
def execTraceClear (s : State) : Answer := .next (s.leafOwn K.traceCommand (.num 4) (fun l _ => l.traceAct 4 l.nowTime))

/-- TRACE_RECORD_WRITE (R305, R307): the writer is gated in L2 (Table 15.5). -/
def execTraceRecordWrite (s : State) : Answer :=
  .next (s.leafWork (fun l => if l.b.num K.powerStateNow < 2 then l.writeNext else l))

/-- TRACE_STOP_INSTANT (R310). -/
def execTraceStopInstant (s : State) : Answer :=
  .next (s.leafWork (fun l => if l.b.num K.powerStateNow < 2 then l.stopInstant else l))

/-- STALL_BUDGET_EXPIRE (R313). -/
def execStallBudgetExpire (s : State) : Answer := .next (s.leafWork Leaf.stallBudget)

/-- TRACE_AUTHORISE_CLEAR (R308): FALSE is written to trace_authorised at time `t`. -/
def execTraceAuthoriseClear (t : BitVec 96) (s : State) : Answer :=
  .next (s.leafOwn K.traceAuthorised (.num 0) (fun l _ =>
    let l1 := { l with b := l.b.setNum K.traceAuthorised 0 }
    if l.capturing then l1.traceHalt 2 (t96ns t.toNat) else l1))

end Sys2Proof.Machine
end

