-- ==== Sys2Proof/Machine/ExecPort.lean ====
section
/-! DEFINITION. The meanings of the commands of the chapter Ports, Pins and Integration: the host port (R418 to R423), the
sideband (R86, R428) and test access (R429). -/

namespace Sys2Proof.Machine

/-- HOST_REGISTER_WRITE (R418 to R420). -/
def execHostRegisterWrite (addr : BitVec 16) (data : Word) (s : State) : Answer := .next (s.hostWrite addr.toNat data.toNat)

/-- FRAME_LO_READ (R420). -/
def execFrameLoRead (c : Ch) (s : State) : Answer := .next (s.onWin c Chan.frameLo)

/-- MAILBOX_DATA_WRITE (R420, R423). -/
def execMailboxDataWrite (c : Ch) (data : Word) (s : State) : Answer := .next (s.onWin c (fun x => x.mbxWrite data.toNat))

/-- MAILBOX_DATA_READ (R420, R423). -/
def execMailboxDataRead (c : Ch) (s : State) : Answer := .next (s.onWin c Chan.mbxRead)

/-- MAILBOX_GO (R423). -/
def execMailboxGo (c : Ch) (s : State) : Answer := .next (s.goWrite c)

/-- MAILBOX_RSP_DONE (R423): rsp_done is bit 2 of HP_MBX_CTRL. -/
def execMailboxRspDone (c : Ch) (s : State) : Answer := .next (s.ctrlWrite c 4)

/-- INTERRUPT_CLEAR (R422): `sets` are the bits that a cause sets in the same cycle. -/
def execInterruptClear (c : Ch) (err : Bool) (bits : Word) (sets : Word) (s : State) : Answer :=
  .next (s.onWin c (fun x => (x.irqClear err bits.toNat sets.toNat, 0, false)))

/-- SMBUS_BLOCK_WRITE (R86). -/
def execSmbusBlockWrite (cmd : Byte) (data : List Byte) (pecOk : Bool) (s : State) : Answer :=
  .next (s.smbWrite cmd.toNat data pecOk)

/-- SMBUS_BLOCK_READ (R86). -/
def execSmbusBlockRead (cmd : Byte) (s : State) : Answer := .next (s.smbRead cmd.toNat)

/-- SMBUS_ALERT_RESPONSE (R428). -/
def execSmbusAlertResponse (s : State) : Answer := .next s.alertResponse

/-- SMBUS_CLOCK_LOW_TIMEOUT (R428). -/
def execSmbusClockLowTimeout (s : State) : Answer := .next s.clockLow

/-- TAP_INSTRUCTION (R429). -/
def execTapInstruction (n : Node) (ir : Byte) (s : State) : Answer := .next (s.tap n ir)

end Sys2Proof.Machine
end

