-- ==== Sys2Proof/Machine/ExecSupply.lean ====
section
/-! DEFINITION. The meanings of the commands of the chapters Memory and Fault History, and Power, Supply and Thermal. -/

namespace Sys2Proof.Machine

/-! ### Memory and fault history -/

/-- SRAM_UNCORRECTABLE (R345): the record's kind is 0x11, its location kind 4 at a channel. -/
def execSramUncorrectable (n : Node) (array : BitVec 10) (row : BitVec 11) (s : State) : Answer :=
  match n with
  | .leaf => .next (s.onLeaf (fun l => l.uncorrectable array.toNat row.toNat))
  | .chan c => .next ((s.putChan c ((s.chan c).uncorrectable 0x11 4 (array.toNat * 2048 + row.toNat))).settle)

/-- DRAM_UNCORRECTABLE (R347): kind 0x13, location kind 6. -/
def execDramUncorrectable (c : Ch) (seg : BitVec 15) (s : State) : Answer :=
  .next ((s.putChan c ((s.chan c).uncorrectable 0x13 6 seg.toNat)).settle)

/-- A store of the leaf that failed is counted by the channel whose flash it is (R349, Table 14.13). -/
def State.countStore (s : State) (failed : Bool) : State :=
  match (if failed then s.chanOf (s.leaf.b.num K.parentActive) else none) with
  | none => s
  | some c => s.onChan c (fun x => x.onB (·.bump K.flashWriteFailures))

/-- FLASH_OPERATION_DONE (R74, R91, R349): the oldest store of the block ends. -/
def execFlashOperationDone (n : Node) (ok : Bool) (s : State) : Answer :=
  match n with
  | .leaf => .next ((s.onLeaf (fun l => if l.b.live then endStore leafEnv l ok else l)).countStore (s.leaf.b.live && !s.leaf.b.jobs.isEmpty && !ok))
  | .chan c => .next (s.flashDone c ok)

/-- FAULT_LOG_WRITE (R356). -/
def execFaultLogWrite (c : Ch) (stamp : BitVec 96) (s : State) : Answer := .next (s.atWork c (fun x => x.faultLogWrite stamp.toNat))

/-- PERMANENT_FENCE_COMMIT (R355). -/
def execPermanentFenceCommit (c : Ch) (s : State) : Answer := .next (s.atWork c Chan.permanentFence)

/-- CLEAR_LOCATION (R353). -/
def execClearLocation (c : Ch) (v : Word64) (s : State) : Answer :=
  .next (s.chanRow c K.clearLocation (.num v.toNat) (fun x y => x.clearLocation y.toNum))

/-- STARTUP_FAILURES (R354). -/
def execStartupFailures (c : Ch) (v : List Byte) (s : State) : Answer :=
  .next (s.chanRow c K.startupFailures (.bytes v) (fun x y => x.startupFailures y.toBytes))

/-- FIRMWARE_LOG_WRITE (R357). -/
def execFirmwareLogWrite (c : Ch) (v : List Byte) (s : State) : Answer :=
  .next (s.chanRow c K.firmwareLogWrite (.bytes v)
    (fun x y => x.onB (fun b => { b with jobs := b.jobs ++ [.firmware y.toBytes] })))

/-! ### Wakes and the core voltage -/

/-- WAKE_REQUEST (R366). -/
def execWakeRequest (c : Ch) (v : List Byte) (s : State) : Answer :=
  .next (s.chanRow c K.wakeRequest (.bytes v) (fun x y => x.wakeRequest y.toBytes))

/-- WAKE_TXN_COMMIT (R368). -/
def execWakeTxnCommit (c : Ch) (s : State) : Answer := .next (s.atWork c Chan.commitWakes)

/-- CORE_TARGET_STEP (R360). -/
def execCoreTargetStep (s : State) : Answer := .next (s.onShared (fun h => h.stepTarget s.needs))

/-- MARGIN_EVENT (R360): the core voltage is measured as `mv`. -/
def execMarginEvent (c : Ch) (mv : BitVec 16) (s : State) : Answer :=
  .next ((s.onShared (fun h => h.setNum K.coreMeasuredMv mv.toNat)).atWork c (fun x => x.marginEvent mv.toNat))

/-- CHANNEL_NEED_CHANGE (R360): a rise of the highest need raises the core target at once. -/
def execChannelNeedChange (c : Ch) (mv : BitVec 16) (s : State) : Answer := .next (s.atWork c (fun x => x.needChange mv.toNat))

/-! ### Low-power states (Tables 15.5 and 15.6) -/

/-- ENTER_L1 (R371, R315) at time `t` of the active domain. -/
def execEnterL1 (t : BitVec 96) (s : State) : Answer :=
  .next (s.leafOwn K.powerState (.num 1) (fun l _ => l.enterL1 (t96ns t.toNat)))

/-- ENTER_L2 (R372, R315). -/
def execEnterL2 (t : BitVec 96) (s : State) : Answer :=
  .next (s.leafOwn K.powerState (.num 2) (fun l _ => l.enterL2 (t96ns t.toNat)))

/-- ENTER_L3 (R371, R395). -/
def execEnterL3 (s : State) : Answer := .next (s.leafOwn K.powerState (.num 3) (fun l _ => l.enterL3))

/-- ENTER_L0 (R371, R372). -/
def execEnterL0 (t : BitVec 96) (s : State) : Answer :=
  .next (s.leafOwn K.powerState (.num 0) (fun l _ => l.enterL0 (t96ns t.toNat)))

/-- ENTER_C2 (R371, R373). -/
def execEnterC2 (c : Ch) (s : State) : Answer := .next (s.chanPower c 2 Chan.enterC2)

/-- ENTER_C3 (R371, R373). -/
def execEnterC3 (c : Ch) (s : State) : Answer := .next (s.chanPower c 3 Chan.enterC3)

/-- CHANNEL_WAKE (R371): TRUE is written to channel_wake. -/
def execChannelWake (c : Ch) (s : State) : Answer := .next (s.chanRow c K.channelWake (.num 1) (fun x _ => x.wake))

end Sys2Proof.Machine
end

