-- ==== Sys2Proof/Machine/ExecTree.lean ====
section
/-! DEFINITION. The meanings of the commands of the chapters Assay (comparing), Reduction, Series and Aggregates, at a channel or
at a leaf's link. -/

namespace Sys2Proof.Machine

/-! ### Assay at a channel -/

/-- ASSAY_WINDOW_EXPIRE (R172). -/
def execAssayWindowExpire (c : Ch) (group : Byte) (tensor : BitVec 20) (epoch : BitVec 16) (s : State) : Answer :=
  .next (s.atWork c (fun x => x.assayWindow group.toNat tensor.toNat epoch.toNat))

/-- GROUP_ENTRY_WRITE (R170): the entry of a group takes a value. -/
def execGroupEntryWrite (c : Ch) (group : Byte) (v : Word64) (s : State) : Answer :=
  .next (s.chanRow c (K.groupEntry + group.toNat) (.num v.toNat) (fun x y => x.writeGroup group.toNat y.toNum))

/-! ### Reduction -/

/-- DATA_FRAGMENT_RECEIVE (R177). -/
def execDataFragmentReceive (c : Ch) (src : Word) (h : FragHdr) (data : List Byte) (s : State) : Answer :=
  .next (s.atWork c (fun x => x.fragment src h data))

/-- CONTROL_FRAGMENT_RECEIVE (R179, R202, R207). -/
def execControlFragmentReceive (n : Node) (src : Word) (h : FragHdr) (entries : List RelEntry) (s : State) : Answer :=
  match n with
  | .leaf => .next (s.leafWork (fun l => { l with b := l.b.control src h entries }))
  | .chan c => .next (s.atWork c (fun x => x.parentControl src h entries))

/-- FRAGMENT_SEND (R178). -/
def execFragmentSend (n : Node) (s : State) : Answer :=
  match n with
  | .leaf => .next (s.leafWork (fun l => { l with b := l.b.fragmentSend }))
  | .chan c => .next (s.atWork c (fun x => x.onB (·.fragmentSend)))

/-- PARENT_LOST (R201, R207): a leaf in L2 declares no parent lost (R372). -/
def execParentLost (n : Node) (s : State) : Answer :=
  match n with
  | .leaf => .next (s.leafWork (fun l => if l.b.num K.powerStateNow < 2 then { l with b := l.b.parentLost } else l))
  | .chan c => .next (s.atWork c Chan.parentLost)

/-- LEAF_ABSENT (R201). -/
def execLeafAbsent (c : Ch) (pos : BitVec 6) (s : State) : Answer := .next (s.atWork c (fun x => x.leafAbsent pos.toNat))

/-- ATTACH_RECEIVE (R202, R203, R386, R390, R391). -/
def execAttachReceive (c : Ch) (joiner : Joiner) (pos : BitVec 5) (frame : Word64) (left : BitVec 16) (s : State) : Answer :=
  .next (s.atWork c (fun x => x.attach joiner.src joiner.port pos.toNat frame.toNat left.toNat))

/-- RELEASE_QUERY_RECEIVE (R202 step 3). -/
def execReleaseQueryReceive (c : Ch) (src left : Word) (children : List Word) (s : State) : Answer :=
  .next (s.atWork c (fun x => x.releaseQuery src left children))

/-- RELEASE_ANSWER_RECEIVE (R202 step 4). -/
def execReleaseAnswerReceive (c : Ch) (src : Word) (entries : List RelEntry) (s : State) : Answer :=
  .next (s.atWork c (fun x => x.releaseAnswer src entries))

/-- RELEASE_QUERY_TIMEOUT (R202). -/
def execReleaseQueryTimeout (c : Ch) (child : Word) (s : State) : Answer := .next (s.atWork c (fun x => x.queryTimeout child))

/-- RELEASE_ANSWER_MISSING (R202). -/
def execReleaseAnswerMissing (c : Ch) (child : Word) (s : State) : Answer := .next (s.atWork c (fun x => x.answerMissing child))

/-- RETURN_HOME (R206). -/
def execReturnHome (n : Node) (s : State) : Answer :=
  match n with
  | .leaf => .next (s.leafWork (fun l => { l with b := l.b.returnHome }))
  | .chan c => .next (s.atWork c (fun x => x.onB (·.returnHome)))

/-! ### Series and aggregates -/

/-- CHANNEL_SERIES_SWAP (R213, R228). -/
def execChannelSeriesSwap (c : Ch) (s : State) : Answer :=
  .next (s.chanRow c K.serSeriesSwap (.num 1) (fun x _ => x.swapSeries))

/-- PARAM_SETS_WRITE (R217): the sets take their values; every series that uses one keeps its state. -/
def execParamSetsWrite (c : Ch) (v : List Byte) (s : State) : Answer :=
  .next (s.chanRow c K.paramSets (.bytes v) (fun x y => x.onB (fun b => b.setVal K.paramSets y)))

/-- AGG_TABLE_SWAP (R184, R185). -/
def execAggTableSwap (c : Ch) (s : State) : Answer := .next (s.chanRow c K.aggSwap (.num 1) (fun x _ => x.swapAgg))

end Sys2Proof.Machine
end

