-- ==== Sys2Proof/Machine/Dispatch.lean ====
section
/-! DEFINITION. Every command has its meaning here, one arm each. -/

namespace Sys2Proof.Machine

def exec (i : Instr) (s : State) : Host.Outcome State Fault Refusal :=
  match i with
  | .frameOpen n k given => Sys2Proof.Machine.execFrameOpen n k given s
  | .unitOverrun n u f left => Sys2Proof.Machine.execUnitOverrun n u f left s
  | .announceReceive n h m => Sys2Proof.Machine.execAnnounceReceive n h m s
  | .announceTimeout n d src => Sys2Proof.Machine.execAnnounceTimeout n d src s
  | .syncReceive n h t1 t2 => Sys2Proof.Machine.execSyncReceive n h t1 t2 s
  | .followUpReceive n h t1 => Sys2Proof.Machine.execFollowUpReceive n h t1 s
  | .delayRespReceive n h t4 => Sys2Proof.Machine.execDelayRespReceive n h t4 s
  | .delayReqSend n d seqId t3 => Sys2Proof.Machine.execDelayReqSend n d seqId t3 s
  | .guardAccept n => Sys2Proof.Machine.execGuardAccept n s
  | .activeDomainWrite n v => Sys2Proof.Machine.execActiveDomainWrite n v s
  | .holdoverBudgetExpire n ms => Sys2Proof.Machine.execHoldoverBudgetExpire n ms s
  | .ppsEdge c stamp => Sys2Proof.Machine.execPpsEdge c stamp s
  | .ppsLoss c => Sys2Proof.Machine.execPpsLoss c s
  | .tsqPop n => Sys2Proof.Machine.execTsqPop n s
  | .read n q => Sys2Proof.Machine.execRead n q s
  | .write n q => Sys2Proof.Machine.execWrite n q s
  | .segRead n q => Sys2Proof.Machine.execSegRead n q s
  | .segWrite n q => Sys2Proof.Machine.execSegWrite n q s
  | .txnOpen n q => Sys2Proof.Machine.execTxnOpen n q s
  | .txnStage n q => Sys2Proof.Machine.execTxnStage n q s
  | .txnCommit n q => Sys2Proof.Machine.execTxnCommit n q s
  | .txnAbort n q => Sys2Proof.Machine.execTxnAbort n q s
  | .txnStatus n q => Sys2Proof.Machine.execTxnStatus n q s
  | .txnOpenExpire n src num => Sys2Proof.Machine.execTxnOpenExpire n src num s
  | .bivanResponse n r => Sys2Proof.Machine.execBivanResponse n r s
  | .fleetRequest n q => Sys2Proof.Machine.execFleetRequest n q s
  | .prepare n q => Sys2Proof.Machine.execPrepare n q s
  | .commitToken n q => Sys2Proof.Machine.execCommitToken n q s
  | .abortToken n q => Sys2Proof.Machine.execAbortToken n q s
  | .tokenQuery n q => Sys2Proof.Machine.execTokenQuery n q s
  | .compensate n q => Sys2Proof.Machine.execCompensate n q s
  | .lastDecisionFrame c seq => Sys2Proof.Machine.execLastDecisionFrame c seq s
  | .guardFrameQuery n seq => Sys2Proof.Machine.execGuardFrameQuery n seq s
  | .deadlineFrameDiscard n seq => Sys2Proof.Machine.execDeadlineFrameDiscard n seq s
  | .commitCountCheck c seq => Sys2Proof.Machine.execCommitCountCheck c seq s
  | .compensateRetry c seq => Sys2Proof.Machine.execCompensateRetry c seq s
  | .undoHorizonExpire n seq => Sys2Proof.Machine.execUndoHorizonExpire n seq s
  | .counterRecord b off => Sys2Proof.Machine.execCounterRecord b off s
  | .barrierEvent b off => Sys2Proof.Machine.execBarrierEvent b off s
  | .checksumWord b off => Sys2Proof.Machine.execChecksumWord b off s
  | .traceEvent b off => Sys2Proof.Machine.execTraceEvent b off s
  | .coreLost core => Sys2Proof.Machine.execCoreLost core s
  | .lostTxnRetry => Sys2Proof.Machine.execLostTxnRetry s
  | .fenceAckTimeout core => Sys2Proof.Machine.execFenceAckTimeout core s
  | .fncAckChange core v => Sys2Proof.Machine.execFncAckChange core v s
  | .regionReading region kind value => Sys2Proof.Machine.execRegionReading region kind value s
  | .regionRequestPresent => Sys2Proof.Machine.execRegionRequestPresent s
  | .regionReqAck => Sys2Proof.Machine.execRegionReqAck s
  | .regionReqTimeout => Sys2Proof.Machine.execRegionReqTimeout s
  | .regionMismatch region => Sys2Proof.Machine.execRegionMismatch region s
  | .regionSettleEnd region => Sys2Proof.Machine.execRegionSettleEnd region s
  | .routingNotify bitmap => Sys2Proof.Machine.execRoutingNotify bitmap s
  | .seriesTableSwap => Sys2Proof.Machine.execSeriesTableSwap s
  | .sampleRatioWrite v => Sys2Proof.Machine.execSampleRatioWrite v s
  | .tsBeatDecide => Sys2Proof.Machine.execTsBeatDecide s
  | .tsSectionSeal => Sys2Proof.Machine.execTsSectionSeal s
  | .relearn bitmap => Sys2Proof.Machine.execRelearn bitmap s
  | .weightTapBeat data tensor word count epoch => Sys2Proof.Machine.execWeightTapBeat data tensor word count epoch s
  | .assayBeatDigest => Sys2Proof.Machine.execAssayBeatDigest s
  | .tensorTableSwap => Sys2Proof.Machine.execTensorTableSwap s
  | .assayWindowExpire c group tensor epoch => Sys2Proof.Machine.execAssayWindowExpire c group tensor epoch s
  | .groupEntryWrite c group v => Sys2Proof.Machine.execGroupEntryWrite c group v s
  | .dataFragmentReceive c src h data => Sys2Proof.Machine.execDataFragmentReceive c src h data s
  | .controlFragmentReceive n src h entries => Sys2Proof.Machine.execControlFragmentReceive n src h entries s
  | .fragmentSend n => Sys2Proof.Machine.execFragmentSend n s
  | .parentLost n => Sys2Proof.Machine.execParentLost n s
  | .leafAbsent c pos => Sys2Proof.Machine.execLeafAbsent c pos s
  | .attachReceive c joiner pos frame left => Sys2Proof.Machine.execAttachReceive c joiner pos frame left s
  | .releaseQueryReceive c src left children => Sys2Proof.Machine.execReleaseQueryReceive c src left children s
  | .releaseAnswerReceive c src entries => Sys2Proof.Machine.execReleaseAnswerReceive c src entries s
  | .releaseQueryTimeout c child => Sys2Proof.Machine.execReleaseQueryTimeout c child s
  | .releaseAnswerMissing c child => Sys2Proof.Machine.execReleaseAnswerMissing c child s
  | .returnHome n => Sys2Proof.Machine.execReturnHome n s
  | .channelSeriesSwap c => Sys2Proof.Machine.execChannelSeriesSwap c s
  | .paramSetsWrite c v => Sys2Proof.Machine.execParamSetsWrite c v s
  | .aggTableSwap c => Sys2Proof.Machine.execAggTableSwap c s
  | .imageCheckDone c img => Sys2Proof.Machine.execImageCheckDone c img s
  | .imageStoreDone c img ok => Sys2Proof.Machine.execImageStoreDone c img ok s
  | .balanceImageSwap c => Sys2Proof.Machine.execBalanceImageSwap c s
  | .ruleImageSwap c => Sys2Proof.Machine.execRuleImageSwap c s
  | .barrierWindowExpire c barrier => Sys2Proof.Machine.execBarrierWindowExpire c barrier s
  | .ruleTxnCommit c => Sys2Proof.Machine.execRuleTxnCommit c s
  | .notify c v => Sys2Proof.Machine.execNotify c v s
  | .suspectSet c v => Sys2Proof.Machine.execSuspectSet c v s
  | .suspectClear c v => Sys2Proof.Machine.execSuspectClear c v s
  | .lossSubmit c v => Sys2Proof.Machine.execLossSubmit c v s
  | .streamPacketSend c port => Sys2Proof.Machine.execStreamPacketSend c port s
  | .refillTick c sample => Sys2Proof.Machine.execRefillTick c sample s
  | .droopRecover => Sys2Proof.Machine.execDroopRecover s
  | .uplinkBackpressure c port => Sys2Proof.Machine.execUplinkBackpressure c port s
  | .backpressureClear c port => Sys2Proof.Machine.execBackpressureClear c port s
  | .portReturn c port => Sys2Proof.Machine.execPortReturn c port s
  | .traceArm t => Sys2Proof.Machine.execTraceArm t s
  | .traceTrigger t => Sys2Proof.Machine.execTraceTrigger t s
  | .traceStop t => Sys2Proof.Machine.execTraceStop t s
  | .traceClear => Sys2Proof.Machine.execTraceClear s
  | .traceRecordWrite => Sys2Proof.Machine.execTraceRecordWrite s
  | .traceStopInstant => Sys2Proof.Machine.execTraceStopInstant s
  | .stallBudgetExpire => Sys2Proof.Machine.execStallBudgetExpire s
  | .traceAuthoriseClear t => Sys2Proof.Machine.execTraceAuthoriseClear t s
  | .traceTriggerLeaves c v => Sys2Proof.Machine.execTraceTriggerLeaves c v s
  | .caratBlockSeal c => Sys2Proof.Machine.execCaratBlockSeal c s
  | .traceFetch c v => Sys2Proof.Machine.execTraceFetch c v s
  | .traceFetchResponse c stream status data => Sys2Proof.Machine.execTraceFetchResponse c stream status data s
  | .jobSubmit c v => Sys2Proof.Machine.execJobSubmit c v s
  | .jobComplete c decomp => Sys2Proof.Machine.execJobComplete c decomp s
  | .jobResult c => Sys2Proof.Machine.execJobResult c s
  | .moverStart c m a => Sys2Proof.Machine.execMoverStart c m a s
  | .moverStop c m => Sys2Proof.Machine.execMoverStop c m s
  | .descriptorFetch c m => Sys2Proof.Machine.execDescriptorFetch c m s
  | .descriptorDone c m => Sys2Proof.Machine.execDescriptorDone c m s
  | .mmpResponse tag err data => Sys2Proof.Machine.execMmpResponse tag err data s
  | .mmpTimeout tag => Sys2Proof.Machine.execMmpTimeout tag s
  | .sramUncorrectable n array row => Sys2Proof.Machine.execSramUncorrectable n array row s
  | .dramUncorrectable c seg => Sys2Proof.Machine.execDramUncorrectable c seg s
  | .flashOperationDone n ok => Sys2Proof.Machine.execFlashOperationDone n ok s
  | .faultLogWrite c stamp => Sys2Proof.Machine.execFaultLogWrite c stamp s
  | .permanentFenceCommit c => Sys2Proof.Machine.execPermanentFenceCommit c s
  | .clearLocation c v => Sys2Proof.Machine.execClearLocation c v s
  | .startupFailures c v => Sys2Proof.Machine.execStartupFailures c v s
  | .firmwareLogWrite c v => Sys2Proof.Machine.execFirmwareLogWrite c v s
  | .wakeRequest c v => Sys2Proof.Machine.execWakeRequest c v s
  | .wakeTxnCommit c => Sys2Proof.Machine.execWakeTxnCommit c s
  | .coreTargetStep => Sys2Proof.Machine.execCoreTargetStep s
  | .marginEvent c mv => Sys2Proof.Machine.execMarginEvent c mv s
  | .enterL1 t => Sys2Proof.Machine.execEnterL1 t s
  | .enterL2 t => Sys2Proof.Machine.execEnterL2 t s
  | .enterL3 => Sys2Proof.Machine.execEnterL3 s
  | .enterL0 t => Sys2Proof.Machine.execEnterL0 t s
  | .enterC2 c => Sys2Proof.Machine.execEnterC2 c s
  | .enterC3 c => Sys2Proof.Machine.execEnterC3 c s
  | .channelWake c => Sys2Proof.Machine.execChannelWake c s
  | .powerOnReset => Sys2Proof.Machine.execPowerOnReset s
  | .leafPowerOn => Sys2Proof.Machine.execLeafPowerOn s
  | .pllLock c => Sys2Proof.Machine.execPllLock c s
  | .selftestDone n rows segs => Sys2Proof.Machine.execSelftestDone n rows segs s
  | .restoreDone c read => Sys2Proof.Machine.execRestoreDone c read s
  | .phyLinkUp c port => Sys2Proof.Machine.execPhyLinkUp c port s
  | .linkQualifyDone c port lanes => Sys2Proof.Machine.execLinkQualifyDone c port lanes s
  | .phyLinkDown c port => Sys2Proof.Machine.execPhyLinkDown c port s
  | .mlpLinkDown mid => Sys2Proof.Machine.execMlpLinkDown mid s
  | .warmResetInput ns => Sys2Proof.Machine.execWarmResetInput ns s
  | .warmResetRequest c => Sys2Proof.Machine.execWarmResetRequest c s
  | .channelResetRequest c => Sys2Proof.Machine.execChannelResetRequest c s
  | .leafResetRequest => Sys2Proof.Machine.execLeafResetRequest s
  | .fastPathDone n scrub refOk k ms => Sys2Proof.Machine.execFastPathDone n scrub refOk k ms s
  | .joinAssign v => Sys2Proof.Machine.execJoinAssign v s
  | .repairAdd v => Sys2Proof.Machine.execRepairAdd v s
  | .joinRetryExpire c pos => Sys2Proof.Machine.execJoinRetryExpire c pos s
  | .roleSuccessorTimeout c => Sys2Proof.Machine.execRoleSuccessorTimeout c s
  | .withdrawLeaves c v => Sys2Proof.Machine.execWithdrawLeaves c v s
  | .withdrawRegionsOff c => Sys2Proof.Machine.execWithdrawRegionsOff c s
  | .withdrawEnterL2 c => Sys2Proof.Machine.execWithdrawEnterL2 c s
  | .leafWithdrawDone c pos => Sys2Proof.Machine.execLeafWithdrawDone c pos s
  | .moveParent => Sys2Proof.Machine.execMoveParent s
  | .withdrawChannel c => Sys2Proof.Machine.execWithdrawChannel c s
  | .channelWithdrawDone c => Sys2Proof.Machine.execChannelWithdrawDone c s
  | .memberLeave c src id => Sys2Proof.Machine.execMemberLeave c src id s
  | .channelRemoval c child => Sys2Proof.Machine.execChannelRemoval c child s
  | .claspClaim c => Sys2Proof.Machine.execClaspClaim c s
  | .claimWindowClose => Sys2Proof.Machine.execClaimWindowClose s
  | .claimBackoffExpire c => Sys2Proof.Machine.execClaimBackoffExpire c s
  | .claspHeartbeat c => Sys2Proof.Machine.execClaspHeartbeat c s
  | .hostRegisterWrite addr data => Sys2Proof.Machine.execHostRegisterWrite addr data s
  | .frameLoRead c => Sys2Proof.Machine.execFrameLoRead c s
  | .mailboxDataWrite c data => Sys2Proof.Machine.execMailboxDataWrite c data s
  | .mailboxDataRead c => Sys2Proof.Machine.execMailboxDataRead c s
  | .mailboxGo c => Sys2Proof.Machine.execMailboxGo c s
  | .mailboxRspDone c => Sys2Proof.Machine.execMailboxRspDone c s
  | .interruptClear c err bits sets => Sys2Proof.Machine.execInterruptClear c err bits sets s
  | .smbusBlockWrite cmd data pecOk => Sys2Proof.Machine.execSmbusBlockWrite cmd data pecOk s
  | .smbusBlockRead cmd => Sys2Proof.Machine.execSmbusBlockRead cmd s
  | .smbusAlertResponse => Sys2Proof.Machine.execSmbusAlertResponse s
  | .smbusClockLowTimeout => Sys2Proof.Machine.execSmbusClockLowTimeout s
  | .tapInstruction n ir => Sys2Proof.Machine.execTapInstruction n ir s
  | .powerOnResetAssert => Sys2Proof.Machine.execPowerOnResetAssert s
  | .alwaysOnResetAssert => Sys2Proof.Machine.execAlwaysOnResetAssert s
  | .warmResetInputRelease => Sys2Proof.Machine.execWarmResetInputRelease s
  | .channelNeedChange c mv => Sys2Proof.Machine.execChannelNeedChange c mv s

end Sys2Proof.Machine
end

