-- ==== Sys2Proof/Safety.lean ====
section
/-! DEFINITION. What claims say of a state and of a run: the tables of canonical form, a command that completes, and the parts of a
state that a command's own effect is about, apart from what follows from every command around it. -/

namespace Sys2Proof.Machine

/-! ### Canonical form -/

/-- The tables of a block are in canonical form: its dictionary, and its short frames. -/
def Blk.wf (b : Blk) : Bool := mwf (dflt b.isLeaf) b.store && mwf (fun _ => 0) b.shorts

/-- The mover windows are in canonical form. -/
def Mem.wf (m : Mem) : Bool := mwf (fun _ => 0) m.sram && mwf (fun _ => 0) m.dram

/-- The dictionaries and mover windows of the machine are in canonical form. -/
def State.wf (s : State) : Bool :=
  s.leaf.b.wf && (s.ch.toList).all (fun c => c.b.wf && c.mem.wf) && mwf (dflt false) s.sh.store

/-! ### What a block is -/

/-- Every block is of its kind and in its place: the leaf build is a leaf, channel c of the tray is a channel in place c (R21). -/
def State.seated (s : State) : Prop :=
  (s.leaf.b.isLeaf = true ∧ s.leaf.b.place = 0) ∧ ∀ c : Ch, (s.chan c).b.isLeaf = false ∧ (s.chan c).b.place = c.val

/-! ### Completion -/

/-- A command completes, and the state that it leaves satisfies `P`. -/
def Runs (i : Instr) (s : State) (P : State → Prop) : Prop := ∃ t, exec i s = .next t ∧ P t

/-- A run is safe when every step of it answers a next state. -/
def Safe (s : State) : Prop := ∃ t, step s = .next t

/-! ### What a command's own effect is about -/

/-- An object that the fault history store counts in (0x3400). -/
def isFaultKey (k : Nat) : Bool := k / 256 == 0x3400

/-- A block without what its ports and its stores in flash do around a command: what crossed the ports, the event flags, the counts
of the fault history, and how far stores have come. -/
def Blk.own (b : Blk) : Blk :=
  { b with store := mfilter (fun k => !isFaultKey k) b.store, out := [], evt := 0, nextSeq := 0, jobs := [], execs := [],
           txns := b.txns.map (fun t => { t with storing := 0 }) }

/-- A channel without its mailbox, its sideband queue, its flash, its fault history and its own requests. -/
def Chan.own (c : Chan) : Chan :=
  { c with b := c.b.own, win := Win.reset, side := [], flash := [], hist := Hist.reset, faultIn := [], rem := [] }

/-- A channel without its flash and the stores under way: all that a command of another channel may change in it (R440). -/
def Chan.apart (c : Chan) : Chan := { c with flash := [], b := { c.b with jobs := [] } }

/-- A channel without, beside these, the interrupts of the supply, which every channel raises at a sample of the bus (R364). -/
def Chan.dry (c : Chan) : Chan :=
  { c.apart with b := { c.apart.b with
      evt := c.b.evt &&& ~~~ BitVec.ofNat 8 (2 ^ irqSupply), err := c.b.err &&& ~~~ BitVec.ofNat 8 (2 ^ irqSupply) } }

/-- A leaf without what it has handed to its home channel, the frame from which it reads withdrawing, and what crossed its ports. -/
def Leaf.own (l : Leaf) : Leaf :=
  { l with stores := [], currents := [], notices := [], leaveAt := none, b := { l.b with out := [] } }

/-- The shared logic without what settles after every command: the core target and removal_ready, the holder that a sleeping channel
gives up, and the generations of stores. -/
def Shared.own (h : Shared) : Shared :=
  { h with store := [], changes := 0, holder := 0, freed := [], gen := 0, gens := [], currents := [], muted := false }

/-- From `s` to `t` nothing has moved beside channel `c` but what follows every command: not the leaf, not the shared logic, and in
the other channels only their copies of tray-level objects. -/
def State.beside (c : Ch) (s t : State) : Prop :=
  t.leaf.own = s.leaf.own ∧ t.sh.own = s.sh.own ∧ ∀ d, d ≠ c → (t.chan d).apart = (s.chan d).apart

/-- From `s` to `t` nothing has moved beside the leaf but the copies of its objects in flash. -/
def State.besideLeaf (s t : State) : Prop := t.sh.own = s.sh.own ∧ ∀ c, (t.chan c).apart = (s.chan c).apart

/-- The leaf has handed nothing to its home channel that is still to be taken. -/
def Leaf.handed (l : Leaf) : Bool := l.notices.isEmpty && l.stores.isEmpty && l.currents.isEmpty

/-- The common part of the block that a command addresses. -/
def State.blk (s : State) (n : Node) : Blk :=
  match n with
  | .leaf => s.leaf.b
  | .chan c => (s.chan c).b

/-- A write of `v` to an object of the leaf that takes effect now passes the checks of R93, and keeps its value. -/
def Leaf.passes (l : Leaf) (src : Word) (key : Nat) (v : Val) : Bool :=
  l.b.takes key && decide (rowStatus leafEnv { l with b := { l.b with applying := true } } src key v = (stOk, v))

/-- The same for an object of a channel, with the shared logic `h` of its tray. -/
def Chan.passes (c : Chan) (h : Shared) (key : Nat) (v : Val) : Bool :=
  c.b.takes key && decide (rowStatus chanEnv { ch := { c with b := { c.b with applying := true } }, sh := h } c.b.hostAddr key v = (stOk, v))

/-- The block that a command addresses takes a write of `v` to its object `key` now (R93): for the leaf, one of the channel that
serves it. -/
def State.passes (s : State) (n : Node) (key : Nat) (v : Val) : Bool :=
  match n with
  | .leaf => s.leaf.passes (chanAddr s.leaf.b.inUse) key v
  | .chan c => (s.chan c).passes s.sh key v

end Sys2Proof.Machine

namespace Sys2Proof

/-- The channel that a node is, if it is one. -/
def Node.chan? : Node → Option Ch
  | .leaf => none
  | .chan c => some c

/-- The channel that a command addresses and on which alone it acts, with the shared logic; none for the commands of the leaf, those of
the tray as a whole, and those through which a channel acts on the others (the clasp, the supply, stores of tray-level objects). -/
def Instr.only : Instr → Option Ch
  | .frameOpen n _ _ => n.chan?
  | .unitOverrun n _ _ _ => n.chan?
  | .announceReceive n _ _ => n.chan?
  | .announceTimeout n _ _ => n.chan?
  | .syncReceive n _ _ _ => n.chan?
  | .followUpReceive n _ _ => n.chan?
  | .delayRespReceive n _ _ => n.chan?
  | .delayReqSend n _ _ _ => n.chan?
  | .guardAccept n => n.chan?
  | .activeDomainWrite n _ => n.chan?
  | .holdoverBudgetExpire n _ => n.chan?
  | .ppsEdge c _ => some c
  | .ppsLoss c => some c
  | .tsqPop n => n.chan?
  | .read n _ => n.chan?
  | .write n _ => n.chan?
  | .segRead n _ => n.chan?
  | .segWrite n _ => n.chan?
  | .txnOpen n _ => n.chan?
  | .txnStage n _ => n.chan?
  | .txnCommit n _ => n.chan?
  | .txnAbort n _ => n.chan?
  | .txnStatus n _ => n.chan?
  | .txnOpenExpire n _ _ => n.chan?
  | .bivanResponse n _ => n.chan?
  | .fleetRequest n _ => n.chan?
  | .prepare n _ => n.chan?
  | .commitToken n _ => n.chan?
  | .abortToken n _ => n.chan?
  | .tokenQuery n _ => n.chan?
  | .compensate n _ => n.chan?
  | .lastDecisionFrame c _ => some c
  | .guardFrameQuery n _ => n.chan?
  | .deadlineFrameDiscard n _ => n.chan?
  | .commitCountCheck c _ => some c
  | .compensateRetry c _ => some c
  | .undoHorizonExpire n _ => n.chan?
  | .counterRecord _ _ => none
  | .barrierEvent _ _ => none
  | .checksumWord _ _ => none
  | .traceEvent _ _ => none
  | .coreLost _ => none
  | .lostTxnRetry => none
  | .fenceAckTimeout _ => none
  | .fncAckChange _ _ => none
  | .regionReading _ _ _ => none
  | .regionRequestPresent => none
  | .regionReqAck => none
  | .regionReqTimeout => none
  | .regionMismatch _ => none
  | .regionSettleEnd _ => none
  | .routingNotify _ => none
  | .seriesTableSwap => none
  | .sampleRatioWrite _ => none
  | .tsBeatDecide => none
  | .tsSectionSeal => none
  | .relearn _ => none
  | .weightTapBeat _ _ _ _ _ => none
  | .assayBeatDigest => none
  | .tensorTableSwap => none
  | .assayWindowExpire c _ _ _ => some c
  | .groupEntryWrite c _ _ => some c
  | .dataFragmentReceive c _ _ _ => some c
  | .controlFragmentReceive n _ _ _ => n.chan?
  | .fragmentSend n => n.chan?
  | .parentLost n => n.chan?
  | .leafAbsent c _ => some c
  | .attachReceive c _ _ _ _ => some c
  | .releaseQueryReceive c _ _ _ => some c
  | .releaseAnswerReceive c _ _ => some c
  | .releaseQueryTimeout c _ => some c
  | .releaseAnswerMissing c _ => some c
  | .returnHome n => n.chan?
  | .channelSeriesSwap c => some c
  | .paramSetsWrite c _ => some c
  | .aggTableSwap c => some c
  | .imageCheckDone c _ => some c
  | .imageStoreDone c _ _ => some c
  | .balanceImageSwap c => some c
  | .ruleImageSwap c => some c
  | .barrierWindowExpire c _ => some c
  | .ruleTxnCommit c => some c
  | .notify c _ => some c
  | .suspectSet c _ => some c
  | .suspectClear c _ => some c
  | .lossSubmit c _ => some c
  | .streamPacketSend c _ => some c
  | .refillTick _ _ => none
  | .droopRecover => none
  | .uplinkBackpressure c _ => some c
  | .backpressureClear c _ => some c
  | .portReturn c _ => some c
  | .traceArm _ => none
  | .traceTrigger _ => none
  | .traceStop _ => none
  | .traceClear => none
  | .traceRecordWrite => none
  | .traceStopInstant => none
  | .stallBudgetExpire => none
  | .traceAuthoriseClear _ => none
  | .traceTriggerLeaves c _ => some c
  | .caratBlockSeal c => some c
  | .traceFetch c _ => some c
  | .traceFetchResponse c _ _ _ => some c
  | .jobSubmit c _ => some c
  | .jobComplete c _ => some c
  | .jobResult c => some c
  | .moverStart c _ _ => some c
  | .moverStop c _ => some c
  | .descriptorFetch c _ => some c
  | .descriptorDone c _ => some c
  | .mmpResponse tag _ _ => some (Machine.tagChan tag)
  | .mmpTimeout tag => some (Machine.tagChan tag)
  | .sramUncorrectable n _ _ => n.chan?
  | .dramUncorrectable c _ => some c
  | .flashOperationDone _ _ => none
  | .faultLogWrite c _ => some c
  | .permanentFenceCommit c => some c
  | .clearLocation c _ => some c
  | .startupFailures c _ => some c
  | .firmwareLogWrite c _ => some c
  | .wakeRequest c _ => some c
  | .wakeTxnCommit c => some c
  | .coreTargetStep => none
  | .marginEvent c _ => some c
  | .enterL1 _ => none
  | .enterL2 _ => none
  | .enterL3 => none
  | .enterL0 _ => none
  | .enterC2 c => some c
  | .enterC3 c => some c
  | .channelWake c => some c
  | .powerOnReset => none
  | .leafPowerOn => none
  | .pllLock c => some c
  | .selftestDone n _ _ => n.chan?
  | .restoreDone _ _ => none
  | .phyLinkUp c _ => some c
  | .linkQualifyDone c _ _ => some c
  | .phyLinkDown c _ => some c
  | .mlpLinkDown _ => none
  | .warmResetInput _ => none
  | .warmResetRequest _ => none
  | .channelResetRequest c => some c
  | .leafResetRequest => none
  | .fastPathDone n _ _ _ _ => n.chan?
  | .joinAssign _ => none
  | .repairAdd _ => none
  | .joinRetryExpire c _ => some c
  | .roleSuccessorTimeout c => some c
  | .withdrawLeaves c _ => some c
  | .withdrawRegionsOff c => some c
  | .withdrawEnterL2 c => some c
  | .leafWithdrawDone c _ => some c
  | .moveParent => none
  | .withdrawChannel c => some c
  | .channelWithdrawDone c => some c
  | .memberLeave c _ _ => some c
  | .channelRemoval c _ => some c
  | .claspClaim c => some c
  | .claimWindowClose => none
  | .claimBackoffExpire c => some c
  | .claspHeartbeat _ => none
  | .hostRegisterWrite _ _ => none
  | .frameLoRead c => some c
  | .mailboxDataWrite c _ => some c
  | .mailboxDataRead c => some c
  | .mailboxGo c => some c
  | .mailboxRspDone c => some c
  | .interruptClear c _ _ _ => some c
  | .smbusBlockWrite _ _ _ => none
  | .smbusBlockRead _ => none
  | .smbusAlertResponse => none
  | .smbusClockLowTimeout => none
  | .tapInstruction n _ => n.chan?
  | .powerOnResetAssert => none
  | .alwaysOnResetAssert => none
  | .warmResetInputRelease => none
  | .channelNeedChange c _ => some c

end Sys2Proof

namespace Sys2Proof.Machine

/-! ### Requests -/

/-- A block takes up a request: it executes commands that come this way, and no reset that it has answered is due. -/
def Blk.answering (b : Blk) (q : Req) : Bool := b.hears q && b.resetWanted.isNone

/-- The block remembers no executed request of the source that this one would repeat or fall behind (R81), and there is room. -/
def Blk.newTo (b : Blk) (q : Req) : Bool :=
  (match b.memOf (b.srcOf q) with
   | none => true
   | some m => serialAfter q.seq m.high && (m.resps.find? (fun r => r.seq == q.seq)).isNone) && decide (b.execs.length < 32)

/-- A request comes to the execution of its opcode, but for the role that the opcode needs (R75, R76, R84, R442 steps 1 to 4). -/
def Blk.fresh (b : Blk) (op : Nat) (q : Req) : Bool := b.answering q && envOk q && whole q && b.mine op q && b.newTo q

/-- The leaf once it has noted a request's number (R81). -/
def Leaf.hear (l : Leaf) (q : Req) : Leaf := { l with b := l.b.heard (l.b.srcOf q) q.seq }

/-- A channel with its shared logic once it has noted a request's number (R81). -/
def CS.hear (s : CS) (q : Req) : CS := { s with ch := { s.ch with b := s.ch.b.heard (s.ch.b.srcOf q) q.seq } }

/-- What a READ of an item hands out: the type of its object and the value, when the block lets the request read it (R78, R79). -/
def readOut {σ : Type} (E : Env σ) (s : σ) (q : Req) (role : Nat) (i : Item) : Option (Nat × Val) :=
  let idx := i.index.toNat
  let sub := i.sub.toNat
  if !(E.blk s).answers q idx sub || (decide (sub ≠ 0) && decide (E.rchk s (itemKey i) ≠ stOk)) then none
  else match (readStatus (E.blk s).isLeaf role idx sub).2.1 with
    | none => none
    | some d => some (d.type, if sub = 0 then d.dflt else (E.rd s (itemKey i)).1)

/-- The same at the block that a request reaches. -/
def State.readsOut (s : State) (n : Node) (q : Req) (i : Item) : Option (Nat × Val) :=
  match n with
  | .leaf => readOut leafEnv (s.leaf.hear q) q (s.leaf.b.effRole q) i
  | .chan c => readOut chanEnv (CS.hear { ch := s.chan c, sh := s.sh } q) q ((s.chan c).b.effRole q) i

/-- What a written item comes to (R442 step 6): for one that a transaction carries, once the request has been noted on its transaction
(R87). -/
def acceptOut {σ : Type} (E : Env σ) (s : σ) (q : Req) (src : Word) (role : Nat) (txn : Bool) (staged : List Wr) (i : Item) : Nat × Val × Bool :=
  let t := if txn then E.upd s (fun b => b.touchTxn src q.txn) else s
  writeStatus E t q src role txn (overlay (E.val t) staged) i

/-- The value that a written item gives its object, when the checks of step 6 of R442 accept it; `txn` when a transaction carries it,
judged with the writes `staged` before it. -/
def State.accepts (s : State) (n : Node) (q : Req) (txn : Bool) (staged : List Wr) (i : Item) : Option Val :=
  let r := match n with
    | .leaf => acceptOut leafEnv (s.leaf.hear q) q (s.leaf.b.srcOf q) (s.leaf.b.effRole q) txn staged i
    | .chan c => acceptOut chanEnv (CS.hear { ch := s.chan c, sh := s.sh } q) q ((s.chan c).b.srcOf q) ((s.chan c).b.effRole q) txn staged i
  if r = (stOk, r.2.1, false) then some r.2.1 else none

/-- Writes whose commit stores nothing and makes no table or image active, of which none withdraws the channel (R91, R397). -/
def plainWrites (leaf : Bool) (ws : List Wr) : Bool :=
  ws.all (fun w => clsOf leaf w.1 != .s &&
    !([K.seriesSwap, K.tensorSwap, K.aggSwap, K.serSeriesSwap, K.imageSwap, K.rulImageSwap, K.withdrawChannel].contains w.1))

/-- What a pass over items to be staged has found: the status of the header, and the writes in order (R89). -/
def passed {σ : Type} (p : Pass σ) : Nat × List Wr := (headStatus p.items, p.writes.reverse.map (·.2))

/-- The writes that a PREPARE stages at a node, when every item addressed to it is accepted (R98, R100). -/
def State.prepares (s : State) (n : Node) (q : Req) : Option (List Wr) :=
  let b := s.blk n
  let mine := b.fleetItems (parseFleet q.body) q.items
  let r := match n with
    | .leaf => passed (prepareItems leafEnv s.leaf q (b.effRole q) mine)
    | .chan c => passed (prepareItems chanEnv
        { ch := (s.chan c).forward opPrepare q.txn q.items q.body (parseFleet q.body).mask, sh := s.sh } q (b.effRole q) mine)
  if r.1 = stOk then some r.2 else none

end Sys2Proof.Machine

namespace Sys2Proof

/-- The requests that R442 judges: where they arrive, and their opcode (Table 3.9); READ's row brings the unknown opcodes too. -/
def Instr.asks : Instr → Option (Node × Req × Nat)
  | .read n q => match q.other with
    | none => some (n, q, Machine.opRead)
    | some op => if readOpOk q then some (n, q, op.toNat) else none
  | .write n q => some (n, q, Machine.opWrite)
  | .segRead n q => some (n, q, Machine.opSegRead)
  | .segWrite n q => some (n, q, Machine.opSegWrite)
  | .txnOpen n q => some (n, q, Machine.opTxnOpen)
  | .txnStage n q => some (n, q, Machine.opTxnStage)
  | .txnCommit n q => some (n, q, Machine.opTxnCommit)
  | .txnAbort n q => some (n, q, Machine.opTxnAbort)
  | .txnStatus n q => some (n, q, Machine.opTxnStatus)
  | .fleetRequest n q => some (n, q, Machine.opFleetRequest)
  | .tokenQuery n q => some (n, q, Machine.opTokenQuery)
  | _ => none

/-- The commands with which a frame may open at a channel, and the bus be sampled (R36, R49, R363, R383). -/
def Instr.samples : Instr → Bool
  | .frameOpen _ _ _ => true
  | .announceReceive _ _ _ => true
  | .announceTimeout _ _ _ => true
  | .syncReceive _ _ _ _ => true
  | .followUpReceive _ _ _ => true
  | .delayRespReceive _ _ _ => true
  | .delayReqSend _ _ _ _ => true
  | .holdoverBudgetExpire _ _ => true
  | .ppsEdge _ _ => true
  | .ppsLoss _ => true
  | .fastPathDone _ _ _ _ _ => true
  | _ => false

/-- The request has the form of its opcode: one item for a segment, 8 bytes of body for a commit, 32 for a fleet request, and none for
an opcode that is not known. -/
def Req.formed (q : Req) (op : Nat) : Bool :=
  (!(op == Machine.opSegRead || op == Machine.opSegWrite) || q.items.length == 1) &&
    (!(op == Machine.opTxnCommit) || q.body.length == 8) && (!(op == Machine.opFleetRequest) || q.body.length == 32) &&
    (q.other.isNone || q.body.length == 0)

end Sys2Proof

namespace Sys2Proof.Machine

/-! ### Counters and answers -/

/-- The counter `key` of a block has advanced by `n`, holding at the largest value of its type (R9). -/
def Blk.counts (before after : Blk) (key : Nat) (n : Nat := 1) : Prop :=
  after.num key = min (before.num key + n) (typeMax (typeOf before.isLeaf key))

/-- A core tap beat of a kind that the leaf takes at offset `off`: its port is open, its intake buffer has a place (R111), R110 does
not discard it, and a frame is open unless it is a counter record. -/
def Leaf.admits (l : Leaf) (d kind off : Nat) : Bool :=
  l.portOpen && decide (l.smp.waiting off < 256) && (l.b.frameIsOpen || kind == 1) && !l.b.beatBad d && beatKind d == kind

end Sys2Proof.Machine

namespace Sys2Proof

/-- A core tap beat with its offset in the frame. -/
def Instr.beat? : Instr → Option (BitVec 512 × BitVec 20)
  | .counterRecord b off => some (b, off)
  | .barrierEvent b off => some (b, off)
  | .checksumWord b off => some (b, off)
  | .traceEvent b off => some (b, off)
  | _ => none

/-- The commands of the leaf's units that neither open a frame nor write an object nor reset: sampling, fencing, regions, touchstone,
assay, trace. -/
def Instr.unitOfLeaf : Instr → Bool
  | .counterRecord _ _ => true
  | .barrierEvent _ _ => true
  | .checksumWord _ _ => true
  | .traceEvent _ _ => true
  | .coreLost _ => true
  | .lostTxnRetry => true
  | .fenceAckTimeout _ => true
  | .fncAckChange _ _ => true
  | .regionReading _ _ _ => true
  | .regionRequestPresent => true
  | .regionReqAck => true
  | .regionReqTimeout => true
  | .regionMismatch _ => true
  | .regionSettleEnd _ => true
  | .tsBeatDecide => true
  | .tsSectionSeal => true
  | .weightTapBeat _ _ _ _ _ => true
  | .assayBeatDigest => true
  | .traceRecordWrite => true
  | .traceStopInstant => true
  | .stallBudgetExpire => true
  | _ => false

end Sys2Proof
end

