-- ==== Sys2Proof/Certificates/Slice0/Obligations.lean ====
section
/-! DEFINITION. The statements about the model, each a proposition for the provers. -/

open Sys2Proof Sys2Proof.Machine

/-! ### The queue of commands and the block as a whole -/

/-- A step takes the command at the front of the queue: it is `exec` of that command on the state with the rest of the queue. -/
def Obligations.StepRunsTheFrontCommand : Prop :=
  ∀ (c : Instr) (rest : List Instr) (s : State), step { s with pending := c :: rest } = exec c { s with pending := rest }

/-- Every command, in every state, answers a next state, and leaves the commands that wait as they are. The queue is first in, first
out: a step from a queue leaves exactly the rest of it. With no command waiting, a step changes nothing (the model's choice,
assumption 2). The spec gives the commands no words: no word spells one, and none is ever put into the queue by a word. -/
def Obligations.QueuesRun : Prop :=
  (∀ (i : Instr) (s : State), Runs i s (fun t => t.pending = s.pending)) ∧
  (∀ (s t : State), step s = .next t → t.pending = s.pending.tail) ∧
  (∀ s : State, s.pending = [] → step s = .next s) ∧
  (∀ (s : State) (nbits w : Nat), decodeTableWord nbits w = none ∧ s.withFetchWord nbits w = s)

/-- The block is what it is: every step keeps the leaf a leaf, and each channel a channel in its place in the tray (R21). -/
def Obligations.StepsKeepKindAndPlace : Prop :=
  ∀ (s t : State), s.seated → step s = .next t → t.seated

/-- Reset: the blocks are of their kind and in their places, both builds are held in reset, no command waits, no frame is open, no
register of the leaf is listed away from its default, and of a channel only its identifier, composed of tray number 0 and its place
(R21, R23), and no channel holds the clasp. -/
def Obligations.ResetLeaves : Prop :=
  State.reset.seated ∧ State.reset.wf = true ∧ State.reset.pending = [] ∧
  State.reset.leaf.b.phase = .asserted ∧ State.reset.leaf.b.store = [] ∧ State.reset.leaf.b.frameIsOpen = false ∧
  (∀ c : Ch, (State.reset.chan c).b.phase = .asserted ∧ (State.reset.chan c).b.num K.channelId = c.val ∧
    (∀ p ∈ (State.reset.chan c).b.store, p.1 = K.channelId) ∧
    (State.reset.chan c).b.frameIsOpen = false ∧ (State.reset.chan c).mem.sram = [] ∧ (State.reset.chan c).mem.dram = []) ∧
  State.reset.sh.powered = false ∧ State.reset.sh.holder = 0xFF ∧ State.reset.sh.epoch = 0

/-- A command that acts on one channel alone leaves the leaf and every other channel as they are, but for the copies of tray-level
objects that the other channels keep in their flash and, with a command at which a frame may open, the interrupts of the supply that a
sample of the bus raises. -/
def Obligations.ChannelsAreIsolated : Prop :=
  ∀ (i : Instr) (c : Ch) (s : State), i.only = some c →
    Runs i s (fun t => t.leaf.own = s.leaf.own ∧ (∀ d, d ≠ c → (t.chan d).dry = (s.chan d).dry) ∧
      (i.samples = false → ∀ d, d ≠ c → (t.chan d).apart = (s.chan d).apart))

/-! ### Frames and time -/

/-- FRAME_OPEN of a frame that may open: the block runs and has locked, and the frame is the next: the one after the open frame, or,
with none open, the first at or after local time that lies above every frame opened and every boundary passed (the model's reading of
R47, assumption 76). It is the newest frame from then on, unless a power state that takes effect at this boundary has taken the
block's frames away. A channel first gives up the stores that it has lost with another channel. FRAME_OPEN with no corrected errors
changes nothing of its block when the frame is not above every frame opened (R37); before the servo has locked it opens no frame
(R47). UNIT_OVERRUN of a unit that Table 2.3 declares: the cause of Table 2.4 joins the causes of the frame, and the declaration
counts for the block's open frame (R43); a channel raises irq_evt. -/
def Obligations.FramesOpen : Prop :=
  (∀ (s : State) (k : Word64) (temp : BitVec 16) (fixed : List (Bool × BitVec 21)) (sample : Option (BitVec 12)), s.seated →
     ((s.leaf.b.phase = .run ∧ s.leaf.b.needLock = false ∧ (∀ n, s.leaf.b.lastOpen = some n → n < k.toNat) ∧
         k.toNat = s.leaf.b.nextFrame) →
       Runs (.frameOpen .leaf k ⟨temp, fixed, sample⟩) s (fun t => t.leaf.b.lastOpen = some k.toNat ∨ t.leaf.b.lastOpen = none)) ∧
     ∀ c : Ch, let b := ((s.reapStores c).chan c).b
       (b.phase = .run ∧ b.needLock = false ∧ (∀ n, b.lastOpen = some n → n < k.toNat) ∧ k.toNat = b.nextFrame) →
       Runs (.frameOpen (.chan c) k ⟨temp, fixed, sample⟩) s (fun t =>
         (t.chan c).b.lastOpen = some k.toNat ∨ (t.chan c).b.lastOpen = none)) ∧
  (∀ (s : State) (k : Word64) (temp : BitVec 16) (sample : Option (BitVec 12)) (m : Nat), k.toNat ≤ m →
     ((s.leaf.b.sequencing = true ∧ s.leaf.b.lastOpen = some m) →
       Runs (.frameOpen .leaf k ⟨temp, [], sample⟩) s (fun t => t.leaf.own = s.leaf.own)) ∧
     ∀ c : Ch, (s.reapStores c = s ∧ (s.chan c).b.sequencing = true ∧ (s.chan c).b.lastOpen = some m) →
       Runs (.frameOpen (.chan c) k ⟨temp, [], sample⟩) s (fun t => (t.chan c).own = (s.chan c).own)) ∧
  (∀ (s : State) (k : Word64) (temp : BitVec 16) (fixed : List (Bool × BitVec 21)) (sample : Option (BitVec 12)),
     (s.leaf.b.needLock = true → Runs (.frameOpen .leaf k ⟨temp, fixed, sample⟩) s (fun t =>
       t.leaf.b.lastOpen = s.leaf.b.lastOpen ∧ t.leaf.b.frameIsOpen = s.leaf.b.frameIsOpen)) ∧
     ∀ c : Ch, (s.reapStores c = s ∧ (s.chan c).b.needLock = true ∧ (s.chan c).b.phase ≠ .retained) →
       Runs (.frameOpen (.chan c) k ⟨temp, fixed, sample⟩) s (fun t =>
         (t.chan c).b.lastOpen = (s.chan c).b.lastOpen ∧ (t.chan c).b.frameIsOpen = (s.chan c).b.frameIsOpen)) ∧
  (∀ (s : State) (f : Word64) (left : Nat),
     (∀ (u : Unt) (cause : Nat), s.leaf.b.works = true →
       (u, cause) ∈ [(Unt.sampler, 0x1), (Unt.touchstone, 0x2), (Unt.assay, 0x4), (Unt.journal, 0x8)] →
       Runs (.unitOverrun .leaf u f left) s (fun t =>
         t.leaf.b.shortCauses f.toNat = s.leaf.b.shortCauses f.toNat ||| cause ∧ t.leaf.b.declared = s.leaf.b.declared + 1)) ∧
     ∀ (c : Ch) (u : Unt) (cause : Nat), (s.chan c).b.works = true →
       (u, cause) ∈ [(Unt.journal, 0x8), (Unt.reduction, 0x100), (Unt.series, 0x200), (Unt.facet, 0x400), (Unt.balance, 0x800),
         (Unt.laggard, 0x1000), (Unt.rule, 0x2000)] →
       Runs (.unitOverrun (.chan c) u f left) s (fun t =>
         (t.chan c).b.shortCauses f.toNat = (s.chan c).b.shortCauses f.toNat ||| cause ∧
         (t.chan c).b.declared = (s.chan c).b.declared + 1 ∧
         ((s.chan c).b.isLeaf = false → (t.chan c).b.evt.getLsbD 0 = true)))

/-- ANNOUNCE_RECEIVE of a supported message on the PTP timescale puts its master into the domain's table, a fifth one apart, selects
the best of those heard and reports its identity; in free-run the servo goes to acquiring. Where dual mode does not apply, a change of
grandmaster takes a locked servo to acquiring, and one in holdover too, which an announcement of the selected master takes there
after a timeout as well. A message outside the subset of Table 2.6 is counted and changes no servo, and so is one whose envelope is not
taken (R75). ANNOUNCE_TIMEOUT takes the silent master out of the domain's table. When it was the selected one, a servo in acquiring or
locked goes to holdover if it has locked before and to free-run if it has not; otherwise the servo stays in its state (Table 2.5). -/
def Obligations.AnnouncesAct : Prop :=
  (∀ (s : State) (n : Node) (h : PtpHdr) (m : Announce), (s.blk n).timed = true →
     (∀ d : Dom, envTaken h.env 2 = true → (s.blk n).domOf h.domain = some d → (s.blk n).ptpOk h ptpAnnounce (-3) 4 = true →
       m.ptpTimescale = true →
       let heard := (((s.blk n).servo d).hear { source := h.source, data := m }).foreign
       let changed := match ((s.blk n).servo d).sel, bestOf heard with
         | some x, some y => decide (x.data.gm ≠ y.data.gm)
         | _, _ => false
       let again := decide ((bestOf heard).map (·.source) = some h.source) &&
         (!((s.blk n).servo d).guardLock || ((s.blk n).servo d).timedOut)
       Runs (.announceReceive n h m) s (fun t => ((t.blk n).servo d).foreign = heard ∧ ((t.blk n).servo d).sel = bestOf heard ∧
         (∀ y, bestOf heard = some y → (t.blk n).num (gmKey d) = y.data.gm.toNat) ∧
         ((s.blk n).servoState d = 0 → (t.blk n).servoState d = 1) ∧
         ((s.blk n).dualApplies d = false →
           ((s.blk n).servoState d = 1 → (t.blk n).servoState d = 1) ∧
           ((s.blk n).servoState d = 2 → (t.blk n).servoState d = (if changed then 1 else 2)) ∧
           ((s.blk n).servoState d = 3 → (t.blk n).servoState d = (if changed || again then 1 else 3))))) ∧
     (∀ d e : Dom, envTaken h.env 2 = true → (s.blk n).domOf h.domain = some d → (s.blk n).ptpOk h ptpAnnounce (-3) 4 = false →
       Runs (.announceReceive n h m) s (fun t => Blk.counts (s.blk n) (t.blk n) K.unsupportedMsgs ∧
         (t.blk n).servo e = (s.blk n).servo e ∧ (t.blk n).servoState e = (s.blk n).servoState e)) ∧
     (∀ e : Dom, envTaken h.env 2 = false →
       Runs (.announceReceive n h m) s (fun t => Blk.counts (s.blk n) (t.blk n) K.envelopesDiscarded ∧
         (t.blk n).servo e = (s.blk n).servo e ∧ (t.blk n).servoState e = (s.blk n).servoState e))) ∧
  (∀ (s : State) (n : Node) (d : Dom) (src : BitVec 80), (s.blk n).timed = true →
     Runs (.announceTimeout n d src) s (fun t =>
       ((t.blk n).servo d).foreign = ((s.blk n).servo d).foreign.filter (fun f => f.source != src) ∧
       (t.blk n).servoState d =
         (if ((s.blk n).servo d).sel.map (·.source) = some src ∧ (s.blk n).servoState d ≠ 0 ∧ (s.blk n).servoState d ≠ 3
          then (if ((s.blk n).servo d).everLocked = true then 3 else 0) else (s.blk n).servoState d)))

/-- The exchange of stamps with the selected master of a domain. A two-step Sync, while the servo acquires or is locked, waits for its
Follow_Up with its receive stamp less its correction; a one-step Sync of a locked servo out of guarded mode, with an offset below the
step threshold, reports its offset o = (t2 − t1) − m − a, with t2 less the correction, and slews −o. A Delay_Req that the block sends
queues its transmit stamp; with 16 stamps queued the new one is dropped and counted (R60). The Delay_Resp to it removes the stamp with
the older ones of its domain, and gives the mean path delay m = ((t2 − t1) + (t4 − t3)) / 2. The last is stated where the servo takes
no step: in free-run, in holdover, and locked, out of guarded mode, with an offset below the step threshold. -/
def Obligations.StampsAreExchanged : Prop :=
  ∀ (s : State) (n : Node) (d : Dom), (s.blk n).timed = true → ((s.blk n).servo d).sel.isSome = true →
    let slews := fun (o : Int) => (s.blk n).servoState d = 2 ∧ o.natAbs < (s.blk n).num K.stepThresholdNs ∧ (s.blk n).messagePhase d = true
    (∀ (q : BitVec 16) (t3 : BitVec 96),
      ((s.blk n).tsq.length < 16 →
        Runs (.delayReqSend n d q t3) s (fun t => .delayReq d q ∈ (t.blk n).out ∧
          ∃ e, (t.blk n).tsq = (s.blk n).tsq ++ [e] ∧ e.dom = d ∧ e.seqId = q ∧ e.stamp = t3)) ∧
      (16 ≤ (s.blk n).tsq.length →
        Runs (.delayReqSend n d q t3) s (fun t => .delayReq d q ∈ (t.blk n).out ∧ (t.blk n).tsq = (s.blk n).tsq ∧
          Blk.counts (s.blk n) (t.blk n) K.tsqOverflow))) ∧
    (∀ (h : PtpHdr) (t1 t2 : BitVec 96), envTaken h.env 2 = true → (s.blk n).domOf h.domain = some d →
      (s.blk n).ptpOk h ptpSync (-7) 0 = true → (s.blk n).fromSelected d h = true →
      let rx : Int := (t96ns t2.toNat : Int) - h.correction.toInt / 65536
      (h.twoStep = true → (s.blk n).servoState d = 1 ∨ (s.blk n).servoState d = 2 →
        Runs (.syncReceive n h t1 t2) s (fun t => ((t.blk n).servo d).waiting = some (h.source, h.seqId, rx))) ∧
      let o : Int := rx - t96ns t1.toNat - ((s.blk n).servo d).m - (s.blk n).asymmetry
      (h.twoStep = false → bit ((s.blk n).num K.timeMode) 0 = false → slews o →
        Runs (.syncReceive n h t1 t2) s (fun t => ((t.blk n).servo d).slew = -o ∧
          (t.blk n).num (offsetKey d) = unsigned 32 (clampInt (-2147483648) 2147483647 o)))) ∧
    (∀ (h : PtpHdr) (t4 : BitVec 96) (e : TsqEntry) (rest : List TsqEntry) (down : Int), envTaken h.env 2 = true →
      (s.blk n).domOf h.domain = some d → (s.blk n).ptpOk h ptpDelayResp (-128) 127 = true → (s.blk n).fromSelected d h = true →
      tsqMatch d h.seqId (s.blk n).tsq = some (e, rest) → ((s.blk n).servo d).down = some down →
      let m : Int := (down + (((t96ns t4.toNat : Int) - h.correction.toInt / 65536) -
          (t96ns e.stamp.toNat + (((s.blk n).servo d).corr - e.corrAt)))) / 2
      ((s.blk n).servoState d = 0 ∨ (s.blk n).servoState d = 3 ∨
          (bit (s.blk n).timeMode 0 = false ∧ slews (down - m - (s.blk n).asymmetry)) →
        Runs (.delayRespReceive n h t4) s (fun t => (t.blk n).tsq = rest ∧ ((t.blk n).servo d).m = m)))

/-- A read of 0x0300:1D, by TSQ_POP or by a READ that may read it, takes the oldest transmit stamp out of the queue and returns its 16
bytes (R61); with the queue empty it returns no bytes, and a READ the status OK. -/
def Obligations.StampsArePopped : Prop :=
  ∀ (s : State) (n : Node),
    let bytes := match (s.blk n).tsq with | [] => [] | e :: _ => e.bytes
    ((s.blk n).phase = .run → Runs (.tsqPop n) s (fun t => (t.blk n).tsq = (s.blk n).tsq.tail ∧ .data K.tsqPop bytes ∈ (t.blk n).out)) ∧
    ∀ (q : Req) (i : Item) (type : Nat) (v : Val), (s.blk n).fresh opRead q = true → q.other = none → q.items = [i] →
      itemKey i = K.tsqPop → s.readsOut n q i = some (type, v) →
      Runs (.read n q) s (fun t => (t.blk n).tsq = (s.blk n).tsq.tail ∧ ∃ r, .resp q.way r ∈ (t.blk n).out ∧ r.seq = q.seq ∧
        r.status = 0 ∧ r.items.map (·.data) = [bytes])

/-- FOLLOW_UP_RECEIVE from the selected master completes the two-step Sync that waits: the offset o = (t2 − t1) − m − a is reported,
clamped to the object's type, and nothing waits any more; a locked servo out of guarded mode slews −o when o lies below the step
threshold (R48). One that nothing waits for, or that is not of the Sync that waits, changes no servo and no reported offset. -/
def Obligations.FollowUpReports : Prop :=
  ∀ (s : State) (n : Node) (d : Dom) (h : PtpHdr) (t1 : BitVec 96), (s.blk n).timed = true → envTaken h.env 2 = true →
    (s.blk n).domOf h.domain = some d → (s.blk n).ptpOk h ptpFollowUp (-128) 127 = true →
    (∀ rx : Int, (s.blk n).fromSelected d h = true → ((s.blk n).servo d).waiting = some (h.source, h.seqId, rx) →
      let o : Int := rx - h.correction.toInt / 65536 - t96ns t1.toNat - ((s.blk n).servo d).m - (s.blk n).asymmetry
      let reported : Nat := unsigned 32 (clampInt (-2147483648) 2147483647 o)
      ((s.blk n).servoState d = 0 ∨ (s.blk n).servoState d = 3 →
        Runs (.followUpReceive n h t1) s (fun t => ((t.blk n).servo d).waiting = none ∧ (t.blk n).num (offsetKey d) = reported)) ∧
      ((s.blk n).servoState d = 2 → bit ((s.blk n).num K.timeMode) 0 = false → o.natAbs < (s.blk n).num K.stepThresholdNs →
          (s.blk n).messagePhase d = true →
        Runs (.followUpReceive n h t1) s (fun t => ((t.blk n).servo d).waiting = none ∧ (t.blk n).num (offsetKey d) = reported ∧
          ((t.blk n).servo d).slew = -o ∧ (t.blk n).servoState d = 2))) ∧
    ((∀ rx : Int, ((s.blk n).servo d).waiting ≠ some (h.source, h.seqId, rx)) →
      Runs (.followUpReceive n h t1) s (fun t => (t.blk n).servo d = (s.blk n).servo d ∧
        (t.blk n).num (offsetKey d) = (s.blk n).num (offsetKey d)))

/-- GUARD_ACCEPT, where it passes its checks, moves every servo in guard lock to acquiring; ACTIVE_DOMAIN_WRITE of the other domain,
where it passes, makes that domain active and starts the remainder at the difference between the frame time and its time (R53, R55).
Holdover: HOLDOVER_BUDGET_EXPIRE reports the time, past the budget alignment_assured reads FALSE, within it TRUE (R57). The
pulse-per-second input of a channel that has it enabled: an edge puts it in use, and what its stamp less the pulse's delay lies off a
whole second of the active domain is the phase offset, which a locked servo out of guarded mode slews away below the step threshold
and which 0x0300:13 or 14 reports (the model's choice, assumption 13); its loss takes it out of use and raises irq_evt (R59). -/
def Obligations.TimeIsKept : Prop :=
  (∀ (s : State) (n : Node),
     (s.passes n K.guardAccept (.num 1) = true →
       Runs (.guardAccept n) s (fun t => ∀ d, (s.blk n).guardLocked d = true → (t.blk n).servoState d = 1 ∧ (t.blk n).guardLocked d = false)) ∧
     ∀ (v : Byte) (d : Dom), v.toNat = (match d with | .a => 0 | .b => 1) → d ≠ (s.blk n).activeDom →
       s.passes n K.activeDomain (.num v.toNat) = true →
       Runs (.activeDomainWrite n v) s (fun t => (t.blk n).activeDom = d ∧
         (t.blk n).remain = ((s.blk n).frameTime : Int) - (s.blk n).time d)) ∧
  (∀ (s : State) (n : Node) (ms : Word), (s.blk n).timed = true → (s.blk n).servoState (s.blk n).activeDom = 3 →
     Runs (.holdoverBudgetExpire n ms) s (fun t => (t.blk n).num K.holdoverElapsedMs = ms.toNat ∧
       (t.blk n).num K.alignmentAssured = (if ms.toNat ≤ (s.blk n).num K.holdoverBudgetMs then 1 else 0))) ∧
  (∀ (s : State) (c : Ch), (s.chan c).b.timed = true → (s.chan c).b.isLeaf = false → (s.chan c).b.num K.ppsEnable = 1 →
     (∀ stamp : BitVec 96,
       let d := (s.chan c).b.activeDom
       let x := ((t96ns stamp.toNat : Int) - signed 32 ((s.chan c).b.num K.ppsDelayNs)) % 1000000000
       let o := if 500000000 ≤ x then x - 1000000000 else x
       let reported : Nat := unsigned 32 (clampInt (-2147483648) 2147483647 o)
       ((s.chan c).b.servoState d = 0 ∨ (s.chan c).b.servoState d = 3 →
         Runs (.ppsEdge c stamp) s (fun t => (t.chan c).b.ppsGood = true)) ∧
       ((s.chan c).b.servoState d = 1 → (s.chan c).b.frameIsOpen = false →
         Runs (.ppsEdge c stamp) s (fun t => (t.chan c).b.ppsGood = true ∧ (t.chan c).b.num (offsetKey d) = reported)) ∧
       ((s.chan c).b.servoState d = 2 → bit (s.chan c).b.timeMode 0 = false → o.natAbs < (s.chan c).b.num K.stepThresholdNs →
         Runs (.ppsEdge c stamp) s (fun t => (t.chan c).b.ppsGood = true ∧ (t.chan c).b.num (offsetKey d) = reported ∧
           ((t.chan c).b.servo d).slew = -o))) ∧
     Runs (.ppsLoss c) s (fun t => (t.chan c).b.ppsGood = false ∧ (t.chan c).b.evt.getLsbD 1 = true))

/-! ### Requests and transactions -/

/-- A request that reaches a block that executes commands is judged in the order of R442, whatever its opcode, an unknown one among
them: one whose envelope is not taken is discarded and counted (R75); one for another node is passed on by a channel that runs, toward
that node, and a leaf does nothing with it (R84); one whose parts or items do not add up is answered LENGTH (R76); a repeated number is
answered with the response remembered, and an older one WRONG_STATE (R81); a new one that finds 32 requests in execution is answered
BUSY (R82). -/
def Obligations.RequestsAreJudgedInOrder : Prop :=
  ∀ (s : State) (i : Instr) (n : Node) (q : Req) (op : Nat), i.asks = some (n, q, op) → (s.blk n).answering q = true →
    let src := (s.blk n).srcOf q
    (envOk q = false → Runs i s (fun t => Blk.counts (s.blk n) (t.blk n) K.envelopesDiscarded)) ∧
    (envOk q = true → (s.blk n).mine op q = false →
      (∀ (c : Ch) (d : Word), n = .chan c → q.dst = some d → d ≠ 0xFFFFFFFF → (s.chan c).b.phase = .run → (s.chan c).b.isLeaf = false →
        Runs i s (fun t => .relay ((s.chan c).hopTo d) d op q ∈ (t.chan c).b.out)) ∧
      (n = .leaf → Runs i s (fun t => t.leaf.own = s.leaf.own))) ∧
    (envOk q = true → (s.blk n).mine op q = true → whole q = false →
      Runs i s (fun t => .resp q.way (bare src op stLength q) ∈ (t.blk n).out)) ∧
    (envOk q = true → (s.blk n).mine op q = true → whole q = true → q.formed op = true →
      (∀ (m : SeqMem) (r : Resp), (s.blk n).memOf src = some m → m.resps.find? (fun r => r.seq == q.seq) = some r →
        Runs i s (fun t => .resp q.way r ∈ (t.blk n).out)) ∧
      (∀ m : SeqMem, (s.blk n).memOf src = some m → m.resps.find? (fun r => r.seq == q.seq) = none →
        serialAfter q.seq m.high = false → Runs i s (fun t => .resp q.way (bare src op stWrong q) ∈ (t.blk n).out)) ∧
      ((∀ m : SeqMem, (s.blk n).memOf src = some m → m.resps.find? (fun r => r.seq == q.seq) = none ∧ serialAfter q.seq m.high = true) →
        32 ≤ (s.blk n).execs.length → Runs i s (fun t => .resp q.way (bare src op stBusy q) ∈ (t.blk n).out)))

/-- READ of one item that the request may read, with room for its value, answers OK with the type and the bytes of the value (R79).
SEG_READ of a DOMAIN object that the request may read answers OK with the bytes asked for, as many as the way carries (R83). SEG_WRITE
into the standby series table of the leaf that runs: a first segment short of the total is kept as a partial value, and the object
keeps its value; a first segment that holds the whole becomes the value, in which reserved bits read 0 (R8), and leaves no partial
value. -/
def Obligations.ReadsAnswerValues : Prop :=
  (∀ (s : State) (n : Node) (q : Req) (i : Item) (type : Nat) (v : Val), q.items = [i] → s.readsOut n q i = some (type, v) →
     ((s.blk n).fresh opRead q = true → q.other = none → 24 + ((valData type v).length + 7) / 8 * 8 ≤ wayLimit q.way →
       Runs (.read n q) s (fun t => .resp q.way { bare ((s.blk n).srcOf q) opRead stOk q with
         items := [{ i with type := BitVec.ofNat 8 type, length := BitVec.ofNat 16 (valData type v).length, status := 0, target := 0,
                            data := valData type v }] } ∈ (t.blk n).out)) ∧
     ((s.blk n).fresh opSegRead q = true → type = 13 → i.sub.toNat ≠ 0 → i.data.length = 8 →
       Runs (.segRead n q) s (fun t => ∃ r, .resp q.way r ∈ (t.blk n).out ∧ r.opcode.toNat = opSegRead ∧ r.seq = q.seq ∧ r.status = 0 ∧
         r.items.map (·.data) = [slice v.toBytes (leAt i.data 0 4) (min (leAt i.data 4 4) (segRoom q.way))]))) ∧
  (∀ (s : State) (q : Req) (i : Item) (total : Nat) (bytes : List Byte), s.leaf.b.fresh opSegWrite q = true → q.items = [i] →
     itemKey i = K.seriesTableStandby → i.type = 13 → i.length.toNat = i.data.length → i.data = natLe 4 0 ++ natLe 4 total ++ bytes →
     total % 8 = 0 → total ≤ 131072 → 2 ≤ s.leaf.b.effRole q → s.leaf.b.phase = .run → s.leaf.loadStatus K.seriesTableStandby = stOk →
     (bytes.length < total → Runs (.segWrite .leaf q) s (fun t =>
       { key := K.seriesTableStandby, total := total, data := bytes } ∈ t.leaf.b.segs ∧
       t.leaf.b.bytes K.seriesTableStandby = s.leaf.b.bytes K.seriesTableStandby)) ∧
     (bytes.length = total → Runs (.segWrite .leaf q) s (fun t =>
       t.leaf.b.bytes K.seriesTableStandby = (pieces 8 bytes).flatMap (fun e => natLe 8 (leNat e &&& 0xFFFFFFFEFFFFFFFF)) ∧
       ∀ p ∈ t.leaf.b.segs, p.key ≠ K.seriesTableStandby)))

/-- WRITE of one item that the checks of R442 accept. An object without a stored copy: the request is answered OK, and one of the objects
named below reads its new value (R80). A class S object of its block: the request waits for the store of the value in flash (R74). -/
def Obligations.WritesTakeEffect : Prop :=
  ∀ (s : State) (n : Node) (q : Req) (i : Item) (v : Val), (s.blk n).fresh opWrite q = true → q.items = [i] →
    s.accepts n q false [] i = some v →
    (clsOf (s.blk n).isLeaf (itemKey i) ≠ .s →
      Runs (.write n q) s (fun t =>
        .resp q.way { bare ((s.blk n).srcOf q) opWrite stOk q with items := [itemSt i stOk] } ∈ (t.blk n).out ∧
        (itemKey i ∈ (match n with
          | .leaf => [K.stopDelayNs, K.triggerCode, K.triggerCodeMask, K.triggerCore]
          | .chan _ => [K.serStateSelect, K.rowSelect, K.scoreSelect, K.entrySelect, K.rulStateSelect, K.queueSelect]) →
          (t.blk n).val (itemKey i) = v))) ∧
    (clsOf (s.blk n).isLeaf (itemKey i) = .s → isTray (itemKey i) = false →
      Runs (.write n q) s (fun t => .item ((s.blk n).srcOf q) q.seq 0 (itemKey i) v ∈ (t.blk n).jobs ∧
        ∃ e ∈ (t.blk n).execs, e.src = (s.blk n).srcOf q ∧ e.seq = q.seq ∧ 0 < e.waiting ∧ e.writes = [(0, (itemKey i, v))]))

/-- The life of a local transaction of an operator (Table 3.11). TXN_OPEN below the limit creates it open and empty under the request's
number; at the limit it is answered BUSY (R87, R88). Of an open transaction that is not storing: TXN_STAGE of an accepted item within
the limits adds it (R89); TXN_COMMIT of writes that store nothing, that withdraw nothing and that no check of R90 refuses commits it for
its apply frame, where 0 names the next frame; TXN_ABORT ends it aborted; TXN_STATUS answers that it is open; and TXN_OPEN_EXPIRE ends it
aborted with TXN_EXPIRED once 0x0500:03 frames have passed since its last request (R87). -/
def Obligations.TransactionsLive : Prop :=
  ∀ (s : State) (n : Node) (q : Req),
    let src := (s.blk n).srcOf q
    (2 ≤ (s.blk n).effRole q →
      ((s.blk n).fresh opTxnOpen q = true → (s.blk n).phase ≠ .failed → (s.blk n).phase ≠ .off →
        ((s.blk n).txns.length < (s.blk n).txnLimit → (s.blk n).txnOf src q.seq = none →
          Runs (.txnOpen n q) s (fun t => ∃ x, (t.blk n).txnOf src q.seq = some x ∧ x.state = .opened ∧ x.items = [])) ∧
        ((s.blk n).txnLimit ≤ (s.blk n).txns.length →
          Runs (.txnOpen n q) s (fun t => .resp q.way (bare src opTxnOpen stBusy q) ∈ (t.blk n).out))) ∧
      ∀ x : Txn, (s.blk n).txnOf src q.txn = some x → x.state = .opened → x.storing = 0 →
        ((s.blk n).fresh opTxnStage q = true → ∀ (i : Item) (v : Val), q.items = [i] → s.accepts n q true x.items.reverse i = some v →
          (∀ w ∈ x.items, w.1 ≠ itemKey i) → x.items.length < 256 → x.dataBytes + i.data.length ≤ 16384 →
          Runs (.txnStage n q) s (fun t => ∃ y, (t.blk n).txnOf src q.txn = some y ∧ y.state = .opened ∧
            y.items = x.items ++ [(itemKey i, v)])) ∧
        ((s.blk n).fresh opTxnCommit q = true → ∀ a : Nat, q.body.length = 8 →
          a = (if leNat q.body = 0 then (s.blk n).now + 1 else leNat q.body) →
          plainWrites (s.blk n).isLeaf x.items = true → (s.blk n).commitStatus a (x.items.map (·.1)) = stOk →
          Runs (.txnCommit n q) s (fun t => ∃ y, (t.blk n).txnOf src q.txn = some y ∧ y.state = .committed ∧ y.apply = a)) ∧
        ((s.blk n).fresh opTxnAbort q = true → Runs (.txnAbort n q) s (fun t => (t.blk n).txnOf src q.txn = none ∧
          ∃ d, (t.blk n).doneOf src q.txn = some d ∧ d.state = .aborted)) ∧
        ((s.blk n).fresh opTxnStatus q = true → Runs (.txnStatus n q) s (fun t =>
          .resp q.way { bare src opTxnStatus stOk q with
            body := natLe 1 TxnState.opened.code ++ natLe 1 0 ++ natLe 6 0 ++ natLe 8 x.apply } ∈ (t.blk n).out))) ∧
    ∀ (who num : Word) (x : Txn), (s.blk n).live = true → (s.blk n).txnOf who num = some x → x.state = .opened → x.storing = 0 →
      x.last + (s.blk n).num K.txnOpenTimeout ≤ (s.blk n).now →
      Runs (.txnOpenExpire n who num) s (fun t => (t.blk n).txnOf who num = none ∧
        ∃ d, (t.blk n).doneOf who num = some d ∧ d.state = .aborted ∧ d.status = stExpired)

/-- PREPARE at a node of the fleet that is in scope, has no record of the sequence number and accepts every item addressed to it: the
writes are staged and held for the apply frame that the PREPARE names, and the node counts itself OK in a prepare record of the frame
(R100). A node that has been prepared, holds no token and whose deadline frame has not opened (R104): COMMIT_TOKEN commits the staged
writes for their apply frame, at once where they store nothing, and ABORT_TOKEN discards them; the answer to a TOKEN_QUERY that brings an
ABORT_TOKEN does the same. A TOKEN_QUERY is answered with the token held, or WRONG_STATE where none is. -/
def Obligations.FleetTokensDecide : Prop :=
  (∀ (s : State) (n : Node) (q : Req) (ws : List Wr), (s.blk n).takesFleet opPrepare q = true →
     (s.blk n).fleetOf q.txn = none → (s.blk n).inScope (parseFleet q.body) = true → s.prepares n q = some ws →
     (s.blk n).now < (parseFleet q.body).apply → (parseFleet q.body).apply ≤ (s.blk n).now + 1048576 →
     (s.blk n).conflict (parseFleet q.body).apply (ws.map (·.1)) = false → 8 ≤ (s.blk n).num K.bringupState →
     Runs (.prepare n q) s (fun t => (∃ r, (t.blk n).fleetOf q.txn = some r ∧ r.holds = true ∧ r.body = parseFleet q.body ∧
         r.staged = ws ∧ r.token = none ∧ r.committed = false) ∧
       ∃ a ∈ (t.blk n).acks, a.1 = (s.blk n).now ∧ a.2.seq = q.txn ∧ a.2.phase = 1 ∧ 0 < a.2.ok)) ∧
  (∀ (s : State) (n : Node) (q : Req) (r : FleetRec), (s.blk n).fleetOf q.txn = some r →
     (r.prepared = true → r.holds = true → r.committed = false → r.token = none →
         (∀ x ∈ (s.blk n).fleet, x.seq = q.txn → x.resolved = false) → (s.blk n).pastDeadline r.body = false →
       ((s.blk n).takesFleet opCommitToken q = true → plainWrites (s.blk n).isLeaf r.staged = true →
           ((s.blk n).mapFleet q.txn (fun x => { x with holds := false })).commitStatus r.body.apply (r.staged.map (·.1)) = stOk →
         Runs (.commitToken n q) s (fun t =>
           (∃ y ∈ (t.blk n).txns, y.fleet = true ∧ y.num = q.txn ∧ y.state = .committed ∧ y.apply = r.body.apply ∧ y.items = r.staged) ∧
           ∃ y, (t.blk n).fleetOf q.txn = some y ∧ y.token = some true ∧ y.committed = true)) ∧
       ((s.blk n).takesFleet opAbortToken q = true → Runs (.abortToken n q) s (fun t =>
         ∃ y, (t.blk n).fleetOf q.txn = some y ∧ y.token = some false ∧ y.holds = false ∧ y.staged = [])) ∧
       ∀ p : Resp, (s.blk n).live = true → (s.blk n).phase ≠ .retained → envTaken p.env 1 = true →
         (s.blk n).reaches 0 (p.dst.getD (s.blk n).addr) = true → p.txn = q.txn → p.opcode.toNat = opTokenQuery → p.status = 0 →
         leAt p.body 0 1 = opAbortToken →
         Runs (.bivanResponse n p) s (fun t =>
           ∃ y, (t.blk n).fleetOf q.txn = some y ∧ y.token = some false ∧ y.holds = false ∧ y.staged = [])) ∧
     ((s.blk n).fresh opTokenQuery q = true →
       Runs (.tokenQuery n q) s (fun t => .resp q.way (match r.token with
         | none => bare ((s.blk n).srcOf q) opTokenQuery stWrong q
         | some k => { bare ((s.blk n).srcOf q) opTokenQuery stOk q with
             body := natLe 1 (if k then opCommitToken else opAbortToken) ++ natLe 7 0 ++ natLe 8 r.body.apply }) ∈ (t.blk n).out)))

/-- A node that holds a PREPARE and has no token (R104): in the guard frame A − g − 1 it asks its standby parent for the token, and counts
the query; once the deadline frame A − g has opened it discards what it holds, and counts itself refused in a commit record, unless it
is silent. COMPENSATE at a node (R106): one that has no record of the number will not take its PREPARE up; one that has neither applied
nor committed the transaction discards what it holds and will not take it up again; one that has committed it, or has applied it and
holds its undo record, will restore at Ac; one that has applied it and lost its undo record counts itself refused. UNDO_HORIZON_EXPIRE
drops the undo record once 0x0500:15 frames have passed since the apply frame. -/
def Obligations.FleetLossesAreMended : Prop :=
  (∀ (s : State) (n : Node) (seq : Word) (r : FleetRec), (s.blk n).works = true → (s.blk n).fleetOf seq = some r → r.holds = true →
     r.token = none →
     ((s.blk n).num K.parentStandby ≠ 0xFFFF → (s.blk n).now + (s.blk n).guardOf r.body + 1 = r.body.apply →
       Runs (.guardFrameQuery n seq) s (fun t =>
         (∃ m, .msg m ∈ (t.blk n).out ∧ m.dst = chanAddr ((s.blk n).num K.parentStandby) ∧ m.opcode = opTokenQuery ∧ m.txn = seq.toNat) ∧
         Blk.counts (s.blk n) (t.blk n) K.tokenQueries)) ∧
     (r.body.apply ≤ (s.blk n).now + (s.blk n).guardOf r.body →
       Runs (.deadlineFrameDiscard n seq) s (fun t =>
         (∃ y, (t.blk n).fleetOf seq = some y ∧ y.holds = false ∧ y.staged = [] ∧ y.resolved = true) ∧
         (r.silent = false → ∃ a ∈ (t.blk n).acks, a.2.seq = seq ∧ a.2.phase = 2 ∧ 0 < a.2.refused)))) ∧
  (∀ (s : State) (n : Node) (q : Req), (s.blk n).takesFleet opCompensate q = true →
     ((s.blk n).fleetOf q.txn = none → Runs (.compensate n q) s (fun t =>
       ∃ y, (t.blk n).fleetOf q.txn = some y ∧ y.resolved = true ∧ y.compensated = true ∧ y.holds = false)) ∧
     ∀ r : FleetRec, (s.blk n).fleetOf q.txn = some r → r.compensated = false → r.compAt = 0 →
       (r.applied = false → r.committed = false → Runs (.compensate n q) s (fun t =>
         ∃ y, (t.blk n).fleetOf q.txn = some y ∧ y.resolved = true ∧ y.compensated = true ∧ y.holds = false ∧ y.staged = [])) ∧
       ((r.applied = true ∧ (s.blk n).undo.any (fun u => u.seq == q.txn) = true) ∨ (r.applied = false ∧ r.committed = true) →
         Runs (.compensate n q) s (fun t => ∃ y, (t.blk n).fleetOf q.txn = some y ∧ y.compAt = max 1 (leNat q.body))) ∧
       (r.applied = true → (s.blk n).undo.any (fun u => u.seq == q.txn) = false → r.inScope = true → r.silent = false →
         Runs (.compensate n q) s (fun t => ∃ a ∈ (t.blk n).acks, a.2.seq = q.txn ∧ a.2.phase = 3 ∧ 0 < a.2.refused))) ∧
  (∀ (s : State) (n : Node) (seq : Word), (s.blk n).works = true →
     Runs (.undoHorizonExpire n seq) s (fun t => (t.blk n).undo = (s.blk n).undo.filter (fun u =>
       !(u.seq == seq && decide (u.apply + (s.blk n).num K.undoHorizon ≤ (s.blk n).now)))))

/-- FLEET_REQUEST of an operator (R97): a leaf, and a channel that is not the fleet root, answer WRONG_STATE; the fleet root takes an
accepted one under the next sequence number, without a decision, and has acted on its PREPARE itself. What the fleet root does at its
instants: LAST_DECISION_FRAME of a transaction without a decision whose frame A − g − 4 has been reached ends it, and answers its
requester TXN_EXPIRED (R102). COMMIT_COUNT_CHECK of a committed transaction in frame A − g + 2 or later: where its count is complete it is
counted or gone; where it is short, Ac is the later of A + 1 and now + 4, the compensation is counted, irq_err is raised, and COMPENSATE
goes to the standby root and to every pod root, and COMPENSATE_RETRY does so again after 0x0500:14 frames while the compensate count
is short (R105). -/
def Obligations.FleetRootsAct : Prop :=
  (∀ (s : State) (n : Node) (q : Req), (s.blk n).fresh opFleetRequest q = true → q.body.length = 32 → 2 ≤ (s.blk n).effRole q →
     ((n = .leaf ∨ (s.blk n).num K.treeRole ≠ 2) → Runs (.fleetRequest n q) s (fun t =>
       .resp q.way (bare ((s.blk n).srcOf q) opFleetRequest stWrong q) ∈ (t.blk n).out)) ∧
     ∀ c : Ch, n = .chan c → (s.chan c).fleetStatus (parseFleet q.body) = stOk → (s.chan c).b.works = true →
       Runs (.fleetRequest n q) s (fun t =>
         (t.chan c).b.num K.fleetSeqNext = ((s.chan c).b.num K.fleetSeqNext + 1) % 2 ^ 32 ∧
         (∃ x ∈ (t.chan c).root, x.seq = BitVec.ofNat 32 ((s.chan c).b.num K.fleetSeqNext) ∧ x.decided = none ∧
           x.body = parseFleet q.body ∧ x.accepted = (s.chan c).b.now) ∧
         ∃ r ∈ (t.chan c).b.fleet, r.seq = BitVec.ofNat 32 ((s.chan c).b.num K.fleetSeqNext) ∧ r.prepared = true)) ∧
  (∀ (s : State) (c : Ch) (x : FleetTx), (s.chan c).b.works = true → (s.chan c).root.find? (fun y => y.seq == x.seq) = some x →
     let b := (s.chan c).b
     let ac := max (x.body.apply + 1) (b.now + 4)
     let sent := fun (t : State) => (∃ y ∈ (t.chan c).root, y.seq = x.seq ∧ y.compAt = ac ∧ y.sentAt = b.now) ∧
       Blk.counts b (t.chan c).b K.compensateCount ∧ (b.isLeaf = false → (t.chan c).b.err.getLsbD irqTxn = true) ∧
       ∀ a ∈ (s.chan c).fleetDsts, ∃ m, .msg m ∈ (t.chan c).b.out ∧ m.dst = a ∧ m.opcode = opCompensate ∧ m.txn = x.seq.toNat ∧
         m.body = natLe 8 ac
     (x.decided = none → b.lastDecided x.body 0 = true → Runs (.lastDecisionFrame c x.seq) s (fun t =>
       (∀ y ∈ (t.chan c).root, y.seq ≠ x.seq) ∧
       ∀ e, b.execs.find? (fun e => e.src == x.src && e.seq == x.num && e.resp.opcode == BitVec.ofNat 8 opFleetRequest) = some e →
         .resp e.way { e.resp with status := BitVec.ofNat 8 stExpired, txn := x.seq } ∈ (t.chan c).b.out)) ∧
     (x.decided = some true → x.counted = false → x.compAt = 0 → x.body.apply + 2 ≤ b.now + b.guardOf x.body →
       ((s.chan c).complete x 2 = true → Runs (.commitCountCheck c x.seq) s (fun t => ∀ y ∈ (t.chan c).root, y.seq = x.seq →
         y.counted = true)) ∧
       ((s.chan c).complete x 2 = false → Runs (.commitCountCheck c x.seq) s sent)) ∧
     (x.counted = false → 0 < x.compAt → x.sentAt + b.num K.compensateRetry ≤ b.now → (s.chan c).complete x 3 = false →
       Runs (.compensateRetry c x.seq) s sent))

/-! ### The leaf -/

/-- The commands of the leaf's units act within the leaf: while the leaf has nothing to hand over, nothing moves beside it in the tray
but the copies of its objects in flash. -/
def Obligations.LeafUnitsStayInTheLeaf : Prop :=
  ∀ (s : State) (i : Instr), i.unitOfLeaf = true → s.leaf.handed = true → Runs i s (fun t => State.besideLeaf s t)

/-- A beat of any of the four rows that finds the port open: with 256 beats in the intake buffer it is discarded and counted, and no
credit goes back (R111); one that R110 discards gives its credit back and is counted. Either changes nothing else but the count of
beats discarded in the frame and the intake buffer. COUNTER_RECORD: every counter of the record holds its payload word, the low 32
bits of it for a gauge, and every other counter its value (R112). BARRIER_EVENT of a core that takes part: below 0x0800:05 records it
makes one with its arrival offset; at it the record is dropped and counted, and the barrier is incomplete (R114, R115). -/
def Obligations.BeatsAreSampled : Prop :=
  (∀ (s : State) (i : Instr) (d : BitVec 512) (off : BitVec 20), i.beat? = some (d, off) → s.leaf.portOpen = true →
     (256 ≤ s.leaf.smp.waiting off.toNat → Runs i s (fun t => s.leaf.b.counts t.leaf.b K.creditViolations ∧
       (s.leaf.handed = true → t.leaf.b.out = s.leaf.b.out) ∧ t.leaf.own = { s.leaf with
         b := s.leaf.b.bump K.creditViolations, smp := { s.leaf.smp with discarded := s.leaf.smp.discarded + 1 } }.own)) ∧
     (s.leaf.smp.waiting off.toNat < 256 → s.leaf.b.beatBad d.toNat = true → Runs i s (fun t => .credit 1 ∈ t.leaf.b.out ∧
       s.leaf.b.counts t.leaf.b K.beatsDiscarded ∧ t.leaf.own = { s.leaf with
         b := s.leaf.b.bump K.beatsDiscarded,
         smp := { s.leaf.smp.arrive off.toNat with discarded := s.leaf.smp.discarded + 1 } }.own))) ∧
  (∀ (s : State) (d : BitVec 512) (off : BitVec 20), s.leaf.admits d.toNat 1 off.toNat = true →
     Runs (.counterRecord d off) s (fun t => .credit 1 ∈ t.leaf.b.out ∧
       (∀ j, j < beatCount d.toNat → mget (fun _ => 0) t.leaf.smp.last (beatCore d.toNat * 64 + (beatBase d.toNat + j)) =
         if 32 ≤ beatBase d.toNat + j then beatPayload d.toNat j % 2 ^ 32 else beatPayload d.toNat j) ∧
       (∀ k, (∀ j, j < beatCount d.toNat → k ≠ beatCore d.toNat * 64 + (beatBase d.toNat + j)) →
         mget (fun _ => 0) t.leaf.smp.last k = mget (fun _ => 0) s.leaf.smp.last k) ∧
       t.leaf.own = { s.leaf with smp := t.leaf.smp }.own)) ∧
  (∀ (s : State) (d : BitVec 512) (off : BitVec 20), s.leaf.admits d.toNat 2 off.toNat = true →
     bit (s.leaf.b.num (coreKey (beatCore d.toNat))) 2 = false →
     (s.leaf.smp.barriers.length < s.leaf.b.num K.barrierRecordsMax → Runs (.barrierEvent d off) s (fun t =>
       t.leaf.smp.barriers =
         s.leaf.smp.barriers ++ [{ core := beatCore d.toNat, arrival := off.toNat, barrier := beatWord d.toNat }] ∧
       t.leaf.smp.made = s.leaf.smp.made + 1 ∧ t.leaf.own = { s.leaf with smp := t.leaf.smp }.own)) ∧
     (s.leaf.b.num K.barrierRecordsMax ≤ s.leaf.smp.barriers.length → Runs (.barrierEvent d off) s (fun t =>
       t.leaf.smp.barriers = s.leaf.smp.barriers ∧ t.leaf.smp.dropped = s.leaf.smp.dropped + 1 ∧
       beatWord d.toNat ∈ t.leaf.smp.incomplete ∧ s.leaf.b.counts t.leaf.b K.barrierDropped)))

/-- FNC_ACK_CHANGE and FENCE_ACK_TIMEOUT (R131): a change that follows a pending fence completes it; an acknowledgement that drops while
its core is fenced, and a pending change that is not followed in time, are failures, counted; a rise of a core that is not fenced and
waits for no change is spurious, counted. The core's region is not off or settling, and the leaf not in L2. CORE_LOST of a core found
lost at the last close, without enforcing authority, is counted and commits nothing; a fault record and a rule input of kind 0x01
report silence, and ones of kind 0x02 an acknowledgement failure (R132). LOST_TXN_RETRY of the one enforcing transaction that an
earlier frame refused, where nothing conflicts with it now, commits it with an apply frame one later, and counts the retry (R134). -/
def Obligations.FencesAreWatched : Prop :=
  (∀ (s : State) (core : BitVec 10), s.leaf.b.works = true → s.leaf.coreOut core.toNat = false → s.leaf.b.num K.powerStateNow ≠ 2 →
     let c := core.toNat
     (∀ v : Bool, s.leaf.fen.ack.testBit c = !v →
       (c ∈ s.leaf.fen.pending → bit (s.leaf.b.num (coreKey c)) 0 = v →
         Runs (.fncAckChange core v) s (fun t => c ∉ t.leaf.fen.pending ∧ t.leaf.b.own = s.leaf.b.own)) ∧
       (bit (s.leaf.b.num (coreKey c)) 0 = true → v = false →
         Runs (.fncAckChange core v) s (fun t => c ∈ t.leaf.fen.failed ∧ s.leaf.b.counts t.leaf.b K.fenceAckFailures)) ∧
       (c ∉ s.leaf.fen.pending → bit (s.leaf.b.num (coreKey c)) 0 = false → v = true →
         Runs (.fncAckChange core v) s (fun t => t.leaf.fen.failed = s.leaf.fen.failed ∧ s.leaf.b.counts t.leaf.b K.spuriousAcks))) ∧
     (c ∈ s.leaf.fen.pending → Runs (.fenceAckTimeout core) s (fun t => c ∉ t.leaf.fen.pending ∧ c ∈ t.leaf.fen.failed ∧
       s.leaf.b.counts t.leaf.b K.fenceAckFailures))) ∧
  (∀ (s : State) (core : BitVec 10) (x : LostCore), s.leaf.b.works = true → s.leaf.b.num K.fenceAuthority ≠ 1 →
     s.leaf.fen.found.find? (fun y => y.core == core.toNat) = some x →
     let f := s.leaf.b.now - 1
     let one := fun (kind : Nat) (g : Nat) => faultRec kind 1 s.leaf.b.addr.toNat (locCore s.leaf.id core.toNat) g 0
     Runs (.coreLost core) s (fun t => s.leaf.b.counts t.leaf.b K.coresLost ∧ t.leaf.b.txns = s.leaf.b.txns ∧
       (∀ y ∈ t.leaf.fen.found, y.core ≠ core.toNat) ∧
       t.leaf.faultQ = s.leaf.faultQ ++ (match x.silentFrom with | some g => [(f, one 0x01 g)] | none => []) ++
         (match x.failFrame with | some g => [(f, one 0x02 g)] | none => []) ∧
       t.leaf.ruleQ.length = s.leaf.ruleQ.length + (if x.silentFrom.isSome then 1 else 0) + (if x.failFrame.isSome then 1 else 0))) ∧
  (∀ (s : State) (f a : Nat) (cs : List Nat), s.leaf.b.works = true → s.leaf.fen.retry = [(f, a, cs)] → f < s.leaf.b.now →
     s.leaf.b.txns.length < 16 → s.leaf.b.isLeaf = true →
     s.leaf.b.commitStatus (a + 1) ((lostWrites cs).map (·.1)) = stOk →
     Runs .lostTxnRetry s (fun t => t.leaf.fen.retry = [] ∧ s.leaf.b.counts t.leaf.b K.lostTxnRetries ∧
       ∃ x, t.leaf.b.txns = s.leaf.b.txns ++ [x] ∧ x.state = .committed ∧ x.apply = a + 1 ∧ x.items = lostWrites cs))

/-- REGION_READING of a mapped region out of L2 is kept under its kind, and nothing of the block changes (R123). The region port (R124,
R125, R411): with no request presented, the next pending region above the last one is driven with its command and its mark is
cleared; an acknowledgement ends the request; a timeout ends it too, is counted, and raises rule input 0x03. REGION_MISMATCH of a
command beyond 0x0E00:12 is counted and raises rule input 0x04, and does nothing once it has been raised (R126); REGION_SETTLE_END of
a region whose settle time has passed, and that reported on, ends its settling, and no core of it stays marked lost (R129). -/
def Obligations.RegionsAreRun : Prop :=
  (∀ (s : State) (region : BitVec 5) (kind : BitVec 2) (value : BitVec 16), s.leaf.b.works = true →
     s.leaf.b.num K.powerStateNow ≠ 2 → (s.leaf.b.bytes K.regionMap).any (fun x => x.toNat == region.toNat) = true →
     Runs (.regionReading region kind value) s (fun t =>
       mfind t.leaf.reg.readings (region.toNat * 4 + kind.toNat) = some value.toNat ∧ t.leaf.b.own = s.leaf.b.own ∧
       t.leaf.reg.pending = s.leaf.reg.pending ∧ t.leaf.fen = s.leaf.fen)) ∧
  (∀ s : State, s.leaf.b.works = true →
     (∀ r, s.leaf.reg.presented = none → nextRegion s.leaf.reg.pending s.leaf.reg.lastPresented = some r →
       Runs .regionRequestPresent s (fun t => t.leaf.reg.presented = some r ∧ t.leaf.reg.pending = clearBit s.leaf.reg.pending r ∧
         .region r (bit (s.leaf.b.regionCmd r) 3) (bits (s.leaf.b.regionCmd r) 0 3) ∈ t.leaf.b.out)) ∧
     (∀ r, s.leaf.reg.presented = some r →
       Runs .regionReqAck s (fun t => t.leaf.own = { s.leaf with reg := { s.leaf.reg with presented := none } }.own) ∧
       Runs .regionReqTimeout s (fun t => t.leaf.reg.presented = none ∧ s.leaf.b.counts t.leaf.b K.regionUnacked ∧
         t.leaf.ruleQ = s.leaf.ruleQ ++ [(s.leaf.b.now, ruleInput 0x03 r [])]))) ∧
  (∀ (s : State) (region : BitVec 5), s.leaf.b.works = true →
     let r := region.toNat
     (s.leaf.b.num K.regionSettle < mget (fun _ => 0) s.leaf.reg.mismatch r → s.leaf.reg.raised.testBit r = false →
       Runs (.regionMismatch region) s (fun t => s.leaf.b.counts t.leaf.b K.regionMismatches ∧ t.leaf.reg.raised.testBit r = true ∧
         t.leaf.ruleQ = s.leaf.ruleQ ++ [(s.leaf.b.now - 1, ruleInput 0x04 r [])])) ∧
     (s.leaf.reg.raised.testBit r = true → Runs (.regionMismatch region) s (fun t => t.leaf.own = s.leaf.own)) ∧
     (∀ e, mfind s.leaf.reg.settle r = some e → e ≤ s.leaf.b.now + 1 → s.leaf.reg.closeOn.testBit r = true →
       Runs (.regionSettleEnd region) s (fun t => mfind t.leaf.reg.settle r = none ∧ t.leaf.b.own = s.leaf.b.own ∧
         ∀ c, s.leaf.b.regionOf c = some r → t.leaf.fen.mark.testBit c = false)))

/-- The leaf's tables and its routing notification: SERIES_TABLE_SWAP and TENSOR_TABLE_SWAP make the standby table active, with its
count of entries, and the swap object reads FALSE again (R120, R166); a tensor whose entry is not kept unchanged is late;
ROUTING_NOTIFY of a bitmap that names a core goes, where a subscriber is set and no channel of this tray serves the leaf, out to the
egress of the channel that does (R134). -/
def Obligations.LeafTablesSwap : Prop :=
  ∀ s : State,
    (s.passes .leaf K.seriesSwap (.num 1) = true → Runs .seriesTableSwap s (fun t =>
      t.leaf.b.bytes K.seriesTableActive = s.leaf.b.bytes K.seriesTableStandby ∧
      t.leaf.b.num K.seriesCount = (s.leaf.b.bytes K.seriesTableStandby).length / 8 ∧ t.leaf.b.num K.seriesSwap = 0 ∧
      t.leaf.tableEpoch = s.leaf.b.now)) ∧
    (s.passes .leaf K.tensorSwap (.num 1) = true → Runs .tensorTableSwap s (fun t =>
      t.leaf.b.bytes K.tensorTableActive = s.leaf.b.bytes K.tensorTableStandby ∧
      t.leaf.b.num K.tensorCount = (s.leaf.b.bytes K.tensorTableStandby).length / 32 ∧ t.leaf.b.num K.tensorSwap = 0 ∧
      ∀ x, (∀ e ∈ tensorTable (s.leaf.b.bytes K.tensorTableStandby), e.tensor = x →
          ∀ o ∈ tensorTable (s.leaf.b.bytes K.tensorTableActive), o.tensor = x →
            ¬ (o.key = e.key ∧ o.length = e.length ∧ o.passWords = e.passWords)) →
        (t.leaf.asy.tensor x).late = true)) ∧
    ∀ bitmap : List Byte, s.passes .leaf K.routingNotify (.bytes bitmap) = true → leNat bitmap ≠ 0 →
      s.leaf.b.num K.routingSubscriber ≠ 0xFFFF → s.chanOf s.leaf.b.inUse = none →
      Runs (.routingNotify bitmap) s (fun t =>
        .notice s.leaf.b.inUse (s.leaf.b.num K.routingSubscriber) s.leaf.id bitmap ∈ t.leaf.b.out ∧ t.leaf.notices = [])

/-- CHECKSUM_WORD of a core that is not dark, with sampling on (R143). A beat whose core's count does not stand at 0 is counted as
received and advances the count modulo N; one whose count stands at 0 is selected, counted, and queued with its frame, offset and
fence while the queue holds fewer than 512 beats; with 512 beats queued it is counted unchecked and declares the frame short (R151). SAMPLE_RATIO_WRITE (R143,
R144): above 0 it returns the selection count of core c to c mod N; 0 disables, and warns. RELEARN with nothing queued returns the
named cores to learning, with nothing seen (R147, R157). -/
def Obligations.ChecksumsAreSampled : Prop :=
  (∀ (s : State) (d : BitVec 512) (off : BitVec 20), s.leaf.admits d.toNat 3 off.toNat = true → s.leaf.smp.dark.testBit (beatCore d.toNat) = false →
     s.leaf.b.num K.sampleRatio ≠ 0 →
     let c := beatCore d.toNat
     let sel := mget (fun k => k % s.leaf.ts.base) s.leaf.ts.sel c
     let held := (s.leaf.ts.queue.filter (fun i => match i with | .beat _ _ _ _ => true | .mark _ _ _ => false)).length
     (sel ≠ 0 → Runs (.checksumWord d off) s (fun t => t.leaf.ts.queue = s.leaf.ts.queue ∧ s.leaf.b.counts t.leaf.b K.beatsReceived ∧
       mget (fun k => k % s.leaf.ts.base) t.leaf.ts.sel c = (sel + 1) % s.leaf.b.num K.sampleRatio)) ∧
     (sel = 0 → held < 512 → Runs (.checksumWord d off) s (fun t => s.leaf.b.counts t.leaf.b K.beatsSelected ∧
       t.leaf.ts.queue = s.leaf.ts.queue ++
         [.beat s.leaf.b.now off.toNat d.toNat (bit (s.leaf.b.num (coreKey c)) 0)])) ∧
     (sel = 0 → 512 ≤ held → Runs (.checksumWord d off) s (fun t => t.leaf.ts.queue = s.leaf.ts.queue ∧
       s.leaf.b.counts t.leaf.b K.beatsUnchecked ∧
       t.leaf.b.shortCauses s.leaf.b.now = s.leaf.b.shortCauses s.leaf.b.now ||| 0x2))) ∧
  (∀ (s : State) (v : BitVec 16), s.passes .leaf K.sampleRatio (.num v.toNat) = true →
     Runs (.sampleRatioWrite v) s (fun t => t.leaf.b.num K.sampleRatio = v.toNat ∧
       t.leaf.b.num K.configWarning = (if v.toNat = 0 then 1 else 0) ∧
       (v.toNat ≠ 0 → ∀ c, mget (fun k => k % t.leaf.ts.base) t.leaf.ts.sel c = c % v.toNat))) ∧
  (∀ (s : State) (bitmap : List Byte) (c : Nat), s.passes .leaf K.relearn (.bytes bitmap) = true → s.leaf.ts.queue = [] →
     (leNat bitmap).testBit c = true → c < s.leaf.b.num K.coreCount →
     Runs (.relearn bitmap) s (fun t => t.leaf.ts.queue = [] ∧ t.leaf.ts.entry c = Tol.fresh))

/-- TS_BEAT_DECIDE of the oldest queued beat, the queue holding no change behind it: a malformed one is counted and not compared (Table
5.3); of another the 16 entries are compared, and the beat counts as a mismatch beat when an entry mismatches and as a non-finite
beat when one is not finite (R146, R149). TS_SECTION_SEAL completes the packet being gathered (R152): the draft is gone, its frame's
packet is in the journal for the parent, and no beat of its frame is left to decide. -/
def Obligations.ResidualsAreDecided : Prop :=
  (∀ (s : State) (f off d : Nat) (fenced : Bool) (q : List TsItem), s.leaf.b.works = true → s.leaf.ts.queue = .beat f off d fenced :: q →
     (∀ i ∈ q, ∃ g o x y, i = .beat g o x y) →
     (tsMalformed d = true → Runs .tsBeatDecide s (fun t => t.leaf.ts.queue = q ∧ s.leaf.b.counts t.leaf.b K.malformedBeats ∧
       s.leaf.b.counts t.leaf.b K.beatsUnchecked ∧ t.leaf.ts.table = s.leaf.ts.table)) ∧
     (tsMalformed d = false → Runs .tsBeatDecide s (fun t => t.leaf.ts.queue = q ∧ s.leaf.b.counts t.leaf.b K.entriesCompared 16 ∧
       (let thr := s.leaf.ts.set.threshold (s.leaf.ts.entry (beatCore d))
        (if (List.range 16).any (fun k => tsOutcome d thr k == 1) then s.leaf.b.counts t.leaf.b K.mismatchBeats
         else t.leaf.b.num K.mismatchBeats = s.leaf.b.num K.mismatchBeats) ∧
        (if (List.range 16).any (fun k => tsOutcome d thr k == 2) then s.leaf.b.counts t.leaf.b K.nonfiniteBeats
         else t.leaf.b.num K.nonfiniteBeats = s.leaf.b.num K.nonfiniteBeats))))) ∧
  (∀ (s : State) (d : Draft), s.leaf.b.works = true → s.leaf.draft = some d →
     Runs .tsSectionSeal s (fun t => t.leaf.draft = none ∧ (∃ e ∈ t.leaf.b.journal, e.frame = d.frame ∧ e.dst = none) ∧
       ∀ g o x y, TsItem.beat g o x y ∈ t.leaf.ts.queue → d.frame < g))

/-- WEIGHT_TAP_BEAT with words, in an open frame out of L2, enters the snoop buffer; one that finds 256 beats there is lost and counted
(R163). ASSAY_BEAT_DIGEST takes the oldest beat: one of a tensor that the table does not name, and one of a stale epoch, are
counted; one of the epoch under way adds its words to the digest of the open pass, V ← V + Σ (w + 1)·kⁱ⁺¹ mod p, when they do not
complete it (R160 to R164). -/
def Obligations.WeightsAreDigested : Prop :=
  (∀ (s : State) (data : BitVec 1024) (tensor : BitVec 20) (word : Word) (count : BitVec 6) (epoch : BitVec 16),
     s.leaf.b.works = true → s.leaf.b.frameIsOpen = true → count ≠ 0 → s.leaf.b.num K.powerStateNow ≠ 2 →
     (s.leaf.asy.snoop.length < 256 → Runs (.weightTapBeat data tensor word count epoch) s (fun t =>
       t.leaf.own = ({ s.leaf with asy := { s.leaf.asy with snoop := s.leaf.asy.snoop ++
         [{ frame := s.leaf.b.now, data := data.toNat, tensor := tensor.toNat, word := word.toNat, count := count.toNat,
            epoch := epoch.toNat }] } } : Leaf).own)) ∧
     (256 ≤ s.leaf.asy.snoop.length → Runs (.weightTapBeat data tensor word count epoch) s (fun t =>
       t.leaf.asy.snoop = s.leaf.asy.snoop ∧ s.leaf.b.counts t.leaf.b K.beatsOverflowed))) ∧
  (∀ (s : State) (w : WBeat) (ws : List WBeat), s.leaf.b.works = true → s.leaf.asy.snoop = w :: ws →
     (s.leaf.b.tensorOf w.tensor = none → Runs .assayBeatDigest s (fun t => t.leaf.asy.snoop = ws ∧
       s.leaf.b.counts t.leaf.b K.beatsUnknownTensor ∧ t.leaf.asy.tensors = s.leaf.asy.tensors)) ∧
     ∀ e : TensorEntry, s.leaf.b.tensorOf w.tensor = some e → w.word + w.count ≤ e.length → w.count ≤ 32 →
       let x := s.leaf.asy.tensor w.tensor
       x.late = false →
       (32768 ≤ epochAhead w.epoch x.epoch → Runs .assayBeatDigest s (fun t => t.leaf.asy.snoop = ws ∧
         s.leaf.b.counts t.leaf.b K.beatsStaleEpoch ∧ t.leaf.asy.tensors = s.leaf.asy.tensors)) ∧
       (epochAhead w.epoch x.epoch = 0 → 0 < w.count → x.n + w.count < e.passWords →
         Runs .assayBeatDigest s (fun t => t.leaf.asy.snoop = ws ∧
           t.leaf.asy.tensor w.tensor = { x with v := (x.v + digestFrom e.key w.word w.words) % gfP, n := x.n + w.count } ∧
           t.leaf.b.own = s.leaf.b.own)))

/-- The trace commands of Table 12.3 (R308), each where the unit's state allows it: arm leaves the buffer with its arm time-stamp alone and
the unit armed; trigger of an armed unit with a stop delay marks the trigger time and the stop instant, and leaves the unit triggered;
stop puts the unit to idle; clear empties the buffer; clearing trace_authorised stops a capture. Clear of a unit that is not idle is
refused with WRONG_STATE and changes nothing of the unit. -/
def Obligations.TraceCommands : Prop :=
  ∀ (s : State) (t : BitVec 96),
    (s.passes .leaf K.traceCommand (.num 1) = true → Runs (.traceArm t) s (fun u => u.leaf.trState = trArmed ∧
      u.leaf.tr.ring.map (·.data) = [trStamp 2 1 s.leaf.b.domBit (t96ns t.toNat)])) ∧
    (s.passes .leaf K.traceCommand (.num 2) = true → s.leaf.trState = trArmed → s.leaf.b.num K.stopDelayNs ≠ 0 →
      Runs (.traceTrigger t) s (fun u => u.leaf.trState = trTriggered ∧
        u.leaf.b.num K.triggerTime = ns96 (t96ns t.toNat) ∧ u.leaf.tr.stopAt = some (t96ns t.toNat + s.leaf.b.num K.stopDelayNs))) ∧
    (s.passes .leaf K.traceCommand (.num 3) = true → Runs (.traceStop t) s (fun u => u.leaf.trState = trIdle ∧ u.leaf.tr.queue = [])) ∧
    (s.passes .leaf K.traceCommand (.num 4) = true → Runs .traceClear s (fun u => u.leaf.tr.ring = [] ∧ u.leaf.tr.queue = [] ∧
      u.leaf.trState = s.leaf.trState)) ∧
    (s.passes .leaf K.traceAuthorised (.num 0) = true → Runs (.traceAuthoriseClear t) s (fun u =>
      u.leaf.b.num K.traceAuthorised = 0 ∧ u.leaf.capturing = false)) ∧
    (s.leaf.b.takes K.traceCommand = true → s.leaf.trState ≠ trIdle → s.leaf.b.isLeaf = true →
      Runs .traceClear s (fun u => .act K.traceCommand stWrong ∈ u.leaf.b.out ∧ u.leaf.tr = s.leaf.tr))

/-- TRACE_EVENT (R304): while the unit does not capture the beat is counted and dropped; an event of an excluded privilege is counted;
one that finds 512 items waiting is lost and counted; another one joins the intake with its time, and one that matches the trigger of
an armed unit with a stop delay leaves the unit triggered at its time (R309). The trace writer (R305, R310, R313):
TRACE_RECORD_WRITE takes the oldest item of a capturing unit out of the intake; at the stop instant a triggered unit goes to idle; a
spent stall budget ends the stall, which is counted and is not raised again in the frame. -/
def Obligations.TraceRecordsAreWritten : Prop :=
  (∀ (s : State) (d : BitVec 512) (off : BitVec 20), s.leaf.admits d.toNat 4 off.toNat = true →
     (s.leaf.capturing = false → Runs (.traceEvent d off) s (fun t => s.leaf.b.counts t.leaf.b K.beatsIdle ∧ t.leaf.tr = s.leaf.tr)) ∧
     (s.leaf.capturing = true →
       (bit (s.leaf.b.num K.privilegeExclude) (bits d.toNat 493 3) = true →
         Runs (.traceEvent d off) s (fun t => s.leaf.b.counts t.leaf.b K.eventsExcluded ∧ t.leaf.tr = s.leaf.tr)) ∧
       (bit (s.leaf.b.num K.privilegeExclude) (bits d.toNat 493 3) = false → 512 ≤ s.leaf.tr.queue.length →
         Runs (.traceEvent d off) s (fun t => s.leaf.b.counts t.leaf.b K.eventsLost ∧ t.leaf.tr.lost = s.leaf.tr.lost + 1)) ∧
       (bit (s.leaf.b.num K.privilegeExclude) (bits d.toNat 493 3) = false → s.leaf.tr.queue.length < 512 →
         (s.leaf.trState ≠ trArmed ∨ s.leaf.b.trigMatch (beatCore d.toNat) (bits d.toNat 480 8) = false →
           Runs (.traceEvent d off) s (fun t => ∃ i, t.leaf.tr.queue = s.leaf.tr.queue ++ [i] ∧
             i.time = s.leaf.eventTime off.toNat ∧ i.steps = s.leaf.b.steps)) ∧
         (s.leaf.trState = trArmed → s.leaf.b.trigMatch (beatCore d.toNat) (bits d.toNat 480 8) = true →
           s.leaf.b.num K.stopDelayNs ≠ 0 →
           Runs (.traceEvent d off) s (fun t => t.leaf.trState = trTriggered ∧
             t.leaf.b.num K.triggerTime = ns96 (s.leaf.eventTime off.toNat)))))) ∧
  (∀ s : State, s.leaf.b.works = true →
     (∀ i is, s.leaf.b.num K.powerStateNow < 2 → s.leaf.tr.queue = i :: is → s.leaf.trState = trArmed →
       Runs .traceRecordWrite s (fun t => t.leaf.tr.queue = is ∧ t.leaf.trState = trArmed)) ∧
     (∀ x, s.leaf.b.num K.powerStateNow < 2 → s.leaf.tr.stopAt = some x → s.leaf.trState = trTriggered →
       Runs .traceStopInstant s (fun t => t.leaf.trState = trIdle ∧ t.leaf.tr.queue = [])) ∧
     (s.leaf.tr.stall = true → Runs .stallBudgetExpire s (fun t => t.leaf.tr.stall = false ∧ t.leaf.tr.spent = true ∧
       .stall false ∈ t.leaf.b.out ∧ s.leaf.b.counts t.leaf.b K.stallBudgetHits)))

/-! ### The channel's reduction and its engines -/

/-- ASSAY_WINDOW_EXPIRE of a key open for its group's window compares and closes it: it is open no more, and is in the list of
closed keys (R172). GROUP_ENTRY_WRITE gives the group its entry and closes its open keys (R170). -/
def Obligations.AssayKeysClose : Prop :=
  ∀ (s : State) (c : Ch) (group : Byte),
    (∀ (tensor : BitVec 20) (epoch : BitVec 16) (k : AKey), (s.chan c).b.works = true →
      (s.chan c).asy.keys.find? (fun x => x.group == group.toNat && x.tensor == tensor.toNat && x.epoch == epoch.toNat) = some k →
      k.opened + ((s.chan c).group group.toNat).2.2 ≤ (s.chan c).b.now →
      Runs (.assayWindowExpire c group tensor epoch) s (fun t => s.beside c t ∧
        (group.toNat, tensor.toNat, epoch.toNat) ∈ (t.chan c).asy.closed ∧
        (∀ x ∈ (t.chan c).asy.keys, ¬ (x.group = group.toNat ∧ x.tensor = tensor.toNat ∧ x.epoch = epoch.toNat)) ∧
        (s.chan c).b.counts (t.chan c).b K.keysCompared)) ∧
    ∀ v : Word64, s.passes (.chan c) (K.groupEntry + group.toNat) (.num v.toNat) = true →
      Runs (.groupEntryWrite c group v) s (fun t => s.beside c t ∧ (t.chan c).b.num (K.groupEntry + group.toNat) = v.toNat ∧
        (∀ x ∈ (s.chan c).asy.keys, x.group = group.toNat → (x.group, x.tensor, x.epoch) ∈ (t.chan c).asy.closed) ∧
        ∀ x ∈ (t.chan c).asy.keys, x.group ≠ group.toNat)

/-- DATA_FRAGMENT_RECEIVE (R177, R178): a fragment outside the format, its envelope's head
included (R75), is discarded and counted; one of a source that is no child, or of
a child without a credit, is a credit violation; the first fragment of a packet that it does not complete takes a credit, frees a
buffer, and stands at its offset in the packet. -/
def Obligations.FragmentsAssemble : Prop :=
  ∀ (s : State) (c : Ch) (src : Word) (h : FragHdr) (data : List Byte), (s.chan c).b.works = true →
    let bad := envTaken h.env 3 = false ∨ h.typ.toNat ≠ 0 ∨ h.total.toNat < 128 ∨ 1048576 < h.total.toNat ∨ data = [] ∨ 8176 < data.length ∨
      h.total.toNat < h.offset.toNat + data.length
    (bad → Runs (.dataFragmentReceive c src h data) s (fun t => s.beside c t ∧ (t.chan c).tree = (s.chan c).tree ∧
      (s.chan c).b.counts (t.chan c).b K.envelopesDiscarded)) ∧
    (¬ bad →
      (((s.chan c).tree.child src = none ∨ ∃ x, (s.chan c).tree.child src = some x ∧ x.held = 0) →
        Runs (.dataFragmentReceive c src h data) s (fun t => s.beside c t ∧ (t.chan c).tree = (s.chan c).tree ∧
          (s.chan c).b.counts (t.chan c).b K.redCreditViolations)) ∧
      ∀ x : Child, (s.chan c).tree.child src = some x → 0 < x.held → (∀ p ∈ x.parts, p.frame ≠ h.frame.toNat) →
        data.length < h.total.toNat →
        Runs (.dataFragmentReceive c src h data) s (fun t => s.beside c t ∧ ∃ y, (t.chan c).tree.child src = some y ∧
          y.held = x.held - 1 ∧ y.give = min 255 (x.give + 1) ∧ ∃ p ∈ y.parts, p.frame = h.frame.toNat ∧
            p.got = List.replicate h.offset.toNat none ++ data.map some ++
              List.replicate (h.total.toNat - (h.offset.toNat + data.length)) none))

/-- FRAGMENT_SEND of a block with a packet for its parent and a credit: the next 8,176 bytes of the oldest packet that may send go to
the parent in use, and a credit is used (R176, R178). CONTROL_FRAGMENT_RECEIVE from the active parent, in use and attached: its
cumulative acknowledgement frees the journalled packets of frames up to it, and its credits are added (R178, R179, R198);
one whose envelope's head is outside the format is discarded and counted (R75). -/
def Obligations.FragmentsGoUp : Prop :=
  (∀ (s : State) (n : Node) (e : JEntry), (s.blk n).works = true → (s.blk n).journal.find? (s.blk n).maySend = some e → e.dst = none →
     Runs (.fragmentSend n) s (fun t => (t.blk n).link.credits = (s.blk n).link.credits - 1 ∧
       ∃ h, .fragment (chanAddr (s.blk n).inUse) h (slice e.data e.next 8176) ∈ (t.blk n).out ∧ h.frame = BitVec.ofNat 64 e.frame ∧
         h.total = BitVec.ofNat 24 e.data.length ∧ h.offset = BitVec.ofNat 24 e.next)) ∧
  (∀ (s : State) (n : Node) (src : Word) (h : FragHdr) (entries : List RelEntry), (s.blk n).works = true →
     (s.blk n).num K.parentActive ≠ noChan → (s.blk n).inUse = (s.blk n).num K.parentActive → src = chanAddr (s.blk n).inUse →
     (s.blk n).link.cutOff = false → (s.blk n).link.attached = true → (∀ x ∈ (s.blk n).link.answerers, x.addr ≠ src) →
     h.frame ≠ 0xFFFFFFFFFFFFFFFF →
     (envTaken h.env 3 = false → Runs (.controlFragmentReceive n src h entries) s (fun t =>
       (t.blk n).journal = (s.blk n).journal ∧ (t.blk n).link = (s.blk n).link ∧
       (s.blk n).counts (t.blk n) K.envelopesDiscarded)) ∧
     (envTaken h.env 3 = true → Runs (.controlFragmentReceive n src h entries) s (fun t =>
       (t.blk n).journal = (s.blk n).journal.filter (fun e => !(e.dst == none && decide (e.frame ≤ h.frame.toNat))) ∧
       (t.blk n).num K.journalAcked = h.frame.toNat ∧ (t.blk n).link.credits = min 255 ((s.blk n).link.credits + h.credits.toNat))))

/-- The loss of a parent and the return (R201, R206): a parent in use silent for 0x1000:0C frames is lost, and the block moves to its
other parent and attaches there, naming the one it leaves; after 0x1000:0D clean frames it returns to its active parent in the same
way. LEAF_ABSENT of a member leaf that has missed two deadlines is recorded once (R201). -/
def Obligations.ParentsChange : Prop :=
  (∀ (s : State) (n : Node), (s.blk n).works = true → (s.blk n).link.cutOff = false → (s.blk n).inUse ≠ noChan →
     (match n with | .leaf => s.leaf.b.num K.powerStateNow < 2 | .chan c => (s.chan c).b.num K.bringupState ≠ 7) →
     (∀ other, other = (if (s.blk n).inUse = (s.blk n).num K.parentActive then (s.blk n).num K.parentStandby else (s.blk n).num K.parentActive) →
       other ≠ noChan → other ≠ (s.blk n).inUse → other ∉ (s.blk n).link.lost → (s.blk n).num K.parentLossFrames ≤ (s.blk n).link.silent →
       Runs (.parentLost n) s (fun t => (t.blk n).inUse = other ∧ (s.blk n).inUse ∈ (t.blk n).link.lost ∧
         (t.blk n).link.attached = false ∧ (s.blk n).counts (t.blk n) K.parentSwitches ∧
         .attach (chanAddr other) (s.blk n).now (chanAddr (s.blk n).inUse) ∈ (t.blk n).out)) ∧
     ((s.blk n).inUse ≠ (s.blk n).num K.parentActive → (s.blk n).num K.parentActive ≠ noChan →
       (s.blk n).num K.returnFrames ≤ (s.blk n).link.homeRun →
       Runs (.returnHome n) s (fun t => (t.blk n).inUse = (s.blk n).num K.parentActive ∧
         (s.blk n).counts (t.blk n) K.parentSwitches ∧
         .attach (chanAddr ((s.blk n).num K.parentActive)) (s.blk n).now (chanAddr (s.blk n).inUse) ∈ (t.blk n).out))) ∧
  (∀ (s : State) (c : Ch) (pos : BitVec 6) (x : Child), (s.chan c).b.works = true →
     (s.chan c).tree.children.find? (fun y => y.kind == .leaf && y.pos == pos.toNat && y.member) = some x → 2 ≤ x.missed →
     Runs (.leafAbsent c pos) s (fun t => s.beside c t ∧
       (∃ y ∈ (t.chan c).tree.children, y.addr = x.addr ∧ y.absentMade = true ∧ y.missed = x.missed) ∧
       (x.absentMade = false → (s.chan c).faultIn = [] → (s.chan c).b.counts (t.chan c).b K.fltRecordsTaken) ∧
       (x.absentMade = true → (t.chan c).own = (s.chan c).own)))

/-- The adoption of a leaf of another home channel (R202, R203): refused and counted while leaves of a third one are served; else, when
it names the parent it leaves, that one is asked what it has added of the leaf; when it names none, it is admitted at once. -/
def Obligations.LeavesAreAdopted : Prop :=
  ∀ (s : State) (c : Ch) (src : Word) (port : Bool) (frame : Word64) (left : BitVec 16), (s.chan c).b.works = true → (s.chan c).member = true →
    (s.chan c).roleAsk = none → bits src.toNat 28 4 = 0 → src.toNat % 2 ^ 18 / 32 ≠ (s.chan c).id % 8192 →
    let third := (s.chan c).tree.children.any (fun x => x.kind == .leaf && x.adopted &&
      decide (x.leafId / 32 ≠ src.toNat % 2 ^ 18 / 32))
    (third = true → Runs (.attachReceive c ⟨src, port⟩ 31 frame left) s (fun t => s.beside c t ∧
      (s.chan c).b.counts (t.chan c).b K.adoptionsRefused ∧ (t.chan c).tree = (s.chan c).tree)) ∧
    (third = false → (s.chan c).tree.child src = none → (∀ k ∈ (s.chan c).tree.asks, k.child ≠ src) →
      (left.toNat ≠ noChan → chanAddr left.toNat ≠ (s.chan c).b.addr → chanAddr left.toNat ≠ 0xFFFFFFFF →
        Runs (.attachReceive c ⟨src, port⟩ 31 frame left) s (fun t => s.beside c t ∧
          (∃ h, .query (chanAddr left.toNat) (s.chan c).b.addr h (chanAddr left.toNat) [src] ∈ (t.chan c).b.out ∧
            h.frame = BitVec.ofNat 64 (s.chan c).b.now ∧ h.total = 12) ∧
          ∃ k ∈ (t.chan c).tree.asks, k.child = src ∧ k.left = chanAddr left.toNat ∧ k.onward = false)) ∧
      (left.toNat = noChan →
        Runs (.attachReceive c ⟨src, port⟩ 31 frame left) s (fun t => s.beside c t ∧ (s.chan c).b.counts (t.chan c).b K.adoptions ∧
          (∃ h es, .control src h es ∈ (t.chan c).b.out ∧ h.credits = 16) ∧
          ∃ y, (t.chan c).tree.child src = some y ∧ y.attached = true ∧ y.held = 16)))

/-- RELEASE_QUERY_RECEIVE (R202 steps 1 to 3): a member that is the parent left answers, with an entry for every leaf named; another one
that does not know that parent forwards the query to its own parent. What ends a query under way (R202 steps 1, 4 and 5): without an
answer it goes to the node's own parent; with one from the parent left that names a leaf of the child, or with none at all in time,
the child is admitted with 16 credits, and asks no more. -/
def Obligations.ReleaseQueriesRun : Prop :=
  (∀ (s : State) (c : Ch) (src left : Word) (nodes : List Word), (s.chan c).b.works = true → (s.chan c).member = true →
     (left = (s.chan c).b.addr → Runs (.releaseQueryReceive c src left nodes) s (fun t => s.beside c t ∧
       ∃ h es, .answer src h es ∈ (t.chan c).b.out ∧ h.frame = BitVec.ofNat 64 (s.chan c).b.now ∧
         h.total = BitVec.ofNat 24 (24 * es.length) ∧ ∀ n ∈ nodes, bits n.toNat 28 4 = 0 → ∃ e ∈ es, e.node.toNat = n.toNat % 2 ^ 18)) ∧
     (left ≠ (s.chan c).b.addr → (s.chan c).tree.child left = none → (s.chan c).b.inUse ≠ noChan →
       Runs (.releaseQueryReceive c src left nodes) s (fun t => s.beside c t ∧ (t.chan c).tree = (s.chan c).tree ∧
         ∃ h, .query (chanAddr (s.chan c).b.inUse) src h left nodes ∈ (t.chan c).b.out ∧
           h.frame = BitVec.ofNat 64 (s.chan c).b.now ∧ h.total = BitVec.ofNat 24 (8 + 4 * nodes.length)))) ∧
  (∀ (s : State) (c : Ch) (k : Ask) (x : Child), (s.chan c).b.works = true → (s.chan c).tree.asks = [k] →
     (s.chan c).tree.child k.child = some x →
     let admitted := fun (t : State) => s.beside c t ∧ (t.chan c).tree.asks = [] ∧
       (∃ h es, .control k.child h es ∈ (t.chan c).b.out ∧ h.credits = 16) ∧
       ∃ y, (t.chan c).tree.child k.child = some y ∧ y.attached = true ∧ y.held = 16
     (k.onward = false → (s.chan c).b.inUse ≠ noChan → Runs (.releaseQueryTimeout c k.child) s (fun t => s.beside c t ∧
       (∃ h, .query (chanAddr (s.chan c).b.inUse) (s.chan c).b.addr h k.left [k.child] ∈ (t.chan c).b.out) ∧
       (t.chan c).tree.asks = [{ k with onward := true }])) ∧
     Runs (.releaseAnswerMissing c k.child) s admitted ∧
     ∀ es : List RelEntry, es.any (fun e => ((s.chan c).tree.leavesUnder k.child k.child).contains e.node.toNat) = true →
       Runs (.releaseAnswerReceive c k.left es) s admitted)

/-- The tables of a channel: CHANNEL_SERIES_SWAP and AGG_TABLE_SWAP make the standby table active with its count of entries (R184,
R213), a channel series keeps its state when its descriptor differs in nothing but param_set and handoff (R228), and the
hand-off records stay. PARAM_SETS_WRITE gives the sets their values and leaves every series its state (R217). -/
def Obligations.ChannelTablesSwap : Prop :=
  ∀ (s : State) (c : Ch),
    (s.passes (.chan c) K.serSeriesSwap (.num 1) = true → Runs (.channelSeriesSwap c) s (fun t => s.beside c t ∧
      (t.chan c).b.bytes K.serSeriesTableActive = (s.chan c).b.bytes K.serSeriesTableStandby ∧
      (t.chan c).b.num K.serSeriesCount = (chTable ((s.chan c).b.bytes K.serSeriesTableStandby)).length ∧
      (t.chan c).ser.hand = (s.chan c).ser.hand ∧
      ∀ (i : Nat) (x y : ChDesc), (chTable ((s.chan c).b.bytes K.serSeriesTableActive))[i]? = some x →
        (chTable ((s.chan c).b.bytes K.serSeriesTableStandby))[i]? = some y →
        (t.chan c).ser.state i =
          (if { x with param := y.param, handoff := y.handoff } = y then (s.chan c).ser.state i else SerState.empty))) ∧
    (∀ v : List Byte, s.passes (.chan c) K.paramSets (.bytes v) = true → Runs (.paramSetsWrite c v) s (fun t => s.beside c t ∧
      (t.chan c).b.bytes K.paramSets = v ∧ (t.chan c).ser = (s.chan c).ser)) ∧
    (s.passes (.chan c) K.aggSwap (.num 1) = true → Runs (.aggTableSwap c) s (fun t => s.beside c t ∧
      (t.chan c).b.bytes K.aggTableActive = (s.chan c).b.bytes K.aggTableStandby ∧
      (t.chan c).b.num K.aggSlots = ((s.chan c).b.bytes K.aggTableStandby).length / 8 ∧
      (t.chan c).b.num K.aggTableCheck = crc32c ((s.chan c).b.bytes K.aggTableStandby) ∧ (t.chan c).b.num K.aggSwap = 0 ∧
      (t.chan c).tree.table (s.chan c).b.now = (s.chan c).b.bytes K.aggTableStandby))

/-- IMAGE_CHECK_DONE and IMAGE_STORE_DONE (R247, R248, R273, R250, R272): the check of a loaded image makes it ready or refused, with
the cause and the entry at fault, and leaves the slots as they are; the store of the image that a commit makes active is kept as a
pending copy, and ends the commit when it was the last. A failed store is counted, and the commit is no more. BALANCE_IMAGE_SWAP and
RULE_IMAGE_SWAP (R251, R272): the slots are exchanged; every score and row is gone, every subject is idle with no token spent, and
the pacer holds no wake of the old rules. -/
def Obligations.ImagesSwap : Prop :=
  (∀ (s : State) (c : Ch), (s.chan c).b.works = true →
     ((s.chan c).b.num K.standbyState = 2 → Runs (.imageCheckDone c .balance) s (fun t => s.beside c t ∧
       let r := (s.chan c).b.balCheck ((s.chan c).b.bytes K.standbyImage) ((s.chan c).b.num K.activeNodeWords)
       (t.chan c).b.num K.standbyState = (if r.1 = 0 then 3 else 4) ∧ (t.chan c).b.num K.standbyRefusal = r.1 ∧
       (t.chan c).b.num K.standbyRefusalIndex = r.2 ∧
       (t.chan c).b.num K.standbyImageId = (balHdr ((s.chan c).b.bytes K.standbyImage)).id ∧
       (t.chan c).b.bytes K.standbyImage = (s.chan c).b.bytes K.standbyImage ∧
       (t.chan c).b.bytes K.activeImage = (s.chan c).b.bytes K.activeImage ∧ (t.chan c).bal = (s.chan c).bal)) ∧
     ((s.chan c).b.num K.rulStandbyState = 2 → Runs (.imageCheckDone c .rule) s (fun t => s.beside c t ∧
       let r := (s.chan c).b.rulCheck ((s.chan c).b.bytes K.rulStandbyImage)
       (t.chan c).b.num K.rulStandbyState = (if r.1 = 0 then 3 else 4) ∧ (t.chan c).b.num K.rulStandbyRefusal = r.1 ∧
       (t.chan c).b.num K.rulStandbyRefusalIndex = r.2 ∧
       (t.chan c).b.bytes K.rulActiveImage = (s.chan c).b.bytes K.rulActiveImage ∧ (t.chan c).rul = (s.chan c).rul)) ∧
     ∀ (img : Img) (x : Txn), (s.chan c).b.txns = [x] → x.images = [(imageKeys img).1] → x.storing = 1 → x.storeFailed = false →
       x.fleet = false → (s.chan c).b.execs = [] → s.sh.currents = [] →
       ({ (s.chan c).b with txns := [] } : Blk).commitStatus x.apply (x.items.map (·.1)) = stOk →
       Runs (.imageStoreDone c img true) s (fun t => s.beside c t ∧
         (∃ y ∈ (t.chan c).b.txns, y.src = x.src ∧ y.num = x.num ∧ y.state = .committed ∧ y.apply = x.apply ∧ y.images = []) ∧
         ∃ r ∈ (t.chan c).flash, r.key = (imageKeys img).2.1 ∧ r.pend = some (x.src, x.num) ∧
           r.v = .bytes ((s.chan c).b.bytes (imageKeys img).2.2)) ∧
       Runs (.imageStoreDone c img false) s (fun t => s.beside c t ∧ (t.chan c).b.txns = [] ∧
         (s.chan c).b.counts (t.chan c).b K.flashWriteFailures)) ∧
  (∀ (s : State) (c : Ch),
     (s.passes (.chan c) K.imageSwap (.num 1) = true → Runs (.balanceImageSwap c) s (fun t => s.beside c t ∧
       (t.chan c).b.bytes K.activeImage = (s.chan c).b.bytes K.standbyImage ∧
       (t.chan c).b.bytes K.standbyImage = (s.chan c).b.bytes K.activeImage ∧ (t.chan c).bal.scores = [] ∧ (t.chan c).bal.builds = [] ∧
       (t.chan c).b.num K.standbyState = (if (s.chan c).b.bytes K.activeImage = [] then 0 else 3) ∧
       (t.chan c).b.num K.imageSwap = 0 ∧ (s.chan c).b.counts (t.chan c).b K.swaps)) ∧
     (s.passes (.chan c) K.rulImageSwap (.num 1) = true → Runs (.ruleImageSwap c) s (fun t => s.beside c t ∧
       (t.chan c).b.bytes K.rulActiveImage = (s.chan c).b.bytes K.rulStandbyImage ∧
       (t.chan c).b.bytes K.rulStandbyImage = (s.chan c).b.bytes K.rulActiveImage ∧ (t.chan c).b.num K.rulImageSwap = 0 ∧
       (t.chan c).rul.subj = [] ∧ (t.chan c).rul.spent = [] ∧ (t.chan c).pac.rules = [] ∧
       ∀ q ∈ (t.chan c).pac.queue, q.rule = none)))

/-- BARRIER_WINDOW_EXPIRE (R256): the instance that has stood for its window closes at data frame D + W − 1, to be scored. SUSPECT_SET
and SUSPECT_CLEAR (R281) mark and clear the named core, or the named leaf, and no other; each mark makes one fault record. -/
def Obligations.BarriersAndSuspects : Prop :=
  ∀ (s : State) (c : Ch),
    (∀ (barrier : Word) (i : LInst), (s.chan c).b.works = true →
      (s.chan c).lag.insts.find? (fun x => x.ident == barrier.toNat &&
        decide (x.first + (s.chan c).b.num K.barrierWindow + 1 ≤ (s.chan c).b.now)) = some i →
      Runs (.barrierWindowExpire c barrier) s (fun t => s.beside c t ∧
        { i with closed := some (i.first + (s.chan c).b.num K.barrierWindow - 1) } ∈ (t.chan c).lag.closed ∧
        ∀ x ∈ (t.chan c).lag.insts, ¬ (x.ident = barrier.toNat ∧
          x.first + (s.chan c).b.num K.barrierWindow + 1 ≤ (s.chan c).b.now))) ∧
    (∀ unit : Nat, unit < 49152 → s.passes (.chan c) K.suspectSet (.bytes (natLe 4 (2 ^ 30 + unit))) = true →
      Runs (.suspectSet c (natLe 4 (2 ^ 30 + unit))) s (fun t => s.beside c t ∧
        (t.chan c).lag.entry unit = { (s.chan c).lag.entry unit with suspect := true } ∧
        (∀ u, u ≠ unit → (t.chan c).lag.entry u = (s.chan c).lag.entry u) ∧
        ((s.chan c).faultIn = [] → (s.chan c).b.counts (t.chan c).b K.fltRecordsTaken))) ∧
    (∀ unit : Nat, unit < 49152 → s.passes (.chan c) K.suspectClear (.bytes (natLe 4 (2 ^ 30 + unit))) = true →
      Runs (.suspectClear c (natLe 4 (2 ^ 30 + unit))) s (fun t => s.beside c t ∧
        (t.chan c).lag.entry unit = { (s.chan c).lag.entry unit with suspect := false } ∧
        ∀ u, u ≠ unit → (t.chan c).lag.entry u = (s.chan c).lag.entry u)) ∧
    ∀ pos : Nat, pos < 48 →
      (s.passes (.chan c) K.suspectSet (.bytes (natLe 4 (2 ^ 31 + pos))) = true →
        Runs (.suspectSet c (natLe 4 (2 ^ 31 + pos))) s (fun t => s.beside c t ∧
          (t.chan c).b.num K.suspectLeaves = setBit ((s.chan c).b.num K.suspectLeaves) pos ∧ (t.chan c).lag.entries = (s.chan c).lag.entries)) ∧
      (s.passes (.chan c) K.suspectClear (.bytes (natLe 4 (2 ^ 31 + pos))) = true →
        Runs (.suspectClear c (natLe 4 (2 ^ 31 + pos))) s (fun t => s.beside c t ∧
          (t.chan c).b.num K.suspectLeaves = clearBit ((s.chan c).b.num K.suspectLeaves) pos))

/-- RULE_TXN_COMMIT (R271): an admitted action on a leaf becomes a transaction of the channel on that leaf, with the action's items for
its apply frame. NOTIFY (R278, R285) hands a green packet of one part to the queue of the subscriber that takes notifications, the one that the
action had at admission or else the rule's, and is counted as unrouted without one. LOSS_SUBMIT (R275, R276, R277): a step beyond the last is the newest of the step map and of the
window; a loss or gradient norm that is not finite makes rule input 0x33, read in the same frame. A step that is not beyond the last
is refused and counted. -/
def Obligations.ActionsAreCommitted : Prop :=
  (∀ (s : State) (c : Ch),
     (∀ (a : Adm) (d : Word), (s.chan c).b.works = true → (s.chan c).rul.admitted = [a] → a.dst = some d → a.kind ≠ 6 →
       Runs (.ruleTxnCommit c) s (fun t => s.beside c t ∧ (t.chan c).rul.admitted = [] ∧
         (∃ m, .msg m ∈ (t.chan c).b.out ∧ m.dst = d ∧ m.opcode = opTxnOpen) ∧
         ∃ r ∈ (t.chan c).rem, r.dst = d ∧ r.writes = mergeItems a.items ∧ r.apply = a.apply ∧
           r.purpose = .ruleTxn a.swapAt [(a.rule, a.subject)])) ∧
     ∀ v : List Byte, s.passes (.chan c) K.notify (.bytes v) = true →
       let img := (s.chan c).b.bytes K.rulActiveImage
       let kept := (s.chan c).rul.notes.find? (fun p => p.1 == v)
       ∀ sub, (kept.map (·.2) = some sub ∨ (kept = none ∧ img ≠ [] ∧ leAt v 15 1 < (rulHdr img).rules ∧
         sub = (ruleAt img (leAt v 15 1)).arg1)) → sub ≤ 4095 →
       ((∀ k, k < 16 → ((s.chan c).b.queue (16 * sub + k)).source ≠ 3) →
         Runs (.notify c v) s (fun t => s.beside c t ∧ (t.chan c).egr = (s.chan c).egr ∧
           (s.chan c).b.counts (t.chan c).b K.notifyUnrouted)) ∧
       ∀ k, k < 16 → ((s.chan c).b.queue (16 * sub + k)).source = 3 →
         (∀ j, j < k → ((s.chan c).b.queue (16 * sub + j)).source ≠ 3) →
         let q := 16 * sub + k
         (s.chan c).egr.boundary = false →
         Runs (.notify c v) s (fun t => s.beside c t ∧
           ((t.chan c).egr.queue q).seq = (((s.chan c).egr.queue q).seq + 1) % 2 ^ 32 ∧
           (0 < ((s.chan c).b.queue q).weight → 0 < ((s.chan c).b.sub sub).weight → ((s.chan c).egr.queue q).mode = 0 →
             ((s.chan c).egr.queue q).depth + 48 + v.length ≤ ((s.chan c).b.queue q).limit →
             (s.chan c).egr.held + 48 + v.length ≤ poolBytes →
             ∃ h : List Byte, h.length = 32 ∧ ((t.chan c).egr.queue q).pkts = ((s.chan c).egr.queue q).pkts ++ [(48 + v.length, h ++ v)]))) ∧
  (∀ (s : State) (c : Ch) (v : List Byte),
     (s.passes (.chan c) K.lossSubmit (.bytes v) = true →
       let x : LossStep := { step := leAt v 12 4, loss := leAt v 8 4, grad := leAt v 4 4, frame := (s.chan c).b.now }
       Runs (.lossSubmit c v) s (fun t => s.beside c t ∧ (t.chan c).b.num K.lastStep = x.step ∧
         (t.chan c).rul.steps = ((x.step, x.frame) :: (s.chan c).rul.steps).take 1024 ∧
         (t.chan c).rul.window = (x :: (s.chan c).rul.window).filter (fun y =>
           decide (x.step < y.step + (s.chan c).b.num K.lossWindow)) ∧
         (t.chan c).inputs = (s.chan c).inputs ++ (if f32Fin x.loss && f32Fin x.grad then []
           else [{ at_ := x.frame, code := 0x33, node := 0, arg := 0, payload := [] }]))) ∧
     ((s.chan c).b.works = true → (s.chan c).b.isLeaf = false → v.length = 16 → leAt v 12 4 ≤ (s.chan c).b.num K.lastStep →
       Runs (.lossSubmit c v) s (fun t => s.beside c t ∧ (t.chan c).rul = (s.chan c).rul ∧
         (s.chan c).b.counts (t.chan c).b K.submissionsRefused ∧ .act K.lossSubmit stRange ∈ (t.chan c).b.out)))

/-! ### Egress, trace fetch, Carat and the movers -/

/-- STREAM_PACKET_SEND (R284, R291, R292, R297, R298): a port that is up and may send, sends the head of the queue with the smallest
tag of the active subscriber with the smallest tag, in an envelope to the subscriber's address; virtual times take those tags, and what
stays active moves on by its increment. While a port is not up, or a fragment of a frame packet waits, nothing is sent and virtual time
stands still. -/
def Obligations.PacketsLeaveByTags : Prop :=
  ∀ (s : State) (c : Ch) (p : Fin 2), (s.chan c).b.works = true →
    (∀ (sub q len : Nat) (d : List Byte) (rest : List (Nat × List Byte)), (s.chan c).portState p.val = 0 →
      (s.chan c).b.fragmentWaits = false →
      ((s.chan c).egr.port p.val).shaper.eligible = true →
      minTag (fun i => ((s.chan c).egr.sub i).tag)
        ((s.chan c).subsListed.filter (fun i => (s.chan c).subActive i && (s.chan c).portOf i == p.val)) = some sub →
      minTag (fun i => ((s.chan c).egr.queue i).tag) ((s.chan c).activeQueues sub) = some q →
      ((s.chan c).egr.queue q).pkts = (len, d) :: rest →
      Runs (.streamPacketSend c p) s (fun t => s.beside c t ∧
        .stream p.val sub q (envelope 4 d.length (s.chan c).b.addr (BitVec.ofNat 32 ((s.chan c).b.sub sub).address) ++ d) ∈
          (t.chan c).b.out ∧
        ((t.chan c).egr.queue q).pkts = rest ∧ ((t.chan c).egr.port p.val).virt = ((s.chan c).egr.sub sub).tag ∧
        ((t.chan c).egr.sub sub).virt = ((s.chan c).egr.queue q).tag ∧
        (rest ≠ [] → ((t.chan c).egr.queue q).tag =
          (((s.chan c).egr.queue q).tag + tagInc len ((s.chan c).b.queue q).weight) % 2 ^ 64) ∧
        (s.chan c).b.counts (t.chan c).b K.packetsSent ∧ (s.chan c).b.counts (t.chan c).b K.bytesSent len)) ∧
    ((s.chan c).portState p.val ≠ 0 ∨ (s.chan c).b.fragmentWaits = true → Runs (.streamPacketSend c p) s (fun t => s.beside c t ∧ (t.chan c).egr = (s.chan c).egr))

/-- A refill tick (R288, R289, R294, R295, R365): every policer and every shaper takes its tick, and the wake pacer, with no wake
waiting, what teardowns return and its effective rate. With a sample of the bus (R363, R364): the mean of the last eight decides the
bus state, and an entry into droop is an event on every channel in C0. DROOP_RECOVER (R364) ends a droop after the frames that it
needs. The uplink ports (R414, R299): a port that takes no word reads backpressured and up again once it does; a home port that has
been up for 0x2400:04 frames takes its subscribers back. -/
def Obligations.BucketsRefill : Prop :=
  (∀ (s : State) (c : Ch),
     ((s.chan c).b.works = true → Runs (.refillTick c none) s (fun t => s.beside c t ∧
       (∀ q ∈ (s.chan c).queuesListed, (t.chan c).egr.queue q =
         ((s.chan c).egr.queue q).tick ((s.chan c).b.queue q).policer (policerOf ((s.chan c).b.bytes (policerKey q)))) ∧
       (∀ i ∈ (s.chan c).subsListed, ((t.chan c).egr.sub i).shaper =
         ((s.chan c).egr.sub i).shaper.tick ((s.chan c).b.sub i).shaped ((s.chan c).b.sub i).rate ((s.chan c).b.sub i).burst) ∧
       (t.chan c).pac.back = 0 ∧
       ((s.chan c).pac.queue = [] → (t.chan c).pac.level = min ((s.chan c).b.num K.wakeDepth * 1000) ((s.chan c).pac.level +
         (s.chan c).pac.back + (s.chan c).b.wakeRateAt (s.sh.num K.busState) (s.sh.num K.droopFraction))))) ∧
     (∀ code : BitVec 12, (s.chan c).b.works = true → s.sh.powered = true → s.seated →
       let f := mean ((s.sh.reading code.toNat :: s.sh.samples).take 8)
       Runs (.refillTick c (some code)) s (fun t => t.leaf.own = s.leaf.own ∧
         t.sh.samples = (s.sh.reading code.toNat :: s.sh.samples).take 8 ∧ t.sh.num K.busState = s.sh.busNext f ∧
         (s.sh.busNext f = busDroop → s.sh.num K.busState ≠ busDroop →
           ∀ d, (s.chan d).inC0 = true → (t.chan d).b.evt.getLsbD irqSupply = true))) ∧
     (s.sh.powered = true → s.sh.num K.busState = busDroop → s.sh.num K.droopRecoverFrames ≤ s.sh.goodFrames →
       Runs .droopRecover s (fun t => t.leaf = s.leaf ∧ t.ch = s.ch ∧ t.sh.num K.busState = busNormal))) ∧
  (∀ (s : State) (c : Ch) (p : Fin 2), (s.chan c).b.works = true →
     ((s.chan c).portState p.val = 0 → Runs (.uplinkBackpressure c p) s (fun t => s.beside c t ∧ (t.chan c).portState p.val = 1 ∧
       (t.chan c).egr = (s.chan c).egr)) ∧
     ((s.chan c).portState p.val = 1 → Runs (.backpressureClear c p) s (fun t => s.beside c t ∧ (t.chan c).portState p.val = 0 ∧
       (t.chan c).egr = (s.chan c).egr)) ∧
     ((s.chan c).portState p.val ≠ 2 → (s.chan c).b.num K.portReturnFrames ≤ ((s.chan c).egr.port p.val).up →
       Runs (.portReturn c p) s (fun t => s.beside c t ∧
         ∀ i ∈ (s.chan c).subsListed, ((s.chan c).b.sub i).port = p.val → ((t.chan c).egr.sub i).moved = false)))

/-- CARAT_BLOCK_SEAL (R320, R323, R331, R334): the next source in turn that is ready, of the 16 output streams and the job queue
after them, has its turn: a stream gives up a block of at most 65,536 raw bytes; one that has ended and is used up goes; outside a
boundary every queue that takes the stream gets one packet for each 8,160 bytes of the hand-off. -/
def Obligations.BlocksAreSealed : Prop :=
  ∀ (s : State) (c : Ch) (i : Nat) (n : NStream) (ns : List NStream), (s.chan c).b.works = true →
    (s.chan c).sealOrder.find? (s.chan c).sealReady = some i →
    (i = 16 → Runs (.caratBlockSeal c) s (fun t => s.beside c t ∧ (t.chan c).car.turn = 0 ∧
      (t.chan c).car.sealedBlocks = (s.chan c).car.sealedBlocks + 1 ∧ (t.chan c).car.streams = (s.chan c).car.streams ∧
      (t.chan c).egr = (s.chan c).egr)) ∧
    (i < 16 → ((s.chan c).car.stream i).streams = n :: ns →
    let raw := n.raw.take 65536
    let blocks := n.blocks + (if raw = [] then 0 else 1)
    let ovr := n.ended && (n.raw.drop 65536).isEmpty
    let d := (if n.headed then [] else streamHeader n.kind n.id) ++ (if raw = [] then [] else (dataBlock raw).1) ++
      (if ovr then endBlock blocks else [])
    Runs (.caratBlockSeal c) s (fun t => s.beside c t ∧ (t.chan c).car.turn = i + 1 ∧
      ((t.chan c).car.stream i).streams =
        (if ovr then ns else { n with raw := n.raw.drop 65536, headed := true, blocks := blocks } :: ns) ∧
      (∀ k, k ≠ i → (t.chan c).car.stream k = (s.chan c).car.stream k) ∧
      (s.chan c).b.counts (t.chan c).b K.rawBytesIn raw.length ∧ (s.chan c).b.counts (t.chan c).b K.caratBytesOut d.length ∧
      ((s.chan c).egr.boundary = false → ∀ q ∈ (s.chan c).queuesListed, ((s.chan c).b.queue q).source = 4 →
        ((s.chan c).b.queue q).selA = i →
        ((t.chan c).egr.queue q).seq = (((s.chan c).egr.queue q).seq + max 1 (pieces 8160 d).length) % 2 ^ 32)))

/-- TRACE_FETCH and TRACE_FETCH_RESPONSE (R329): a fetch begins a stream under the leaf's identifier and reads the leaf's trace buffer
as long as the frame has reads; data move it on, and it ends with an empty answer or a refusal, which is counted.
TRACE_TRIGGER_LEAVES taking effect (R311): a trigger goes to the leaf at every position that the value names. -/
def Obligations.TracesAreFetched : Prop :=
  (∀ (s : State) (c : Ch),
     (∀ (v : BitVec 16) (x : Child), s.passes (.chan c) K.traceFetch (.num v.toNat) = true →
       (s.chan c).leafAt (v.toNat % 256) = some x →
       let i := v.toNat / 256
       let more := decide (((s.chan c).car.stream i).reads < (s.chan c).b.num K.fetchReadsPerFrame)
       Runs (.traceFetch c v) s (fun t => s.beside c t ∧
         ((t.chan c).car.stream i).fetch = some { leaf := x.addr, offset := 0, waiting := more } ∧
         (∃ n, ((t.chan c).car.stream i).streams = ((s.chan c).car.stream i).streams ++ [n] ∧ n.kind = 1 ∧ n.id = x.leafId ∧ n.raw = []) ∧
         (more = true → ∃ m, .msg m ∈ (t.chan c).b.out ∧ m.dst = x.addr ∧ m.opcode = opSegRead))) ∧
     ∀ (i : BitVec 4) (f : Fetch), (s.chan c).b.works = true → ((s.chan c).car.stream i.toNat).fetch = some f → f.waiting = true →
       (∀ (status : Byte) (data : List Byte), status ≠ 0 → Runs (.traceFetchResponse c i status data) s (fun t => s.beside c t ∧
         ((t.chan c).car.stream i.toNat).fetch = none ∧ (s.chan c).b.counts (t.chan c).b K.fetchFailures)) ∧
       Runs (.traceFetchResponse c i 0 []) s (fun t => s.beside c t ∧ ((t.chan c).car.stream i.toNat).fetch = none) ∧
       ∀ data : List Byte, data ≠ [] → (s.chan c).car.staged + data.length ≤ stagingBytes →
         Runs (.traceFetchResponse c i 0 data) s (fun t => s.beside c t ∧ ∃ g, ((t.chan c).car.stream i.toNat).fetch = some g ∧
           g.leaf = f.leaf ∧ g.offset = f.offset + data.length)) ∧
  (∀ (s : State) (c : Ch) (v : Word64), s.passes (.chan c) K.traceTriggerLeaves (.num v.toNat) = true →
     Runs (.traceTriggerLeaves c v) s (fun t => s.beside c t ∧ (t.chan c).b.num K.traceTriggerLeaves = v.toNat ∧
       ∀ (pos : Nat) (x : Child), pos < 48 → v.toNat.testBit pos = true → (s.chan c).leafAt pos = some x →
         ∃ m, .msg m ∈ (t.chan c).b.out ∧ m.dst = x.addr ∧ m.opcode = opWrite ∧ m.items = [leafItem K.traceCommand (.num 2)]))

/-- Jobs (R332, R333, Table 13.7): a job goes to the unit of its kind when that is free, and waits otherwise; a job that has moved all
its bytes leaves its result record, raises the channel's event and frees its unit; JOB_RESULT hands the oldest record out, or
nothing. -/
def Obligations.JobsLeaveResults : Prop :=
  ∀ (s : State) (c : Ch),
    (∀ v : List Byte, s.passes (.chan c) K.jobSubmit (.bytes v) = true →
      ((s.chan c).car.jobs = [] → (s.chan c).car.comp = none → (s.chan c).car.decomp = none →
        Runs (.jobSubmit c v) s (fun t => s.beside c t ∧ (t.chan c).car.jobs = [] ∧
          (if (parseJob v).op ≤ 2 then (t.chan c).car.comp = some (parseJob v) ∧ (t.chan c).car.decomp = none
           else (t.chan c).car.decomp = some (parseJob v) ∧ (t.chan c).car.comp = none))) ∧
      ((s.chan c).car.comp.isSome = true → (s.chan c).car.decomp.isSome = true →
        Runs (.jobSubmit c v) s (fun t => s.beside c t ∧ (t.chan c).car.jobs = (s.chan c).car.jobs ++ [parseJob v] ∧
          (t.chan c).car.comp = (s.chan c).car.comp ∧ (t.chan c).car.decomp = (s.chan c).car.decomp))) ∧
    (∀ (decomp : Bool) (j : Job), (s.chan c).b.works = true → (s.chan c).car.job decomp = some j → (s.chan c).car.jobs = [] →
      let d := (s.chan c).mem.client (jobClient decomp)
      let o := jobOut j ((s.chan c).jobBytes d) false
      d.phase = .write → d.live = 0 → d.writes ≤ d.sent → d.readFault = none → d.writeFault = none → o.result < 0x10 →
      Runs (.jobComplete c decomp) s (fun t => s.beside c t ∧ (t.chan c).car.job decomp = none ∧
        (∃ off, (o.off = none ∨ o.off = some off) ∧ (t.chan c).car.results =
          (if 16 ≤ (s.chan c).car.results.length then (s.chan c).car.results.drop 1 else (s.chan c).car.results) ++
            [natLe 32 (j.tag * 2 ^ 224 + o.result * 2 ^ 216 + j.len * 2 ^ 160 + o.data.length * 2 ^ 128 +
              (o.marks.filter (fun m => decide (m.1 ≤ o.data.length))).length * 2 ^ 96 + off * 2 ^ 64 + (s.chan c).b.now)]) ∧
        ((s.chan c).b.isLeaf = false → (t.chan c).b.evt.getLsbD irqCarat = true))) ∧
    ((s.chan c).b.works = true → Runs (.jobResult c) s (fun t => s.beside c t ∧
      (t.chan c).car.results = (s.chan c).car.results.drop 1 ∧ .data K.jobResult ((s.chan c).car.results.headD []) ∈ (t.chan c).b.out))

/-- MOVER_START, MOVER_STOP and DESCRIPTOR_FETCH (R338, R339, R340, R342, R343): a start turns the mover to the descriptor; a stop lets
a running mover finish and does nothing to another; a descriptor in a window is taken apart as Table 14.2 lays it out; one of length
0 moves nothing, one with a bad range or alignment ends with that status, and a bad descriptor address halts the mover. -/
def Obligations.MoversTakeDescriptors : Prop :=
  ∀ (s : State) (c : Ch) (m : Fin 8),
    (∀ a : Word64, s.passes (.chan c) (K.start + 256 * m.val) (.num a.toNat) = true → Runs (.moverStart c m a) s (fun t => s.beside c t ∧
      (t.chan c).moverState m.val = 1 ∧ (t.chan c).descOf m.val = a.toNat ∧ ((t.chan c).mem.client m.val).phase = .fetch ∧
      (t.chan c).mem.sram = (s.chan c).mem.sram ∧ (t.chan c).mem.dram = (s.chan c).mem.dram)) ∧
    (s.passes (.chan c) (K.stop + 256 * m.val) (.num 1) = true → Runs (.moverStop c m) s (fun t => s.beside c t ∧
      (t.chan c).moverState m.val = (if (s.chan c).moverState m.val = 1 then 2 else (s.chan c).moverState m.val) ∧
      (t.chan c).mem = (s.chan c).mem)) ∧
    ((s.chan c).b.works = true → ((s.chan c).mem.client m.val).phase = .fetch →
      let a := (s.chan c).descOf m.val
      (descAddrOk a = true → spaceOf a ≠ 0 → ((s.chan c).mem.client m.val).readFault = none →
        let n := leNat (winRead ((s.chan c).mem.window (spaceOf a)) (offsetOf a) 32)
        Runs (.descriptorFetch c m) s (fun t => s.beside c t ∧
          (t.chan c).mem.sram = (s.chan c).mem.sram ∧ (t.chan c).mem.dram = (s.chan c).mem.dram ∧
          let d := (t.chan c).mem.client m.val
          d.src = bits n 192 64 ∧ d.dst = bits n 128 64 ∧ d.len = bits n 96 32 ∧ d.control = bits n 64 32 ∧ d.next = bits n 0 64 ∧
          (d.len = 0 → d.phase = .write ∧ d.status = 0 ∧ d.data = []) ∧
          (0 < d.len → d.addressStatus ≠ 1 → d.phase = .write ∧ d.status = d.addressStatus ∧ d.data = []))) ∧
      (descAddrOk a = false → Runs (.descriptorFetch c m) s (fun t => s.beside c t ∧ (t.chan c).moverState m.val = 3 ∧
        (t.chan c).b.num (moverKey K.lastStatus m.val) = 0x81 ∧ (s.chan c).b.counts (t.chan c).b K.moverErrors)))

/-- DESCRIPTOR_DONE (R339 steps 3 and 4, R341): the last descriptor of a list with an incrementing destination in a window, whose bytes
are there. Every byte of the two windows is the byte moved to it, the status written back, or what it was; the mover is idle, its
counters advance, and bit 2 of the control word raises the channel's event. MMP_RESPONSE to a mover's descriptor read (R425): the
mover gets the 32 bytes of its lanes, or a read fault, and the windows stay as they were. -/
def Obligations.DescriptorsComplete : Prop :=
  (∀ (s : State) (c : Ch) (m : Fin 8), (s.chan c).b.works = true →
     let d := (s.chan c).mem.client m.val
     let a := (s.chan c).descOf m.val
     d.phase = .write → d.live = 0 → d.status = 0 → d.writeFault = none → bit d.control 1 = false → bit d.control 3 = true →
     (spaceOf d.dst = 1 ∨ spaceOf d.dst = 2) → (spaceOf a = 1 ∨ spaceOf a = 2) →
     Runs (.descriptorDone c m) s (fun t => s.beside c t ∧ (t.chan c).moverState m.val = 0 ∧ (t.chan c).mem.client m.val = Dma.idle ∧
       (s.chan c).b.counts (t.chan c).b (moverKey K.descriptorsDone m.val) ∧
       (s.chan c).b.counts (t.chan c).b (moverKey K.bytesMoved m.val) d.len ∧
       (bit d.control 2 = true → (s.chan c).b.isLeaf = false → (t.chan c).b.evt.getLsbD irqMover = true) ∧
       ∀ (space k : Nat), space = 1 ∨ space = 2 → winByte ((t.chan c).mem.window space) k =
         (if space = spaceOf a ∧ offsetOf a + 8 ≤ k ∧ k < offsetOf a + 12 then
           (natLe 4 (d.control % 2 ^ 24 + 2 ^ 24)).getD (k - (offsetOf a + 8)) 0
         else if space = spaceOf d.dst ∧ offsetOf d.dst ≤ k ∧ k < offsetOf d.dst + d.data.length then d.data.getD (k - offsetOf d.dst) 0
         else winByte ((s.chan c).mem.window space) k))) ∧
  (∀ (s : State) (tag : Byte), (s.chan (tagChan tag)).b.works = true →
     let c := tagChan tag
     let n := tag.toNat % 64
     ∀ r : MReq, mfind (s.chan c).mem.reqs n = some r → r.dead = false → r.kind = 0 → r.client < 8 →
       ((s.chan c).mem.client r.client).phase = .fetch → ∀ data : BitVec 512,
       Runs (.mmpResponse tag false data) s (fun t => s.beside c t ∧
         ((t.chan c).mem.client r.client).got =
           gotBytes [] 0 (lineBytes data.toNat (offsetOf ((s.chan c).descOf r.client) % 64) 32) ∧
         (t.chan c).mem.sram = (s.chan c).mem.sram ∧ (t.chan c).mem.dram = (s.chan c).mem.dram) ∧
       Runs (.mmpResponse tag true data) s (fun t => s.beside c t ∧ ((t.chan c).mem.client r.client).readFault = some 0))

/-- Requests without an answer (R427). MMP_TIMEOUT of an outstanding request is a memory fault of the client that made it, and is
counted; the tag stays taken, by a request that awaits nothing, until a response with the tag arrives or the channel resets. That
response, and one whose tag is not outstanding, is discarded and counted. -/
def Obligations.UnansweredRequestsAreFaults : Prop :=
  ∀ (s : State) (tag : Byte),
    let c := tagChan tag
    let n := tag.toNat % 64
    (∀ r : MReq, (s.chan c).b.works = true → mfind (s.chan c).mem.reqs n = some r → r.dead = false →
      Runs (.mmpTimeout tag) s (fun t => s.beside c t ∧ (s.chan c).b.counts (t.chan c).b K.mmpTimeouts ∧
        mfind (t.chan c).mem.reqs n = some { r with dead := true } ∧
        (r.kind ≤ 1 → ((t.chan c).mem.client r.client).readFault.isSome = true) ∧
        (r.kind = 2 → ((t.chan c).mem.client r.client).writeFault.isSome = true) ∧
        (r.kind = 3 → r.client < 8 → (t.chan c).moverState r.client = 3 ∧
          (t.chan c).b.num (moverKey K.lastStatus r.client) = 0x82))) ∧
    (∀ (r : MReq) (err : Bool) (data : BitVec 512), (s.chan c).b.works = true → mfind (s.chan c).mem.reqs n = some r → r.dead = true →
      Runs (.mmpResponse tag err data) s (fun t => s.beside c t ∧ (s.chan c).b.counts (t.chan c).b K.mmpLateResponses ∧
        (t.chan c).mem.sram = (s.chan c).mem.sram ∧ (t.chan c).mem.dram = (s.chan c).mem.dram ∧
        ∀ q, mfind (t.chan c).mem.reqs n = some q → q.dead = false)) ∧
    (∀ (err : Bool) (data : BitVec 512), (s.chan c).b.works = true → mfind (s.chan c).mem.reqs n = none →
      Runs (.mmpResponse tag err data) s (fun t => s.beside c t ∧ (s.chan c).b.counts (t.chan c).b K.mmpLateResponses ∧
        (t.chan c).mem = (s.chan c).mem)) ∧
    ((s.chan c).retains = true → Runs (.channelResetRequest c) s (fun t => mfind (t.chan c).mem.reqs n = none))

/-! ### Fault history, resets and power -/

/-- The fault history store (R353 to R357): FAULT_LOG_WRITE writes the oldest entry that waits; PERMANENT_FENCE_COMMIT commits
core_control of the next core with its routing bitmap; CLEAR_LOCATION makes a permanent location transient and logs it;
STARTUP_FAILURES enters a failure as an event that makes a known location permanent; FIRMWARE_LOG_WRITE queues its entry for flash. -/
def Obligations.FaultsAreKept : Prop :=
  ∀ (s : State) (c : Ch), (s.chan c).faultIn = [] →
    (∀ (stamp : BitVec 96) (d : List Byte) (perm : Bool) (type : Nat) (rest : List (List Byte × Bool × Nat)),
      (s.chan c).b.works = true → (s.chan c).hist.waits = (d, perm, type) :: rest → (s.chan c).hist.log.length < 524288 →
      Runs (.faultLogWrite c stamp) s (fun t => s.beside c t ∧ (t.chan c).hist.waits = rest ∧
        (t.chan c).hist.log = (s.chan c).hist.log ++ [logEntry (s.chan c).hist.seq stamp.toNat d perm type] ∧
        (t.chan c).hist.seq = ((s.chan c).hist.seq + 1) % 2 ^ 32)) ∧
    (∀ (leaf core : Nat) (rest : List (Nat × Nat)), (s.chan c).b.works = true → (s.chan c).hist.fences = (leaf, core) :: rest →
      Runs (.permanentFenceCommit c) s (fun t => s.beside c t ∧ (t.chan c).hist.fences = rest ∧
        (∃ m, .msg m ∈ (t.chan c).b.out ∧ m.dst = BitVec.ofNat 32 leaf ∧ m.opcode = opTxnOpen) ∧
        ∃ r ∈ (t.chan c).rem, r.dst = BitVec.ofNat 32 leaf ∧ r.apply = (s.chan c).b.now + 1 ∧
          r.writes = [(coreKey core, .num 7), (K.routingNotify, .bytes (coreBitmap [core]))])) ∧
    (∀ (v : Word64) (e : FLoc), s.passes (.chan c) K.clearLocation (.num v.toNat) = true →
      mfind (s.chan c).hist.locs (v.toNat % 2 ^ 52) = some e → e.perm = true → (s.chan c).hist.waits.length < 4096 →
      Runs (.clearLocation c v) s (fun t => s.beside c t ∧
        mfind (t.chan c).hist.locs (v.toNat % 2 ^ 52) = some { e with perm := false } ∧
        (t.chan c).hist.waits = (s.chan c).hist.waits ++ [(e.record, false, 4)])) ∧
    (∀ v : List Byte, s.passes (.chan c) K.startupFailures (.bytes v) = true → v.length = 8 → (s.chan c).b.now < 2 ^ 64 →
      let loc := leNat v % 2 ^ 52
      Runs (.startupFailures c v) s (fun t => s.beside c t ∧ (s.chan c).b.counts (t.chan c).b K.fltRecordsTaken ∧
        (∀ e, mfind (s.chan c).hist.locs loc = some e → e.perm = false → (s.chan c).hist.permanent < 16384 →
          ∃ e1, mfind (t.chan c).hist.locs loc = some e1 ∧ e1.perm = true ∧ e1.before = e.latest) ∧
        (mfind (s.chan c).hist.locs loc = none → (s.chan c).hist.locs.length < 65536 →
          ∃ e1, mfind (t.chan c).hist.locs loc = some e1 ∧ e1.perm = false ∧ e1.events = 1 ∧ e1.latest = (s.chan c).b.now))) ∧
    ∀ v : List Byte, s.passes (.chan c) K.firmwareLogWrite (.bytes v) = true → Runs (.firmwareLogWrite c v) s (fun t =>
      s.beside c t ∧ .firmware v ∈ (t.chan c).b.jobs)

/-- FLASH_OPERATION_DONE (R74, R349, R357): the last store of a WRITE sends its response, with STORE_FAULT on the item whose store
failed; a record of the channel's own object is then in its flash; an entry of the firmware log is written. -/
def Obligations.StoresEnd : Prop :=
  ∀ (s : State),
    (∀ (n : Node) (src seq : Word) (place key : Nat) (v : Val) (rest : List FlashJob) (e : Exec),
      (match n with | .leaf => s.leaf.b.live = true | .chan _ => True) →
      (s.blk n).jobs = .item src seq place key v :: rest → (s.blk n).execs = [e] → e.src = src → e.seq = seq → e.waiting = 1 → e.fails = [] →
      Runs (.flashOperationDone n true) s (fun t => .resp e.way { e.resp with status := BitVec.ofNat 8 (headStatus e.resp.items) } ∈ (t.blk n).out ∧
        ∀ c, n = .chan c → s.sh.currents = [] → ∃ r ∈ (t.chan c).flash, r.node = (s.chan c).b.addr ∧ r.key = key ∧ r.v = v ∧ r.pend = none) ∧
      let items := modifyAt place (fun i => itemSt i stStore) e.resp.items
      Runs (.flashOperationDone n false) s (fun t =>
        .resp e.way { e.resp with items := items, status := BitVec.ofNat 8 (headStatus items) } ∈ (t.blk n).out)) ∧
    ∀ (c : Ch) (v : List Byte) (rest : List FlashJob), (s.chan c).b.jobs = .firmware v :: rest →
      Runs (.flashOperationDone (.chan c) true) s (fun t => s.beside c t ∧
        (t.chan c).hist.fw = ringPut 262144 (s.chan c).hist.fw (firmwareEntry (s.chan c).hist.fwSeq v) ∧
        (t.chan c).hist.fwSeq = ((s.chan c).hist.fwSeq + 1) % 2 ^ 32) ∧
      Runs (.flashOperationDone (.chan c) false) s (fun t => s.beside c t ∧ (t.chan c).hist.fw = (s.chan c).hist.fw ∧
        ((s.chan c).b.isLeaf = false → (s.chan c).b.counts (t.chan c).b K.flashWriteFailures))

/-- A channel reset and an uncorrectable error act on their channel alone (R29, R345, R347, R377, Table 15.7): the other channels and
the leaf stand as they were; what is not class V is kept, and with it flash, the mover windows and the committed transactions. The
address of the failing word is kept too, and its record is owed. A leaf reset (R345, R377, Table 15.8) keeps the objects of Table
18.5 and the repair list, and no transaction; the tray build stands as it was, but for copies in flash. An uncorrectable error keeps its address and owes its
record. -/
def Obligations.ResetsKeepWhatTheyMust : Prop :=
  (∀ (s : State) (c : Ch),
     let alone := fun (t : State) => t.leaf = s.leaf ∧ ∀ d, d ≠ c → t.chan d = s.chan d
     let kept := fun (t : State) => (t.chan c).b.phase = .fast ∧ (t.chan c).b.num K.lastResetKind = 2 ∧
       (t.chan c).flash = (s.chan c).flash ∧ (t.chan c).mem.sram = (s.chan c).mem.sram ∧ (t.chan c).mem.dram = (s.chan c).mem.dram ∧
       (t.chan c).b.txns = (s.chan c).b.txns.filter (fun x => x.state == .committed) ∧
       ∀ key, key ≠ K.lastResetKind → key ≠ K.lastUncorrectable → (t.chan c).b.val key =
         if chanKeeps key then (s.chan c).b.val key else dflt (s.chan c).b.isLeaf key
     ((s.chan c).retains = true → Runs (.channelResetRequest c) s (fun t => alone t ∧ kept t ∧
       ((s.chan c).b.isLeaf = false → (t.chan c).b.num K.lastUncorrectable = (s.chan c).b.num K.lastUncorrectable))) ∧
     (∀ (array : BitVec 10) (row : BitVec 11), (s.chan c).b.phase = .run →
       let place := array.toNat * 2048 + row.toNat
       Runs (.sramUncorrectable (.chan c) array row) s (fun t => alone t ∧ kept t ∧
         (0x11, 4, place, (s.chan c).b.now, 0) ∈ (t.chan c).start.owed ∧
         ((s.chan c).b.isLeaf = false → (t.chan c).b.num K.lastUncorrectable = 4 * 2 ^ 48 + (s.chan c).id * 2 ^ 32 + place))) ∧
     ∀ seg : BitVec 15, (s.chan c).b.phase = .run → Runs (.dramUncorrectable c seg) s (fun t => alone t ∧ kept t ∧
       (0x13, 6, seg.toNat, (s.chan c).b.now, 0) ∈ (t.chan c).start.owed ∧
       ((s.chan c).b.isLeaf = false → (t.chan c).b.num K.lastUncorrectable = 6 * 2 ^ 48 + (s.chan c).id * 2 ^ 32 + seg.toNat))) ∧
  (∀ s : State, s.leaf.b.live = true →
     let kept := fun (t : State) => s.besideLeaf t ∧ t.leaf.b.phase = .fast ∧ t.leaf.b.num K.lastResetKind = 3 ∧ t.leaf.b.txns = [] ∧
       t.leaf.tr.ring = s.leaf.tr.ring ∧ t.leaf.ts.table = s.leaf.ts.table ∧
       ∀ key, key ≠ K.lastResetKind → key ≠ K.lastUncorrectable → t.leaf.b.val key =
         if leafKeeps key then s.leaf.b.val key else dflt s.leaf.b.isLeaf key
     Runs .leafResetRequest s (fun t => kept t ∧ t.leaf.b.num K.lastUncorrectable = s.leaf.b.num K.lastUncorrectable) ∧
     ∀ (array : BitVec 10) (row : BitVec 11), Runs (.sramUncorrectable .leaf array row) s (fun t => kept t ∧
       (0x11, array.toNat * 2048 + row.toNat, s.leaf.b.now) ∈ t.leaf.owed ∧
       t.leaf.b.num K.lastUncorrectable = 5 * 2 ^ 48 + s.leaf.id * 2 ^ 30 + (array.toNat * 2048 + row.toNat)))

/-- A warm reset (R377, R399, R424): through the holder of the clasp, or by a pulse of 100 ns and more outside every cold start, each
channel with memory to retain takes the fast path and its identifier from the tray number; the others and the leaf stand as they
were, and the clasp has no holder. Through another channel it is refused with NOT_CLASP_HOLDER; a shorter pulse does nothing. The
release of the input ends its hold. FAST_PATH_DONE (R383, R384): without its reference a block has lost its time, and waits for its
servo; with it the first frame opens at once, at an instant that local time has not passed. An uncorrectable word that the scrub finds starts a cold start that keeps the word's
address. -/
def Obligations.WarmResets : Prop :=
  (∀ (s : State),
     let warm := fun (t : State) => t.leaf = s.leaf ∧ t.sh.holder = 0xFF ∧ t.sh.claims = none ∧ t.sh.epoch = 0 ∧
       ∀ d, ((s.chan d).retains = false → t.chan d = s.chan d) ∧
         ((s.chan d).retains = true → (t.chan d).b.phase = .fast ∧ (t.chan d).b.num K.lastResetKind = 1 ∧
           ((s.chan d).b.isLeaf = false → (t.chan d).b.num K.channelId = (s.chan d).b.num K.trayNumber % 2048 * 4 + (s.chan d).b.place))
     (∀ c, s.warmDue c = true → Runs (.warmResetRequest c) s warm) ∧
     (∀ c, s.warmDue c = false → (s.chan c).b.live = true → Runs (.warmResetRequest c) s (fun t => s.beside c t ∧
       (t.chan c).own = (s.chan c).own ∧ .act K.resetRequest stNotClasp ∈ (t.chan c).b.out)) ∧
     (∀ ns : Word, 100 ≤ ns.toNat → s.sh.powered = true → s.starting = false →
       Runs (.warmResetInput ns) s (fun t => warm t ∧ t.sh.warmHeld = true)) ∧
     (∀ ns : Word, ns.toNat < 100 → Runs (.warmResetInput ns) s (fun t => t = s)) ∧
     Runs .warmResetInputRelease s (fun t => t.leaf = s.leaf ∧ t.ch = s.ch ∧ t.sh.warmHeld = false)) ∧
  (∀ (s : State) (k : Word64) (ms : Word), s.seated →
     (s.leaf.b.phase = .fast → s.leaf.handed = true →
       Runs (.fastPathDone .leaf none false k ms) s (fun t => s.besideLeaf t ∧ t.leaf.b.phase = .run ∧ t.leaf.b.num K.bringupState = 5 ∧
         t.leaf.b.timeA = 0 ∧ t.leaf.b.timeB = 0 ∧ t.leaf.b.needLock = true ∧ t.leaf.b.num K.readyMs = ms.toNat ∧
         s.leaf.b.counts t.leaf.b K.fastPathCount) ∧
       (s.leaf.b.frameIsOpen = false → (∀ n, s.leaf.b.lastOpen = some n → n < k.toNat) →
         s.leaf.b.frameTime ≤ k.toNat * s.leaf.b.periodNs → (s.leaf.b.passed = none ∨ 0 < k.toNat) →
         Runs (.fastPathDone .leaf none true k ms) s (fun t => t.leaf.b.lastOpen = some k.toNat ∨ t.leaf.b.lastOpen = none)) ∧
       ∀ w : BitVec 52, Runs (.fastPathDone .leaf (some w) true k ms) s (fun t => s.besideLeaf t ∧ t.leaf.b.phase = .cold ∧
         t.leaf.b.num K.bringupState = 2 ∧ t.leaf.b.num K.lastUncorrectable = w.toNat)) ∧
     ∀ c : Ch, (s.chan c).b.phase = .fast → CS.held { ch := s.chan c, sh := s.sh } = false →
       Runs (.fastPathDone (.chan c) none false k ms) s (fun t => s.beside c t ∧ (t.chan c).b.phase = .run ∧
         (t.chan c).b.num K.bringupState = 5 ∧ (t.chan c).b.timeA = 0 ∧ (t.chan c).b.timeB = 0 ∧ (t.chan c).b.needLock = true ∧
         (t.chan c).b.num K.readyMs = ms.toNat ∧ (s.chan c).b.counts (t.chan c).b K.fastPathCount) ∧
       ((s.chan c).b.frameIsOpen = false → (∀ n, (s.chan c).b.lastOpen = some n → n < k.toNat) →
         (s.chan c).b.frameTime ≤ k.toNat * (s.chan c).b.periodNs → ((s.chan c).b.passed = none ∨ 0 < k.toNat) →
         Runs (.fastPathDone (.chan c) none true k ms) s (fun t =>
           (t.chan c).b.lastOpen = some k.toNat ∨ (t.chan c).b.lastOpen = none)) ∧
       ∀ w : BitVec 52, Runs (.fastPathDone (.chan c) (some w) true k ms) s (fun t => s.beside c t ∧ (t.chan c).b.phase = .cold ∧
         (t.chan c).b.num K.bringupState = 2 ∧ (t.chan c).b.num K.lastUncorrectable = w.toNat))

/-- The phases of a cold start (R378, R379, R407, R417, Table 16.2): each command moves a block that is in the phase before it; a block
without spares or without readable flash fails with its cause, and a channel then raises its error interrupt. A stored object returns
unless its record fails its check (R10, R349). Flash keeps its current records while the power is off. -/
def Obligations.ColdStartsAdvance : Prop :=
  ∀ (s : State),
    (s.sh.powered = false → Runs .powerOnReset s (fun t => t.leaf = s.leaf ∧ t.sh.powered = true ∧
      ∀ d, (t.chan d).b.phase = .cold ∧ (t.chan d).b.num K.bringupState = 1 ∧ (t.chan d).currentRecs = (s.chan d).currentRecs)) ∧
    Runs .powerOnResetAssert s (fun t => t.leaf = s.leaf ∧ t.sh.powered = false ∧
      ∀ d, (t.chan d).b.phase = .asserted ∧ (t.chan d).currentRecs = (s.chan d).currentRecs ∧ (t.chan d).b.journal = []) ∧
    (s.leaf.b.phase = .asserted ∨ s.leaf.b.phase = .off → Runs .leafPowerOn s (fun t => s.besideLeaf t ∧ t.leaf.b.phase = .cold ∧
      t.leaf.b.num K.bringupState = 2 ∧ .credit 256 ∈ t.leaf.b.out)) ∧
    Runs .alwaysOnResetAssert s (fun t => s.besideLeaf t ∧ t.leaf.b.phase = .asserted ∧ t.leaf.b.store = [] ∧ t.leaf.b.journal = []) ∧
    (∀ rows segs, s.leaf.b.phase = .cold → s.leaf.b.num K.bringupState = 2 → s.leaf.handed = true → Runs (.selftestDone .leaf rows segs) s (fun t =>
      s.besideLeaf t ∧ (if (s.leaf.b.selftest rows []).2 then t.leaf.b.phase = .failed ∧ t.leaf.b.num K.bringupState = 0x0F ∧
          t.leaf.b.num K.bringupFailure = 1
        else t.leaf.b.num K.bringupState = 5 ∧
          t.leaf.b.bytes K.repairList = (s.leaf.b.selftest rows []).1.bytes K.repairList))) ∧
    ∀ c : Ch, (s.chan c).b.phase = .cold →
      ((s.chan c).b.num K.bringupState = 1 → Runs (.pllLock c) s (fun t => s.beside c t ∧ (t.chan c).b.num K.bringupState = 2)) ∧
      (∀ rows segs, (s.chan c).b.num K.bringupState = 2 → Runs (.selftestDone (.chan c) rows segs) s (fun t => s.beside c t ∧
        (if ((s.chan c).b.selftest rows segs).2 then (t.chan c).b.phase = .failed ∧ (t.chan c).b.num K.bringupState = 0x0F ∧
            (t.chan c).b.num K.bringupFailure = 1 ∧ ((s.chan c).b.isLeaf = false → (t.chan c).b.err.getLsbD irqFault = true)
          else (t.chan c).b.num K.bringupState = 3 ∧
            (t.chan c).b.bytes K.repairList = ((s.chan c).b.selftest rows segs).1.bytes K.repairList))) ∧
      ((s.chan c).b.num K.bringupState = 3 →
        (∀ bad, Runs (.restoreDone c ⟨false, bad⟩) s (fun t => (t.chan c).b.phase = .failed ∧ (t.chan c).b.num K.bringupFailure = 3)) ∧
        ∀ v : Nat, (s.chan c).flash = [{ node := (s.chan c).b.addr, key := K.podNumber, v := .num v, pend := none, dead := false }] →
          bits (s.chan c).b.addr.toNat 28 4 = 1 → (s.chan c).hist.log = [] → (s.chan c).b.bytes K.activeImage = [] →
          (s.chan c).b.bytes K.rulActiveImage = [] → (s.chan c).start.judged = [] →
          ∀ bad : List Nat, Runs (.restoreDone c ⟨true, bad⟩) s (fun t =>
            (t.chan c).b.num K.podNumber = (if 0 ∈ bad then (s.chan c).b.num K.podNumber else v) ∧ (t.chan c).start.restored = true ∧
            (t.chan c).b.num K.bringupState = (if (s.chan c).portsOk then 5 else 4)))

/-- Fabric ports (R380, R382, R412): a link that comes up is qualified, and in service when every lane counts 6 errors or fewer; one
that goes down takes its port out of service, an uplink port reports down. A leaf's mesh link that goes down in a frame aborts it. -/
def Obligations.PortsAreQualified : Prop :=
  ∀ (s : State),
    (∀ (c : Ch) (p : Fin 4), (s.chan c).b.works = true →
      (bit ((s.chan c).b.num K.portsQualified) p.val = false → Runs (.phyLinkUp c p) s (fun t => s.beside c t ∧
        p.val ∈ (t.chan c).start.qualifying)) ∧
      (∀ lanes : List Word, p.val ∈ (s.chan c).start.qualifying → lanes.length = (s.chan c).start.lanes →
        Runs (.linkQualifyDone c p lanes) s (fun t => s.beside c t ∧ p.val ∉ (t.chan c).start.qualifying ∧
          (lanes.all (fun e => decide (e.toNat ≤ 6)) = true → bit ((t.chan c).b.num K.portsQualified) p.val = true) ∧
          (lanes.all (fun e => decide (e.toNat ≤ 6)) = false →
            (t.chan c).b.num K.portsQualified = (s.chan c).b.num K.portsQualified) ∧
          ((s.chan c).b.phase = .run → (s.chan c).b.counts (t.chan c).b K.requalifications))) ∧
      Runs (.phyLinkDown c p) s (fun t => s.beside c t ∧ bit ((t.chan c).b.num K.portsQualified) p.val = false ∧
        p.val ∉ (t.chan c).start.qualifying ∧ (2 ≤ p.val → (t.chan c).portState (p.val - 2) = 2) ∧
        (s.chan c).b.counts (t.chan c).b K.framesAborted)) ∧
    (s.leaf.b.works = true → s.leaf.handed = true →
      Runs (.mlpLinkDown true) s (fun t => s.besideLeaf t ∧ s.leaf.b.counts t.leaf.b K.framesAborted) ∧
      Runs (.mlpLinkDown false) s (fun t => t = s))

/-- The power states (R371 to R373, Tables 15.5 to 15.8), each by a write of power_state that its checks accept. A leaf: L1, L2 without
what its sampler held, L0 with a heartbeat and a count of silent frames at 0 after L2, and L3 without anything. A channel: C2 keeps
its journal and its committed transactions, C3 only what flash holds; nothing moves beside it but the clasp, which a holder releases (R29,
R404). CHANNEL_WAKE ends C2, or starts a channel in C3 cold. -/
def Obligations.PowerStatesChange : Prop :=
  ∀ (s : State),
    (∀ t96 : BitVec 96, s.leaf.handed = true →
      (s.passes .leaf K.powerState (.num 1) = true → Runs (.enterL1 t96) s (fun t => s.besideLeaf t ∧ t.leaf.b.num K.powerStateNow = 1 ∧
        t.leaf.smp = s.leaf.smp)) ∧
      (s.passes .leaf K.powerState (.num 2) = true → Runs (.enterL2 t96) s (fun t => s.besideLeaf t ∧ t.leaf.b.num K.powerStateNow = 2 ∧
        t.leaf.b.num K.powerState = 2 ∧ t.leaf.smp = Sampler.reset)) ∧
      (s.passes .leaf K.powerState (.num 0) = true → Runs (.enterL0 t96) s (fun t => s.besideLeaf t ∧ t.leaf.b.num K.powerStateNow = 0 ∧
        (2 ≤ s.leaf.b.num K.powerStateNow → t.leaf.heartbeat = true ∧ t.leaf.b.link.silent = 0)))) ∧
    (s.passes .leaf K.powerState (.num 3) = true → Runs .enterL3 s (fun t => s.besideLeaf t ∧ t.leaf.b.phase = .off ∧
      t.leaf.b.journal = [] ∧ t.leaf.b.txns = [] ∧ t.leaf.tr.ring = [])) ∧
    ∀ c : Ch,
      let alone := fun (t : State) => t.leaf = s.leaf ∧ (∀ d, d ≠ c → t.chan d = s.chan d) ∧
        (s.sh.powered = true → s.sh.holder = c.val → t.sh.holder = 0xFF)
      (s.passes (.chan c) K.powerState (.num 2) = true → Runs (.enterC2 c) s (fun t => alone t ∧ (t.chan c).b.phase = .retained ∧
        (t.chan c).b.num K.powerStateNow = 2 ∧ (t.chan c).b.frameIsOpen = false ∧ (t.chan c).b.journal = (s.chan c).b.journal ∧
        (t.chan c).b.txns = (s.chan c).b.txns.filter (fun x => x.state == .committed) ∧
        (s.chan c).b.counts (t.chan c).b K.powerEntries)) ∧
      (s.passes (.chan c) K.powerState (.num 3) = true → Runs (.enterC3 c) s (fun t => alone t ∧ (t.chan c).b.phase = .off ∧
        (t.chan c).b.journal = [] ∧ (t.chan c).b.txns = [] ∧ (t.chan c).currentRecs = (s.chan c).currentRecs ∧
        (t.chan c).hist.log = (s.chan c).hist.log)) ∧
      (s.passes (.chan c) K.channelWake (.num 1) = true → Runs (.channelWake c) s (fun t => s.beside c t ∧
        ((s.chan c).b.phase = .retained → (t.chan c).b.phase = .run ∧ (t.chan c).b.num K.powerStateNow = 0 ∧
          (t.chan c).b.journal = (s.chan c).b.journal) ∧
        ((s.chan c).b.phase = .off → (t.chan c).b.phase = .cold ∧ (t.chan c).b.num K.bringupState = 1)))

/-- The wake pacer (R366, R368). WAKE_REQUEST enters every region that it names of the leaf at every position that it names, when that
region is off; the entries before stay as they were. WAKE_TXN_COMMIT opens a transaction on the leaf of a region granted in a frame
before, which writes region_control with off cleared and applies in the next frame. The core voltage (R360): a change of a channel's
need rounds it up to 10 mV with a guard of 20 mV, and raises the core target at once to what the channels in C0 need;
CORE_TARGET_STEP lowers the target by at most 10 mV towards it; a measured voltage more than 15 mV below a channel's need is counted
there and raises its error interrupt. -/
def Obligations.WakesArePaced : Prop :=
  (∀ (s : State) (c : Ch),
     (∀ v : List Byte, s.passes (.chan c) K.wakeRequest (.bytes v) = true → Runs (.wakeRequest c v) s (fun t => s.beside c t ∧
       (∃ more, (t.chan c).pac.queue = (s.chan c).pac.queue ++ more ∧ ∀ q ∈ more, q.notBefore = leAt v 8 8 ∧ q.rule = none) ∧
       (t.chan c).b.num K.wakeQueued = (t.chan c).pac.queue.length ∧
       ∀ (p r : Nat) (x : Child), p < 48 → r < 32 → leAt v 1 1 = 0xFF ∨ leAt v 1 1 = p → (s.chan c).leafAt p = some x →
         leAt v 0 1 = r ∨ (leAt v 0 1 = 0xFF ∧ r ∈ regionsOf ((s.chan c).leafMap x.addr)) →
         bit ((s.chan c).regionNow x.addr r) 3 = true → ∃ q ∈ (t.chan c).pac.queue, q.pos = p ∧ q.region = r)) ∧
     ∀ (g p r : Nat) (x : Child), (s.chan c).b.works = true → (s.chan c).pac.grants = [(g, p, r)] → g < (s.chan c).b.now →
       (s.chan c).pac.retry = [] → (s.chan c).leafAt p = some x → Runs (.wakeTxnCommit c) s (fun t => s.beside c t ∧
         (t.chan c).pac.grants = [] ∧ (∃ m, .msg m ∈ (t.chan c).b.out ∧ m.dst = x.addr ∧ m.opcode = opTxnOpen) ∧
         ∃ q ∈ (t.chan c).rem, q.dst = x.addr ∧ q.apply = (s.chan c).b.now + 1 ∧ q.writes = (s.chan c).wakeWrites x.addr [r] ∧
           (regionKey r, .num ((s.chan c).regionNow x.addr r % 8)) ∈ q.writes)) ∧
  (∀ (s : State),
     (s.sh.powered = true →
       (s.sh.wanted s.needs < s.sh.num K.coreTargetMv → Runs .coreTargetStep s (fun t => t.leaf = s.leaf ∧ t.ch = s.ch ∧
         t.sh.num K.coreTargetMv = max (s.sh.wanted s.needs) (s.sh.num K.coreTargetMv - 10) ∧
         t.sh.changes = (s.sh.changes + 1) % 65536)) ∧
       (s.sh.num K.coreTargetMv ≤ s.sh.wanted s.needs → Runs .coreTargetStep s (fun t => t = s))) ∧
     ∀ (c : Ch) (mv : BitVec 16), (s.chan c).b.works = true → s.sh.powered = true → (s.chan c).b.isLeaf = false →
       Runs (.marginEvent c mv) s (fun t => t.leaf.own = s.leaf.own ∧ (∀ d, d ≠ c → (t.chan d).apart = (s.chan d).apart) ∧
         t.sh.num K.coreMeasuredMv = mv.toNat ∧
         (mv.toNat + 15 < (s.chan c).b.num K.channelNeedMv → (s.chan c).b.counts (t.chan c).b K.marginEvents ∧
           (t.chan c).b.err.getLsbD irqSupply = true) ∧
         ((s.chan c).b.num K.channelNeedMv ≤ mv.toNat + 15 → (t.chan c).own = (s.chan c).own)) ∧
       Runs (.channelNeedChange c mv) s (fun t => s.beside c t ∧
         (t.chan c).b.num K.channelNeedMv = min 850 (max 650 ((mv.toNat + 9) / 10 * 10 + 20)) ∧
         t.sh.num K.coreTargetMv = max (s.sh.num K.coreTargetMv) (s.sh.wanted t.needs)))

/-! ### Membership, the clasp and the ports -/

/-- Joins (R386, R387, R389, R392). An attach at a home position of a leaf that is not known starts a join, which reads the leaf's
objects; one at a position above 23, or with a frame more than one off, is refused, counted, and not heard again before its time.
JOIN_RETRY_EXPIRE ends that time, ROLE_SUCCESSOR_TIMEOUT the wait for a successor after 16 frames. JOIN_ASSIGN gives the leaf its
identifier and its home channel; REPAIR_ADD maps a row onto the lowest free spare of its array. -/
def Obligations.LeavesJoin : Prop :=
  ∀ (s : State),
    (∀ (c : Ch) (src : Word) (port : Bool) (pos : BitVec 5) (frame : Word64) (left : BitVec 16), (s.chan c).b.works = true →
      (s.chan c).member = true → (s.chan c).roleAsk = none → pos.toNat ≠ 31 →
      (s.chan c).tree.child ((s.chan c).leafAddr pos.toNat) = none → (s.chan c).joins = [] →
      (s.chan c).ignores ((s.chan c).leafAddr pos.toNat) = false →
      let a := (s.chan c).leafAddr pos.toNat
      let near := (s.chan c).b.now ≤ frame.toNat + 1 ∧ frame.toNat ≤ (s.chan c).b.now + 1
      (pos.toNat < 24 → near → Runs (.attachReceive c ⟨src, port⟩ pos frame left) s (fun t => s.beside c t ∧
        (∃ m, .msg m ∈ (t.chan c).b.out ∧ m.dst = a ∧ m.opcode = opRead) ∧
        ∃ j ∈ (t.chan c).joins, j.dst = a ∧ j.pos = pos.toNat ∧ j.frame = (s.chan c).b.now ∧ j.done = false)) ∧
      (24 ≤ pos.toNat ∨ ¬ near → Runs (.attachReceive c ⟨src, port⟩ pos frame left) s (fun t => s.beside c t ∧
        (s.chan c).b.counts (t.chan c).b K.joinRefusals ∧ (t.chan c).joins = [] ∧
        (t.chan c).b.num K.lastJoinRefusal = (if 24 ≤ pos.toNat then stRange else stWrong) * 2 ^ 56 + a.toNat ∧
        (a, pos.toNat, (s.chan c).b.now + (s.chan c).b.num K.joinRetryFrames) ∈ (t.chan c).tree.refused))) ∧
    (∀ (c : Ch) (pos : BitVec 5), (s.chan c).b.works = true → Runs (.joinRetryExpire c pos) s (fun t => s.beside c t ∧
      (t.chan c).tree = { (s.chan c).tree with refused := (s.chan c).tree.refused.filter (fun r => r.2.1 != pos.toNat) })) ∧
    (∀ (c : Ch) (f : Nat), (s.chan c).b.works = true → (s.chan c).roleAsk = some f → f + 16 ≤ (s.chan c).b.now →
      Runs (.roleSuccessorTimeout c) s (fun t => s.beside c t ∧ (t.chan c).roleAsk = none ∧
        (t.chan c).b.num K.treeRole = (s.chan c).b.num K.treeRole)) ∧
    (∀ v : Word, s.leaf.handed = true → s.leaf.passes (chanAddr (v.toNat / 32)) K.joinAssign (.num v.toNat) = true →
      Runs (.joinAssign v) s (fun t => s.besideLeaf t ∧ t.leaf.b.num K.leafId = v.toNat ∧ t.leaf.b.num K.parentActive = v.toNat / 32 ∧
        t.leaf.b.inUse = v.toNat / 32 ∧ t.leaf.b.num K.bringupState = 8 ∧ t.leaf.b.link.attached = false)) ∧
    ∀ (v : List Byte) (place spare : Nat) (spares : List Nat), s.leaf.handed = true → s.passes .leaf K.repairAdd (.bytes v) = true →
      (pieces 4 v).map (fun e => bits (leNat e) 0 21) = [place] →
      (∀ e ∈ s.leaf.b.repairs, ¬ (bits e 30 2 = 0 ∧ bits e 0 21 = place)) →
      s.leaf.b.freeSpares false (place / 2048) = spare :: spares →
      Runs (.repairAdd v) s (fun t => s.besideLeaf t ∧
        t.leaf.b.bytes K.repairList = s.leaf.b.bytes K.repairList ++ natLe 4 (spare * 2 ^ 24 + place) ∧
        t.leaf.b.num K.sparesUsed = s.leaf.b.repairs.length + 1)

/-- The withdrawal of leaves (R395, Table 16.7), W the apply frame: the named leaves begin to leave, and a named position without a leaf
is done; from W + 1 a leaving leaf's regions go off, from W + 2 it enters L2, and once it has been acknowledged up to W + 2 it is a
child no more, its bit of withdrawn is set and L3 is committed on it. The withdrawal of a channel and its removal (R396 to R398).
MOVE_PARENT moves a leaf to its other parent, to which it attaches leaving the one in use. WITHDRAW_CHANNEL makes a member leave
from its frame on; once its packets of the frames before are acknowledged it tells its parent and reads withdrawn; the parent counts
the child from the next frame on no more. A member channel silent for 0x0200:34 frames is removed and counted, and the error
interrupt raised. -/
def Obligations.MembersWithdraw : Prop :=
  (∀ (s : State) (c : Ch),
     (∀ v : Word64, s.passes (.chan c) K.withdrawLeaves (.num v.toNat) = true → Runs (.withdrawLeaves c v) s (fun t => s.beside c t ∧
       (t.chan c).b.num K.withdrawLeaves = v.toNat ∧ ∀ p, p < 48 → v.toNat.testBit p = true →
         match (s.chan c).leafAt p with
         | none => bit ((t.chan c).b.num K.withdrawn) p = true
         | some x => ∃ y ∈ (t.chan c).tree.children, y.addr = x.addr ∧ y.leaving = some (s.chan c).b.now ∧ y.leaveStep = 0)) ∧
     ∀ x : Child, (s.chan c).b.works = true →
       let ordered := fun (t : State) (ws : List Wr) =>
         (∃ m, .msg m ∈ (t.chan c).b.out ∧ m.dst = x.addr ∧ m.opcode = opTxnOpen) ∧
         ∃ r ∈ (t.chan c).rem, r.dst = x.addr ∧ r.apply = (s.chan c).b.now + 1 ∧ r.writes = ws
       ((s.chan c).leavers 0 1 = [x] →
         let on := (regionsOf ((s.chan c).leafMap x.addr)).filter (fun r => !bit ((s.chan c).regionNow x.addr r) 3)
         Runs (.withdrawRegionsOff c) s (fun t => s.beside c t ∧ (∃ y ∈ (t.chan c).tree.children, y.addr = x.addr ∧ y.leaveStep = 1) ∧
           (on ≠ [] → ordered t (on.map (fun r => (regionKey r, .num (setBit ((s.chan c).regionNow x.addr r) 3))))))) ∧
       ((s.chan c).leavers 1 2 = [x] → Runs (.withdrawEnterL2 c) s (fun t => s.beside c t ∧
         (∃ y ∈ (t.chan c).tree.children, y.addr = x.addr ∧ y.leaveStep = 2) ∧ ordered t [(K.powerState, .num 2)])) ∧
       ∀ (pos : BitVec 6) (w g : Nat), ((s.chan c).leavers 2 3).find? (fun y => y.pos == pos.toNat) = some x → x.leaving = some w →
         (s.chan c).ackOf x = some g → w + 2 ≤ g → Runs (.leafWithdrawDone c pos) s (fun t => s.beside c t ∧
           (t.chan c).tree.child x.addr = none ∧ bit ((t.chan c).b.num K.withdrawn) pos.toNat = true ∧
           ordered t [(K.powerState, .num 3)])) ∧
  (∀ (s : State),
     (s.leaf.handed = true → s.passes .leaf K.moveParent (.num 1) = true → s.leaf.b.otherParent ≠ noChan → s.leaf.b.inUse ≠ noChan →
       Runs .moveParent s (fun t => s.besideLeaf t ∧ t.leaf.b.inUse = s.leaf.b.otherParent ∧ t.leaf.b.link.attached = false ∧
         t.leaf.b.link.leaving = chanAddr s.leaf.b.inUse ∧ s.leaf.b.counts t.leaf.b K.parentSwitches)) ∧
     ∀ c : Ch,
       (s.passes (.chan c) K.withdrawChannel (.num 1) = true → Runs (.withdrawChannel c) s (fun t => s.beside c t ∧
         (t.chan c).b.num K.withdrawChannel = 1 ∧
         ((s.chan c).member = true → (t.chan c).b.num K.bringupState = 9 ∧ (t.chan c).leaveAt = some (s.chan c).b.now))) ∧
       (∀ w : Nat, (s.chan c).b.works = true → (s.chan c).leaveAt = some w → (s.chan c).b.num K.bringupState = 9 → w < (s.chan c).b.now →
         (∀ e ∈ (s.chan c).b.journal, e.dst = none → w ≤ e.frame) → Runs (.channelWithdrawDone c) s (fun t => s.beside c t ∧
           (t.chan c).b.num K.bringupState = 0x0A ∧ bit ((t.chan c).b.num K.withdrawn) 48 = true ∧
           ((s.chan c).b.inUse ≠ noChan → ∃ m, .msg m ∈ (t.chan c).b.out ∧ m.dst = chanAddr (s.chan c).b.inUse ∧
             m.opcode = opWrite ∧ m.items = [keyItem K.memberLeave 3 (natLe 2 (s.chan c).id)]))) ∧
       (∀ (src : Word) (id : BitVec 16) (x : Child), s.passes (.chan c) K.memberLeave (.num id.toNat) = true →
         (s.chan c).tree.child src = some x → x.kind = .chan → x.member = true → id.toNat = src.toNat % 2 ^ 16 →
         Runs (.memberLeave c src id) s (fun t => s.beside c t ∧
           (t.chan c).tree.child src = some { x with leaving := some ((s.chan c).b.now + 1) })) ∧
       ∀ (id : BitVec 16) (x : Child), (s.chan c).b.works = true → (s.chan c).b.isLeaf = false →
         (s.chan c).tree.child (chanAddr id.toNat) = some x → x.kind = .chan → x.member = true →
         ((s.chan c).b.num K.removalFrames ≤ x.quiet → Runs (.channelRemoval c id) s (fun t => s.beside c t ∧
           (t.chan c).tree.child (chanAddr id.toNat) = none ∧ (s.chan c).b.counts (t.chan c).b K.removals ∧
           (t.chan c).b.err.getLsbD irqFault = true)) ∧
         (x.quiet < (s.chan c).b.num K.removalFrames → Runs (.channelRemoval c id) s (fun t => s.beside c t ∧
           (t.chan c).own = (s.chan c).own)))

/-- The clasp (R400 to R403). A claim that is due opens the window with the channel and E_h + 1, or joins the open one. When the window
closes, the channel that alone presented the highest epoch is granted the clasp with it, and the others step down and draw a
back-off of 1 to 8 frames; channels that presented the same highest epoch collide. A heartbeat of H is accepted: it cancels the
claims of the others and returns every count of missed frames to 0; another one is refused, and its channel is deposed. -/
def Obligations.ClaspIsArbitrated : Prop :=
  ∀ (s : State),
    let presented := fun (c : Ch) (t : State) => t.leaf.own = s.leaf.own ∧ (∀ d, d ≠ c → (t.chan d).apart = (s.chan d).apart) ∧
      t.sh.claims = some ((s.sh.claims.getD []) ++ [(c.val, s.sh.epoch + 1)]) ∧ t.sh.epoch = s.sh.epoch ∧
      (t.chan c).claimAt = none ∧ (t.chan c).claimDue = false
    let backedOff := fun (c : Ch) (t : State) => (s.chan c).mayClaim = true →
      ∃ x, (t.chan c).claimAt = some x ∧ (s.chan c).b.now < x ∧ x ≤ (s.chan c).b.now + 8
    (∀ c, (s.chan c).mayClaim = true → (s.chan c).claimDue = true → Runs (.claspClaim c) s (presented c)) ∧
    (∀ (c : Ch) (x : Nat), (s.chan c).mayClaim = true → (s.chan c).claimAt = some x → x ≤ (s.chan c).b.now →
      Runs (.claimBackoffExpire c) s (presented c)) ∧
    (∀ (l : List (Nat × Nat)) (w : Ch) (e : Nat), s.seated → s.sh.claims = some l → (w.val, e) ∈ l → (∀ p ∈ l, p.2 ≤ e) →
      ((∀ p ∈ l, p.2 = e → p.1 = w.val) → Runs .claimWindowClose s (fun t => t.leaf = s.leaf ∧ t.sh.claims = none ∧
        t.sh.holder = w.val ∧ t.sh.epoch = e % 2 ^ 32 ∧ (t.chan w).b.num K.claspHeld = 1 ∧ (t.chan w).claimAt = none ∧
        (∀ d, (s.chan d).b.works = true → (t.chan d).b.num K.claspMissed = 0) ∧
        ∀ d, d ≠ w → (∃ e1, (d.val, e1) ∈ l) → backedOff d t)) ∧
      (∀ u : Ch, u ≠ w → (u.val, e) ∈ l → Runs .claimWindowClose s (fun t => t.leaf = s.leaf ∧ t.sh.claims = none ∧
        t.sh.holder = s.sh.holder ∧ t.sh.epoch = s.sh.epoch ∧ backedOff w t ∧ backedOff u t ∧
        (s.chan w).b.counts (t.chan w).b K.claspCollisions ∧ (s.chan u).b.counts (t.chan u).b K.claspCollisions))) ∧
    ∀ c : Ch, s.seated → (s.chan c).b.works = true → (s.chan c).b.num K.claspHeld = 1 →
      (s.sh.holder = c.val → Runs (.claspHeartbeat c) s (fun t => t.leaf = s.leaf ∧ t.sh.beats = (s.sh.beats + 1) % 65536 ∧
        ∀ d, (s.chan d).b.works = true → (t.chan d).b.num K.claspMissed = 0 ∧ (t.chan d).claimDue = false ∧
          (d ≠ c → (t.chan d).claimAt = none))) ∧
      (s.sh.holder ≠ c.val → Runs (.claspHeartbeat c) s (fun t => t.leaf = s.leaf ∧ t.sh = s.sh ∧
        (∀ d, d ≠ c → t.chan d = s.chan d) ∧ (t.chan c).b.num K.claspHeld = 0 ∧
        (s.chan c).b.counts (t.chan c).b K.claspDepositions))

/-- The release of the clasp (R404): the holder's C2 or C3, once applied, leaves H at 0xFF. A channel reset of the holder releases
nothing, but the channel no longer holds the clasp for itself and so sends no heartbeat. A warm reset ends every claim, with no
holder. -/
def Obligations.ClaspIsReleased : Prop :=
  ∀ (s : State) (c : Ch), s.sh.powered = true → s.sh.holder = c.val →
    (s.passes (.chan c) K.powerState (.num 2) = true → Runs (.enterC2 c) s (fun t => t.sh.holder = 0xFF)) ∧
    (s.passes (.chan c) K.powerState (.num 3) = true → Runs (.enterC3 c) s (fun t => t.sh.holder = 0xFF)) ∧
    ((s.chan c).retains = true → Runs (.channelResetRequest c) s (fun t => t.sh.holder = c.val ∧
      ((s.chan c).b.isLeaf = false → (t.chan c).b.num K.claspHeld = 0))) ∧
    (s.warmDue c = true → Runs (.warmResetRequest c) s (fun t => t.sh.holder = 0xFF ∧ t.sh.claims = none ∧
      ∀ d, (s.chan d).retains = true → (t.chan d).claimAt = none ∧ (t.chan d).claimDue = false))

/-- Registers of a channel's window (R418 to R422, Tables 17.9 to 17.11). A write that is misaligned or outside the windows, to a window
that does not answer, to an offset that is unmapped or read-only, or to the mailbox's registers while it is busy, is refused with
hp_err and changes nothing; the others take their value. FRAME_LO_READ latches the upper half, MAILBOX_DATA_WRITE and
MAILBOX_DATA_READ move their pointers through the buffers. INTERRUPT_CLEAR clears the bits written 1 but for those that a cause sets
in the same cycle. MAILBOX_GO (R423): while the mailbox is busy or a response waits, it is refused and nothing is executed. A
request of a length that the mailbox does not take is answered LENGTH: the response stands in the buffer with its length, the
mailbox is ready, and the event is raised. Another one is executed just as a message from the host port. -/
def Obligations.HostPortAnswers : Prop :=
  (∀ (s : State) (c : Ch), s.sh.powered = true →
     let x := s.chan c
     let refused := fun (t : State) => t.leaf = s.leaf ∧ t.ch = s.ch ∧ .host 0 true ∈ t.sh.out
     let done := fun (t : State) (d : Nat) (y : Chan) => t.leaf = s.leaf ∧ (∀ e, e ≠ c → t.chan e = s.chan e) ∧
       .host d false ∈ t.sh.out ∧ t.chan c = y
     (∀ (addr : BitVec 16) (d : Word),
       (addr.toNat % 4 ≠ 0 ∨ addr.toNat < 0x1000 ∨ 0x5000 ≤ addr.toNat → Runs (.hostRegisterWrite addr d) s refused) ∧
       ∀ off : Nat, addr.toNat = 0x1000 * (c.val + 1) + off → off < 0x1000 →
         (x.answersHost = false ∨ off ∉ [0x10, 0x14, 0x18, 0x1C, 0x20, 0x24, 0x2C, 0x30, 0x34] ∨
           (x.win.busy = true ∧ off ∈ [0x24, 0x2C, 0x34]) → Runs (.hostRegisterWrite addr d) s refused) ∧
         (x.answersHost = true →
           (off = 0x14 → Runs (.hostRegisterWrite addr d) s (fun t =>
             done t 0 { x with win := { x.win with evtEnable := d.setWidth 8 } })) ∧
           (off = 0x1C → Runs (.hostRegisterWrite addr d) s (fun t =>
             done t 0 { x with win := { x.win with errEnable := d.setWidth 8 } })) ∧
           (off = 0x30 → Runs (.hostRegisterWrite addr d) s (fun t =>
             done t 0 { x with win := { x.win with rptr := d.toNat / 4 % 2048 } })) ∧
           (x.win.busy = false → off = 0x24 → Runs (.hostRegisterWrite addr d) s (fun t =>
             done t 0 { x with win := { x.win with reqLen := d.toNat % 2 ^ 14 } })) ∧
           (x.win.busy = false → off = 0x2C → Runs (.hostRegisterWrite addr d) s (fun t =>
             done t 0 { x with win := { x.win with wptr := d.toNat / 4 % 2048 } })) ∧
           (off = 0x10 → Runs (.hostRegisterWrite addr d) s (fun t => done t 0 (t.chan c) ∧
             (t.chan c).b.evt = x.b.evt &&& ~~~ (d.setWidth 8))))) ∧
     (x.answersHost = true →
       Runs (.frameLoRead c) s (fun t => done t (x.b.now % 2 ^ 32)
         { x with win := { x.win with frameHi := x.b.now / 2 ^ 32 % 2 ^ 32 } }) ∧
       (∀ d : Word, x.win.busy = false → Runs (.mailboxDataWrite c d) s (fun t => done t 0 (t.chan c) ∧
         (t.chan c).b = x.b ∧ mget (fun _ => 0) (t.chan c).win.req x.win.wptr = d.toNat ∧
         (t.chan c).win.wptr = (x.win.wptr + 1) % 2048)) ∧
       (∀ d : Word, x.win.busy = true → Runs (.mailboxDataWrite c d) s refused) ∧
       Runs (.mailboxDataRead c) s (fun t => done t (mget (fun _ => 0) x.win.rsp x.win.rptr)
         { x with win := { x.win with rptr := (x.win.rptr + 1) % 2048 } }) ∧
       Runs (.mailboxRspDone c) s (fun t => done t 0 { x with win := { x.win with rspReady := false } }) ∧
       ∀ (clear sets : Word),
         Runs (.interruptClear c false clear sets) s (fun t => done t 0 (t.chan c) ∧ (t.chan c).win = x.win ∧ (t.chan c).b.err = x.b.err ∧
           ∀ i, i < 8 → (t.chan c).b.evt.getLsbD i = (sets.getLsbD i || (x.b.evt.getLsbD i && !clear.getLsbD i))) ∧
         Runs (.interruptClear c true clear sets) s (fun t => done t 0 (t.chan c) ∧ (t.chan c).win = x.win ∧ (t.chan c).b.evt = x.b.evt ∧
           ∀ i, i < 8 → (t.chan c).b.err.getLsbD i = (sets.getLsbD i || (x.b.err.getLsbD i && !clear.getLsbD i))))) ∧
  (∀ (s : State) (c : Ch), s.sh.powered = true → (s.chan c).answersHost = true →
     let x := s.chan c
     (x.win.busy = true ∨ x.win.rspReady = true → Runs (.mailboxGo c) s (fun t => t.leaf = s.leaf ∧
       (∀ d, d ≠ c → t.chan d = s.chan d) ∧ t.chan c = { x with win := { x.win with goRefused := true } })) ∧
     (x.win.busy = false → x.win.rspReady = false →
       (mbxLenOk x.win.reqLen = false → x.b.isLeaf = false →
         let m := parseReq .host x.b.hostAddr (x.win.request 16)
         let bytes := respBytes (bare x.b.hostAddr m.1 stLength m.2)
         Runs (.mailboxGo c) s (fun t => t.leaf.own = s.leaf.own ∧ (∀ d, d ≠ c → (t.chan d).apart = (s.chan d).apart) ∧
           (t.chan c).win.busy = false ∧ (t.chan c).win.rspReady = true ∧
           (t.chan c).win.rspLen = bytes.length ∧ (t.chan c).b.evt.getLsbD irqMailbox = true ∧
           ∀ k, k * 4 < bytes.length → mget (fun _ => 0) (t.chan c).win.rsp k = leAt bytes (k * 4) 4)) ∧
       (mbxLenOk x.win.reqLen = true → ∀ (i : Instr) (q : Req) (op : Nat), i.asks = some (.chan c, q, op) →
         parseReq .host x.b.hostAddr (x.win.request x.win.reqLen) = (op, { q with other := none }) →
         Runs (.mailboxGo c) s (fun t =>
           exec i (({ s with sh := s.sh.emit (.host 0 false) } : State).putChan c { x with win := { x.win with busy := true } }) = .next t))))

/-- The sideband (R86, R428). A block that fails its PEC, is longer than 255 bytes or has no request command code is discarded. One for
channel c is executed just as a message from the sideband; one shorter than a header is answered LENGTH. A read hands out the oldest
response, or none; the Alert Response Address is answered and the alert withdrawn; a clock held low releases the bus.
TAP_INSTRUCTION (R429, Table 17.12): the instruction register of the build takes its value. IDCODE captures the identification of
the build; EXTEST is decoded as BYPASS while the build's reset input is high, and other instructions without a row too; IJTAG_ACCESS
selects a segment that captures 0 unless the instruments are enabled. -/
def Obligations.SidebandsAnswer : Prop :=
  (∀ (s : State), s.sh.powered = true →
     (∀ (cmd : Byte) (data : List Byte) (pec : Bool),
       (pec = false ∨ 255 < data.length ∨ cmd.toNat ∉ [0xB0, 0xB2, 0xB4, 0xB6] → Runs (.smbusBlockWrite cmd data pec) s (fun t => t = s)) ∧
       ∀ c : Ch, cmd.toNat = 0xB0 + 2 * c.val → pec = true → data.length ≤ 255 →
         (16 ≤ data.length → ∀ (i : Instr) (q : Req) (op : Nat), i.asks = some (.chan c, q, op) →
           parseReq .sideband (s.chan c).b.sideAddr data = (op, { q with other := none }) →
           Runs (.smbusBlockWrite cmd data pec) s (fun t => exec i s = .next t)) ∧
         (data.length < 16 → let m := parseReq .sideband (s.chan c).b.sideAddr (fitTo 16 data)
           (s.chan c).b.answering m.2 = true →
           Runs (.smbusBlockWrite cmd data pec) s (fun t => s.beside c t ∧ t.sh.muted = false ∧
             respBytes (bare ((s.chan c).b.srcOf m.2) m.1 stLength m.2) ∈ (t.chan c).side))) ∧
     (∀ (cmd : Byte) (c : Ch), cmd.toNat = 0xB1 + 2 * c.val → Runs (.smbusBlockRead cmd) s (fun t => t.leaf = s.leaf ∧
       (∀ d, d ≠ c → t.chan d = s.chan d) ∧ t.chan c = { s.chan c with side := (s.chan c).side.drop 1 } ∧
       .smbus ((s.chan c).side.headD []) ∈ t.sh.out)) ∧
     Runs .smbusAlertResponse s (fun t => t.leaf = s.leaf ∧ t.ch = s.ch ∧ t.alert = false ∧
       .smbus [BitVec.ofNat 8 (0x3C + Config.smbAddr.toNat)] ∈ t.sh.out) ∧
     Runs .smbusClockLowTimeout s (fun t => t.leaf = s.leaf ∧ t.ch = s.ch ∧ .smbusRelease ∈ t.sh.out)) ∧
  (∀ (s : State) (n : Node) (ir : Byte),
     let high := match n with | .leaf => s.leaf.b.phase ≠ .asserted | .chan _ => s.sh.powered = true
     let out := fun (t : State) => match n with | .leaf => t.leaf.b.out | .chan _ => t.sh.out
     let taken := fun (t : State) => match n with
       | .leaf => s.besideLeaf t ∧ t.ch = s.ch ∧ t.leaf.tapIr = ir
       | .chan c => t.leaf = s.leaf ∧ (∀ d, d ≠ c → t.chan d = s.chan d) ∧ t.sh.ir = ir
     (ir = 0x01 → Runs (.tapInstruction n ir) s (fun t => taken t ∧
       .tap .idcode (match n with | .leaf => 0x35A7054F | .chan _ => 0x35A7154F) ∈ out t)) ∧
     (ir = 0x00 → high → Runs (.tapInstruction n ir) s (fun t => taken t ∧ .tap .bypass 0 ∈ out t)) ∧
     (ir = 0x02 ∨ (ir = 0x00 ∧ ¬ high) → Runs (.tapInstruction n ir) s (fun t => taken t ∧ ∃ v, .tap .boundary v ∈ out t)) ∧
     (ir = 0x20 → Runs (.tapInstruction n ir) s (fun t => taken t ∧
       (if (s.blk n).num K.instrumentsEnabled = 1 then ∃ v, .tap .network v ∈ out t else .tap .segment 0 ∈ out t))) ∧
     (ir ∉ [0x00, 0x01, 0x02, 0x20] → Runs (.tapInstruction n ir) s (fun t => taken t ∧ .tap .bypass 0 ∈ out t)))
end

