-- ==== Sys2Proof/Laws/Map.lean ====
section
/-! SUPPORT. Laws of the sparse tables: reading after writing, and that every operation keeps the canonical form. -/

namespace Sys2Proof.Machine

variable {α : Type}

/-! ### Reading after writing -/

@[simp] theorem mget_mput_same (d : Nat → α) (m : NMap α) (k : Nat) (x : α) : mget d (mput m k x) k = x := by
  induction m with
  | nil => simp [mput, mget]
  | cons e m ih =>
    obtain ⟨j, y⟩ := e
    simp only [mput]
    split
    · simp [mget]
    · split
      · simp [mget]
      · next h1 h2 => simp [mget, h2, ih]

theorem mget_mput_ne (d : Nat → α) (m : NMap α) {k j : Nat} (x : α) (h : j ≠ k) : mget d (mput m k x) j = mget d m j := by
  induction m with
  | nil => simp [mput, mget, h]
  | cons e m ih =>
    obtain ⟨i, y⟩ := e
    simp only [mput]
    split
    · simp [mget, h]
    · split
      · next h1 h2 => subst h2; simp [mget, h]
      · simp [mget, ih]

theorem mget_none {d : Nat → α} {m : NMap α} {k : Nat} (h : ∀ e ∈ m, e.1 ≠ k) : mget d m k = d k := by
  induction m with
  | nil => rfl
  | cons e m ih =>
    obtain ⟨j, y⟩ := e
    have h1 : j ≠ k := h (j, y) (by simp)
    have h2 := ih (fun e he => h e (by simp [he]))
    simp [mget, Ne.symm h1, h2]

theorem mget_mdel_ne (d : Nat → α) (m : NMap α) {k j : Nat} (h : j ≠ k) : mget d (mdel m k) j = mget d m j := by
  induction m with
  | nil => rfl
  | cons e m ih =>
    obtain ⟨i, y⟩ := e
    simp only [mdel]
    split
    · next hk => subst hk; simp [mget, h, ih]
    · simp [mget, ih]

@[simp] theorem mget_mdel_same (d : Nat → α) (m : NMap α) (k : Nat) : mget d (mdel m k) k = d k := by
  induction m with
  | nil => rfl
  | cons e m ih =>
    obtain ⟨i, y⟩ := e
    simp only [mdel]
    split
    · exact ih
    · next hk => simp [mget, hk, ih]

variable [DecidableEq α]

theorem mwfFrom_lt {d : Nat → α} {lo : Option Nat} {m : NMap α} (h : mwfFrom d lo m = true) :
    ∀ e ∈ m, ∀ b, lo = some b → b < e.1 := by
  induction m generalizing lo with
  | nil => simp
  | cons e m ih =>
    obtain ⟨j, y⟩ := e
    simp only [mwfFrom, Bool.and_eq_true] at h
    intro e he b hb
    subst hb
    rcases List.mem_cons.mp he with rfl | he
    · simpa using h.1.1
    · have := ih h.2 e he j rfl
      have h1 : b < j := by simpa using h.1.1
      omega

/-- A read after a write of the same key gives the value written. -/
@[simp] theorem mget_mset_same (d : Nat → α) (m : NMap α) (k : Nat) (x : α) : mget d (mset d m k x) k = x := by
  unfold mset
  split
  · next hx => rw [mget_mdel_same, hx]
  · simp

/-- A write leaves every other key alone. -/
theorem mget_mset_ne (d : Nat → α) (m : NMap α) {k j : Nat} (x : α) (h : j ≠ k) : mget d (mset d m k x) j = mget d m j := by
  unfold mset
  split
  · exact mget_mdel_ne d m h
  · exact mget_mput_ne d m x h

/-! ### The canonical form is kept -/

theorem mwfFrom_weaken {d : Nat → α} {a b : Nat} {m : NMap α} (h : mwfFrom d (some b) m = true) (hab : a ≤ b) :
    mwfFrom d (some a) m = true := by
  cases m with
  | nil => rfl
  | cons e m =>
    simp only [mwfFrom, Bool.and_eq_true, decide_eq_true_eq] at h ⊢
    exact ⟨⟨by omega, h.1.2⟩, h.2⟩

theorem mwfFrom_none {d : Nat → α} {lo : Option Nat} {m : NMap α} (h : mwfFrom d lo m = true) : mwfFrom d none m = true := by
  cases m with
  | nil => rfl
  | cons e m =>
    simp only [mwfFrom, Bool.and_eq_true] at h ⊢
    exact ⟨⟨trivial, h.1.2⟩, h.2⟩

/-- A bound of the keys: absent, or below `k`. -/
theorem mwfFrom_mput {d : Nat → α} {lo : Option Nat} {m : NMap α} {k : Nat} {x : α} (h : mwfFrom d lo m = true)
    (hk : ∀ b, lo = some b → b < k) (hx : x ≠ d k) : mwfFrom d lo (mput m k x) = true := by
  have hlo : ∀ (l : Option Nat) (j : Nat), (∀ b, l = some b → b < j) →
      (match l with | none => true | some b => decide (b < j)) = true := by
    intro l j hl
    cases l with
    | none => rfl
    | some b => simpa using hl b rfl
  induction m generalizing lo with
  | nil => simp only [mput, mwfFrom, Bool.and_true, Bool.and_eq_true, decide_eq_true_eq]; exact ⟨hlo lo k hk, hx⟩
  | cons e m ih =>
    obtain ⟨j, y⟩ := e
    simp only [mwfFrom, Bool.and_eq_true] at h
    simp only [mput]
    split
    · next h1 =>
      simp only [mwfFrom, Bool.and_eq_true, decide_eq_true_eq]
      exact ⟨⟨hlo lo k hk, hx⟩, ⟨h1, by simpa using h.1.2⟩, h.2⟩
    · split
      · next h1 h2 =>
        subst h2
        simp only [mwfFrom, Bool.and_eq_true, decide_eq_true_eq]
        exact ⟨⟨h.1.1, hx⟩, h.2⟩
      · next h1 h2 =>
        simp only [mwfFrom, Bool.and_eq_true]
        refine ⟨h.1, ih h.2 ?_⟩
        intro b hb
        cases hb
        omega

theorem mwfFrom_mdel {d : Nat → α} {lo : Option Nat} {m : NMap α} {k : Nat} (h : mwfFrom d lo m = true) :
    mwfFrom d lo (mdel m k) = true := by
  induction m generalizing lo with
  | nil => rfl
  | cons e m ih =>
    obtain ⟨j, y⟩ := e
    simp only [mwfFrom, Bool.and_eq_true] at h
    simp only [mdel]
    split
    · cases lo with
      | none => exact mwfFrom_none (ih h.2)
      | some b => exact mwfFrom_weaken (ih h.2) (by have := h.1.1; simp at this; omega)
    · simp only [mwfFrom, Bool.and_eq_true]
      exact ⟨h.1, ih h.2⟩

/-- A write keeps the canonical form. -/
theorem mwf_mset {d : Nat → α} {m : NMap α} (h : mwf d m = true) (k : Nat) (x : α) : mwf d (mset d m k x) = true := by
  unfold mset
  split
  · exact mwfFrom_mdel h
  · next hx => exact mwfFrom_mput h (by simp) hx

/-- Leaving entries out keeps the canonical form. -/
theorem mwf_mfilter {d : Nat → α} {m : NMap α} (h : mwf d m = true) (p : Nat → Bool) : mwf d (mfilter p m) = true := by
  have key : ∀ (m : NMap α) (lo : Option Nat), mwfFrom d lo m = true → mwfFrom d lo (m.filter (fun e => p e.1)) = true := by
    intro m
    induction m with
    | nil => intro lo h; rfl
    | cons e m ih =>
      obtain ⟨j, y⟩ := e
      intro lo h
      simp only [mwfFrom, Bool.and_eq_true] at h
      by_cases hp : p j
      · simp only [List.filter_cons, hp, if_true, mwfFrom, Bool.and_eq_true]
        exact ⟨h.1, ih _ h.2⟩
      · simp only [List.filter_cons, hp, Bool.false_eq_true, if_false]
        cases lo with
        | none => exact mwfFrom_none (ih _ h.2)
        | some b => exact mwfFrom_weaken (ih _ h.2) (by have := h.1.1; simp at this; omega)
  exact key m none h

/-! ### The mover windows (R336) -/

/-- Writes to a window keep its canonical form. -/
theorem mwf_winWrite (m : NMap Byte) (h : mwf (fun _ => 0) m = true) (d : List Byte) : ∀ k, mwf (fun _ => 0) (winWrite m k d) = true := by
  induction d generalizing m with
  | nil => intro k; simpa [winWrite] using h
  | cons x d ih => intro k; exact ih _ (mwf_mset h k x) (k + 1)

/-- A write leaves the bytes outside its span alone. -/
theorem winByte_winWrite_out (m : NMap Byte) (d : List Byte) :
    ∀ (k j : Nat), j < k ∨ k + d.length ≤ j → winByte (winWrite m k d) j = winByte m j := by
  induction d generalizing m with
  | nil => intro k j _; rfl
  | cons x d ih =>
    intro k j h
    simp only [List.length_cons] at h
    rw [winWrite, ih _ (k + 1) j (by omega)]
    exact mget_mset_ne _ m x (by omega)

/-- A read of the bytes written gives the bytes. -/
theorem winByte_winWrite_in (m : NMap Byte) (d : List Byte) :
    ∀ (k i : Nat) (hi : i < d.length), winByte (winWrite m k d) (k + i) = d[i] := by
  induction d generalizing m with
  | nil => intro k i hi; simp at hi
  | cons x d ih =>
    intro k i hi
    cases i with
    | zero =>
      rw [winWrite, winByte_winWrite_out _ d (k + 1) (k + 0) (by omega)]
      exact mget_mset_same _ m k x
    | succ i =>
      have := ih (winPut m k x) (k + 1) i (by simpa using hi)
      rw [winWrite]
      have e : k + (i + 1) = k + 1 + i := by omega
      rw [e, this]
      simp

end Sys2Proof.Machine
end

