-- ==== Sys2Proof/Laws/State.lean ====
section
/-! SUPPORT. What every update of the state leaves alone, field by field, and what a read gives after a write: the lemmas that
later proofs cite, so that none of them unfolds a record update. -/

namespace Sys2Proof.Machine

/-! ### Blk.setVal -/

@[simp] theorem Blk.setVal_isLeaf (b : Blk) (k : Nat) (v : Val) : (b.setVal k v).isLeaf = b.isLeaf := rfl
@[simp] theorem Blk.setVal_place (b : Blk) (k : Nat) (v : Val) : (b.setVal k v).place = b.place := rfl
@[simp] theorem Blk.setVal_phase (b : Blk) (k : Nat) (v : Val) : (b.setVal k v).phase = b.phase := rfl
@[simp] theorem Blk.setVal_out (b : Blk) (k : Nat) (v : Val) : (b.setVal k v).out = b.out := rfl
@[simp] theorem Blk.setVal_free (b : Blk) (k : Nat) (v : Val) : (b.setVal k v).free = b.free := rfl
@[simp] theorem Blk.setVal_evt (b : Blk) (k : Nat) (v : Val) : (b.setVal k v).evt = b.evt := rfl
@[simp] theorem Blk.setVal_err (b : Blk) (k : Nat) (v : Val) : (b.setVal k v).err = b.err := rfl
@[simp] theorem Blk.setVal_frameIsOpen (b : Blk) (k : Nat) (v : Val) : (b.setVal k v).frameIsOpen = b.frameIsOpen := rfl
@[simp] theorem Blk.setVal_lastOpen (b : Blk) (k : Nat) (v : Val) : (b.setVal k v).lastOpen = b.lastOpen := rfl
@[simp] theorem Blk.setVal_applying (b : Blk) (k : Nat) (v : Val) : (b.setVal k v).applying = b.applying := rfl
@[simp] theorem Blk.setVal_needLock (b : Blk) (k : Nat) (v : Val) : (b.setVal k v).needLock = b.needLock := rfl
@[simp] theorem Blk.setVal_declared (b : Blk) (k : Nat) (v : Val) : (b.setVal k v).declared = b.declared := rfl
@[simp] theorem Blk.setVal_shorts (b : Blk) (k : Nat) (v : Val) : (b.setVal k v).shorts = b.shorts := rfl
@[simp] theorem Blk.setVal_timeA (b : Blk) (k : Nat) (v : Val) : (b.setVal k v).timeA = b.timeA := rfl
@[simp] theorem Blk.setVal_timeB (b : Blk) (k : Nat) (v : Val) : (b.setVal k v).timeB = b.timeB := rfl
@[simp] theorem Blk.setVal_knownA (b : Blk) (k : Nat) (v : Val) : (b.setVal k v).knownA = b.knownA := rfl
@[simp] theorem Blk.setVal_knownB (b : Blk) (k : Nat) (v : Val) : (b.setVal k v).knownB = b.knownB := rfl
@[simp] theorem Blk.setVal_holdNs (b : Blk) (k : Nat) (v : Val) : (b.setVal k v).holdNs = b.holdNs := rfl
@[simp] theorem Blk.setVal_sa (b : Blk) (k : Nat) (v : Val) : (b.setVal k v).sa = b.sa := rfl
@[simp] theorem Blk.setVal_sb (b : Blk) (k : Nat) (v : Val) : (b.setVal k v).sb = b.sb := rfl
@[simp] theorem Blk.setVal_remain (b : Blk) (k : Nat) (v : Val) : (b.setVal k v).remain = b.remain := rfl
@[simp] theorem Blk.setVal_remainRest (b : Blk) (k : Nat) (v : Val) : (b.setVal k v).remainRest = b.remainRest := rfl
@[simp] theorem Blk.setVal_steps (b : Blk) (k : Nat) (v : Val) : (b.setVal k v).steps = b.steps := rfl
@[simp] theorem Blk.setVal_tsq (b : Blk) (k : Nat) (v : Val) : (b.setVal k v).tsq = b.tsq := rfl
@[simp] theorem Blk.setVal_ppsGood (b : Blk) (k : Nat) (v : Val) : (b.setVal k v).ppsGood = b.ppsGood := rfl
@[simp] theorem Blk.setVal_seqs (b : Blk) (k : Nat) (v : Val) : (b.setVal k v).seqs = b.seqs := rfl
@[simp] theorem Blk.setVal_execs (b : Blk) (k : Nat) (v : Val) : (b.setVal k v).execs = b.execs := rfl
@[simp] theorem Blk.setVal_segs (b : Blk) (k : Nat) (v : Val) : (b.setVal k v).segs = b.segs := rfl
@[simp] theorem Blk.setVal_txns (b : Blk) (k : Nat) (v : Val) : (b.setVal k v).txns = b.txns := rfl
@[simp] theorem Blk.setVal_done (b : Blk) (k : Nat) (v : Val) : (b.setVal k v).done = b.done := rfl
@[simp] theorem Blk.setVal_selfNum (b : Blk) (k : Nat) (v : Val) : (b.setVal k v).selfNum = b.selfNum := rfl
@[simp] theorem Blk.setVal_jobs (b : Blk) (k : Nat) (v : Val) : (b.setVal k v).jobs = b.jobs := rfl
@[simp] theorem Blk.setVal_badSpares (b : Blk) (k : Nat) (v : Val) : (b.setVal k v).badSpares = b.badSpares := rfl
@[simp] theorem Blk.setVal_fleet (b : Blk) (k : Nat) (v : Val) : (b.setVal k v).fleet = b.fleet := rfl
@[simp] theorem Blk.setVal_undo (b : Blk) (k : Nat) (v : Val) : (b.setVal k v).undo = b.undo := rfl
@[simp] theorem Blk.setVal_acks (b : Blk) (k : Nat) (v : Val) : (b.setVal k v).acks = b.acks := rfl
@[simp] theorem Blk.setVal_journal (b : Blk) (k : Nat) (v : Val) : (b.setVal k v).journal = b.journal := rfl
@[simp] theorem Blk.setVal_link (b : Blk) (k : Nat) (v : Val) : (b.setVal k v).link = b.link := rfl
@[simp] theorem Blk.setVal_nextSeq (b : Blk) (k : Nat) (v : Val) : (b.setVal k v).nextSeq = b.nextSeq := rfl
@[simp] theorem Blk.setVal_resetWanted (b : Blk) (k : Nat) (v : Val) : (b.setVal k v).resetWanted = b.resetWanted := rfl
@[simp] theorem Blk.setVal_passed (b : Blk) (k : Nat) (v : Val) : (b.setVal k v).passed = b.passed := rfl
@[simp] theorem Blk.setVal_modeWas (b : Blk) (k : Nat) (v : Val) : (b.setVal k v).modeWas = b.modeWas := rfl

/-! ### Blk.setNum -/

@[simp] theorem Blk.setNum_isLeaf (b : Blk) (k n : Nat) : (b.setNum k n).isLeaf = b.isLeaf := rfl
@[simp] theorem Blk.setNum_place (b : Blk) (k n : Nat) : (b.setNum k n).place = b.place := rfl
@[simp] theorem Blk.setNum_phase (b : Blk) (k n : Nat) : (b.setNum k n).phase = b.phase := rfl
@[simp] theorem Blk.setNum_out (b : Blk) (k n : Nat) : (b.setNum k n).out = b.out := rfl
@[simp] theorem Blk.setNum_free (b : Blk) (k n : Nat) : (b.setNum k n).free = b.free := rfl
@[simp] theorem Blk.setNum_evt (b : Blk) (k n : Nat) : (b.setNum k n).evt = b.evt := rfl
@[simp] theorem Blk.setNum_err (b : Blk) (k n : Nat) : (b.setNum k n).err = b.err := rfl
@[simp] theorem Blk.setNum_frameIsOpen (b : Blk) (k n : Nat) : (b.setNum k n).frameIsOpen = b.frameIsOpen := rfl
@[simp] theorem Blk.setNum_lastOpen (b : Blk) (k n : Nat) : (b.setNum k n).lastOpen = b.lastOpen := rfl
@[simp] theorem Blk.setNum_applying (b : Blk) (k n : Nat) : (b.setNum k n).applying = b.applying := rfl
@[simp] theorem Blk.setNum_needLock (b : Blk) (k n : Nat) : (b.setNum k n).needLock = b.needLock := rfl
@[simp] theorem Blk.setNum_declared (b : Blk) (k n : Nat) : (b.setNum k n).declared = b.declared := rfl
@[simp] theorem Blk.setNum_shorts (b : Blk) (k n : Nat) : (b.setNum k n).shorts = b.shorts := rfl
@[simp] theorem Blk.setNum_timeA (b : Blk) (k n : Nat) : (b.setNum k n).timeA = b.timeA := rfl
@[simp] theorem Blk.setNum_timeB (b : Blk) (k n : Nat) : (b.setNum k n).timeB = b.timeB := rfl
@[simp] theorem Blk.setNum_knownA (b : Blk) (k n : Nat) : (b.setNum k n).knownA = b.knownA := rfl
@[simp] theorem Blk.setNum_knownB (b : Blk) (k n : Nat) : (b.setNum k n).knownB = b.knownB := rfl
@[simp] theorem Blk.setNum_holdNs (b : Blk) (k n : Nat) : (b.setNum k n).holdNs = b.holdNs := rfl
@[simp] theorem Blk.setNum_sa (b : Blk) (k n : Nat) : (b.setNum k n).sa = b.sa := rfl
@[simp] theorem Blk.setNum_sb (b : Blk) (k n : Nat) : (b.setNum k n).sb = b.sb := rfl
@[simp] theorem Blk.setNum_remain (b : Blk) (k n : Nat) : (b.setNum k n).remain = b.remain := rfl
@[simp] theorem Blk.setNum_remainRest (b : Blk) (k n : Nat) : (b.setNum k n).remainRest = b.remainRest := rfl
@[simp] theorem Blk.setNum_steps (b : Blk) (k n : Nat) : (b.setNum k n).steps = b.steps := rfl
@[simp] theorem Blk.setNum_tsq (b : Blk) (k n : Nat) : (b.setNum k n).tsq = b.tsq := rfl
@[simp] theorem Blk.setNum_ppsGood (b : Blk) (k n : Nat) : (b.setNum k n).ppsGood = b.ppsGood := rfl
@[simp] theorem Blk.setNum_seqs (b : Blk) (k n : Nat) : (b.setNum k n).seqs = b.seqs := rfl
@[simp] theorem Blk.setNum_execs (b : Blk) (k n : Nat) : (b.setNum k n).execs = b.execs := rfl
@[simp] theorem Blk.setNum_segs (b : Blk) (k n : Nat) : (b.setNum k n).segs = b.segs := rfl
@[simp] theorem Blk.setNum_txns (b : Blk) (k n : Nat) : (b.setNum k n).txns = b.txns := rfl
@[simp] theorem Blk.setNum_done (b : Blk) (k n : Nat) : (b.setNum k n).done = b.done := rfl
@[simp] theorem Blk.setNum_selfNum (b : Blk) (k n : Nat) : (b.setNum k n).selfNum = b.selfNum := rfl
@[simp] theorem Blk.setNum_jobs (b : Blk) (k n : Nat) : (b.setNum k n).jobs = b.jobs := rfl
@[simp] theorem Blk.setNum_badSpares (b : Blk) (k n : Nat) : (b.setNum k n).badSpares = b.badSpares := rfl
@[simp] theorem Blk.setNum_fleet (b : Blk) (k n : Nat) : (b.setNum k n).fleet = b.fleet := rfl
@[simp] theorem Blk.setNum_undo (b : Blk) (k n : Nat) : (b.setNum k n).undo = b.undo := rfl
@[simp] theorem Blk.setNum_acks (b : Blk) (k n : Nat) : (b.setNum k n).acks = b.acks := rfl
@[simp] theorem Blk.setNum_journal (b : Blk) (k n : Nat) : (b.setNum k n).journal = b.journal := rfl
@[simp] theorem Blk.setNum_link (b : Blk) (k n : Nat) : (b.setNum k n).link = b.link := rfl
@[simp] theorem Blk.setNum_nextSeq (b : Blk) (k n : Nat) : (b.setNum k n).nextSeq = b.nextSeq := rfl
@[simp] theorem Blk.setNum_resetWanted (b : Blk) (k n : Nat) : (b.setNum k n).resetWanted = b.resetWanted := rfl
@[simp] theorem Blk.setNum_passed (b : Blk) (k n : Nat) : (b.setNum k n).passed = b.passed := rfl
@[simp] theorem Blk.setNum_modeWas (b : Blk) (k n : Nat) : (b.setNum k n).modeWas = b.modeWas := rfl

/-! ### Blk.setBytes -/

@[simp] theorem Blk.setBytes_isLeaf (b : Blk) (k : Nat) (d : List Byte) : (b.setBytes k d).isLeaf = b.isLeaf := rfl
@[simp] theorem Blk.setBytes_place (b : Blk) (k : Nat) (d : List Byte) : (b.setBytes k d).place = b.place := rfl
@[simp] theorem Blk.setBytes_phase (b : Blk) (k : Nat) (d : List Byte) : (b.setBytes k d).phase = b.phase := rfl
@[simp] theorem Blk.setBytes_out (b : Blk) (k : Nat) (d : List Byte) : (b.setBytes k d).out = b.out := rfl
@[simp] theorem Blk.setBytes_free (b : Blk) (k : Nat) (d : List Byte) : (b.setBytes k d).free = b.free := rfl
@[simp] theorem Blk.setBytes_evt (b : Blk) (k : Nat) (d : List Byte) : (b.setBytes k d).evt = b.evt := rfl
@[simp] theorem Blk.setBytes_err (b : Blk) (k : Nat) (d : List Byte) : (b.setBytes k d).err = b.err := rfl
@[simp] theorem Blk.setBytes_frameIsOpen (b : Blk) (k : Nat) (d : List Byte) : (b.setBytes k d).frameIsOpen = b.frameIsOpen := rfl
@[simp] theorem Blk.setBytes_lastOpen (b : Blk) (k : Nat) (d : List Byte) : (b.setBytes k d).lastOpen = b.lastOpen := rfl
@[simp] theorem Blk.setBytes_applying (b : Blk) (k : Nat) (d : List Byte) : (b.setBytes k d).applying = b.applying := rfl
@[simp] theorem Blk.setBytes_needLock (b : Blk) (k : Nat) (d : List Byte) : (b.setBytes k d).needLock = b.needLock := rfl
@[simp] theorem Blk.setBytes_declared (b : Blk) (k : Nat) (d : List Byte) : (b.setBytes k d).declared = b.declared := rfl
@[simp] theorem Blk.setBytes_shorts (b : Blk) (k : Nat) (d : List Byte) : (b.setBytes k d).shorts = b.shorts := rfl
@[simp] theorem Blk.setBytes_timeA (b : Blk) (k : Nat) (d : List Byte) : (b.setBytes k d).timeA = b.timeA := rfl
@[simp] theorem Blk.setBytes_timeB (b : Blk) (k : Nat) (d : List Byte) : (b.setBytes k d).timeB = b.timeB := rfl
@[simp] theorem Blk.setBytes_knownA (b : Blk) (k : Nat) (d : List Byte) : (b.setBytes k d).knownA = b.knownA := rfl
@[simp] theorem Blk.setBytes_knownB (b : Blk) (k : Nat) (d : List Byte) : (b.setBytes k d).knownB = b.knownB := rfl
@[simp] theorem Blk.setBytes_holdNs (b : Blk) (k : Nat) (d : List Byte) : (b.setBytes k d).holdNs = b.holdNs := rfl
@[simp] theorem Blk.setBytes_sa (b : Blk) (k : Nat) (d : List Byte) : (b.setBytes k d).sa = b.sa := rfl
@[simp] theorem Blk.setBytes_sb (b : Blk) (k : Nat) (d : List Byte) : (b.setBytes k d).sb = b.sb := rfl
@[simp] theorem Blk.setBytes_remain (b : Blk) (k : Nat) (d : List Byte) : (b.setBytes k d).remain = b.remain := rfl
@[simp] theorem Blk.setBytes_remainRest (b : Blk) (k : Nat) (d : List Byte) : (b.setBytes k d).remainRest = b.remainRest := rfl
@[simp] theorem Blk.setBytes_steps (b : Blk) (k : Nat) (d : List Byte) : (b.setBytes k d).steps = b.steps := rfl
@[simp] theorem Blk.setBytes_tsq (b : Blk) (k : Nat) (d : List Byte) : (b.setBytes k d).tsq = b.tsq := rfl
@[simp] theorem Blk.setBytes_ppsGood (b : Blk) (k : Nat) (d : List Byte) : (b.setBytes k d).ppsGood = b.ppsGood := rfl
@[simp] theorem Blk.setBytes_seqs (b : Blk) (k : Nat) (d : List Byte) : (b.setBytes k d).seqs = b.seqs := rfl
@[simp] theorem Blk.setBytes_execs (b : Blk) (k : Nat) (d : List Byte) : (b.setBytes k d).execs = b.execs := rfl
@[simp] theorem Blk.setBytes_segs (b : Blk) (k : Nat) (d : List Byte) : (b.setBytes k d).segs = b.segs := rfl
@[simp] theorem Blk.setBytes_txns (b : Blk) (k : Nat) (d : List Byte) : (b.setBytes k d).txns = b.txns := rfl
@[simp] theorem Blk.setBytes_done (b : Blk) (k : Nat) (d : List Byte) : (b.setBytes k d).done = b.done := rfl
@[simp] theorem Blk.setBytes_selfNum (b : Blk) (k : Nat) (d : List Byte) : (b.setBytes k d).selfNum = b.selfNum := rfl
@[simp] theorem Blk.setBytes_jobs (b : Blk) (k : Nat) (d : List Byte) : (b.setBytes k d).jobs = b.jobs := rfl
@[simp] theorem Blk.setBytes_badSpares (b : Blk) (k : Nat) (d : List Byte) : (b.setBytes k d).badSpares = b.badSpares := rfl
@[simp] theorem Blk.setBytes_fleet (b : Blk) (k : Nat) (d : List Byte) : (b.setBytes k d).fleet = b.fleet := rfl
@[simp] theorem Blk.setBytes_undo (b : Blk) (k : Nat) (d : List Byte) : (b.setBytes k d).undo = b.undo := rfl
@[simp] theorem Blk.setBytes_acks (b : Blk) (k : Nat) (d : List Byte) : (b.setBytes k d).acks = b.acks := rfl
@[simp] theorem Blk.setBytes_journal (b : Blk) (k : Nat) (d : List Byte) : (b.setBytes k d).journal = b.journal := rfl
@[simp] theorem Blk.setBytes_link (b : Blk) (k : Nat) (d : List Byte) : (b.setBytes k d).link = b.link := rfl
@[simp] theorem Blk.setBytes_nextSeq (b : Blk) (k : Nat) (d : List Byte) : (b.setBytes k d).nextSeq = b.nextSeq := rfl
@[simp] theorem Blk.setBytes_resetWanted (b : Blk) (k : Nat) (d : List Byte) : (b.setBytes k d).resetWanted = b.resetWanted := rfl
@[simp] theorem Blk.setBytes_passed (b : Blk) (k : Nat) (d : List Byte) : (b.setBytes k d).passed = b.passed := rfl
@[simp] theorem Blk.setBytes_modeWas (b : Blk) (k : Nat) (d : List Byte) : (b.setBytes k d).modeWas = b.modeWas := rfl

/-! ### Blk.setBool -/

@[simp] theorem Blk.setBool_isLeaf (b : Blk) (k : Nat) (v : Bool) : (b.setBool k v).isLeaf = b.isLeaf := rfl
@[simp] theorem Blk.setBool_place (b : Blk) (k : Nat) (v : Bool) : (b.setBool k v).place = b.place := rfl
@[simp] theorem Blk.setBool_phase (b : Blk) (k : Nat) (v : Bool) : (b.setBool k v).phase = b.phase := rfl
@[simp] theorem Blk.setBool_out (b : Blk) (k : Nat) (v : Bool) : (b.setBool k v).out = b.out := rfl
@[simp] theorem Blk.setBool_free (b : Blk) (k : Nat) (v : Bool) : (b.setBool k v).free = b.free := rfl
@[simp] theorem Blk.setBool_evt (b : Blk) (k : Nat) (v : Bool) : (b.setBool k v).evt = b.evt := rfl
@[simp] theorem Blk.setBool_err (b : Blk) (k : Nat) (v : Bool) : (b.setBool k v).err = b.err := rfl
@[simp] theorem Blk.setBool_frameIsOpen (b : Blk) (k : Nat) (v : Bool) : (b.setBool k v).frameIsOpen = b.frameIsOpen := rfl
@[simp] theorem Blk.setBool_lastOpen (b : Blk) (k : Nat) (v : Bool) : (b.setBool k v).lastOpen = b.lastOpen := rfl
@[simp] theorem Blk.setBool_applying (b : Blk) (k : Nat) (v : Bool) : (b.setBool k v).applying = b.applying := rfl
@[simp] theorem Blk.setBool_needLock (b : Blk) (k : Nat) (v : Bool) : (b.setBool k v).needLock = b.needLock := rfl
@[simp] theorem Blk.setBool_declared (b : Blk) (k : Nat) (v : Bool) : (b.setBool k v).declared = b.declared := rfl
@[simp] theorem Blk.setBool_shorts (b : Blk) (k : Nat) (v : Bool) : (b.setBool k v).shorts = b.shorts := rfl
@[simp] theorem Blk.setBool_timeA (b : Blk) (k : Nat) (v : Bool) : (b.setBool k v).timeA = b.timeA := rfl
@[simp] theorem Blk.setBool_timeB (b : Blk) (k : Nat) (v : Bool) : (b.setBool k v).timeB = b.timeB := rfl
@[simp] theorem Blk.setBool_knownA (b : Blk) (k : Nat) (v : Bool) : (b.setBool k v).knownA = b.knownA := rfl
@[simp] theorem Blk.setBool_knownB (b : Blk) (k : Nat) (v : Bool) : (b.setBool k v).knownB = b.knownB := rfl
@[simp] theorem Blk.setBool_holdNs (b : Blk) (k : Nat) (v : Bool) : (b.setBool k v).holdNs = b.holdNs := rfl
@[simp] theorem Blk.setBool_sa (b : Blk) (k : Nat) (v : Bool) : (b.setBool k v).sa = b.sa := rfl
@[simp] theorem Blk.setBool_sb (b : Blk) (k : Nat) (v : Bool) : (b.setBool k v).sb = b.sb := rfl
@[simp] theorem Blk.setBool_remain (b : Blk) (k : Nat) (v : Bool) : (b.setBool k v).remain = b.remain := rfl
@[simp] theorem Blk.setBool_remainRest (b : Blk) (k : Nat) (v : Bool) : (b.setBool k v).remainRest = b.remainRest := rfl
@[simp] theorem Blk.setBool_steps (b : Blk) (k : Nat) (v : Bool) : (b.setBool k v).steps = b.steps := rfl
@[simp] theorem Blk.setBool_tsq (b : Blk) (k : Nat) (v : Bool) : (b.setBool k v).tsq = b.tsq := rfl
@[simp] theorem Blk.setBool_ppsGood (b : Blk) (k : Nat) (v : Bool) : (b.setBool k v).ppsGood = b.ppsGood := rfl
@[simp] theorem Blk.setBool_seqs (b : Blk) (k : Nat) (v : Bool) : (b.setBool k v).seqs = b.seqs := rfl
@[simp] theorem Blk.setBool_execs (b : Blk) (k : Nat) (v : Bool) : (b.setBool k v).execs = b.execs := rfl
@[simp] theorem Blk.setBool_segs (b : Blk) (k : Nat) (v : Bool) : (b.setBool k v).segs = b.segs := rfl
@[simp] theorem Blk.setBool_txns (b : Blk) (k : Nat) (v : Bool) : (b.setBool k v).txns = b.txns := rfl
@[simp] theorem Blk.setBool_done (b : Blk) (k : Nat) (v : Bool) : (b.setBool k v).done = b.done := rfl
@[simp] theorem Blk.setBool_selfNum (b : Blk) (k : Nat) (v : Bool) : (b.setBool k v).selfNum = b.selfNum := rfl
@[simp] theorem Blk.setBool_jobs (b : Blk) (k : Nat) (v : Bool) : (b.setBool k v).jobs = b.jobs := rfl
@[simp] theorem Blk.setBool_badSpares (b : Blk) (k : Nat) (v : Bool) : (b.setBool k v).badSpares = b.badSpares := rfl
@[simp] theorem Blk.setBool_fleet (b : Blk) (k : Nat) (v : Bool) : (b.setBool k v).fleet = b.fleet := rfl
@[simp] theorem Blk.setBool_undo (b : Blk) (k : Nat) (v : Bool) : (b.setBool k v).undo = b.undo := rfl
@[simp] theorem Blk.setBool_acks (b : Blk) (k : Nat) (v : Bool) : (b.setBool k v).acks = b.acks := rfl
@[simp] theorem Blk.setBool_journal (b : Blk) (k : Nat) (v : Bool) : (b.setBool k v).journal = b.journal := rfl
@[simp] theorem Blk.setBool_link (b : Blk) (k : Nat) (v : Bool) : (b.setBool k v).link = b.link := rfl
@[simp] theorem Blk.setBool_nextSeq (b : Blk) (k : Nat) (v : Bool) : (b.setBool k v).nextSeq = b.nextSeq := rfl
@[simp] theorem Blk.setBool_resetWanted (b : Blk) (k : Nat) (v : Bool) : (b.setBool k v).resetWanted = b.resetWanted := rfl
@[simp] theorem Blk.setBool_passed (b : Blk) (k : Nat) (v : Bool) : (b.setBool k v).passed = b.passed := rfl
@[simp] theorem Blk.setBool_modeWas (b : Blk) (k : Nat) (v : Bool) : (b.setBool k v).modeWas = b.modeWas := rfl

/-! ### Blk.bump -/

@[simp] theorem Blk.bump_isLeaf (b : Blk) (k n : Nat) : (b.bump k n).isLeaf = b.isLeaf := rfl
@[simp] theorem Blk.bump_place (b : Blk) (k n : Nat) : (b.bump k n).place = b.place := rfl
@[simp] theorem Blk.bump_phase (b : Blk) (k n : Nat) : (b.bump k n).phase = b.phase := rfl
@[simp] theorem Blk.bump_out (b : Blk) (k n : Nat) : (b.bump k n).out = b.out := rfl
@[simp] theorem Blk.bump_free (b : Blk) (k n : Nat) : (b.bump k n).free = b.free := rfl
@[simp] theorem Blk.bump_evt (b : Blk) (k n : Nat) : (b.bump k n).evt = b.evt := rfl
@[simp] theorem Blk.bump_err (b : Blk) (k n : Nat) : (b.bump k n).err = b.err := rfl
@[simp] theorem Blk.bump_frameIsOpen (b : Blk) (k n : Nat) : (b.bump k n).frameIsOpen = b.frameIsOpen := rfl
@[simp] theorem Blk.bump_lastOpen (b : Blk) (k n : Nat) : (b.bump k n).lastOpen = b.lastOpen := rfl
@[simp] theorem Blk.bump_applying (b : Blk) (k n : Nat) : (b.bump k n).applying = b.applying := rfl
@[simp] theorem Blk.bump_needLock (b : Blk) (k n : Nat) : (b.bump k n).needLock = b.needLock := rfl
@[simp] theorem Blk.bump_declared (b : Blk) (k n : Nat) : (b.bump k n).declared = b.declared := rfl
@[simp] theorem Blk.bump_shorts (b : Blk) (k n : Nat) : (b.bump k n).shorts = b.shorts := rfl
@[simp] theorem Blk.bump_timeA (b : Blk) (k n : Nat) : (b.bump k n).timeA = b.timeA := rfl
@[simp] theorem Blk.bump_timeB (b : Blk) (k n : Nat) : (b.bump k n).timeB = b.timeB := rfl
@[simp] theorem Blk.bump_knownA (b : Blk) (k n : Nat) : (b.bump k n).knownA = b.knownA := rfl
@[simp] theorem Blk.bump_knownB (b : Blk) (k n : Nat) : (b.bump k n).knownB = b.knownB := rfl
@[simp] theorem Blk.bump_holdNs (b : Blk) (k n : Nat) : (b.bump k n).holdNs = b.holdNs := rfl
@[simp] theorem Blk.bump_sa (b : Blk) (k n : Nat) : (b.bump k n).sa = b.sa := rfl
@[simp] theorem Blk.bump_sb (b : Blk) (k n : Nat) : (b.bump k n).sb = b.sb := rfl
@[simp] theorem Blk.bump_remain (b : Blk) (k n : Nat) : (b.bump k n).remain = b.remain := rfl
@[simp] theorem Blk.bump_remainRest (b : Blk) (k n : Nat) : (b.bump k n).remainRest = b.remainRest := rfl
@[simp] theorem Blk.bump_steps (b : Blk) (k n : Nat) : (b.bump k n).steps = b.steps := rfl
@[simp] theorem Blk.bump_tsq (b : Blk) (k n : Nat) : (b.bump k n).tsq = b.tsq := rfl
@[simp] theorem Blk.bump_ppsGood (b : Blk) (k n : Nat) : (b.bump k n).ppsGood = b.ppsGood := rfl
@[simp] theorem Blk.bump_seqs (b : Blk) (k n : Nat) : (b.bump k n).seqs = b.seqs := rfl
@[simp] theorem Blk.bump_execs (b : Blk) (k n : Nat) : (b.bump k n).execs = b.execs := rfl
@[simp] theorem Blk.bump_segs (b : Blk) (k n : Nat) : (b.bump k n).segs = b.segs := rfl
@[simp] theorem Blk.bump_txns (b : Blk) (k n : Nat) : (b.bump k n).txns = b.txns := rfl
@[simp] theorem Blk.bump_done (b : Blk) (k n : Nat) : (b.bump k n).done = b.done := rfl
@[simp] theorem Blk.bump_selfNum (b : Blk) (k n : Nat) : (b.bump k n).selfNum = b.selfNum := rfl
@[simp] theorem Blk.bump_jobs (b : Blk) (k n : Nat) : (b.bump k n).jobs = b.jobs := rfl
@[simp] theorem Blk.bump_badSpares (b : Blk) (k n : Nat) : (b.bump k n).badSpares = b.badSpares := rfl
@[simp] theorem Blk.bump_fleet (b : Blk) (k n : Nat) : (b.bump k n).fleet = b.fleet := rfl
@[simp] theorem Blk.bump_undo (b : Blk) (k n : Nat) : (b.bump k n).undo = b.undo := rfl
@[simp] theorem Blk.bump_acks (b : Blk) (k n : Nat) : (b.bump k n).acks = b.acks := rfl
@[simp] theorem Blk.bump_journal (b : Blk) (k n : Nat) : (b.bump k n).journal = b.journal := rfl
@[simp] theorem Blk.bump_link (b : Blk) (k n : Nat) : (b.bump k n).link = b.link := rfl
@[simp] theorem Blk.bump_nextSeq (b : Blk) (k n : Nat) : (b.bump k n).nextSeq = b.nextSeq := rfl
@[simp] theorem Blk.bump_resetWanted (b : Blk) (k n : Nat) : (b.bump k n).resetWanted = b.resetWanted := rfl
@[simp] theorem Blk.bump_passed (b : Blk) (k n : Nat) : (b.bump k n).passed = b.passed := rfl
@[simp] theorem Blk.bump_modeWas (b : Blk) (k n : Nat) : (b.bump k n).modeWas = b.modeWas := rfl

/-! ### Blk.emit -/

@[simp] theorem Blk.emit_isLeaf (b : Blk) (o : Out) : (b.emit o).isLeaf = b.isLeaf := rfl
@[simp] theorem Blk.emit_place (b : Blk) (o : Out) : (b.emit o).place = b.place := rfl
@[simp] theorem Blk.emit_phase (b : Blk) (o : Out) : (b.emit o).phase = b.phase := rfl
@[simp] theorem Blk.emit_store (b : Blk) (o : Out) : (b.emit o).store = b.store := rfl
@[simp] theorem Blk.emit_free (b : Blk) (o : Out) : (b.emit o).free = b.free := rfl
@[simp] theorem Blk.emit_evt (b : Blk) (o : Out) : (b.emit o).evt = b.evt := rfl
@[simp] theorem Blk.emit_err (b : Blk) (o : Out) : (b.emit o).err = b.err := rfl
@[simp] theorem Blk.emit_frameIsOpen (b : Blk) (o : Out) : (b.emit o).frameIsOpen = b.frameIsOpen := rfl
@[simp] theorem Blk.emit_lastOpen (b : Blk) (o : Out) : (b.emit o).lastOpen = b.lastOpen := rfl
@[simp] theorem Blk.emit_applying (b : Blk) (o : Out) : (b.emit o).applying = b.applying := rfl
@[simp] theorem Blk.emit_needLock (b : Blk) (o : Out) : (b.emit o).needLock = b.needLock := rfl
@[simp] theorem Blk.emit_declared (b : Blk) (o : Out) : (b.emit o).declared = b.declared := rfl
@[simp] theorem Blk.emit_shorts (b : Blk) (o : Out) : (b.emit o).shorts = b.shorts := rfl
@[simp] theorem Blk.emit_timeA (b : Blk) (o : Out) : (b.emit o).timeA = b.timeA := rfl
@[simp] theorem Blk.emit_timeB (b : Blk) (o : Out) : (b.emit o).timeB = b.timeB := rfl
@[simp] theorem Blk.emit_knownA (b : Blk) (o : Out) : (b.emit o).knownA = b.knownA := rfl
@[simp] theorem Blk.emit_knownB (b : Blk) (o : Out) : (b.emit o).knownB = b.knownB := rfl
@[simp] theorem Blk.emit_holdNs (b : Blk) (o : Out) : (b.emit o).holdNs = b.holdNs := rfl
@[simp] theorem Blk.emit_sa (b : Blk) (o : Out) : (b.emit o).sa = b.sa := rfl
@[simp] theorem Blk.emit_sb (b : Blk) (o : Out) : (b.emit o).sb = b.sb := rfl
@[simp] theorem Blk.emit_remain (b : Blk) (o : Out) : (b.emit o).remain = b.remain := rfl
@[simp] theorem Blk.emit_remainRest (b : Blk) (o : Out) : (b.emit o).remainRest = b.remainRest := rfl
@[simp] theorem Blk.emit_steps (b : Blk) (o : Out) : (b.emit o).steps = b.steps := rfl
@[simp] theorem Blk.emit_tsq (b : Blk) (o : Out) : (b.emit o).tsq = b.tsq := rfl
@[simp] theorem Blk.emit_ppsGood (b : Blk) (o : Out) : (b.emit o).ppsGood = b.ppsGood := rfl
@[simp] theorem Blk.emit_seqs (b : Blk) (o : Out) : (b.emit o).seqs = b.seqs := rfl
@[simp] theorem Blk.emit_execs (b : Blk) (o : Out) : (b.emit o).execs = b.execs := rfl
@[simp] theorem Blk.emit_segs (b : Blk) (o : Out) : (b.emit o).segs = b.segs := rfl
@[simp] theorem Blk.emit_txns (b : Blk) (o : Out) : (b.emit o).txns = b.txns := rfl
@[simp] theorem Blk.emit_done (b : Blk) (o : Out) : (b.emit o).done = b.done := rfl
@[simp] theorem Blk.emit_selfNum (b : Blk) (o : Out) : (b.emit o).selfNum = b.selfNum := rfl
@[simp] theorem Blk.emit_jobs (b : Blk) (o : Out) : (b.emit o).jobs = b.jobs := rfl
@[simp] theorem Blk.emit_badSpares (b : Blk) (o : Out) : (b.emit o).badSpares = b.badSpares := rfl
@[simp] theorem Blk.emit_fleet (b : Blk) (o : Out) : (b.emit o).fleet = b.fleet := rfl
@[simp] theorem Blk.emit_undo (b : Blk) (o : Out) : (b.emit o).undo = b.undo := rfl
@[simp] theorem Blk.emit_acks (b : Blk) (o : Out) : (b.emit o).acks = b.acks := rfl
@[simp] theorem Blk.emit_journal (b : Blk) (o : Out) : (b.emit o).journal = b.journal := rfl
@[simp] theorem Blk.emit_link (b : Blk) (o : Out) : (b.emit o).link = b.link := rfl
@[simp] theorem Blk.emit_nextSeq (b : Blk) (o : Out) : (b.emit o).nextSeq = b.nextSeq := rfl
@[simp] theorem Blk.emit_resetWanted (b : Blk) (o : Out) : (b.emit o).resetWanted = b.resetWanted := rfl
@[simp] theorem Blk.emit_passed (b : Blk) (o : Out) : (b.emit o).passed = b.passed := rfl
@[simp] theorem Blk.emit_modeWas (b : Blk) (o : Out) : (b.emit o).modeWas = b.modeWas := rfl
@[simp] theorem Blk.emit_out (b : Blk) (o : Out) : (b.emit o).out = b.out ++ [o] := rfl

/-! ### Chan.onB, Chan.onTree -/

@[simp] theorem Chan.onB_joins (c : Chan) (g : Blk → Blk) : (c.onB g).joins = c.joins := rfl
@[simp] theorem Chan.onB_roleAsk (c : Chan) (g : Blk → Blk) : (c.onB g).roleAsk = c.roleAsk := rfl
@[simp] theorem Chan.onB_leaveAt (c : Chan) (g : Blk → Blk) : (c.onB g).leaveAt = c.leaveAt := rfl
@[simp] theorem Chan.onB_claimAt (c : Chan) (g : Blk → Blk) : (c.onB g).claimAt = c.claimAt := rfl
@[simp] theorem Chan.onB_beat (c : Chan) (g : Blk → Blk) : (c.onB g).beat = c.beat := rfl
@[simp] theorem Chan.onB_claimDue (c : Chan) (g : Blk → Blk) : (c.onB g).claimDue = c.claimDue := rfl
@[simp] theorem Chan.onB_hot (c : Chan) (g : Blk → Blk) : (c.onB g).hot = c.hot := rfl
@[simp] theorem Chan.onB_triggers (c : Chan) (g : Blk → Blk) : (c.onB g).triggers = c.triggers := rfl
@[simp] theorem Chan.onB_root (c : Chan) (g : Blk → Blk) : (c.onB g).root = c.root := rfl
@[simp] theorem Chan.onB_win (c : Chan) (g : Blk → Blk) : (c.onB g).win = c.win := rfl
@[simp] theorem Chan.onB_side (c : Chan) (g : Blk → Blk) : (c.onB g).side = c.side := rfl
@[simp] theorem Chan.onB_start (c : Chan) (g : Blk → Blk) : (c.onB g).start = c.start := rfl
@[simp] theorem Chan.onB_mem (c : Chan) (g : Blk → Blk) : (c.onB g).mem = c.mem := rfl
@[simp] theorem Chan.onB_car (c : Chan) (g : Blk → Blk) : (c.onB g).car = c.car := rfl
@[simp] theorem Chan.onB_hist (c : Chan) (g : Blk → Blk) : (c.onB g).hist = c.hist := rfl
@[simp] theorem Chan.onB_known (c : Chan) (g : Blk → Blk) : (c.onB g).known = c.known := rfl
@[simp] theorem Chan.onB_rul (c : Chan) (g : Blk → Blk) : (c.onB g).rul = c.rul := rfl
@[simp] theorem Chan.onB_pac (c : Chan) (g : Blk → Blk) : (c.onB g).pac = c.pac := rfl
@[simp] theorem Chan.onB_egr (c : Chan) (g : Blk → Blk) : (c.onB g).egr = c.egr := rfl
@[simp] theorem Chan.onB_passing (c : Chan) (g : Blk → Blk) : (c.onB g).passing = c.passing := rfl
@[simp] theorem Chan.onB_lag (c : Chan) (g : Blk → Blk) : (c.onB g).lag = c.lag := rfl
@[simp] theorem Chan.onB_bal (c : Chan) (g : Blk → Blk) : (c.onB g).bal = c.bal := rfl
@[simp] theorem Chan.onB_ovr (c : Chan) (g : Blk → Blk) : (c.onB g).ovr = c.ovr := rfl
@[simp] theorem Chan.onB_ser (c : Chan) (g : Blk → Blk) : (c.onB g).ser = c.ser := rfl
@[simp] theorem Chan.onB_b (c : Chan) (g : Blk → Blk) : (c.onB g).b = g c.b := rfl
@[simp] theorem Chan.onB_tree (c : Chan) (g : Blk → Blk) : (c.onB g).tree = c.tree := rfl
@[simp] theorem Chan.onB_rem (c : Chan) (g : Blk → Blk) : (c.onB g).rem = c.rem := rfl
@[simp] theorem Chan.onB_asy (c : Chan) (g : Blk → Blk) : (c.onB g).asy = c.asy := rfl
@[simp] theorem Chan.onB_flash (c : Chan) (g : Blk → Blk) : (c.onB g).flash = c.flash := rfl
@[simp] theorem Chan.onB_inputs (c : Chan) (g : Blk → Blk) : (c.onB g).inputs = c.inputs := rfl
@[simp] theorem Chan.onB_faultIn (c : Chan) (g : Blk → Blk) : (c.onB g).faultIn = c.faultIn := rfl
@[simp] theorem Chan.onTree_joins (c : Chan) (g : Tree → Tree) : (c.onTree g).joins = c.joins := rfl
@[simp] theorem Chan.onTree_roleAsk (c : Chan) (g : Tree → Tree) : (c.onTree g).roleAsk = c.roleAsk := rfl
@[simp] theorem Chan.onTree_leaveAt (c : Chan) (g : Tree → Tree) : (c.onTree g).leaveAt = c.leaveAt := rfl
@[simp] theorem Chan.onTree_claimAt (c : Chan) (g : Tree → Tree) : (c.onTree g).claimAt = c.claimAt := rfl
@[simp] theorem Chan.onTree_beat (c : Chan) (g : Tree → Tree) : (c.onTree g).beat = c.beat := rfl
@[simp] theorem Chan.onTree_claimDue (c : Chan) (g : Tree → Tree) : (c.onTree g).claimDue = c.claimDue := rfl
@[simp] theorem Chan.onTree_hot (c : Chan) (g : Tree → Tree) : (c.onTree g).hot = c.hot := rfl
@[simp] theorem Chan.onTree_triggers (c : Chan) (g : Tree → Tree) : (c.onTree g).triggers = c.triggers := rfl
@[simp] theorem Chan.onTree_root (c : Chan) (g : Tree → Tree) : (c.onTree g).root = c.root := rfl
@[simp] theorem Chan.onTree_win (c : Chan) (g : Tree → Tree) : (c.onTree g).win = c.win := rfl
@[simp] theorem Chan.onTree_side (c : Chan) (g : Tree → Tree) : (c.onTree g).side = c.side := rfl
@[simp] theorem Chan.onTree_start (c : Chan) (g : Tree → Tree) : (c.onTree g).start = c.start := rfl
@[simp] theorem Chan.onTree_mem (c : Chan) (g : Tree → Tree) : (c.onTree g).mem = c.mem := rfl
@[simp] theorem Chan.onTree_car (c : Chan) (g : Tree → Tree) : (c.onTree g).car = c.car := rfl
@[simp] theorem Chan.onTree_hist (c : Chan) (g : Tree → Tree) : (c.onTree g).hist = c.hist := rfl
@[simp] theorem Chan.onTree_known (c : Chan) (g : Tree → Tree) : (c.onTree g).known = c.known := rfl
@[simp] theorem Chan.onTree_rul (c : Chan) (g : Tree → Tree) : (c.onTree g).rul = c.rul := rfl
@[simp] theorem Chan.onTree_pac (c : Chan) (g : Tree → Tree) : (c.onTree g).pac = c.pac := rfl
@[simp] theorem Chan.onTree_egr (c : Chan) (g : Tree → Tree) : (c.onTree g).egr = c.egr := rfl
@[simp] theorem Chan.onTree_passing (c : Chan) (g : Tree → Tree) : (c.onTree g).passing = c.passing := rfl
@[simp] theorem Chan.onTree_lag (c : Chan) (g : Tree → Tree) : (c.onTree g).lag = c.lag := rfl
@[simp] theorem Chan.onTree_bal (c : Chan) (g : Tree → Tree) : (c.onTree g).bal = c.bal := rfl
@[simp] theorem Chan.onTree_ovr (c : Chan) (g : Tree → Tree) : (c.onTree g).ovr = c.ovr := rfl
@[simp] theorem Chan.onTree_ser (c : Chan) (g : Tree → Tree) : (c.onTree g).ser = c.ser := rfl
@[simp] theorem Chan.onTree_b (c : Chan) (g : Tree → Tree) : (c.onTree g).b = c.b := rfl
@[simp] theorem Chan.onTree_tree (c : Chan) (g : Tree → Tree) : (c.onTree g).tree = g c.tree := rfl
@[simp] theorem Chan.onTree_rem (c : Chan) (g : Tree → Tree) : (c.onTree g).rem = c.rem := rfl
@[simp] theorem Chan.onTree_asy (c : Chan) (g : Tree → Tree) : (c.onTree g).asy = c.asy := rfl
@[simp] theorem Chan.onTree_flash (c : Chan) (g : Tree → Tree) : (c.onTree g).flash = c.flash := rfl
@[simp] theorem Chan.onTree_inputs (c : Chan) (g : Tree → Tree) : (c.onTree g).inputs = c.inputs := rfl
@[simp] theorem Chan.onTree_faultIn (c : Chan) (g : Tree → Tree) : (c.onTree g).faultIn = c.faultIn := rfl

/-! ### CS.on -/

@[simp] theorem CS.on_ch (s : CS) (g : Chan → Chan) : (s.on g).ch = g s.ch := rfl
@[simp] theorem CS.on_sh (s : CS) (g : Chan → Chan) : (s.on g).sh = s.sh := rfl

/-! ### Shared -/

@[simp] theorem Shared.setNum_powered (h : Shared) (k n : Nat) : (h.setNum k n).powered = h.powered := rfl
@[simp] theorem Shared.bump_powered (h : Shared) (k : Nat) : (h.bump k).powered = h.powered := rfl
@[simp] theorem Shared.emit_powered (h : Shared) (o : Out) : (h.emit o).powered = h.powered := rfl
@[simp] theorem Shared.emit_store (h : Shared) (o : Out) : (h.emit o).store = h.store := rfl
@[simp] theorem Shared.setNum_gen (h : Shared) (k n : Nat) : (h.setNum k n).gen = h.gen := rfl
@[simp] theorem Shared.bump_gen (h : Shared) (k : Nat) : (h.bump k).gen = h.gen := rfl
@[simp] theorem Shared.emit_gen (h : Shared) (o : Out) : (h.emit o).gen = h.gen := rfl
@[simp] theorem Shared.setNum_bad (h : Shared) (k n : Nat) : (h.setNum k n).bad = h.bad := rfl
@[simp] theorem Shared.bump_bad (h : Shared) (k : Nat) : (h.bump k).bad = h.bad := rfl
@[simp] theorem Shared.emit_bad (h : Shared) (o : Out) : (h.emit o).bad = h.bad := rfl
@[simp] theorem Shared.setNum_gens (h : Shared) (k n : Nat) : (h.setNum k n).gens = h.gens := rfl
@[simp] theorem Shared.bump_gens (h : Shared) (k : Nat) : (h.bump k).gens = h.gens := rfl
@[simp] theorem Shared.emit_gens (h : Shared) (o : Out) : (h.emit o).gens = h.gens := rfl
@[simp] theorem Shared.setNum_currents (h : Shared) (k n : Nat) : (h.setNum k n).currents = h.currents := rfl
@[simp] theorem Shared.bump_currents (h : Shared) (k : Nat) : (h.bump k).currents = h.currents := rfl
@[simp] theorem Shared.emit_currents (h : Shared) (o : Out) : (h.emit o).currents = h.currents := rfl
@[simp] theorem Shared.setNum_restored (h : Shared) (k n : Nat) : (h.setNum k n).restored = h.restored := rfl
@[simp] theorem Shared.bump_restored (h : Shared) (k : Nat) : (h.bump k).restored = h.restored := rfl
@[simp] theorem Shared.emit_restored (h : Shared) (o : Out) : (h.emit o).restored = h.restored := rfl
@[simp] theorem Shared.setNum_epoch (h : Shared) (k n : Nat) : (h.setNum k n).epoch = h.epoch := rfl
@[simp] theorem Shared.bump_epoch (h : Shared) (k : Nat) : (h.bump k).epoch = h.epoch := rfl
@[simp] theorem Shared.emit_epoch (h : Shared) (o : Out) : (h.emit o).epoch = h.epoch := rfl
@[simp] theorem Shared.setNum_holder (h : Shared) (k n : Nat) : (h.setNum k n).holder = h.holder := rfl
@[simp] theorem Shared.bump_holder (h : Shared) (k : Nat) : (h.bump k).holder = h.holder := rfl
@[simp] theorem Shared.emit_holder (h : Shared) (o : Out) : (h.emit o).holder = h.holder := rfl
@[simp] theorem Shared.setNum_beats (h : Shared) (k n : Nat) : (h.setNum k n).beats = h.beats := rfl
@[simp] theorem Shared.bump_beats (h : Shared) (k : Nat) : (h.bump k).beats = h.beats := rfl
@[simp] theorem Shared.emit_beats (h : Shared) (o : Out) : (h.emit o).beats = h.beats := rfl
@[simp] theorem Shared.setNum_freed (h : Shared) (k n : Nat) : (h.setNum k n).freed = h.freed := rfl
@[simp] theorem Shared.bump_freed (h : Shared) (k : Nat) : (h.bump k).freed = h.freed := rfl
@[simp] theorem Shared.emit_freed (h : Shared) (o : Out) : (h.emit o).freed = h.freed := rfl
@[simp] theorem Shared.setNum_claims (h : Shared) (k n : Nat) : (h.setNum k n).claims = h.claims := rfl
@[simp] theorem Shared.bump_claims (h : Shared) (k : Nat) : (h.bump k).claims = h.claims := rfl
@[simp] theorem Shared.emit_claims (h : Shared) (o : Out) : (h.emit o).claims = h.claims := rfl
@[simp] theorem Shared.setNum_samples (h : Shared) (k n : Nat) : (h.setNum k n).samples = h.samples := rfl
@[simp] theorem Shared.bump_samples (h : Shared) (k : Nat) : (h.bump k).samples = h.samples := rfl
@[simp] theorem Shared.emit_samples (h : Shared) (o : Out) : (h.emit o).samples = h.samples := rfl
@[simp] theorem Shared.setNum_sum (h : Shared) (k n : Nat) : (h.setNum k n).sum = h.sum := rfl
@[simp] theorem Shared.bump_sum (h : Shared) (k : Nat) : (h.bump k).sum = h.sum := rfl
@[simp] theorem Shared.emit_sum (h : Shared) (o : Out) : (h.emit o).sum = h.sum := rfl
@[simp] theorem Shared.setNum_count (h : Shared) (k n : Nat) : (h.setNum k n).count = h.count := rfl
@[simp] theorem Shared.bump_count (h : Shared) (k : Nat) : (h.bump k).count = h.count := rfl
@[simp] theorem Shared.emit_count (h : Shared) (o : Out) : (h.emit o).count = h.count := rfl
@[simp] theorem Shared.setNum_low (h : Shared) (k n : Nat) : (h.setNum k n).low = h.low := rfl
@[simp] theorem Shared.bump_low (h : Shared) (k : Nat) : (h.bump k).low = h.low := rfl
@[simp] theorem Shared.emit_low (h : Shared) (o : Out) : (h.emit o).low = h.low := rfl
@[simp] theorem Shared.setNum_good (h : Shared) (k n : Nat) : (h.setNum k n).good = h.good := rfl
@[simp] theorem Shared.bump_good (h : Shared) (k : Nat) : (h.bump k).good = h.good := rfl
@[simp] theorem Shared.emit_good (h : Shared) (o : Out) : (h.emit o).good = h.good := rfl
@[simp] theorem Shared.setNum_goodFrames (h : Shared) (k n : Nat) : (h.setNum k n).goodFrames = h.goodFrames := rfl
@[simp] theorem Shared.bump_goodFrames (h : Shared) (k : Nat) : (h.bump k).goodFrames = h.goodFrames := rfl
@[simp] theorem Shared.emit_goodFrames (h : Shared) (o : Out) : (h.emit o).goodFrames = h.goodFrames := rfl
@[simp] theorem Shared.setNum_sampler (h : Shared) (k n : Nat) : (h.setNum k n).sampler = h.sampler := rfl
@[simp] theorem Shared.bump_sampler (h : Shared) (k : Nat) : (h.bump k).sampler = h.sampler := rfl
@[simp] theorem Shared.emit_sampler (h : Shared) (o : Out) : (h.emit o).sampler = h.sampler := rfl
@[simp] theorem Shared.setNum_changes (h : Shared) (k n : Nat) : (h.setNum k n).changes = h.changes := rfl
@[simp] theorem Shared.bump_changes (h : Shared) (k : Nat) : (h.bump k).changes = h.changes := rfl
@[simp] theorem Shared.emit_changes (h : Shared) (o : Out) : (h.emit o).changes = h.changes := rfl
@[simp] theorem Shared.setNum_warmHeld (h : Shared) (k n : Nat) : (h.setNum k n).warmHeld = h.warmHeld := rfl
@[simp] theorem Shared.bump_warmHeld (h : Shared) (k : Nat) : (h.bump k).warmHeld = h.warmHeld := rfl
@[simp] theorem Shared.emit_warmHeld (h : Shared) (o : Out) : (h.emit o).warmHeld = h.warmHeld := rfl
@[simp] theorem Shared.setNum_muted (h : Shared) (k n : Nat) : (h.setNum k n).muted = h.muted := rfl
@[simp] theorem Shared.bump_muted (h : Shared) (k : Nat) : (h.bump k).muted = h.muted := rfl
@[simp] theorem Shared.emit_muted (h : Shared) (o : Out) : (h.emit o).muted = h.muted := rfl
@[simp] theorem Shared.setNum_ir (h : Shared) (k n : Nat) : (h.setNum k n).ir = h.ir := rfl
@[simp] theorem Shared.bump_ir (h : Shared) (k : Nat) : (h.bump k).ir = h.ir := rfl
@[simp] theorem Shared.emit_ir (h : Shared) (o : Out) : (h.emit o).ir = h.ir := rfl
@[simp] theorem Shared.setNum_out (h : Shared) (k n : Nat) : (h.setNum k n).out = h.out := rfl
@[simp] theorem Shared.bump_out (h : Shared) (k : Nat) : (h.bump k).out = h.out := rfl

/-! ### State.putChan -/

@[simp] theorem State.putChan_pending (s : State) (c : Ch) (x : Chan) : (s.putChan c x).pending = s.pending := rfl
@[simp] theorem State.putChan_leaf (s : State) (c : Ch) (x : Chan) : (s.putChan c x).leaf = s.leaf := rfl
@[simp] theorem State.putChan_sh (s : State) (c : Ch) (x : Chan) : (s.putChan c x).sh = s.sh := rfl

/-! ### Channels of the tray -/

@[simp] theorem Quad.get_set_same {α : Type} (q : Quad α) (c : Ch) (x : α) : (q.set c x).get c = x := by
  match c with | 0 => rfl | 1 => rfl | 2 => rfl | 3 => rfl

theorem Quad.get_set_ne {α : Type} (q : Quad α) {c d : Ch} (x : α) (h : d ≠ c) : (q.set c x).get d = q.get d := by
  match c, d with
  | 0, 0 => exact absurd rfl h
  | 0, 1 => rfl
  | 0, 2 => rfl
  | 0, 3 => rfl
  | 1, 0 => rfl
  | 1, 1 => exact absurd rfl h
  | 1, 2 => rfl
  | 1, 3 => rfl
  | 2, 0 => rfl
  | 2, 1 => rfl
  | 2, 2 => exact absurd rfl h
  | 2, 3 => rfl
  | 3, 0 => rfl
  | 3, 1 => rfl
  | 3, 2 => rfl
  | 3, 3 => exact absurd rfl h

@[simp] theorem Quad.get_map {α β : Type} (f : α → β) (q : Quad α) (c : Ch) : (q.map f).get c = f (q.get c) := by
  match c with | 0 => rfl | 1 => rfl | 2 => rfl | 3 => rfl

@[simp] theorem State.chan_putChan_same (s : State) (c : Ch) (x : Chan) : (s.putChan c x).chan c = x := Quad.get_set_same _ _ _

theorem State.chan_putChan_ne (s : State) {c d : Ch} (x : Chan) (h : d ≠ c) : (s.putChan c x).chan d = s.chan d :=
  Quad.get_set_ne _ _ h

/-! ### Reading a register after writing it -/

@[simp] theorem Blk.val_setVal_same (b : Blk) (k : Nat) (v : Val) : (b.setVal k v).val k = v := mget_mset_same _ _ _ _

theorem Blk.val_setVal_ne (b : Blk) {k j : Nat} (v : Val) (h : j ≠ k) : (b.setVal k v).val j = b.val j := mget_mset_ne _ _ v h

@[simp] theorem Blk.num_setNum_same (b : Blk) (k n : Nat) : (b.setNum k n).num k = n := by
  simp [Blk.num, Blk.setNum, Val.toNum]

theorem Blk.num_setNum_ne (b : Blk) {k j : Nat} (n : Nat) (h : j ≠ k) : (b.setNum k n).num j = b.num j := by
  simp [Blk.num, Blk.setNum, Blk.val_setVal_ne b _ h]

@[simp] theorem Blk.bytes_setBytes_same (b : Blk) (k : Nat) (d : List Byte) : (b.setBytes k d).bytes k = d := by
  simp [Blk.bytes, Blk.setBytes, Val.toBytes]

theorem Blk.val_bump_ne (b : Blk) {k j : Nat} (n : Nat) (h : j ≠ k) : (b.bump k n).val j = b.val j :=
  Blk.val_setVal_ne b _ h

theorem Blk.num_bump_ne (b : Blk) {k j : Nat} (n : Nat) (h : j ≠ k) : (b.bump k n).num j = b.num j :=
  Blk.num_setNum_ne b _ h

/-- A counter that has not reached the largest value of its type advances by the number given. -/
theorem Blk.num_bump (b : Blk) (k n : Nat) (h : b.num k + n ≤ typeMax (typeOf b.isLeaf k)) : (b.bump k n).num k = b.num k + n := by
  simp [Blk.bump, Nat.min_eq_left h]

@[simp] theorem Shared.val_setVal_same (h : Shared) (k : Nat) (v : Val) : (h.setVal k v).val k = v := mget_mset_same _ _ _ _

theorem Shared.val_setVal_ne (h : Shared) {k j : Nat} (v : Val) (e : j ≠ k) : (h.setVal k v).val j = h.val j :=
  mget_mset_ne _ _ v e

@[simp] theorem Shared.num_setNum_same (h : Shared) (k n : Nat) : (h.setNum k n).num k = n := by
  simp [Shared.num, Shared.setNum, Val.toNum]

/-! ### The canonical form of a block's tables -/

theorem Blk.wf_setVal {b : Blk} (h : b.wf = true) (k : Nat) (v : Val) : (b.setVal k v).wf = true := by
  simp only [Blk.wf, Bool.and_eq_true] at h ⊢
  exact ⟨mwf_mset h.1 k v, h.2⟩

theorem Blk.wf_setNum {b : Blk} (h : b.wf = true) (k n : Nat) : (b.setNum k n).wf = true := Blk.wf_setVal h k _

theorem Blk.wf_bump {b : Blk} (h : b.wf = true) (k n : Nat) : (b.bump k n).wf = true := Blk.wf_setVal h k _

theorem Blk.wf_emit {b : Blk} (h : b.wf = true) (o : Out) : (b.emit o).wf = true := h

/-- The tables of the machine after reset are in canonical form. -/
theorem State.wf_reset : State.reset.wf = true := by decide

/-- Writes to the mover windows keep their canonical form. -/
theorem Mem.wf_store {m : Mem} (h : m.wf = true) (space off : Nat) (d : List Byte) : (m.store space off d).wf = true := by
  simp only [Mem.wf, Bool.and_eq_true] at h ⊢
  unfold Mem.store
  split
  · exact ⟨mwf_winWrite _ h.1 d off, h.2⟩
  · exact ⟨h.1, mwf_winWrite _ h.2 d off⟩

end Sys2Proof.Machine
end

