-- ==== Sys2Proof/Laws/Glue.lean ====
section
/-! SUPPORT. What follows from every command around its own effect (Machine/Glue.lean), said once: what `State.onCS` and
`State.onLeaf` leave of what the command itself did, and that nothing else of the machine moves. -/

namespace Sys2Proof.Machine

/-! ### Tables without the fault counters -/

theorem mfilter_mdel_out {α : Type} (p : Nat → Bool) (m : NMap α) (k : Nat) (h : p k = false) :
    mfilter p (mdel m k) = mfilter p m := by
  induction m with
  | nil => rfl
  | cons e m ih =>
    obtain ⟨j, y⟩ := e
    simp only [mfilter] at ih
    simp only [mdel]
    split
    · next hk => subst hk; simp [mfilter, h, ih]
    · simp [mfilter, List.filter_cons, ih]

theorem mfilter_mput_out {α : Type} (p : Nat → Bool) (m : NMap α) (k : Nat) (x : α) (h : p k = false) :
    mfilter p (mput m k x) = mfilter p m := by
  induction m with
  | nil => simp [mfilter, mput, h]
  | cons e m ih =>
    obtain ⟨j, y⟩ := e
    simp only [mfilter] at ih
    simp only [mput]
    split
    · simp [mfilter, h]
    · split
      · next h1 h2 => subst h2; simp [mfilter, h]
      · simp [mfilter, List.filter_cons, ih]

theorem mfilter_mset_out {α : Type} [DecidableEq α] (d : Nat → α) (p : Nat → Bool) (m : NMap α) (k : Nat) (x : α)
    (h : p k = false) : mfilter p (mset d m k x) = mfilter p m := by
  unfold mset
  split
  · exact mfilter_mdel_out p m k h
  · exact mfilter_mput_out p m k x h

theorem mget_mfilter_in {α : Type} (d : Nat → α) (p : Nat → Bool) (m : NMap α) (k : Nat) (h : p k = true) :
    mget d (mfilter p m) k = mget d m k := by
  induction m with
  | nil => rfl
  | cons e m ih =>
    obtain ⟨j, y⟩ := e
    by_cases hj : p j = true
    · have e1 : mfilter p ((j, y) :: m) = (j, y) :: mfilter p m := by simp [mfilter, hj]
      simp [e1, mget, ih]
    · have e1 : mfilter p ((j, y) :: m) = mfilter p m := by simp [mfilter, hj]
      have e2 : k ≠ j := fun e => hj (e ▸ h)
      simp [e1, mget, e2, ih]

/-! ### Blocks and channels that differ only around a command -/

theorem Blk.own_setNum {b : Blk} {k : Nat} (n : Nat) (h : isFaultKey k = true) : (b.setNum k n).own = b.own := by
  have e : mfilter (fun k => !isFaultKey k) (b.setNum k n).store = mfilter (fun k => !isFaultKey k) b.store :=
    mfilter_mset_out _ _ _ _ _ (by simp [h])
  simp only [Blk.own, e]
  rfl

theorem Blk.own_bump {b : Blk} {k : Nat} (n : Nat) (h : isFaultKey k = true) : (b.bump k n).own = b.own := Blk.own_setNum _ h

theorem Blk.own_raiseEvt (b : Blk) (k : Nat) : (b.raiseEvt k).own = b.own := by
  unfold Blk.raiseEvt
  split <;> rfl

theorem Blk.own_emit (b : Blk) (o : Out) : (b.emit o).own = b.own := rfl

/-- Equal apart from what happens around a command: an object outside the fault history reads the same. -/
theorem Blk.val_of_own {a b : Blk} (h : a.own = b.own) {k : Nat} (hk : isFaultKey k = false) : a.val k = b.val k := by
  have h1 : a.own.isLeaf = b.own.isLeaf := by rw [h]
  have h2 : a.own.store = b.own.store := by rw [h]
  simp only [Blk.own] at h1 h2
  unfold Blk.val
  rw [← mget_mfilter_in _ (fun k => !isFaultKey k) a.store k (by simp [hk]),
    ← mget_mfilter_in _ (fun k => !isFaultKey k) b.store k (by simp [hk]), h1, h2]

theorem Blk.num_of_own {a b : Blk} (h : a.own = b.own) {k : Nat} (hk : isFaultKey k = false) : a.num k = b.num k :=
  congrArg Val.toNum (Blk.val_of_own h hk)

theorem Blk.bytes_of_own {a b : Blk} (h : a.own = b.own) {k : Nat} (hk : isFaultKey k = false) : a.bytes k = b.bytes k :=
  congrArg Val.toBytes (Blk.val_of_own h hk)

theorem Chan.own_onB {c : Chan} {f : Blk → Blk} (h : (f c.b).own = c.b.own) : (c.onB f).own = c.own := by
  simp only [Chan.own, Chan.onB, h]

theorem Chan.own_deliverHost (c : Chan) (r : Resp) : (c.deliverHost r).own = c.own := by
  unfold Chan.deliverHost
  split
  · rfl
  · simp only [Chan.own, Blk.own_emit, Blk.own_raiseEvt]

theorem Chan.own_deliver (c before : Chan) : (c.deliver before).own = c.own := by
  have key : ∀ (l : List Out) (x : Chan), (l.foldl (fun acc o => match o with
      | .resp .host r => acc.deliverHost r
      | .resp .sideband r => { acc with side := acc.side ++ [respBytes r] }
      | _ => acc) x).own = x.own := by
    intro l
    induction l with
    | nil => intro x; rfl
    | cons o l ih =>
      intro x
      rw [List.foldl_cons, ih]
      split
      · exact Chan.own_deliverHost _ _
      · rfl
      · rfl
  exact key _ c

theorem Chan.own_queueLog (c : Chan) (d : List Byte) (p : Bool) (ty : Nat) : (c.queueLog d p ty).own = c.own := by
  unfold Chan.queueLog
  split
  · exact Chan.own_onB (Blk.own_bump _ (by decide))
  · rfl

theorem Chan.own_countLocs (c : Chan) : c.countLocs.own = c.own :=
  Chan.own_onB ((Blk.own_setNum _ (by decide)).trans (Blk.own_setNum _ (by decide)))

theorem Chan.own_wantFence (c : Chan) (loc : Nat) : (c.wantFence loc).own = c.own := by
  simp only [Chan.wantFence]
  split <;> split <;> rfl

theorem Chan.own_takeEvent (c : Chan) (d : List Byte) (r : Bool) : (c.takeEvent d r).own = c.own := by
  have e0 : (c.onB (·.bump K.fltRecordsTaken)).own = c.own := Chan.own_onB (Blk.own_bump _ (by decide))
  simp only [Chan.takeEvent]
  split
  · rw [Chan.own_queueLog, Chan.own_onB (Blk.own_bump _ (by decide)), e0]
  · next h0 _ =>
    generalize hc1 : Chan.countLocs _ = c1
    have e1 : c1.own = c.own := by
      rw [← hc1, Chan.own_countLocs]
      exact e0
    split
    · rw [Chan.own_wantFence, Chan.own_onB (Blk.own_raiseEvt _ _)]
      split
      · rw [Chan.own_queueLog, e1]
      · exact e1
    · split
      · rw [Chan.own_queueLog, e1]
      · exact e1

theorem Chan.own_drainFaults (c : Chan) : c.drainFaults.own = c.own := by
  have key : ∀ (l : List (List Byte)) (x : Chan), (l.foldl (fun acc d => acc.takeEvent d (startKind d)) x).own = x.own := by
    intro l
    induction l with
    | nil => intro x; rfl
    | cons o l ih => intro x; rw [List.foldl_cons, ih, Chan.own_takeEvent]
  exact key _ _

theorem Chan.own_sendOp (c : Chan) (r : Remote) : (c.sendOp r).own = c.own := by
  unfold Chan.sendOp
  split <;> rfl

theorem Chan.own_remoteTxn (c : Chan) (d : Word) (p : Purpose) (ws : List Wr) (a : Nat) : (c.remoteTxn d p ws a).own = c.own :=
  Chan.own_sendOp _ _

theorem Chan.own_sendAuthority (c : Chan) (w : Wr) (a : Nat) : (c.sendAuthority w a).own = c.own := by
  have key : ∀ (l : List Child) (x : Chan), (l.foldl (fun acc y => acc.remoteTxn y.addr .plain [w] a) x).own = x.own := by
    intro l
    induction l with
    | nil => intro x; rfl
    | cons o l ih => intro x; rw [List.foldl_cons, ih, Chan.own_remoteTxn]
  exact key _ c

theorem Chan.own_spreadAuthority (c before : Chan) : (c.spreadAuthority before).own = c.own := by
  have key : ∀ (l : List (Wr × Nat)) (x : Chan), (l.foldl (fun acc p => acc.sendAuthority p.1 p.2) x).own = x.own := by
    intro l
    induction l with
    | nil => intro x; rfl
    | cons o l ih => intro x; rw [List.foldl_cons, ih, Chan.own_sendAuthority]
  exact key _ c

/-! ### What crossed the ports only grows -/

theorem Chan.out_deliver (c before : Chan) : c.b.out <+: (c.deliver before).b.out := by
  have one : ∀ (x : Chan) (r : Resp), x.b.out <+: (x.deliverHost r).b.out := by
    intro x r
    unfold Chan.deliverHost
    split
    · exact List.prefix_refl _
    · refine ⟨[.mailbox], ?_⟩
      simp only [Blk.emit, Blk.raiseEvt]
      split <;> rfl
  have key : ∀ (l : List Out) (x : Chan), x.b.out <+: (l.foldl (fun acc o => match o with
      | .resp .host r => acc.deliverHost r
      | .resp .sideband r => { acc with side := acc.side ++ [respBytes r] }
      | _ => acc) x).b.out := by
    intro l
    induction l with
    | nil => intro x; exact List.prefix_refl _
    | cons o l ih =>
      intro x
      rw [List.foldl_cons]
      refine List.IsPrefix.trans ?_ (ih _)
      split
      · exact one _ _
      · exact List.prefix_refl _
      · exact List.prefix_refl _
  exact key _ c

theorem Blk.out_raiseEvt (b : Blk) (k : Nat) : (b.raiseEvt k).out = b.out := by
  unfold Blk.raiseEvt
  split <;> rfl

theorem Chan.out_queueLog (c : Chan) (d : List Byte) (p : Bool) (ty : Nat) : (c.queueLog d p ty).b.out = c.b.out := by
  unfold Chan.queueLog
  split <;> rfl

theorem Chan.out_wantFence (c : Chan) (loc : Nat) : (c.wantFence loc).b.out = c.b.out := by
  simp only [Chan.wantFence]
  split <;> split <;> rfl

theorem Chan.out_takeEvent (c : Chan) (d : List Byte) (r : Bool) : (c.takeEvent d r).b.out = c.b.out := by
  simp only [Chan.takeEvent]
  split
  · rw [Chan.out_queueLog]; rfl
  · next h0 _ =>
    generalize hc1 : Chan.countLocs _ = c1
    have e1 : c1.b.out = c.b.out := by rw [← hc1]; rfl
    split
    · rw [Chan.out_wantFence]
      show ((Chan.b _).raiseEvt _).out = _
      rw [Blk.out_raiseEvt]
      split
      · rw [Chan.out_queueLog, e1]
      · exact e1
    · split
      · rw [Chan.out_queueLog, e1]
      · exact e1

theorem Chan.out_drainFaults (c : Chan) : c.drainFaults.b.out = c.b.out := by
  have key : ∀ (l : List (List Byte)) (x : Chan), (l.foldl (fun acc d => acc.takeEvent d (startKind d)) x).b.out = x.b.out := by
    intro l
    induction l with
    | nil => intro x; rfl
    | cons o l ih => intro x; rw [List.foldl_cons, ih, Chan.out_takeEvent]
  exact key _ _

theorem Chan.out_sendOp (c : Chan) (r : Remote) : c.b.out <+: (c.sendOp r).b.out := by
  unfold Chan.sendOp
  split
  · exact List.prefix_refl _
  · exact ⟨_, rfl⟩

theorem Chan.out_sendAuthority (c : Chan) (w : Wr) (a : Nat) : c.b.out <+: (c.sendAuthority w a).b.out := by
  have key : ∀ (l : List Child) (x : Chan), x.b.out <+: (l.foldl (fun acc y => acc.remoteTxn y.addr .plain [w] a) x).b.out := by
    intro l
    induction l with
    | nil => intro x; exact List.prefix_refl _
    | cons o l ih => intro x; rw [List.foldl_cons]; exact List.IsPrefix.trans (Chan.out_sendOp _ _) (ih _)
  exact key _ c

theorem Chan.out_spreadAuthority (c before : Chan) : c.b.out <+: (c.spreadAuthority before).b.out := by
  have key : ∀ (l : List (Wr × Nat)) (x : Chan), x.b.out <+: (l.foldl (fun acc p => acc.sendAuthority p.1 p.2) x).b.out := by
    intro l
    induction l with
    | nil => intro x; exact List.prefix_refl _
    | cons o l ih => intro x; rw [List.foldl_cons]; exact List.IsPrefix.trans (Chan.out_sendAuthority _ _ _) (ih _)
  exact key _ c

/-! ### Event flags stay -/

/-- Every event flag of `a` is set in `b`. -/
def Blk.EvtLe (a b : Blk) : Prop := ∀ k, a.evt.getLsbD k = true → b.evt.getLsbD k = true

theorem Blk.evtLe_of_eq {a b : Blk} (h : b.evt = a.evt) : a.EvtLe b := fun k hk => by rw [h]; exact hk

theorem Blk.EvtLe.trans {a b c : Blk} (h : a.EvtLe b) (g : b.EvtLe c) : a.EvtLe c := fun k hk => g k (h k hk)

theorem Blk.evtLe_raiseEvt (b : Blk) (k : Nat) : b.EvtLe (b.raiseEvt k) := by
  unfold Blk.raiseEvt
  split
  · exact Blk.evtLe_of_eq rfl
  · intro j hj
    simp only [BitVec.getLsbD_or, hj, Bool.true_or]

/-- A channel that raises an event has it set. -/
theorem Blk.raiseEvt_set {b : Blk} {k : Nat} (h : b.isLeaf = false) (hk : k < 8) : (b.raiseEvt k).evt.getLsbD k = true := by
  unfold Blk.raiseEvt
  rw [if_neg (by simp [h])]
  simp only [BitVec.getLsbD_or, BitVec.getLsbD_ofNat, Nat.testBit_two_pow_self, hk, decide_true, Bool.and_true, Bool.or_true]

theorem Chan.evt_deliver (c before : Chan) : c.b.EvtLe (c.deliver before).b := by
  have one : ∀ (x : Chan) (r : Resp), x.b.EvtLe (x.deliverHost r).b := by
    intro x r
    unfold Chan.deliverHost
    split
    · exact Blk.evtLe_of_eq rfl
    · exact Blk.EvtLe.trans (Blk.evtLe_raiseEvt x.b irqMailbox) (Blk.evtLe_of_eq rfl)
  have key : ∀ (l : List Out) (x : Chan), x.b.EvtLe (l.foldl (fun acc o => match o with
      | .resp .host r => acc.deliverHost r
      | .resp .sideband r => { acc with side := acc.side ++ [respBytes r] }
      | _ => acc) x).b := by
    intro l
    induction l with
    | nil => intro x; exact Blk.evtLe_of_eq rfl
    | cons o l ih =>
      intro x
      rw [List.foldl_cons]
      refine Blk.EvtLe.trans ?_ (ih _)
      split
      · exact one _ _
      · exact Blk.evtLe_of_eq rfl
      · exact Blk.evtLe_of_eq rfl
  exact key _ c

theorem Chan.evt_queueLog (c : Chan) (d : List Byte) (p : Bool) (ty : Nat) : (c.queueLog d p ty).b.evt = c.b.evt := by
  unfold Chan.queueLog
  split <;> rfl

theorem Chan.evt_wantFence (c : Chan) (loc : Nat) : (c.wantFence loc).b.evt = c.b.evt := by
  simp only [Chan.wantFence]
  split <;> split <;> rfl

theorem Chan.evt_takeEvent (c : Chan) (d : List Byte) (r : Bool) : c.b.EvtLe (c.takeEvent d r).b := by
  simp only [Chan.takeEvent]
  split
  · exact Blk.evtLe_of_eq (by rw [Chan.evt_queueLog]; rfl)
  · next h0 _ =>
    generalize hc1 : Chan.countLocs _ = c1
    have e1 : c1.b.evt = c.b.evt := by rw [← hc1]; rfl
    split
    · refine Blk.EvtLe.trans ?_ (Blk.EvtLe.trans (Blk.evtLe_raiseEvt _ irqFault) (Blk.evtLe_of_eq ((Chan.evt_wantFence _ _).trans rfl)))
      split
      · exact Blk.evtLe_of_eq (by rw [Chan.evt_queueLog, e1])
      · exact Blk.evtLe_of_eq e1
    · split
      · exact Blk.evtLe_of_eq (by rw [Chan.evt_queueLog, e1])
      · exact Blk.evtLe_of_eq e1

theorem Chan.evt_drainFaults (c : Chan) : c.b.EvtLe c.drainFaults.b := by
  have key : ∀ (l : List (List Byte)) (x : Chan), x.b.EvtLe (l.foldl (fun acc d => acc.takeEvent d (startKind d)) x).b := by
    intro l
    induction l with
    | nil => intro x; exact Blk.evtLe_of_eq rfl
    | cons o l ih => intro x; rw [List.foldl_cons]; exact Blk.EvtLe.trans (Chan.evt_takeEvent _ _ _) (ih _)
  exact key c.faultIn { c with faultIn := [] }

theorem Chan.evt_sendOp (c : Chan) (r : Remote) : (c.sendOp r).b.evt = c.b.evt := by
  unfold Chan.sendOp
  split <;> rfl

theorem Chan.evt_sendAuthority (c : Chan) (w : Wr) (a : Nat) : c.b.EvtLe (c.sendAuthority w a).b := by
  have key : ∀ (l : List Child) (x : Chan), x.b.EvtLe (l.foldl (fun acc y => acc.remoteTxn y.addr .plain [w] a) x).b := by
    intro l
    induction l with
    | nil => intro x; exact Blk.evtLe_of_eq rfl
    | cons o l ih => intro x; rw [List.foldl_cons]; exact Blk.EvtLe.trans (Blk.evtLe_of_eq (Chan.evt_sendOp _ _)) (ih _)
  exact key _ c

theorem Chan.evt_spreadAuthority (c before : Chan) : c.b.EvtLe (c.spreadAuthority before).b := by
  have key : ∀ (l : List (Wr × Nat)) (x : Chan), x.b.EvtLe (l.foldl (fun acc p => acc.sendAuthority p.1 p.2) x).b := by
    intro l
    induction l with
    | nil => intro x; exact Blk.evtLe_of_eq rfl
    | cons o l ih => intro x; rw [List.foldl_cons]; exact Blk.EvtLe.trans (Chan.evt_sendAuthority _ _ _) (ih _)
  exact key _ c

/-! ### The machine around a command -/

/-- From `s` to `t` only that has happened which follows around a command of channel `c`. -/
structure State.Around (c : Ch) (s t : State) : Prop where
  pending : t.pending = s.pending
  leaf : t.leaf = { s.leaf with leaveAt := t.leaf.leaveAt }
  own : (t.chan c).own = (s.chan c).own
  out : (s.chan c).b.out <+: (t.chan c).b.out
  evt : (s.chan c).b.EvtLe (t.chan c).b
  apart : ∀ d, d ≠ c → (t.chan d).apart = (s.chan d).apart
  sh : t.sh.own = s.sh.own

theorem State.Around.refl (c : Ch) (s : State) : State.Around c s s :=
  ⟨rfl, rfl, rfl, List.prefix_refl _, fun _ hk => hk, fun _ _ => rfl, rfl⟩

theorem State.Around.trans {c : Ch} {s t u : State} (a : State.Around c s t) (b : State.Around c t u) : State.Around c s u :=
  ⟨b.pending.trans a.pending, by rw [b.leaf, a.leaf], b.own.trans a.own, a.out.trans b.out, a.evt.trans b.evt,
    fun d h => (b.apart d h).trans (a.apart d h), b.sh.trans a.sh⟩

/-- Only channels' flash changes. -/
theorem State.around_flash (c : Ch) (s : State) (f : Chan → List FlashRec) :
    State.Around c s { s with ch := s.ch.map (fun (x : Chan) => { x with flash := f x }) } := by
  refine ⟨rfl, rfl, ?_, ?_, ?_, ?_, rfl⟩
  · simp only [State.chan, Quad.get_map]; rfl
  · simp only [State.chan, Quad.get_map]; exact List.prefix_refl _
  · simp only [State.chan, Quad.get_map]; exact fun _ hk => hk
  · intro d _; simp only [State.chan, Quad.get_map]; rfl

theorem Chan.foldl_flash {α : Type} (g : Chan → α → Chan) (hg : ∀ x a, g x a = { x with flash := (g x a).flash }) (l : List α) :
    ∀ x : Chan, l.foldl g x = { x with flash := (l.foldl g x).flash } := by
  induction l with
  | nil => intro x; rfl
  | cons a l ih =>
    intro x
    have h1 := ih (g x a)
    rw [List.foldl_cons, h1, hg x a]

theorem State.around_dropStale (c : Ch) (s : State) (node : Chan → Word) (l : List (Word × Word)) :
    State.Around c s (s.dropStale node l) := by
  unfold State.dropStale
  split
  · exact .refl c s
  · have e : (fun (x : Chan) => l.foldl (fun a p => a.dropPending (node x) p.1 p.2) x) =
        (fun (x : Chan) => { x with flash := (l.foldl (fun a p => a.dropPending (node x) p.1 p.2) x).flash }) := by
      funext x
      exact Chan.foldl_flash (fun a p => a.dropPending (node x) p.1 p.2) (fun _ _ => rfl) l x
    rw [e]
    exact State.around_flash c s _

@[simp] theorem State.dropStale_pending (s : State) (node : Chan → Word) (l : List (Word × Word)) :
    (s.dropStale node l).pending = s.pending := by unfold State.dropStale; split <;> rfl

@[simp] theorem State.dropStale_leaf (s : State) (node : Chan → Word) (l : List (Word × Word)) :
    (s.dropStale node l).leaf = s.leaf := by unfold State.dropStale; split <;> rfl

@[simp] theorem State.dropStale_sh (s : State) (node : Chan → Word) (l : List (Word × Word)) :
    (s.dropStale node l).sh = s.sh := by unfold State.dropStale; split <;> rfl

theorem State.around_promoteOne (c : Ch) (s : State) (t : Word × Word) : State.Around c s (s.promoteOne t) := by
  simp only [State.promoteOne]
  split
  · exact .refl c s
  · have h := State.around_flash c s (fun x => (x.promote x.b.hostAddr t.1 t.2).flash)
    exact ⟨h.pending, h.leaf, h.own, h.out, h.evt, h.apart, rfl⟩

theorem State.around_promoteAll (c : Ch) (s : State) : State.Around c s s.promoteAll := by
  have key : ∀ (l : List (Word × Word)) (x : State), State.Around c x (l.foldl State.promoteOne x) := by
    intro l
    induction l with
    | nil => intro x; exact .refl c x
    | cons t l ih => intro x; exact (State.around_promoteOne c x t).trans (ih _)
  have h := key s.sh.currents s
  exact ⟨h.pending, h.leaf, h.own, h.out, h.evt, h.apart, h.sh⟩

theorem State.around_tellLeaf (c d : Ch) (s : State) : State.Around c s (s.tellLeaf d) := by
  unfold State.tellLeaf
  split
  · exact .refl c s
  · split
    · exact ⟨rfl, rfl, rfl, List.prefix_refl _, fun _ hk => hk, fun _ _ => rfl, rfl⟩
    · exact .refl c s

theorem Shared.own_setNum (h : Shared) (k n : Nat) : (h.setNum k n).own = h.own := rfl

theorem Shared.own_raiseTarget (h : Shared) (l : List Nat) : (h.raiseTarget l).own = h.own := by
  simp only [Shared.raiseTarget, Shared.setTarget]
  split
  · split <;> rfl
  · rfl

theorem State.around_settle (c : Ch) (s : State) : State.Around c s s.settle := by
  unfold State.settle
  split
  · exact .refl c s
  · refine ⟨rfl, rfl, rfl, List.prefix_refl _, fun _ hk => hk, fun _ _ => rfl, ?_⟩
    show (Shared.raiseTarget _ _).own = _
    rw [Shared.own_raiseTarget]
    split <;> rfl

/-- A channel is replaced by one that differs only around a command. -/
theorem State.around_putChan (s : State) (c : Ch) (x : Chan) (h : x.own = (s.chan c).own) (ho : (s.chan c).b.out <+: x.b.out)
    (he : (s.chan c).b.EvtLe x.b) : State.Around c s (s.putChan c x) := by
  refine ⟨rfl, rfl, ?_, ?_, ?_, ?_, rfl⟩
  · rw [State.chan_putChan_same, h]
  · rw [State.chan_putChan_same]; exact ho
  · rw [State.chan_putChan_same]; exact he
  · intro d hd; rw [State.chan_putChan_ne s x hd]

/-- Stores that another channel begins. -/
theorem State.around_jobs (s : State) (c d : Ch) (h : d ≠ c) (js : List FlashJob) :
    State.Around c s (s.putChan d ((s.chan d).onB (fun x => { x with jobs := x.jobs ++ js }))) := by
  refine ⟨rfl, rfl, ?_, ?_, ?_, ?_, rfl⟩
  · rw [State.chan_putChan_ne s _ (Ne.symm h)]
  · rw [State.chan_putChan_ne s _ (Ne.symm h)] <;> exact List.prefix_refl _
  · rw [State.chan_putChan_ne s _ (Ne.symm h)]; exact fun _ hk => hk
  · intro e _
    by_cases he : e = d
    · subst he; rw [State.chan_putChan_same]; rfl
    · rw [State.chan_putChan_ne s _ he]

theorem State.around_fanOut (s : State) (c : Ch) : State.Around c s (s.fanOut c) := by
  have key : ∀ (js : List FlashJob) (l : List Ch) (_ : ∀ d ∈ l, d ≠ c) (x : State), State.Around c x (l.foldl (fun (acc : State) d =>
      acc.putChan d ((acc.chan d).onB (fun x => { x with jobs := x.jobs ++ js }))) x) := by
    intro js l
    induction l with
    | nil => intro _ x; exact .refl c x
    | cons d l ih =>
      intro hl x
      exact (State.around_jobs x c d (hl d (by simp)) js).trans (ih (fun e he => hl e (by simp [he])) _)
  simp only [State.fanOut]
  split
  · exact .refl c s
  · have h1 : ∀ (b1 : Blk), b1.own = (s.chan c).b.own → b1.out = (s.chan c).b.out → b1.evt = (s.chan c).b.evt →
        State.Around c s (s.putChan c { s.chan c with b := b1 }) := by
      intro b1 hb ho he
      refine State.around_putChan s c _ ?_ ?_ (Blk.evtLe_of_eq he)
      · simp only [Chan.own, hb]
      · rw [ho] <;> exact List.prefix_refl _
    have h2 : ∀ (x : State) (g : Nat), State.Around c s x → State.Around c s { x with sh := { x.sh with gen := g } } :=
      fun x g h => h.trans ⟨rfl, rfl, rfl, List.prefix_refl _, fun _ hk => hk, fun _ _ => rfl, rfl⟩
    apply h2
    refine State.Around.trans ?_ (key _ _ ?_ _)
    · refine h1 _ ?_ ?_ ?_
      · simp only [Blk.own, List.map_map]
        rfl
      · rfl
      · rfl
    · intro d hd
      have := (List.mem_filter.mp hd).2
      simp only [Bool.and_eq_true, bne_iff_ne] at this
      exact this.1

/-- What follows a command of channel `c`: the command's own effect stands. -/
theorem State.around_afterChan (s : State) (c : Ch) (before : Chan) : State.Around c s (s.afterChan c before) := by
  simp only [State.afterChan]
  generalize hs1 : State.dropStale (State.dropStale s _ _) _ _ = s1
  have h0 : State.Around c s s1 := by
    rw [← hs1]
    exact (State.around_dropStale c s _ _).trans (State.around_dropStale c _ _ _)
  have h1 : State.Around c s1 (s1.putChan c ((((s1.chan c).deliver before).drainFaults).spreadAuthority before)) := by
    refine State.around_putChan s1 c _ ?_ ?_ ?_
    · rw [Chan.own_spreadAuthority, Chan.own_drainFaults, Chan.own_deliver]
    · refine List.IsPrefix.trans ?_ (Chan.out_spreadAuthority _ _)
      rw [Chan.out_drainFaults]
      exact Chan.out_deliver _ _
    · exact (Chan.evt_deliver _ _).trans ((Chan.evt_drainFaults _).trans (Chan.evt_spreadAuthority _ _))
  refine State.Around.trans ?_ (State.around_settle c _)
  refine State.Around.trans ?_ (State.around_dropStale c _ _ _)
  refine State.Around.trans ?_ (State.around_dropStale c _ _ _)
  refine State.Around.trans ?_ (State.around_promoteAll c _)
  refine State.Around.trans ?_ (State.around_tellLeaf c c _)
  refine State.Around.trans ?_ (State.around_fanOut _ c)
  refine h0.trans ?_
  split
  · exact h1.trans ⟨rfl, rfl, rfl, List.prefix_refl _, fun _ hk => hk, fun _ _ => rfl, rfl⟩
  · exact h1

/-! ### A command on a channel -/

section
variable (s : State) (c : Ch) (f : CS → CS)

/-- What a command on a channel with the shared logic does: its own effect stands, and nothing else of the machine moves. -/
theorem State.around_onCS :
    State.Around c ({ s with sh := (f { ch := s.chan c, sh := s.sh }).sh }.putChan c (f { ch := s.chan c, sh := s.sh }).ch)
      (s.onCS c f) := State.around_afterChan _ c _

@[simp] theorem State.onCS_pending : (s.onCS c f).pending = s.pending := (State.around_onCS s c f).pending

theorem State.onCS_leaf : (s.onCS c f).leaf = { s.leaf with leaveAt := (s.onCS c f).leaf.leaveAt } :=
  (State.around_onCS s c f).leaf

theorem State.onCS_own : ((s.onCS c f).chan c).own = (f { ch := s.chan c, sh := s.sh }).ch.own := by
  have h := (State.around_onCS s c f).own
  rwa [State.chan_putChan_same] at h

theorem State.onCS_out : (f { ch := s.chan c, sh := s.sh }).ch.b.out <+: ((s.onCS c f).chan c).b.out := by
  have h := (State.around_onCS s c f).out
  rwa [State.chan_putChan_same] at h

theorem State.onCS_evt : (f { ch := s.chan c, sh := s.sh }).ch.b.EvtLe ((s.onCS c f).chan c).b := by
  have h := (State.around_onCS s c f).evt
  rwa [State.chan_putChan_same] at h

theorem State.onCS_apart {d : Ch} (hd : d ≠ c) : ((s.onCS c f).chan d).apart = (s.chan d).apart := by
  have h := (State.around_onCS s c f).apart d hd
  rwa [State.chan_putChan_ne _ _ hd] at h

theorem State.onCS_sh : (s.onCS c f).sh.own = (f { ch := s.chan c, sh := s.sh }).sh.own := (State.around_onCS s c f).sh

end

section
variable (s : State) (c : Ch) (f : Chan → Chan)

theorem State.onChan_own : ((s.onChan c f).chan c).own = (f (s.chan c)).own := State.onCS_own s c _

theorem State.onChan_out : (f (s.chan c)).b.out <+: ((s.onChan c f).chan c).b.out := State.onCS_out s c (fun x => x.on f)

theorem State.onChan_evt : (f (s.chan c)).b.EvtLe ((s.onChan c f).chan c).b := State.onCS_evt s c (fun x => x.on f)

theorem State.onChan_sh : (s.onChan c f).sh.own = s.sh.own := State.onCS_sh s c _

@[simp] theorem State.onChan_pending : (s.onChan c f).pending = s.pending := State.onCS_pending s c _

theorem State.onChan_leaf : (s.onChan c f).leaf = { s.leaf with leaveAt := (s.onChan c f).leaf.leaveAt } := State.onCS_leaf s c _

theorem State.onChan_apart {d : Ch} (hd : d ≠ c) : ((s.onChan c f).chan d).apart = (s.chan d).apart := State.onCS_apart s c _ hd

@[simp] theorem State.atWork_pending : (s.atWork c f).pending = s.pending := by
  unfold State.atWork
  split <;> simp

/-- A command on a channel whose units work. -/
theorem State.atWork_own (h : (s.chan c).b.works = true) : ((s.atWork c f).chan c).own = (f (s.chan c)).own := by
  rw [State.atWork, if_pos h, State.onChan_own]

end

/-! ### A command on the leaf -/

theorem State.foldl_onChan {α : Type} (c : Ch) (g : α → Chan → Chan) (l : List α) : ∀ s : State,
    (l.foldl (fun (acc : State) a => acc.onChan c (g a)) s).pending = s.pending ∧
    (l.foldl (fun (acc : State) a => acc.onChan c (g a)) s).leaf.own = s.leaf.own ∧
    (l.foldl (fun (acc : State) a => acc.onChan c (g a)) s).sh.own = s.sh.own ∧
    ∀ d, d ≠ c → ((l.foldl (fun (acc : State) a => acc.onChan c (g a)) s).chan d).apart = (s.chan d).apart := by
  induction l with
  | nil => intro s; exact ⟨rfl, rfl, rfl, fun _ _ => rfl⟩
  | cons a l ih =>
    intro s
    obtain ⟨h1, h2, h3, h4⟩ := ih (s.onChan c (g a))
    refine ⟨h1.trans (by simp), h2.trans (by rw [State.onChan_leaf]; rfl), h3.trans (State.onChan_sh s c _), ?_⟩
    intro d hd
    exact (h4 d hd).trans (State.onChan_apart s c _ hd)

theorem State.takeNotices_pending (s : State) : s.takeNotices.pending = s.pending ∧ s.takeNotices.leaf.own = s.leaf.own ∧
    s.takeNotices.sh.own = s.sh.own := by
  simp only [State.takeNotices]
  split
  · exact ⟨rfl, rfl, rfl⟩
  · split
    · next c _ =>
      obtain ⟨h1, h2, h3, _⟩ := State.foldl_onChan c (fun (n : List Byte) x => x.routing s.leaf.id (s.leaf.b.num K.routingSubscriber) n)
        s.leaf.notices { s with leaf := { s.leaf with notices := [] } }
      exact ⟨h1, h2, h3⟩
    · refine ⟨rfl, ?_, rfl⟩
      have key : ∀ (g : List Byte → Out) (l : List (List Byte)) (b : Blk), { l.foldl (fun b n => b.emit (g n)) b with out := [] } =
          ({ b with out := [] } : Blk) := by
        intro g l
        induction l with
        | nil => intro b; rfl
        | cons a l ih => intro b; rw [List.foldl_cons, ih]; rfl
      simp only [Leaf.own]
      rw [key]

theorem State.takeStores_pending (s : State) : s.takeStores.pending = s.pending ∧ s.takeStores.leaf.own = s.leaf.own ∧
    s.takeStores.sh.own = s.sh.own := by
  simp only [State.takeStores]
  split
  · exact ⟨rfl, rfl, rfl⟩
  · split
    · exact ⟨rfl, rfl, rfl⟩
    · next c _ =>
      obtain ⟨h1, h2, h3, _⟩ := State.foldl_onChan c (fun (j : FlashJob) x => x.storeDone s.leaf.b.addr j)
        s.leaf.stores { s with leaf := { s.leaf with stores := [], currents := [] } }
      obtain ⟨g1, g2, g3, _⟩ := State.foldl_onChan c (fun (t : Word × Word) x => x.promote s.leaf.b.addr t.1 t.2) s.leaf.currents
        (s.leaf.stores.foldl (fun (acc : State) j => acc.onChan c (fun x => x.storeDone s.leaf.b.addr j))
          { s with leaf := { s.leaf with stores := [], currents := [] } })
      exact ⟨g1.trans h1, g2.trans h2, g3.trans h3⟩

section
variable (s : State) (f : Leaf → Leaf)

@[simp] theorem State.onLeaf_pending : (s.onLeaf f).pending = s.pending := by
  unfold State.onLeaf
  rw [State.dropStale_pending, (State.takeStores_pending _).1, (State.takeNotices_pending _).1, State.dropStale_pending]

/-- A command on the leaf: its own effect stands. -/
theorem State.onLeaf_own : (s.onLeaf f).leaf.own = (f s.leaf).own := by
  unfold State.onLeaf
  rw [State.dropStale_leaf, (State.takeStores_pending _).2.1, (State.takeNotices_pending _).2.1, State.dropStale_leaf]

theorem State.onLeaf_sh : (s.onLeaf f).sh.own = s.sh.own := by
  unfold State.onLeaf
  rw [State.dropStale_sh, (State.takeStores_pending _).2.2, (State.takeNotices_pending _).2.2, State.dropStale_sh]

/-- A command on the leaf while its units work. -/
theorem State.leafWork_own (h : s.leaf.b.works = true) : (s.leafWork f).leaf.own = (f s.leaf).own := by
  rw [State.leafWork, if_pos h, State.onLeaf_own]

end

section
variable (s : State) (c : Ch) (f : CS → CS)

/-- What a command on a channel leaves alone. -/
theorem State.onCS_beside (h : (f { ch := s.chan c, sh := s.sh }).sh.own = s.sh.own) : State.beside c s (s.onCS c f) :=
  ⟨by rw [State.onCS_leaf]; rfl, (State.onCS_sh s c f).trans h, fun _ hd => State.onCS_apart s c f hd⟩

theorem State.onChan_beside (g : Chan → Chan) : State.beside c s (s.onChan c g) := State.onCS_beside s c _ rfl

theorem State.beside_refl : State.beside c s s := ⟨rfl, rfl, fun _ _ => rfl⟩

theorem State.atWork_beside (g : Chan → Chan) : State.beside c s (s.atWork c g) := by
  unfold State.atWork
  split
  · exact State.onChan_beside s c g
  · exact State.beside_refl s c

end

section
variable (s : State) (f : Leaf → Leaf)

/-- What the leaf puts out stays put out. -/
theorem State.onLeaf_out : (f s.leaf).b.out <+: (s.onLeaf f).leaf.b.out := by
  have fold : ∀ {α : Type} (c : Ch) (g : α → Chan → Chan) (l : List α) (x : State),
      (l.foldl (fun (acc : State) a => acc.onChan c (g a)) x).leaf.b = x.leaf.b := by
    intro α c g l
    induction l with
    | nil => intro x; rfl
    | cons a l ih => intro x; rw [List.foldl_cons, ih, State.onChan_leaf]
  have put : ∀ (g : List Byte → Out) (l : List (List Byte)) (b : Blk), b.out <+: (l.foldl (fun b n => b.emit (g n)) b).out := by
    intro g l
    induction l with
    | nil => intro b; exact List.prefix_refl _
    | cons a l ih => intro b; rw [List.foldl_cons]; exact List.IsPrefix.trans ⟨[g a], rfl⟩ (ih (b.emit (g a)))
  simp only [State.onLeaf]
  generalize hd : State.dropStale { s with leaf := f s.leaf } (fun _ => (f s.leaf).b.addr) ((f s.leaf).b.begun s.leaf.b) = s1
  have h1 : s1.leaf.b.out = (f s.leaf).b.out := by
    rw [← hd, (State.around_dropStale 0 { s with leaf := f s.leaf } (fun _ => (f s.leaf).b.addr) ((f s.leaf).b.begun s.leaf.b)).leaf]
  have h2 : s1.leaf.b.out <+: s1.takeNotices.leaf.b.out := by
    simp only [State.takeNotices]
    split
    · exact List.prefix_refl _
    · split
      · rw [fold] <;> exact List.prefix_refl _
      · exact put _ _ _
  have h3 : ∀ x : State, x.takeStores.leaf.b.out = x.leaf.b.out := by
    intro x
    simp only [State.takeStores]
    split
    · rfl
    · split
      · rfl
      · rw [fold, fold]
  rw [State.dropStale_leaf, h3, ← h1]
  exact h2

/-- A leaf that hands nothing over leaves the channels alone. -/
theorem State.onLeaf_beside (h : (f s.leaf).handed = true) : State.besideLeaf s (s.onLeaf f) := by
  simp only [Leaf.handed, Bool.and_eq_true] at h
  refine ⟨State.onLeaf_sh s f, ?_⟩
  simp only [State.onLeaf]
  generalize hd : State.dropStale { s with leaf := f s.leaf } (fun _ => (f s.leaf).b.addr) ((f s.leaf).b.begun s.leaf.b) = s1
  have around : ∀ c, State.Around c { s with leaf := f s.leaf } s1 := fun c => by rw [← hd]; exact State.around_dropStale c _ _ _
  have h1 : s1.leaf.notices = (f s.leaf).notices ∧ s1.leaf.stores = (f s.leaf).stores ∧ s1.leaf.currents = (f s.leaf).currents := by
    rw [(around 0).leaf]
    exact ⟨rfl, rfl, rfl⟩
  have h2 : s1.takeNotices = s1 := by
    simp only [State.takeNotices]
    rw [if_pos (by rw [h1.1]; exact h.1.1)]
  have h3 : s1.takeStores = s1 := by
    simp only [State.takeStores]
    rw [if_pos (by rw [h1.2.1, h1.2.2]; simp [h.1.2, h.2])]
  rw [h2, h3]
  intro c
  have hne : ∃ d : Ch, c ≠ d := ⟨if c = 0 then 1 else 0, by revert c; decide⟩
  obtain ⟨d, hcd⟩ := hne
  exact ((State.around_dropStale d _ _ _).apart c hcd).trans ((around d).apart c hcd)

theorem State.leafWork_beside (h : (f s.leaf).handed = true) : State.besideLeaf s (s.leafWork f) := by
  unfold State.leafWork
  split
  · exact State.onLeaf_beside s f h
  · exact ⟨rfl, fun _ => rfl⟩

end

theorem Leaf.val_of_own {a b : Leaf} (h : a.own = b.own) (k : Nat) : a.b.val k = b.b.val k := by
  have h1 : a.own.b.val k = b.own.b.val k := by rw [h]
  exact h1

end Sys2Proof.Machine
end

