-- ==== Sys2Proof/Laws/Rows.lean ====
section
/-! SUPPORT. A write of one object that passes its checks takes effect: the effect of the object stands in what follows, and the act
leaves the block with status OK. -/

namespace Sys2Proof.Machine

theorem rowAct_passed {σ : Type} (E : Env σ) (s : σ) (src : Word) (key : Nat) (v x : Val) (act : σ → Val → σ)
    (h1 : (E.blk s).takes key = true) (h2 : rowStatus E (E.upd s (fun b => { b with applying := true })) src key v = (stOk, x)) :
    rowAct E s src key v act =
      E.upd (act (E.upd s (fun b => { b with applying := true })) x) (fun b => ({ b with applying := false }).emit (.act key stOk)) := by
  unfold rowAct
  rw [if_neg (by simp [h1])]
  dsimp only
  rw [h2]
  rfl

/-- The effect of an accepted write on a channel: under the checks of R93, and with the act noted. -/
theorem Chan.row_passed {c : Chan} {h : Shared} {key : Nat} {v : Val} (f : Chan → Val → Chan) (hp : c.passes h key v = true) :
    rowAct chanEnv { ch := c, sh := h } c.b.hostAddr key v (fun t x => t.on (fun y => f y x)) =
      { ch := (f (c.onB (fun b => { b with applying := true })) v).onB (fun b => ({ b with applying := false }).emit (.act key stOk)),
        sh := h } := by
  simp only [Chan.passes, Bool.and_eq_true, decide_eq_true_eq] at hp
  obtain ⟨h1, h2⟩ := hp
  exact rowAct_passed chanEnv _ _ _ _ _ _ h1 h2

/-- The effect of an accepted write on the leaf. -/
theorem Leaf.row_passed {l : Leaf} {src : Word} {key : Nat} {v : Val} (f : Leaf → Val → Leaf) (hp : l.passes src key v = true) :
    rowAct leafEnv l src key v f =
      let l1 := f { l with b := { l.b with applying := true } } v
      { l1 with b := ({ l1.b with applying := false }).emit (.act key stOk) } := by
  simp only [Leaf.passes, Bool.and_eq_true, decide_eq_true_eq] at hp
  obtain ⟨h1, h2⟩ := hp
  exact rowAct_passed leafEnv _ _ _ _ _ _ h1 h2

section
variable {s : State} {c : Ch} {key : Nat} {v : Val}

/-- A write of an object of a channel that passes: its effect stands, but for what is erased in `Chan.own`. -/
theorem State.chanRow_own (f : Chan → Val → Chan) (hp : s.passes (.chan c) key v = true) :
    ((s.chanRow c key v f).chan c).own =
      ((f ((s.chan c).onB (fun b => { b with applying := true })) v).onB (fun b => { b with applying := false })).own := by
  unfold State.chanRow
  rw [State.onCS_own, Chan.row_passed f hp]
  rfl

theorem State.chanRow_out (f : Chan → Val → Chan) (hp : s.passes (.chan c) key v = true) :
    (f ((s.chan c).onB (fun b => { b with applying := true })) v).b.out ++ [.act key stOk] <+: ((s.chanRow c key v f).chan c).b.out := by
  have h := State.onCS_out s c (fun cs => rowAct chanEnv cs cs.ch.b.hostAddr key v (fun t x => t.on (fun y => f y x)))
  simp only [Chan.row_passed f hp] at h
  exact h

theorem State.chanRow_evt (f : Chan → Val → Chan) (hp : s.passes (.chan c) key v = true) :
    (f ((s.chan c).onB (fun b => { b with applying := true })) v).b.EvtLe ((s.chanRow c key v f).chan c).b := by
  have h := State.onCS_evt s c (fun cs => rowAct chanEnv cs cs.ch.b.hostAddr key v (fun t x => t.on (fun y => f y x)))
  simp only [Chan.row_passed f hp] at h
  exact h

/-- A write of an object of a channel leaves everything beside it alone. -/
theorem State.chanRow_beside (f : Chan → Val → Chan) (hp : s.passes (.chan c) key v = true) :
    State.beside c s (s.chanRow c key v f) := by
  refine State.onCS_beside s c _ ?_
  simp only [Chan.row_passed f hp]

/-- A write of an object of the leaf that passes. -/
theorem State.leafRow_own (f : Leaf → Val → Leaf) {src : Word} (hp : s.leaf.passes src key v = true) :
    (s.leafRow src key v f).leaf.own =
      (let l1 := f { s.leaf with b := { s.leaf.b with applying := true } } v
       ({ l1 with b := { l1.b with applying := false } } : Leaf).own) := by
  unfold State.leafRow
  rw [State.onLeaf_own, Leaf.row_passed f hp]
  rfl

theorem State.leafOwn_own (f : Leaf → Val → Leaf) (hp : s.passes .leaf key v = true) :
    (s.leafOwn key v f).leaf.own =
      (let l1 := f { s.leaf with b := { s.leaf.b with applying := true } } v
       ({ l1 with b := { l1.b with applying := false } } : Leaf).own) := State.leafRow_own f hp

theorem State.leafRow_out (f : Leaf → Val → Leaf) {src : Word} (hp : s.leaf.passes src key v = true) :
    (f { s.leaf with b := { s.leaf.b with applying := true } } v).b.out ++ [.act key stOk] <+: (s.leafRow src key v f).leaf.b.out := by
  have h := State.onLeaf_out s (fun l => rowAct leafEnv l src key v f)
  simp only [Leaf.row_passed f hp] at h
  exact h

/-- A write of an object of the leaf that hands nothing over leaves the channels alone. -/
theorem State.leafRow_beside (f : Leaf → Val → Leaf) {src : Word} (hp : s.leaf.passes src key v = true)
    (hh : (f { s.leaf with b := { s.leaf.b with applying := true } } v).handed = true) :
    State.besideLeaf s (s.leafRow src key v f) := by
  refine State.onLeaf_beside s _ ?_
  simp only [Leaf.row_passed f hp]
  exact hh

end

end Sys2Proof.Machine
end

