-- ==== Sys2Proof/Laws/Seat.lean ====
section
/-! SUPPORT. Operations that leave a block seated as it was: its kind, its place, the newest frame it opened, whether a frame is
open, and its phase. One lemma per operation; the operations that open a frame or change the phase are in Laws/Sits.lean. -/

set_option linter.unusedSimpArgs false
set_option linter.unusedVariables false

namespace Sys2Proof.Machine

/-- Two blocks agree on what they are and on the frame they stand in: kind, place, newest frame, open frame and phase. -/
abbrev Blk.Seated (a b : Blk) : Prop :=
  a.isLeaf = b.isLeaf ∧ a.place = b.place ∧ a.lastOpen = b.lastOpen ∧ a.frameIsOpen = b.frameIsOpen ∧ a.phase = b.phase

section
variable {p : Prop} [Decidable p]

@[simp] theorem ite_Chan_b (x y : Chan) : (if p then x else y).b = if p then x.b else y.b := by split <;> rfl
@[simp] theorem ite_Leaf_b (x y : Leaf) : (if p then x else y).b = if p then x.b else y.b := by split <;> rfl
@[simp] theorem ite_CS_ch (x y : CS) : (if p then x else y).ch = if p then x.ch else y.ch := by split <;> rfl
@[simp] theorem ite_Blk_isLeaf (x y : Blk) : (if p then x else y).isLeaf = if p then x.isLeaf else y.isLeaf := by split <;> rfl
@[simp] theorem ite_Blk_place (x y : Blk) : (if p then x else y).place = if p then x.place else y.place := by split <;> rfl
@[simp] theorem ite_Blk_lastOpen (x y : Blk) : (if p then x else y).lastOpen = if p then x.lastOpen else y.lastOpen := by split <;> rfl
@[simp] theorem ite_Blk_frameIsOpen (x y : Blk) : (if p then x else y).frameIsOpen = if p then x.frameIsOpen else y.frameIsOpen := by split <;> rfl
@[simp] theorem ite_Blk_phase (x y : Blk) : (if p then x else y).phase = if p then x.phase else y.phase := by split <;> rfl
@[simp] theorem ite_fst {α β : Type} (x y : α × β) : (if p then x else y).1 = if p then x.1 else y.1 := by split <;> rfl
@[simp] theorem ite_snd {α β : Type} (x y : α × β) : (if p then x else y).2 = if p then x.2 else y.2 := by split <;> rfl
end
section
variable {α : Type}

@[simp] theorem foldl_Chan_isLeaf (g : Chan → α → Chan) (l : List α) (x : Chan) (h : ∀ x a, (g x a).b.isLeaf = x.b.isLeaf) : (l.foldl g x).b.isLeaf = x.b.isLeaf := by
  induction l generalizing x with
  | nil => rfl
  | cons a l ih => rw [List.foldl_cons, ih, h]
@[simp] theorem foldl_Chan_place (g : Chan → α → Chan) (l : List α) (x : Chan) (h : ∀ x a, (g x a).b.place = x.b.place) : (l.foldl g x).b.place = x.b.place := by
  induction l generalizing x with
  | nil => rfl
  | cons a l ih => rw [List.foldl_cons, ih, h]
@[simp] theorem foldl_Chan_lastOpen (g : Chan → α → Chan) (l : List α) (x : Chan) (h : ∀ x a, (g x a).b.lastOpen = x.b.lastOpen) : (l.foldl g x).b.lastOpen = x.b.lastOpen := by
  induction l generalizing x with
  | nil => rfl
  | cons a l ih => rw [List.foldl_cons, ih, h]
@[simp] theorem foldl_Chan_frameIsOpen (g : Chan → α → Chan) (l : List α) (x : Chan) (h : ∀ x a, (g x a).b.frameIsOpen = x.b.frameIsOpen) : (l.foldl g x).b.frameIsOpen = x.b.frameIsOpen := by
  induction l generalizing x with
  | nil => rfl
  | cons a l ih => rw [List.foldl_cons, ih, h]
@[simp] theorem foldl_Chan_phase (g : Chan → α → Chan) (l : List α) (x : Chan) (h : ∀ x a, (g x a).b.phase = x.b.phase) : (l.foldl g x).b.phase = x.b.phase := by
  induction l generalizing x with
  | nil => rfl
  | cons a l ih => rw [List.foldl_cons, ih, h]
@[simp] theorem foldl_Leaf_isLeaf (g : Leaf → α → Leaf) (l : List α) (x : Leaf) (h : ∀ x a, (g x a).b.isLeaf = x.b.isLeaf) : (l.foldl g x).b.isLeaf = x.b.isLeaf := by
  induction l generalizing x with
  | nil => rfl
  | cons a l ih => rw [List.foldl_cons, ih, h]
@[simp] theorem foldl_Leaf_place (g : Leaf → α → Leaf) (l : List α) (x : Leaf) (h : ∀ x a, (g x a).b.place = x.b.place) : (l.foldl g x).b.place = x.b.place := by
  induction l generalizing x with
  | nil => rfl
  | cons a l ih => rw [List.foldl_cons, ih, h]
@[simp] theorem foldl_Leaf_lastOpen (g : Leaf → α → Leaf) (l : List α) (x : Leaf) (h : ∀ x a, (g x a).b.lastOpen = x.b.lastOpen) : (l.foldl g x).b.lastOpen = x.b.lastOpen := by
  induction l generalizing x with
  | nil => rfl
  | cons a l ih => rw [List.foldl_cons, ih, h]
@[simp] theorem foldl_Leaf_frameIsOpen (g : Leaf → α → Leaf) (l : List α) (x : Leaf) (h : ∀ x a, (g x a).b.frameIsOpen = x.b.frameIsOpen) : (l.foldl g x).b.frameIsOpen = x.b.frameIsOpen := by
  induction l generalizing x with
  | nil => rfl
  | cons a l ih => rw [List.foldl_cons, ih, h]
@[simp] theorem foldl_Leaf_phase (g : Leaf → α → Leaf) (l : List α) (x : Leaf) (h : ∀ x a, (g x a).b.phase = x.b.phase) : (l.foldl g x).b.phase = x.b.phase := by
  induction l generalizing x with
  | nil => rfl
  | cons a l ih => rw [List.foldl_cons, ih, h]
@[simp] theorem foldl_CS_isLeaf (g : CS → α → CS) (l : List α) (x : CS) (h : ∀ x a, (g x a).ch.b.isLeaf = x.ch.b.isLeaf) : (l.foldl g x).ch.b.isLeaf = x.ch.b.isLeaf := by
  induction l generalizing x with
  | nil => rfl
  | cons a l ih => rw [List.foldl_cons, ih, h]
@[simp] theorem foldl_CS_place (g : CS → α → CS) (l : List α) (x : CS) (h : ∀ x a, (g x a).ch.b.place = x.ch.b.place) : (l.foldl g x).ch.b.place = x.ch.b.place := by
  induction l generalizing x with
  | nil => rfl
  | cons a l ih => rw [List.foldl_cons, ih, h]
@[simp] theorem foldl_CS_lastOpen (g : CS → α → CS) (l : List α) (x : CS) (h : ∀ x a, (g x a).ch.b.lastOpen = x.ch.b.lastOpen) : (l.foldl g x).ch.b.lastOpen = x.ch.b.lastOpen := by
  induction l generalizing x with
  | nil => rfl
  | cons a l ih => rw [List.foldl_cons, ih, h]
@[simp] theorem foldl_CS_frameIsOpen (g : CS → α → CS) (l : List α) (x : CS) (h : ∀ x a, (g x a).ch.b.frameIsOpen = x.ch.b.frameIsOpen) : (l.foldl g x).ch.b.frameIsOpen = x.ch.b.frameIsOpen := by
  induction l generalizing x with
  | nil => rfl
  | cons a l ih => rw [List.foldl_cons, ih, h]
@[simp] theorem foldl_CS_phase (g : CS → α → CS) (l : List α) (x : CS) (h : ∀ x a, (g x a).ch.b.phase = x.ch.b.phase) : (l.foldl g x).ch.b.phase = x.ch.b.phase := by
  induction l generalizing x with
  | nil => rfl
  | cons a l ih => rw [List.foldl_cons, ih, h]
@[simp] theorem foldl_Blk_isLeaf (g : Blk → α → Blk) (l : List α) (x : Blk) (h : ∀ x a, (g x a).isLeaf = x.isLeaf) : (l.foldl g x).isLeaf = x.isLeaf := by
  induction l generalizing x with
  | nil => rfl
  | cons a l ih => rw [List.foldl_cons, ih, h]
@[simp] theorem foldl_Blk_place (g : Blk → α → Blk) (l : List α) (x : Blk) (h : ∀ x a, (g x a).place = x.place) : (l.foldl g x).place = x.place := by
  induction l generalizing x with
  | nil => rfl
  | cons a l ih => rw [List.foldl_cons, ih, h]
@[simp] theorem foldl_Blk_lastOpen (g : Blk → α → Blk) (l : List α) (x : Blk) (h : ∀ x a, (g x a).lastOpen = x.lastOpen) : (l.foldl g x).lastOpen = x.lastOpen := by
  induction l generalizing x with
  | nil => rfl
  | cons a l ih => rw [List.foldl_cons, ih, h]
@[simp] theorem foldl_Blk_frameIsOpen (g : Blk → α → Blk) (l : List α) (x : Blk) (h : ∀ x a, (g x a).frameIsOpen = x.frameIsOpen) : (l.foldl g x).frameIsOpen = x.frameIsOpen := by
  induction l generalizing x with
  | nil => rfl
  | cons a l ih => rw [List.foldl_cons, ih, h]
@[simp] theorem foldl_Blk_phase (g : Blk → α → Blk) (l : List α) (x : Blk) (h : ∀ x a, (g x a).phase = x.phase) : (l.foldl g x).phase = x.phase := by
  induction l generalizing x with
  | nil => rfl
  | cons a l ih => rw [List.foldl_cons, ih, h]
@[simp] theorem Blk.bumpx (b : Blk) (k n : Nat) : (b.bump k n).frameIsOpen = b.frameIsOpen := rfl
theorem Chan.foldl_seat (g : Chan → α → Chan) (l : List α) (x y : Chan) (h : ∀ x a, (g x a).b.Seated x.b)
    (h0 : x.b.Seated y.b) : (l.foldl g x).b.Seated y.b := by
  induction l generalizing x with
  | nil => exact h0
  | cons a l ih =>
    rw [List.foldl_cons]
    exact ih _ (by simp [Blk.Seated, h, h0])
theorem Leaf.foldl_seat (g : Leaf → α → Leaf) (l : List α) (x y : Leaf) (h : ∀ x a, (g x a).b.Seated x.b)
    (h0 : x.b.Seated y.b) : (l.foldl g x).b.Seated y.b := by
  induction l generalizing x with
  | nil => exact h0
  | cons a l ih =>
    rw [List.foldl_cons]
    exact ih _ (by simp [Blk.Seated, h, h0])
theorem CS.foldl_seat (g : CS → α → CS) (l : List α) (x y : CS) (h : ∀ x a, (g x a).ch.b.Seated x.ch.b)
    (h0 : x.ch.b.Seated y.ch.b) : (l.foldl g x).ch.b.Seated y.ch.b := by
  induction l generalizing x with
  | nil => exact h0
  | cons a l ih =>
    rw [List.foldl_cons]
    exact ih _ (by simp [Blk.Seated, h, h0])
theorem Blk.foldl_seat (g : Blk → α → Blk) (l : List α) (x y : Blk) (h : ∀ x a, (g x a).Seated x)
    (h0 : x.Seated y) : (l.foldl g x).Seated y := by
  induction l generalizing x with
  | nil => exact h0
  | cons a l ih =>
    rw [List.foldl_cons]
    exact ih _ (by simp [Blk.Seated, h, h0])
theorem Chan.foldl_fst_seat {β : Type} (g : Chan × β → α → Chan × β) (l : List α) (x : Chan × β) (y : Chan) (h : ∀ x a, (g x a).1.b.Seated x.1.b)
    (h0 : x.1.b.Seated y.b) : (l.foldl g x).1.b.Seated y.b := by
  induction l generalizing x with
  | nil => exact h0
  | cons a l ih =>
    rw [List.foldl_cons]
    exact ih _ (by simp [Blk.Seated, h, h0])
theorem Leaf.foldl_fst_seat {β : Type} (g : Leaf × β → α → Leaf × β) (l : List α) (x : Leaf × β) (y : Leaf) (h : ∀ x a, (g x a).1.b.Seated x.1.b)
    (h0 : x.1.b.Seated y.b) : (l.foldl g x).1.b.Seated y.b := by
  induction l generalizing x with
  | nil => exact h0
  | cons a l ih =>
    rw [List.foldl_cons]
    exact ih _ (by simp [Blk.Seated, h, h0])
theorem CS.foldl_fst_seat {β : Type} (g : CS × β → α → CS × β) (l : List α) (x : CS × β) (y : CS) (h : ∀ x a, (g x a).1.ch.b.Seated x.1.ch.b)
    (h0 : x.1.ch.b.Seated y.ch.b) : (l.foldl g x).1.ch.b.Seated y.ch.b := by
  induction l generalizing x with
  | nil => exact h0
  | cons a l ih =>
    rw [List.foldl_cons]
    exact ih _ (by simp [Blk.Seated, h, h0])
theorem Blk.foldl_fst_seat {β : Type} (g : Blk × β → α → Blk × β) (l : List α) (x : Blk × β) (y : Blk) (h : ∀ x a, (g x a).1.Seated x.1)
    (h0 : x.1.Seated y) : (l.foldl g x).1.Seated y := by
  induction l generalizing x with
  | nil => exact h0
  | cons a l ih =>
    rw [List.foldl_cons]
    exact ih _ (by simp [Blk.Seated, h, h0])
theorem Chan.seat_trans {x y z : Chan} (h : x.b.Seated y.b) (g : y.b.Seated z.b) : x.b.Seated z.b := by
  simp [Blk.Seated, h, g]
theorem Leaf.seat_trans {x y z : Leaf} (h : x.b.Seated y.b) (g : y.b.Seated z.b) : x.b.Seated z.b := by
  simp [Blk.Seated, h, g]
theorem CS.seat_trans {x y z : CS} (h : x.ch.b.Seated y.ch.b) (g : y.ch.b.Seated z.ch.b) : x.ch.b.Seated z.ch.b := by
  simp [Blk.Seated, h, g]
theorem Blk.seat_trans {x y z : Blk} (h : x.Seated y) (g : y.Seated z) : x.Seated z := by
  simp [Blk.Seated, h, g]
theorem Chan.seat_of_own {x y : Chan} (h : x.own = y.own) : x.b.Seated y.b := by
  have e : x.own.b = y.own.b := by rw [h]
  simp only [Chan.own, Blk.own, Blk.mk.injEq] at e
  simp [Blk.Seated, e]
end

/-! ChanState -/

/-! Store -/

@[simp] theorem Blk.setVal_seat (b : Blk) (key : Nat) (v : Val) : (Blk.setVal b key v).Seated b := by
  simp [Blk.Seated, Blk.setVal]

@[simp] theorem Blk.setNum_seat (b : Blk) (key : Nat) (n : Nat) : (Blk.setNum b key n).Seated b := by
  simp [Blk.Seated, Blk.setNum]

@[simp] theorem Blk.setBytes_seat (b : Blk) (key : Nat) (d : List Byte) : (Blk.setBytes b key d).Seated b := by
  simp [Blk.Seated, Blk.setBytes]

@[simp] theorem Blk.setBool_seat (b : Blk) (key : Nat) (v : Bool) : (Blk.setBool b key v).Seated b := by
  simp [Blk.Seated, Blk.setBool]

@[simp] theorem Blk.bump_seat (b : Blk) (key : Nat) (k : Nat) : (Blk.bump b key k).Seated b := by
  simp [Blk.Seated, Blk.bump]

@[simp] theorem Blk.emit_seat (b : Blk) (o : Out) : (Blk.emit b o).Seated b := by
  simp [Blk.Seated, Blk.emit]

@[simp] theorem Blk.toDefault_seat (b : Blk) (drop : Cls → Bool) (keep : Nat → Bool) : (Blk.toDefault b drop keep).Seated b := by
  simp [Blk.Seated, Blk.toDefault]

@[simp] theorem Blk.draw_seat (b : Blk) : (Blk.draw b).2.Seated b := by
  simp [Blk.Seated, Blk.draw]

@[simp] theorem Blk.takeSeq_seat (b : Blk) : (Blk.takeSeq b).2.Seated b := by
  simp [Blk.Seated, Blk.takeSeq]

@[simp] theorem Blk.request_seat (b : Blk) (dst : Word) (opcode : Nat) (txn : Nat) (items : List Item) (body : List Byte) : (Blk.request b dst opcode txn items body).Seated b := by
  simp [Blk.Seated, Blk.request]

/-! Flags -/

@[simp] theorem Blk.raiseEvt_seat (b : Blk) (k : Nat) : (Blk.raiseEvt b k).Seated b := by
  simp [Blk.Seated, Blk.raiseEvt]

@[simp] theorem Blk.raiseErr_seat (b : Blk) (k : Nat) : (Blk.raiseErr b k).Seated b := by
  simp [Blk.Seated, Blk.raiseErr]

@[simp] theorem Blk.declareShort_seat (b : Blk) (f : Nat) (c : Nat) : (Blk.declareShort b f c).Seated b := by
  simp [Blk.Seated, Blk.declareShort]

@[simp] theorem Blk.judgeShortRun_seat (b : Blk) : (Blk.judgeShortRun b).Seated b := by
  simp [Blk.Seated, Blk.judgeShortRun]

@[simp] theorem Blk.judgeAlignment_seat (b : Blk) : (Blk.judgeAlignment b).Seated b := by
  simp [Blk.Seated, Blk.judgeAlignment]

/-! Ops -/

@[simp] theorem Blk.setServo_seat (b : Blk) (d : Dom) (s : Servo) : (Blk.setServo b d s).Seated b := by
  unfold Blk.setServo; (repeat' split) <;> simp [Blk.Seated]

@[simp] theorem Blk.setTime_seat (b : Blk) (d : Dom) (t : Nat) : (Blk.setTime b d t).Seated b := by
  unfold Blk.setTime; (repeat' split) <;> simp [Blk.Seated]

@[simp] theorem Blk.raiseSelf_seat (b : Blk) (ws : List Wr) (a : Nat) : (Blk.raiseSelf b ws a).2.Seated b := by
  simp [Blk.Seated, Blk.raiseSelf]

@[simp] theorem Blk.finish_seat (b : Blk) (d : Done) : (Blk.finish b d).Seated b := by
  simp [Blk.Seated, Blk.finish]

@[simp] theorem Blk.discard_seat (b : Blk) (keep : Txn → Bool) : (Blk.discard b keep).Seated b := by
  simp [Blk.Seated, Blk.discard]

/-! Link -/

@[simp] theorem Blk.journalPut_seat (b : Blk) (e : JEntry) : (Blk.journalPut b e).Seated b := by
  simp [Blk.Seated, Blk.journalPut]

@[simp] theorem Blk.journalAck_seat (b : Blk) (dst : Option Word) (g : Nat) : (Blk.journalAck b dst g).Seated b := by
  simp [Blk.Seated, Blk.journalAck]

@[simp] theorem Blk.overrunJournal_seat (b : Blk) (f : Nat) : (Blk.overrunJournal b f).Seated b := by
  simp [Blk.Seated, Blk.overrunJournal]

@[simp] theorem Blk.sendAttach_seat (b : Blk) (parent : Nat) : (Blk.sendAttach b parent).Seated b := by
  simp [Blk.Seated, Blk.sendAttach]

@[simp] theorem Blk.callParents_seat (b : Blk) : (Blk.callParents b).Seated b := by
  simp [Blk.Seated, Blk.callParents]

@[simp] theorem Blk.switchTo_seat (b : Blk) (p : Nat) : (Blk.switchTo b p).Seated b := by
  simp [Blk.Seated, Blk.switchTo]

@[simp] theorem Blk.giveReplay_seat (b : Blk) : (Blk.giveReplay b).Seated b := by
  simp [Blk.Seated, Blk.giveReplay]

@[simp] theorem Blk.startReplay_seat (b : Blk) (es : Option (List RelEntry)) : (Blk.startReplay b es).Seated b := by
  simp [Blk.Seated, Blk.startReplay]

@[simp] theorem Blk.takeControl_seat (b : Blk) (h : Heard) (resume : Bool) : (Blk.takeControl b h resume).Seated b := by
  unfold Blk.takeControl; (repeat' split) <;> simp [Blk.Seated]

@[simp] theorem Blk.control_seat (b : Blk) (src : Word) (h : FragHdr) (es : List RelEntry) : (Blk.control b src h es).Seated b := by
  unfold Blk.control; (repeat' split) <;> simp [Blk.Seated]

@[simp] theorem Blk.resumeParent_seat (b : Blk) : (Blk.resumeParent b).Seated b := by
  simp only [Blk.resumeParent]; (repeat' split) <;> first | (simp [Blk.Seated]; done) | (refine Blk.foldl_seat _ _ _ _ ?_ ?_; (intros; (repeat' split) <;> simp [Blk.Seated]; done); (simp [Blk.Seated]; done))

@[simp] theorem Blk.closeLink_seat (b : Blk) (counts : Bool) : (Blk.closeLink b counts).Seated b := by
  simp [Blk.Seated, Blk.closeLink]

@[simp] theorem Blk.openLink_seat (b : Blk) (calls : Bool) : (Blk.openLink b calls).Seated b := by
  simp [Blk.Seated, Blk.openLink]

@[simp] theorem Blk.parentLost_seat (b : Blk) : (Blk.parentLost b).Seated b := by
  simp [Blk.Seated, Blk.parentLost]

@[simp] theorem Blk.returnHome_seat (b : Blk) : (Blk.returnHome b).Seated b := by
  simp [Blk.Seated, Blk.returnHome]

@[simp] theorem Blk.fragmentSend_seat (b : Blk) : (Blk.fragmentSend b).Seated b := by
  unfold Blk.fragmentSend; (repeat' split) <;> simp [Blk.Seated]

/-! LeafState -/

/-! Sampler -/

@[simp] theorem Leaf.judgeCores_seat (l : Leaf) : (Leaf.judgeCores l).b.Seated l.b := by
  simp [Blk.Seated, Leaf.judgeCores]

@[simp] theorem Leaf.takeCounter_seat (l : Leaf) (core : Nat) (ctr : Nat) (v : Nat) : (Leaf.takeCounter l core ctr v).b.Seated l.b := by
  simp [Blk.Seated, Leaf.takeCounter]

@[simp] theorem Leaf.takeCounters_seat (l : Leaf) (d : Nat) : (Leaf.takeCounters l d).b.Seated l.b := by
  simp [Blk.Seated, Leaf.takeCounters]

@[simp] theorem Leaf.takeBarrier_seat (l : Leaf) (d : Nat) (off : Nat) : (Leaf.takeBarrier l d off).b.Seated l.b := by
  simp [Blk.Seated, Leaf.takeBarrier]

@[simp] theorem Leaf.sampleSeries_seat (l : Leaf) (f : Nat) : (Leaf.sampleSeries l f).2.b.Seated l.b := by
  simp [Blk.Seated, Leaf.sampleSeries]

@[simp] theorem Leaf.closeSampler_seat (l : Leaf) (f : Nat) : (Leaf.closeSampler l f).b.Seated l.b := by
  simp [Blk.Seated, Leaf.closeSampler]

@[simp] theorem Leaf.openSampler_seat (l : Leaf) (k : Nat) : (Leaf.openSampler l k).b.Seated l.b := by
  simp [Blk.Seated, Leaf.openSampler]

@[simp] theorem Leaf.overrunSampler_seat (l : Leaf) (f : Nat) (left : Nat) : (Leaf.overrunSampler l f left).b.Seated l.b := by
  unfold Leaf.overrunSampler; (repeat' split) <;> simp [Blk.Seated]

@[simp] theorem Leaf.swapSeries_seat (l : Leaf) : (Leaf.swapSeries l).b.Seated l.b := by
  simp [Blk.Seated, Leaf.swapSeries]

/-! Reduce -/

@[simp] theorem Chan.arrive_seat (c : Chan) (a : Arrival) : (Chan.arrive c a).b.Seated c.b := by
  simp [Blk.Seated, Chan.arrive]

/-! Fence -/

@[simp] theorem Leaf.ruleIn_seat (l : Leaf) (f : Nat) (code : Nat) (arg : Nat) (payload : List Byte) : (Leaf.ruleIn l f code arg payload).b.Seated l.b := by
  simp [Blk.Seated, Leaf.ruleIn]

@[simp] theorem Leaf.fault_seat (l : Leaf) (f : Nat) (kind : Nat) (locKind : Nat) (loc : Nat) (at_ : Nat) (detail : Nat) : (Leaf.fault l f kind locKind loc at_ detail).b.Seated l.b := by
  simp [Blk.Seated, Leaf.fault]

@[simp] theorem Leaf.coreWritten_seat (l : Leaf) (c : Nat) (old : Nat) (new : Nat) : (Leaf.coreWritten l c old new).b.Seated l.b := by
  simp [Blk.Seated, Leaf.coreWritten]

@[simp] theorem Leaf.ackFailure_seat (l : Leaf) (c : Nat) : (Leaf.ackFailure l c).b.Seated l.b := by
  simp [Blk.Seated, Leaf.ackFailure]

@[simp] theorem Leaf.ackChange_seat (l : Leaf) (c : Nat) (v : Bool) : (Leaf.ackChange l c v).b.Seated l.b := by
  simp [Blk.Seated, Leaf.ackChange]

@[simp] theorem Leaf.ackTimeout_seat (l : Leaf) (c : Nat) : (Leaf.ackTimeout l c).b.Seated l.b := by
  simp [Blk.Seated, Leaf.ackTimeout]

@[simp] theorem Leaf.findLost_seat (l : Leaf) (f : Nat) : (Leaf.findLost l f).b.Seated l.b := by
  simp [Blk.Seated, Leaf.findLost]

@[simp] theorem Leaf.commitLost_seat (l : Leaf) (a : Nat) (cs : List Nat) : (Leaf.commitLost l a cs).b.Seated l.b := by
  simp [Blk.Seated, Leaf.commitLost]

@[simp] theorem Leaf.enforce_seat (l : Leaf) : (Leaf.enforce l).b.Seated l.b := by
  simp only [Leaf.enforce]
  split
  · simp [Blk.Seated]
  · refine Leaf.foldl_fst_seat _ _ _ _ ?_ ?_
    · intro x a; simp [Blk.Seated]
    · simp [Blk.Seated]

@[simp] theorem Leaf.coreLost_seat (l : Leaf) (c : Nat) : (Leaf.coreLost l c).b.Seated l.b := by
  unfold Leaf.coreLost; (repeat' split) <;> simp [Blk.Seated]

@[simp] theorem Leaf.retryLost_seat (l : Leaf) : (Leaf.retryLost l).b.Seated l.b := by
  simp [Blk.Seated, Leaf.retryLost]

@[simp] theorem Leaf.regionReading_seat (l : Leaf) (r : Nat) (kind : Nat) (v : Nat) : (Leaf.regionReading l r kind v).b.Seated l.b := by
  simp [Blk.Seated, Leaf.regionReading]

@[simp] theorem Leaf.regionWritten_seat (l : Leaf) (r : Nat) (old : Nat) (new : Nat) : (Leaf.regionWritten l r old new).b.Seated l.b := by
  simp [Blk.Seated, Leaf.regionWritten]

@[simp] theorem Leaf.closeRegions_seat (l : Leaf) : (Leaf.closeRegions l).b.Seated l.b := by
  simp [Blk.Seated, Leaf.closeRegions]

@[simp] theorem Leaf.regionMismatch_seat (l : Leaf) (r : Nat) : (Leaf.regionMismatch l r).b.Seated l.b := by
  simp [Blk.Seated, Leaf.regionMismatch]

@[simp] theorem Leaf.settleEnd_seat (l : Leaf) (r : Nat) : (Leaf.settleEnd l r).b.Seated l.b := by
  unfold Leaf.settleEnd; (repeat' split) <;> simp [Blk.Seated]

@[simp] theorem Leaf.presentRegion_seat (l : Leaf) : (Leaf.presentRegion l).b.Seated l.b := by
  unfold Leaf.presentRegion; (repeat' split) <;> simp [Blk.Seated]

@[simp] theorem Leaf.regionAck_seat (l : Leaf) : (Leaf.regionAck l).b.Seated l.b := by
  simp [Blk.Seated, Leaf.regionAck]

@[simp] theorem Leaf.regionTimeout_seat (l : Leaf) : (Leaf.regionTimeout l).b.Seated l.b := by
  unfold Leaf.regionTimeout; (repeat' split) <;> simp [Blk.Seated]

@[simp] theorem Leaf.routingNotify_seat (l : Leaf) (bitmap : List Byte) : (Leaf.routingNotify l bitmap).b.Seated l.b := by
  simp [Blk.Seated, Leaf.routingNotify]

/-! Time -/

@[simp] theorem Blk.drainRemain_seat (b : Blk) (e : Nat) : (Blk.drainRemain b e).Seated b := by
  simp [Blk.Seated, Blk.drainRemain]

@[simp] theorem Blk.advance_seat (b : Blk) (d : Dom) (x : Nat) : (Blk.advance b d x).Seated b := by
  simp [Blk.Seated, Blk.advance]

@[simp] theorem Blk.advanceFrame_seat (b : Blk) (t : Nat) : (Blk.advanceFrame b t).Seated b := by
  simp [Blk.Seated, Blk.advanceFrame]

@[simp] theorem Blk.setServoState_seat (b : Blk) (d : Dom) (st : Nat) : (Blk.setServoState b d st).Seated b := by
  simp [Blk.Seated, Blk.setServoState]

@[simp] theorem Blk.toAcquiring_seat (b : Blk) (d : Dom) : (Blk.toAcquiring b d).Seated b := by
  unfold Blk.toAcquiring; (repeat' split) <;> simp [Blk.Seated]

@[simp] theorem Blk.toHoldover_seat (b : Blk) (d : Dom) (guard : Bool) : (Blk.toHoldover b d guard).Seated b := by
  simp [Blk.Seated, Blk.toHoldover]

@[simp] theorem Blk.toFree_seat (b : Blk) (d : Dom) : (Blk.toFree b d).Seated b := by
  simp [Blk.Seated, Blk.toFree]

@[simp] theorem Blk.toLocked_seat (b : Blk) (d : Dom) : (Blk.toLocked b d).Seated b := by
  simp [Blk.Seated, Blk.toLocked]

@[simp] theorem Blk.dualTrigger_seat (b : Blk) : (Blk.dualTrigger b).2.Seated b := by
  simp [Blk.Seated, Blk.dualTrigger]

@[simp] theorem Blk.missFrames_seat (b : Blk) (k : Nat) (n : Nat) : (Blk.missFrames b k n).Seated b := by
  simp [Blk.Seated, Blk.missFrames]

@[simp] theorem Blk.step_seat (b : Blk) (d : Dom) (delta : Int) : (Blk.step b d delta).1.Seated b := by
  simp [Blk.Seated, Blk.step]

@[simp] theorem Blk.reportOffset_seat (b : Blk) (d : Dom) (o : Int) : (Blk.reportOffset b d o).Seated b := by
  simp [Blk.Seated, Blk.reportOffset]

@[simp] theorem Blk.guardRefuse_seat (b : Blk) (d : Dom) : (Blk.guardRefuse b d).Seated b := by
  simp [Blk.Seated, Blk.guardRefuse]

@[simp] theorem Blk.actOn_seat (b : Blk) (d : Dom) (o : Int) : (Blk.actOn b d o).1.Seated b := by
  simp [Blk.Seated, Blk.actOn]

@[simp] theorem Blk.countSync_seat (b : Blk) (d : Dom) (o : Int) : (Blk.countSync b d o).Seated b := by
  simp [Blk.Seated, Blk.countSync]

@[simp] theorem Blk.actOnMessage_seat (b : Blk) (d : Dom) (o : Int) : (Blk.actOnMessage b d o).1.Seated b := by
  simp [Blk.Seated, Blk.actOnMessage]

@[simp] theorem Blk.takeSync_seat (b : Blk) (d : Dom) (down : Int) : (Blk.takeSync b d down).1.Seated b := by
  simp [Blk.Seated, Blk.takeSync]

@[simp] theorem Blk.takeAnnounce_seat (b : Blk) (d : Dom) (f : Foreign) : (Blk.takeAnnounce b d f).Seated b := by
  simp [Blk.Seated, Blk.takeAnnounce]

@[simp] theorem Blk.announce_seat (b : Blk) (h : PtpHdr) (m : Announce) : (Blk.announce b h m).Seated b := by
  unfold Blk.announce; (repeat' split) <;> simp [Blk.Seated]

@[simp] theorem Blk.announceLost_seat (b : Blk) (d : Dom) (src : BitVec 80) : (Blk.announceLost b d src).Seated b := by
  simp [Blk.Seated, Blk.announceLost]

@[simp] theorem Blk.sync_seat (b : Blk) (h : PtpHdr) (t1 : BitVec 96) (t2 : BitVec 96) : (Blk.sync b h t1 t2).1.Seated b := by
  unfold Blk.sync; (repeat' split) <;> simp [Blk.Seated]

@[simp] theorem Blk.followUp_seat (b : Blk) (h : PtpHdr) (t1 : BitVec 96) : (Blk.followUp b h t1).1.Seated b := by
  unfold Blk.followUp; (repeat' split) <;> simp [Blk.Seated]

@[simp] theorem Blk.delayReq_seat (b : Blk) (d : Dom) (q : BitVec 16) (t3 : BitVec 96) : (Blk.delayReq b d q t3).Seated b := by
  simp [Blk.Seated, Blk.delayReq]

@[simp] theorem Blk.delayResp_seat (b : Blk) (h : PtpHdr) (t4 : BitVec 96) : (Blk.delayResp b h t4).1.Seated b := by
  simp only [Blk.delayResp]; (repeat' split) <;> first | (simp [Blk.Seated]; done) | (refine Blk.foldl_seat _ _ _ _ ?_ ?_; (intros; (repeat' split) <;> simp [Blk.Seated]; done); (simp [Blk.Seated]; done))

@[simp] theorem Blk.guardAcceptAct_seat (b : Blk) (v : Nat) : (Blk.guardAcceptAct b v).Seated b := by
  simp [Blk.Seated, Blk.guardAcceptAct]

@[simp] theorem Blk.activeDomainAct_seat (b : Blk) (v : Nat) : (Blk.activeDomainAct b v).Seated b := by
  simp [Blk.Seated, Blk.activeDomainAct]

@[simp] theorem Blk.holdoverMs_seat (b : Blk) (ms : Nat) : (Blk.holdoverMs b ms).Seated b := by
  simp [Blk.Seated, Blk.holdoverMs]

@[simp] theorem Blk.ppsEdge_seat (b : Blk) (stamp : Nat) : (Blk.ppsEdge b stamp).1.Seated b := by
  simp [Blk.Seated, Blk.ppsEdge]

@[simp] theorem Blk.ppsLost_seat (b : Blk) : (Blk.ppsLost b).Seated b := by
  simp [Blk.Seated, Blk.ppsLost]

@[simp] theorem Blk.tsqPop_seat (b : Blk) : (Blk.tsqPop b).2.Seated b := by
  unfold Blk.tsqPop; (repeat' split) <;> simp [Blk.Seated]

/-! Bivan -/

@[simp] theorem Blk.passOn_seat (b : Blk) (dst : Word) (o : Out) : (Blk.passOn b dst o).Seated b := by
  unfold Blk.passOn
  split <;> simp [Blk.Seated]

@[simp] theorem Blk.touchTxn_seat (b : Blk) (src num : Word) : (Blk.touchTxn b src num).Seated b := by
  simp [Blk.Seated, Blk.touchTxn, Blk.mapTxn]

@[simp] theorem Blk.takeAcks_seat (b : Blk) (f : Nat) : (Blk.takeAcks b f).2.Seated b := by
  simp [Blk.Seated, Blk.takeAcks]

@[simp] theorem Blk.passBoundary_seat (b : Blk) (k : Nat) : (Blk.passBoundary b k).Seated b := by
  unfold Blk.passBoundary; (repeat' split) <;> simp [Blk.Seated]

@[simp] theorem Blk.resume_seat (b : Blk) (k : Nat) : (Blk.resume b k).Seated b := by
  unfold Blk.resume; split <;> simp [Blk.Seated]

@[simp] theorem Blk.respond_seat (b : Blk) (q : Req) (r : Resp) : (Blk.respond b q r).Seated b := by
  simp [Blk.Seated, Blk.respond]

@[simp] theorem Blk.heard_seat (b : Blk) (src : Word) (q : Word) : (Blk.heard b src q).Seated b := by
  simp [Blk.Seated, Blk.heard]

@[simp] theorem Blk.remember_seat (b : Blk) (r : Resp) : (Blk.remember b r).Seated b := by
  simp [Blk.Seated, Blk.remember]

@[simp] theorem Blk.unheard_seat (b : Blk) (src : Word) (old : Option SeqMem) : (Blk.unheard b src old).Seated b := by
  simp [Blk.Seated, Blk.unheard]

@[simp] theorem Blk.countRole_seat (b : Blk) (n : Nat) : (Blk.countRole b n).Seated b := by
  simp [Blk.Seated, Blk.countRole]

@[simp] theorem Blk.dropSeg_seat (b : Blk) (key : Nat) : (Blk.dropSeg b key).Seated b := by
  simp [Blk.Seated, Blk.dropSeg]

@[simp] theorem Blk.mapTxn_seat (b : Blk) (src : Word) (num : Word) (f : Txn → Txn) : (Blk.mapTxn b src num f).Seated b := by
  simp [Blk.Seated, Blk.mapTxn]

@[simp] theorem Blk.endTxn_seat (b : Blk) (t : Txn) (st : TxnState) (status : Nat) : (Blk.endTxn b t st status).Seated b := by
  simp [Blk.Seated, Blk.endTxn]

@[simp] theorem Blk.commitTxn_seat (b : Blk) (src : Word) (num : Word) (a : Nat) : (Blk.commitTxn b src num a).Seated b := by
  simp [Blk.Seated, Blk.commitTxn]

@[simp] theorem Blk.ackOwn_seat (b : Blk) (seq : Word) (phase : Nat) (st : Nat) : (Blk.ackOwn b seq phase st).Seated b := by
  simp [Blk.Seated, Blk.ackOwn]

@[simp] theorem Blk.mapFleet_seat (b : Blk) (seq : Word) (f : FleetRec → FleetRec) : (Blk.mapFleet b seq f).Seated b := by
  simp [Blk.Seated, Blk.mapFleet]

@[simp] theorem Blk.fleetStored_seat (b : Blk) (seq : Word) (st : Nat) : (Blk.fleetStored b seq st).Seated b := by
  simp [Blk.Seated, Blk.fleetStored]

/-! Common -/

@[simp] theorem Blk.commonAct_seat (b : Blk) (key : Nat) (v : Val) : (Blk.commonAct b key v).Seated b := by
  simp [Blk.Seated, Blk.commonAct]

theorem Blk.mapPlace_some {b b1 : Blk} {d : Bool} {p : Nat} (h : b.mapPlace d p = some b1) :
    b1.Seated b := by
  simp only [Blk.mapPlace] at h
  generalize (if d = true then 2 ^ 30 else 0) = kind at h
  split at h
  · cases h; simp [Blk.Seated]
  · split at h
    · cases h
    · cases h; simp [Blk.Seated]

@[simp] theorem Blk.mapPlaces_seat (b : Blk) (dram : Bool) (ps : List Nat) : (Blk.mapPlaces b dram ps).1.Seated b := by
  simp only [Blk.mapPlaces]
  refine Blk.foldl_fst_seat _ _ _ _ ?_ ?_
  · intro x a
    try dsimp only
    split
    · next b1 h => exact Blk.mapPlace_some h
    · simp [Blk.Seated]
  · simp [Blk.Seated]

@[simp] theorem Blk.selftest_seat (b : Blk) (rows : List (BitVec 10 × BitVec 12)) (segs : List (BitVec 16)) : (Blk.selftest b rows segs).1.Seated b := by
  simp [Blk.Seated, Blk.selftest]

@[simp] theorem Blk.loseTime_seat (b : Blk) : (Blk.loseTime b).Seated b := by
  simp [Blk.Seated, Blk.loseTime]

/-! Tree -/

@[simp] theorem Chan.onChild_seat (c : Chan) (a : Word) (f : Child → Child) : (Chan.onChild c a f).b.Seated c.b := by
  simp [Blk.Seated, Chan.onChild]

@[simp] theorem Chan.sendOp_seat (c : Chan) (r : Remote) : (Chan.sendOp c r).b.Seated c.b := by
  unfold Chan.sendOp; (repeat' split) <;> simp [Blk.Seated]

@[simp] theorem Chan.remote_seat (c : Chan) (dst : Word) (purpose : Purpose) (ops : List ROp) : (Chan.remote c dst purpose ops).b.Seated c.b := by
  simp [Blk.Seated, Chan.remote]

@[simp] theorem Chan.remoteNext_seat (c : Chan) (r : Resp) : (Chan.remoteNext c r).1.b.Seated c.b := by
  unfold Chan.remoteNext; (repeat' split) <;> simp [Blk.Seated]

@[simp] theorem Chan.remoteTxn_seat (c : Chan) (dst : Word) (purpose : Purpose) (ws : List Wr) (a : Nat) : (Chan.remoteTxn c dst purpose ws a).b.Seated c.b := by
  simp [Blk.Seated, Chan.remoteTxn]

@[simp] theorem Chan.noteWrites_seat (c : Chan) (leaf : Word) (ws : List Wr) (apply : Nat) (own : Bool) : (Chan.noteWrites c leaf ws apply own).b.Seated c.b := by
  unfold Chan.noteWrites; refine Chan.foldl_seat _ _ _ _ ?_ ?_ <;> (intros; (repeat' split) <;> simp [Blk.Seated])

@[simp] theorem Chan.noteCommit_seat (c : Chan) (r : Remote) : (Chan.noteCommit c r).b.Seated c.b := by
  simp [Blk.Seated, Chan.noteCommit]

@[simp] theorem Chan.ruleIn_seat (c : Chan) (code : Nat) (node : Nat) (arg : Nat) (payload : List Byte) : (Chan.ruleIn c code node arg payload).b.Seated c.b := by
  simp [Blk.Seated, Chan.ruleIn]

@[simp] theorem Chan.fault_seat (c : Chan) (kind : Nat) (locKind : Nat) (loc : Nat) (frame : Nat) (detail : Nat) : (Chan.fault c kind locKind loc frame detail).b.Seated c.b := by
  simp [Blk.Seated, Chan.fault]

@[simp] theorem Chan.takeRiders_seat (c : Chan) (x : Child) (f : Nat) (late : Bool) (d : List Byte) : (Chan.takeRiders c x f late d).b.Seated c.b := by
  simp [Blk.Seated, Chan.takeRiders]

@[simp] theorem Chan.takeForwards_seat (c : Chan) (x : Child) (f : Nat) (late : Bool) (d : List Byte) : (Chan.takeForwards c x f late d).b.Seated c.b := by
  simp [Blk.Seated, Chan.takeForwards]

@[simp] theorem Chan.reduceLeaf_seat (c : Chan) (x : Child) (d : List Byte) : (Chan.reduceLeaf c x d).b.Seated c.b := by
  simp [Blk.Seated, Chan.reduceLeaf]

@[simp] theorem Chan.reduceSection_seat (c : Chan) (x : Child) (pktFrame : Nat) (f : Nat) (contributors : Nat) (set : LeafSet) (below : Bool) (block : Bool) (rs : List AggRec) : (Chan.reduceSection c x pktFrame f contributors set below block rs).b.Seated c.b := by
  simp [Blk.Seated, Chan.reduceSection]

@[simp] theorem Chan.reduceChan_seat (c : Chan) (x : Child) (d : List Byte) : (Chan.reduceChan c x d).b.Seated c.b := by
  simp [Blk.Seated, Chan.reduceChan]

@[simp] theorem Chan.fetchTable_seat (c : Chan) (a : Word) : (Chan.fetchTable c a).b.Seated c.b := by
  simp [Blk.Seated, Chan.fetchTable]

@[simp] theorem Chan.packet_seat (c : Chan) (x : Child) (d : List Byte) : (Chan.packet c x d).b.Seated c.b := by
  simp [Blk.Seated, Chan.packet]

@[simp] theorem Chan.tableDone_seat (c : Chan) (x : Child) (t : List Byte) : (Chan.tableDone c x t).b.Seated c.b := by
  unfold Chan.tableDone; (repeat' split) <;> simp [Blk.Seated]

@[simp] theorem Chan.tableRead_seat (c : Chan) (a : Word) (r : Remote) (resp : Resp) : (Chan.tableRead c a r resp).b.Seated c.b := by
  unfold Chan.tableRead; (repeat' split) <;> simp [Blk.Seated]

@[simp] theorem Chan.fragment_seat (c : Chan) (src : Word) (h : FragHdr) (d : List Byte) : (Chan.fragment c src h d).b.Seated c.b := by
  simp only [Chan.fragment]; (repeat' split) <;> first | (simp [Blk.Seated]; done) | (refine Chan.foldl_seat _ _ _ _ ?_ ?_; (intros; (repeat' split) <;> simp [Blk.Seated]; done); (simp [Blk.Seated]; done))

@[simp] theorem Chan.settle_seat (c : Chan) : (Chan.settle c).b.Seated c.b := by
  simp [Blk.Seated, Chan.settle]

@[simp] theorem Chan.control_seat (c : Chan) (x : Child) : (Chan.control c x).b.Seated c.b := by
  simp [Blk.Seated, Chan.control]

@[simp] theorem Chan.controls_seat (c : Chan) : (Chan.controls c).b.Seated c.b := by
  simp only [Chan.controls]
  refine Chan.foldl_seat _ _ _ _ ?_ ?_
  · intro x a
    try dsimp only
    (repeat' split) <;> simp [Blk.Seated]
  · simp [Blk.Seated]

@[simp] theorem Chan.lateSent_seat (c : Chan) (dst : Option Word) (p : Nat) (ls : List LateSec) : (Chan.lateSent c dst p ls).b.Seated c.b := by
  simp only [Chan.lateSent]
  refine Chan.foldl_seat _ _ _ _ ?_ ?_
  · intro x a
    try dsimp only
    (repeat' split) <;> simp [Blk.Seated]
  · simp [Blk.Seated]

@[simp] theorem Chan.takeAssayUp_seat (c : Chan) (f : Nat) : (Chan.takeAssayUp c f).2.b.Seated c.b := by
  simp [Blk.Seated, Chan.takeAssayUp]

@[simp] theorem Chan.sendUp_seat (c : Chan) (s : Sec) : (Chan.sendUp c s).b.Seated c.b := by
  simp [Blk.Seated, Chan.sendUp]

@[simp] theorem Chan.sendAnswerers_seat (c : Chan) (f : Nat) : (Chan.sendAnswerers c f).b.Seated c.b := by
  simp [Blk.Seated, Chan.sendAnswerers]

@[simp] theorem Chan.sendInto_seat (c : Chan) (s : Sec) : (Chan.sendInto c s).b.Seated c.b := by
  simp [Blk.Seated, Chan.sendInto]

@[simp] theorem Chan.release_seat (c : Chan) (f : Nat) (level : Nat) (sends : Bool) : (Chan.release c f level sends).b.Seated c.b := by
  simp only [Chan.release]; (repeat' split) <;> first | (simp [Blk.Seated]; done) | (refine Chan.foldl_seat _ _ _ _ ?_ ?_; (intros; (repeat' split) <;> simp [Blk.Seated]; done); (simp [Blk.Seated]; done))

@[simp] theorem Chan.lateFleet_seat (c : Chan) : (Chan.lateFleet c).2.b.Seated c.b := by
  simp only [Chan.lateFleet]
  refine Chan.foldl_seat _ _ _ _ ?_ ?_
  · intro x a
    try dsimp only
    (repeat' split) <;> simp [Blk.Seated]
  · simp [Blk.Seated]

@[simp] theorem Chan.handed_seat (c : Chan) (f : Nat) : (Chan.handed c f).b.Seated c.b := by
  unfold Chan.handed; (repeat' split) <;> simp [Blk.Seated]

@[simp] theorem Chan.judgeAbsent_seat (c : Chan) (f : Nat) : (Chan.judgeAbsent c f).b.Seated c.b := by
  simp [Blk.Seated, Chan.judgeAbsent]

@[simp] theorem Chan.leafAbsent_seat (c : Chan) (pos : Nat) : (Chan.leafAbsent c pos).b.Seated c.b := by
  unfold Chan.leafAbsent; (repeat' split) <;> simp [Blk.Seated]

@[simp] theorem Chan.pruneTree_seat (c : Chan) : (Chan.pruneTree c).b.Seated c.b := by
  simp [Blk.Seated, Chan.pruneTree]

/-! Rehome -/

@[simp] theorem Chan.moved_seat (c : Chan) (a : Word) : (Chan.moved c a).b.Seated c.b := by
  unfold Chan.moved; (repeat' split) <;> simp [Blk.Seated]

@[simp] theorem Chan.releaseQuery_seat (c : Chan) (src : Word) (left : Word) (nodes : List Word) : (Chan.releaseQuery c src left nodes).b.Seated c.b := by
  simp [Blk.Seated, Chan.releaseQuery]

@[simp] theorem Chan.endGrants_seat (c : Chan) (a : Word) : (Chan.endGrants c a).b.Seated c.b := by
  simp [Blk.Seated, Chan.endGrants]

@[simp] theorem Blk.addAnswerer_seat (b : Blk) (d : Word) : (Blk.addAnswerer b d).Seated b := by
  simp [Blk.Seated, Blk.addAnswerer]

@[simp] theorem Chan.sendHeldOne_seat (c : Chan) (dst : Word) (r : FleetRec) : (Chan.sendHeldOne c dst r).b.Seated c.b := by
  unfold Chan.sendHeldOne; (repeat' split) <;> simp [Blk.Seated]

@[simp] theorem Chan.sendHeld_seat (c : Chan) (dst : Word) : (Chan.sendHeld c dst).b.Seated c.b := by
  simp [Blk.Seated, Chan.sendHeld]

@[simp] theorem Chan.takeOver_seat (c : Chan) (a : Word) (answer : List RelEntry) (answerer : Option (Word × Nat)) : (Chan.takeOver c a answer answerer).b.Seated c.b := by
  simp only [Chan.takeOver]; (repeat' split) <;> first | (simp [Blk.Seated]; done) | (refine Chan.foldl_seat _ _ _ _ ?_ ?_; (intros; (repeat' split) <;> simp [Blk.Seated]; done); (simp [Blk.Seated]; done))

@[simp] theorem Chan.askRelease_seat (c : Chan) (a : Word) (left : Word) (own : optParam Bool false) : (Chan.askRelease c a left own).b.Seated c.b := by
  unfold Chan.askRelease; (repeat' split) <;> simp [Blk.Seated]

@[simp] theorem Chan.queryTimeout_seat (c : Chan) (a : Word) : (Chan.queryTimeout c a).b.Seated c.b := by
  unfold Chan.queryTimeout; (repeat' split) <;> simp [Blk.Seated]

@[simp] theorem Chan.answerMissing_seat (c : Chan) (a : Word) : (Chan.answerMissing c a).b.Seated c.b := by
  simp [Blk.Seated, Chan.answerMissing]

@[simp] theorem Chan.releaseAnswer_seat (c : Chan) (src : Word) (es : List RelEntry) : (Chan.releaseAnswer c src es).b.Seated c.b := by
  simp only [Chan.releaseAnswer]; (repeat' split) <;> first | (simp [Blk.Seated]; done) | (refine Chan.foldl_seat _ _ _ _ ?_ ?_; (intros; (repeat' split) <;> simp [Blk.Seated]; done); (simp [Blk.Seated]; done))

@[simp] theorem Chan.attachKnown_seat (c : Chan) (x : Child) (frame : Nat) (left : Word) : (Chan.attachKnown c x frame left).b.Seated c.b := by
  simp [Blk.Seated, Chan.attachKnown]

@[simp] theorem Chan.adoptLeaf_seat (c : Chan) (src : Word) (frame : Nat) (left : Word) : (Chan.adoptLeaf c src frame left).b.Seated c.b := by
  simp [Blk.Seated, Chan.adoptLeaf]

@[simp] theorem Chan.dropGuests_seat (c : Chan) : (Chan.dropGuests c).b.Seated c.b := by
  simp [Blk.Seated, Chan.dropGuests]

/-! SeriesUnit -/

@[simp] theorem Chan.runSeries_seat (g : Nat) (c : Chan) (p : Nat × ChDesc × AggEntry) : (Chan.runSeries g c p).b.Seated c.b := by
  unfold Chan.runSeries
  extract_lets i desc level d prm s put e a inp r b1a b1 b2 b3 b4 room b5 ser0 c1 c2
  have hp : ∀ c h, (put c h).b.Seated c.b := by
    intro c h
    simp only [put]
    split <;> simp [Blk.Seated]
  split
  · exact hp _ _
  · skip
    have h1 : b1.Seated c.b := by
      have key : ∀ x : Extracted, (match x with | .absent mis => if mis = true then b1a.bump K.extractMismatches else b1a | _ => c.b).Seated c.b := by
        intro x
        cases x <;> (try simp only) <;> (try split) <;> simp [Blk.Seated, b1a]
      exact key inp
    have h2 : b2.Seated b1 := by
      simp only [b2]
      split <;> simp [Blk.Seated]
    have h3 : b3.Seated b2 := by
      simp only [b3]
      split <;> simp [Blk.Seated]
    have h4 : b4.Seated b3 := by
      simp only [b4]
      split <;> simp [Blk.Seated]
    refine Chan.foldl_seat _ _ _ _ (by intro x y; simp [Blk.Seated]) ?_
    refine Chan.seat_trans (hp _ _) ?_
    simp only [c1, b5]
    simp [Blk.Seated, h1, h2, h3, h4]

@[simp] theorem Chan.runSeriesUnit_seat (c : Chan) (g : Nat) : (Chan.runSeriesUnit c g).b.Seated c.b := by
  simp [Blk.Seated, Chan.runSeriesUnit]

@[simp] theorem Chan.swapSeries_seat (c : Chan) : (Chan.swapSeries c).b.Seated c.b := by
  simp [Blk.Seated, Chan.swapSeries]

/-! Laggard -/

@[simp] theorem Chan.onLag_seat (c : Chan) (f : Lag → Lag) : (Chan.onLag c f).b.Seated c.b := by
  simp [Blk.Seated, Chan.onLag]

@[simp] theorem Chan.takeBarrier_seat (w : Nat) (c : Chan) (ident : Nat) (r : LRec) : (Chan.takeBarrier w c ident r).b.Seated c.b := by
  simp only [Chan.takeBarrier]; (repeat' split) <;> first | (simp [Blk.Seated]; done) | (refine Chan.foldl_seat _ _ _ _ ?_ ?_; (intros; (repeat' split) <;> simp [Blk.Seated]; done); (simp [Blk.Seated]; done))

@[simp] theorem Chan.intake_seat (c : Chan) (d : Nat) : (Chan.intake c d).b.Seated c.b := by
  simp [Blk.Seated, Chan.intake]

@[simp] theorem Chan.windowExpire_seat (c : Chan) (ident : Nat) : (Chan.windowExpire c ident).b.Seated c.b := by
  simp [Blk.Seated, Chan.windowExpire]

@[simp] theorem Chan.scoreInstance_seat (c : Chan) (i : LInst) : (Chan.scoreInstance c i).b.Seated c.b := by
  simp [Blk.Seated, Chan.scoreInstance]

@[simp] theorem Chan.contributeOwn_seat (c : Chan) (f : Nat) (vs : List (Nat × Option Bool × Nat × Nat × Nat)) : (Chan.contributeOwn c f vs).b.Seated c.b := by
  simp [Blk.Seated, Chan.contributeOwn]

@[simp] theorem Chan.publishSlowest_seat (c : Chan) (f : Nat) : (Chan.publishSlowest c f).b.Seated c.b := by
  simp [Blk.Seated, Chan.publishSlowest]

@[simp] theorem Chan.runLaggards_seat (c : Chan) (g : Nat) : (Chan.runLaggards c g).b.Seated c.b := by
  simp [Blk.Seated, Chan.runLaggards]

@[simp] theorem Chan.noteAdoption_seat (c : Chan) : (Chan.noteAdoption c).b.Seated c.b := by
  simp [Blk.Seated, Chan.noteAdoption]

@[simp] theorem Chan.setSuspects_seat (c : Chan) (d : List Byte) : (Chan.setSuspects c d).b.Seated c.b := by
  simp [Blk.Seated, Chan.setSuspects]

@[simp] theorem Chan.clearSuspects_seat (c : Chan) (d : List Byte) : (Chan.clearSuspects c d).b.Seated c.b := by
  simp [Blk.Seated, Chan.clearSuspects]

/-! EgressUnit -/

@[simp] theorem Chan.onEgr_seat (c : Chan) (f : Egress → Egress) : (Chan.onEgr c f).b.Seated c.b := by
  simp [Blk.Seated, Chan.onEgr]

@[simp] theorem Chan.judgeSub_seat (c : Chan) (s : Nat) : (Chan.judgeSub c s).b.Seated c.b := by
  simp [Blk.Seated, Chan.judgeSub]

@[simp] theorem Chan.offer_seat (c : Chan) (q : Nat) (o : Offer) : (Chan.offer c q o).b.Seated c.b := by
  simp [Blk.Seated, Chan.offer]

@[simp] theorem Chan.offerAll_seat (c : Chan) (h : HandOff) : (Chan.offerAll c h).b.Seated c.b := by
  simp [Blk.Seated, Chan.offerAll]

@[simp] theorem Chan.handOff_seat (c : Chan) (q : Nat) (frame : Nat) (content : Nat) (colour : Nat) (payloads : List (List Byte)) : (Chan.handOff c q frame content colour payloads).b.Seated c.b := by
  simp [Blk.Seated, Chan.handOff]

@[simp] theorem Chan.notifyTo_seat (c : Chan) (sub : Nat) (payload : List Byte) : (Chan.notifyTo c sub payload).b.Seated c.b := by
  simp only [Chan.notifyTo]; (repeat' split) <;> first | (simp [Blk.Seated]; done) | (refine Chan.foldl_seat _ _ _ _ ?_ ?_; (intros; (repeat' split) <;> simp [Blk.Seated]; done); (simp [Blk.Seated]; done))

@[simp] theorem Chan.routing_seat (c : Chan) (leaf : Nat) (sub : Nat) (bitmap : List Byte) : (Chan.routing c leaf sub bitmap).b.Seated c.b := by
  simp [Blk.Seated, Chan.routing]

@[simp] theorem Chan.handAggregate_seat (c : Chan) (f : Nat) (level : Nat) : (Chan.handAggregate c f level).b.Seated c.b := by
  unfold Chan.handAggregate; (repeat' split) <;> simp [Blk.Seated]

@[simp] theorem Chan.handLate_seat (c : Chan) (f : Nat) (level : Nat) (slots : List Nat) : (Chan.handLate c f level slots).b.Seated c.b := by
  unfold Chan.handLate; (repeat' split) <;> simp [Blk.Seated]

@[simp] theorem Chan.streamSend_seat (c : Chan) (p : Nat) : (Chan.streamSend c p).b.Seated c.b := by
  simp only [Chan.streamSend]; (repeat' split) <;> first | (simp [Blk.Seated]; done) | (refine Chan.foldl_seat _ _ _ _ ?_ ?_; (intros; (repeat' split) <;> simp [Blk.Seated]; done); (simp [Blk.Seated]; done))

@[simp] theorem Chan.refillEgress_seat (c : Chan) : (Chan.refillEgress c).b.Seated c.b := by
  simp [Blk.Seated, Chan.refillEgress]

@[simp] theorem Chan.emptyQueue_seat (c : Chan) (q : Nat) : (Chan.emptyQueue c q).b.Seated c.b := by
  simp [Blk.Seated, Chan.emptyQueue]

@[simp] theorem Chan.rehome_seat (c before : Chan) (s : Nat) : (Chan.rehome c before s).b.Seated c.b := by
  simp only [Chan.rehome]; split <;> simp [Blk.Seated]

@[simp] theorem Chan.entryWritten_seat (c : Chan) (key : Nat) (v : Val) : (Chan.entryWritten c key v).b.Seated c.b := by
  simp [Blk.Seated, Chan.entryWritten]

@[simp] theorem Chan.rebind_seat (c : Chan) (s : Nat) (moved : Bool) : (Chan.rebind c s moved).b.Seated c.b := by
  simp [Blk.Seated, Chan.rebind]

@[simp] theorem Chan.egressDown_seat (c : Chan) (p : Nat) : (Chan.egressDown c p).b.Seated c.b := by
  simp [Blk.Seated, Chan.egressDown]

@[simp] theorem Chan.egressUp_seat (c : Chan) (p : Nat) : (Chan.egressUp c p).b.Seated c.b := by
  simp [Blk.Seated, Chan.egressUp]

@[simp] theorem Chan.portReturn_seat (c : Chan) (p : Nat) : (Chan.portReturn c p).b.Seated c.b := by
  simp [Blk.Seated, Chan.portReturn]

@[simp] theorem Chan.countPorts_seat (c : Chan) : (Chan.countPorts c).b.Seated c.b := by
  simp [Blk.Seated, Chan.countPorts]

@[simp] theorem Chan.backpressure_seat (c : Chan) (p : Nat) (on : Bool) : (Chan.backpressure c p on).b.Seated c.b := by
  simp [Blk.Seated, Chan.backpressure]

/-! BalanceUnit -/

@[simp] theorem Chan.putScore_seat (c : Chan) (set : Nat) (row : Nat) (s : Score) : (Chan.putScore c set row s).b.Seated c.b := by
  simp [Blk.Seated, Chan.putScore]

@[simp] theorem Chan.staleRow_seat (c : Chan) (set : Nat) (row : Nat) : (Chan.staleRow c set row).b.Seated c.b := by
  simp [Blk.Seated, Chan.staleRow]

@[simp] theorem Chan.buildRow_seat (img : List Byte) (set : Nat) (s : RowSet) (d : Nat) (c : Chan) (r : Nat) : (Chan.buildRow img set s d c r).b.Seated c.b := by
  simp [Blk.Seated, Chan.buildRow]

@[simp] theorem Chan.runFacets_seat (c : Chan) (g : Nat) : (Chan.runFacets c g).b.Seated c.b := by
  simp [Blk.Seated, Chan.runFacets]

@[simp] theorem Chan.scoreRow_seat (img : List Byte) (set : Nat) (s : RowSet) (bd : SetBuild) (c : Chan) (r : Nat) : (Chan.scoreRow img set s bd c r).b.Seated c.b := by
  unfold Chan.scoreRow; (repeat' split) <;> simp [Blk.Seated]

@[simp] theorem Chan.runBalance_seat (c : Chan) (g : Nat) : (Chan.runBalance c g).b.Seated c.b := by
  simp [Blk.Seated, Chan.runBalance]

@[simp] theorem Chan.balChecked_seat (c : Chan) : (Chan.balChecked c).b.Seated c.b := by
  simp [Blk.Seated, Chan.balChecked]

@[simp] theorem Blk.setBalActive_seat (b : Blk) (img : List Byte) : (Blk.setBalActive b img).Seated b := by
  simp [Blk.Seated, Blk.setBalActive]

@[simp] theorem Chan.balSwap_seat (c : Chan) : (Chan.balSwap c).b.Seated c.b := by
  simp [Blk.Seated, Chan.balSwap]

/-! RuleUnit -/

@[simp] theorem Chan.onRul_seat (c : Chan) (f : Rules → Rules) : (Chan.onRul c f).b.Seated c.b := by
  simp [Blk.Seated, Chan.onRul]

@[simp] theorem Chan.taintIdentity_seat (c : Chan) (kind : Nat) (unit : Nat) : (Chan.taintIdentity c kind unit).2.b.Seated c.b := by
  unfold Chan.taintIdentity; (repeat' split) <;> simp [Blk.Seated]

@[simp] theorem Chan.taint_seat (c : Chan) (g : Nat) (img : List Byte) (k : Nat) (s : Nat) (r : Rule) (lat : List (Nat × Nat × Nat × Nat)) : (Chan.taint c g img k s r lat).2.b.Seated c.b := by
  simp only [Chan.taint]; (repeat' split) <;> first | (simp [Blk.Seated]; done) | (refine Chan.foldl_seat _ _ _ _ ?_ ?_; (intros; (repeat' split) <;> simp [Blk.Seated]; done); (simp [Blk.Seated]; done))

@[simp] theorem Chan.actionItems_seat (c : Chan) (g : Nat) (img : List Byte) (k : Nat) (s : Nat) (r : Rule) (lat : List (Nat × Nat × Nat × Nat)) : (Chan.actionItems c g img k s r lat).2.2.b.Seated c.b := by
  simp only [Chan.actionItems]; (repeat' split) <;> first | (simp [Blk.Seated]; done) | (refine Chan.foldl_seat _ _ _ _ ?_ ?_; (intros; (repeat' split) <;> simp [Blk.Seated]; done); (simp [Blk.Seated]; done))

@[simp] theorem Chan.onPac_seat (c : Chan) (f : Pacer → Pacer) : (Chan.onPac c f).b.Seated c.b := by
  simp [Blk.Seated, Chan.onPac]

@[simp] theorem Chan.queueRuleWake_seat (c : Chan) (k : Nat) (s : Nat) (pos : Nat) (region : Nat) : (Chan.queueRuleWake c k s pos region).b.Seated c.b := by
  simp [Blk.Seated, Chan.queueRuleWake]

@[simp] theorem Chan.withdrawWakes_seat (c : Chan) (keep : Nat → Nat → Bool) : (Chan.withdrawWakes c keep).b.Seated c.b := by
  simp [Blk.Seated, Chan.withdrawWakes]

theorem Eval.admit_seat (e : Eval) (g k s : Nat) (r : Rule) (swapAt apply : Nat) (keys : List (Option Word × Nat))
    (a : Option Word × List Wr × Chan) : (e.admitAct g k s r swapAt apply keys a).c.b.Seated a.2.2.b := by
  have h : ∀ (e : Eval) (dst : Option Word) (n m : Nat), (e.addItems dst n m).c = e.c := by
    intro e dst n m
    unfold Eval.addItems
    split <;> rfl
  unfold Eval.admitAct
  (repeat' split) <;> simp [Blk.Seated, h]

theorem Eval.attempt_seat (e : Eval) (g : Nat) (img : List Byte) (k s : Nat) (r : Rule) (lat : List (Nat × Nat × Nat × Nat))
    (winner : Option (Nat × Nat)) : (e.attempt g img k s r lat winner).2.c.b.Seated e.c.b := by
  simp only [Eval.attempt]
  generalize h0 : (if e.c.wakes r s = true then e.c.queueRuleWake k s ((r.first + s) / 32) ((r.first + s) % 32) else e.c) = c0
  have h1 : c0.b.Seated e.c.b := by
    rw [← h0]
    split <;> simp [Blk.Seated]
  (repeat' split) <;> simp [Blk.Seated, h1, Eval.admit_seat]

theorem Eval.subject_seat (g : Nat) (img : List Byte) (k : Nat) (r : Rule) (lat : List (Nat × Nat × Nat × Nat))
    (winner : Option (Nat × Nat)) (e : Eval) (s : Nat) : (Eval.subject g img k r lat winner e s).c.b.Seated e.c.b := by
  have h := Eval.attempt_seat e g img k s r lat winner
  simp only [Eval.subject]
  (repeat' split) <;> simp [Blk.Seated, h]

theorem Eval.rules_seat (g : Nat) (img : List Byte) (n : Nat) (lat : List (Nat × Nat × Nat × Nat)) (winner : Option (Nat × Nat))
    (e : Eval) : (Eval.rules g img n lat winner e).c.b.Seated e.c.b := by
  have key : ∀ (h : Eval → Nat → Eval) (hh : ∀ e s, (h e s).c.b.Seated e.c.b) (l : List Nat) (e : Eval), (l.foldl h e).c.b.Seated e.c.b := by
    intro h hh l
    induction l with
    | nil => intro e; simp [Blk.Seated]
    | cons a l ih => intro e; rw [List.foldl_cons]; have h1 := ih (h e a); have h2 := hh e a; simp [Blk.Seated, h1, h2]
  exact key _ (fun e k => key _ (fun e s => Eval.subject_seat g img k (ruleAt img k) lat winner e s) _ e) _ e

@[simp] theorem Chan.runRules_seat (c : Chan) (g : Nat) : (Chan.runRules c g).b.Seated c.b := by
  simp only [Chan.runRules]
  split
  · simp [Blk.Seated]
  · have h2 := fun img n lat w e => Eval.rules_seat g img n lat w e
    simp [Blk.Seated, h2]

@[simp] theorem Chan.returnActions_seat (c : Chan) (swapAt : Nat) (subjects : List (Nat × Nat)) : (Chan.returnActions c swapAt subjects).b.Seated c.b := by
  simp only [Chan.returnActions]
  split
  · simp [Blk.Seated]
  · exact Chan.foldl_seat _ _ _ _ (by intros; simp [Blk.Seated]) (by simp [Blk.Seated])

@[simp] theorem Chan.sendNotify_seat (c : Chan) (d : List Byte) : (Chan.sendNotify c d).b.Seated c.b := by
  unfold Chan.sendNotify; (repeat' split) <;> simp [Blk.Seated]

@[simp] theorem Chan.submitLoss_seat (c : Chan) (d : List Byte) : (Chan.submitLoss c d).b.Seated c.b := by
  simp [Blk.Seated, Chan.submitLoss]

@[simp] theorem Chan.setLossWindow_seat (c : Chan) (v : Nat) : (Chan.setLossWindow c v).b.Seated c.b := by
  simp [Blk.Seated, Chan.setLossWindow]

@[simp] theorem Chan.publishLoss_seat (c : Chan) (f : Nat) : (Chan.publishLoss c f).b.Seated c.b := by
  simp [Blk.Seated, Chan.publishLoss]

@[simp] theorem Chan.rulChecked_seat (c : Chan) : (Chan.rulChecked c).b.Seated c.b := by
  simp [Blk.Seated, Chan.rulChecked]

@[simp] theorem Blk.setRulActive_seat (b : Blk) (img : List Byte) : (Blk.setRulActive b img).Seated b := by
  simp [Blk.Seated, Blk.setRulActive]

@[simp] theorem Chan.rulSwap_seat (c : Chan) : (Chan.rulSwap c).b.Seated c.b := by
  simp [Blk.Seated, Chan.rulSwap]

/-! FaultStore -/

@[simp] theorem Chan.putFlash_seat (c : Chan) (r : FlashRec) : (Chan.putFlash c r).b.Seated c.b := by
  simp [Blk.Seated, Chan.putFlash]

@[simp] theorem Chan.promote_seat (c : Chan) (node : Word) (src : Word) (num : Word) : (Chan.promote c node src num).b.Seated c.b := by
  simp [Blk.Seated, Chan.promote]

@[simp] theorem Chan.dropPending_seat (c : Chan) (node : Word) (src : Word) (num : Word) : (Chan.dropPending c node src num).b.Seated c.b := by
  simp [Blk.Seated, Chan.dropPending]

@[simp] theorem Chan.putFirmware_seat (c : Chan) (v : List Byte) : (Chan.putFirmware c v).b.Seated c.b := by
  simp [Blk.Seated, Chan.putFirmware]

@[simp] theorem Chan.storeDone_seat (c : Chan) (node : Word) (j : FlashJob) : (Chan.storeDone c node j).b.Seated c.b := by
  unfold Chan.storeDone; (repeat' split) <;> simp [Blk.Seated]

@[simp] theorem Chan.queueLog_seat (c : Chan) (d : List Byte) (perm : Bool) (type : Nat) : (Chan.queueLog c d perm type).b.Seated c.b := by
  simp [Blk.Seated, Chan.queueLog]

@[simp] theorem Chan.countLocs_seat (c : Chan) : (Chan.countLocs c).b.Seated c.b := by
  simp [Blk.Seated, Chan.countLocs]

@[simp] theorem Chan.wantFence_seat (c : Chan) (loc : Nat) : (Chan.wantFence c loc).b.Seated c.b := by
  simp [Blk.Seated, Chan.wantFence]

@[simp] theorem Chan.takeEvent_seat (c : Chan) (d : List Byte) (reproduced : Bool) : (Chan.takeEvent c d reproduced).b.Seated c.b := by
  exact Chan.seat_of_own (Chan.own_takeEvent _ _ _)

@[simp] theorem Chan.drainFaults_seat (c : Chan) : (Chan.drainFaults c).b.Seated c.b := by
  exact Chan.seat_of_own (Chan.own_drainFaults _)

@[simp] theorem Chan.faultLogWrite_seat (c : Chan) (stamp : Nat) : (Chan.faultLogWrite c stamp).b.Seated c.b := by
  unfold Chan.faultLogWrite; (repeat' split) <;> simp [Blk.Seated]

@[simp] theorem Chan.clearLocation_seat (c : Chan) (v : Nat) : (Chan.clearLocation c v).b.Seated c.b := by
  simp only [Chan.clearLocation]; (repeat' split) <;> first | (simp [Blk.Seated]; done) | (refine Chan.foldl_seat _ _ _ _ ?_ ?_; (intros; (repeat' split) <;> simp [Blk.Seated]; done); (simp [Blk.Seated]; done))

@[simp] theorem Chan.startupFailures_seat (c : Chan) (v : List Byte) : (Chan.startupFailures c v).b.Seated c.b := by
  simp [Blk.Seated, Chan.startupFailures]

@[simp] theorem Chan.permanentFence_seat (c : Chan) : (Chan.permanentFence c).b.Seated c.b := by
  unfold Chan.permanentFence; (repeat' split) <;> simp [Blk.Seated]

/-! MoverUnit -/

@[simp] theorem Chan.onMem_seat (c : Chan) (f : Mem → Mem) : (Chan.onMem c f).b.Seated c.b := by
  simp [Blk.Seated, Chan.onMem]

theorem Chan.present_some {c c1 : Chan} {k : Nat} (h : c.present k = some c1) :
    c1.b.Seated c.b := by
  simp only [Chan.present] at h
  repeat' split at h
  all_goals first | (cases h; simp [Blk.Seated]; done) | (simp [Blk.Seated] at h; done)

theorem Chan.presentOne_some {c c1 : Chan} {l : List Nat} (h : c.presentOne l = some c1) :
    c1.b.Seated c.b := by
  induction l with
  | nil => simp [Blk.Seated, Chan.presentOne] at h
  | cons k ks ih =>
    simp only [Chan.presentOne] at h
    split at h
    · next c2 h2 => cases h; exact Chan.present_some h2
    · exact ih h

@[simp] theorem Chan.present64_seat (c : Chan) (a1 : Nat) : (Chan.present64 c a1).b.Seated c.b := by
  induction a1 generalizing c with
  | zero => simp [Blk.Seated, Chan.present64]
  | succ n ih =>
    simp only [Chan.present64]
    split
    · simp [Blk.Seated]
    · next c1 h => simp [Blk.Seated, ih, Chan.presentOne_some h]

@[simp] theorem Chan.fetchDesc_seat (c : Chan) (m : Nat) (a : Nat) : (Chan.fetchDesc c m a).b.Seated c.b := by
  simp [Blk.Seated, Chan.fetchDesc]

@[simp] theorem Chan.moverStart_seat (c : Chan) (m : Nat) (a : Nat) : (Chan.moverStart c m a).b.Seated c.b := by
  simp [Blk.Seated, Chan.moverStart]

@[simp] theorem Chan.moverStop_seat (c : Chan) (m : Nat) : (Chan.moverStop c m).b.Seated c.b := by
  simp [Blk.Seated, Chan.moverStop]

@[simp] theorem Chan.moverHalt_seat (c : Chan) (m : Nat) (st : Nat) : (Chan.moverHalt c m st).b.Seated c.b := by
  simp [Blk.Seated, Chan.moverHalt]

@[simp] theorem Chan.descEnd_seat (c : Chan) (m : Nat) : (Chan.descEnd c m).b.Seated c.b := by
  simp [Blk.Seated, Chan.descEnd]

@[simp] theorem Chan.writeBack_seat (c : Chan) (m : Nat) (st : Nat) : (Chan.writeBack c m st).b.Seated c.b := by
  simp [Blk.Seated, Chan.writeBack]

@[simp] theorem Chan.openBytes_seat (c : Chan) (d : Dma) (data : List Byte) : (Chan.openBytes c d data).2.b.Seated c.b := by
  simp [Blk.Seated, Chan.openBytes]

@[simp] theorem Chan.moveOut_seat (c : Chan) (m : Nat) : (Chan.moveOut c m).b.Seated c.b := by
  simp [Blk.Seated, Chan.moveOut]

@[simp] theorem Chan.descFetch_seat (c : Chan) (m : Nat) : (Chan.descFetch c m).b.Seated c.b := by
  simp [Blk.Seated, Chan.descFetch]

@[simp] theorem Chan.landBytes_seat (c : Chan) (d : Dma) : (Chan.landBytes c d).b.Seated c.b := by
  simp [Blk.Seated, Chan.landBytes]

@[simp] theorem Chan.descDone_seat (c : Chan) (m : Nat) : (Chan.descDone c m).b.Seated c.b := by
  simp [Blk.Seated, Chan.descDone]

@[simp] theorem Chan.moverGoes_seat (c : Chan) (m : Nat) (r : MReq) : (Chan.moverGoes c m r).b.Seated c.b := by
  simp [Blk.Seated, Chan.moverGoes]

/-! CaratUnit -/

@[simp] theorem Chan.onCar_seat (c : Chan) (f : Carat → Carat) : (Chan.onCar c f).b.Seated c.b := by
  simp [Blk.Seated, Chan.onCar]

@[simp] theorem Chan.stage_seat (c : Chan) (s : Nat) (d : List Byte) : (Chan.stage c s d).2.b.Seated c.b := by
  simp [Blk.Seated, Chan.stage]

@[simp] theorem Chan.archive_seat (c : Chan) (f : Nat) (level : Nat) : (Chan.archive c f level).b.Seated c.b := by
  unfold Chan.archive; (repeat' split) <;> simp [Blk.Seated]

@[simp] theorem Chan.writeStream_seat (c : Chan) (s : Nat) (v : List Byte) : (Chan.writeStream c s v).b.Seated c.b := by
  simp [Blk.Seated, Chan.writeStream]

@[simp] theorem Chan.fetchRead_seat (c : Chan) (s : Nat) : (Chan.fetchRead c s).b.Seated c.b := by
  simp only [Chan.fetchRead]; (repeat' split) <;> first | (simp [Blk.Seated]; done) | (refine Chan.foldl_seat _ _ _ _ ?_ ?_; (intros; (repeat' split) <;> simp [Blk.Seated]; done); (simp [Blk.Seated]; done))

@[simp] theorem Chan.startFetch_seat (c : Chan) (v : Nat) : (Chan.startFetch c v).b.Seated c.b := by
  unfold Chan.startFetch; (repeat' split) <;> simp [Blk.Seated]

@[simp] theorem Chan.fetchAnswer_seat (c : Chan) (s : Nat) (status : Nat) (d : List Byte) : (Chan.fetchAnswer c s status d).b.Seated c.b := by
  unfold Chan.fetchAnswer; (repeat' split) <;> simp [Blk.Seated]

@[simp] theorem Chan.openFetches_seat (c : Chan) : (Chan.openFetches c).b.Seated c.b := by
  simp [Blk.Seated, Chan.openFetches]

@[simp] theorem Chan.sealStream_seat (c : Chan) (s : Nat) : (Chan.sealStream c s).b.Seated c.b := by
  simp only [Chan.sealStream]; (repeat' split) <;> first | (simp [Blk.Seated]; done) | (refine Chan.foldl_seat _ _ _ _ ?_ ?_; (intros; (repeat' split) <;> simp [Blk.Seated]; done); (simp [Blk.Seated]; done))

@[simp] theorem Chan.jobGoes_seat (c : Chan) (decomp : Bool) : (Chan.jobGoes c decomp).b.Seated c.b := by
  unfold Chan.jobGoes; (repeat' split) <;> simp [Blk.Seated]

@[simp] theorem Chan.sealBlock_seat (c : Chan) : (Chan.sealBlock c).b.Seated c.b := by
  unfold Chan.sealBlock; (repeat' split) <;> simp [Blk.Seated]

@[simp] theorem Chan.startJob_seat (c : Chan) (decomp : Bool) : (Chan.startJob c decomp).b.Seated c.b := by
  simp only [Chan.startJob]; (repeat' split) <;> first | (simp [Blk.Seated]; done) | (refine Chan.foldl_seat _ _ _ _ ?_ ?_; (intros; (repeat' split) <;> simp [Blk.Seated]; done); (simp [Blk.Seated]; done))

@[simp] theorem Chan.submitJob_seat (c : Chan) (d : List Byte) : (Chan.submitJob c d).b.Seated c.b := by
  simp [Blk.Seated, Chan.submitJob]

@[simp] theorem Chan.putResult_seat (c : Chan) (tag : Nat) (result : Nat) (consumed : Nat) (produced : Nat) (good : Nat) (off : Nat) : (Chan.putResult c tag result consumed produced good off).b.Seated c.b := by
  simp [Blk.Seated, Chan.putResult]

@[simp] theorem Chan.jobDone_seat (c : Chan) (decomp : Bool) : (Chan.jobDone c decomp).b.Seated c.b := by
  simp only [Chan.jobDone]
  split
  · simp [Blk.Seated]
  · split
    · simp [Blk.Seated]
    · generalize hx : (if (c.mem.client (jobClient decomp)).writeFault.isSome = true ∧ decomp = true then _ else _ : Nat × Blk) = off
      have h1 : off.2.Seated c.b := by
        rw [← hx]
        (repeat' split) <;> simp [Blk.Seated]
      simp [Blk.Seated, h1]

@[simp] theorem Chan.popResult_seat (c : Chan) : (Chan.popResult c).2.b.Seated c.b := by
  unfold Chan.popResult; (repeat' split) <;> simp [Blk.Seated]

@[simp] theorem Chan.clientAnswer_seat (c : Chan) (r : MReq) (err : Bool) (data : Nat) : (Chan.clientAnswer c r err data).b.Seated c.b := by
  simp [Blk.Seated, Chan.clientAnswer]

@[simp] theorem Chan.mmpResponse_seat (c : Chan) (n : Nat) (err : Bool) (data : Nat) : (Chan.mmpResponse c n err data).b.Seated c.b := by
  unfold Chan.mmpResponse; (repeat' split) <;> simp [Blk.Seated]

@[simp] theorem Chan.mmpTimeout_seat (c : Chan) (n : Nat) : (Chan.mmpTimeout c n).b.Seated c.b := by
  unfold Chan.mmpTimeout; (repeat' split) <;> simp [Blk.Seated]

/-! Supply -/

@[simp] theorem Chan.showPacer_seat (c : Chan) : (Chan.showPacer c).b.Seated c.b := by
  simp [Blk.Seated, Chan.showPacer]

@[simp] theorem Chan.grant_seat (c : Chan) (bus : Nat) (a2 : Nat) : (Chan.grant c bus a2).b.Seated c.b := by
  fun_induction Chan.grant c bus a2 <;> (try simp_all [Blk.Seated]) <;> first | exact ⟨rfl, rfl, rfl, rfl, rfl⟩ | skip

@[simp] theorem Chan.pacerTick_seat (c : Chan) (bus : Nat) (fraction : Nat) : (Chan.pacerTick c bus fraction).b.Seated c.b := by
  simp [Blk.Seated, Chan.pacerTick]

@[simp] theorem Chan.wakeRequest_seat (c : Chan) (v : List Byte) : (Chan.wakeRequest c v).b.Seated c.b := by
  simp only [Chan.wakeRequest]
  refine Chan.seat_trans (Chan.showPacer_seat _) ?_
  refine Chan.foldl_seat _ _ _ _ ?_ ?_
  · intro x a
    try dsimp only
    split
    · simp [Blk.Seated]
    · refine Chan.foldl_seat _ _ _ _ ?_ ?_
      · intro y b
        split <;> simp [Blk.Seated]
      · simp [Blk.Seated]
  · simp [Blk.Seated]

@[simp] theorem Chan.commitWakes_seat (c : Chan) : (Chan.commitWakes c).b.Seated c.b := by
  simp [Blk.Seated, Chan.commitWakes]

@[simp] theorem Chan.wakeAnswer_seat (c : Chan) (r : Remote) (regions : List Nat) (status : Nat) : (Chan.wakeAnswer c r regions status).b.Seated c.b := by
  simp [Blk.Seated, Chan.wakeAnswer]

@[simp] theorem Chan.judgeMoves_seat (c : Chan) (k : Nat) : (Chan.judgeMoves c k).b.Seated c.b := by
  simp [Blk.Seated, Chan.judgeMoves]

@[simp] theorem Chan.judgeReturns_seat (c : Chan) (f : Nat) (k : Nat) : (Chan.judgeReturns c f k).b.Seated c.b := by
  simp [Blk.Seated, Chan.judgeReturns]

@[simp] theorem Chan.needChange_seat (c : Chan) (mv : Nat) : (Chan.needChange c mv).b.Seated c.b := by
  simp [Blk.Seated, Chan.needChange]

@[simp] theorem Chan.marginEvent_seat (c : Chan) (mv : Nat) : (Chan.marginEvent c mv).b.Seated c.b := by
  simp [Blk.Seated, Chan.marginEvent]

@[simp] theorem Chan.takeTemp_seat (c : Chan) (t : Nat) : (Chan.takeTemp c t).b.Seated c.b := by
  simp [Blk.Seated, Chan.takeTemp]

/-! Member -/

@[simp] theorem Chan.refuseJoin_seat (c : Chan) (a : Word) (pos : Nat) (status : Nat) : (Chan.refuseJoin c a pos status).b.Seated c.b := by
  simp [Blk.Seated, Chan.refuseJoin]

@[simp] theorem Chan.joinRetry_seat (c : Chan) (pos : Nat) : (Chan.joinRetry c pos).b.Seated c.b := by
  simp [Blk.Seated, Chan.joinRetry]

@[simp] theorem Chan.startJoin_seat (c : Chan) (a : Word) (pos : Nat) (frame : Nat) (standby : Nat) (listed : Bool) : (Chan.startJoin c a pos frame standby listed).b.Seated c.b := by
  simp [Blk.Seated, Chan.startJoin]

@[simp] theorem Chan.attachHome_seat (c : Chan) (pos : Nat) (frame : Nat) (left : Word) : (Chan.attachHome c pos frame left).b.Seated c.b := by
  simp only [Chan.attachHome]; (repeat' split) <;> first | (simp [Blk.Seated]; done) | (refine Chan.foldl_seat _ _ _ _ ?_ ?_; (intros; (repeat' split) <;> simp [Blk.Seated]; done); (simp [Blk.Seated]; done))

@[simp] theorem Chan.attachChan_seat (c : Chan) (src : Word) (port : Bool) (frame : Nat) (left : Word) : (Chan.attachChan c src port frame left).b.Seated c.b := by
  simp only [Chan.attachChan]; (repeat' split) <;> simp [Blk.Seated]

@[simp] theorem Chan.attach_seat (c : Chan) (src : Word) (port : Bool) (pos : Nat) (frame : Nat) (left : Nat) : (Chan.attach c src port pos frame left).b.Seated c.b := by
  simp [Blk.Seated, Chan.attach]

@[simp] theorem Chan.sendJoinTxn_seat (c : Chan) (dst : Word) (leaf : Bool) (ws : List Wr) (a : Nat) : (Chan.sendJoinTxn c dst leaf ws a).b.Seated c.b := by
  simp [Blk.Seated, Chan.sendJoinTxn]

@[simp] theorem Chan.onJoin_seat (c : Chan) (a : Word) (f : Join → Join) : (Chan.onJoin c a f).b.Seated c.b := by
  simp [Blk.Seated, Chan.onJoin]

@[simp] theorem Chan.joinNext_seat (c : Chan) (a : Word) : (Chan.joinNext c a).b.Seated c.b := by
  unfold Chan.joinNext; (repeat' split) <;> simp [Blk.Seated]

@[simp] theorem Chan.dropJoin_seat (c : Chan) (a : Word) : (Chan.dropJoin c a).b.Seated c.b := by
  simp [Blk.Seated, Chan.dropJoin]

@[simp] theorem Chan.joinChecked_seat (c : Chan) (a : Word) (pos : Nat) (r : Resp) : (Chan.joinChecked c a pos r).b.Seated c.b := by
  simp [Blk.Seated, Chan.joinChecked]

@[simp] theorem Chan.joinCommitted_seat (c : Chan) (a : Word) (r : Remote) (status : Nat) : (Chan.joinCommitted c a r status).b.Seated c.b := by
  simp [Blk.Seated, Chan.joinCommitted]

@[simp] theorem Chan.admitJoins_seat (c : Chan) (k : Nat) : (Chan.admitJoins c k).b.Seated c.b := by
  simp [Blk.Seated, Chan.admitJoins]

@[simp] theorem Blk.setLedger_seat (b : Blk) (es : List (List Byte)) : (Blk.setLedger b es).Seated b := by
  simp [Blk.Seated, Blk.setLedger]

@[simp] theorem Chan.withdrawLeaves_seat (c : Chan) (v : Nat) : (Chan.withdrawLeaves c v).b.Seated c.b := by
  simp only [Chan.withdrawLeaves]
  refine Chan.foldl_seat _ _ _ _ ?_ ?_
  · intro x a
    try dsimp only
    (repeat' split) <;> simp [Blk.Seated]
  · simp [Blk.Seated]

@[simp] theorem Chan.leaveRegions_seat (c : Chan) : (Chan.leaveRegions c).b.Seated c.b := by
  simp [Blk.Seated, Chan.leaveRegions]

@[simp] theorem Chan.leaveSleep_seat (c : Chan) : (Chan.leaveSleep c).b.Seated c.b := by
  simp [Blk.Seated, Chan.leaveSleep]

@[simp] theorem Chan.leaveDone_seat (c : Chan) (pos : Nat) : (Chan.leaveDone c pos).b.Seated c.b := by
  simp only [Chan.leaveDone]
  split
  · simp [Blk.Seated]
  · split <;> (split <;> simp [Blk.Seated])

@[simp] theorem Chan.handOver_seat (c : Chan) : (Chan.handOver c).b.Seated c.b := by
  simp [Blk.Seated, Chan.handOver]

@[simp] theorem Chan.withdraw_seat (c : Chan) (n : Nat) : (Chan.withdraw c n).b.Seated c.b := by
  simp [Blk.Seated, Chan.withdraw]

@[simp] theorem Chan.withdrawDone_seat (c : Chan) : (Chan.withdrawDone c).b.Seated c.b := by
  unfold Chan.withdrawDone; (repeat' split) <;> simp [Blk.Seated]

@[simp] theorem Chan.memberLeave_seat (c : Chan) (src : Word) (id : Nat) : (Chan.memberLeave c src id).b.Seated c.b := by
  unfold Chan.memberLeave; (repeat' split) <;> simp [Blk.Seated]

@[simp] theorem Chan.removeChild_seat (c : Chan) (id : Nat) : (Chan.removeChild c id).b.Seated c.b := by
  unfold Chan.removeChild; (repeat' split) <;> simp [Blk.Seated]

@[simp] theorem Chan.closeChildren_seat (c : Chan) : (Chan.closeChildren c).b.Seated c.b := by
  simp [Blk.Seated, Chan.closeChildren]

@[simp] theorem Chan.dropLeft_seat (c : Chan) (k : Nat) : (Chan.dropLeft c k).b.Seated c.b := by
  simp [Blk.Seated, Chan.dropLeft]

@[simp] theorem Blk.leaveNone_seat (b : Blk) : (Blk.leaveNone b).Seated b := by
  simp [Blk.Seated, Blk.leaveNone]

@[simp] theorem Chan.parentLost_seat (c : Chan) : (Chan.parentLost c).b.Seated c.b := by
  simp [Blk.Seated, Chan.parentLost]

@[simp] theorem Chan.judgeMember_seat (c : Chan) : (Chan.judgeMember c).b.Seated c.b := by
  simp [Blk.Seated, Chan.judgeMember]

@[simp] theorem Chan.parentControl_seat (c : Chan) (src : Word) (h : FragHdr) (es : List RelEntry) : (Chan.parentControl c src h es).b.Seated c.b := by
  simp [Blk.Seated, Chan.parentControl]

@[simp] theorem Chan.askSuccessor_seat (c : Chan) : (Chan.askSuccessor c).b.Seated c.b := by
  simp [Blk.Seated, Chan.askSuccessor]

@[simp] theorem Chan.successorSilent_seat (c : Chan) : (Chan.successorSilent c).b.Seated c.b := by
  unfold Chan.successorSilent; (repeat' split) <;> simp [Blk.Seated]

/-! Touchstone -/

@[simp] theorem Leaf.takeChecksum_seat (l : Leaf) (d : Nat) (off : Nat) : (Leaf.takeChecksum l d off).b.Seated l.b := by
  simp [Blk.Seated, Leaf.takeChecksum]

@[simp] theorem Leaf.setRatio_seat (l : Leaf) (n : Nat) : (Leaf.setRatio l n).b.Seated l.b := by
  simp [Blk.Seated, Leaf.setRatio]

@[simp] theorem Leaf.decideBeat_seat (l : Leaf) (f : Nat) (off : Nat) (d : Nat) (fenced : Bool) : (Leaf.decideBeat l f off d fenced).b.Seated l.b := by
  simp [Blk.Seated, Leaf.decideBeat]

@[simp] theorem Leaf.reachMark_seat (l : Leaf) (f : Nat) (s : TsSet) (relearn : Nat) : (Leaf.reachMark l f s relearn).b.Seated l.b := by
  simp [Blk.Seated, Leaf.reachMark]

@[simp] theorem Leaf.decideOne_seat (l : Leaf) : (Leaf.decideOne l).b.Seated l.b := by
  unfold Leaf.decideOne; (repeat' split) <;> simp [Blk.Seated]

@[simp] theorem Leaf.passMarks_seat (a0 : Nat) (a1 : Leaf) : (Leaf.passMarks a0 a1).b.Seated a1.b := by
  fun_induction Leaf.passMarks a0 a1 <;> (try simp_all [Blk.Seated]) <;> first | exact ⟨rfl, rfl, rfl, rfl, rfl⟩ | skip

@[simp] theorem Leaf.decideNext_seat (l : Leaf) : (Leaf.decideNext l).b.Seated l.b := by
  simp [Blk.Seated, Leaf.decideNext]

@[simp] theorem Leaf.addMark_seat (l : Leaf) (s : TsSet) (relearn : Nat) : (Leaf.addMark l s relearn).b.Seated l.b := by
  simp [Blk.Seated, Leaf.addMark]

@[simp] theorem Leaf.relearn_seat (l : Leaf) (bitmap : List Byte) : (Leaf.relearn l bitmap).b.Seated l.b := by
  simp [Blk.Seated, Leaf.relearn]

@[simp] theorem Leaf.openTouch_seat (l : Leaf) (k : Nat) : (Leaf.openTouch l k).b.Seated l.b := by
  simp [Blk.Seated, Leaf.openTouch]

@[simp] theorem Leaf.decideThrough_seat (f : Nat) (a1 : Nat) (a2 : Leaf) : (Leaf.decideThrough f a1 a2).b.Seated a2.b := by
  fun_induction Leaf.decideThrough f a1 a2 <;> (try simp_all [Blk.Seated]) <;> first | exact ⟨rfl, rfl, rfl, rfl, rfl⟩ | skip

@[simp] theorem Leaf.touchReports_seat (l : Leaf) (x : TsFrame) : (Leaf.touchReports l x).b.Seated l.b := by
  simp [Blk.Seated, Leaf.touchReports]

@[simp] theorem Leaf.sealTouch_seat (l : Leaf) (f : Nat) : (Leaf.sealTouch l f).2.b.Seated l.b := by
  simp only [Leaf.sealTouch]; (repeat' split) <;> first | (simp [Blk.Seated]; done) | (refine Leaf.foldl_seat _ _ _ _ ?_ ?_; (intros; (repeat' split) <;> simp [Blk.Seated]; done); (simp [Blk.Seated]; done))

@[simp] theorem Leaf.overrunTouch_seat (l : Leaf) (f : Nat) (left : Nat) : (Leaf.overrunTouch l f left).b.Seated l.b := by
  simp [Blk.Seated, Leaf.overrunTouch]

/-! AssayLeaf -/

@[simp] theorem Leaf.damage_seat (l : Leaf) (id : Nat) : (Leaf.damage l id).b.Seated l.b := by
  simp [Blk.Seated, Leaf.damage]

@[simp] theorem Leaf.weightBeat_seat (l : Leaf) (data : Nat) (tensor : Nat) (word : Nat) (count : Nat) (epoch : Nat) : (Leaf.weightBeat l data tensor word count epoch).b.Seated l.b := by
  simp [Blk.Seated, Leaf.weightBeat]

@[simp] theorem Leaf.enterPass_seat (l : Leaf) (e : TensorEntry) (f : Nat) (t : Tensor) (incomplete : Bool) : (Leaf.enterPass l e f t incomplete).b.Seated l.b := by
  simp [Blk.Seated, Leaf.enterPass]

@[simp] theorem Leaf.passDone_seat (l : Leaf) (e : TensorEntry) (f : Nat) : (Leaf.passDone l e f).b.Seated l.b := by
  simp only [Leaf.passDone]; (repeat' split) <;> first | (simp [Blk.Seated]; done) | (refine Leaf.foldl_seat _ _ _ _ ?_ ?_; (intros; (repeat' split) <;> simp [Blk.Seated]; done); (simp [Blk.Seated]; done))

@[simp] theorem Leaf.accumulate_seat (e : TensorEntry) (f : Nat) (a2 : Nat) (a3 : Leaf) (a4 : Nat) (a5 : List Nat) : (Leaf.accumulate e f a2 a3 a4 a5).b.Seated a3.b := by
  fun_induction Leaf.accumulate e f a2 a3 a4 a5 <;> (try simp_all [Blk.Seated]) <;> first | exact ⟨rfl, rfl, rfl, rfl, rfl⟩ | skip

@[simp] theorem Leaf.newEpoch_seat (l : Leaf) (e : TensorEntry) (f : Nat) (epoch : Nat) : (Leaf.newEpoch l e f epoch).b.Seated l.b := by
  simp [Blk.Seated, Leaf.newEpoch]

@[simp] theorem Leaf.digestBeat_seat (l : Leaf) (w : WBeat) : (Leaf.digestBeat l w).b.Seated l.b := by
  simp only [Leaf.digestBeat]; (repeat' split) <;> first | (simp [Blk.Seated]; done) | (refine Leaf.foldl_seat _ _ _ _ ?_ ?_; (intros; (repeat' split) <;> simp [Blk.Seated]; done); (simp [Blk.Seated]; done))

@[simp] theorem Leaf.digestNext_seat (l : Leaf) : (Leaf.digestNext l).b.Seated l.b := by
  unfold Leaf.digestNext; (repeat' split) <;> simp [Blk.Seated]

@[simp] theorem Leaf.swapTensors_seat (l : Leaf) : (Leaf.swapTensors l).b.Seated l.b := by
  simp [Blk.Seated, Leaf.swapTensors]

@[simp] theorem Leaf.allLate_seat (l : Leaf) : (Leaf.allLate l).b.Seated l.b := by
  simp [Blk.Seated, Leaf.allLate]

@[simp] theorem Leaf.takeAssay_seat (l : Leaf) (f : Nat) : (Leaf.takeAssay l f).2.b.Seated l.b := by
  simp [Blk.Seated, Leaf.takeAssay]

/-! AssayChan -/

@[simp] theorem Chan.closeKey_seat (c : Chan) (k : AKey) : (Chan.closeKey c k).b.Seated c.b := by
  simp [Blk.Seated, Chan.closeKey]

@[simp] theorem Chan.keepRecord_seat (c : Chan) (replicas : Nat) (r : ARec) : (Chan.keepRecord c replicas r).b.Seated c.b := by
  simp [Blk.Seated, Chan.keepRecord]

@[simp] theorem Chan.takeRecord_seat (c : Chan) (level f : Nat) (r : ARec) : (Chan.takeRecord c level f r).b.Seated c.b := by
  simp [Blk.Seated, Chan.takeRecord]

@[simp] theorem Chan.reduceAssay_seat (c : Chan) : (Chan.reduceAssay c).b.Seated c.b := by
  simp only [Chan.reduceAssay]
  rw [Chan.onB]
  simp only [Blk.Seated, Blk.setNum_isLeaf, Blk.setNum_place, Blk.setNum_lastOpen, Blk.setNum_frameIsOpen, Blk.setNum_phase]
  exact Chan.foldl_seat _ _ _ _ (fun _ _ => Chan.foldl_seat _ _ _ _ (by intros; simp [Blk.Seated]) (by simp [Blk.Seated])) (by simp [Blk.Seated])

@[simp] theorem Chan.raiseIncomplete_seat (c : Chan) (k : AKey) (miss : List Nat) : (Chan.raiseIncomplete c k miss).b.Seated c.b := by
  unfold Chan.raiseIncomplete; exact Chan.foldl_seat _ _ _ _ (by intros; simp [Blk.Seated]) (by simp [Blk.Seated])

@[simp] theorem Chan.raiseMissing_seat (c : Chan) (k : AKey) (replicas : Nat) : (Chan.raiseMissing c k replicas).b.Seated c.b := by
  simp [Blk.Seated, Chan.raiseMissing]

@[simp] theorem Chan.raiseClosed_seat (c : Chan) (k : AKey) (replicas : Nat) : (Chan.raiseClosed c k replicas).b.Seated c.b := by
  simp [Blk.Seated, Chan.raiseClosed]

@[simp] theorem Chan.compareSide_seat (k : AKey) (words : Nat) (replicas : Nat) (c : Chan) (side : Nat) : (Chan.compareSide k words replicas c side).b.Seated c.b := by
  simp only [Chan.compareSide]; (repeat' split) <;> first | (simp [Blk.Seated]; done) | (refine Chan.foldl_seat _ _ _ _ ?_ ?_; (intros; (repeat' split) <;> simp [Blk.Seated]; done); (simp [Blk.Seated]; done))

@[simp] theorem Chan.compareTransit_seat (k : AKey) (words : Nat) (replicas : Nat) (c : Chan) : (Chan.compareTransit k words replicas c).b.Seated c.b := by
  simp [Blk.Seated, Chan.compareTransit]

@[simp] theorem Chan.compareKey_seat (c : Chan) (k : AKey) (atWindow : Bool) : (Chan.compareKey c k atWindow).b.Seated c.b := by
  simp [Blk.Seated, Chan.compareKey]

@[simp] theorem Chan.compareReady_seat (c : Chan) (g : Nat) : (Chan.compareReady c g).b.Seated c.b := by
  simp [Blk.Seated, Chan.compareReady]

@[simp] theorem Chan.assayWindow_seat (c : Chan) (group : Nat) (tensor : Nat) (epoch : Nat) : (Chan.assayWindow c group tensor epoch).b.Seated c.b := by
  unfold Chan.assayWindow; (repeat' split) <;> simp [Blk.Seated]

@[simp] theorem Chan.writeGroup_seat (c : Chan) (group : Nat) (v : Nat) : (Chan.writeGroup c group v).b.Seated c.b := by
  simp [Blk.Seated, Chan.writeGroup]

/-! ChanEnv -/

@[simp] theorem CS.ch_seat (self : CS) : (CS.ch self).b.Seated self.ch.b := by
  simp [Blk.Seated, CS.ch]

@[simp] theorem CS.rd_seat (s : CS) (key : Nat) : (CS.rd s key).2.ch.b.Seated s.ch.b := by
  simp [Blk.Seated, CS.rd]

@[simp] theorem Chan.swapAgg_seat (c : Chan) : (Chan.swapAgg c).b.Seated c.b := by
  simp [Blk.Seated, Chan.swapAgg]

@[simp] theorem Chan.loading_seat (c : Chan) (key : Nat) (first : Bool) : (Chan.loading c key first).b.Seated c.b := by
  simp [Blk.Seated, Chan.loading]

@[simp] theorem Chan.sendTriggers_seat (c : Chan) (v : Nat) : (Chan.sendTriggers c v).b.Seated c.b := by
  simp only [Chan.sendTriggers]
  refine Chan.foldl_seat _ _ _ _ ?_ ?_
  · intro x a
    try dsimp only
    (repeat' split) <;> simp [Blk.Seated]
  · simp [Blk.Seated]

@[simp] theorem Chan.triggerWritten_seat (c : Chan) (v : Nat) : (Chan.triggerWritten c v).b.Seated c.b := by
  simp [Blk.Seated, Chan.triggerWritten]

@[simp] theorem Chan.loaded_seat (c : Chan) (key : Nat) (v : Val) : (Chan.loaded c key v).b.Seated c.b := by
  simp [Blk.Seated, Chan.loaded]

@[simp] theorem Chan.forward_seat (c : Chan) (op : Nat) (txn : Word) (items : List Item) (body : List Byte) (mask : Nat) : (Chan.forward c op txn items body mask).b.Seated c.b := by
  simp [Blk.Seated, Chan.forward]

/-! FleetRoot -/

@[simp] theorem Chan.onRoot_seat (c : Chan) (seq : Word) (f : FleetTx → FleetTx) : (Chan.onRoot c seq f).b.Seated c.b := by
  simp [Blk.Seated, Chan.onRoot]

@[simp] theorem Chan.broadcast_seat (c : Chan) (op : Nat) (seq : Word) (items : List Item) (body : List Byte) : (Chan.broadcast c op seq items body).b.Seated c.b := by
  simp [Blk.Seated, Chan.broadcast]

@[simp] theorem Blk.answerFleet_seat (b : Blk) (x : FleetTx) (status : Nat) : (Blk.answerFleet b x status).Seated b := by
  unfold Blk.answerFleet; (repeat' split) <;> simp [Blk.Seated]

@[simp] theorem Chan.noteRefusal_seat (c : Chan) (seq : Word) (phase : Nat) : (Chan.noteRefusal c seq phase).b.Seated c.b := by
  simp [Blk.Seated, Chan.noteRefusal]

@[simp] theorem Chan.endFlight_seat (c : Chan) (x : FleetTx) : (Chan.endFlight c x).b.Seated c.b := by
  simp [Blk.Seated, Chan.endFlight]

@[simp] theorem Chan.mapAct_seat (c : Chan) (x : FleetTx) : (Chan.mapAct c x).b.Seated c.b := by
  simp only [Chan.mapAct]
  split
  · simp [Blk.Seated]
  · refine Chan.seat_trans (Chan.onRoot_seat _ _ _) ?_
    exact Blk.foldl_seat _ _ _ _ (by intro x a; simp [Blk.Seated]) (by simp [Blk.Seated])

@[simp] theorem Chan.mapUndo_seat (c : Chan) (x : FleetTx) : (Chan.mapUndo c x).b.Seated c.b := by
  simp only [Chan.mapUndo]
  refine Chan.seat_trans (Chan.onRoot_seat _ _ _) ?_
  exact Blk.foldl_seat _ _ _ _ (by intro x a; simp [Blk.Seated]) (by simp [Blk.Seated])

@[simp] theorem Chan.rootFrame_seat (c : Chan) (p : Nat) (k : Nat) : (Chan.rootFrame c p k).b.Seated c.b := by
  simp [Blk.Seated, Chan.rootFrame]

/-! TraceUnit -/

@[simp] theorem Leaf.append_seat (l : Leaf) (rs : List TrRec) : (Leaf.append l rs).b.Seated l.b := by
  simp [Blk.Seated, Leaf.append]

@[simp] theorem Leaf.stallFall_seat (l : Leaf) (upTo : Nat) : (Leaf.stallFall l upTo).b.Seated l.b := by
  simp [Blk.Seated, Leaf.stallFall]

@[simp] theorem Leaf.judgeStall_seat (l : Leaf) : (Leaf.judgeStall l).b.Seated l.b := by
  simp [Blk.Seated, Leaf.judgeStall]

@[simp] theorem Leaf.traceIdle_seat (l : Leaf) : (Leaf.traceIdle l).b.Seated l.b := by
  simp [Blk.Seated, Leaf.traceIdle]

@[simp] theorem Leaf.put_seat (l : Leaf) (rs : List TrRec) (base steps : Nat) : (Leaf.put l rs base steps).b.Seated l.b := by
  simp [Blk.Seated, Leaf.put]

@[simp] theorem Leaf.put1_seat (l : Leaf) (time steps dom : Nat) (mk : Nat → List Byte) (trigger : Bool) : (Leaf.put1 l time steps dom mk trigger).b.Seated l.b := by
  simp [Blk.Seated, Leaf.put1]

@[simp] theorem Leaf.putStop_seat (l : Leaf) (k time steps dom : Nat) : (Leaf.putStop l k time steps dom).b.Seated l.b := by
  simp [Blk.Seated, Leaf.putStop]

@[simp] theorem Leaf.place_seat (l : Leaf) (time steps dom : Nat) (mk : Nat → List Byte) (trigger : Bool) : (Leaf.place l time steps dom mk trigger).b.Seated l.b := by
  simp [Blk.Seated, Leaf.place]

@[simp] theorem Leaf.writeItem_seat (l : Leaf) (i : TrItem) : (Leaf.writeItem l i).b.Seated l.b := by
  simp only [Leaf.writeItem]; (repeat' split) <;> simp [Blk.Seated]

@[simp] theorem Leaf.writeNext_seat (l : Leaf) : (Leaf.writeNext l).b.Seated l.b := by
  unfold Leaf.writeNext; (repeat' split) <;> simp [Blk.Seated]

@[simp] theorem Leaf.writeThrough_seat (t : Nat) (a1 : List TrItem) (a2 : Leaf) : (Leaf.writeThrough t a1 a2).b.Seated a2.b := by
  fun_induction Leaf.writeThrough t a1 a2 <;> (try simp_all [Blk.Seated]) <;> first | exact ⟨rfl, rfl, rfl, rfl, rfl⟩ | skip

@[simp] theorem Leaf.traceHalt_seat (l : Leaf) (k t : Nat) : (Leaf.traceHalt l k t).b.Seated l.b := by
  simp only [Leaf.traceHalt]; (repeat' split) <;> simp [Blk.Seated]

@[simp] theorem Leaf.trigger_seat (l : Leaf) (source : Nat) (core : Nat) (code : Nat) (t : Nat) : (Leaf.trigger l source core code t).b.Seated l.b := by
  simp [Blk.Seated, Leaf.trigger]

@[simp] theorem Leaf.stopIfZero_seat (l : Leaf) (t : Nat) : (Leaf.stopIfZero l t).b.Seated l.b := by
  simp [Blk.Seated, Leaf.stopIfZero]

@[simp] theorem Leaf.takeTrace_seat (l : Leaf) (d : Nat) (off : Nat) : (Leaf.takeTrace l d off).b.Seated l.b := by
  simp [Blk.Seated, Leaf.takeTrace]

@[simp] theorem Leaf.emptyTrace_seat (l : Leaf) : (Leaf.emptyTrace l).b.Seated l.b := by
  simp [Blk.Seated, Leaf.emptyTrace]

@[simp] theorem Leaf.traceArm_seat (l : Leaf) (t : Nat) : (Leaf.traceArm l t).b.Seated l.b := by
  simp [Blk.Seated, Leaf.traceArm]

@[simp] theorem Leaf.traceTrig_seat (l : Leaf) (t : Nat) : (Leaf.traceTrig l t).b.Seated l.b := by
  simp [Blk.Seated, Leaf.traceTrig]

@[simp] theorem Leaf.traceAct_seat (l : Leaf) (v : Nat) (t : Nat) : (Leaf.traceAct l v t).b.Seated l.b := by
  unfold Leaf.traceAct; (repeat' split) <;> simp [Blk.Seated]

@[simp] theorem Leaf.stopInstant_seat (l : Leaf) : (Leaf.stopInstant l).b.Seated l.b := by
  unfold Leaf.stopInstant; (repeat' split) <;> simp [Blk.Seated]

@[simp] theorem Leaf.stopAfterStep_seat (l : Leaf) (before : Nat) : (Leaf.stopAfterStep l before).b.Seated l.b := by
  unfold Leaf.stopAfterStep; (repeat' split) <;> simp [Blk.Seated]

@[simp] theorem Leaf.stallBudget_seat (l : Leaf) : (Leaf.stallBudget l).b.Seated l.b := by
  simp [Blk.Seated, Leaf.stallBudget]

@[simp] theorem Leaf.closeTrace_seat (l : Leaf) : (Leaf.closeTrace l).b.Seated l.b := by
  simp [Blk.Seated, Leaf.closeTrace]

@[simp] theorem Leaf.traceSleep_seat (l : Leaf) (k t : Nat) : (Leaf.traceSleep l k t).b.Seated l.b := by
  simp only [Leaf.traceSleep]; (repeat' split) <;> simp [Blk.Seated]

@[simp] theorem Leaf.lateStop_seat (l : Leaf) (k t : Nat) : (Leaf.lateStop l k t).b.Seated l.b := by
  unfold Leaf.lateStop; (repeat' split) <;> simp [Blk.Seated]

@[simp] theorem Leaf.traceWake_seat (l : Leaf) (k t : Nat) : (Leaf.traceWake l k t).b.Seated l.b := by
  simp only [Leaf.traceWake]
  generalize (if k = 2 ∧ l.trState = trFrozen then l.tr.frozenFrom else l.trState) = back
  (repeat' split) <;> simp [Blk.Seated]

/-! LeafUnit -/

@[simp] theorem Leaf.relearnAct_seat (l : Leaf) (bitmap : List Byte) : (Leaf.relearnAct l bitmap).b.Seated l.b := by
  simp [Blk.Seated, Leaf.relearnAct]

@[simp] theorem Leaf.takeReports_seat (l : Leaf) (f : Nat) : (Leaf.takeReports l f).2.2.b.Seated l.b := by
  simp [Blk.Seated, Leaf.takeReports]

@[simp] theorem Leaf.rd_seat (l : Leaf) (key : Nat) : (Leaf.rd l key).2.b.Seated l.b := by
  simp [Blk.Seated, Leaf.rd]

@[simp] theorem Leaf.enterL1_seat (l : Leaf) (t : Nat) : (Leaf.enterL1 l t).b.Seated l.b := by
  simp [Blk.Seated, Leaf.enterL1]

@[simp] theorem Leaf.enterL2_seat (l : Leaf) (t : Nat) : (Leaf.enterL2 l t).b.Seated l.b := by
  simp [Blk.Seated, Leaf.enterL2]

@[simp] theorem Leaf.enterL0_seat (l : Leaf) (t : Nat) : (Leaf.enterL0 l t).b.Seated l.b := by
  simp [Blk.Seated, Leaf.enterL0]

@[simp] theorem Leaf.payOwed_seat (l : Leaf) : (Leaf.payOwed l).b.Seated l.b := by
  simp [Blk.Seated, Leaf.payOwed]

@[simp] theorem Leaf.joinAssign_seat (l : Leaf) (v : Nat) : (Leaf.joinAssign l v).b.Seated l.b := by
  simp [Blk.Seated, Leaf.joinAssign]

@[simp] theorem Leaf.repairAdd_seat (l : Leaf) (v : List Byte) : (Leaf.repairAdd l v).b.Seated l.b := by
  simp [Blk.Seated, Leaf.repairAdd]

@[simp] theorem Leaf.moveParent_seat (l : Leaf) : (Leaf.moveParent l).b.Seated l.b := by
  simp [Blk.Seated, Leaf.moveParent]

@[simp] theorem Leaf.sendPacket_seat (l : Leaf) (h : PktHdr) (secs : List (List Byte)) : (Leaf.sendPacket l h secs).b.Seated l.b := by
  simp [Blk.Seated, Leaf.sendPacket]

@[simp] theorem Leaf.sealDraft_seat (l : Leaf) : (Leaf.sealDraft l).b.Seated l.b := by
  unfold Leaf.sealDraft; (repeat' split) <;> simp [Blk.Seated]

@[simp] theorem Leaf.sectionSeal_seat (l : Leaf) : (Leaf.sectionSeal l).b.Seated l.b := by
  simp [Blk.Seated, Leaf.sectionSeal]

@[simp] theorem Leaf.sendMissed_seat (l : Leaf) (k : Nat) (n : Nat) : (Leaf.sendMissed l k n).b.Seated l.b := by
  simp [Blk.Seated, Leaf.sendMissed]

@[simp] theorem Leaf.closeFrame_seat (l : Leaf) : (Leaf.closeFrame l).b.Seated l.b := by
  simp [Blk.Seated, Leaf.closeFrame]

@[simp] theorem Leaf.judgeLeaving_seat (l : Leaf) (k : Nat) : (Leaf.judgeLeaving l k).b.Seated l.b := by
  simp [Blk.Seated, Leaf.judgeLeaving]

/-! Glue -/

@[simp] theorem Chan.deliverHost_seat (c : Chan) (r : Resp) : (Chan.deliverHost c r).b.Seated c.b := by
  simp [Blk.Seated, Chan.deliverHost]

@[simp] theorem Chan.deliver_seat (c : Chan) (before : Chan) : (Chan.deliver c before).b.Seated c.b := by
  exact Chan.seat_of_own (Chan.own_deliver _ _)

@[simp] theorem Chan.spreadAuthority_seat (c : Chan) (before : Chan) : (Chan.spreadAuthority c before).b.Seated c.b := by
  exact Chan.seat_of_own (Chan.own_spreadAuthority _ _)

/-! Clasp -/

@[simp] theorem Chan.backOff_seat (c : Chan) (x : Nat) : (Chan.backOff c x).b.Seated c.b := by
  simp [Blk.Seated, Chan.backOff]

@[simp] theorem CS.countMissed_seat (s : CS) : (CS.countMissed s).ch.b.Seated s.ch.b := by
  simp [Blk.Seated, CS.countMissed]

@[simp] theorem CS.claspFrame_seat (s : CS) (closed : Bool) : (CS.claspFrame s closed).ch.b.Seated s.ch.b := by
  simp [Blk.Seated, CS.claspFrame]

@[simp] theorem CS.claim_seat (s : CS) (c : Ch) : (CS.claim s c).ch.b.Seated s.ch.b := by
  simp [Blk.Seated, CS.claim]

@[simp] theorem CS.claimMissed_seat (s : CS) (c : Ch) : (CS.claimMissed s c).ch.b.Seated s.ch.b := by
  simp [Blk.Seated, CS.claimMissed]

@[simp] theorem CS.claimBackoff_seat (s : CS) (c : Ch) : (CS.claimBackoff s c).ch.b.Seated s.ch.b := by
  unfold CS.claimBackoff; (repeat' split) <;> simp [Blk.Seated]

@[simp] theorem Chan.claspSeen_seat (c : Chan) : (Chan.claspSeen c).b.Seated c.b := by
  simp [Blk.Seated, Chan.claspSeen]

/-! ChanFrame -/

@[simp] theorem Chan.handSent_seat (c before : Chan) : (Chan.handSent c before).b.Seated c.b := by
  simp only [Chan.handSent]; split <;> simp [Blk.Seated]

@[simp] theorem Chan.deadline_seat (c : Chan) (p : Nat × Nat) : (Chan.deadline c p).b.Seated c.b := by
  simp [Blk.Seated, Chan.deadline]

@[simp] theorem Chan.handLateFleet_seat (c : Chan) : (Chan.handLateFleet c).b.Seated c.b := by
  simp [Blk.Seated, Chan.handLateFleet]

@[simp] theorem Chan.analyse_seat (c : Chan) (f : Nat) : (Chan.analyse c f).b.Seated c.b := by
  simp [Blk.Seated, Chan.analyse]

@[simp] theorem Chan.judgeDeadlines_seat (c : Chan) (f : Nat) (k : Nat) : (Chan.judgeDeadlines c f k).b.Seated c.b := by
  simp [Blk.Seated, Chan.judgeDeadlines]

@[simp] theorem Chan.noteOpened_seat (c : Chan) (k : Nat) : (Chan.noteOpened c k).b.Seated c.b := by
  simp [Blk.Seated, Chan.noteOpened]

@[simp] theorem Chan.intakes_seat (c : Chan) (f : Nat) (k : Nat) : (Chan.intakes c f k).b.Seated c.b := by
  simp [Blk.Seated, Chan.intakes]

@[simp] theorem Chan.workOn_seat (c : Chan) (f : Nat) (k : Nat) (temp : Nat) : (Chan.workOn c f k temp).b.Seated c.b := by
  simp [Blk.Seated, Chan.workOn]

@[simp] theorem Chan.overrun_seat (c : Chan) (u : Unt) (f : Nat) (left : Nat) : (Chan.overrun c u f left).b.Seated c.b := by
  unfold Chan.overrun; (repeat' split) <;> simp [Blk.Seated]

@[simp] theorem Leaf.overrun_seat (l : Leaf) (u : Unt) (f : Nat) (left : Nat) : (Leaf.overrun l u f left).b.Seated l.b := by
  unfold Leaf.overrun; (repeat' split) <;> simp [Blk.Seated]

/-! Reset -/

@[simp] theorem Chan.compose_seat (c : Chan) : (Chan.compose c).b.Seated c.b := by
  simp [Blk.Seated, Chan.compose]

@[simp] theorem Chan.readdress_seat (c : Chan) : (Chan.readdress c).b.Seated c.b := by
  simp [Blk.Seated, Chan.readdress]

@[simp] theorem Chan.pllLock_seat (c : Chan) : (Chan.pllLock c).b.Seated c.b := by
  simp [Blk.Seated, Chan.pllLock]

@[simp] theorem Chan.restoreImages_seat (c : Chan) : (Chan.restoreImages c).b.Seated c.b := by
  simp [Blk.Seated, Chan.restoreImages]

@[simp] theorem Chan.restoreObjects_seat (c : Chan) : (Chan.restoreObjects c).b.Seated c.b := by
  simp only [Chan.restoreObjects]
  have h := Blk.foldl_seat (fun (a : Blk) (r : FlashRec) => a.setVal r.key r.v) (c.currentRecs.filter (fun r => bits r.node.toNat 28 4 == 1))
    c.b c.b (by intro x a; simp [Blk.Seated]) (by simp [Blk.Seated])
  simp [Blk.Seated, h]

@[simp] theorem Chan.linkUp_seat (c : Chan) (p : Nat) : (Chan.linkUp c p).b.Seated c.b := by
  simp [Blk.Seated, Chan.linkUp]

@[simp] theorem Chan.linkDown_seat (c : Chan) (p : Nat) : (Chan.linkDown c p).b.Seated c.b := by
  simp [Blk.Seated, Chan.linkDown]

/-! Endpoint -/

/-! HostPort -/

@[simp] theorem Chan.frameLo_seat (c : Chan) : (Chan.frameLo c).1.b.Seated c.b := by
  simp [Blk.Seated, Chan.frameLo]

@[simp] theorem Chan.mbxWrite_seat (c : Chan) (d : Nat) : (Chan.mbxWrite c d).1.b.Seated c.b := by
  simp [Blk.Seated, Chan.mbxWrite]

@[simp] theorem Chan.mbxRead_seat (c : Chan) : (Chan.mbxRead c).1.b.Seated c.b := by
  simp [Blk.Seated, Chan.mbxRead]

@[simp] theorem Chan.rspDone_seat (c : Chan) : (Chan.rspDone c).b.Seated c.b := by
  simp [Blk.Seated, Chan.rspDone]

@[simp] theorem Chan.irqClear_seat (c : Chan) (err : Bool) (clear : Nat) (sets : Nat) : (Chan.irqClear c err clear sets).b.Seated c.b := by
  simp [Blk.Seated, Chan.irqClear]

@[simp] theorem Chan.winWrite_seat (c : Chan) (off : Nat) (d : Nat) : (Chan.winWrite c off d).1.b.Seated c.b := by
  simp [Blk.Seated, Chan.winWrite]

/-! Rows -/

@[simp] theorem Leaf.asleepBeat_seat (l : Leaf) (d : Nat) : (Leaf.asleepBeat l d).b.Seated l.b := by
  unfold Leaf.asleepBeat; split <;> simp [Blk.Seated]

@[simp] theorem Leaf.takeBeat_seat (l : Leaf) (d : Nat) (off : Nat) : (Leaf.takeBeat l d off).b.Seated l.b := by
  simp [Blk.Seated, Leaf.takeBeat]

/-! ExecFrame -/

@[simp] theorem Blk.popStamp_seat (b : Blk) : (Blk.popStamp b).Seated b := by
  simp [Blk.Seated, Blk.popStamp]

/-! ExecBivan -/

/-! ExecEgress -/

@[simp] theorem Chan.popJob_seat (c : Chan) : (Chan.popJob c).b.Seated c.b := by
  simp [Blk.Seated, Chan.popJob]

/-! Beside -/

@[simp] theorem Chan.boundaryTick_seat (c : Chan) : (Chan.boundaryTick c).b.Seated c.b := by
  simp [Blk.Seated, Chan.boundaryTick]

@[simp] theorem Chan.watchReq_seat (c : Chan) (leaf : Word) (op : Nat) (q : Req) : (Chan.watchReq c leaf op q).b.Seated c.b := by
  unfold Chan.watchReq; (repeat' split) <;> simp [Blk.Seated]

@[simp] theorem Chan.passed_seat (c : Chan) (leaf : Word) (ws : List Wr) (a : Nat) : (Chan.passed c leaf ws a).b.Seated c.b := by
  simp [Blk.Seated, Chan.passed]

@[simp] theorem Chan.watchResp_seat (c : Chan) (dst : Word) (r : Resp) : (Chan.watchResp c dst r).b.Seated c.b := by
  unfold Chan.watchResp; (repeat' split) <;> simp [Blk.Seated]

@[simp] theorem Chan.passReq_seat (c : Chan) (d : Word) (op : Nat) (q : Req) : (Chan.passReq c d op q).b.Seated c.b := by
  unfold Chan.passReq; (repeat' split) <;> simp [Blk.Seated]

@[simp] theorem Chan.passResp_seat (c : Chan) (d : Word) (r : Resp) : (Chan.passResp c d r).b.Seated c.b := by
  unfold Chan.passResp; (repeat' split) <;> simp [Blk.Seated]

@[simp] theorem Chan.endCompensated_seat (c : Chan) : (Chan.endCompensated c).b.Seated c.b := by
  simp [Blk.Seated, Chan.endCompensated]

@[simp] theorem Chan.adoptFlight_seat (c : Chan) (r : FleetRec) : (Chan.adoptFlight c r).b.Seated c.b := by
  simp [Blk.Seated, Chan.adoptFlight]

@[simp] theorem Chan.sendAuthority_seat (c : Chan) (w : Wr) (apply : Nat) : (Chan.sendAuthority c w apply).b.Seated c.b := by
  simp [Blk.Seated, Chan.sendAuthority]

@[simp] theorem Chan.spoil_seat (c : Chan) (bad : List Nat) : (Chan.spoil c bad).b.Seated c.b := by
  simp [Blk.Seated, Chan.spoil]

@[simp] theorem Blk.seqUsed_seat (b : Blk) (n : Word) : (Blk.seqUsed b n).Seated b := by
  simp [Blk.Seated, Blk.seqUsed]

end Sys2Proof.Machine
end

