-- ==== Sys2Proof/Laws/Env.lean ====
section
/-! SUPPORT. What the Bivan endpoint and the transaction engine keep of a build, said once over the operations through which they
reach it. -/

set_option linter.unusedSimpArgs false
set_option linter.unusedVariables false

namespace Sys2Proof.Machine

section
variable {σ : Type}

/-- Every operation through which the endpoint and the transactions reach a build keeps `P`. -/
structure Env.Keeps (E : Env σ) (P : σ → Prop) : Prop where
  upd : ∀ s (f : Blk → Blk), P s → (f (E.blk s)).Seated (E.blk s) → P (E.upd s f)
  rd : ∀ s k, P s → P (E.rd s k).2
  segd : ∀ s k b, P s → P (E.segd s k b)
  miss : ∀ s k st, P s → P (E.miss s k st)
  act : ∀ s src k v, P s → P (E.act s src k v)
  staged : ∀ s k v, P s → P (E.staged s k v)
  stored : ∀ s j, P s → P (E.stored s j)
  current : ∀ s a b, P s → P (E.current s a b)
  forward : ∀ s op t i b m, P s → P (E.forward s op t i b m)
  passReq : ∀ s d op q, P s → P (E.passReq s d op q)

theorem keep_ite {P : σ → Prop} {c : Prop} [Decidable c] {x y : σ} (hx : P x) (hy : P y) : P (if c then x else y) := by
  split
  · exact hx
  · exact hy

variable {E : Env σ} {P : σ → Prop} (h : E.Keeps P) {s : σ} (hs : P s)
include h hs

theorem Env.Keeps.applyAll (src : Word) (ws : List Wr) : P (applyAll E s src ws) := by
  unfold Machine.applyAll
  induction ws generalizing s with
  | nil => exact hs
  | cons w ws ih => exact ih (h.act _ _ _ _ hs)

theorem Env.Keeps.stagedAll (ws : List Wr) : P (ws.foldl (fun t w => E.staged t w.1 w.2) s) := by
  induction ws generalizing s with
  | nil => exact hs
  | cons w ws ih => exact ih (h.staged _ _ _ hs)

theorem Env.Keeps.finishReq (q : Req) (old : Option SeqMem) (r : Resp) : P (finishReq E s q old r) := by
  unfold Machine.finishReq
  refine h.upd _ _ hs ?_
  split <;> simp [Blk.Seated]

theorem Env.Keeps.concludeWrite (q : Req) (old : Option SeqMem) (r : Resp) (ws : List (Nat × Wr)) :
    P (concludeWrite E s q old r ws) := by
  unfold Machine.concludeWrite
  dsimp only
  split
  · exact h.finishReq (h.applyAll hs _ _) _ _ _
  · exact h.upd _ _ hs (by simp [Blk.Seated])

theorem Env.Keeps.judge (op : Nat) (q : Req) (form : Bool) (need : Nat) (run : σ → Word → Nat → Option SeqMem → σ)
    (hr : ∀ t src role old, P t → P (run t src role old)) : P (judge E s op q form need run) := by
  unfold Machine.judge
  dsimp only
  repeat' split
  all_goals first
    | exact hs
    | exact h.passReq _ _ _ _ hs
    | exact hr _ _ _ _ (h.upd _ _ hs (by simp [Blk.Seated]))
    | exact h.finishReq (h.upd _ _ (h.upd _ _ hs (by simp [Blk.Seated])) (by simp [Blk.Seated])) _ _ _
    | (refine h.upd _ _ hs ?_; (repeat' split) <;> simp [Blk.Seated])

theorem Env.Keeps.unknown (op : Nat) (q : Req) : P (doUnknown E s op q) := by
  refine h.judge hs _ _ _ _ _ ?_
  intro t src role old ht
  exact h.finishReq ht _ _ _

theorem Env.Keeps.read (q : Req) : P (doRead E s q) := by
  refine h.judge hs _ _ _ _ _ ?_
  intro t src role old ht
  have key : ∀ (l : List Item) (p : Pass σ), P p.st → P (l.foldl (readOne E q role) p).st := by
    intro l
    induction l with
    | nil => intro p hp; exact hp
    | cons i l ih =>
      intro p hp
      refine ih _ ?_
      unfold readOne
      dsimp only
      repeat' split
      all_goals first
        | exact hp
        | exact h.rd _ _ hp
  exact h.finishReq (h.upd _ _ (key _ _ ht) (by simp [Blk.Seated])) _ _ _

theorem Env.Keeps.write (q : Req) : P (doWrite E s q) := by
  refine h.judge hs _ _ _ _ _ ?_
  intro t src role old ht
  have key : ∀ (l : List Item) (p : Pass σ), P p.st → P (l.foldl (writeOne E q src role) p).st := by
    intro l
    induction l with
    | nil => intro p hp; exact hp
    | cons i l ih =>
      intro p hp
      refine ih _ ?_
      unfold writeOne
      dsimp only
      split
      · exact hp
      · exact h.miss _ _ _ hp
  exact h.concludeWrite (h.upd _ _ (key _ _ ht) (by simp [Blk.Seated])) _ _ _ _

theorem Env.Keeps.segRead (q : Req) : P (doSegRead E s q) := by
  refine h.judge hs _ _ _ _ _ ?_
  intro t src role old ht
  dsimp only
  repeat' split
  all_goals first
    | exact h.finishReq (h.upd _ _ ht (by simp [Blk.Seated])) _ _ _
    | exact h.finishReq (h.upd _ _ (h.rd _ _ ht) (by simp [Blk.Seated])) _ _ _

theorem Env.Keeps.segWrite (q : Req) : P (doSegWrite E s q) := by
  refine h.judge hs _ _ _ _ _ ?_
  intro t src role old ht
  extract_lets i b key answer off total bytes part before
  have ans : ∀ (u : σ) (n st : Nat), P u → P (answer u n st) := by
    intro u n st hu
    refine h.finishReq (h.upd _ _ ?_ (by simp [Blk.Seated])) _ _ _
    split
    · exact hu
    · exact h.miss _ _ _ hu
  have drop : ∀ k, P (E.upd t (fun b => b.dropSeg k)) := fun k => h.upd _ _ ht (by simp [Blk.Seated])
  clear_value answer
  have step : ∀ k st, P (answer t k st) := fun k st => ans _ _ _ ht
  have gone : ∀ k st, P (answer (E.upd t (fun b => b.dropSeg key)) k st) := fun k st => ans _ _ _ (drop _)
  refine keep_ite (step _ _) ?_
  cases lookup b.isLeaf i.index.toNat i.sub.toNat with
  | inl st => exact step _ _
  | inr d =>
    dsimp only
    refine keep_ite (step _ _) (keep_ite (step _ _) (keep_ite (step _ _) (keep_ite (step _ _) (keep_ite (gone _ _) ?_))))
    clear_value before
    cases before with
    | none => exact gone _ _
    | some d0 =>
      dsimp only
      refine keep_ite (gone _ _) (keep_ite (step _ _) (keep_ite (step _ _) (keep_ite (step _ _) (keep_ite ?_ ?_))))
      · exact ans _ _ _ (h.upd _ _ (h.segd _ _ _ ht) (by simp [Blk.Seated]))
      · cases accept d b.isLeaf (.bytes (d0 ++ bytes)) with
        | none => exact step _ _
        | some v =>
          dsimp only
          refine keep_ite (step _ _) ?_
          exact h.concludeWrite (h.upd _ _ (h.segd _ _ _ ht) (by simp [Blk.Seated])) _ _ _ _

theorem Env.Keeps.txnOpen (q : Req) : P (doTxnOpen E s q) := by
  refine h.judge hs _ _ _ _ _ ?_
  intro t src role old ht
  dsimp only
  repeat' split
  all_goals first
    | exact h.finishReq ht _ _ _
    | exact h.finishReq (h.upd _ _ ht (by simp [Blk.Seated])) _ _ _

omit hs in
theorem Env.Keeps.stageOne (q : Req) (src : Word) (role : Nat) (g : List Wr) (l : List Item) (p : Pass σ) (hp : P p.st) :
    P (l.foldl (Machine.stageOne E q src role g) p).st := by
  induction l generalizing p with
  | nil => exact hp
  | cons i l ih =>
    refine ih _ ?_
    unfold Machine.stageOne
    exact keep_ite hp (h.miss _ _ _ hp)

theorem Env.Keeps.txnStage (q : Req) : P (doTxnStage E s q) := by
  refine h.judge hs _ _ _ _ _ ?_
  intro t0 src role old ht0
  have ht : P (E.upd t0 (fun b => b.touchTxn src q.txn)) := h.upd _ _ ht0 (by simp [Blk.Seated])
  generalize E.upd t0 (fun b => b.touchTxn src q.txn) = t at ht ⊢
  dsimp only
  split
  · exact h.finishReq ht _ _ _
  · split
    · exact h.finishReq ht _ _ _
    · split
      · exact h.finishReq ht _ _ _
      · next u _ _ _ =>
        have h1 := h.upd _ (fun b => b.countRole (q.items.foldl (Machine.stageOne E q src role u.items.reverse) (Pass.start t)).roleRefused)
          (h.stageOne q src role u.items.reverse q.items (Pass.start t) ht) (by simp [Blk.Seated])
        split
        · exact h.finishReq (h.stagedAll (h.upd _ _ h1 (by simp [Blk.Seated])) _) _ _ _
        · exact h.finishReq h1 _ _ _

theorem Env.Keeps.txnCommit (q : Req) : P (doTxnCommit E s q) := by
  refine h.judge hs _ _ _ _ _ ?_
  intro t0 src role old ht0
  have ht : P (E.upd t0 (fun b => b.touchTxn src q.txn)) := h.upd _ _ ht0 (by simp [Blk.Seated])
  dsimp only
  generalize E.upd t0 (fun b => b.touchTxn src q.txn) = t at ht ⊢
  generalize (if leNat q.body = 0 then _ else _) = a
  repeat' split
  all_goals first
    | exact h.finishReq ht _ _ _
    | exact h.finishReq (h.upd _ _ ht (by simp [Blk.Seated])) _ _ _
    | exact h.upd _ _ ht (by simp [Blk.Seated])

theorem Env.Keeps.txnAbort (q : Req) : P (doTxnAbort E s q) := by
  refine h.judge hs _ _ _ _ _ ?_
  intro t0 src role old ht0
  have ht : P (E.upd t0 (fun b => b.touchTxn src q.txn)) := h.upd _ _ ht0 (by simp [Blk.Seated])
  dsimp only
  generalize E.upd t0 (fun b => b.touchTxn src q.txn) = t at ht ⊢
  repeat' split
  all_goals first
    | exact h.finishReq ht _ _ _
    | exact h.finishReq (h.upd _ _ ht (by simp [Blk.Seated])) _ _ _

theorem Env.Keeps.txnStatus (q : Req) : P (doTxnStatus E s q) := by
  refine h.judge hs _ _ _ _ _ ?_
  intro t0 src role old ht0
  have ht : P (E.upd t0 (fun b => b.touchTxn src q.txn)) := h.upd _ _ ht0 (by simp [Blk.Seated])
  dsimp only
  generalize E.upd t0 (fun b => b.touchTxn src q.txn) = t at ht ⊢
  repeat' split
  all_goals exact h.finishReq ht _ _ _

theorem Env.Keeps.expire (src num : Word) : P (expireTxn E s src num) := by
  unfold expireTxn
  split
  · exact hs
  · exact keep_ite (h.upd _ _ hs (by simp [Blk.Seated])) hs

theorem Env.Keeps.itemStore (src seq : Word) (place : Nat) (ok : Bool) : P (endItemStore E s src seq place ok) := by
  simp only [endItemStore]
  split
  · exact hs
  · split
    · exact h.upd _ _ hs (by simp [Blk.Seated])
    · exact h.upd _ _ (h.applyAll (h.upd _ _ hs (by simp [Blk.Seated])) _ _) (by simp [Blk.Seated])

theorem Env.Keeps.copyStore (src num : Word) (ok : Bool) : P (endCopyStore E s src num ok) := by
  unfold endCopyStore
  cases (E.blk s).txnOf src num with
  | none => exact hs
  | some t =>
    have h1 : ∀ f, P (E.upd s (fun b => b.mapTxn src num f)) := fun f => h.upd _ _ hs (by simp [Blk.Seated])
    refine keep_ite (h1 _) ?_
    have h2 : ∀ st f a g, P (E.upd (E.upd s (fun b => b.mapTxn src num f)) (fun b => if st = stOk then b.commitTxn src num a
        else b.mapTxn src num g)) := by
      intro st f a g
      refine h.upd _ _ (h1 _) ?_
      split <;> simp [Blk.Seated]
    extract_lets failed b0 others st s2
    have h3 : P s2 := h2 _ _ _ _
    clear_value s2
    cases (E.blk s2).execs.find? (fun e => e.src == src && e.resp.txn == num && e.resp.opcode == 0x12) with
    | none =>
      exact keep_ite (h.upd _ _ h3 (by simp [Blk.Seated])) (keep_ite h3 (h.upd _ _ h3 (by simp [Blk.Seated])))
    | some e => exact h.upd _ _ h3 (by simp [Blk.Seated])

theorem Env.Keeps.endStore (ok : Bool) : P (endStore E s ok) := by
  simp only [Machine.endStore]
  split
  · exact hs
  · next j rest _ =>
    have h0 : P (E.upd s (fun b => { b with jobs := rest })) := h.upd _ _ hs (by simp [Blk.Seated])
    have h1 : P (if ok = true then E.stored (E.upd s (fun b => { b with jobs := rest })) j
        else E.upd (E.upd s (fun b => { b with jobs := rest })) (fun b => if b.isLeaf = true then b else b.bump K.flashWriteFailures)) := by
      split
      · exact h.stored _ _ h0
      · refine h.upd _ _ h0 ?_
        split <;> simp [Blk.Seated]
    split
    · exact h.itemStore h1 _ _ _ _
    · exact h.copyStore h1 _ _ _
    · exact h1
    · exact h1

theorem Env.Keeps.imageStore (k : Nat) (ok : Bool) : P (endImageStore E s k ok) := by
  simp only [endImageStore]
  split
  · exact hs
  · exact h.copyStore (h.upd _ _ hs (by simp [Blk.Seated])) _ _ _

theorem Env.Keeps.commitOwn (ws : List Wr) (a : Nat) : P (commitOwn E s ws a).2 := by
  simp only [Machine.commitOwn]
  repeat' split
  all_goals first
    | exact hs
    | exact h.stagedAll (h.upd _ _ hs (by simp [Blk.Seated])) _

theorem Env.Keeps.failTxn (t : Txn) (st : Nat) : P (failTxn E s t st) := h.upd _ _ hs (by simp [Blk.Seated])

theorem Env.Keeps.applyTxn (t : Txn) : P (applyTxn E s t) := by
  simp only [Machine.applyTxn]
  refine h.upd _ _ (h.current _ _ _ (h.applyAll hs _ _)) ?_
  split <;> simp [Blk.Seated]

theorem Env.Keeps.applyThese (ts : List Txn) : P (applyThese E s ts) := by
  simp only [Machine.applyThese]
  have f1 : ∀ (l : List (Txn × Nat)) (u : σ), P u → P (l.foldl (fun acc p => Machine.failTxn E acc p.1 p.2) u) := by
    intro l
    induction l with
    | nil => intro u hu; exact hu
    | cons p l ih => intro u hu; exact ih _ (h.failTxn hu _ _)
  have f2 : ∀ (l : List Txn) (u : σ), P u → P (l.foldl (Machine.applyTxn E) u) := by
    intro l
    induction l with
    | nil => intro u hu; exact hu
    | cons p l ih => intro u hu; exact ih _ (h.applyTxn hu _)
  exact f2 _ _ (f1 _ _ hs)

theorem Env.Keeps.applyDue (k : Nat) : P (applyDue E s k) := h.applyThese hs _

theorem Env.Keeps.applyComp (k : Nat) : P (applyComp E s k) := by
  simp only [Machine.applyComp]
  generalize ((E.blk s).fleet.filter _) = l
  induction l generalizing s with
  | nil => exact hs
  | cons r l ih =>
    rw [List.foldl_cons]
    refine ih ?_
    split
    · exact h.upd _ _ hs (by simp [Blk.Seated])
    · exact h.upd _ _ (h.applyAll hs _ _) (by simp [Blk.Seated])

/-- The boundary that opens a frame. -/
theorem Env.Keeps.boundary (k : Nat) : P (boundary E s k) := by
  simp only [Machine.boundary]
  exact h.upd _ _ (h.applyComp (h.applyDue (h.upd _ _ hs (by simp [Blk.Seated])) k) k) (by simp [Blk.Seated])

theorem Env.Keeps.holdFleet (seq : Word) (body : FleetBody) (q : Req) (role : Nat) (silent : Bool) :
    P (holdFleet E s seq body q role silent).2 := by
  simp only [Machine.holdFleet]
  have h0 := h.upd _ (fun b => b.countRole (prepareItems E s q role ((E.blk s).fleetItems body q.items)).roleRefused)
    (h.stageOne q q.src role [] ((E.blk s).fleetItems body q.items) (Pass.start s) hs) (by simp [Blk.Seated])
  have h1 := fun (rs : Blk → List FleetRec) => h.upd _ (fun b => { b with fleet := rs b }) h0 (by simp [Blk.Seated])
  exact keep_ite (h.stagedAll (h1 _) _) (h1 _)

theorem Env.Keeps.heardFleet (op : Nat) (q : Req) (act : σ → σ) (ha : ∀ t, P t → P (act t)) : P (heardFleet E s op q act) := by
  unfold Machine.heardFleet
  exact keep_ite hs (keep_ite (h.upd _ _ hs (by simp [Blk.Seated])) (keep_ite (h.passReq _ _ _ _ hs) (keep_ite (ha _ hs) hs)))

theorem Env.Keeps.commitFleet (root seq : Word) : P (commitFleet E s root seq) := by
  simp only [Machine.commitFleet]
  split
  · exact hs
  · split
    · exact hs
    · have h0 : ∀ f, P (E.upd s (fun b => b.mapFleet seq f)) := fun f => h.upd _ _ hs (by simp [Blk.Seated])
      have done : ∀ (c : Bool) (t : σ) (st : Nat), P t → P (if c = true then t else E.upd t (fun b => b.ackOwn seq 2 st)) := by
        intro c t st ht
        split
        · exact ht
        · exact h.upd _ _ ht (by simp [Blk.Seated])
      refine keep_ite (done _ _ _ (h0 _)) (keep_ite (done _ _ _ ?_) ?_)
      · exact h.upd _ _ (h0 _) (by simp [Blk.Seated])
      · exact h.upd _ _ (h0 _) (by simp [Blk.Seated])

theorem Env.Keeps.actToken (root seq : Word) (commit : Bool) : P (actToken E s root seq commit) := by
  unfold Machine.actToken
  exact keep_ite hs (keep_ite (h.commitFleet hs _ _) (h.upd _ _ hs (by simp [Blk.Seated])))

theorem Env.Keeps.takeToken (root seq : Word) (apply : Nat) (commit : Bool) : P (takeToken E s root seq apply commit) := by
  simp only [Machine.takeToken]
  split
  · exact h.upd _ _ hs (by simp [Blk.Seated])
  · have h0 : ∀ f, P (E.upd s (fun b => b.mapFleet seq f)) := fun f => h.upd _ _ hs (by simp [Blk.Seated])
    exact keep_ite hs (keep_ite (h.actToken (h0 _) _ _ _) (h0 _))

theorem Env.Keeps.prepare (q : Req) : P (doPrepare E s q) := by
  refine h.heardFleet hs _ _ _ fun t ht => ?_
  have h1 := h.forward t opPrepare q.txn q.items q.body (parseFleet q.body).mask ht
  refine keep_ite h1 ?_
  have h2 := fun a b c d => h.holdFleet h1 q.txn a b c d
  have tail : ∀ u, P u → P (match ((E.blk t).fleetOf q.txn).bind (·.token) with
      | none => u
      | some k => if (E.blk t).pastDeadline (parseFleet q.body) then u else Machine.actToken E u q.src q.txn k) := by
    intro u hu
    split
    · exact hu
    · exact keep_ite hu (h.actToken hu _ _ _)
  refine tail _ ?_
  split
  · exact h2 _ _ _ _
  · exact keep_ite (h2 _ _ _ _) (h.upd _ _ (h2 _ _ _ _) (by simp [Blk.Seated]))

theorem Env.Keeps.token (q : Req) (commit : Bool) : P (doToken E s q commit) :=
  h.heardFleet hs _ _ _ fun _ ht => h.takeToken (h.forward _ _ _ _ _ _ ht) _ _ _ _

theorem Env.Keeps.tokenQuery (q : Req) : P (doTokenQuery E s q) := by
  refine h.judge hs _ _ _ _ _ ?_
  intro t src role old ht
  dsimp only
  split <;> exact h.finishReq ht _ _ _

theorem Env.Keeps.takeComp (seq : Word) (ac : Nat) : P (takeComp E s seq ac).2 := by
  simp only [Machine.takeComp]
  repeat' split
  all_goals dsimp only
  all_goals first
    | exact hs
    | exact h.upd _ _ hs (by simp [Blk.Seated])

theorem Env.Keeps.compensate (q : Req) : P (doCompensate E s q) := by
  refine h.heardFleet hs _ _ _ fun t ht => ?_
  have h1 := h.takeComp (h.forward t opCompensate q.txn q.items q.body ((E.blk t).maskOf q.txn) ht) q.txn (leNat q.body)
  exact keep_ite (h.upd _ _ h1 (by simp [Blk.Seated])) h1

theorem Env.Keeps.guardQuery (seq : Word) : P (guardQuery E s seq) := by
  simp only [Machine.guardQuery]
  repeat' split
  all_goals first
    | exact hs
    | exact h.upd _ _ hs (by simp [Blk.Seated])

theorem Env.Keeps.deadlineDiscard (seq : Word) : P (deadlineDiscard E s seq) := by
  simp only [Machine.deadlineDiscard]
  split
  · exact hs
  · split
    · exact hs
    · refine h.upd _ _ hs ?_
      split <;> simp [Blk.Seated]

theorem Env.Keeps.undoExpire (seq : Word) : P (undoExpire E s seq) := h.upd _ _ hs (by simp [Blk.Seated])

end

end Sys2Proof.Machine
end

