-- ==== Sys2Proof/Laws/Sits.lean ====
section
/-! SUPPORT. What every operation keeps of a block, those that open frames and change phases among them: its kind and its place; and,
once a frame has been opened, that frame as the newest, unless the block has lost what it was. -/

set_option linter.unusedSimpArgs false
set_option linter.unusedVariables false

namespace Sys2Proof.Machine

/-- A block of the kind and place named; when `k` names a frame, that is the newest frame it opened, or it has lost its frames. -/
def Blk.Sits (leaf : Bool) (pl : Nat) (k : Option Nat) (b : Blk) : Prop :=
  b.isLeaf = leaf ∧ b.place = pl ∧ ∀ n, k = some n → b.lastOpen = some n ∨ b.lastOpen = none

section
variable {leaf : Bool} {pl : Nat} {k : Option Nat}

theorem Blk.Sits.seat {a b : Blk} (h : a.Sits leaf pl k) (g : b.Seated a) : b.Sits leaf pl k := by
  obtain ⟨h1, h2, h3⟩ := h
  obtain ⟨g1, g2, g3, _, _⟩ := g
  exact ⟨g1.trans h1, g2.trans h2, fun n e => by rw [g3]; exact h3 n e⟩

theorem Blk.sits_lost {b : Blk} (h1 : b.isLeaf = leaf) (h2 : b.place = pl) (h3 : b.lastOpen = none) : b.Sits leaf pl k :=
  ⟨h1, h2, fun _ _ => .inr h3⟩

theorem Blk.sits_same {a b : Blk} (h : a.Sits leaf pl k) (h1 : b.isLeaf = a.isLeaf) (h2 : b.place = a.place)
    (h3 : b.lastOpen = a.lastOpen) : b.Sits leaf pl k :=
  ⟨h1.trans h.1, h2.trans h.2.1, fun n e => by rw [h3]; exact h.2.2 n e⟩

theorem Chan.sits_ite {p : Prop} [Decidable p] {x y : Chan} (hx : x.b.Sits leaf pl k) (hy : y.b.Sits leaf pl k) :
    (if p then x else y).b.Sits leaf pl k := by
  split
  · exact hx
  · exact hy

theorem Leaf.sits_ite {p : Prop} [Decidable p] {x y : Leaf} (hx : x.b.Sits leaf pl k) (hy : y.b.Sits leaf pl k) :
    (if p then x else y).b.Sits leaf pl k := by
  split
  · exact hx
  · exact hy

theorem CS.sits_ite {p : Prop} [Decidable p] {x y : CS} (hx : x.ch.b.Sits leaf pl k) (hy : y.ch.b.Sits leaf pl k) :
    (if p then x else y).ch.b.Sits leaf pl k := by
  split
  · exact hx
  · exact hy

theorem Blk.sits_coldReset {b : Blk} (h : b.Sits leaf pl k) (keep : Nat → Bool) : (b.coldReset keep).Sits leaf pl k :=
  Blk.sits_lost h.1 h.2.1 rfl

theorem Blk.sits_softReset {b : Blk} (h : b.Sits leaf pl k) (keep : Nat → Bool) : (b.softReset keep).Sits leaf pl k := by
  have g := h.seat (Blk.discard_seat b (fun t => t.state == .committed))
  exact ⟨g.1, g.2.1, g.2.2⟩

theorem Blk.sits_setFrame {b : Blk} {n : Nat} (h : b.Sits leaf pl none) : (b.setFrame n).Sits leaf pl (some n) :=
  ⟨h.1, h.2.1, fun m e => .inl (by rw [← e]; rfl)⟩

theorem Blk.sits_forget {b : Blk} (h : b.Sits leaf pl k) : b.Sits leaf pl none := ⟨h.1, h.2.1, fun _ e => by cases e⟩

/-! ### A channel's power states and resets -/

section
variable {c : Chan}

theorem Chan.sits_blank (h : c.b.Sits leaf pl k) (hl : leaf = false) : c.blank.b.Sits leaf pl k :=
  Blk.sits_lost hl.symm h.2.1 rfl

theorem Chan.sits_enterC2 (h : c.b.Sits leaf pl k) : c.enterC2.b.Sits leaf pl k := by
  unfold Chan.enterC2
  split
  · exact h
  · refine Blk.sits_same (h.seat (b := (((c.b.setNum K.powerState 2).setNum K.powerStateNow 2).bump K.powerEntries).discard
      (fun t => t.state == .committed)) (by simp [Blk.Seated])) rfl rfl rfl

theorem Chan.sits_enterC3 (h : c.b.Sits leaf pl k) (hl : leaf = false) : c.enterC3.b.Sits leaf pl k := by
  unfold Chan.enterC3
  split
  · exact h
  · exact Blk.sits_same (Chan.sits_blank h hl) rfl rfl rfl

theorem Chan.sits_powerAct (h : c.b.Sits leaf pl k) (hl : leaf = false) (n : Nat) : (c.powerAct n).b.Sits leaf pl k := by
  unfold Chan.powerAct
  split
  · exact Chan.sits_enterC2 h
  · split
    · exact Chan.sits_enterC3 h hl
    · exact h

theorem Chan.sits_wakeC2 (h : c.b.Sits leaf pl k) : c.wakeC2.b.Sits leaf pl k := by
  unfold Chan.wakeC2
  split
  · exact h
  · exact Blk.sits_same h rfl rfl rfl

theorem Chan.sits_startCold (h : c.b.Sits leaf pl k) (hl : leaf = false) (keep : Nat → Bool) (owed) (st : Nat) :
    (c.startCold keep owed st).b.Sits leaf pl k :=
  Blk.sits_lost hl.symm h.2.1 rfl

theorem Chan.sits_wake (h : c.b.Sits leaf pl k) (hl : leaf = false) : c.wake.b.Sits leaf pl k := by
  unfold Chan.wake
  split
  · exact Chan.sits_startCold h hl _ _ _
  · exact Chan.sits_wakeC2 h

theorem Chan.sits_act (h : c.b.Sits leaf pl k) (hl : leaf = false) (src : Word) (key : Nat) (v : Val) :
    (c.act src key v).b.Sits leaf pl k := by
  unfold Chan.act
  dsimp only
  repeat' (with_reducible refine Chan.sits_ite ?_ ?_)
  all_goals first
    | with_reducible exact h
    | with_reducible exact Chan.sits_powerAct h hl _
    | with_reducible exact Chan.sits_wake h hl
    | (with_reducible refine h.seat ?_; simp [Blk.Seated])

theorem Chan.sits_fail (h : c.b.Sits leaf pl k) (n : Nat) : (c.fail n).b.Sits leaf pl k := by
  have h1 : ({ c.b with phase := .failed, frameIsOpen := false } : Blk).Sits leaf pl k := Blk.sits_same h rfl rfl rfl
  exact h1.seat (by simp [Blk.Seated, Chan.fail])

theorem Chan.sits_fastReset (h : c.b.Sits leaf pl k) (n : Nat) : (c.fastReset n).b.Sits leaf pl k :=
  (Blk.sits_softReset h chanKeeps).seat (by simp [Blk.Seated, Chan.fastReset])

end

/-! ### The endpoint of a channel -/

theorem chanEnv_keeps (hl : leaf = false) : chanEnv.Keeps (fun s => s.ch.b.Sits leaf pl k) where
  upd := fun s f h g => h.seat g
  rd := fun s key h => by
    simp only [chanEnv, CS.rd]
    repeat' split
    all_goals first
      | exact h
      | exact h.seat (by simp [Blk.Seated, CS.on])
  segd := fun s key f h => h.seat (by simp [Blk.Seated, chanEnv, CS.on])
  miss := fun s key st h => by
    simp only [chanEnv]
    split
    · exact h.seat (by simp [Blk.Seated, CS.on, Chan.onB])
    · exact h
  act := fun s src key v h => by
    simp only [chanEnv]
    split
    · exact h
    · exact Chan.sits_act h hl _ _ _
  staged := fun s key v h => by
    simp only [chanEnv]
    split
    · exact h.seat (by simp [Blk.Seated, CS.on])
    · exact h
  stored := fun s j h => h.seat (by simp [Blk.Seated, chanEnv, CS.on])
  current := fun s a b h => h.seat (by simp [Blk.Seated, chanEnv, CS.on])
  forward := fun s op t i b m h => h.seat (by simp [Blk.Seated, chanEnv, CS.on])
  passReq := fun s d op q h => h.seat (by simp [Blk.Seated, chanEnv, CS.on])

/-! ### A channel with the shared logic -/

section
variable {s : CS}

theorem CS.sits_foldl {α : Type} (g : CS → α → CS) (hg : ∀ x a, x.ch.b.Sits leaf pl k → (g x a).ch.b.Sits leaf pl k) (l : List α) :
    ∀ s : CS, s.ch.b.Sits leaf pl k → (l.foldl g s).ch.b.Sits leaf pl k := by
  induction l with
  | nil => intro s h; exact h
  | cons a l ih => intro s h; exact ih _ (hg _ _ h)

/-- An operation on the channel alone that keeps the seat. -/
theorem CS.sits_on (h : s.ch.b.Sits leaf pl k) (f : Chan → Chan) (hf : (f s.ch).b.Seated s.ch.b) : (s.on f).ch.b.Sits leaf pl k :=
  h.seat hf

theorem CS.sits_spread (h : s.ch.b.Sits leaf pl k) (hl : leaf = false) (op : Nat) (seq : Word) (items : List Item) (body : List Byte) :
    (s.spread op seq items body).ch.b.Sits leaf pl k := by
  have h1 : (s.on (fun c => c.broadcast op seq items body)).ch.b.Sits leaf pl k := CS.sits_on h _ (by simp [Blk.Seated])
  simp only [CS.spread]
  have K := chanEnv_keeps (k := k) (pl := pl) hl
  exact CS.sits_ite (K.prepare h1 _) (CS.sits_ite (K.token h1 _ _) (CS.sits_ite (K.token h1 _ _) (K.compensate h1 _)))

theorem CS.sits_acceptFleet (h : s.ch.b.Sits leaf pl k) (hl : leaf = false) (way : Way) (src num : Word) (f : FleetBody)
    (items : List Item) (body : List Byte) : (s.acceptFleet way src num f items body).ch.b.Sits leaf pl k :=
  CS.sits_spread (CS.sits_on h _ (by simp [Blk.Seated])) hl _ _ _ _

theorem CS.sits_fleetRequest (h : s.ch.b.Sits leaf pl k) (hl : leaf = false) (q : Req) : (s.fleetRequest q).ch.b.Sits leaf pl k := by
  have K := chanEnv_keeps (k := k) (pl := pl) hl
  refine K.judge h _ _ _ _ _ ?_
  intro t src role old ht
  dsimp only
  split
  · exact K.finishReq ht _ _ _
  · exact CS.sits_acceptFleet (CS.sits_on ht _ (by simp [Blk.Seated, Chan.onB])) hl _ _ _ _ _ _

theorem CS.sits_decideCommit (h : s.ch.b.Sits leaf pl k) (hl : leaf = false) (x : FleetTx) : (s.decideCommit x).ch.b.Sits leaf pl k :=
  CS.sits_on (CS.sits_spread h hl _ _ _ _) _ (by simp [Blk.Seated, Chan.onB])

theorem CS.sits_decideAbort (h : s.ch.b.Sits leaf pl k) (hl : leaf = false) (x : FleetTx) (st : Nat) :
    (s.decideAbort x st).ch.b.Sits leaf pl k :=
  CS.sits_on (CS.sits_spread h hl _ _ _ _) _ (by simp [Blk.Seated])

theorem CS.sits_decideOne (h : s.ch.b.Sits leaf pl k) (hl : leaf = false) (x : FleetTx) : (s.decideOne x).ch.b.Sits leaf pl k := by
  simp only [CS.decideOne]
  exact CS.sits_ite h (CS.sits_ite (CS.sits_decideAbort (CS.sits_on h _ (by simp [Blk.Seated])) hl _ _)
    (CS.sits_ite (CS.sits_decideCommit h hl _) h))

theorem CS.sits_decideAll (h : s.ch.b.Sits leaf pl k) (hl : leaf = false) : s.decideAll.ch.b.Sits leaf pl k :=
  CS.sits_on (CS.sits_foldl _ (fun _ _ hx => CS.sits_decideOne hx hl _) _ _ (CS.sits_on h _ (by simp [Blk.Seated]))) _
    (by simp [Blk.Seated])

theorem CS.sits_lastDecision (h : s.ch.b.Sits leaf pl k) (hl : leaf = false) (seq : Word) : (s.lastDecision seq).ch.b.Sits leaf pl k := by
  simp only [CS.lastDecision]
  split
  · exact h
  · exact CS.sits_ite h (CS.sits_decideAbort h hl _ _)

theorem CS.sits_sendComp (h : s.ch.b.Sits leaf pl k) (hl : leaf = false) (x : FleetTx) : (s.sendComp x).ch.b.Sits leaf pl k :=
  CS.sits_spread (CS.sits_on (CS.sits_on h _ (by simp [Blk.Seated, Chan.onB])) _ (by simp [Blk.Seated, Chan.onTree])) hl _ _ _ _

theorem CS.sits_commitCount (h : s.ch.b.Sits leaf pl k) (hl : leaf = false) (seq : Word) : (s.commitCount seq).ch.b.Sits leaf pl k := by
  simp only [CS.commitCount]
  split
  · exact h
  · exact CS.sits_ite h (CS.sits_ite (CS.sits_on h _ (by simp [Blk.Seated]))
      (CS.sits_sendComp (CS.sits_on h _ (by simp [Blk.Seated])) hl _))

theorem CS.sits_compRetry (h : s.ch.b.Sits leaf pl k) (hl : leaf = false) (seq : Word) : (s.compRetry seq).ch.b.Sits leaf pl k := by
  simp only [CS.compRetry]
  split
  · exact h
  · exact CS.sits_ite h (CS.sits_ite (CS.sits_on h _ (by simp [Blk.Seated])) (CS.sits_ite h
      (CS.sits_sendComp (CS.sits_on h _ (by simp [Blk.Seated])) hl _)))

theorem CS.sits_roleChanged (h : s.ch.b.Sits leaf pl k) (hl : leaf = false) (old new : Nat) :
    (s.roleChanged old new).ch.b.Sits leaf pl k := by
  simp only [CS.roleChanged]
  refine CS.sits_ite (CS.sits_foldl _ ?_ _ _ h) (CS.sits_ite (CS.sits_on h _ (by simp [Blk.Seated])) h)
  intro x a hx
  exact CS.sits_ite (CS.sits_on (CS.sits_on hx _ (by simp [Blk.Seated])) _ (by simp [Blk.Seated]))
    (CS.sits_ite (CS.sits_on hx _ (by simp [Blk.Seated])) (CS.sits_spread hx hl _ _ _ _))

theorem CS.sits_noteRole (h : s.ch.b.Sits leaf pl k) (hl : leaf = false) (n : Nat) : (s.noteRole n).ch.b.Sits leaf pl k := by
  simp only [CS.noteRole]
  exact CS.sits_ite h (CS.sits_roleChanged (CS.sits_on h _ (by simp [Blk.Seated, Chan.onTree])) hl _ _)

/-! ### The clasp, the frames and the end of a reset -/

theorem Blk.seat_ite {p : Prop} [Decidable p] {x y z : Blk} (hx : x.Seated z) (hy : y.Seated z) : (if p then x else y).Seated z := by
  split
  · exact hx
  · exact hy

theorem Blk.foldl_recordItem_seat (r : FleetRec) (n : Nat) (l : List Item) (b : Blk) :
    (l.foldl (fun a i => a.recordItem r i (n &&& i.target.toNat)) b).Seated b :=
  Blk.foldl_seat _ _ _ _ (fun y i => by simp [Blk.Seated, Blk.recordItem]) ⟨rfl, rfl, rfl, rfl, rfl⟩

theorem Chan.recordLedger_seat (c : Chan) (p n : Nat) (comp : List Word) : (c.recordLedger p n comp).b.Seated c.b := by
  simp only [Chan.recordLedger, Chan.onB]
  generalize hb : List.foldl _ c.b _ = b1
  have h1 : b1.Seated c.b := by
    rw [← hb]
    refine Blk.foldl_seat _ _ _ _ ?_ ⟨rfl, rfl, rfl, rfl, rfl⟩
    intro x a
    exact Blk.seat_ite ⟨rfl, rfl, rfl, rfl, rfl⟩ (Blk.foldl_recordItem_seat _ _ _ _)
  exact Blk.seat_ite h1 (Blk.seat_trans (y := b1) (by simp [Blk.Seated]) h1)

theorem CS.sits_claspFrame (h : s.ch.b.Sits leaf pl k) (closed : Bool) : (s.claspFrame closed).ch.b.Sits leaf pl k :=
  h.seat (by simp [Blk.Seated])

theorem CS.sits_closeFrame (h : s.ch.b.Sits leaf pl k) (hl : leaf = false) (f n : Nat) : (s.closeFrame f n).ch.b.Sits leaf pl k := by
  simp only [CS.closeFrame]
  refine CS.sits_ite h (CS.sits_on (CS.sits_decideAll (CS.sits_on (CS.sits_on (CS.sits_on (CS.sits_on h _ ?_) _ ?_) _ ?_) _ ?_) hl) _ ?_)
  all_goals simp [Blk.Seated, Chan.onB]

theorem Chan.sits_firstFrame {c : Chan} (h : c.b.Sits leaf pl k) (n : Nat) : (c.firstFrame n).b.Sits leaf pl k := by
  simp only [Chan.firstFrame]
  refine Chan.sits_ite h ?_
  have h1 : ∀ (b : Blk), b.Seated c.b → ({ b with phase := .run } : Blk).Sits leaf pl k := fun b hb =>
    Blk.sits_same (h.seat hb) rfl rfl rfl
  refine (h1 (if c.b.phase = .cold then c.b.draw.2.setNum K.readyMs (c.b.draw.1 % 2 ^ 32) else c.b) (by simp [Blk.Seated])).seat ?_
  simp [Blk.Seated]

theorem CS.sits_passBoundary (h : s.ch.b.Sits leaf pl k) (hl : leaf = false) (n : Nat) : (s.passBoundary n).ch.b.Sits leaf pl k := by
  have K := chanEnv_keeps (k := k) (pl := pl) hl
  simp only [CS.passBoundary]
  have h0 : (s.on (fun c => c.onB (fun b => b.passBoundary n))).ch.b.Sits leaf pl k := CS.sits_on h _ (by simp [Blk.Seated, Chan.onB])
  exact CS.sits_ite h0 (CS.sits_on (K.applyThese (CS.sits_on h0 _ (by simp [Blk.Seated, Chan.onB])) _) _ (by simp [Blk.Seated, Chan.onB]))

/-- A frame opens: it is the newest from then on, unless the block loses its frames at that boundary. -/
theorem CS.sits_openFrame_new (h : s.ch.b.Sits leaf pl none) (hl : leaf = false) (n temp : Nat) (byStep : Bool)
    (ho : s.ch.b.mayOpen n = true ∨ byStep = true) : (s.openFrame n temp byStep).ch.b.Sits leaf pl (some n) := by
  have K := chanEnv_keeps (k := some n) (pl := pl) hl
  simp only [CS.openFrame]
  rw [if_neg (by rcases ho with e | e <;> simp [e])]
  generalize hs0 : (if byStep = true then s else _) = s0
  have h0 : s0.ch.b.Sits leaf pl none := by
    rw [← hs0]
    exact CS.sits_ite h (CS.sits_on h _ (by simp [Blk.Seated, Chan.onB]))
  have h1 := CS.sits_closeFrame (CS.sits_on h0 (fun c => c.onEgr (fun e => { e with boundary := true })) (by simp [Blk.Seated])) hl s.ch.b.now n
  generalize s0.on (fun c => c.onEgr (fun e => { e with boundary := true })) = s0 at h1 ⊢
  have h2 : ((s0.closeFrame s.ch.b.now n).on (fun c => (c.onB (fun b => b.setFrame n)).firstFrame n)).ch.b.Sits leaf pl (some n) :=
    Chan.sits_firstFrame (c := ((s0.closeFrame s.ch.b.now n).ch.onB (fun b => b.setFrame n))) (Blk.sits_setFrame h1) n
  generalize hs3 : (if byStep = true then _ else _) = s3
  have h3 : s3.ch.b.Sits leaf pl (some n) := by
    rw [← hs3]
    exact CS.sits_ite (CS.sits_on h2 _ (by simp [Blk.Seated, Chan.onB])) h2
  have h4 := K.boundary h3 n
  generalize boundary chanEnv s3 n = s4 at h4 ⊢
  refine CS.sits_ite h4 (CS.sits_on (CS.sits_claspFrame ?_ _) _ (Chan.seat_trans (Chan.pacerTick_seat _ _ _) (Chan.boundaryTick_seat _)))
  generalize compDone s3.ch.b s4.ch.b = done
  generalize (if s.ch.b.frameIsOpen = true then s.ch.b.now else n - 1) = f
  have h5 : ((s4.noteRole n).on (fun c => (c.rootFrame f n).recordLedger f n done)).ch.b.Sits leaf pl (some n) :=
    CS.sits_on (CS.sits_noteRole h4 hl n) _ (Chan.seat_trans (y := (s4.noteRole n).ch.rootFrame f n) (Chan.recordLedger_seat _ _ _ _)
      (by simp [Blk.Seated]))
  generalize (s4.noteRole n).on (fun c => (c.rootFrame f n).recordLedger f n done) = s5 at h5 ⊢
  have h6 : (s5.on (fun c => c.workOn f n temp)).ch.b.Sits leaf pl (some n) := CS.sits_on h5 _ (by simp [Blk.Seated])
  exact CS.sits_ite h6 h6

theorem CS.sits_openFrame (h : s.ch.b.Sits leaf pl none) (hl : leaf = false) (n temp : Nat) (byStep : Bool) :
    (s.openFrame n temp byStep).ch.b.Sits leaf pl none := by
  by_cases ho : s.ch.b.mayOpen n = true ∨ byStep = true
  · exact Blk.sits_forget (CS.sits_openFrame_new h hl n temp byStep ho)
  · have e : CS.openFrame s n temp byStep = s.passBoundary n := by
      simp only [CS.openFrame]
      rw [if_pos (by simpa using ho)]
    rw [e]
    exact CS.sits_passBoundary h hl n

theorem CS.sits_afterTime (h : s.ch.b.Sits leaf pl none) (hl : leaf = false) (r : Blk × Option Nat) (hr : r.1.Seated s.ch.b) :
    (s.afterTime r).ch.b.Sits leaf pl none := by
  have h1 : (s.on (fun c => { c with b := r.1 })).ch.b.Sits leaf pl none := CS.sits_on h _ hr
  simp only [CS.afterTime]
  split
  · exact CS.sits_openFrame (CS.sits_on h1 _ (by simp [Blk.Seated])) hl _ _ _
  · exact h1

theorem CS.sits_fastDone (h : s.ch.b.Sits leaf pl none) (hl : leaf = false) (scrub : Option Nat) (refOk : Bool) (n ms : Nat) :
    (s.fastDone scrub refOk n ms).ch.b.Sits leaf pl none := by
  simp only [CS.fastDone]
  refine CS.sits_ite h ?_
  cases scrub with
  | some w => exact Blk.Sits.seat (Chan.sits_startCold h hl (fun _ => false) [] 2) ⟨rfl, rfl, rfl, rfl, rfl⟩
  | none =>
    dsimp only
    generalize hb : (if refOk = true then ({ s.ch.b with phase := .run, needLock := false } : Blk) else _) = b0
    have h0 : b0.Sits leaf pl none := by
      rw [← hb]
      split
      · exact Blk.sits_same h rfl rfl rfl
      · exact Blk.sits_same h rfl rfl rfl
    have h1 : (s.on (fun x => { x with
        b := ((((b0.bump K.fastPathCount).setNum K.readyMs ms).setNum K.bringupState 5).resume n).draw.2 })).ch.b.Sits leaf pl none := h0.seat (by simp [Blk.Seated, CS.on])
    exact CS.sits_ite (CS.sits_openFrame h1 hl _ _ _) h1

end

/-! ### Bring-up and resets of a channel -/

section
variable {c : Chan}

theorem Chan.sits_resetNow (h : c.b.Sits leaf pl k) (hl : leaf = false) : c.resetNow.b.Sits leaf pl k := by
  simp only [Chan.resetNow]
  exact Chan.sits_ite (Chan.sits_fastReset h _) (Chan.sits_ite (Chan.sits_startCold h hl _ _ _) h)

theorem Chan.sits_setUncorrectable (h : c.b.Sits leaf pl k) (w : Nat) :
    (c.onB (fun b => b.setNum K.lastUncorrectable w)).b.Sits leaf pl k := h.seat (Blk.setNum_seat c.b K.lastUncorrectable w)

theorem Chan.sits_uncorrectable (h : c.b.Sits leaf pl k) (hl : leaf = false) (a b p : Nat) :
    (c.uncorrectable a b p).b.Sits leaf pl k := by
  unfold Chan.uncorrectable
  extract_lets w owed c1
  clear_value w
  refine Chan.sits_ite (Chan.sits_fastReset ?_ 2) (Chan.sits_ite ?_ h)
  · exact Chan.sits_setUncorrectable h w
  · exact Chan.sits_setUncorrectable (Chan.sits_startCold h hl _ owed 2) w

theorem Chan.sits_selftestDone (h : c.b.Sits leaf pl k) (rows) (segs) : (c.selftestDone rows segs).b.Sits leaf pl k := by
  simp only [Chan.selftestDone]
  have h1 : ∀ o, ({ c with b := (c.b.selftest rows segs).1, start := o } : Chan).b.Sits leaf pl k := fun o =>
    h.seat (by simp [Blk.Seated])
  exact Chan.sits_ite h (Chan.sits_ite (Chan.sits_fail (h1 _) _) (h.seat (by simp [Blk.Seated, Chan.onB])))

theorem Chan.sits_judgeLinks (h : c.b.Sits leaf pl k) : c.judgeLinks.b.Sits leaf pl k := by
  simp only [Chan.judgeLinks]
  exact Chan.sits_ite h (Chan.sits_ite (h.seat (by simp [Blk.Seated, Chan.onB])) (Chan.sits_ite (Chan.sits_fail h _)
    (h.seat (by simp [Blk.Seated, Chan.onB]))))

theorem Chan.sits_qualified (h : c.b.Sits leaf pl k) (p : Nat) (lanes : List Word) : (c.qualified p lanes).b.Sits leaf pl k := by
  simp only [Chan.qualified]
  refine Chan.sits_ite h (Chan.sits_judgeLinks ?_)
  generalize hb : (if decide (c.b.phase = .cold) = true then _ else _) = b2
  have h2 : b2.Sits leaf pl k := by
    rw [← hb]
    split <;> exact h.seat (by simp [Blk.Seated])
  exact h2.seat (by simp [Blk.Seated])

theorem Chan.sits_restore (h : c.b.Sits leaf pl k) (bad : List Nat) : (c.restore bad).b.Sits leaf pl k := by
  simp only [Chan.restore]
  have h1 : ({ (c.spoil bad).restoreObjects with hist := c.hist.rebuild } : Chan).countLocs.b.Sits leaf pl k := h.seat (by simp [Blk.Seated])
  generalize ({ (c.spoil bad).restoreObjects with hist := c.hist.rebuild } : Chan).countLocs = c1 at h1 ⊢
  refine Chan.sits_ite (Chan.sits_fail (h1.seat (by simp [Blk.Seated])) _) (Chan.sits_judgeLinks (h1.seat (by simp [Blk.Seated])))

end

/-! ### What reaches a channel's endpoint -/

section
variable {s : CS}

theorem CS.sits_bivan (h : s.ch.b.Sits leaf pl k) (hl : leaf = false) (op : Nat) (q : Req) : (s.bivan op q).ch.b.Sits leaf pl k := by
  have K := chanEnv_keeps (k := k) (pl := pl) hl
  simp only [CS.bivan]
  exact CS.sits_ite (K.read h _) (CS.sits_ite (K.write h _) (CS.sits_ite (K.segRead h _) (CS.sits_ite (K.segWrite h _)
    (CS.sits_ite (K.txnOpen h _) (CS.sits_ite (K.txnStage h _) (CS.sits_ite (K.txnCommit h _) (CS.sits_ite (K.txnAbort h _)
    (CS.sits_ite (K.txnStatus h _) (CS.sits_ite (CS.sits_fleetRequest h hl _) (CS.sits_ite (K.tokenQuery h _) (K.unknown h _ _)))))))))))

theorem CS.sits_prepare (h : s.ch.b.Sits leaf pl k) (hl : leaf = false) (q : Req) : (s.prepare q).ch.b.Sits leaf pl k := by
  have K := chanEnv_keeps (k := k) (pl := pl) hl
  simp only [CS.prepare]
  exact CS.sits_ite (CS.sits_on (K.prepare h q) _ (by simp [Blk.Seated, Chan.onB])) (K.prepare h q)

theorem CS.sits_answered (h : s.ch.b.Sits leaf pl k) (hl : leaf = false) (r : Remote) (p : Resp) :
    (s.answered r p).ch.b.Sits leaf pl k := by
  have K := chanEnv_keeps (k := k) (pl := pl) hl
  simp only [CS.answered]
  split
  all_goals try exact CS.sits_on h _ (by simp [Blk.Seated])
  · have h1 : (s.on (fun c => { c with roleAsk := none })).ch.b.Sits leaf pl k := CS.sits_on h _ (by simp [Blk.Seated])
    exact CS.sits_ite (K.commitOwn h1 _ _) h1
  · exact CS.sits_ite h (CS.sits_on h _ (by simp [Blk.Seated, Chan.onB]))

theorem Env.Keeps.heardResp {σ : Type} {E : Env σ} {P : σ → Prop} (K : E.Keeps P) (hp : ∀ s d r, P s → P (E.passResp s d r)) {s : σ}
    (hs : P s) (r : Resp) (act : σ → σ) (ha : P s → P (act s)) : P (heardResp E s r act) := by
  unfold Machine.heardResp
  refine keep_ite hs (keep_ite (K.upd _ _ hs (by simp [Blk.Seated])) (keep_ite (hp _ _ _ hs) ?_))
  split
  · exact K.takeToken hs _ _ _ _
  · exact ha hs

theorem CS.sits_response (h : s.ch.b.Sits leaf pl k) (hl : leaf = false) (r : Resp) : (s.response r).ch.b.Sits leaf pl k := by
  refine (chanEnv_keeps hl).heardResp (fun s d r h => CS.sits_on h _ (by simp [Blk.Seated])) h r _ fun h => ?_
  have h1 : ({ s with ch := (s.ch.remoteNext r).1 } : CS).ch.b.Sits leaf pl k := h.seat (by simp [Blk.Seated])
  dsimp only
  split
  · exact h1
  · exact CS.sits_answered h1 hl _ _

theorem CS.sits_ruleTxn (h : s.ch.b.Sits leaf pl k) (hl : leaf = false) (dst : Option Word) (a : Nat) (as : List Adm) :
    (s.ruleTxn dst a as).ch.b.Sits leaf pl k := by
  have K := chanEnv_keeps (k := k) (pl := pl) hl
  simp only [CS.ruleTxn]
  split
  · exact CS.sits_on h _ (by simp [Blk.Seated])
  · have h1 := K.commitOwn h (mergeItems (as.flatMap (·.items))) a
    exact CS.sits_ite (CS.sits_on h1 _ (by simp [Blk.Seated])) h1

theorem CS.sits_fleetWrites (h : s.ch.b.Sits leaf pl k) (hl : leaf = false) (a : Nat) (as : List Adm) :
    (s.fleetWrites a as).ch.b.Sits leaf pl k := by
  simp only [CS.fleetWrites]
  exact CS.sits_ite (CS.sits_acceptFleet h hl _ _ _ _ _ _) (CS.sits_ite (CS.sits_on h _ (by simp [Blk.Seated])) h)

theorem CS.sits_ruleCommit (h : s.ch.b.Sits leaf pl k) (hl : leaf = false) : s.ruleCommit.ch.b.Sits leaf pl k :=
  CS.sits_foldl _ (fun _ _ hx => CS.sits_fleetWrites hx hl _ _) _ _
    (CS.sits_foldl _ (fun _ _ hx => CS.sits_ruleTxn hx hl _ _ _) _ _ (CS.sits_on h _ (by simp [Blk.Seated, Chan.onRul])))

theorem CS.sits_endStoreFor (h : s.ch.b.Sits leaf pl k) (hl : leaf = false) (src num : Word) (place : Option Nat) (ok : Bool) :
    (s.endStoreFor src num place ok).ch.b.Sits leaf pl k := by
  have K := chanEnv_keeps (k := k) (pl := pl) hl
  simp only [CS.endStoreFor]
  split
  · exact K.copyStore h _ _ _
  · have h1 := K.itemStore h src num ‹Nat› ok
    exact CS.sits_ite h1 h1

theorem CS.sits_imageStored (h : s.ch.b.Sits leaf pl k) (hl : leaf = false) (i : Img) (ok : Bool) :
    (s.imageStored i ok).ch.b.Sits leaf pl k := by
  have K := chanEnv_keeps (k := k) (pl := pl) hl
  simp only [CS.imageStored]
  split
  · exact h
  · refine K.imageStore ?_ _ _
    exact CS.sits_ite (CS.sits_on h _ (by simp [Blk.Seated])) (CS.sits_on h _ (by simp [Blk.Seated, Chan.onB]))

end

/-! ### The leaf -/

section
variable {l : Leaf}

theorem Leaf.sits_enterL3 (h : l.b.Sits true 0 k) : l.enterL3.b.Sits true 0 k := Blk.sits_lost rfl rfl rfl

theorem Leaf.sits_powerAct (h : l.b.Sits true 0 k) (v t : Nat) : (l.powerAct v t).b.Sits true 0 k := by
  unfold Leaf.powerAct
  split
  all_goals first
    | exact Leaf.sits_enterL3 h
    | exact h.seat (by simp [Blk.Seated])

theorem Leaf.sits_act (h : l.b.Sits true 0 k) (key : Nat) (v : Val) : (l.act key v).b.Sits true 0 k := by
  unfold Leaf.act
  dsimp only
  repeat' (with_reducible refine Leaf.sits_ite ?_ ?_)
  all_goals first
    | with_reducible exact h
    | with_reducible exact Leaf.sits_powerAct h _ _
    | (with_reducible refine h.seat ?_; simp [Blk.Seated])

theorem leafEnv_keeps : leafEnv.Keeps (fun l => l.b.Sits true 0 k) where
  upd := fun s f h g => h.seat g
  rd := fun s key h => by
    simp only [leafEnv, Leaf.rd]
    split
    · exact h.seat (by simp [Blk.Seated])
    · exact h
  segd := fun s key f h => h
  miss := fun s key st h => h
  act := fun s src key v h => Leaf.sits_act h _ _
  staged := fun s key v h => h
  stored := fun s j h => h
  current := fun s a b h => h
  forward := fun s op t i b m h => h
  passReq := fun s d op q h => h.seat (by simp [Blk.Seated, leafEnv])

theorem Leaf.sits_firstFrame (h : l.b.Sits true 0 k) (n : Nat) : (l.firstFrame n).b.Sits true 0 k := by
  simp only [Leaf.firstFrame]
  refine Leaf.sits_ite ?_ h
  have h1 : ∀ (b : Blk), b.Seated l.b → ({ b with phase := .run } : Blk).Sits true 0 k := fun b hb =>
    Blk.sits_same (h.seat hb) rfl rfl rfl
  exact (h1 (if l.b.phase = .cold then l.b.draw.2.setNum K.readyMs (l.b.draw.1 % 2 ^ 32) else l.b) (by simp [Blk.Seated])).seat
    (by simp [Blk.Seated])

theorem Leaf.sits_openFrame_new (h : l.b.Sits true 0 none) (n : Nat) (byStep : Bool) (ho : l.b.mayOpen n = true ∨ byStep = true) :
    (l.openFrame n byStep).b.Sits true 0 (some n) := by
  simp only [Leaf.openFrame]
  rw [if_neg (by rcases ho with e | e <;> simp [e])]
  generalize hs0 : (if byStep = true then l else _) = l0
  have h0 : l0.b.Sits true 0 none := by
    rw [← hs0]
    exact Leaf.sits_ite h (h.seat (by simp [Blk.Seated]))
  generalize hs2 : (if (l.b.frameIsOpen && byStep && l.sends) = true then _ else _) = l2
  have h2 : l2.b.Sits true 0 none := by
    rw [← hs2]
    exact Leaf.sits_ite (h0.seat (by simp [Blk.Seated])) (h0.seat (by simp [Blk.Seated]))
  have h3 : (({ l2 with b := l2.b.setFrame n } : Leaf).firstFrame n).b.Sits true 0 (some n) :=
    Leaf.sits_firstFrame (l := { l2 with b := l2.b.setFrame n }) (Blk.sits_setFrame h2) n
  generalize ({ l2 with b := l2.b.setFrame n } : Leaf).firstFrame n = l3 at h3 ⊢
  generalize hs4 : (if byStep = true then _ else _) = l4
  have h4 : l4.b.Sits true 0 (some n) := by
    rw [← hs4]
    exact Leaf.sits_ite (h3.seat (by simp [Blk.Seated])) h3
  have h5 := leafEnv_keeps.boundary h4 n
  generalize boundary leafEnv l4 n = l5 at h5 ⊢
  exact Leaf.sits_ite h5 (h5.seat (by simp [Blk.Seated]))

theorem Leaf.sits_openFrame (h : l.b.Sits true 0 none) (n : Nat) (byStep : Bool) : (l.openFrame n byStep).b.Sits true 0 none := by
  by_cases ho : l.b.mayOpen n = true ∨ byStep = true
  · exact Blk.sits_forget (Leaf.sits_openFrame_new h n byStep ho)
  · have e : Leaf.openFrame l n byStep = { l with b := l.b.passBoundary n } := by
      simp only [Leaf.openFrame]
      rw [if_pos (by simpa using ho)]
    rw [e]
    exact h.seat (by simp [Blk.Seated])

theorem Leaf.sits_afterTime (h : l.b.Sits true 0 none) (r : Blk × Option Nat) (hr : r.1.Seated l.b) :
    (l.afterTime r).b.Sits true 0 none := by
  have h1 : (({ l with b := r.1 } : Leaf).stopAfterStep l.b.steps).b.Sits true 0 none :=
    (h.seat hr : ({ l with b := r.1 } : Leaf).b.Sits true 0 none).seat (by simp [Blk.Seated])
  simp only [Leaf.afterTime]
  split
  · exact Leaf.sits_openFrame h1 _ _
  · exact h1

theorem Leaf.sits_startReset (h : l.b.Sits true 0 k) : l.startReset.b.Sits true 0 k :=
  (Blk.sits_softReset h leafKeeps).seat (by simp [Blk.Seated, Leaf.startReset])

theorem Leaf.sits_startCold (h : l.b.Sits true 0 k) (keep) (owed) : (l.startCold keep owed).b.Sits true 0 k :=
  (Blk.sits_coldReset h keep).seat (by simp [Blk.Seated, Leaf.startCold])

theorem Leaf.sits_powerOn (h : l.b.Sits true 0 k) : l.powerOn.b.Sits true 0 k := by
  unfold Leaf.powerOn
  split
  · exact Leaf.sits_startCold h _ _
  · exact Leaf.sits_startCold h _ _
  · exact h

theorem Leaf.sits_selftestDone (h : l.b.Sits true 0 k) (rows) : (l.selftestDone rows).b.Sits true 0 k := by
  simp only [Leaf.selftestDone]
  have h1 : ({ (l.b.selftest rows []).1 with phase := .failed } : Blk).Sits true 0 k :=
    Blk.sits_same (h.seat (b := (l.b.selftest rows []).1) (by simp [Blk.Seated])) rfl rfl rfl
  exact Leaf.sits_ite h (Leaf.sits_ite (h1.seat (by simp [Blk.Seated])) (h.seat (by simp [Blk.Seated])))

theorem Leaf.sits_uncorrectable (h : l.b.Sits true 0 k) (a r : Nat) : (l.uncorrectable a r).b.Sits true 0 k := by
  have key : ∀ w o, ({ l with b := l.b.setNum K.lastUncorrectable w, owed := o } : Leaf).startReset.b.Sits true 0 k := fun w o =>
    Leaf.sits_startReset (l := { l with b := l.b.setNum K.lastUncorrectable w, owed := o }) (h.seat (Blk.setNum_seat _ _ _))
  unfold Leaf.uncorrectable
  split
  · exact h
  · exact key _ _

theorem Leaf.sits_fastPathDone (h : l.b.Sits true 0 none) (scrub : Option Nat) (refOk : Bool) (n ms : Nat) :
    (l.fastPathDone scrub refOk n ms).b.Sits true 0 none := by
  simp only [Leaf.fastPathDone]
  refine Leaf.sits_ite h ?_
  cases scrub with
  | some w =>
    exact (Leaf.sits_startCold h (fun key => key == K.lastUncorrectable) (l.owed ++ [(0x11, w % 2 ^ 21, l.b.now)])).seat
      (by simp [Blk.Seated])
  | none =>
    dsimp only
    generalize hb : (if refOk = true then ({ l.b with phase := .run, needLock := false } : Blk) else _) = b0
    have h0 : b0.Sits true 0 none := by
      rw [← hb]
      split
      · exact Blk.sits_same h rfl rfl rfl
      · exact Blk.sits_same h rfl rfl rfl
    have h1 : ({ l with b := ((((b0.bump K.fastPathCount).setNum K.readyMs ms).setNum K.bringupState 5).resume n).emit (.credit 256) }
        : Leaf).b.Sits true 0 none := h0.seat (by simp [Blk.Seated])
    exact Leaf.sits_ite (Leaf.sits_openFrame h1 _ _) h1

theorem Leaf.sits_response (h : l.b.Sits true 0 k) (r : Resp) : (l.response r).b.Sits true 0 k :=
  leafEnv_keeps.heardResp (fun s d r h => h.seat (by simp [Blk.Seated, leafEnv])) h r _ fun h => h

theorem Leaf.sits_refuseFleet (h : l.b.Sits true 0 k) (q : Req) : (l.refuseFleet q).b.Sits true 0 k :=
  leafEnv_keeps.judge h _ _ _ _ _ (fun _ _ _ _ ht => leafEnv_keeps.finishReq ht _ _ _)

end

end

end Sys2Proof.Machine
end

