-- ==== Sys2Proof/Laws/Whole.lean ====
section
/-! SUPPORT. What the operations of the whole machine keep: the queue of commands, and the kind and place of every block. -/

set_option linter.unusedSimpArgs false
set_option linter.unusedVariables false

namespace Sys2Proof.Machine

/-- The machine has moved from `s` to `t` with its queue as it was, and its blocks are of their kind and in their places still. -/
def State.Holds (s t : State) : Prop := t.pending = s.pending ∧ (s.seated → t.seated)

theorem State.Holds.refl (s : State) : State.Holds s s := ⟨rfl, fun h => h⟩

theorem State.Holds.trans {s t u : State} (h : State.Holds s t) (g : State.Holds t u) : State.Holds s u :=
  ⟨g.1.trans h.1, fun a => g.2 (h.2 a)⟩

theorem State.holds_ite {p : Prop} [Decidable p] {s x y : State} (hx : State.Holds s x) (hy : State.Holds s y) :
    State.Holds s (if p then x else y) := by
  split
  · exact hx
  · exact hy

theorem State.seated_leaf {s : State} (h : s.seated) : s.leaf.b.Sits true 0 none := ⟨h.1.1, h.1.2, fun _ e => by cases e⟩

theorem State.seated_chan {s : State} (h : s.seated) (c : Ch) : (s.chan c).b.Sits false c.val none :=
  ⟨(h.2 c).1, (h.2 c).2, fun _ e => by cases e⟩

/-- A state whose blocks sit is seated. -/
theorem State.seated_of {s : State} (h : s.leaf.b.Sits true 0 none) (g : ∀ c, (s.chan c).b.Sits false c.val none) : s.seated :=
  ⟨⟨h.1, h.2.1⟩, fun c => ⟨(g c).1, (g c).2.1⟩⟩

theorem Chan.sits_of_own {a b : Chan} {l : Bool} {p : Nat} (h : b.own = a.own) (g : a.b.Sits l p none) : b.b.Sits l p none :=
  g.seat (Chan.seat_of_own h)

theorem Chan.sits_of_apart {a b : Chan} {l : Bool} {p : Nat} (h : b.apart = a.apart) (g : a.b.Sits l p none) : b.b.Sits l p none := by
  have e1 : b.apart.b.isLeaf = a.apart.b.isLeaf := by rw [h]
  have e2 : b.apart.b.place = a.apart.b.place := by rw [h]
  exact ⟨e1.trans g.1, e2.trans g.2.1, fun _ e => by cases e⟩

theorem Leaf.sits_of_own {a b : Leaf} (h : b.own = a.own) (g : a.b.Sits true 0 none) : b.b.Sits true 0 none := by
  have e1 : b.own.b.isLeaf = a.own.b.isLeaf := by rw [h]
  have e2 : b.own.b.place = a.own.b.place := by rw [h]
  exact ⟨e1.trans g.1, e2.trans g.2.1, fun _ e => by cases e⟩

/-! ### A command on a channel -/

theorem State.holds_onCS (s : State) (c : Ch) (f : CS → CS)
    (hf : ∀ x : CS, x.ch.b.Sits false c.val none → (f x).ch.b.Sits false c.val none) : State.Holds s (s.onCS c f) := by
  refine ⟨State.onCS_pending s c f, fun h => State.seated_of ?_ ?_⟩
  · rw [State.onCS_leaf]
    exact State.seated_leaf h
  · intro d
    by_cases hd : d = c
    · subst hd
      exact Chan.sits_of_own (State.onCS_own s d f) (hf _ (State.seated_chan h d))
    · exact Chan.sits_of_apart (State.onCS_apart s c f hd) (State.seated_chan h d)

theorem State.holds_onChan (s : State) (c : Ch) (f : Chan → Chan)
    (hf : ∀ x : Chan, x.b.Sits false c.val none → (f x).b.Sits false c.val none) : State.Holds s (s.onChan c f) :=
  State.holds_onCS s c _ (fun x h => hf x.ch h)

/-- An operation on a channel that keeps the seat. -/
theorem State.holds_seat (s : State) (c : Ch) (f : Chan → Chan) (hf : ∀ x : Chan, (f x).b.Seated x.b) : State.Holds s (s.onChan c f) :=
  State.holds_onChan s c f (fun x h => h.seat (hf x))

theorem State.holds_atWork (s : State) (c : Ch) (f : Chan → Chan) (hf : ∀ x : Chan, (f x).b.Seated x.b) :
    State.Holds s (s.atWork c f) :=
  State.holds_ite (State.holds_seat s c f hf) (.refl s)

theorem State.holds_csWork (s : State) (c : Ch) (f : CS → CS)
    (hf : ∀ x : CS, x.ch.b.Sits false c.val none → (f x).ch.b.Sits false c.val none) : State.Holds s (s.csWork c f) :=
  State.holds_ite (State.holds_onCS s c f hf) (.refl s)

theorem State.holds_foldl {α : Type} (g : State → α → State) (hg : ∀ x a, State.Holds x (g x a)) (l : List α) :
    ∀ s : State, State.Holds s (l.foldl g s) := by
  induction l with
  | nil => intro s; exact .refl s
  | cons a l ih => intro s; exact (hg s a).trans (ih _)

/-! ### A command on the leaf -/

/-- Only the channels' flash changes. -/
theorem State.holds_around {c : Ch} {s t : State} (h : State.Around c s t) : State.Holds s t := by
  refine ⟨h.pending, fun g => State.seated_of ?_ ?_⟩
  · rw [h.leaf]
    exact State.seated_leaf g
  · intro d
    by_cases hd : d = c
    · subst hd
      exact Chan.sits_of_own h.own (State.seated_chan g d)
    · exact Chan.sits_of_apart (h.apart d hd) (State.seated_chan g d)

/-- The leaf is replaced by one of its kind. -/
theorem State.holds_leaf (s : State) (l : Leaf) (hl : s.leaf.b.Sits true 0 none → l.b.Sits true 0 none) :
    State.Holds s { s with leaf := l } :=
  ⟨rfl, fun g => State.seated_of (hl (State.seated_leaf g)) (fun c => State.seated_chan g c)⟩

theorem State.holds_takeNotices (s : State) : State.Holds s s.takeNotices := by
  simp only [State.takeNotices]
  refine State.holds_ite (.refl s) ?_
  split
  · refine State.Holds.trans (State.holds_leaf s _ (fun h => h)) (State.holds_foldl _ ?_ _ _)
    intro x a
    exact State.holds_seat x _ _ (fun y => by simp [Blk.Seated])
  · refine State.holds_leaf s _ (fun h => h.seat ?_)
    exact Blk.foldl_seat _ _ _ _ (fun x a => by simp [Blk.Seated]) ⟨rfl, rfl, rfl, rfl, rfl⟩

theorem State.holds_takeStores (s : State) : State.Holds s s.takeStores := by
  simp only [State.takeStores]
  refine State.holds_ite (.refl s) ?_
  have h0 : State.Holds s { s with leaf := { s.leaf with stores := [], currents := [] } } := State.holds_leaf s _ (fun h => h)
  split
  · exact h0
  · refine h0.trans (State.Holds.trans (State.holds_foldl _ ?_ _ _) (State.holds_foldl _ ?_ _ _))
    · intro x a
      exact State.holds_seat x _ _ (fun y => by simp [Blk.Seated])
    · intro x a
      exact State.holds_seat x _ _ (fun y => by simp [Blk.Seated])

theorem State.holds_onLeaf (s : State) (f : Leaf → Leaf) (hf : ∀ l : Leaf, l.b.Sits true 0 none → (f l).b.Sits true 0 none) :
    State.Holds s (s.onLeaf f) := by
  simp only [State.onLeaf]
  refine State.Holds.trans (State.holds_leaf s _ (hf _)) ?_
  exact State.Holds.trans (State.holds_around (State.around_dropStale 0 { s with leaf := f s.leaf } (fun _ => (f s.leaf).b.addr)
    ((f s.leaf).b.begun s.leaf.b))) (State.Holds.trans (State.holds_takeNotices _) ((State.holds_takeStores _).trans
      (State.holds_around (State.around_dropStale 0 _ _ _))))

theorem State.holds_leafSeat (s : State) (f : Leaf → Leaf) (hf : ∀ l : Leaf, (f l).b.Seated l.b) : State.Holds s (s.onLeaf f) :=
  State.holds_onLeaf s f (fun l h => h.seat (hf l))

theorem State.holds_leafWork (s : State) (f : Leaf → Leaf) (hf : ∀ l : Leaf, (f l).b.Seated l.b) : State.Holds s (s.leafWork f) :=
  State.holds_ite (State.holds_leafSeat s f hf) (.refl s)

theorem State.holds_onNode (s : State) (n : Node) (l : Leaf → Leaf) (f : CS → CS)
    (hl : ∀ x : Leaf, x.b.Sits true 0 none → (l x).b.Sits true 0 none)
    (hf : ∀ (p : Nat) (x : CS), x.ch.b.Sits false p none → (f x).ch.b.Sits false p none) : State.Holds s (s.onNode n l f) := by
  cases n with
  | leaf => exact State.holds_onLeaf s l hl
  | chan c => exact State.holds_onCS s c f (hf _)

theorem State.holds_onBlk (s : State) (n : Node) (f : Blk → Blk) (hf : ∀ b, (f b).Seated b) : State.Holds s (s.onBlk n f) := by
  cases n with
  | leaf => exact State.holds_ite (State.holds_leafSeat s _ (fun l => hf l.b)) (.refl s)
  | chan c => exact State.holds_ite (State.holds_seat s c _ (fun x => hf x.b)) (.refl s)

/-! ### Writes of one object, and time -/

/-- A write of one object keeps what the endpoint and the object's effect keep. -/
theorem Env.Keeps.row {σ : Type} {E : Env σ} {P : σ → Prop} (h : E.Keeps P) {s : σ} (hs : P s) (src : Word) (key : Nat) (v : Val)
    (act : σ → Val → σ) (ha : ∀ t x, P t → P (act t x)) : P (rowAct E s src key v act) := by
  simp only [rowAct]
  refine keep_ite hs (h.upd _ _ (keep_ite (ha _ _ ?_) (h.miss _ _ _ ?_)) (by simp [Blk.Seated]))
  · exact h.upd _ _ hs (by simp [Blk.Seated])
  · exact h.upd _ _ hs (by simp [Blk.Seated])

theorem State.holds_chanRow (s : State) (c : Ch) (key : Nat) (v : Val) (f : Chan → Val → Chan)
    (hf : ∀ x y, x.b.Sits false c.val none → (f x y).b.Sits false c.val none) : State.Holds s (s.chanRow c key v f) :=
  State.holds_onCS s c _ (fun x h => (chanEnv_keeps rfl).row h _ _ _ _ (fun t y ht => hf t.ch y ht))

theorem State.holds_leafRow (s : State) (src : Word) (key : Nat) (v : Val) (f : Leaf → Val → Leaf)
    (hf : ∀ x y, x.b.Sits true 0 none → (f x y).b.Sits true 0 none) : State.Holds s (s.leafRow src key v f) :=
  State.holds_onLeaf s _ (fun l h => leafEnv_keeps.row h _ _ _ _ (fun t y ht => hf t y ht))

/-- A channel is replaced by one of its kind and place. -/
theorem State.holds_putChan (s : State) (c : Ch) (x : Chan) (hx : (s.chan c).b.Sits false c.val none → x.b.Sits false c.val none) :
    State.Holds s (s.putChan c x) := by
  refine ⟨rfl, fun (g : s.seated) => State.seated_of (State.seated_leaf (s := s) g) ?_⟩
  intro d
  by_cases hd : d = c
  · subst hd
    rw [State.chan_putChan_same]
    exact hx (State.seated_chan g d)
  · rw [State.chan_putChan_ne s x hd]
    exact State.seated_chan g d

/-- Every channel is replaced by one of its kind and place. -/
theorem State.holds_map (s : State) (f : Chan → Chan) (sh : Shared)
    (hf : ∀ (p : Nat) (x : Chan), x.b.Sits false p none → (f x).b.Sits false p none) :
    State.Holds s { s with ch := s.ch.map f, sh := sh } := by
  refine ⟨rfl, fun (g : s.seated) => State.seated_of (State.seated_leaf (s := s) g) ?_⟩
  intro d
  have e : State.chan { s with ch := s.ch.map f, sh := sh } d = f (s.chan d) := Quad.get_map f s.ch d
  rw [e]
  exact hf _ _ (State.seated_chan g d)

/-- Only the shared logic changes. -/
theorem State.holds_sh (s : State) (sh : Shared) : State.Holds s { s with sh := sh } :=
  ⟨rfl, fun g => State.seated_of (State.seated_leaf g) (State.seated_chan g)⟩

theorem State.holds_busSample (s : State) (c : Ch) (k : Nat) : State.Holds s (s.busSample c k) := by
  simp only [State.busSample, State.signalSupply]
  refine State.Holds.trans (State.holds_sh s _) (State.holds_map _ _ _ (fun p x h => Chan.sits_ite h ?_))
  exact h.seat (by (repeat' split) <;> simp [Blk.Seated, Chan.onB])

theorem State.holds_boundarySample (s : State) (b : Blk) (c : Ch) : State.Holds s (s.boundarySample b c) :=
  State.holds_ite ((State.holds_putChan s c _ (fun h => h.seat (by simp [Blk.Seated, Chan.onB]))).trans (State.holds_busSample _ _ _)) (.refl s)

theorem State.holds_onTime (s : State) (n : Node) (f : Blk → Blk × Option Nat) (hf : ∀ b, (f b).1.Seated b) :
    State.Holds s (s.onTime n f) := by
  cases n with
  | leaf => exact State.holds_ite (State.holds_onLeaf s _ (fun l h => Leaf.sits_afterTime h _ (hf l.b))) (.refl s)
  | chan c => exact State.holds_ite ((State.holds_onCS s c _ (fun x h => CS.sits_afterTime h rfl _ (hf x.ch.b))).trans
      (State.holds_boundarySample _ _ _)) (.refl s)

/-! ### The shared logic -/

theorem State.holds_settle (s : State) : State.Holds s s.settle := State.holds_around (State.around_settle 0 s)

theorem State.holds_onShared (s : State) (f : Shared → Shared) : State.Holds s (s.onShared f) :=
  State.holds_ite (State.holds_sh s _) (.refl s)

/-! ### Stores, resets, the clasp and the ports -/

theorem State.holds_reapStores (s : State) (c : Ch) : State.Holds s (s.reapStores c) := by
  simp only [State.reapStores]
  refine State.holds_foldl _ (fun x a => State.holds_foldl _ (fun y b => ?_) _ _) _ _
  exact State.holds_onCS y c _ (fun z h => CS.sits_endStoreFor h rfl _ _ _ _)

theorem State.holds_dropGen (s : State) (g : Nat) : State.Holds s (s.dropGen g) :=
  State.holds_map s _ s.sh (fun p x h => h)

theorem State.holds_endTrayStore (s : State) (d : Ch) (ok : Bool) (j : FlashJob) (o g : Nat) (src num : Word) (pl : Option Nat) :
    State.Holds s (s.endTrayStore d ok j o g src num pl) := by
  simp only [State.endTrayStore]
  generalize hx : (if (ok && !s.sh.bad.contains g) = true then _ else _) = x1
  have h1 : x1.b.Seated (s.chan d).b := by
    rw [← hx]
    split <;> simp [Blk.Seated, Chan.onB]
  generalize hs : State.putChan s d (if ok = true then x1 else _) = s1
  have h2 : State.Holds s s1 := by
    rw [← hs]
    refine State.holds_putChan s d _ (fun h => Chan.sits_ite (h.seat h1) ((h.seat h1).seat (by simp [Blk.Seated, Chan.onB])))
  generalize hs2 : (if ok = true then s1 else _) = s2
  have h3 : State.Holds s s2 := by
    rw [← hs2]
    exact State.holds_ite h2 (h2.trans (State.Holds.trans (State.holds_dropGen s1 g) (State.holds_sh _ _)))
  split
  · exact h3
  · exact h3.trans (State.holds_onCS _ _ _ (fun z h => CS.sits_endStoreFor h rfl _ _ _ _))

theorem State.holds_flashDone (s : State) (d : Ch) (ok : Bool) : State.Holds s (s.flashDone d ok) := by
  have K := fun (x : CS) (h : x.ch.b.Sits false d.val none) => (chanEnv_keeps (k := none) (pl := d.val) rfl).endStore h ok
  simp only [State.flashDone]
  split
  · exact .refl s
  · split
    · exact State.holds_endTrayStore _ _ _ _ _ _ _ _ _
    · exact State.holds_onCS s d _ K
    · exact State.holds_onCS s d _ K
    · exact State.holds_onCS s d _ K

theorem State.holds_chanPower (s : State) (c : Ch) (n : Nat) (f : Chan → Chan)
    (hf : ∀ x : Chan, x.b.Sits false c.val none → (f x).b.Sits false c.val none) : State.Holds s (s.chanPower c n f) :=
  (State.holds_putChan s c _ (fun h => (chanEnv_keeps rfl).row (s := { ch := s.chan c, sh := s.sh }) h _ _ _ _ (fun t _ ht => hf t.ch ht))).trans
    (State.holds_settle _)

theorem State.holds_spreadTray (s : State) (key g : Nat) (v : Val) : State.Holds s (s.spreadTray key g v) :=
  State.holds_map s _ s.sh (fun p x h => Chan.sits_ite h (Chan.sits_ite (h.seat (by simp [Blk.Seated])) h))

theorem State.holds_reconcile (s : State) (c : Ch) : State.Holds s (s.reconcile c) := by
  simp only [State.reconcile]
  refine State.Holds.trans (State.holds_foldl _ (fun x a => ?_) _ _) (State.holds_sh _ _)
  simp only [State.reconcileOne]
  split
  · exact .refl x
  · exact (State.holds_sh x _).trans (State.holds_spreadTray _ _ _ _)
  · exact State.holds_ite ((State.holds_sh x _).trans (State.holds_spreadTray _ _ _ _)) (State.holds_spreadTray _ _ _ _)
  · exact State.holds_spreadTray _ _ _ _

theorem State.holds_restoreDone (s : State) (c : Ch) (r : Bool) (bad : List Nat) : State.Holds s (s.restoreDone c r bad) := by
  simp only [State.restoreDone]
  have h1 : State.Holds s (s.putChan c ((s.chan c).restore bad)) := State.holds_putChan s c _ (fun h => Chan.sits_restore h bad)
  refine State.holds_ite (.refl s) (State.holds_ite ((State.holds_putChan s c _ (fun h => Chan.sits_fail h _)).trans (State.holds_settle _))
    (State.holds_ite (h1.trans (State.holds_settle _)) (h1.trans ((State.holds_reconcile _ _).trans (State.holds_settle _)))))

theorem State.holds_warmReset (s : State) : State.Holds s s.warmReset :=
  (State.holds_map s _ _ (fun p x h => Chan.sits_ite ((Chan.sits_fastReset h 1).seat (by simp [Blk.Seated])) h)).trans (State.holds_settle _)

theorem State.holds_warmInput (s : State) (n : Nat) : State.Holds s (s.warmInput n) :=
  State.holds_ite (.refl s) ((State.holds_warmReset s).trans (State.holds_sh _ _))

theorem State.holds_closeClaims (s : State) : State.Holds s s.closeClaims := by
  simp only [State.closeClaims]
  generalize s.sh.closeWindow = r
  generalize hs2 : List.foldl _ ({ s with sh := r.2.2.2 } : State) r.2.1 = s2
  have h2 : State.Holds s s2 := by
    rw [← hs2]
    refine State.Holds.trans (State.holds_sh s r.2.2.2) (State.holds_foldl _ (fun x a => ?_) _ _)
    split
    · exact State.holds_putChan x _ _ (fun h => h.seat (by simp [Blk.Seated, Chan.onB]))
    · exact .refl x
  generalize hs3 : List.foldl _ s2 r.2.2.1 = s3
  have h3 : State.Holds s s3 := by
    rw [← hs3]
    refine State.Holds.trans h2 (State.holds_foldl _ (fun x a => ?_) _ _)
    split
    · exact State.holds_ite (State.holds_putChan x _ _ (fun h => h.seat (by simp [Blk.Seated]))) (.refl x)
    · exact .refl x
  split
  · exact h3
  · refine h3.trans (State.holds_map s3 _ s3.sh (fun p x h => ?_))
    have h4 : x.claspSeen.b.Sits false p none := h.seat (by simp [Blk.Seated])
    exact Chan.sits_ite (h4.seat (by simp [Blk.Seated])) h4

theorem State.holds_heartbeat (s : State) (c : Ch) : State.Holds s (s.heartbeat c) := by
  simp only [State.heartbeat]
  refine State.holds_ite (.refl s) (State.holds_ite (State.holds_map s _ _ (fun p x h => Chan.sits_ite (h.seat (by simp [Blk.Seated])) h))
    (State.holds_putChan s c _ (fun h => h.seat (by simp [Blk.Seated, Chan.onB]))))

theorem State.holds_hostOut (s : State) (d : Nat) (e : Bool) : State.Holds s (s.hostOut d e) :=
  State.holds_ite (State.holds_sh s _) (.refl s)

theorem State.holds_onWin (s : State) (c : Ch) (f : Chan → Chan × Nat × Bool) (hf : ∀ x, (f x).1.b.Seated x.b) :
    State.Holds s (s.onWin c f) := by
  simp only [State.onWin]
  exact State.holds_ite (.refl s) (State.holds_ite (State.holds_hostOut s _ _)
    ((State.holds_putChan s c _ (fun h => h.seat (hf _))).trans (State.holds_hostOut _ _ _)))

theorem State.holds_mailboxGo (s : State) (c : Ch) : State.Holds s (s.mailboxGo c) := by
  simp only [State.mailboxGo]
  have h1 : ∀ w, State.Holds s (s.putChan c { s.chan c with win := w }) := fun w => State.holds_putChan s c _ (fun h => h)
  exact State.holds_ite (h1 _) (State.holds_ite ((h1 _).trans (State.holds_onCS _ _ _ (fun x h => CS.sits_bivan h rfl _ _)))
    ((h1 _).trans (State.holds_onCS _ _ _ (fun x h => CS.sits_on h _ (by simp [Blk.Seated])))))

theorem State.holds_ctrlWrite (s : State) (c : Ch) (d : Nat) : State.Holds s (s.ctrlWrite c d) := by
  simp only [State.ctrlWrite]
  have h1 : State.Holds s (s.onWin c (fun x =>
    (if bit d 2 = true then (if bit d 4 = true then ({ x with win := { x.win with goRefused := false } } : Chan) else x).rspDone
      else (if bit d 4 = true then ({ x with win := { x.win with goRefused := false } } : Chan) else x), 0, false))) := by
    refine State.holds_onWin s c _ (fun x => ?_)
    dsimp only
    (repeat' split) <;> exact ⟨rfl, rfl, rfl, rfl, rfl⟩
  exact State.holds_ite (h1.trans (State.holds_mailboxGo _ _)) h1

theorem State.holds_hostWrite (s : State) (a d : Nat) : State.Holds s (s.hostWrite a d) := by
  simp only [State.hostWrite]
  refine State.holds_ite (State.holds_hostOut s _ _) ?_
  split
  · exact State.holds_hostOut s _ _
  · exact State.holds_ite (State.holds_ctrlWrite _ _ _) (State.holds_onWin s _ _ (fun x => Chan.winWrite_seat x _ _))

theorem State.holds_smbWrite (s : State) (a : Nat) (d : List Byte) (p : Bool) : State.Holds s (s.smbWrite a d p) := by
  simp only [State.smbWrite]
  refine State.holds_ite (.refl s) ?_
  split
  · exact .refl s
  · exact State.holds_onCS _ _ _ (fun x h => CS.sits_bivan h rfl _ _)

theorem State.holds_smbRead (s : State) (a : Nat) : State.Holds s (s.smbRead a) := by
  simp only [State.smbRead]
  refine State.holds_ite (.refl s) ?_
  split
  · exact .refl s
  · next c _ =>
    have h1 : State.Holds s (s.putChan c { s.chan c with side := (s.chan c).side.drop 1 }) := State.holds_putChan s c _ (fun h => h)
    exact h1.trans (State.holds_sh _ _)

theorem State.holds_tap (s : State) (n : Node) (ir : Byte) : State.Holds s (s.tap n ir) := by
  cases n with
  | leaf => exact State.holds_leaf s _ (fun h => h.seat (by simp [Blk.Seated]))
  | chan c => exact State.Holds.trans (State.holds_putChan s c _ (fun h => h.seat (by simp [Blk.Seated]))) (State.holds_sh _ _)

end Sys2Proof.Machine
end

