-- ==== Sys2Proof/Laws/Alone.lean ====
section
/-! SUPPORT. The commands of one channel leave the leaf and the other channels alone (R29): one lemma per operation, and one per
command. -/

set_option linter.unusedSimpArgs false
set_option linter.unusedVariables false

namespace Sys2Proof.Machine

/-- From `s` to `t` the leaf has not moved by itself, and no channel beside `c` has, but for its copies of tray-level objects. -/
def State.Alone (c : Ch) (s t : State) : Prop := t.leaf.own = s.leaf.own ∧ ∀ d, d ≠ c → (t.chan d).apart = (s.chan d).apart

theorem State.Alone.refl (c : Ch) (s : State) : State.Alone c s s := ⟨rfl, fun _ _ => rfl⟩

theorem State.Alone.trans {c : Ch} {s t u : State} (h : State.Alone c s t) (g : State.Alone c t u) : State.Alone c s u :=
  ⟨g.1.trans h.1, fun d hd => (g.2 d hd).trans (h.2 d hd)⟩

theorem State.alone_ite {p : Prop} [Decidable p] {c : Ch} {s x y : State} (hx : State.Alone c s x) (hy : State.Alone c s y) : State.Alone c s (if p then x else y) := by
  split
  · exact hx
  · exact hy

theorem State.alone_onCS (s : State) (c : Ch) (f : CS → CS) : State.Alone c s (s.onCS c f) :=
  ⟨by rw [State.onCS_leaf]; rfl, fun d hd => State.onCS_apart s c f hd⟩

theorem State.alone_onChan (s : State) (c : Ch) (f : Chan → Chan) : State.Alone c s (s.onChan c f) := State.alone_onCS s c _

theorem State.alone_putChan (s : State) (c : Ch) (x : Chan) : State.Alone c s (s.putChan c x) :=
  ⟨rfl, fun d hd => by rw [State.chan_putChan_ne s x hd]⟩

theorem State.alone_settle (c : Ch) (s : State) : State.Alone c s s.settle :=
  have h := State.around_settle c s
  ⟨by rw [h.leaf]; rfl, h.apart⟩

theorem State.alone_sh (c : Ch) (s : State) (sh : Shared) : State.Alone c s { s with sh := sh } := ⟨rfl, fun _ _ => rfl⟩

theorem State.alone_foldl {α : Type} (c : Ch) (g : State → α → State) (hg : ∀ x a, State.Alone c x (g x a)) (l : List α) :
    ∀ s : State, State.Alone c s (l.foldl g s) := by
  induction l with
  | nil => intro s; exact .refl c s
  | cons a l ih => intro s; exact (hg s a).trans (ih _)

theorem State.alone_reap (s : State) (c : Ch) : State.Alone c s (s.reapStores c) := by
  simp only [State.reapStores]
  exact State.alone_foldl c _ (fun x a => State.alone_foldl c _ (fun y b => State.alone_onCS y c _) _ _) _ _

theorem State.alone_hostOut (c : Ch) (s : State) (d : Nat) (e : Bool) : State.Alone c s (s.hostOut d e) := State.alone_ite (State.alone_sh c s _) (.refl c s)

theorem State.alone_onWin (s : State) (c : Ch) (f) : State.Alone c s (s.onWin c f) := by
  simp only [State.onWin]
  exact State.alone_ite (.refl c s) (State.alone_ite (State.alone_hostOut c s _ _) ((State.alone_putChan s c _).trans (State.alone_hostOut _ _ _ _)))

theorem State.alone_atWork (s : State) (c : Ch) (f : Chan → Chan) : State.Alone c s (s.atWork c f) := State.alone_ite (State.alone_onChan s c f) (.refl c s)

theorem State.alone_csWork (s : State) (c : Ch) (f : CS → CS) : State.Alone c s (s.csWork c f) := State.alone_ite (State.alone_onCS s c f) (.refl c s)

theorem State.alone_chanRow (s : State) (c : Ch) (k : Nat) (v : Val) (f : Chan → Val → Chan) : State.Alone c s (s.chanRow c k v f) := State.alone_onCS s c _

theorem State.alone_onNode (s : State) (c : Ch) (l : Leaf → Leaf) (f : CS → CS) : State.Alone c s (s.onNode (.chan c) l f) := State.alone_onCS s c f

/-- From `s` to `t` the leaf has not moved by itself, and no channel beside `c` has, but for its copies of tray-level objects and the
interrupts of the supply. -/
def State.Dry (c : Ch) (s t : State) : Prop := t.leaf.own = s.leaf.own ∧ ∀ d, d ≠ c → (t.chan d).dry = (s.chan d).dry

theorem Chan.dry_of_apart {x y : Chan} (h : x.apart = y.apart) : x.dry = y.dry := by
  have e : ∀ z : Chan, z.dry = { z.apart with b := { z.apart.b with
      evt := z.apart.b.evt &&& ~~~ BitVec.ofNat 8 (2 ^ irqSupply), err := z.apart.b.err &&& ~~~ BitVec.ofNat 8 (2 ^ irqSupply) } } :=
    fun _ => rfl
  rw [e, e, h]

theorem State.Alone.dry {c : Ch} {s t : State} (h : State.Alone c s t) : State.Dry c s t :=
  ⟨h.1, fun d hd => Chan.dry_of_apart (h.2 d hd)⟩

theorem State.Dry.trans {c : Ch} {s t u : State} (h : State.Dry c s t) (g : State.Dry c t u) : State.Dry c s u :=
  ⟨g.1.trans h.1, fun d hd => (g.2 d hd).trans (h.2 d hd)⟩

theorem State.dry_ite {p : Prop} [Decidable p] {c : Ch} {s x y : State} (hx : State.Dry c s x) (hy : State.Dry c s y) :
    State.Dry c s (if p then x else y) := by
  split
  · exact hx
  · exact hy

theorem State.dry_busSample (c : Ch) (s : State) (a : Ch) (k : Nat) : State.Dry c s (s.busSample a k) := by
  have m : ∀ e : BitVec 8, (e ||| BitVec.ofNat 8 (2 ^ irqSupply)) &&& ~~~ BitVec.ofNat 8 (2 ^ irqSupply) =
      e &&& ~~~ BitVec.ofNat 8 (2 ^ irqSupply) := by decide
  refine ⟨rfl, fun d _ => ?_⟩
  simp only [State.busSample, State.signalSupply]
  have e : ∀ (h : Shared) (f : Chan → Chan), State.chan { s with ch := s.ch.map f, sh := h } d = f (s.chan d) := fun h f =>
    Quad.get_map f s.ch d
  rw [e]
  have r1 : ∀ x : Chan, (x.onB (fun b => b.raiseEvt irqSupply)).dry = x.dry := by
    intro x
    simp only [Chan.dry, Chan.apart, Chan.onB, Blk.raiseEvt]
    split <;> first | rfl | simp only [m]
  have r2 : ∀ x : Chan, (x.onB (fun b => b.raiseErr irqSupply)).dry = x.dry := by
    intro x
    simp only [Chan.dry, Chan.apart, Chan.onB, Blk.raiseErr]
    split <;> first | rfl | simp only [m]
  repeat' split
  all_goals simp [r1, r2]

theorem State.dry_boundarySample (s : State) (b : Blk) (c : Ch) : State.Dry c s (s.boundarySample b c) :=
  State.dry_ite ((State.alone_putChan s c _).dry.trans (State.dry_busSample c _ _ _)) (State.Alone.refl c s).dry

theorem State.dry_onTime (s : State) (c : Ch) (f : Blk → Blk × Option Nat) : State.Dry c s (s.onTime (.chan c) f) :=
  State.dry_ite ((State.alone_onCS s c _).dry.trans (State.dry_boundarySample _ _ c)) (State.Alone.refl c s).dry

theorem State.alone_onBlk (s : State) (c : Ch) (f : Blk → Blk) : State.Alone c s (s.onBlk (.chan c) f) := State.alone_ite (State.alone_onChan s c _) (.refl c s)

theorem State.alone_onShared (c : Ch) (s : State) (f : Shared → Shared) : State.Alone c s (s.onShared f) := State.alone_ite (State.alone_sh c s _) (.refl c s)

theorem State.alone_mailboxGo (s : State) (c : Ch) : State.Alone c s (s.mailboxGo c) := by
  simp only [State.mailboxGo]
  exact State.alone_ite (State.alone_putChan s c _) (State.alone_ite ((State.alone_putChan s c _).trans (State.alone_onCS _ _ _)) ((State.alone_putChan s c _).trans (State.alone_onCS _ _ _)))

theorem State.alone_ctrlWrite (s : State) (c : Ch) (d : Nat) : State.Alone c s (s.ctrlWrite c d) := by
  simp only [State.ctrlWrite]
  exact State.alone_ite ((State.alone_onWin s c _).trans (State.alone_mailboxGo _ _)) (State.alone_onWin s c _)

theorem execFrameOpen_dry c k given (s : State) :
    ∃ z, execFrameOpen (.chan c) k given s = .next z ∧ State.Dry c s z := by
  obtain ⟨temp, fixed, sample⟩ := given
  have h1 := ((State.alone_reap s c).trans (State.alone_onCS _ c (fun cs => (cs.on (·.corrected fixed)).openFrame k.toNat temp.toNat false))).dry
  cases sample with
  | none => exact ⟨_, rfl, h1⟩
  | some code => exact ⟨_, rfl, State.dry_ite (h1.trans (State.dry_busSample c _ _ _)) h1⟩

theorem execUnitOverrun_alone c u f left (s : State) : ∃ z, execUnitOverrun (.chan c) u f left s = .next z ∧ State.Alone c s z := by
  refine ⟨_, rfl, ?_⟩
  exact State.alone_atWork s _ _

theorem execAnnounceReceive_dry c h m (s : State) : ∃ z, execAnnounceReceive (.chan c) h m s = .next z ∧ State.Dry c s z := by
  refine ⟨_, rfl, ?_⟩
  exact State.dry_onTime s _ _

theorem execAnnounceTimeout_dry c d src (s : State) : ∃ z, execAnnounceTimeout (.chan c) d src s = .next z ∧ State.Dry c s z := by
  refine ⟨_, rfl, ?_⟩
  exact State.dry_onTime s _ _

theorem execSyncReceive_dry c h t1 t2 (s : State) : ∃ z, execSyncReceive (.chan c) h t1 t2 s = .next z ∧ State.Dry c s z := by
  refine ⟨_, rfl, ?_⟩
  exact State.dry_onTime s _ _

theorem execFollowUpReceive_dry c h t1 (s : State) : ∃ z, execFollowUpReceive (.chan c) h t1 s = .next z ∧ State.Dry c s z := by
  refine ⟨_, rfl, ?_⟩
  exact State.dry_onTime s _ _

theorem execDelayRespReceive_dry c h t4 (s : State) : ∃ z, execDelayRespReceive (.chan c) h t4 s = .next z ∧ State.Dry c s z := by
  refine ⟨_, rfl, ?_⟩
  exact State.dry_onTime s _ _

theorem execDelayReqSend_dry c d seqId t3 (s : State) : ∃ z, execDelayReqSend (.chan c) d seqId t3 s = .next z ∧ State.Dry c s z := by
  refine ⟨_, rfl, ?_⟩
  exact State.dry_onTime s _ _

theorem execGuardAccept_alone c  (s : State) : ∃ z, execGuardAccept (.chan c) s = .next z ∧ State.Alone c s z := by
  refine ⟨_, rfl, ?_⟩
  exact State.alone_chanRow s _ _ _ _

theorem execActiveDomainWrite_alone c v (s : State) : ∃ z, execActiveDomainWrite (.chan c) v s = .next z ∧ State.Alone c s z := by
  refine ⟨_, rfl, ?_⟩
  exact State.alone_chanRow s _ _ _ _

theorem execHoldoverBudgetExpire_dry c ms (s : State) : ∃ z, execHoldoverBudgetExpire (.chan c) ms s = .next z ∧ State.Dry c s z := by
  refine ⟨_, rfl, ?_⟩
  exact State.dry_onTime s _ _

theorem execPpsEdge_dry c stamp (s : State) : ∃ z, execPpsEdge c stamp s = .next z ∧ State.Dry c s z := by
  refine ⟨_, rfl, ?_⟩
  exact State.dry_onTime s _ _

theorem execPpsLoss_dry c (s : State) : ∃ z, execPpsLoss c s = .next z ∧ State.Dry c s z := by
  refine ⟨_, rfl, ?_⟩
  exact State.dry_onTime s _ _

theorem execTsqPop_alone c  (s : State) : ∃ z, execTsqPop (.chan c) s = .next z ∧ State.Alone c s z := by
  refine ⟨_, rfl, ?_⟩
  exact State.alone_onBlk s _ _

theorem execRead_alone c q (s : State) : ∃ z, execRead (.chan c) q s = .next z ∧ State.Alone c s z := by
  unfold execRead
  split <;> exact ⟨_, rfl, State.alone_onNode s _ _ _⟩

theorem execWrite_alone c q (s : State) : ∃ z, execWrite (.chan c) q s = .next z ∧ State.Alone c s z := by
  refine ⟨_, rfl, ?_⟩
  exact State.alone_onNode s _ _ _

theorem execSegRead_alone c q (s : State) : ∃ z, execSegRead (.chan c) q s = .next z ∧ State.Alone c s z := by
  refine ⟨_, rfl, ?_⟩
  exact State.alone_onNode s _ _ _

theorem execSegWrite_alone c q (s : State) : ∃ z, execSegWrite (.chan c) q s = .next z ∧ State.Alone c s z := by
  refine ⟨_, rfl, ?_⟩
  exact State.alone_onNode s _ _ _

theorem execTxnOpen_alone c q (s : State) : ∃ z, execTxnOpen (.chan c) q s = .next z ∧ State.Alone c s z := by
  refine ⟨_, rfl, ?_⟩
  exact State.alone_onNode s _ _ _

theorem execTxnStage_alone c q (s : State) : ∃ z, execTxnStage (.chan c) q s = .next z ∧ State.Alone c s z := by
  refine ⟨_, rfl, ?_⟩
  exact State.alone_onNode s _ _ _

theorem execTxnCommit_alone c q (s : State) : ∃ z, execTxnCommit (.chan c) q s = .next z ∧ State.Alone c s z := by
  refine ⟨_, rfl, ?_⟩
  exact State.alone_onNode s _ _ _

theorem execTxnAbort_alone c q (s : State) : ∃ z, execTxnAbort (.chan c) q s = .next z ∧ State.Alone c s z := by
  refine ⟨_, rfl, ?_⟩
  exact State.alone_onNode s _ _ _

theorem execTxnStatus_alone c q (s : State) : ∃ z, execTxnStatus (.chan c) q s = .next z ∧ State.Alone c s z := by
  refine ⟨_, rfl, ?_⟩
  exact State.alone_onNode s _ _ _

theorem execTxnOpenExpire_alone c src num (s : State) : ∃ z, execTxnOpenExpire (.chan c) src num s = .next z ∧ State.Alone c s z := by
  refine ⟨_, rfl, ?_⟩
  exact State.alone_onNode s _ _ _

theorem execBivanResponse_alone c r (s : State) : ∃ z, execBivanResponse (.chan c) r s = .next z ∧ State.Alone c s z := by
  refine ⟨_, rfl, ?_⟩
  exact State.alone_onNode s _ _ _

theorem execFleetRequest_alone c q (s : State) : ∃ z, execFleetRequest (.chan c) q s = .next z ∧ State.Alone c s z := by
  refine ⟨_, rfl, ?_⟩
  exact State.alone_onNode s _ _ _

theorem execPrepare_alone c q (s : State) : ∃ z, execPrepare (.chan c) q s = .next z ∧ State.Alone c s z := by
  refine ⟨_, rfl, ?_⟩
  exact State.alone_onNode s _ _ _

theorem execCommitToken_alone c q (s : State) : ∃ z, execCommitToken (.chan c) q s = .next z ∧ State.Alone c s z := by
  refine ⟨_, rfl, ?_⟩
  exact State.alone_onNode s _ _ _

theorem execAbortToken_alone c q (s : State) : ∃ z, execAbortToken (.chan c) q s = .next z ∧ State.Alone c s z := by
  refine ⟨_, rfl, ?_⟩
  exact State.alone_onNode s _ _ _

theorem execTokenQuery_alone c q (s : State) : ∃ z, execTokenQuery (.chan c) q s = .next z ∧ State.Alone c s z := by
  refine ⟨_, rfl, ?_⟩
  exact State.alone_onNode s _ _ _

theorem execCompensate_alone c q (s : State) : ∃ z, execCompensate (.chan c) q s = .next z ∧ State.Alone c s z := by
  refine ⟨_, rfl, ?_⟩
  exact State.alone_onNode s _ _ _

theorem execLastDecisionFrame_alone c seq (s : State) : ∃ z, execLastDecisionFrame c seq s = .next z ∧ State.Alone c s z := by
  refine ⟨_, rfl, ?_⟩
  exact State.alone_csWork s _ _

theorem execGuardFrameQuery_alone c seq (s : State) : ∃ z, execGuardFrameQuery (.chan c) seq s = .next z ∧ State.Alone c s z := by
  refine ⟨_, rfl, ?_⟩
  exact State.alone_onNode s _ _ _

theorem execDeadlineFrameDiscard_alone c seq (s : State) : ∃ z, execDeadlineFrameDiscard (.chan c) seq s = .next z ∧ State.Alone c s z := by
  refine ⟨_, rfl, ?_⟩
  exact State.alone_onNode s _ _ _

theorem execCommitCountCheck_alone c seq (s : State) : ∃ z, execCommitCountCheck c seq s = .next z ∧ State.Alone c s z := by
  refine ⟨_, rfl, ?_⟩
  exact State.alone_csWork s _ _

theorem execCompensateRetry_alone c seq (s : State) : ∃ z, execCompensateRetry c seq s = .next z ∧ State.Alone c s z := by
  refine ⟨_, rfl, ?_⟩
  exact State.alone_csWork s _ _

theorem execUndoHorizonExpire_alone c seq (s : State) : ∃ z, execUndoHorizonExpire (.chan c) seq s = .next z ∧ State.Alone c s z := by
  refine ⟨_, rfl, ?_⟩
  exact State.alone_onNode s _ _ _

theorem execAssayWindowExpire_alone c group tensor epoch (s : State) : ∃ z, execAssayWindowExpire c group tensor epoch s = .next z ∧ State.Alone c s z := by
  refine ⟨_, rfl, ?_⟩
  exact State.alone_atWork s _ _

theorem execGroupEntryWrite_alone c group v (s : State) : ∃ z, execGroupEntryWrite c group v s = .next z ∧ State.Alone c s z := by
  refine ⟨_, rfl, ?_⟩
  exact State.alone_chanRow s _ _ _ _

theorem execDataFragmentReceive_alone c src h data (s : State) : ∃ z, execDataFragmentReceive c src h data s = .next z ∧ State.Alone c s z := by
  refine ⟨_, rfl, ?_⟩
  exact State.alone_atWork s _ _

theorem execControlFragmentReceive_alone c src h entries (s : State) : ∃ z, execControlFragmentReceive (.chan c) src h entries s = .next z ∧ State.Alone c s z := by
  refine ⟨_, rfl, ?_⟩
  exact State.alone_atWork s _ _

theorem execFragmentSend_alone c  (s : State) : ∃ z, execFragmentSend (.chan c) s = .next z ∧ State.Alone c s z := by
  refine ⟨_, rfl, ?_⟩
  exact State.alone_atWork s _ _

theorem execParentLost_alone c  (s : State) : ∃ z, execParentLost (.chan c) s = .next z ∧ State.Alone c s z := by
  refine ⟨_, rfl, ?_⟩
  exact State.alone_atWork s _ _

theorem execLeafAbsent_alone c pos (s : State) : ∃ z, execLeafAbsent c pos s = .next z ∧ State.Alone c s z := by
  refine ⟨_, rfl, ?_⟩
  exact State.alone_atWork s _ _

theorem execAttachReceive_alone c joiner pos frame left (s : State) : ∃ z, execAttachReceive c joiner pos frame left s = .next z ∧ State.Alone c s z := by
  refine ⟨_, rfl, ?_⟩
  exact State.alone_atWork s _ _

theorem execReleaseQueryReceive_alone c src left children (s : State) : ∃ z, execReleaseQueryReceive c src left children s = .next z ∧ State.Alone c s z := by
  refine ⟨_, rfl, ?_⟩
  exact State.alone_atWork s _ _

theorem execReleaseAnswerReceive_alone c src entries (s : State) : ∃ z, execReleaseAnswerReceive c src entries s = .next z ∧ State.Alone c s z := by
  refine ⟨_, rfl, ?_⟩
  exact State.alone_atWork s _ _

theorem execReleaseQueryTimeout_alone c child (s : State) : ∃ z, execReleaseQueryTimeout c child s = .next z ∧ State.Alone c s z := by
  refine ⟨_, rfl, ?_⟩
  exact State.alone_atWork s _ _

theorem execReleaseAnswerMissing_alone c child (s : State) : ∃ z, execReleaseAnswerMissing c child s = .next z ∧ State.Alone c s z := by
  refine ⟨_, rfl, ?_⟩
  exact State.alone_atWork s _ _

theorem execReturnHome_alone c  (s : State) : ∃ z, execReturnHome (.chan c) s = .next z ∧ State.Alone c s z := by
  refine ⟨_, rfl, ?_⟩
  exact State.alone_atWork s _ _

theorem execChannelSeriesSwap_alone c (s : State) : ∃ z, execChannelSeriesSwap c s = .next z ∧ State.Alone c s z := by
  refine ⟨_, rfl, ?_⟩
  exact State.alone_chanRow s _ _ _ _

theorem execParamSetsWrite_alone c v (s : State) : ∃ z, execParamSetsWrite c v s = .next z ∧ State.Alone c s z := by
  refine ⟨_, rfl, ?_⟩
  exact State.alone_chanRow s _ _ _ _

theorem execAggTableSwap_alone c (s : State) : ∃ z, execAggTableSwap c s = .next z ∧ State.Alone c s z := by
  refine ⟨_, rfl, ?_⟩
  exact State.alone_chanRow s _ _ _ _

theorem execImageCheckDone_alone c img (s : State) : ∃ z, execImageCheckDone c img s = .next z ∧ State.Alone c s z := by
  cases img <;> exact ⟨_, rfl, State.alone_atWork s _ _⟩

theorem execImageStoreDone_alone c img ok (s : State) : ∃ z, execImageStoreDone c img ok s = .next z ∧ State.Alone c s z := by
  refine ⟨_, rfl, ?_⟩
  exact State.alone_csWork s _ _

theorem execBalanceImageSwap_alone c (s : State) : ∃ z, execBalanceImageSwap c s = .next z ∧ State.Alone c s z := by
  refine ⟨_, rfl, ?_⟩
  exact State.alone_chanRow s _ _ _ _

theorem execRuleImageSwap_alone c (s : State) : ∃ z, execRuleImageSwap c s = .next z ∧ State.Alone c s z := by
  refine ⟨_, rfl, ?_⟩
  exact State.alone_chanRow s _ _ _ _

theorem execBarrierWindowExpire_alone c barrier (s : State) : ∃ z, execBarrierWindowExpire c barrier s = .next z ∧ State.Alone c s z := by
  refine ⟨_, rfl, ?_⟩
  exact State.alone_atWork s _ _

theorem execRuleTxnCommit_alone c (s : State) : ∃ z, execRuleTxnCommit c s = .next z ∧ State.Alone c s z := by
  refine ⟨_, rfl, ?_⟩
  exact State.alone_csWork s _ _

theorem execNotify_alone c v (s : State) : ∃ z, execNotify c v s = .next z ∧ State.Alone c s z := by
  refine ⟨_, rfl, ?_⟩
  exact State.alone_chanRow s _ _ _ _

theorem execSuspectSet_alone c v (s : State) : ∃ z, execSuspectSet c v s = .next z ∧ State.Alone c s z := by
  refine ⟨_, rfl, ?_⟩
  exact State.alone_chanRow s _ _ _ _

theorem execSuspectClear_alone c v (s : State) : ∃ z, execSuspectClear c v s = .next z ∧ State.Alone c s z := by
  refine ⟨_, rfl, ?_⟩
  exact State.alone_chanRow s _ _ _ _

theorem execLossSubmit_alone c v (s : State) : ∃ z, execLossSubmit c v s = .next z ∧ State.Alone c s z := by
  refine ⟨_, rfl, ?_⟩
  exact State.alone_chanRow s _ _ _ _

theorem execStreamPacketSend_alone c port (s : State) : ∃ z, execStreamPacketSend c port s = .next z ∧ State.Alone c s z := by
  refine ⟨_, rfl, ?_⟩
  exact State.alone_atWork s _ _

theorem execUplinkBackpressure_alone c port (s : State) : ∃ z, execUplinkBackpressure c port s = .next z ∧ State.Alone c s z := by
  refine ⟨_, rfl, ?_⟩
  exact State.alone_atWork s _ _

theorem execBackpressureClear_alone c port (s : State) : ∃ z, execBackpressureClear c port s = .next z ∧ State.Alone c s z := by
  refine ⟨_, rfl, ?_⟩
  exact State.alone_atWork s _ _

theorem execPortReturn_alone c port (s : State) : ∃ z, execPortReturn c port s = .next z ∧ State.Alone c s z := by
  refine ⟨_, rfl, ?_⟩
  exact State.alone_atWork s _ _

theorem execTraceTriggerLeaves_alone c v (s : State) : ∃ z, execTraceTriggerLeaves c v s = .next z ∧ State.Alone c s z := by
  refine ⟨_, rfl, ?_⟩
  exact State.alone_chanRow s _ _ _ _

theorem execCaratBlockSeal_alone c (s : State) : ∃ z, execCaratBlockSeal c s = .next z ∧ State.Alone c s z := by
  refine ⟨_, rfl, ?_⟩
  exact State.alone_atWork s _ _

theorem execTraceFetch_alone c v (s : State) : ∃ z, execTraceFetch c v s = .next z ∧ State.Alone c s z := by
  refine ⟨_, rfl, ?_⟩
  exact State.alone_chanRow s _ _ _ _

theorem execTraceFetchResponse_alone c stream status data (s : State) : ∃ z, execTraceFetchResponse c stream status data s = .next z ∧ State.Alone c s z := by
  refine ⟨_, rfl, ?_⟩
  exact State.alone_atWork s _ _

theorem execJobSubmit_alone c v (s : State) : ∃ z, execJobSubmit c v s = .next z ∧ State.Alone c s z := by
  refine ⟨_, rfl, ?_⟩
  exact State.alone_chanRow s _ _ _ _

theorem execJobComplete_alone c decomp (s : State) : ∃ z, execJobComplete c decomp s = .next z ∧ State.Alone c s z := by
  refine ⟨_, rfl, ?_⟩
  exact State.alone_atWork s _ _

theorem execJobResult_alone c (s : State) : ∃ z, execJobResult c s = .next z ∧ State.Alone c s z := by
  refine ⟨_, rfl, ?_⟩
  exact State.alone_onChan s _ _

theorem execMoverStart_alone c m a (s : State) : ∃ z, execMoverStart c m a s = .next z ∧ State.Alone c s z := by
  refine ⟨_, rfl, ?_⟩
  exact State.alone_chanRow s _ _ _ _

theorem execMoverStop_alone c m (s : State) : ∃ z, execMoverStop c m s = .next z ∧ State.Alone c s z := by
  refine ⟨_, rfl, ?_⟩
  exact State.alone_chanRow s _ _ _ _

theorem execDescriptorFetch_alone c m (s : State) : ∃ z, execDescriptorFetch c m s = .next z ∧ State.Alone c s z := by
  refine ⟨_, rfl, ?_⟩
  exact State.alone_atWork s _ _

theorem execDescriptorDone_alone c m (s : State) : ∃ z, execDescriptorDone c m s = .next z ∧ State.Alone c s z := by
  refine ⟨_, rfl, ?_⟩
  exact State.alone_atWork s _ _

theorem execMmpResponse_alone tag err data (s : State) : ∃ z, execMmpResponse tag err data s = .next z ∧ State.Alone (tagChan tag) s z := by
  refine ⟨_, rfl, ?_⟩
  exact State.alone_atWork s _ _

theorem execMmpTimeout_alone tag (s : State) : ∃ z, execMmpTimeout tag s = .next z ∧ State.Alone (tagChan tag) s z := by
  refine ⟨_, rfl, ?_⟩
  exact State.alone_atWork s _ _

theorem execSramUncorrectable_alone c array row (s : State) : ∃ z, execSramUncorrectable (.chan c) array row s = .next z ∧ State.Alone c s z := by
  exact ⟨_, rfl, (State.alone_putChan s _ _).trans (State.alone_settle _ _)⟩

theorem execDramUncorrectable_alone c seg (s : State) : ∃ z, execDramUncorrectable c seg s = .next z ∧ State.Alone c s z := by
  exact ⟨_, rfl, (State.alone_putChan s _ _).trans (State.alone_settle _ _)⟩

theorem execFaultLogWrite_alone c stamp (s : State) : ∃ z, execFaultLogWrite c stamp s = .next z ∧ State.Alone c s z := by
  refine ⟨_, rfl, ?_⟩
  exact State.alone_atWork s _ _

theorem execPermanentFenceCommit_alone c (s : State) : ∃ z, execPermanentFenceCommit c s = .next z ∧ State.Alone c s z := by
  refine ⟨_, rfl, ?_⟩
  exact State.alone_atWork s _ _

theorem execClearLocation_alone c v (s : State) : ∃ z, execClearLocation c v s = .next z ∧ State.Alone c s z := by
  refine ⟨_, rfl, ?_⟩
  exact State.alone_chanRow s _ _ _ _

theorem execStartupFailures_alone c v (s : State) : ∃ z, execStartupFailures c v s = .next z ∧ State.Alone c s z := by
  refine ⟨_, rfl, ?_⟩
  exact State.alone_chanRow s _ _ _ _

theorem execFirmwareLogWrite_alone c v (s : State) : ∃ z, execFirmwareLogWrite c v s = .next z ∧ State.Alone c s z := by
  refine ⟨_, rfl, ?_⟩
  exact State.alone_chanRow s _ _ _ _

theorem execWakeRequest_alone c v (s : State) : ∃ z, execWakeRequest c v s = .next z ∧ State.Alone c s z := by
  refine ⟨_, rfl, ?_⟩
  exact State.alone_chanRow s _ _ _ _

theorem execWakeTxnCommit_alone c (s : State) : ∃ z, execWakeTxnCommit c s = .next z ∧ State.Alone c s z := by
  refine ⟨_, rfl, ?_⟩
  exact State.alone_atWork s _ _

theorem execMarginEvent_alone c mv (s : State) : ∃ z, execMarginEvent c mv s = .next z ∧ State.Alone c s z := by
  refine ⟨_, rfl, ?_⟩
  exact (State.alone_onShared _ s _).trans (State.alone_atWork _ _ _)

theorem execEnterC2_alone c (s : State) : ∃ z, execEnterC2 c s = .next z ∧ State.Alone c s z := by
  exact ⟨_, rfl, (State.alone_putChan s _ _).trans (State.alone_settle _ _)⟩

theorem execEnterC3_alone c (s : State) : ∃ z, execEnterC3 c s = .next z ∧ State.Alone c s z := by
  exact ⟨_, rfl, (State.alone_putChan s _ _).trans (State.alone_settle _ _)⟩

theorem execChannelWake_alone c (s : State) : ∃ z, execChannelWake c s = .next z ∧ State.Alone c s z := by
  refine ⟨_, rfl, ?_⟩
  exact State.alone_chanRow s _ _ _ _

theorem execPllLock_alone c (s : State) : ∃ z, execPllLock c s = .next z ∧ State.Alone c s z := by
  refine ⟨_, rfl, ?_⟩
  exact State.alone_onChan s _ _

theorem execSelftestDone_alone c rows segs (s : State) : ∃ z, execSelftestDone (.chan c) rows segs s = .next z ∧ State.Alone c s z := by
  refine ⟨_, rfl, ?_⟩
  exact State.alone_onChan s _ _

theorem execPhyLinkUp_alone c port (s : State) : ∃ z, execPhyLinkUp c port s = .next z ∧ State.Alone c s z := by
  refine ⟨_, rfl, ?_⟩
  exact State.alone_onChan s _ _

theorem execLinkQualifyDone_alone c port lanes (s : State) : ∃ z, execLinkQualifyDone c port lanes s = .next z ∧ State.Alone c s z := by
  refine ⟨_, rfl, ?_⟩
  exact State.alone_onChan s _ _

theorem execPhyLinkDown_alone c port (s : State) : ∃ z, execPhyLinkDown c port s = .next z ∧ State.Alone c s z := by
  refine ⟨_, rfl, ?_⟩
  exact State.alone_onChan s _ _

theorem execChannelResetRequest_alone c (s : State) : ∃ z, execChannelResetRequest c s = .next z ∧ State.Alone c s z := by
  exact ⟨_, rfl, (State.alone_putChan s _ _).trans (State.alone_settle _ _)⟩

theorem execFastPathDone_dry c scrub refOk k ms (s : State) : ∃ z, execFastPathDone (.chan c) scrub refOk k ms s = .next z ∧ State.Dry c s z := by
  refine ⟨_, rfl, ?_⟩
  exact (State.alone_onCS s _ _).dry.trans (State.dry_boundarySample _ _ c)

theorem execJoinRetryExpire_alone c pos (s : State) : ∃ z, execJoinRetryExpire c pos s = .next z ∧ State.Alone c s z := by
  refine ⟨_, rfl, ?_⟩
  exact State.alone_atWork s _ _

theorem execRoleSuccessorTimeout_alone c (s : State) : ∃ z, execRoleSuccessorTimeout c s = .next z ∧ State.Alone c s z := by
  refine ⟨_, rfl, ?_⟩
  exact State.alone_atWork s _ _

theorem execWithdrawLeaves_alone c v (s : State) : ∃ z, execWithdrawLeaves c v s = .next z ∧ State.Alone c s z := by
  refine ⟨_, rfl, ?_⟩
  exact State.alone_chanRow s _ _ _ _

theorem execWithdrawRegionsOff_alone c (s : State) : ∃ z, execWithdrawRegionsOff c s = .next z ∧ State.Alone c s z := by
  refine ⟨_, rfl, ?_⟩
  exact State.alone_atWork s _ _

theorem execWithdrawEnterL2_alone c (s : State) : ∃ z, execWithdrawEnterL2 c s = .next z ∧ State.Alone c s z := by
  refine ⟨_, rfl, ?_⟩
  exact State.alone_atWork s _ _

theorem execLeafWithdrawDone_alone c pos (s : State) : ∃ z, execLeafWithdrawDone c pos s = .next z ∧ State.Alone c s z := by
  refine ⟨_, rfl, ?_⟩
  exact State.alone_atWork s _ _

theorem execWithdrawChannel_alone c (s : State) : ∃ z, execWithdrawChannel c s = .next z ∧ State.Alone c s z := by
  refine ⟨_, rfl, ?_⟩
  exact State.alone_chanRow s _ _ _ _

theorem execChannelWithdrawDone_alone c (s : State) : ∃ z, execChannelWithdrawDone c s = .next z ∧ State.Alone c s z := by
  refine ⟨_, rfl, ?_⟩
  exact State.alone_atWork s _ _

theorem execMemberLeave_alone c src id (s : State) : ∃ z, execMemberLeave c src id s = .next z ∧ State.Alone c s z := by
  refine ⟨_, rfl, ?_⟩
  exact State.alone_chanRow s _ _ _ _

theorem execChannelRemoval_alone c child (s : State) : ∃ z, execChannelRemoval c child s = .next z ∧ State.Alone c s z := by
  refine ⟨_, rfl, ?_⟩
  exact State.alone_atWork s _ _

theorem execClaspClaim_alone c (s : State) : ∃ z, execClaspClaim c s = .next z ∧ State.Alone c s z := by
  refine ⟨_, rfl, ?_⟩
  exact State.alone_csWork s _ _

theorem execClaimBackoffExpire_alone c (s : State) : ∃ z, execClaimBackoffExpire c s = .next z ∧ State.Alone c s z := by
  refine ⟨_, rfl, ?_⟩
  exact State.alone_csWork s _ _

theorem execFrameLoRead_alone c (s : State) : ∃ z, execFrameLoRead c s = .next z ∧ State.Alone c s z := by
  refine ⟨_, rfl, ?_⟩
  exact State.alone_onWin s _ _

theorem execMailboxDataWrite_alone c data (s : State) : ∃ z, execMailboxDataWrite c data s = .next z ∧ State.Alone c s z := by
  refine ⟨_, rfl, ?_⟩
  exact State.alone_onWin s _ _

theorem execMailboxDataRead_alone c (s : State) : ∃ z, execMailboxDataRead c s = .next z ∧ State.Alone c s z := by
  refine ⟨_, rfl, ?_⟩
  exact State.alone_onWin s _ _

theorem execMailboxGo_alone c (s : State) : ∃ z, execMailboxGo c s = .next z ∧ State.Alone c s z := by
  exact ⟨_, rfl, State.alone_ctrlWrite s _ _⟩

theorem execMailboxRspDone_alone c (s : State) : ∃ z, execMailboxRspDone c s = .next z ∧ State.Alone c s z := by
  exact ⟨_, rfl, State.alone_ctrlWrite s _ _⟩

theorem execInterruptClear_alone c err bits sets (s : State) : ∃ z, execInterruptClear c err bits sets s = .next z ∧ State.Alone c s z := by
  refine ⟨_, rfl, ?_⟩
  exact State.alone_onWin s _ _

theorem execTapInstruction_alone c ir (s : State) : ∃ z, execTapInstruction (.chan c) ir s = .next z ∧ State.Alone c s z := by
  refine ⟨_, rfl, ?_⟩
  have h1 : State.Alone c s (s.putChan c { s.chan c with b := (s.chan c).b.draw.2 }) := State.alone_putChan s c _
  exact h1.trans (State.alone_sh _ _ _)

theorem execChannelNeedChange_alone c mv (s : State) : ∃ z, execChannelNeedChange c mv s = .next z ∧ State.Alone c s z := by
  refine ⟨_, rfl, ?_⟩
  exact State.alone_atWork s _ _

end Sys2Proof.Machine
end

