-- ==== Sys2Proof/Laws/Exec.lean ====
section
/-! SUPPORT. Every meaning answers a next state, keeps the queue of commands, and keeps every block of its kind and in its place: one
lemma per command. -/

set_option linter.unusedSimpArgs false
set_option linter.unusedVariables false

namespace Sys2Proof.Machine

theorem Leaf.corrected_seat (l : Leaf) (fixed) : (l.corrected fixed).b.Seated l.b := by
  simp only [Leaf.corrected]
  split
  · exact ⟨rfl, rfl, rfl, rfl, rfl⟩
  · exact Leaf.foldl_seat _ _ _ _ (fun x a => by simp [Blk.Seated]) ⟨rfl, rfl, rfl, rfl, rfl⟩

theorem Chan.corrected_seat (c : Chan) (fixed) : (c.corrected fixed).b.Seated c.b := by
  simp only [Chan.corrected]
  split
  · exact ⟨rfl, rfl, rfl, rfl, rfl⟩
  · exact Chan.foldl_seat _ _ _ _ (fun x a => by simp [Blk.Seated, Chan.onB]) ⟨rfl, rfl, rfl, rfl, rfl⟩

theorem execFrameOpen_holds n k given (s : State) :
    ∃ z, execFrameOpen n k given s = .next z ∧ State.Holds s z := by
  obtain ⟨temp, fixed, sample⟩ := given
  cases n with
  | leaf =>
    refine ⟨_, rfl, ?_⟩
    exact State.holds_onLeaf s _ (fun l h => Leaf.sits_openFrame (h.seat (Leaf.corrected_seat l fixed)) _ _)
  | chan c =>
    have h1 := (State.holds_reapStores s c).trans (State.holds_onCS _ c (fun cs => (cs.on (·.corrected fixed)).openFrame k.toNat temp.toNat false)
      (fun x h => CS.sits_openFrame (CS.sits_on h _ (Chan.corrected_seat x.ch fixed)) rfl _ _ _))
    cases sample with
    | none => exact ⟨_, rfl, h1⟩
    | some code => exact ⟨_, rfl, State.holds_ite (h1.trans (State.holds_busSample _ _ _)) h1⟩

theorem execUnitOverrun_holds n u f left (s : State) : ∃ z, execUnitOverrun n u f left s = .next z ∧ State.Holds s z := by
  cases n with
  | leaf => refine ⟨_, rfl, ?_⟩; exact State.holds_leafWork s _ (fun x => by simp [Blk.Seated])
  | chan c => refine ⟨_, rfl, ?_⟩; exact State.holds_atWork s _ _ (fun x => by simp [Blk.Seated])

theorem execAnnounceReceive_holds n h m (s : State) : ∃ z, execAnnounceReceive n h m s = .next z ∧ State.Holds s z := by
  refine ⟨_, rfl, ?_⟩
  exact State.holds_onTime s _ _ (fun x => by simp [Blk.Seated])

theorem execAnnounceTimeout_holds n d src (s : State) : ∃ z, execAnnounceTimeout n d src s = .next z ∧ State.Holds s z := by
  refine ⟨_, rfl, ?_⟩
  exact State.holds_onTime s _ _ (fun x => by simp [Blk.Seated])

theorem execSyncReceive_holds n h t1 t2 (s : State) : ∃ z, execSyncReceive n h t1 t2 s = .next z ∧ State.Holds s z := by
  refine ⟨_, rfl, ?_⟩
  exact State.holds_onTime s _ _ (fun x => by simp [Blk.Seated])

theorem execFollowUpReceive_holds n h t1 (s : State) : ∃ z, execFollowUpReceive n h t1 s = .next z ∧ State.Holds s z := by
  refine ⟨_, rfl, ?_⟩
  exact State.holds_onTime s _ _ (fun x => by simp [Blk.Seated])

theorem execDelayRespReceive_holds n h t4 (s : State) : ∃ z, execDelayRespReceive n h t4 s = .next z ∧ State.Holds s z := by
  refine ⟨_, rfl, ?_⟩
  exact State.holds_onTime s _ _ (fun x => by simp [Blk.Seated])

theorem execDelayReqSend_holds n d seqId t3 (s : State) : ∃ z, execDelayReqSend n d seqId t3 s = .next z ∧ State.Holds s z := by
  refine ⟨_, rfl, ?_⟩
  exact State.holds_onTime s _ _ (fun x => by simp [Blk.Seated])

theorem execGuardAccept_holds n (s : State) : ∃ z, execGuardAccept n s = .next z ∧ State.Holds s z := by
  cases n with
  | leaf => refine ⟨_, rfl, ?_⟩; exact State.holds_leafRow s _ _ _ _ (fun x y h => h.seat (by simp [Blk.Seated]))
  | chan c => refine ⟨_, rfl, ?_⟩; exact State.holds_chanRow s _ _ _ _ (fun x y h => h.seat (by simp [Blk.Seated, Chan.onB]))

theorem execActiveDomainWrite_holds n v (s : State) : ∃ z, execActiveDomainWrite n v s = .next z ∧ State.Holds s z := by
  cases n with
  | leaf => refine ⟨_, rfl, ?_⟩; exact State.holds_leafRow s _ _ _ _ (fun x y h => h.seat (by simp [Blk.Seated]))
  | chan c => refine ⟨_, rfl, ?_⟩; exact State.holds_chanRow s _ _ _ _ (fun x y h => h.seat (by simp [Blk.Seated, Chan.onB]))

theorem execHoldoverBudgetExpire_holds n ms (s : State) : ∃ z, execHoldoverBudgetExpire n ms s = .next z ∧ State.Holds s z := by
  refine ⟨_, rfl, ?_⟩
  exact State.holds_onTime s _ _ (fun x => by simp [Blk.Seated])

theorem execPpsEdge_holds c stamp (s : State) : ∃ z, execPpsEdge c stamp s = .next z ∧ State.Holds s z := by
  refine ⟨_, rfl, ?_⟩
  exact State.holds_onTime s _ _ (fun x => by simp [Blk.Seated])

theorem execPpsLoss_holds c (s : State) : ∃ z, execPpsLoss c s = .next z ∧ State.Holds s z := by
  refine ⟨_, rfl, ?_⟩
  exact State.holds_onTime s _ _ (fun x => by simp [Blk.Seated])

theorem execTsqPop_holds n (s : State) : ∃ z, execTsqPop n s = .next z ∧ State.Holds s z := by
  refine ⟨_, rfl, ?_⟩
  exact State.holds_onBlk s n _ (fun b => by simp [Blk.Seated, Blk.popStamp])

theorem execRead_holds n q (s : State) : ∃ z, execRead n q s = .next z ∧ State.Holds s z := by
  unfold execRead
  split
  · exact ⟨_, rfl, State.holds_onNode s n _ _ (fun l h => leafEnv_keeps.read h _) (fun p x h => (chanEnv_keeps rfl).read h _)⟩
  · exact ⟨_, rfl, State.holds_onNode s n _ _ (fun l h => leafEnv_keeps.unknown h _ _) (fun p x h => (chanEnv_keeps rfl).unknown h _ _)⟩

theorem execWrite_holds n q (s : State) : ∃ z, execWrite n q s = .next z ∧ State.Holds s z := by
  refine ⟨_, rfl, ?_⟩
  exact State.holds_onNode s n _ _ (fun l h => leafEnv_keeps.write h _) (fun p x h => (chanEnv_keeps rfl).write h _)

theorem execSegRead_holds n q (s : State) : ∃ z, execSegRead n q s = .next z ∧ State.Holds s z := by
  refine ⟨_, rfl, ?_⟩
  exact State.holds_onNode s n _ _ (fun l h => leafEnv_keeps.segRead h _) (fun p x h => (chanEnv_keeps rfl).segRead h _)

theorem execSegWrite_holds n q (s : State) : ∃ z, execSegWrite n q s = .next z ∧ State.Holds s z := by
  refine ⟨_, rfl, ?_⟩
  exact State.holds_onNode s n _ _ (fun l h => leafEnv_keeps.segWrite h _) (fun p x h => (chanEnv_keeps rfl).segWrite h _)

theorem execTxnOpen_holds n q (s : State) : ∃ z, execTxnOpen n q s = .next z ∧ State.Holds s z := by
  refine ⟨_, rfl, ?_⟩
  exact State.holds_onNode s n _ _ (fun l h => leafEnv_keeps.txnOpen h _) (fun p x h => (chanEnv_keeps rfl).txnOpen h _)

theorem execTxnStage_holds n q (s : State) : ∃ z, execTxnStage n q s = .next z ∧ State.Holds s z := by
  refine ⟨_, rfl, ?_⟩
  exact State.holds_onNode s n _ _ (fun l h => leafEnv_keeps.txnStage h _) (fun p x h => (chanEnv_keeps rfl).txnStage h _)

theorem execTxnCommit_holds n q (s : State) : ∃ z, execTxnCommit n q s = .next z ∧ State.Holds s z := by
  refine ⟨_, rfl, ?_⟩
  exact State.holds_onNode s n _ _ (fun l h => leafEnv_keeps.txnCommit h _) (fun p x h => (chanEnv_keeps rfl).txnCommit h _)

theorem execTxnAbort_holds n q (s : State) : ∃ z, execTxnAbort n q s = .next z ∧ State.Holds s z := by
  refine ⟨_, rfl, ?_⟩
  exact State.holds_onNode s n _ _ (fun l h => leafEnv_keeps.txnAbort h _) (fun p x h => (chanEnv_keeps rfl).txnAbort h _)

theorem execTxnStatus_holds n q (s : State) : ∃ z, execTxnStatus n q s = .next z ∧ State.Holds s z := by
  refine ⟨_, rfl, ?_⟩
  exact State.holds_onNode s n _ _ (fun l h => leafEnv_keeps.txnStatus h _) (fun p x h => (chanEnv_keeps rfl).txnStatus h _)

theorem execTxnOpenExpire_holds n src num (s : State) : ∃ z, execTxnOpenExpire n src num s = .next z ∧ State.Holds s z := by
  refine ⟨_, rfl, ?_⟩
  exact State.holds_onNode s n _ _ (fun l h => Leaf.sits_ite (leafEnv_keeps.expire h _ _) h) (fun p x h => CS.sits_ite ((chanEnv_keeps rfl).expire h _ _) h)

theorem execBivanResponse_holds n r (s : State) : ∃ z, execBivanResponse n r s = .next z ∧ State.Holds s z := by
  refine ⟨_, rfl, ?_⟩
  exact State.holds_onNode s n _ _ (fun l h => Leaf.sits_response h _) (fun p x h => CS.sits_response h rfl _)

theorem execFleetRequest_holds n q (s : State) : ∃ z, execFleetRequest n q s = .next z ∧ State.Holds s z := by
  refine ⟨_, rfl, ?_⟩
  exact State.holds_onNode s n _ _ (fun l h => Leaf.sits_refuseFleet h _) (fun p x h => CS.sits_fleetRequest h rfl _)

theorem execPrepare_holds n q (s : State) : ∃ z, execPrepare n q s = .next z ∧ State.Holds s z := by
  refine ⟨_, rfl, ?_⟩
  exact State.holds_onNode s n _ _ (fun l h => leafEnv_keeps.prepare h _) (fun p x h => CS.sits_prepare h rfl _)

theorem execCommitToken_holds n q (s : State) : ∃ z, execCommitToken n q s = .next z ∧ State.Holds s z := by
  refine ⟨_, rfl, ?_⟩
  exact State.holds_onNode s n _ _ (fun l h => leafEnv_keeps.token h _ _) (fun p x h => (chanEnv_keeps rfl).token h _ _)

theorem execAbortToken_holds n q (s : State) : ∃ z, execAbortToken n q s = .next z ∧ State.Holds s z := by
  refine ⟨_, rfl, ?_⟩
  exact State.holds_onNode s n _ _ (fun l h => leafEnv_keeps.token h _ _) (fun p x h => (chanEnv_keeps rfl).token h _ _)

theorem execTokenQuery_holds n q (s : State) : ∃ z, execTokenQuery n q s = .next z ∧ State.Holds s z := by
  refine ⟨_, rfl, ?_⟩
  exact State.holds_onNode s n _ _ (fun l h => leafEnv_keeps.tokenQuery h _) (fun p x h => (chanEnv_keeps rfl).tokenQuery h _)

theorem execCompensate_holds n q (s : State) : ∃ z, execCompensate n q s = .next z ∧ State.Holds s z := by
  refine ⟨_, rfl, ?_⟩
  exact State.holds_onNode s n _ _ (fun l h => leafEnv_keeps.compensate h _) (fun p x h => (chanEnv_keeps rfl).compensate h _)

theorem execLastDecisionFrame_holds c seq (s : State) : ∃ z, execLastDecisionFrame c seq s = .next z ∧ State.Holds s z := by
  refine ⟨_, rfl, ?_⟩
  exact State.holds_csWork s _ _ (fun x h => CS.sits_lastDecision h rfl _)

theorem execGuardFrameQuery_holds n seq (s : State) : ∃ z, execGuardFrameQuery n seq s = .next z ∧ State.Holds s z := by
  refine ⟨_, rfl, ?_⟩
  exact State.holds_onNode s n _ _ (fun l h => Leaf.sits_ite (leafEnv_keeps.guardQuery h _) h) (fun p x h => CS.sits_ite ((chanEnv_keeps rfl).guardQuery h _) h)

theorem execDeadlineFrameDiscard_holds n seq (s : State) : ∃ z, execDeadlineFrameDiscard n seq s = .next z ∧ State.Holds s z := by
  refine ⟨_, rfl, ?_⟩
  exact State.holds_onNode s n _ _ (fun l h => Leaf.sits_ite (leafEnv_keeps.deadlineDiscard h _) h) (fun p x h => CS.sits_ite ((chanEnv_keeps rfl).deadlineDiscard h _) h)

theorem execCommitCountCheck_holds c seq (s : State) : ∃ z, execCommitCountCheck c seq s = .next z ∧ State.Holds s z := by
  refine ⟨_, rfl, ?_⟩
  exact State.holds_csWork s _ _ (fun x h => CS.sits_commitCount h rfl _)

theorem execCompensateRetry_holds c seq (s : State) : ∃ z, execCompensateRetry c seq s = .next z ∧ State.Holds s z := by
  refine ⟨_, rfl, ?_⟩
  exact State.holds_csWork s _ _ (fun x h => CS.sits_compRetry h rfl _)

theorem execUndoHorizonExpire_holds n seq (s : State) : ∃ z, execUndoHorizonExpire n seq s = .next z ∧ State.Holds s z := by
  refine ⟨_, rfl, ?_⟩
  exact State.holds_onNode s n _ _ (fun l h => Leaf.sits_ite (leafEnv_keeps.undoExpire h _) h) (fun p x h => CS.sits_ite ((chanEnv_keeps rfl).undoExpire h _) h)

theorem execCounterRecord_holds b off (s : State) : ∃ z, execCounterRecord b off s = .next z ∧ State.Holds s z := by
  exact ⟨_, rfl, State.holds_leafSeat s _ (fun x => by simp [Blk.Seated])⟩

theorem execBarrierEvent_holds b off (s : State) : ∃ z, execBarrierEvent b off s = .next z ∧ State.Holds s z := by
  exact ⟨_, rfl, State.holds_leafSeat s _ (fun x => by simp [Blk.Seated])⟩

theorem execChecksumWord_holds b off (s : State) : ∃ z, execChecksumWord b off s = .next z ∧ State.Holds s z := by
  exact ⟨_, rfl, State.holds_leafSeat s _ (fun x => by simp [Blk.Seated])⟩

theorem execTraceEvent_holds b off (s : State) : ∃ z, execTraceEvent b off s = .next z ∧ State.Holds s z := by
  exact ⟨_, rfl, State.holds_leafSeat s _ (fun x => by simp [Blk.Seated])⟩

theorem execCoreLost_holds core (s : State) : ∃ z, execCoreLost core s = .next z ∧ State.Holds s z := by
  refine ⟨_, rfl, ?_⟩
  exact State.holds_leafWork s _ (fun x => by simp [Blk.Seated])

theorem execLostTxnRetry_holds  (s : State) : ∃ z, execLostTxnRetry  s = .next z ∧ State.Holds s z := by
  refine ⟨_, rfl, ?_⟩
  exact State.holds_leafWork s _ (fun x => by simp [Blk.Seated])

theorem execFenceAckTimeout_holds core (s : State) : ∃ z, execFenceAckTimeout core s = .next z ∧ State.Holds s z := by
  refine ⟨_, rfl, ?_⟩
  exact State.holds_leafWork s _ (fun x => by simp [Blk.Seated])

theorem execFncAckChange_holds core v (s : State) : ∃ z, execFncAckChange core v s = .next z ∧ State.Holds s z := by
  refine ⟨_, rfl, ?_⟩
  exact State.holds_leafWork s _ (fun x => by simp [Blk.Seated])

theorem execRegionReading_holds region kind value (s : State) : ∃ z, execRegionReading region kind value s = .next z ∧ State.Holds s z := by
  refine ⟨_, rfl, ?_⟩
  exact State.holds_leafWork s _ (fun x => by simp [Blk.Seated])

theorem execRegionRequestPresent_holds  (s : State) : ∃ z, execRegionRequestPresent  s = .next z ∧ State.Holds s z := by
  refine ⟨_, rfl, ?_⟩
  exact State.holds_leafWork s _ (fun x => by simp [Blk.Seated])

theorem execRegionReqAck_holds  (s : State) : ∃ z, execRegionReqAck  s = .next z ∧ State.Holds s z := by
  refine ⟨_, rfl, ?_⟩
  exact State.holds_leafWork s _ (fun x => by simp [Blk.Seated])

theorem execRegionReqTimeout_holds  (s : State) : ∃ z, execRegionReqTimeout  s = .next z ∧ State.Holds s z := by
  refine ⟨_, rfl, ?_⟩
  exact State.holds_leafWork s _ (fun x => by simp [Blk.Seated])

theorem execRegionMismatch_holds region (s : State) : ∃ z, execRegionMismatch region s = .next z ∧ State.Holds s z := by
  refine ⟨_, rfl, ?_⟩
  exact State.holds_leafWork s _ (fun x => by simp [Blk.Seated])

theorem execRegionSettleEnd_holds region (s : State) : ∃ z, execRegionSettleEnd region s = .next z ∧ State.Holds s z := by
  refine ⟨_, rfl, ?_⟩
  exact State.holds_leafWork s _ (fun x => by simp [Blk.Seated])

theorem execRoutingNotify_holds bitmap (s : State) : ∃ z, execRoutingNotify bitmap s = .next z ∧ State.Holds s z := by
  refine ⟨_, rfl, ?_⟩
  unfold State.leafOwn
  exact State.holds_leafRow s _ _ _ _ (fun x y h => h.seat (by simp [Blk.Seated]))

theorem execSeriesTableSwap_holds  (s : State) : ∃ z, execSeriesTableSwap  s = .next z ∧ State.Holds s z := by
  refine ⟨_, rfl, ?_⟩
  unfold State.leafOwn
  exact State.holds_leafRow s _ _ _ _ (fun x y h => h.seat (by simp [Blk.Seated]))

theorem execSampleRatioWrite_holds v (s : State) : ∃ z, execSampleRatioWrite v s = .next z ∧ State.Holds s z := by
  refine ⟨_, rfl, ?_⟩
  unfold State.leafOwn
  exact State.holds_leafRow s _ _ _ _ (fun x y h => h.seat (by simp [Blk.Seated]))

theorem execTsBeatDecide_holds  (s : State) : ∃ z, execTsBeatDecide  s = .next z ∧ State.Holds s z := by
  refine ⟨_, rfl, ?_⟩
  exact State.holds_leafWork s _ (fun x => by simp [Blk.Seated])

theorem execTsSectionSeal_holds  (s : State) : ∃ z, execTsSectionSeal  s = .next z ∧ State.Holds s z := by
  refine ⟨_, rfl, ?_⟩
  exact State.holds_leafWork s _ (fun x => by simp [Blk.Seated])

theorem execRelearn_holds bitmap (s : State) : ∃ z, execRelearn bitmap s = .next z ∧ State.Holds s z := by
  refine ⟨_, rfl, ?_⟩
  unfold State.leafOwn
  exact State.holds_leafRow s _ _ _ _ (fun x y h => h.seat (by simp [Blk.Seated]))

theorem execWeightTapBeat_holds data tensor word count epoch (s : State) : ∃ z, execWeightTapBeat data tensor word count epoch s = .next z ∧ State.Holds s z := by
  refine ⟨_, rfl, ?_⟩
  exact State.holds_leafWork s _ (fun x => by simp [Blk.Seated])

theorem execAssayBeatDigest_holds  (s : State) : ∃ z, execAssayBeatDigest  s = .next z ∧ State.Holds s z := by
  refine ⟨_, rfl, ?_⟩
  exact State.holds_leafWork s _ (fun x => by simp [Blk.Seated])

theorem execTensorTableSwap_holds  (s : State) : ∃ z, execTensorTableSwap  s = .next z ∧ State.Holds s z := by
  refine ⟨_, rfl, ?_⟩
  unfold State.leafOwn
  exact State.holds_leafRow s _ _ _ _ (fun x y h => h.seat (by simp [Blk.Seated]))

theorem execAssayWindowExpire_holds c group tensor epoch (s : State) : ∃ z, execAssayWindowExpire c group tensor epoch s = .next z ∧ State.Holds s z := by
  refine ⟨_, rfl, ?_⟩
  exact State.holds_atWork s _ _ (fun x => by simp [Blk.Seated])

theorem execGroupEntryWrite_holds c group v (s : State) : ∃ z, execGroupEntryWrite c group v s = .next z ∧ State.Holds s z := by
  refine ⟨_, rfl, ?_⟩
  exact State.holds_chanRow s _ _ _ _ (fun x y h => h.seat (by simp [Blk.Seated, Chan.onB]))

theorem execDataFragmentReceive_holds c src h data (s : State) : ∃ z, execDataFragmentReceive c src h data s = .next z ∧ State.Holds s z := by
  refine ⟨_, rfl, ?_⟩
  exact State.holds_atWork s _ _ (fun x => by simp [Blk.Seated])

theorem execControlFragmentReceive_holds n src h entries (s : State) : ∃ z, execControlFragmentReceive n src h entries s = .next z ∧ State.Holds s z := by
  cases n with
  | leaf => refine ⟨_, rfl, ?_⟩; exact State.holds_leafWork s _ (fun x => by simp [Blk.Seated])
  | chan c => refine ⟨_, rfl, ?_⟩; exact State.holds_atWork s _ _ (fun x => by simp [Blk.Seated])

theorem execFragmentSend_holds n (s : State) : ∃ z, execFragmentSend n s = .next z ∧ State.Holds s z := by
  cases n with
  | leaf => refine ⟨_, rfl, ?_⟩; exact State.holds_leafWork s _ (fun x => by simp [Blk.Seated])
  | chan c => refine ⟨_, rfl, ?_⟩; exact State.holds_atWork s _ _ (fun x => by simp [Blk.Seated, Chan.onB])

theorem execParentLost_holds n (s : State) : ∃ z, execParentLost n s = .next z ∧ State.Holds s z := by
  cases n with
  | leaf => refine ⟨_, rfl, ?_⟩; exact State.holds_leafWork s _ (fun x => by simp [Blk.Seated])
  | chan c => refine ⟨_, rfl, ?_⟩; exact State.holds_atWork s _ _ (fun x => by simp [Blk.Seated])

theorem execLeafAbsent_holds c pos (s : State) : ∃ z, execLeafAbsent c pos s = .next z ∧ State.Holds s z := by
  refine ⟨_, rfl, ?_⟩
  exact State.holds_atWork s _ _ (fun x => by simp [Blk.Seated])

theorem execAttachReceive_holds c joiner pos frame left (s : State) : ∃ z, execAttachReceive c joiner pos frame left s = .next z ∧ State.Holds s z := by
  refine ⟨_, rfl, ?_⟩
  exact State.holds_atWork s _ _ (fun x => by simp [Blk.Seated])

theorem execReleaseQueryReceive_holds c src left children (s : State) : ∃ z, execReleaseQueryReceive c src left children s = .next z ∧ State.Holds s z := by
  refine ⟨_, rfl, ?_⟩
  exact State.holds_atWork s _ _ (fun x => by simp [Blk.Seated])

theorem execReleaseAnswerReceive_holds c src entries (s : State) : ∃ z, execReleaseAnswerReceive c src entries s = .next z ∧ State.Holds s z := by
  refine ⟨_, rfl, ?_⟩
  exact State.holds_atWork s _ _ (fun x => by simp [Blk.Seated])

theorem execReleaseQueryTimeout_holds c child (s : State) : ∃ z, execReleaseQueryTimeout c child s = .next z ∧ State.Holds s z := by
  refine ⟨_, rfl, ?_⟩
  exact State.holds_atWork s _ _ (fun x => by simp [Blk.Seated])

theorem execReleaseAnswerMissing_holds c child (s : State) : ∃ z, execReleaseAnswerMissing c child s = .next z ∧ State.Holds s z := by
  refine ⟨_, rfl, ?_⟩
  exact State.holds_atWork s _ _ (fun x => by simp [Blk.Seated])

theorem execReturnHome_holds n (s : State) : ∃ z, execReturnHome n s = .next z ∧ State.Holds s z := by
  cases n with
  | leaf => refine ⟨_, rfl, ?_⟩; exact State.holds_leafWork s _ (fun x => by simp [Blk.Seated])
  | chan c => refine ⟨_, rfl, ?_⟩; exact State.holds_atWork s _ _ (fun x => by simp [Blk.Seated, Chan.onB])

theorem execChannelSeriesSwap_holds c (s : State) : ∃ z, execChannelSeriesSwap c s = .next z ∧ State.Holds s z := by
  refine ⟨_, rfl, ?_⟩
  exact State.holds_chanRow s _ _ _ _ (fun x y h => h.seat (by simp [Blk.Seated, Chan.onB]))

theorem execParamSetsWrite_holds c v (s : State) : ∃ z, execParamSetsWrite c v s = .next z ∧ State.Holds s z := by
  refine ⟨_, rfl, ?_⟩
  exact State.holds_chanRow s _ _ _ _ (fun x y h => h.seat (by simp [Blk.Seated, Chan.onB]))

theorem execAggTableSwap_holds c (s : State) : ∃ z, execAggTableSwap c s = .next z ∧ State.Holds s z := by
  refine ⟨_, rfl, ?_⟩
  exact State.holds_chanRow s _ _ _ _ (fun x y h => h.seat (by simp [Blk.Seated, Chan.onB]))

theorem execImageCheckDone_holds c img (s : State) : ∃ z, execImageCheckDone c img s = .next z ∧ State.Holds s z := by
  cases img with
  | balance => refine ⟨_, rfl, ?_⟩; exact State.holds_atWork s _ _ (fun x => by simp [Blk.Seated])
  | rule => refine ⟨_, rfl, ?_⟩; exact State.holds_atWork s _ _ (fun x => by simp [Blk.Seated])

theorem execImageStoreDone_holds c img ok (s : State) : ∃ z, execImageStoreDone c img ok s = .next z ∧ State.Holds s z := by
  refine ⟨_, rfl, ?_⟩
  exact State.holds_csWork s _ _ (fun x h => CS.sits_imageStored h rfl _ _)

theorem execBalanceImageSwap_holds c (s : State) : ∃ z, execBalanceImageSwap c s = .next z ∧ State.Holds s z := by
  refine ⟨_, rfl, ?_⟩
  exact State.holds_chanRow s _ _ _ _ (fun x y h => h.seat (by simp [Blk.Seated, Chan.onB]))

theorem execRuleImageSwap_holds c (s : State) : ∃ z, execRuleImageSwap c s = .next z ∧ State.Holds s z := by
  refine ⟨_, rfl, ?_⟩
  exact State.holds_chanRow s _ _ _ _ (fun x y h => h.seat (by simp [Blk.Seated, Chan.onB]))

theorem execBarrierWindowExpire_holds c barrier (s : State) : ∃ z, execBarrierWindowExpire c barrier s = .next z ∧ State.Holds s z := by
  refine ⟨_, rfl, ?_⟩
  exact State.holds_atWork s _ _ (fun x => by simp [Blk.Seated])

theorem execRuleTxnCommit_holds c (s : State) : ∃ z, execRuleTxnCommit c s = .next z ∧ State.Holds s z := by
  refine ⟨_, rfl, ?_⟩
  exact State.holds_csWork s _ _ (fun x h => CS.sits_ruleCommit h rfl)

theorem execNotify_holds c v (s : State) : ∃ z, execNotify c v s = .next z ∧ State.Holds s z := by
  refine ⟨_, rfl, ?_⟩
  exact State.holds_chanRow s _ _ _ _ (fun x y h => h.seat (by simp [Blk.Seated, Chan.onB]))

theorem execSuspectSet_holds c v (s : State) : ∃ z, execSuspectSet c v s = .next z ∧ State.Holds s z := by
  refine ⟨_, rfl, ?_⟩
  exact State.holds_chanRow s _ _ _ _ (fun x y h => h.seat (by simp [Blk.Seated, Chan.onB]))

theorem execSuspectClear_holds c v (s : State) : ∃ z, execSuspectClear c v s = .next z ∧ State.Holds s z := by
  refine ⟨_, rfl, ?_⟩
  exact State.holds_chanRow s _ _ _ _ (fun x y h => h.seat (by simp [Blk.Seated, Chan.onB]))

theorem execLossSubmit_holds c v (s : State) : ∃ z, execLossSubmit c v s = .next z ∧ State.Holds s z := by
  refine ⟨_, rfl, ?_⟩
  exact State.holds_chanRow s _ _ _ _ (fun x y h => h.seat (by simp [Blk.Seated, Chan.onB]))

theorem execStreamPacketSend_holds c port (s : State) : ∃ z, execStreamPacketSend c port s = .next z ∧ State.Holds s z := by
  refine ⟨_, rfl, ?_⟩
  exact State.holds_atWork s _ _ (fun x => by simp [Blk.Seated])

theorem execRefillTick_holds (c : Ch) (o : Option (BitVec 12)) (s : State) : ∃ z, execRefillTick c o s = .next z ∧ State.Holds s z := by
  have h1 : State.Holds s (s.atWork c (fun x => x.refillEgress.pacerTick (s.sh.num K.busState) (s.sh.num K.droopFraction))) :=
    State.holds_atWork s _ _ (fun x => by simp [Blk.Seated])
  simp only [execRefillTick]
  cases o with
  | none => exact ⟨_, rfl, h1⟩
  | some k => exact ⟨_, rfl, State.holds_ite (h1.trans (State.holds_busSample _ _ _)) h1⟩

theorem execDroopRecover_holds  (s : State) : ∃ z, execDroopRecover  s = .next z ∧ State.Holds s z := by
  exact ⟨_, rfl, State.holds_onShared s _⟩

theorem execUplinkBackpressure_holds c port (s : State) : ∃ z, execUplinkBackpressure c port s = .next z ∧ State.Holds s z := by
  refine ⟨_, rfl, ?_⟩
  exact State.holds_atWork s _ _ (fun x => by simp [Blk.Seated])

theorem execBackpressureClear_holds c port (s : State) : ∃ z, execBackpressureClear c port s = .next z ∧ State.Holds s z := by
  refine ⟨_, rfl, ?_⟩
  exact State.holds_atWork s _ _ (fun x => by simp [Blk.Seated])

theorem execPortReturn_holds c port (s : State) : ∃ z, execPortReturn c port s = .next z ∧ State.Holds s z := by
  refine ⟨_, rfl, ?_⟩
  exact State.holds_atWork s _ _ (fun x => by simp [Blk.Seated])

theorem execTraceArm_holds t (s : State) : ∃ z, execTraceArm t s = .next z ∧ State.Holds s z := by
  refine ⟨_, rfl, ?_⟩
  unfold State.leafOwn
  exact State.holds_leafRow s _ _ _ _ (fun x y h => h.seat (by simp [Blk.Seated]))

theorem execTraceTrigger_holds t (s : State) : ∃ z, execTraceTrigger t s = .next z ∧ State.Holds s z := by
  refine ⟨_, rfl, ?_⟩
  unfold State.leafOwn
  exact State.holds_leafRow s _ _ _ _ (fun x y h => h.seat (by simp [Blk.Seated]))

theorem execTraceStop_holds t (s : State) : ∃ z, execTraceStop t s = .next z ∧ State.Holds s z := by
  refine ⟨_, rfl, ?_⟩
  unfold State.leafOwn
  exact State.holds_leafRow s _ _ _ _ (fun x y h => h.seat (by simp [Blk.Seated]))

theorem execTraceClear_holds  (s : State) : ∃ z, execTraceClear  s = .next z ∧ State.Holds s z := by
  refine ⟨_, rfl, ?_⟩
  unfold State.leafOwn
  exact State.holds_leafRow s _ _ _ _ (fun x y h => h.seat (by simp [Blk.Seated]))

theorem execTraceRecordWrite_holds  (s : State) : ∃ z, execTraceRecordWrite  s = .next z ∧ State.Holds s z := by
  refine ⟨_, rfl, ?_⟩
  exact State.holds_leafWork s _ (fun x => by simp [Blk.Seated])

theorem execTraceStopInstant_holds  (s : State) : ∃ z, execTraceStopInstant  s = .next z ∧ State.Holds s z := by
  refine ⟨_, rfl, ?_⟩
  exact State.holds_leafWork s _ (fun x => by simp [Blk.Seated])

theorem execStallBudgetExpire_holds  (s : State) : ∃ z, execStallBudgetExpire  s = .next z ∧ State.Holds s z := by
  refine ⟨_, rfl, ?_⟩
  exact State.holds_leafWork s _ (fun x => by simp [Blk.Seated])

theorem execTraceAuthoriseClear_holds t (s : State) : ∃ z, execTraceAuthoriseClear t s = .next z ∧ State.Holds s z := by
  refine ⟨_, rfl, ?_⟩
  unfold State.leafOwn
  exact State.holds_leafRow s _ _ _ _ (fun x y h => h.seat (by simp [Blk.Seated]))

theorem execTraceTriggerLeaves_holds c v (s : State) : ∃ z, execTraceTriggerLeaves c v s = .next z ∧ State.Holds s z := by
  refine ⟨_, rfl, ?_⟩
  exact State.holds_chanRow s _ _ _ _ (fun x y h => h.seat (by simp [Blk.Seated, Chan.onB]))

theorem execCaratBlockSeal_holds c (s : State) : ∃ z, execCaratBlockSeal c s = .next z ∧ State.Holds s z := by
  refine ⟨_, rfl, ?_⟩
  exact State.holds_atWork s _ _ (fun x => by simp [Blk.Seated])

theorem execTraceFetch_holds c v (s : State) : ∃ z, execTraceFetch c v s = .next z ∧ State.Holds s z := by
  refine ⟨_, rfl, ?_⟩
  exact State.holds_chanRow s _ _ _ _ (fun x y h => h.seat (by simp [Blk.Seated, Chan.onB]))

theorem execTraceFetchResponse_holds c stream status data (s : State) : ∃ z, execTraceFetchResponse c stream status data s = .next z ∧ State.Holds s z := by
  refine ⟨_, rfl, ?_⟩
  exact State.holds_atWork s _ _ (fun x => by simp [Blk.Seated])

theorem execJobSubmit_holds c v (s : State) : ∃ z, execJobSubmit c v s = .next z ∧ State.Holds s z := by
  refine ⟨_, rfl, ?_⟩
  exact State.holds_chanRow s _ _ _ _ (fun x y h => h.seat (by simp [Blk.Seated, Chan.onB]))

theorem execJobComplete_holds c decomp (s : State) : ∃ z, execJobComplete c decomp s = .next z ∧ State.Holds s z := by
  refine ⟨_, rfl, ?_⟩
  exact State.holds_atWork s _ _ (fun x => by simp [Blk.Seated])

theorem execJobResult_holds c (s : State) : ∃ z, execJobResult c s = .next z ∧ State.Holds s z := by
  refine ⟨_, rfl, ?_⟩
  exact State.holds_seat s _ _ (fun x => by simp [Blk.Seated, Chan.popJob, Chan.onB])

theorem execMoverStart_holds c m a (s : State) : ∃ z, execMoverStart c m a s = .next z ∧ State.Holds s z := by
  refine ⟨_, rfl, ?_⟩
  exact State.holds_chanRow s _ _ _ _ (fun x y h => h.seat (by simp [Blk.Seated, Chan.onB]))

theorem execMoverStop_holds c m (s : State) : ∃ z, execMoverStop c m s = .next z ∧ State.Holds s z := by
  refine ⟨_, rfl, ?_⟩
  exact State.holds_chanRow s _ _ _ _ (fun x y h => h.seat (by simp [Blk.Seated, Chan.onB]))

theorem execDescriptorFetch_holds c m (s : State) : ∃ z, execDescriptorFetch c m s = .next z ∧ State.Holds s z := by
  refine ⟨_, rfl, ?_⟩
  exact State.holds_atWork s _ _ (fun x => by simp [Blk.Seated])

theorem execDescriptorDone_holds c m (s : State) : ∃ z, execDescriptorDone c m s = .next z ∧ State.Holds s z := by
  refine ⟨_, rfl, ?_⟩
  exact State.holds_atWork s _ _ (fun x => by simp [Blk.Seated])

theorem execMmpResponse_holds tag err data (s : State) : ∃ z, execMmpResponse tag err data s = .next z ∧ State.Holds s z := by
  refine ⟨_, rfl, ?_⟩
  exact State.holds_atWork s _ _ (fun x => by simp [Blk.Seated])

theorem execMmpTimeout_holds tag (s : State) : ∃ z, execMmpTimeout tag s = .next z ∧ State.Holds s z := by
  refine ⟨_, rfl, ?_⟩
  exact State.holds_atWork s _ _ (fun x => by simp [Blk.Seated])

theorem execSramUncorrectable_holds n array row (s : State) : ∃ z, execSramUncorrectable n array row s = .next z ∧ State.Holds s z := by
  cases n with
  | leaf => refine ⟨_, rfl, ?_⟩; exact State.holds_onLeaf s _ (fun l h => Leaf.sits_uncorrectable h _ _)
  | chan c => refine ⟨_, rfl, ?_⟩; exact (State.holds_putChan s c _ (fun h => Chan.sits_uncorrectable h rfl _ _ _)).trans (State.holds_settle _)

theorem execDramUncorrectable_holds c seg (s : State) : ∃ z, execDramUncorrectable c seg s = .next z ∧ State.Holds s z := by
  refine ⟨_, rfl, ?_⟩
  exact (State.holds_putChan s c _ (fun h => Chan.sits_uncorrectable h rfl _ _ _)).trans (State.holds_settle _)

theorem State.holds_countStore (s : State) (failed : Bool) : State.Holds s (s.countStore failed) := by
  unfold State.countStore
  split
  · exact .refl s
  · exact State.holds_seat s _ _ (fun x => by simp [Blk.Seated, Chan.onB])

theorem execFlashOperationDone_holds n ok (s : State) : ∃ z, execFlashOperationDone n ok s = .next z ∧ State.Holds s z := by
  cases n with
  | leaf =>
    refine ⟨_, rfl, ?_⟩
    exact (State.holds_onLeaf s (fun l => if l.b.live then endStore leafEnv l ok else l)
      (fun l h => Leaf.sits_ite (leafEnv_keeps.endStore h _) h)).trans (State.holds_countStore _ _)
  | chan c => refine ⟨_, rfl, ?_⟩; exact State.holds_flashDone s c ok

theorem execFaultLogWrite_holds c stamp (s : State) : ∃ z, execFaultLogWrite c stamp s = .next z ∧ State.Holds s z := by
  refine ⟨_, rfl, ?_⟩
  exact State.holds_atWork s _ _ (fun x => by simp [Blk.Seated])

theorem execPermanentFenceCommit_holds c (s : State) : ∃ z, execPermanentFenceCommit c s = .next z ∧ State.Holds s z := by
  refine ⟨_, rfl, ?_⟩
  exact State.holds_atWork s _ _ (fun x => by simp [Blk.Seated])

theorem execClearLocation_holds c v (s : State) : ∃ z, execClearLocation c v s = .next z ∧ State.Holds s z := by
  refine ⟨_, rfl, ?_⟩
  exact State.holds_chanRow s _ _ _ _ (fun x y h => h.seat (by simp [Blk.Seated, Chan.onB]))

theorem execStartupFailures_holds c v (s : State) : ∃ z, execStartupFailures c v s = .next z ∧ State.Holds s z := by
  refine ⟨_, rfl, ?_⟩
  exact State.holds_chanRow s _ _ _ _ (fun x y h => h.seat (by simp [Blk.Seated, Chan.onB]))

theorem execFirmwareLogWrite_holds c v (s : State) : ∃ z, execFirmwareLogWrite c v s = .next z ∧ State.Holds s z := by
  refine ⟨_, rfl, ?_⟩
  exact State.holds_chanRow s _ _ _ _ (fun x y h => h.seat (by simp [Blk.Seated, Chan.onB]))

theorem execWakeRequest_holds c v (s : State) : ∃ z, execWakeRequest c v s = .next z ∧ State.Holds s z := by
  refine ⟨_, rfl, ?_⟩
  exact State.holds_chanRow s _ _ _ _ (fun x y h => h.seat (by simp [Blk.Seated, Chan.onB]))

theorem execWakeTxnCommit_holds c (s : State) : ∃ z, execWakeTxnCommit c s = .next z ∧ State.Holds s z := by
  refine ⟨_, rfl, ?_⟩
  exact State.holds_atWork s _ _ (fun x => by simp [Blk.Seated])

theorem execCoreTargetStep_holds  (s : State) : ∃ z, execCoreTargetStep  s = .next z ∧ State.Holds s z := by
  exact ⟨_, rfl, State.holds_onShared s _⟩

theorem execMarginEvent_holds c mv (s : State) : ∃ z, execMarginEvent c mv s = .next z ∧ State.Holds s z := by
  refine ⟨_, rfl, ?_⟩
  exact (State.holds_onShared s _).trans (State.holds_atWork _ _ _ (fun x => by simp [Blk.Seated]))

theorem execEnterL1_holds t (s : State) : ∃ z, execEnterL1 t s = .next z ∧ State.Holds s z := by
  refine ⟨_, rfl, ?_⟩
  unfold State.leafOwn
  exact State.holds_leafRow s _ _ _ _ (fun x y h => h.seat (by simp [Blk.Seated]))

theorem execEnterL2_holds t (s : State) : ∃ z, execEnterL2 t s = .next z ∧ State.Holds s z := by
  refine ⟨_, rfl, ?_⟩
  unfold State.leafOwn
  exact State.holds_leafRow s _ _ _ _ (fun x y h => h.seat (by simp [Blk.Seated]))

theorem execEnterL3_holds  (s : State) : ∃ z, execEnterL3  s = .next z ∧ State.Holds s z := by
  refine ⟨_, rfl, ?_⟩
  exact State.holds_leafRow s _ _ _ _ (fun x y h => Leaf.sits_enterL3 h)

theorem execEnterL0_holds t (s : State) : ∃ z, execEnterL0 t s = .next z ∧ State.Holds s z := by
  refine ⟨_, rfl, ?_⟩
  unfold State.leafOwn
  exact State.holds_leafRow s _ _ _ _ (fun x y h => h.seat (by simp [Blk.Seated]))

theorem execEnterC2_holds c (s : State) : ∃ z, execEnterC2 c s = .next z ∧ State.Holds s z := by
  refine ⟨_, rfl, ?_⟩
  exact State.holds_chanPower s c _ _ (fun x h => Chan.sits_enterC2 h)

theorem execEnterC3_holds c (s : State) : ∃ z, execEnterC3 c s = .next z ∧ State.Holds s z := by
  refine ⟨_, rfl, ?_⟩
  exact State.holds_chanPower s c _ _ (fun x h => Chan.sits_enterC3 h rfl)

theorem execChannelWake_holds c (s : State) : ∃ z, execChannelWake c s = .next z ∧ State.Holds s z := by
  refine ⟨_, rfl, ?_⟩
  exact State.holds_chanRow s _ _ _ _ (fun x y h => Chan.sits_wake h rfl)

theorem execPowerOnReset_holds  (s : State) : ∃ z, execPowerOnReset  s = .next z ∧ State.Holds s z := by
  refine ⟨_, rfl, ?_⟩
  exact State.holds_ite (.refl s) ((State.holds_map s _ _ (fun p x h => Chan.sits_startCold h rfl _ _ _)).trans (State.holds_settle _))

theorem execLeafPowerOn_holds  (s : State) : ∃ z, execLeafPowerOn  s = .next z ∧ State.Holds s z := by
  refine ⟨_, rfl, ?_⟩
  exact State.holds_onLeaf s _ (fun l h => Leaf.sits_powerOn h)

theorem execPllLock_holds c (s : State) : ∃ z, execPllLock c s = .next z ∧ State.Holds s z := by
  refine ⟨_, rfl, ?_⟩
  exact State.holds_seat s _ _ (fun x => by simp [Blk.Seated, Chan.onB])

theorem execSelftestDone_holds n rows segs (s : State) : ∃ z, execSelftestDone n rows segs s = .next z ∧ State.Holds s z := by
  cases n with
  | leaf => refine ⟨_, rfl, ?_⟩; exact State.holds_onLeaf s _ (fun l h => Leaf.sits_selftestDone h _)
  | chan c => refine ⟨_, rfl, ?_⟩; exact State.holds_onChan s c _ (fun l h => Chan.sits_selftestDone h _ _)

theorem execRestoreDone_holds c read (s : State) : ∃ z, execRestoreDone c read s = .next z ∧ State.Holds s z := by
  refine ⟨_, rfl, ?_⟩
  exact State.holds_restoreDone s c read.readable read.bad

theorem execPhyLinkUp_holds c port (s : State) : ∃ z, execPhyLinkUp c port s = .next z ∧ State.Holds s z := by
  refine ⟨_, rfl, ?_⟩
  exact State.holds_seat s _ _ (fun x => by simp [Blk.Seated, Chan.onB])

theorem execLinkQualifyDone_holds c port lanes (s : State) : ∃ z, execLinkQualifyDone c port lanes s = .next z ∧ State.Holds s z := by
  refine ⟨_, rfl, ?_⟩
  exact State.holds_onChan s c _ (fun x h => Chan.sits_qualified h _ _)

theorem execPhyLinkDown_holds c port (s : State) : ∃ z, execPhyLinkDown c port s = .next z ∧ State.Holds s z := by
  refine ⟨_, rfl, ?_⟩
  exact State.holds_seat s _ _ (fun x => by simp [Blk.Seated, Chan.onB])

theorem execMlpLinkDown_holds mid (s : State) : ∃ z, execMlpLinkDown mid s = .next z ∧ State.Holds s z := by
  refine ⟨_, rfl, ?_⟩
  exact State.holds_leafWork s _ (fun x => by simp [Blk.Seated])

theorem execWarmResetInput_holds ns (s : State) : ∃ z, execWarmResetInput ns s = .next z ∧ State.Holds s z := by
  refine ⟨_, rfl, ?_⟩
  exact State.holds_warmInput s _

theorem execWarmResetRequest_holds c (s : State) : ∃ z, execWarmResetRequest c s = .next z ∧ State.Holds s z := by
  unfold execWarmResetRequest
  split
  · exact ⟨_, rfl, State.holds_warmReset s⟩
  · exact ⟨_, rfl, State.holds_seat s c _ (fun x => by simp [Blk.Seated, Chan.onB])⟩

theorem execChannelResetRequest_holds c (s : State) : ∃ z, execChannelResetRequest c s = .next z ∧ State.Holds s z := by
  exact ⟨_, rfl, (State.holds_putChan s c _ (fun h => Chan.sits_resetNow h rfl)).trans (State.holds_settle _)⟩

theorem execLeafResetRequest_holds  (s : State) : ∃ z, execLeafResetRequest  s = .next z ∧ State.Holds s z := by
  refine ⟨_, rfl, ?_⟩
  exact State.holds_onLeaf s _ (fun l h => Leaf.sits_ite (Leaf.sits_startReset h) h)

theorem execFastPathDone_holds n scrub refOk k ms (s : State) : ∃ z, execFastPathDone n scrub refOk k ms s = .next z ∧ State.Holds s z := by
  cases n with
  | leaf => refine ⟨_, rfl, ?_⟩; exact State.holds_onLeaf s _ (fun l h => Leaf.sits_fastPathDone h _ _ _ _)
  | chan c => refine ⟨_, rfl, ?_⟩; exact (State.holds_onCS s c _ (fun x h => CS.sits_ite h (CS.sits_fastDone h rfl _ _ _ _))).trans (State.holds_boundarySample _ _ _)

theorem execJoinAssign_holds v (s : State) : ∃ z, execJoinAssign v s = .next z ∧ State.Holds s z := by
  refine ⟨_, rfl, ?_⟩
  exact State.holds_leafRow s _ _ _ _ (fun x y h => h.seat (by simp [Blk.Seated]))

theorem execRepairAdd_holds v (s : State) : ∃ z, execRepairAdd v s = .next z ∧ State.Holds s z := by
  refine ⟨_, rfl, ?_⟩
  unfold State.leafOwn
  exact State.holds_leafRow s _ _ _ _ (fun x y h => h.seat (by simp [Blk.Seated]))

theorem execJoinRetryExpire_holds c pos (s : State) : ∃ z, execJoinRetryExpire c pos s = .next z ∧ State.Holds s z := by
  refine ⟨_, rfl, ?_⟩
  exact State.holds_atWork s _ _ (fun x => by simp [Blk.Seated])

theorem execRoleSuccessorTimeout_holds c (s : State) : ∃ z, execRoleSuccessorTimeout c s = .next z ∧ State.Holds s z := by
  refine ⟨_, rfl, ?_⟩
  exact State.holds_atWork s _ _ (fun x => by simp [Blk.Seated])

theorem execWithdrawLeaves_holds c v (s : State) : ∃ z, execWithdrawLeaves c v s = .next z ∧ State.Holds s z := by
  refine ⟨_, rfl, ?_⟩
  exact State.holds_chanRow s _ _ _ _ (fun x y h => h.seat (by simp [Blk.Seated, Chan.onB]))

theorem execWithdrawRegionsOff_holds c (s : State) : ∃ z, execWithdrawRegionsOff c s = .next z ∧ State.Holds s z := by
  refine ⟨_, rfl, ?_⟩
  exact State.holds_atWork s _ _ (fun x => by simp [Blk.Seated])

theorem execWithdrawEnterL2_holds c (s : State) : ∃ z, execWithdrawEnterL2 c s = .next z ∧ State.Holds s z := by
  refine ⟨_, rfl, ?_⟩
  exact State.holds_atWork s _ _ (fun x => by simp [Blk.Seated])

theorem execLeafWithdrawDone_holds c pos (s : State) : ∃ z, execLeafWithdrawDone c pos s = .next z ∧ State.Holds s z := by
  refine ⟨_, rfl, ?_⟩
  exact State.holds_atWork s _ _ (fun x => by simp [Blk.Seated])

theorem execMoveParent_holds  (s : State) : ∃ z, execMoveParent  s = .next z ∧ State.Holds s z := by
  refine ⟨_, rfl, ?_⟩
  unfold State.leafOwn
  exact State.holds_leafRow s _ _ _ _ (fun x y h => h.seat (by simp [Blk.Seated]))

theorem execWithdrawChannel_holds c (s : State) : ∃ z, execWithdrawChannel c s = .next z ∧ State.Holds s z := by
  refine ⟨_, rfl, ?_⟩
  exact State.holds_chanRow s _ _ _ _ (fun x y h => h.seat (by simp [Blk.Seated, Chan.onB]))

theorem execChannelWithdrawDone_holds c (s : State) : ∃ z, execChannelWithdrawDone c s = .next z ∧ State.Holds s z := by
  refine ⟨_, rfl, ?_⟩
  exact State.holds_atWork s _ _ (fun x => by simp [Blk.Seated])

theorem execMemberLeave_holds c src id (s : State) : ∃ z, execMemberLeave c src id s = .next z ∧ State.Holds s z := by
  refine ⟨_, rfl, ?_⟩
  exact State.holds_chanRow s _ _ _ _ (fun x y h => h.seat (by simp [Blk.Seated, Chan.onB]))

theorem execChannelRemoval_holds c child (s : State) : ∃ z, execChannelRemoval c child s = .next z ∧ State.Holds s z := by
  refine ⟨_, rfl, ?_⟩
  exact State.holds_atWork s _ _ (fun x => by simp [Blk.Seated])

theorem execClaspClaim_holds c (s : State) : ∃ z, execClaspClaim c s = .next z ∧ State.Holds s z := by
  refine ⟨_, rfl, ?_⟩
  exact State.holds_csWork s _ _ (fun x h => h.seat (by simp [Blk.Seated]))

theorem execClaimWindowClose_holds  (s : State) : ∃ z, execClaimWindowClose  s = .next z ∧ State.Holds s z := by
  exact ⟨_, rfl, State.holds_closeClaims s⟩

theorem execClaimBackoffExpire_holds c (s : State) : ∃ z, execClaimBackoffExpire c s = .next z ∧ State.Holds s z := by
  refine ⟨_, rfl, ?_⟩
  exact State.holds_csWork s _ _ (fun x h => h.seat (by simp [Blk.Seated]))

theorem execClaspHeartbeat_holds c (s : State) : ∃ z, execClaspHeartbeat c s = .next z ∧ State.Holds s z := by
  exact ⟨_, rfl, State.holds_heartbeat s c⟩

theorem execHostRegisterWrite_holds addr data (s : State) : ∃ z, execHostRegisterWrite addr data s = .next z ∧ State.Holds s z := by
  exact ⟨_, rfl, State.holds_hostWrite s _ _⟩

theorem execFrameLoRead_holds c (s : State) : ∃ z, execFrameLoRead c s = .next z ∧ State.Holds s z := by
  exact ⟨_, rfl, State.holds_onWin s c _ (fun x => ⟨rfl, rfl, rfl, rfl, rfl⟩)⟩

theorem execMailboxDataWrite_holds c data (s : State) : ∃ z, execMailboxDataWrite c data s = .next z ∧ State.Holds s z := by
  exact ⟨_, rfl, State.holds_onWin s c _ (fun x => by unfold Chan.mbxWrite; split <;> exact ⟨rfl, rfl, rfl, rfl, rfl⟩)⟩

theorem execMailboxDataRead_holds c (s : State) : ∃ z, execMailboxDataRead c s = .next z ∧ State.Holds s z := by
  exact ⟨_, rfl, State.holds_onWin s c _ (fun x => ⟨rfl, rfl, rfl, rfl, rfl⟩)⟩

theorem execMailboxGo_holds c (s : State) : ∃ z, execMailboxGo c s = .next z ∧ State.Holds s z := by
  exact ⟨_, rfl, State.holds_ctrlWrite s c 1⟩

theorem execMailboxRspDone_holds c (s : State) : ∃ z, execMailboxRspDone c s = .next z ∧ State.Holds s z := by
  exact ⟨_, rfl, State.holds_ctrlWrite s c 4⟩

theorem execInterruptClear_holds c err bits sets (s : State) : ∃ z, execInterruptClear c err bits sets s = .next z ∧ State.Holds s z := by
  exact ⟨_, rfl, State.holds_onWin s c _ (fun x => Chan.irqClear_seat x err _ _)⟩

theorem execSmbusBlockWrite_holds cmd data pecOk (s : State) : ∃ z, execSmbusBlockWrite cmd data pecOk s = .next z ∧ State.Holds s z := by
  exact ⟨_, rfl, State.holds_smbWrite s _ _ _⟩

theorem execSmbusBlockRead_holds cmd (s : State) : ∃ z, execSmbusBlockRead cmd s = .next z ∧ State.Holds s z := by
  exact ⟨_, rfl, State.holds_smbRead s _⟩

theorem execSmbusAlertResponse_holds  (s : State) : ∃ z, execSmbusAlertResponse  s = .next z ∧ State.Holds s z := by
  exact ⟨_, rfl, State.holds_ite (State.holds_sh s _) (.refl s)⟩

theorem execSmbusClockLowTimeout_holds  (s : State) : ∃ z, execSmbusClockLowTimeout  s = .next z ∧ State.Holds s z := by
  exact ⟨_, rfl, State.holds_ite (State.holds_sh s _) (.refl s)⟩

theorem execTapInstruction_holds n ir (s : State) : ∃ z, execTapInstruction n ir s = .next z ∧ State.Holds s z := by
  exact ⟨_, rfl, State.holds_tap s n ir⟩

theorem execPowerOnResetAssert_holds  (s : State) : ∃ z, execPowerOnResetAssert  s = .next z ∧ State.Holds s z := by
  refine ⟨_, rfl, ?_⟩
  exact State.holds_map s _ _ (fun p x h => Chan.sits_blank h rfl)

theorem execAlwaysOnResetAssert_holds  (s : State) : ∃ z, execAlwaysOnResetAssert  s = .next z ∧ State.Holds s z := by
  refine ⟨_, rfl, ?_⟩
  exact State.holds_onLeaf s _ (fun l h => Blk.sits_lost rfl rfl rfl)

theorem execWarmResetInputRelease_holds  (s : State) : ∃ z, execWarmResetInputRelease  s = .next z ∧ State.Holds s z := by
  exact ⟨_, rfl, State.holds_sh s _⟩

theorem execChannelNeedChange_holds c mv (s : State) : ∃ z, execChannelNeedChange c mv s = .next z ∧ State.Holds s z := by
  refine ⟨_, rfl, ?_⟩
  exact State.holds_atWork s _ _ (fun x => by simp [Blk.Seated])

end Sys2Proof.Machine
end

