-- ==== Sys2Proof/Tests/Slice0.lean ====
section
/-! SUPPORT. Tests: a state that meets the hypotheses of each statement, clause by clause (met_…), ill-formed commands, and the
worked examples of the spec (test_…). -/

namespace Sys2Proof.Tests

open Sys2Proof Sys2Proof.Machine

set_option Elab.async false

/-! ### Small states -/

/-- A block that runs in frame 4. -/
def running (b : Blk) : Blk :=
  ({ b with phase := .run, needLock := false, frameIsOpen := true, lastOpen := some 4 }).setNum K.frameNow 4

/-- Both builds run in frame 4, every other register as reset leaves it. -/
def up : State :=
  { State.reset with leaf := { Leaf.reset with b := running Leaf.reset.b },
                     ch := State.reset.ch.map (fun c => c.onB running), sh := { Shared.reset with powered := true } }

/-- A state with its leaf changed. -/
def leafOf (s : State) (f : Leaf → Leaf) : State := { s with leaf := f s.leaf }

/-- A state with the common part of its leaf changed. -/
def leafBlk (s : State) (f : Blk → Blk) : State := leafOf s (fun l => { l with b := f l.b })

/-- A state with its channel 0 changed. -/
def chanOf (s : State) (f : Chan → Chan) : State := s.putChan 0 (f (s.chan 0))

/-- A state with the common part of its channel 0 changed. -/
def chanBlk (s : State) (f : Blk → Blk) : State := chanOf s (fun c => c.onB f)

/-- A state with the shared logic of its tray changed. -/
def sharedOf (s : State) (f : Shared → Shared) : State := { s with sh := f s.sh }

/-- The two blocks with both kinds of command. -/
abbrev c0 : Node := .chan 0

/-! ### Queue and frames -/

theorem met_queue : State.reset.seated ∧ State.reset.pending = [] ∧ step State.reset = .next State.reset ∧
    (Instr.jobResult 0).only = some 0 := ⟨⟨⟨rfl, rfl⟩, by decide⟩, rfl, rfl, rfl⟩

theorem up_seated : up.seated := ⟨⟨by decide +kernel, by decide +kernel⟩, by decide +kernel⟩

theorem met_frameOpens : (up.leaf.b.phase = .run ∧ up.leaf.b.needLock = false ∧ up.leaf.b.lastOpen = some 4 ∧
    (5 : Word64).toNat = up.leaf.b.nextFrame) ∧
    up.reapStores 0 = up ∧ (up.chan 0).b.phase = .run ∧ (up.chan 0).b.needLock = false ∧ (up.chan 0).b.lastOpen = some 4 ∧
    (5 : Word64).toNat = (up.chan 0).b.nextFrame := by decide +kernel

theorem met_frameRefused : (up.leaf.b.sequencing = true ∧ up.leaf.b.lastOpen = some 4 ∧ (4 : Word64).toNat ≤ 4) ∧
    (State.reset.leaf.b.needLock = true) ∧ up.reapStores 0 = up ∧ (up.chan 0).b.sequencing = true ∧ (up.chan 0).b.lastOpen = some 4 ∧
    State.reset.reapStores 0 = State.reset ∧ (State.reset.chan 0).b.needLock = true ∧ (State.reset.chan 0).b.phase ≠ .retained := by
  decide +kernel

theorem met_overrun : up.leaf.b.works = true ∧ (up.chan 0).b.works = true ∧ (up.chan 0).b.isLeaf = false := by decide +kernel

/-! ### Time -/

/-- A PTP header inside the subset, of domain A. -/
def hdr : PtpHdr :=
  { msgType := ptpSync, version := 2, minor := 1, domain := 0, sdo := 0, length := 64, source := 7, seqId := 3, correction := 0, logInterval := 0, twoStep := true }

/-- An Announce of a PTP time scale. -/
def ann : Announce :=
  { gm := 9, priority1 := 128, clockClass := 6, accuracy := 0x21, variance := 0, priority2 := 128, steps := 0, ptpTimescale := true }

/-- A servo of domain A that has selected the master of `hdr`, in a servo state. -/
def servoIn (st : Nat) (f : Servo → Servo) (b : Blk) : Blk :=
  ({ b with sa := f { Servo.reset with foreign := [{ source := 7, data := ann }], sel := some { source := 7, data := ann }, everLocked := true } }).setNum
    K.servoStateA st

/-- Channel 0 with such a servo. -/
def timed (st : Nat) (f : Servo → Servo) : State := chanBlk up (servoIn st f)

/-- The head of an envelope of 80 bytes that agrees with its frame. -/
def head (kind : BitVec 4) : EnvHead := { version := 1, kind := kind, length := 80, carried := 80 }

/-- The header of a message of a type, in such an envelope. -/
def hdrOf (t : BitVec 4) : PtpHdr := { hdr with msgType := t, env := head 2 }

theorem met_announce : (up.blk c0).timed = true ∧ (up.blk c0).domOf hdr.domain = some .a ∧
    envTaken (hdrOf ptpAnnounce).env 2 = true ∧ envTaken { head 2 with carried := 79 } 2 = false ∧
    (up.blk c0).ptpOk (hdrOf ptpAnnounce) ptpAnnounce (-3) 4 = true ∧ ann.ptpTimescale = true ∧ (up.blk c0).servoState .a = 0 ∧
    ((up.blk c0).servo .a).foreign = [] ∧ (up.blk c0).ptpOk { hdrOf ptpAnnounce with version := 1 } ptpAnnounce (-3) 4 = false ∧
    (up.blk c0).ptpOk (hdrOf 0x2) ptpAnnounce (-3) 4 = false := by decide +kernel

theorem met_announceTimeout : ((timed 2 id).blk c0).timed = true ∧ ((timed 2 id).blk c0).dualApplies .a = false ∧
    (((timed 2 id).blk c0).servo .a).sel.map (·.source) ≠ some 8 ∧ (((timed 2 id).blk c0).servo .a).sel.map (·.source) = some 7 ∧
    ((timed 2 id).blk c0).servoState .a = 2 ∧ (((timed 2 id).blk c0).servo .a).everLocked = true ∧
    ((timed 3 id).blk c0).servoState .a = 3 ∧ (((timed 3 id).blk c0).servo .a).guardLock = false := by decide +kernel

/-- A transmit stamp of domain A. -/
def stamp : TsqEntry := { dom := .a, seqId := 3, stamp := 100, corrAt := 0 }

/-- Channel 0 in holdover of domain A, with the last Sync's t2 − t1 and a transmit stamp. -/
def exchanged : State := chanBlk (timed 3 (fun v => { v with down := some 40 })) (fun b => { b with tsq := [stamp] })

theorem met_stamps : ((timed 1 id).blk c0).timed = true ∧ (((timed 1 id).blk c0).servo .a).sel.isSome = true ∧
    ((timed 1 id).blk c0).tsq.length < 16 ∧ envTaken (hdrOf ptpSync).env 2 = true ∧
    ((timed 1 id).blk c0).ptpOk (hdrOf ptpSync) ptpSync (-7) 0 = true ∧ (hdrOf ptpSync).twoStep = true ∧
    ((timed 1 id).blk c0).fromSelected .a (hdrOf ptpSync) = true ∧ ((timed 1 id).blk c0).servoState .a = 1 ∧
    (exchanged.blk c0).ptpOk (hdrOf ptpDelayResp) ptpDelayResp (-128) 127 = true ∧ (exchanged.blk c0).fromSelected .a (hdrOf ptpDelayResp) = true ∧
    tsqMatch .a 3 (exchanged.blk c0).tsq = some (stamp, []) ∧
    ((exchanged.blk c0).servo .a).down = some 40 ∧ (exchanged.blk c0).servoState .a = 3 := by decide +kernel

/-- A queue of sixteen stamps; and a one-step Sync, whose offset a locked servo slews away. -/
theorem met_slews : (({ (exchanged.blk c0) with tsq := List.replicate 16 stamp } : Blk)).tsq.length = 16 ∧
    ((timed 2 id).blk c0).ptpOk { hdrOf ptpSync with twoStep := false } ptpSync (-7) 0 = true ∧
    bit (((timed 2 id).blk c0).num K.timeMode) 0 = false ∧ ((timed 2 id).blk c0).servoState .a = 2 ∧
    (500 - (hdrOf ptpSync).correction.toInt / 65536 - t96ns 490 - (((timed 2 id).blk c0).servo .a).m - ((timed 2 id).blk c0).asymmetry).natAbs <
      ((timed 2 id).blk c0).num K.stepThresholdNs ∧ ((timed 2 id).blk c0).messagePhase .a = true ∧
    bit ((timed 2 id).blk c0).timeMode 0 = false := by decide +kernel

/-- A two-step Sync of `hdr` waits, its receive stamp 500 ns. -/
def waits (v : Servo) : Servo := { v with waiting := some (7, 3, 500) }

theorem met_followUp : ((timed 3 waits).blk c0).domOf hdr.domain = some .a ∧
    ((timed 3 waits).blk c0).ptpOk (hdrOf ptpFollowUp) ptpFollowUp (-128) 127 = true ∧
    ((timed 3 waits).blk c0).fromSelected .a (hdrOf ptpFollowUp) = true ∧ envTaken (hdrOf ptpFollowUp).env 2 = true ∧
    (((timed 3 waits).blk c0).servo .a).waiting = some ((hdrOf ptpFollowUp).source, (hdrOf ptpFollowUp).seqId, 500) ∧
    ((timed 3 waits).blk c0).servoState .a = 3 ∧
    ((timed 2 waits).blk c0).servoState .a = 2 ∧ bit (((timed 2 waits).blk c0).num K.timeMode) 0 = false ∧
    (500 - hdr.correction.toInt / 65536 - t96ns 490 - (((timed 2 waits).blk c0).servo .a).m - ((timed 2 waits).blk c0).asymmetry).natAbs <
      ((timed 2 waits).blk c0).num K.stepThresholdNs ∧ ((timed 2 waits).blk c0).messagePhase .a = true ∧
    (((timed 2 id).blk c0).servo .a).waiting = none := by decide +kernel

/-- Channel 0 in guard lock of domain A, and with its second domain locked at the same time. -/
def guarded : State := timed 3 (fun v => { v with guardLock := true })
def dual : State := chanBlk (timed 2 id) (fun b => b.setNum K.servoStateB 2)

theorem met_timeWrites : guarded.passes c0 K.guardAccept (.num 1) = true ∧ (guarded.blk c0).guardLocked .a = true ∧
    (dual.blk c0).num K.activeDomain = 0 ∧ dual.passes c0 K.activeDomain (.num 1) = true := by decide +kernel

theorem met_holdover : ((timed 3 id).blk c0).timed = true ∧ ((timed 3 id).blk c0).servoState ((timed 3 id).blk c0).activeDom = 3 ∧
    (100 : Word).toNat ≤ ((timed 3 id).blk c0).num K.holdoverBudgetMs := by decide +kernel

/-- Channel 0 with its pulse-per-second input enabled. -/
def pps (st : Nat) : State := chanBlk (timed st id) (fun b => { b.setNum K.ppsEnable 1 with frameIsOpen := false })

theorem met_pps : ((pps 1).chan 0).b.timed = true ∧ ((pps 1).chan 0).b.isLeaf = false ∧ ((pps 1).chan 0).b.num K.ppsEnable = 1 ∧
    ((pps 1).chan 0).b.activeDom = .a ∧ ((pps 1).chan 0).b.servoState .a = 1 ∧ ((pps 1).chan 0).b.frameIsOpen = false ∧
    ((pps 0).chan 0).b.servoState .a = 0 ∧ ((pps 2).chan 0).b.servoState .a = 2 ∧ bit ((pps 2).chan 0).b.timeMode 0 = false ∧
    100 < ((pps 2).chan 0).b.num K.stepThresholdNs := by decide +kernel

/-- A host request for one item. -/
def ask (i : Item) : Req :=
  { way := .host, src := 0, seq := 1, txn := 0, count := 1, items := [i], body := [],
    env := { version := 1, kind := 1, length := BitVec.ofNat 16 (24 + (i.data.length + 7) / 8 * 8),
             carried := 24 + (i.data.length + 7) / 8 * 8 } }

/-- An item that names an object and carries data of a type. -/
def item (key type : Nat) (d : List Byte) : Item := keyItem key type d

theorem met_stampsArePopped : (exchanged.blk c0).phase = .run ∧ (exchanged.blk c0).fresh opRead (ask (item K.tsqPop 0 [])) = true ∧
    (ask (item K.tsqPop 0 [])).other = none ∧ itemKey (item K.tsqPop 0 []) = K.tsqPop ∧
    exchanged.readsOut c0 (ask (item K.tsqPop 0 [])) (item K.tsqPop 0 []) = some (13, .bytes stamp.bytes) ∧
    up.readsOut c0 (ask (item K.tsqPop 0 [])) (item K.tsqPop 0 []) = some (13, .bytes []) := by decide +kernel

/-! ### Requests -/

/-- A request of the leaf's own channel with the commission role. -/
def askLeaf (i : Item) : Req := { ask i with way := .fabric 3, src := 0x10000000 }

/-- The answer remembered for a host request. -/
def oldResp : Resp := { peer := 0x20000000, opcode := 0x10, status := 0, seq := 1, txn := 0, items := [], body := [] }

/-- Channel 0 remembers the host's request 1, with its response or without. -/
def heard (rs : List Resp) : State := chanBlk up (fun b => { b with seqs := [{ src := 0x20000000, high := 1, resps := rs }] })

/-- Channel 0 with 32 requests in execution. -/
def busy : State := chanBlk up (fun b => { b with execs := (List.range 32).map (fun k =>
  ({ way := .host, src := 1, seq := BitVec.ofNat 32 k, resp := oldResp, writes := [], waiting := 1, fails := [] } : Exec)) })

/-- A request for servo_state_a, which any role may read. -/
def plain : Req := ask (item K.servoStateA 0 [])

theorem met_judged : (Instr.read c0 plain).asks = some (c0, plain, opRead) ∧ (up.blk c0).answering plain = true ∧ envOk plain = true ∧
    (up.blk c0).mine opRead plain = true ∧ whole plain = true ∧ plain.formed opRead = true ∧ whole { plain with count := 2 } = false ∧
    (Instr.read c0 { plain with other := some 0x7F }).asks = some (c0, { plain with other := some 0x7F }, 0x7F) ∧
    ((heard [oldResp]).blk c0).memOf (((heard [oldResp]).blk c0).srcOf plain) = some { src := 0x20000000, high := 1, resps := [oldResp] } ∧
    [oldResp].find? (fun r => r.seq == plain.seq) = some oldResp ∧ serialAfter plain.seq 1 = false ∧
    (busy.blk c0).memOf ((busy.blk c0).srcOf plain) = none ∧ 32 ≤ (busy.blk c0).execs.length := by decide +kernel

/-- A fabric request on its way to another channel. -/
def astray : Req := { askLeaf (item K.servoStateA 0 []) with dst := some 0x10000007 }

theorem met_astray : (Instr.read c0 astray).asks = some (c0, astray, opRead) ∧ (up.blk c0).answering astray = true ∧ envOk astray = true ∧
    envOk { astray with env := { astray.env with version := 2 } } = false ∧
    (up.blk c0).mine opRead astray = false ∧ (up.blk c0).phase = .run ∧ (up.blk c0).isLeaf = false ∧ (up.blk c0).mine opRead plain = true ∧
    (up.blk c0).mine opRead { astray with dst := some (up.blk c0).addr } = true ∧
    (up.blk c0).mine opRead { astray with dst := some 0xFFFFFFFF } = false ∧
    (up.blk c0).mine opPrepare { astray with dst := some 0xFFFFFFFF } = true := by decide +kernel

theorem met_reads : (up.blk c0).fresh opRead plain = true ∧ plain.other = none ∧ up.leaf.b.fresh opSegRead (askLeaf (item K.seriesTableStandby 0 (natLe 8 0))) = true ∧ up.readsOut c0 plain (item K.servoStateA 0 []) = some (2, .num 0) ∧
    24 + (1 + 7) / 8 * 8 ≤ wayLimit .host ∧
    up.readsOut .leaf (askLeaf (item K.seriesTableStandby 0 (natLe 8 0))) (item K.seriesTableStandby 0 (natLe 8 0)) = some (13, .bytes []) ∧
    (item K.seriesTableStandby 0 (natLe 8 0)).data.length = 8 := by decide +kernel

/-- WRITE of a plain object, and of one with a stored copy. -/
def selItem : Item := item K.serStateSelect 4 (natLe 4 5)
def guardItem : Item := item K.guardFrames 2 [4]

theorem met_writes : (up.blk c0).fresh opWrite (ask selItem) = true ∧ up.accepts c0 (ask selItem) false [] selItem = some (.num 5) ∧
    clsOf false (itemKey selItem) ≠ .s ∧ (up.blk c0).fresh opWrite (ask guardItem) = true ∧
    up.accepts c0 (ask guardItem) false [] guardItem = some (.num 4) ∧ clsOf false (itemKey guardItem) = .s ∧
    isTray (itemKey guardItem) = false := by decide +kernel

/-- A segment of the standby series table of 16 bytes, the whole of it or half. -/
def segItem (n : Nat) : Item := item K.seriesTableStandby 13 (natLe 4 0 ++ natLe 4 16 ++ List.replicate n 0)

theorem met_segments : up.leaf.b.fresh opSegWrite (askLeaf (segItem 16)) = true ∧ itemKey (segItem 16) = K.seriesTableStandby ∧
    (segItem 16).type = 13 ∧ (segItem 16).length.toNat = (segItem 16).data.length ∧ 2 ≤ up.leaf.b.effRole (askLeaf (segItem 16)) ∧
    up.leaf.b.phase = .run ∧ up.leaf.loadStatus K.seriesTableStandby = stOk ∧ (List.replicate 8 (0 : Byte)).length < 16 ∧
    (segItem 8).data = natLe 4 0 ++ natLe 4 16 ++ List.replicate 8 0 := by decide +kernel

/-- A request that continues transaction 7, and channel 0 with that transaction open. -/
def inTxn (is : List Item) (body : List Byte) : Req :=
  let n := 16 + body.length + (is.map (fun i => 8 + (i.data.length + 7) / 8 * 8)).sum
  { ask guardItem with txn := 7, items := is, count := BitVec.ofNat 16 is.length, body := body,
                       env := { version := 1, kind := 1, length := BitVec.ofNat 16 n, carried := n } }
def txn7 : Txn := Txn.fresh 0x20000000 7 3
def opened : State := chanBlk up (fun b => { b with txns := [txn7] })

/-- The same, when the time in which it may stay open has passed. -/
def stale : State := chanBlk opened (fun b => b.setNum K.frameNow (3 + b.num K.txnOpenTimeout))

theorem met_transactions : (up.blk c0).fresh opTxnOpen (inTxn [] []) = true ∧ 2 ≤ (up.blk c0).effRole (inTxn [] []) ∧
    (up.blk c0).phase ≠ .failed ∧ (up.blk c0).phase ≠ .off ∧
    (up.blk c0).txns.length < (up.blk c0).txnLimit ∧ (up.blk c0).txnOf 0x20000000 1 = none ∧
    (opened.blk c0).txnOf ((opened.blk c0).srcOf (inTxn [guardItem] [])) 7 = some txn7 ∧
    opened.accepts c0 (inTxn [guardItem] []) true [] guardItem = some (.num 4) ∧
    (inTxn [] (natLe 8 0)).body.length = 8 ∧ plainWrites false txn7.items = true ∧ (opened.blk c0).commitStatus 5 [] = stOk ∧
    (opened.blk c0).fresh opTxnStage (inTxn [guardItem] []) = true ∧ (opened.blk c0).fresh opTxnCommit (inTxn [] (natLe 8 0)) = true ∧
    (opened.blk c0).fresh opTxnAbort (inTxn [] []) = true ∧ (opened.blk c0).fresh opTxnStatus (inTxn [] []) = true ∧
    (stale.blk c0).live = true ∧ txn7.last + (stale.blk c0).num K.txnOpenTimeout ≤ (stale.blk c0).now := by decide +kernel

/-- Channel 0 with as many transactions as it may have. -/
def crowded : State := chanBlk up (fun b => { b with txns := List.replicate 64 txn7 })

theorem met_txnLimit : (crowded.blk c0).phase ≠ .failed ∧ (crowded.blk c0).phase ≠ .off ∧
    (crowded.blk c0).txnLimit ≤ (crowded.blk c0).txns.length := by decide +kernel

/-! ### Fleet transactions -/

/-- The body of a fleet transaction on pod 0 for a frame. -/
def fleetBody (apply : Nat) : List Byte := natLe 32 (apply * 2 ^ 192 + 1 * 2 ^ 64 + 0xFFFE * 2 ^ 48)

/-- A PREPARE of guard_frames at channels, and channel 0 as a member of pod 0. -/
def prep : Req := { inTxn [{ guardItem with target := 2 }] (fleetBody 40) with way := .fabric 3, src := 0x10000004, txn := 9 }
def pod0 : State := chanBlk up (fun b => ((b.setNum K.podNumber 0).setNum K.bringupState 8).setNum K.parentStandby 3)

theorem met_prepare : (pod0.blk c0).takesFleet opPrepare prep = true ∧ (pod0.blk c0).fleetOf prep.txn = none ∧
    (pod0.blk c0).inScope (parseFleet prep.body) = true ∧ pod0.prepares c0 prep = some [(K.guardFrames, .num 4)] ∧
    (pod0.blk c0).now < (parseFleet prep.body).apply ∧ (parseFleet prep.body).apply ≤ (pod0.blk c0).now + 1048576 ∧
    (pod0.blk c0).conflict (parseFleet prep.body).apply [K.guardFrames] = false ∧ 8 ≤ (pod0.blk c0).num K.bringupState := by
  decide +kernel

/-- What channel 0 holds of that transaction. -/
def rec9 (ws : List Wr) : FleetRec :=
  { seq := 9, body := parseFleet prep.body, items := prep.items, staged := ws, inScope := true, prepared := true, holds := true, silent := false,
    token := none, committed := false, applied := false, resolved := false, compensated := false, compAt := 0 }
def holding (r : FleetRec) : State := chanBlk pod0 (fun b => { b with fleet := [r] })

/-- The token for it. -/
def token (n : Nat) : Req := { inTxn [] (List.replicate n 0) with way := .fabric 3, src := 0x10000004, txn := 9 }

/-- The answer of a standby parent that knows an ABORT_TOKEN. -/
def aborting : Resp :=
  { peer := 0x10000003, opcode := BitVec.ofNat 8 opTokenQuery, status := 0, seq := 1, txn := 9, items := [], body := natLe 16 opAbortToken,
    env := head 1 }

theorem met_tokens : ((holding (rec9 [])).blk c0).fleetOf (token 8).txn = some (rec9 []) ∧
    (rec9 []).prepared = true ∧ (rec9 []).holds = true ∧ (rec9 []).committed = false ∧ (rec9 []).token = none ∧ (rec9 []).resolved = false ∧
    ((holding (rec9 [])).blk c0).pastDeadline (rec9 []).body = false ∧ ((holding (rec9 [])).blk c0).takesFleet opCommitToken (token 8) = true ∧
    ((holding (rec9 [])).blk c0).takesFleet opAbortToken (token 0) = true ∧ plainWrites false (rec9 []).staged = true ∧
    (((holding (rec9 [])).blk c0).mapFleet 9 (fun x => { x with holds := false })).commitStatus 40 [] = stOk ∧
    ((holding (rec9 [])).blk c0).live = true ∧ ((holding (rec9 [])).blk c0).phase ≠ .retained ∧ envTaken aborting.env 1 = true ∧
    ((holding (rec9 [])).blk c0).reaches 0 (aborting.dst.getD ((holding (rec9 [])).blk c0).addr) = true ∧
    leAt aborting.body 0 1 = opAbortToken ∧ ((holding (rec9 [])).blk c0).fresh opTokenQuery (token 0) = true := by decide +kernel

/-- The guard frame of that transaction, and its deadline frame. -/
def at_ (k : Nat) : State := chanBlk (holding (rec9 [])) (fun b => b.setNum K.frameNow k)

theorem met_missing : ((at_ 0).blk c0).works = true ∧ ((at_ 0).blk c0).fleetOf 9 = some (rec9 []) ∧
    (rec9 []).holds = true ∧ (rec9 []).token = none ∧ ((at_ 0).blk c0).num K.parentStandby ≠ 0xFFFF ∧
    ((at_ (39 - ((at_ 0).blk c0).guardOf (rec9 []).body)).blk c0).now + ((at_ 0).blk c0).guardOf (rec9 []).body + 1 = (rec9 []).body.apply ∧
    (rec9 []).body.apply ≤ ((at_ (40 - ((at_ 0).blk c0).guardOf (rec9 []).body)).blk c0).now + ((at_ 0).blk c0).guardOf (rec9 []).body ∧
    (rec9 []).silent = false := by decide +kernel

/-- The transaction applied, with its undo record or past its horizon. -/
def applied9 : FleetRec := { rec9 [] with holds := false, token := some true, committed := true, applied := true }
def undone : State := chanBlk (holding applied9) (fun b => { b with undo := [{ seq := 9, apply := 40, prior := [] }] })

theorem met_compensate : ((holding (rec9 [])).blk c0).takesFleet opCompensate (token 8) = true ∧
    (pod0.blk c0).takesFleet opCompensate (token 8) = true ∧ (pod0.blk c0).fleetOf (token 8).txn = none ∧
    ((holding (rec9 [])).blk c0).fleetOf (token 8).txn = some (rec9 []) ∧ (rec9 []).applied = false ∧
    (rec9 []).committed = false ∧ (rec9 []).compensated = false ∧ (rec9 []).compAt = 0 ∧ (undone.blk c0).fleetOf (token 8).txn = some applied9 ∧
    (undone.blk c0).undo.any (fun u => u.seq == (token 8).txn) = true ∧
    ((holding applied9).blk c0).undo.any (fun u => u.seq == (token 8).txn) = false ∧ applied9.inScope = true ∧ applied9.silent = false ∧
    ((holding { rec9 [] with committed := true }).blk c0).fleetOf (token 8).txn = some { rec9 [] with committed := true } := by decide +kernel

/-- Channel 0 as the fleet root, and with a transaction in flight. -/
def rootUp : State := chanBlk pod0 (fun b => b.setNum K.treeRole 2)
def fleetReq : Req := { inTxn [{ guardItem with target := 2 }] (fleetBody 40) with txn := 0 }
def tx9 (d : Option Bool) (comp expected : Nat) : FleetTx :=
  { seq := 9, body := parseFleet (fleetBody 40), items := [], way := .host, src := 0, num := 1, accepted := 4, expected := expected,
    shares := [], decided := d, compAt := comp, sentAt := 0, mapPrior := [], counted := false }
def flying (k : Nat) (x : FleetTx) : State := chanOf (chanBlk rootUp (fun b => b.setNum K.frameNow k)) (fun c => { c with root := [x] })

theorem met_fleetRequest : (up.blk c0).fresh opFleetRequest fleetReq = true ∧ fleetReq.body.length = 32 ∧ 2 ≤ (up.blk c0).effRole fleetReq ∧
    (up.chan 0).b.num K.treeRole ≠ 2 ∧ (rootUp.blk c0).fresh opFleetRequest fleetReq = true ∧
    (rootUp.chan 0).fleetStatus (parseFleet fleetReq.body) = stOk ∧ (rootUp.chan 0).b.works = true ∧
    up.leaf.b.fresh opFleetRequest { fleetReq with way := .fabric 3, src := 0x10000000 } = true ∧ 2 ≤ (rootUp.blk c0).effRole fleetReq ∧
    2 ≤ up.leaf.b.effRole { fleetReq with way := .fabric 3, src := 0x10000000 } := by decide +kernel

theorem met_root : ((flying 39 (tx9 none 0 1)).chan 0).b.works = true ∧
    ((flying 39 (tx9 none 0 1)).chan 0).root.find? (fun y => y.seq == (tx9 none 0 1).seq) = some (tx9 none 0 1) ∧
    ((flying 39 (tx9 none 0 1)).chan 0).b.lastDecided (tx9 none 0 1).body 0 = true ∧
    (tx9 (some true) 0 1).body.apply + 2 ≤ ((flying 42 (tx9 (some true) 0 1)).chan 0).b.now +
      ((flying 42 (tx9 (some true) 0 1)).chan 0).b.guardOf (tx9 (some true) 0 1).body ∧
    ((flying 42 (tx9 (some true) 0 1)).chan 0).complete (tx9 (some true) 0 1) 2 = false ∧
    ((flying 42 (tx9 (some true) 0 0)).chan 0).complete (tx9 (some true) 0 0) 2 = true ∧
    (tx9 (some true) 50 1).sentAt + ((flying 60 (tx9 (some true) 50 1)).chan 0).b.num K.compensateRetry ≤
      ((flying 60 (tx9 (some true) 50 1)).chan 0).b.now ∧
    ((flying 60 (tx9 (some true) 50 1)).chan 0).complete (tx9 (some true) 50 1) 3 = false := by decide +kernel

/-! ### The leaf's ports -/

/-- A beat of a kind from a core: its header fields above bit 448 and its payload, written out from Tables 4.1 and 4.2. -/
def beat (kind core count base word : Nat) (payload : Nat) : BitVec 512 :=
  BitVec.ofNat 512 (kind * 2 ^ 508 + core * 2 ^ 498 + count * 2 ^ 488 + base * 2 ^ 480 + word * 2 ^ 448 + payload)

/-- The intake buffer holds 256 beats at the opening. -/
def choked : State := leafOf up (fun l => { l with smp := { l.smp with intake := 256 } })

theorem met_leafUnits : Instr.lostTxnRetry.unitOfLeaf = true ∧ up.leaf.handed = true ∧
    (Instr.traceEvent (beat 5 0 0 0 0 0) 0).beat? = some (beat 5 0 0 0 0 0, 0) ∧ up.leaf.portOpen = true ∧
    256 ≤ choked.leaf.smp.waiting (0 : BitVec 20).toNat ∧ up.leaf.smp.waiting (0 : BitVec 20).toNat < 256 ∧
    up.leaf.b.beatBad (beat 5 0 0 0 0 0).toNat = true := by decide +kernel

/-- A record of the last two counters of core 3, and a barrier event of it. -/
def record : BitVec 512 := beat 1 3 2 62 0 (7 * 2 ^ 384 + 8 * 2 ^ 320)
def barrier : BitVec 512 := beat 2 3 0 0 77 0

theorem met_counters : up.leaf.admits record.toNat 1 0 = true ∧ 1 < beatCount record.toNat ∧
    beatBase record.toNat + beatCount record.toNat = 64 := by decide +kernel

/-- The barrier recorder takes no more records in this frame. -/
def full : State := leafBlk up (fun b => b.setNum K.barrierRecordsMax 0)

theorem met_barriers : up.leaf.admits barrier.toNat 2 1000 = true ∧ bit (up.leaf.b.num (coreKey (beatCore barrier.toNat))) 2 = false ∧
    up.leaf.smp.barriers.length < up.leaf.b.num K.barrierRecordsMax ∧ full.leaf.admits barrier.toNat 2 1000 = true ∧
    full.leaf.b.num K.barrierRecordsMax ≤ full.leaf.smp.barriers.length := by decide +kernel

/-- Core 5 with a fence command, its acknowledgement and a change that waits for it. -/
def fenced (cmd ack : Nat) (pend : List Nat) : State :=
  leafOf up (fun l => { l with b := l.b.setNum (coreKey 5) cmd, fen := { l.fen with ack := ack, pending := pend } })

theorem met_fences : (fenced 1 0 [5]).leaf.b.works = true ∧ (fenced 1 0 [5]).leaf.coreOut 5 = false ∧
    (fenced 1 0 [5]).leaf.b.num K.powerStateNow ≠ 2 ∧ (fenced 1 0 [5]).leaf.fen.ack.testBit 5 = !true ∧
    5 ∈ (fenced 1 0 [5]).leaf.fen.pending ∧ bit ((fenced 1 0 [5]).leaf.b.num (coreKey 5)) 0 = true ∧
    (fenced 1 32 []).leaf.fen.ack.testBit 5 = !false ∧ bit ((fenced 1 32 []).leaf.b.num (coreKey 5)) 0 = true ∧
    bit ((fenced 0 0 []).leaf.b.num (coreKey 5)) 0 = false ∧ (fenced 0 0 []).leaf.fen.ack.testBit 5 = !true := by decide +kernel

/-- Core 5 has been found lost for both of its causes; an enforcing transaction waits to be tried again. -/
def found : LostCore := { core := 5, silentFrom := some 1, failFrame := some 2 }
def lost : State := leafOf up (fun l => { l with fen := { l.fen with found := [found] } })
def retrying : State := leafOf up (fun l => { l with fen := { l.fen with retry := [(3, 5, [5])] } })

theorem met_lost : lost.leaf.b.works = true ∧ lost.leaf.b.num K.fenceAuthority ≠ 1 ∧
    lost.leaf.fen.found.find? (fun y => y.core == (5 : BitVec 10).toNat) = some found ∧ retrying.leaf.fen.retry = [(3, 5, [5])] ∧
    3 < retrying.leaf.b.now ∧ retrying.leaf.b.txns.length < 16 ∧ retrying.leaf.b.isLeaf = true ∧
    retrying.leaf.b.commitStatus 6 ((lostWrites [5]).map (·.1)) = stOk := by decide +kernel

/-- A leaf whose first core belongs to region 3. -/
def mapped : State := leafBlk up (fun b => b.setBytes K.regionMap (3 :: List.replicate 1023 0xFF))

theorem met_readings : mapped.leaf.b.works = true ∧ mapped.leaf.b.num K.powerStateNow ≠ 2 ∧
    (mapped.leaf.b.bytes K.regionMap).any (fun x => x.toNat == (3 : BitVec 5).toNat) = true := by decide +kernel

/-- The region port with a command of region 3 that waits, and with it presented. -/
def regionOf (f : Regions → Regions) : State := leafOf mapped (fun l => { l with reg := f l.reg })

theorem met_requests : (regionOf (fun r => { r with pending := 8 })).leaf.b.works = true ∧
    (regionOf (fun r => { r with pending := 8 })).leaf.reg.presented = none ∧
    nextRegion (regionOf (fun r => { r with pending := 8 })).leaf.reg.pending 31 = some 3 ∧
    (regionOf (fun r => { r with presented := some 3 })).leaf.reg.presented = some 3 := by decide +kernel

/-- Region 3 mismatches, and settles until now. -/
def judged : State := regionOf (fun r => { r with mismatch := [(3, 1000)], settle := [(3, 5)], closeOn := 8 })

theorem met_judged_regions : judged.leaf.b.num K.regionSettle < mget (fun _ => 0) judged.leaf.reg.mismatch 3 ∧
    judged.leaf.reg.raised.testBit 3 = false ∧ (regionOf (fun r => { r with raised := 8 })).leaf.reg.raised.testBit 3 = true ∧
    mfind judged.leaf.reg.settle 3 = some 5 ∧ 5 ≤ judged.leaf.b.now + 1 ∧ judged.leaf.reg.closeOn.testBit 3 = true := by decide +kernel

/-- A leaf with one tensor in its standby table and none in the active one, and with a subscriber of its routing bitmaps. -/
def tabled : State := leafBlk up (fun b => b.setNum K.routingSubscriber 2)

theorem met_tables : up.passes .leaf K.seriesSwap (.num 1) = true ∧ up.passes .leaf K.tensorSwap (.num 1) = true ∧
    tabled.passes .leaf K.routingNotify (.bytes (List.replicate 128 1)) = true ∧ leNat (List.replicate 128 (1 : Byte)) ≠ 0 ∧
    tabled.leaf.b.num K.routingSubscriber ≠ 0xFFFF ∧ tabled.chanOf tabled.leaf.b.inUse = none := by decide +kernel

/-! ### Touchstone -/

/-- A checksum beat of core 2 whose entry 0 has residual 5 and whose other entries are clean, and one of format 1 with an exponent. -/
def checksum : BitVec 512 := beat 3 2 0x80 0x80 0 (5 * 2 ^ 422)
def crooked : BitVec 512 := beat 3 2 0 1 (2 ^ 31) 0

/-- A leaf that samples one beat in 4, with a touchstone queue and selection counts. -/
def sampling (q : List TsItem) (sel : NMap Nat) : State :=
  leafOf up (fun l => { l with b := l.b.setNum K.sampleRatio 4, ts := { l.ts with queue := q, sel := sel, base := 4 } })

theorem met_checksums : (sampling [] []).leaf.admits checksum.toNat 3 9 = true ∧
    (sampling [] []).leaf.smp.dark.testBit (beatCore checksum.toNat) = false ∧ (sampling [] []).leaf.b.num K.sampleRatio ≠ 0 ∧
    mget (fun k => k % 4) (sampling [] []).leaf.ts.sel 2 ≠ 0 ∧ mget (fun k => k % 4) (sampling [] [(2, 0)]).leaf.ts.sel 2 = 0 ∧
    (sampling (List.replicate 512 (.beat 4 0 0 false)) [(2, 0)]).leaf.ts.queue.length = 512 := by decide +kernel

theorem met_ratio : up.passes .leaf K.sampleRatio (.num (4 : BitVec 16).toNat) = true ∧ (4 : BitVec 16).toNat ≠ 0 ∧
    up.passes .leaf K.sampleRatio (.num (0 : BitVec 16).toNat) = true := by decide +kernel

/-- A leaf with one beat to decide. -/
def deciding (d : BitVec 512) : State := sampling [.beat 4 9 d.toNat false] []

theorem met_decided : (deciding checksum).leaf.b.works = true ∧ (deciding crooked).leaf.ts.queue = .beat 4 9 crooked.toNat false :: [] ∧
    tsMalformed crooked.toNat = true ∧ tsMalformed checksum.toNat = false := by decide +kernel

theorem met_relearn : up.passes .leaf K.relearn (.bytes (4 :: List.replicate 127 0)) = true ∧ up.leaf.ts.queue = [] ∧
    (leNat ((4 : Byte) :: List.replicate 127 0)).testBit 2 = true ∧ 2 < up.leaf.b.num K.coreCount := by decide +kernel

/-- A leaf whose packet of frame 3 waits for its touchstone section, with a beat of the frame and one of the next undecided. -/
def draft3 : Draft :=
  { frame := 3, tag := 0, part := 0xFFFF, aligned := true, heartbeat := false, tableEpoch := 0, values := [], barrier := [], assay := [], acks := [] }
def sealing : State := leafOf (sampling [.beat 3 9 checksum.toNat false, .beat 4 0 checksum.toNat false] []) (fun l => { l with draft := some draft3 })

theorem met_seal : sealing.leaf.b.works = true ∧ sealing.leaf.draft = some draft3 ∧ draft3.frame = 3 := by decide +kernel

/-! ### Assay in the leaf -/

/-- A weight beat of tensor 5, and a leaf that holds beats of it and knows it, at an epoch. -/
def wbeat (epoch : Nat) : WBeat := { frame := 4, data := 2 ^ 32 * 6 + 26, tensor := 5, word := 0, count := 2, epoch := epoch }
def entry5 : Nat := 3 * 2 ^ 192 + 100 * 2 ^ 160 + 50 * 2 ^ 128 + 5 * 2 ^ 108
def snooping (ws : List WBeat) : State := leafOf up (fun l => { l with asy := { l.asy with snoop := ws } })
def digesting (ws : List WBeat) : State :=
  leafOf (snooping ws) (fun l =>
    { l with b := l.b.setBytes K.tensorTableActive (natLe 32 entry5),
             asy := l.asy.setTensor 5 { Tensor.lateState with late := false, epoch := 7, v := 27, n := 1 } })

theorem met_snooped : up.leaf.b.works = true ∧ up.leaf.b.frameIsOpen = true ∧ (2 : BitVec 6) ≠ 0 ∧ up.leaf.b.num K.powerStateNow ≠ 2 ∧
    up.leaf.asy.snoop.length < 256 ∧ 256 ≤ (snooping (List.replicate 256 (wbeat 7))).leaf.asy.snoop.length := by decide +kernel

theorem met_digested : (snooping [wbeat 7]).leaf.b.tensorOf 5 = none ∧ (digesting [wbeat 7]).leaf.b.tensorOf 5 = some (tensorEntry entry5) ∧
    2 ≤ (tensorEntry entry5).length ∧ ((digesting [wbeat 7]).leaf.asy.tensor 5).late = false ∧ 32768 ≤ epochAhead 6 7 ∧
    epochAhead (wbeat 7).epoch 7 = 0 ∧ 1 + 2 < (tensorEntry entry5).passWords := by decide +kernel

/-! ### Trace -/

/-- A leaf with its trace unit in a state, authorised, with a stop delay, and with an item in the intake. -/
def traced (st : Nat) (f : Trace → Trace) : State :=
  leafOf up (fun l => { l with b := ((l.b.setNum K.traceState st).setNum K.traceAuthorised 1).setNum K.stopDelayNs 100, tr := f l.tr })
def traceItem : TrItem := { time := 50, steps := 0, dom := 0, kind := .event 2 9 1 0 0 [] }

theorem met_traceCommands : (traced 0 id).passes .leaf K.traceCommand (.num 1) = true ∧ (traced 1 id).passes .leaf K.traceCommand (.num 2) = true ∧
    (traced 1 id).leaf.trState = trArmed ∧ (traced 1 id).leaf.b.num K.stopDelayNs ≠ 0 ∧
    (traced 2 id).passes .leaf K.traceCommand (.num 3) = true ∧ (traced 0 id).passes .leaf K.traceCommand (.num 4) = true ∧
    (traced 1 id).passes .leaf K.traceAuthorised (.num 0) = true ∧ (traced 1 id).leaf.b.takes K.traceCommand = true ∧
    (traced 1 id).leaf.trState ≠ trIdle ∧ (traced 1 id).leaf.b.isLeaf = true := by decide +kernel

/-- A trace event of core 2, privilege 1, code 9; and the leaf that excludes that privilege. -/
def event : BitVec 512 := beat 4 2 (1 * 32) 9 77 0
def excluding : State := leafBlk (traced 1 id) (fun b => b.setNum K.privilegeExclude 2)

theorem met_traceEvents : up.leaf.admits event.toNat 4 7 = true ∧ up.leaf.capturing = false ∧ excluding.leaf.admits event.toNat 4 7 = true ∧
    excluding.leaf.capturing = true ∧ bit (excluding.leaf.b.num K.privilegeExclude) (bits event.toNat 493 3) = true ∧
    bit ((traced 1 id).leaf.b.num K.privilegeExclude) (bits event.toNat 493 3) = false ∧ (traced 1 id).leaf.tr.queue.length < 512 ∧
    512 ≤ (traced 1 (fun t => { t with queue := List.replicate 512 traceItem })).leaf.tr.queue.length ∧
    (traced 1 id).leaf.b.trigMatch (beatCore event.toNat) (bits event.toNat 480 8) = false ∧ (traced 1 id).leaf.trState = trArmed ∧
    (leafBlk (traced 1 id) (fun b => (((b.setNum K.triggerCode 9).setNum K.triggerCodeMask 0xFF).setNum K.triggerCore 2).setNum K.triggerEnable 1)).leaf.b.trigMatch
      (beatCore event.toNat) (bits event.toNat 480 8) = true ∧ (traced 1 id).leaf.b.num K.stopDelayNs ≠ 0 := by decide +kernel

theorem met_writer : (traced 1 id).leaf.b.works = true ∧ (traced 1 id).leaf.b.num K.powerStateNow < 2 ∧
    (traced 1 (fun t => { t with queue := [traceItem] })).leaf.tr.queue = traceItem :: [] ∧
    (traced 2 (fun t => { t with stopAt := some 60 })).leaf.tr.stopAt = some 60 ∧ (traced 2 id).leaf.trState = trTriggered ∧
    (traced 1 (fun t => { t with stall := true })).leaf.tr.stall = true := by decide +kernel

/-! ### The reduction tree -/

/-- Channel 0 with an open key of group 3, compared two frames after it opened. -/
def key3 : AKey := { group := 3, tensor := 5, epoch := 7, opened := 0, sums := [], ready := none }
def keyed : State :=
  chanOf up (fun c => { c with b := c.b.setNum (K.groupEntry + 3) (4 * 2 ^ 32), asy := { c.asy with keys := [key3] } })

theorem met_keys : (keyed.chan 0).b.works = true ∧
    (keyed.chan 0).asy.keys.find? (fun x => x.group == (3 : Byte).toNat && x.tensor == (5 : BitVec 20).toNat && x.epoch == (7 : BitVec 16).toNat) =
      some key3 ∧ key3.opened + ((keyed.chan 0).group (3 : Byte).toNat).2.2 ≤ (keyed.chan 0).b.now ∧
    keyed.passes c0 (K.groupEntry + (3 : Byte).toNat) (.num (4 * 2 ^ 32 + 1 * 2 ^ 8 + 4 * 2 ^ 16 : Word64).toNat) = true := by decide +kernel

/-- The leaf of position 2 of channel 0 as a child with credits, and channel 0 with some children. -/
def leaf2 (held : Nat) : Child := { Child.fresh 2 .leaf 2 1 with member := true, attached := true, held := held }
def parentOf (xs : List Child) : State := chanOf up (fun c => { c with tree := { c.tree with children := xs } })

/-- The head of a data fragment. -/
def frag (total : BitVec 24) : FragHdr := { frame := 3, offset := 0, total := total, typ := 0, replay := false, credits := 0 }

theorem met_fragments : envTaken (frag 128).env 3 = true ∧ envTaken { (frag 128).env with carried := 9 } 3 = false ∧ (frag 127).total.toNat < 128 ∧ ¬ ((frag 128).typ.toNat ≠ 0 ∨ (frag 128).total.toNat < 128 ∨ 1048576 < (frag 128).total.toNat ∨
      List.replicate 100 (1 : Byte) = [] ∨ 8176 < (List.replicate 100 (1 : Byte)).length ∨
      (frag 128).total.toNat < (frag 128).offset.toNat + (List.replicate 100 (1 : Byte)).length) ∧
    ((parentOf []).chan 0).tree.child 2 = none ∧ ((parentOf [leaf2 0]).chan 0).tree.child 2 = some (leaf2 0) ∧ (leaf2 0).held = 0 ∧
    ((parentOf [leaf2 9]).chan 0).tree.child 2 = some (leaf2 9) ∧ 0 < (leaf2 9).held ∧ (leaf2 9).parts = [] ∧ 100 < (frag 128).total.toNat := by
  decide +kernel

/-- A packet of the journal, and channel 0 below channel 8, or 9, as a block in use of one parent and with a link. -/
def entry (f : Nat) : JEntry :=
  { frame := f, dst := none, data := List.replicate 200 0, sets := [], pending := true, replay := false, again := false, held := false, next := 0 }
def childOf (inUse : Nat) (f : Machine.Link → Machine.Link) : State :=
  chanOf up (fun c => { c with b :=
    { ((((c.b.setNum K.parentActive 8).setNum K.parentStandby 9).setNum K.parentInUse inUse).setNum K.bringupState 8) with
      journal := [entry 2, entry 3], link := f { Link.reset with attached := true, credits := 5 } } })

theorem met_links : ((childOf 8 id).blk c0).works = true ∧
    ((childOf 8 id).blk c0).journal.find? ((childOf 8 id).blk c0).maySend = some (entry 2) ∧ (entry 2).dst = none ∧
    ((childOf 8 id).blk c0).num K.parentActive ≠ noChan ∧ ((childOf 8 id).blk c0).inUse = ((childOf 8 id).blk c0).num K.parentActive ∧
    ((childOf 8 id).blk c0).link.cutOff = false ∧ ((childOf 8 id).blk c0).link.attached = true ∧
    ((childOf 8 id).blk c0).link.answerers = [] ∧ envTaken (frag 128).env 3 = true ∧
    envTaken { (frag 128).env with version := 2 } 3 = false ∧ (frag 128).frame ≠ 0xFFFFFFFFFFFFFFFF ∧
    ((childOf 8 id).chan 0).b.num K.bringupState ≠ 7 ∧ ((childOf 8 id).blk c0).num K.parentStandby = 9 ∧
    ((childOf 8 (fun l => { l with silent := 99 })).blk c0).num K.parentLossFrames ≤ 99 ∧
    ((childOf 9 (fun l => { l with homeRun := 65535 })).blk c0).num K.returnFrames ≤ 65535 ∧
    ((childOf 9 id).blk c0).inUse ≠ ((childOf 9 id).blk c0).num K.parentActive := by decide +kernel

theorem met_absence : ((parentOf [{ leaf2 9 with missed := 2 }]).chan 0).b.works = true ∧
    ((parentOf [{ leaf2 9 with missed := 2 }]).chan 0).tree.children.find?
      (fun y => y.kind == .leaf && y.pos == (2 : BitVec 6).toNat && y.member) = some { leaf2 9 with missed := 2 } ∧
    (leaf2 9).absentMade = false ∧ ((parentOf [{ leaf2 9 with missed := 2 }]).chan 0).faultIn = [] ∧
    ((parentOf [{ leaf2 9 with missed := 2, absentMade := true }]).chan 0).tree.children.find?
      (fun y => y.kind == .leaf && y.pos == (2 : BitVec 6).toNat && y.member) = some { leaf2 9 with missed := 2, absentMade := true } := by
  decide +kernel

/-- Channel 0 as a member below channel 8, with children and asks; a leaf of channel 1 and one of channel 2. -/
def adopting (xs : List Child) (ks : List Ask) : State :=
  chanOf (childOf 8 id) (fun c => { c with tree := { c.tree with children := xs, asks := ks } })
def adopted2 : Child := { Child.fresh 64 .leaf 24 1 with member := true, adopted := true }

theorem met_adoption : ((adopting [] []).chan 0).member = true ∧ ((adopting [] []).chan 0).roleAsk = none ∧
    bits (32 : Word).toNat 28 4 = 0 ∧ (32 : Word).toNat % 2 ^ 18 / 32 ≠ ((adopting [] []).chan 0).id % 8192 ∧
    adopted2.adopted = true ∧ adopted2.leafId / 32 ≠ (32 : Word).toNat % 2 ^ 18 / 32 ∧ ((adopting [] []).chan 0).tree.child 32 = none ∧
    (1 : BitVec 16).toNat ≠ noChan ∧ chanAddr (1 : BitVec 16).toNat ≠ ((adopting [] []).chan 0).b.addr ∧
    chanAddr (1 : BitVec 16).toNat ≠ 0xFFFFFFFF ∧ (0xFFFF : BitVec 16).toNat = noChan := by decide +kernel

theorem met_queries : ((adopting [] []).chan 0).b.addr = chanAddr 0 ∧ bits (2 : Word).toNat 28 4 = 0 ∧
    chanAddr 1 ≠ ((adopting [] []).chan 0).b.addr ∧ ((adopting [] []).chan 0).tree.child (chanAddr 1) = none ∧
    ((adopting [] []).chan 0).b.inUse ≠ noChan := by decide +kernel

/-- A query for leaf 32 of channel 1 that is under way. -/
def ask32 : Ask := { child := 32, left := chanAddr 1, onward := false, frame := 4, own := false }
def joining32 : State := adopting [Child.fresh 32 .leaf 24 1] [ask32]

theorem met_ends : (joining32.chan 0).tree.asks = [ask32] ∧ (joining32.chan 0).tree.child ask32.child = some (Child.fresh 32 .leaf 24 1) ∧
    ask32.onward = false ∧
    [({ node := 32, base := 0, bits := 0 } : RelEntry)].any (fun e => ((joining32.chan 0).tree.leavesUnder ask32.child ask32.child).contains e.node.toNat) = true := by
  decide +kernel

/-! ### Tables of a channel -/

/-- Channel 0 with a standby aggregate table. -/
def aggregating : State := chanBlk up (fun b => b.setBytes K.aggTableStandby (List.replicate 8 0))

/-- Channel 0 with one channel series, whose standby descriptor differs in its parameter set, or in its slot. -/
def serial (act sby : Nat) : State :=
  chanBlk up (fun b => ((b.setBytes K.serSeriesTableActive (natLe 8 act)).setBytes K.serSeriesTableStandby (natLe 8 sby)).setBytes
    K.aggTableActive (natLe 8 (2 ^ 11 + 2 ^ 6) ++ natLe 8 (2 ^ 32 + 2 ^ 11 + 2 ^ 6)))
def desc0 (n : Nat) : ChDesc := ((chTable (natLe 8 n))[0]?).getD (chDesc 0)

theorem met_descriptors_kept : (chTable (natLe 8 0))[0]? = some (desc0 0) ∧ (serial 0 (2 ^ 41)).passes c0 K.serSeriesSwap (.num 1) = true ∧
    (serial 0 1).passes c0 K.serSeriesSwap (.num 1) = true ∧
    ({ desc0 0 with param := (desc0 (2 ^ 41)).param, handoff := (desc0 (2 ^ 41)).handoff } = desc0 (2 ^ 41)) ∧
    ¬ ({ desc0 0 with param := (desc0 1).param, handoff := (desc0 1).handoff } = desc0 1) := by decide +kernel

theorem met_channelTables : up.passes c0 K.serSeriesSwap (.num 1) = true ∧ up.passes c0 K.paramSets (.bytes paramSetsReset) = true ∧
    up.passes c0 K.aggSwap (.num 1) = true := by decide +kernel

/-! ### Images and engines -/

/-- Channel 0 with a loaded standby image of each kind; and with a transaction that stores one. -/
def loaded : State := chanBlk up (fun b => (b.setNum K.standbyState 2).setNum K.rulStandbyState 2)
def stores (i : Img) : Txn := { txn7 with images := [(imageKeys i).1], storing := 1, apply := 6 }
def storing (i : Img) : State := chanBlk up (fun b => { b with txns := [stores i] })

theorem met_images : (loaded.chan 0).b.works = true ∧ (loaded.chan 0).b.num K.standbyState = 2 ∧ (loaded.chan 0).b.num K.rulStandbyState = 2 ∧
    ((storing .rule).chan 0).b.txns = [stores .rule] ∧ (stores .rule).images = [(imageKeys .rule).1] ∧ (stores .rule).storing = 1 ∧
    (stores .rule).storeFailed = false ∧ (stores .rule).fleet = false ∧ ((storing .rule).chan 0).b.execs = [] ∧ (storing .rule).sh.currents = [] ∧
    ({ ((storing .rule).chan 0).b with txns := [] } : Blk).commitStatus 6 [] = stOk := by decide +kernel

/-- Channel 0 whose standby images are ready. -/
def ready : State := chanBlk up (fun b =>
  let img := natLe 128 (b.num K.framePeriodActive * 2 ^ 880)
  (((b.setNum K.standbyState 3).setNum K.rulStandbyState 3).setBytes K.standbyImage img).setBytes K.rulStandbyImage img)

theorem met_swaps : ready.passes c0 K.imageSwap (.num 1) = true ∧ ready.passes c0 K.rulImageSwap (.num 1) = true := by decide +kernel

/-- Channel 0 with a barrier instance that opened in frame 1, its window 2 frames. -/
def inst9 : LInst := { ident := 9, first := 1, recs := [], closed := none }
def barriers : State := chanOf up (fun c => { c with b := c.b.setNum K.barrierWindow 2, lag := { c.lag with insts := [inst9] } })

theorem met_suspects : (barriers.chan 0).lag.insts.find? (fun x => x.ident == (9 : Word).toNat &&
      decide (x.first + (barriers.chan 0).b.num K.barrierWindow + 1 ≤ (barriers.chan 0).b.now)) = some inst9 ∧
    up.passes c0 K.suspectSet (.bytes (natLe 4 (2 ^ 30 + 49151))) = true ∧ up.passes c0 K.suspectClear (.bytes (natLe 4 (2 ^ 30 + 49151))) = true ∧
    up.passes c0 K.suspectSet (.bytes (natLe 4 (2 ^ 31 + 47))) = true ∧ up.passes c0 K.suspectClear (.bytes (natLe 4 (2 ^ 31 + 47))) = true ∧
    (up.chan 0).faultIn = [] := by decide +kernel

/-- An admitted action on leaf 2, and a channel that holds it. -/
def adm2 : Adm := { rule := 1, subject := 2, kind := 1, unit := 2, swapAt := 0, dst := some 2, apply := 7, items := [(K.sampleRatio, .num 0)], target := 0 }
def admitted : State := chanOf up (fun c => { c with rul := { c.rul with admitted := [adm2] } })

/-- An active rule image of one rule whose subscriber is 2, and channel 0 with it and with a queue of subscriber 2. -/
def ruleImage : List Byte := natLe 128 (1 * 2 ^ 864) ++ natLe 128 (2 * 2 ^ 320)
def subscribed (k : Nat) : State :=
  chanBlk up (fun b => ((b.setBytes K.rulActiveImage ruleImage).setBytes (queueKey (32 + k))
    (natLe 32 (5 * 2 ^ 240 + 3 * 2 ^ 236 + 4096 * 2 ^ 192))).setBytes (subKey 2) (natLe 16 (1 * 2 ^ 80)))
def notice0 : List Byte := List.replicate 48 0

/-- Channel 0 that keeps the subscriber of a notification from its admission. -/
def noted : State := chanOf (subscribed 15) (fun c => { c with rul := { c.rul with notes := [(notice0, 2)] } })

theorem met_actions : (admitted.chan 0).b.works = true ∧ (admitted.chan 0).rul.admitted = [adm2] ∧ adm2.dst = some 2 ∧ adm2.kind ≠ 6 ∧
    (subscribed 15).passes c0 K.notify (.bytes notice0) = true ∧ (((subscribed 15).chan 0).b.bytes K.rulActiveImage = ruleImage ∧ ruleImage ≠ []) ∧
    ((subscribed 15).chan 0).rul.notes.find? (fun p => p.1 == notice0) = none ∧ ((subscribed 15).chan 0).egr.boundary = false ∧
    leAt notice0 15 1 < (rulHdr ruleImage).rules ∧ (ruleAt ruleImage 0).arg1 = 2 ∧
    ((noted.chan 0).rul.notes.find? (fun p => p.1 == notice0)).map (·.2) = some 2 ∧ (((subscribed 15).chan 0).b.queue (16 * 2 + 15)).source = 3 ∧
    (∀ j, j < 15 → (((subscribed 15).chan 0).b.queue (16 * 2 + j)).source ≠ 3) ∧ 0 < (((subscribed 15).chan 0).b.queue 47).weight ∧
    0 < (((subscribed 15).chan 0).b.sub 2).weight ∧ (((subscribed 15).chan 0).egr.queue 47).mode = 0 ∧
    (((subscribed 15).chan 0).egr.queue 47).depth + 48 + notice0.length ≤ (((subscribed 15).chan 0).b.queue 47).limit ∧
    ((subscribed 15).chan 0).egr.held + 48 + notice0.length ≤ poolBytes ∧
    (∀ k, k < 16 → (((chanBlk up (fun b => b.setBytes K.rulActiveImage ruleImage)).chan 0).b.queue (16 * 2 + k)).source ≠ 3) := by decide +kernel

/-- A submitted step 3 with finite values, and one with a loss that is not a number. -/
def step3 (loss : Nat) : List Byte := natLe 16 (3 * 2 ^ 96 + loss * 2 ^ 64 + 0x3F800000 * 2 ^ 32)

theorem met_losses : up.passes c0 K.lossSubmit (.bytes (step3 0x7FC00000)) = true ∧ up.passes c0 K.lossSubmit (.bytes (step3 0x3F800000)) = true ∧
    (step3 0).length = 16 ∧ leAt (natLe 16 0) 12 4 ≤ (up.chan 0).b.num K.lastStep ∧ (up.chan 0).b.isLeaf = false := by decide +kernel

/-! ### Egress and supply -/

/-- Channel 0 with two packets in a queue of subscriber 2, which is active, on port 0. -/
def queued : State :=
  chanOf (subscribed 0) (fun c => { c with
    egr := { c.egr with queues := mset (fun _ => EQueue.reset) [] 32 { EQueue.reset with pkts := [(100, [1]), (200, [2])], tag := 7 },
                        subs := mset (fun _ => ESub.reset) [] 2 { ESub.reset with tag := 5, active := true } } })

/-- A port of channel 0 in a state, and up for some frames. -/
def porting (st up_ : Nat) : State :=
  chanOf queued (fun c => { c with b := c.b.setNum K.port0State st, egr := { c.egr with port0 := { EPort.reset with up := up_ } } })

theorem met_packets : ((porting 0 0).chan 0).b.works = true ∧ ((porting 0 0).chan 0).portState 0 = 0 ∧ (((porting 0 0).chan 0).egr.port 0).shaper.eligible = true ∧
    minTag (fun i => (((porting 0 0).chan 0).egr.sub i).tag) (((porting 0 0).chan 0).subsListed.filter (fun i =>
      ((porting 0 0).chan 0).subActive i && ((porting 0 0).chan 0).portOf i == 0)) = some 2 ∧
    minTag (fun i => (((porting 0 0).chan 0).egr.queue i).tag) (((porting 0 0).chan 0).activeQueues 2) = some 32 ∧
    (((porting 0 0).chan 0).egr.queue 32).pkts = (100, [1]) :: [(200, [2])] ∧ ((porting 2 0).chan 0).portState 0 ≠ 0 ∧
    ((porting 0 0).chan 0).b.fragmentWaits = false ∧ ((childOf 8 id).chan 0).b.fragmentWaits = true ∧
    ((porting 1 0).chan 0).portState 0 = 1 ∧ ((porting 0 9999).chan 0).portState 0 ≠ 2 ∧
    ((porting 0 9999).chan 0).b.num K.portReturnFrames ≤ (((porting 0 9999).chan 0).egr.port 0).up := by decide +kernel

/-- A tray whose bus is in droop and has been good long enough. -/
def drooping : State := sharedOf up (fun h => { h.setNum K.busState busDroop with goodFrames := 65535 })

theorem met_supply : (up.chan 0).b.works = true ∧ up.sh.powered = true ∧ up.seated ∧ (up.chan 0).pac.queue = [] ∧
    drooping.sh.num K.busState = busDroop ∧ drooping.sh.num K.droopRecoverFrames ≤ drooping.sh.goodFrames ∧ drooping.sh.powered = true ∧
    up.sh.busNext (mean ((up.sh.reading (2700 : BitVec 12).toNat :: up.sh.samples).take 8)) = busDroop ∧ up.sh.num K.busState ≠ busDroop ∧
    (up.chan 0).inC0 = true := by
  refine ⟨?_, ?_, up_seated, ?_⟩ <;> decide +kernel

theorem met_triggers : (parentOf [leaf2 9]).passes c0 K.traceTriggerLeaves (.num (4 : Word64).toNat) = true ∧ (4 : Word64).toNat.testBit 2 = true ∧
    ((parentOf [leaf2 9]).chan 0).leafAt 2 = some (leaf2 9) := by decide +kernel

/-! ### Carat -/

/-- Channel 0 whose output stream 3 holds an ended native stream, or a fetch; its source is trace. -/
def nstream : NStream := { kind := 2, id := 9, raw := [65, 66, 67], ended := true, headed := false, blocks := 0 }
def streaming (f : Option Fetch) : State :=
  chanOf (parentOf [leaf2 9]) (fun c =>
    { c with b := c.b.setBytes (K.streamEntry + 3) (natLe 16 (1 * 2 ^ 124)),
             car := c.car.mapStream 3 (fun o => { o with streams := [nstream], fetch := f }) })
def fetch2 : Fetch := { leaf := 2, offset := 8168, waiting := true }

theorem met_seals : ((streaming none).chan 0).b.works = true ∧
    ((streaming none).chan 0).sealOrder.find? ((streaming none).chan 0).sealReady = some 3 ∧ ((streaming none).chan 0).egr.boundary = false ∧
    (((streaming none).chan 0).car.stream 3).streams = nstream :: [] := by decide +kernel

theorem met_fetches : (streaming none).passes c0 K.traceFetch (.num (0x302 : BitVec 16).toNat) = true ∧
    ((streaming none).chan 0).leafAt ((0x302 : BitVec 16).toNat % 256) = some (leaf2 9) ∧
    (((streaming none).chan 0).car.stream 3).reads < ((streaming none).chan 0).b.num K.fetchReadsPerFrame ∧
    (((streaming (some fetch2)).chan 0).car.stream (3 : BitVec 4).toNat).fetch = some fetch2 ∧ fetch2.waiting = true ∧ (1 : Byte) ≠ 0 ∧
    ((streaming (some fetch2)).chan 0).car.staged + [(1 : Byte)].length ≤ stagingBytes := by decide +kernel

/-- A compress job of 3 bytes in window 1 with the tag 77, and channel 0 with both units busy, or done with it. -/
def jobBytes (op : Nat) : List Byte := natLe 32 (1 * 2 ^ 252 + (2 ^ 60 + 4096) * 2 ^ 128 + 3 * 2 ^ 96 + 64 * 2 ^ 64 + op * 2 ^ 56 + 77)
def job1 : Job := parseJob (jobBytes 1)
def working (f : Carat → Carat) (d : Dma) : State :=
  chanOf up (fun c => { c with car := f c.car, mem := c.mem.mapClient compClient (fun _ => d) })
def jobDma : Dma := { Dma.idle with phase := .write, src := 2 ^ 60, dst := 2 ^ 60 + 4096, len := 3 }

theorem met_jobs : up.passes c0 K.jobSubmit (.bytes (jobBytes 1)) = true ∧ up.passes c0 K.jobSubmit (.bytes (jobBytes 3)) = true ∧
    (parseJob (jobBytes 1)).op ≤ 2 ∧ ¬ (parseJob (jobBytes 3)).op ≤ 2 ∧ (up.chan 0).car.jobs = [] ∧ (up.chan 0).car.comp = none ∧
    (working (fun x => { x with comp := some job1, decomp := some job1 }) Dma.idle).passes c0 K.jobSubmit (.bytes (jobBytes 1)) = true ∧
    ((working (fun x => { x with comp := some job1 }) jobDma).chan 0).car.job false = some job1 ∧
    ((working (fun x => { x with comp := some job1 }) jobDma).chan 0).mem.client (jobClient false) = jobDma ∧
    jobDma.phase = .write ∧ jobDma.live = 0 ∧ jobDma.writes ≤ jobDma.sent ∧ jobDma.readFault = none ∧ jobDma.writeFault = none ∧
    (jobOut job1 (((working (fun x => { x with comp := some job1 }) jobDma).chan 0).jobBytes jobDma) false).result < 0x10 := by decide +kernel

/-- Channel 0 whose compress job has its source, and none of its blocks yet. -/
def jobTurn : State := working (fun x => { x with comp := some job1 }) { jobDma with phase := .read, got := [(0, 65), (1, 66), (2, 67)] }

theorem met_jobTurn : (jobTurn.chan 0).b.works = true ∧ (jobTurn.chan 0).sealOrder.find? (jobTurn.chan 0).sealReady = some 16 := by decide +kernel

/-! ### Movers and the memory port -/

/-- Channel 0 whose mover 7 is in a state, with its client, its descriptor address and the bytes of window 1. -/
def moving (st a : Nat) (d : Dma) (w : List Byte) : State :=
  chanOf up (fun c =>
    { c with b := (c.b.setNum (moverKey K.state 7) st).setNum (K.current + 256 * 7) a,
             mem := (c.mem.store 1 (offsetOf a) w).mapClient 7 (fun _ => d) })

/-- A descriptor of length n that moves window 1 offset 0 to window 2 offset 64, the last of its list. -/
def desc (n ctl : Nat) : List Byte := natLe 32 (2 ^ 252 + (2 * 2 ^ 60 + 64) * 2 ^ 128 + n * 2 ^ 96 + ctl * 2 ^ 64)
def fetching : Dma := { Dma.idle with phase := .fetch }

theorem met_descriptors : up.passes c0 (K.start + 256 * 7) (.num (2 ^ 60 + 4096 : Word64).toNat) = true ∧ up.passes c0 (K.stop + 256 * 7) (.num 1) = true ∧
    (moving 1 (2 ^ 60 + 4096) fetching []).passes c0 (K.stop + 256 * 7) (.num 1) = true ∧
    (((moving 1 (2 ^ 60 + 4096) fetching (desc 8 8)).chan 0).mem.client 7).phase = .fetch ∧
    ((moving 1 (2 ^ 60 + 4096) fetching (desc 8 8)).chan 0).descOf 7 = 2 ^ 60 + 4096 ∧ descAddrOk (2 ^ 60 + 4096) = true ∧
    spaceOf (2 ^ 60 + 4096) ≠ 0 ∧ fetching.readFault = none ∧ descAddrOk (2 ^ 60 + 4097) = false ∧
    bits (leNat (desc 0 8)) 96 32 = 0 ∧
    ({ Dma.idle with src := bits (leNat (desc 9 1)) 192 64, dst := bits (leNat (desc 9 1)) 128 64, len := 9, control := 1 } : Dma).addressStatus ≠ 1 := by
  decide +kernel

/-- A transfer of two bytes to window 2 that waits for its end. -/
def landing : Dma := { Dma.idle with phase := .write, control := 12, src := 2 ^ 60, dst := 2 * 2 ^ 60 + 64, len := 2, data := [7, 8] }

theorem met_landing : landing.phase = .write ∧ landing.live = 0 ∧ landing.status = 0 ∧ landing.writeFault = none ∧ bit landing.control 1 = false ∧
    bit landing.control 3 = true ∧ bit landing.control 2 = true ∧ spaceOf landing.dst = 2 ∧ spaceOf (2 ^ 60 + 4096) = 1 ∧
    ((moving 1 (2 ^ 60 + 4096) landing (desc 2 12)).chan 0).mem.client 7 = landing := by decide +kernel

/-- Channel 0 with one outstanding request of mover 7. -/
def req (kind : Nat) (dead : Bool) : MReq := { client := 7, kind := kind, idx := 0, line := 64, dead := dead }
def waiting (r : MReq) : State := chanOf (moving 1 4096 { fetching with asked := 1, live := 1 } []) (fun c => c.onMem (fun m => { m with reqs := [(5, r)] }))

theorem met_answers : tagChan 5 = 0 ∧ mfind ((waiting (req 0 false)).chan 0).mem.reqs ((5 : Byte).toNat % 64) = some (req 0 false) ∧
    (req 0 false).dead = false ∧ (req 0 false).client < 8 ∧ (((waiting (req 0 false)).chan 0).mem.client 7).phase = .fetch ∧
    ((waiting (req 0 false)).chan 0).b.works = true := by decide +kernel

theorem met_unanswered : mfind ((waiting (req 3 false)).chan 0).mem.reqs ((5 : Byte).toNat % 64) = some (req 3 false) ∧ (req 3 false).client < 8 ∧
    mfind ((waiting (req 0 true)).chan 0).mem.reqs 5 = some (req 0 true) ∧ mfind ((waiting (req 0 true)).chan 0).mem.reqs 6 = none ∧
    ((waiting (req 0 true)).chan 0).retains = true := by decide +kernel

/-! ### Fault history and flash -/

/-- Channel 0 with a fault history. -/
def history (f : Hist → Hist) : State := chanOf up (fun c => { c with hist := f c.hist })
def early (f : Hist → Hist) : State := chanBlk (history f) (fun b => { b with lastOpen := none })
def floc (perm : Bool) : FLoc := { perm := perm, events := 1, latest := 2, before := 0, logged := 0, record := List.replicate 32 0, heard := 1 }
def place0 : Nat := 4 * 2 ^ 48 + 3

theorem met_faults : (up.chan 0).faultIn = [] ∧ ((history (fun h => { h with waits := [([], true, 1)] })).chan 0).b.works = true ∧
    ((history (fun h => { h with waits := [([], true, 1)] })).chan 0).hist.waits = ([], true, 1) :: [] ∧ (up.chan 0).hist.log.length < 524288 ∧
    ((history (fun h => { h with fences := [(2, 9)] })).chan 0).hist.fences = (2, 9) :: [] ∧
    (history (fun h => { h with locs := [(place0, floc true)] })).passes c0 K.clearLocation (.num (BitVec.ofNat 64 place0).toNat) = true ∧
    mfind ((history (fun h => { h with locs := [(place0, floc true)] })).chan 0).hist.locs ((BitVec.ofNat 64 place0).toNat % 2 ^ 52) =
      some (floc true) ∧ (floc true).perm = true ∧ (up.chan 0).hist.waits.length < 4096 ∧
    (early id).passes c0 K.startupFailures (.bytes (natLe 8 place0)) = true ∧ (natLe 8 place0).length = 8 ∧ ((early id).chan 0).b.now < 2 ^ 64 ∧
    mfind ((early (fun h => { h with locs := [(place0, floc false)] })).chan 0).hist.locs (leNat (natLe 8 place0) % 2 ^ 52) = some (floc false) ∧
    ((early (fun h => { h with locs := [(place0, floc false)] })).chan 0).hist.permanent < 16384 ∧
    mfind ((early id).chan 0).hist.locs (leNat (natLe 8 place0) % 2 ^ 52) = none ∧
    up.passes c0 K.firmwareLogWrite (.bytes (List.replicate 16 0)) = true := by decide +kernel

/-- Channel 0 with the last store of a WRITE, and with an entry of the firmware log to write. -/
def exec1 : Exec :=
  { way := .host, src := 0x20000000, seq := 1, resp := { oldResp with items := [{ guardItem with data := [] }] }, writes := [], waiting := 1, fails := [] }
def storeOne : State :=
  chanBlk up (fun b => { b with jobs := [.item 0x20000000 1 0 K.guardFrames (.num 4)], execs := [exec1] })
def storeLog : State := chanBlk up (fun b => { b with jobs := [.firmware (List.replicate 16 0)] })

theorem met_stores : (storeOne.blk c0).jobs = .item 0x20000000 1 0 K.guardFrames (.num 4) :: [] ∧ (storeOne.blk c0).execs = [exec1] ∧
    exec1.src = 0x20000000 ∧ exec1.seq = 1 ∧ exec1.waiting = 1 ∧ exec1.fails = [] ∧ storeOne.sh.currents = [] ∧
    (storeLog.chan 0).b.jobs = .firmware (List.replicate 16 0) :: [] ∧ up.leaf.b.live = true := by decide +kernel

/-! ### Resets and bring-up -/

theorem met_resets : (up.chan 0).retains = true ∧ (up.chan 0).b.phase = .run ∧ up.leaf.b.live = true ∧ (up.chan 0).b.isLeaf = false := by decide +kernel

/-- Channel 0 holds the clasp. -/
def holder0 : State := sharedOf (chanBlk up (fun b => b.setNum K.claspHeld 1)) (fun h => { h with holder := 0, epoch := 6 })

theorem met_warm : holder0.warmDue 0 = true ∧ up.warmDue 0 = false ∧ (up.chan 0).b.live = true ∧ 100 ≤ (100 : Word).toNat ∧ (99 : Word).toNat < 100 ∧
    up.sh.powered = true ∧ up.starting = false ∧ (holder0.chan 0).retains = true ∧ (State.reset.chan 0).retains = false := by decide +kernel

/-- The blocks in a phase and a step of their bring-up. -/
def phased (p : Phase) (st : Nat) (b : Blk) : Blk := ({ b with phase := p, frameIsOpen := false }).setNum K.bringupState st
def bringing (p : Phase) (st : Nat) : State := chanBlk (leafBlk up (phased p st)) (phased p st)

theorem met_fastPaths : (bringing .fast 0).seated ∧ (bringing .fast 0).leaf.b.phase = .fast ∧ (bringing .fast 0).leaf.handed = true ∧
    (bringing .fast 0).leaf.b.frameIsOpen = false ∧ (bringing .fast 0).leaf.b.lastOpen = some 4 ∧ 4 < (9 : Word64).toNat ∧
    ((bringing .fast 0).chan 0).b.phase = .fast ∧ CS.held { ch := (bringing .fast 0).chan 0, sh := (bringing .fast 0).sh } = false ∧
    ((bringing .fast 0).chan 0).b.frameIsOpen = false ∧ (bringing .fast 0).leaf.b.frameTime ≤ 9 * (bringing .fast 0).leaf.b.periodNs ∧
    (bringing .fast 0).leaf.b.passed = none ∧ ((bringing .fast 0).chan 0).b.passed = none ∧
    ((bringing .fast 0).chan 0).b.frameTime ≤ 9 * ((bringing .fast 0).chan 0).b.periodNs := by
  refine ⟨⟨⟨?_, ?_⟩, ?_⟩, ?_⟩ <;> decide +kernel

/-- Channel 0 in its restore, with one record of its own in flash. -/
def restoring : State :=
  chanOf (bringing .cold 3) (fun c => { c with flash := [{ node := c.b.addr, key := K.podNumber, v := .num 7, pend := none, dead := false }] })

theorem met_cold : State.reset.sh.powered = false ∧ State.reset.leaf.b.phase = .asserted ∧ (bringing .cold 2).leaf.b.phase = .cold ∧
    (bringing .cold 2).leaf.b.num K.bringupState = 2 ∧ (bringing .cold 2).leaf.handed = true ∧ ((bringing .cold 1).chan 0).b.phase = .cold ∧
    ((bringing .cold 1).chan 0).b.num K.bringupState = 1 ∧ (restoring.chan 0).b.num K.bringupState = 3 ∧
    (restoring.chan 0).flash = [{ node := (restoring.chan 0).b.addr, key := K.podNumber, v := .num 7, pend := none, dead := false }] ∧
    bits (restoring.chan 0).b.addr.toNat 28 4 = 1 ∧ (restoring.chan 0).hist.log = [] ∧ (restoring.chan 0).b.bytes K.activeImage = [] ∧
    (restoring.chan 0).b.bytes K.rulActiveImage = [] ∧ (restoring.chan 0).start.judged = [] := by decide +kernel

/-- Channel 0 with port 3 being qualified, or in service. -/
def qualifying : State := chanOf up (fun c => { c with start := { c.start with qualifying := [3] } })

theorem met_ports : (up.chan 0).b.works = true ∧ bit ((up.chan 0).b.num K.portsQualified) 3 = false ∧ 3 ∈ (qualifying.chan 0).start.qualifying ∧
    (List.replicate 8 (6 : Word)).length = (qualifying.chan 0).start.lanes ∧
    (List.replicate 8 (6 : Word)).all (fun e => decide (e.toNat ≤ 6)) = true ∧
    ((7 : Word) :: List.replicate 7 6).all (fun e => decide (e.toNat ≤ 6)) = false ∧ (qualifying.chan 0).b.phase = .run ∧
    up.leaf.b.works = true ∧ up.leaf.handed = true := by decide +kernel

/-! ### Low-power states and supply -/

/-- The leaf, or channel 0, in a power state, with a phase and a step of its bring-up. -/
def asleep (n : Nat) (p : Phase) (st : Nat) : State :=
  chanBlk (leafBlk up (fun b => (phased p st b).setNum K.powerStateNow n)) (fun b => (phased p st b).setNum K.powerStateNow n)

/-- A leaf whose one mapped region is off. -/
def allOff : State := leafBlk up (fun b => b.setNum (regionKey 0) 8)

theorem met_power : up.leaf.handed = true ∧ up.passes .leaf K.powerState (.num 1) = true ∧ mapped.passes .leaf K.powerState (.num 0) = true ∧
    allOff.passes .leaf K.powerState (.num 2) = true ∧ (asleep 2 .run 0).passes .leaf K.powerState (.num 0) = true ∧
    (asleep 2 .run 10).passes .leaf K.powerState (.num 3) = true ∧ 2 ≤ (asleep 2 .run 0).leaf.b.num K.powerStateNow ∧
    up.passes c0 K.powerState (.num 2) = true ∧ up.passes c0 K.powerState (.num 3) = true ∧
    (asleep 2 .retained 0).passes c0 K.channelWake (.num 1) = true ∧ ((asleep 2 .retained 0).chan 0).b.phase = .retained ∧
    (asleep 3 .off 0).passes c0 K.channelWake (.num 1) = true ∧ ((asleep 3 .off 0).chan 0).b.phase = .off := by decide +kernel

/-- Channel 0 with leaf 2, whose region 3 it has switched off, and with a granted wake of it. -/
def regionOff (v : Nat) : Known := { leaf := 2, key := regionKey 3, v := .num v, at_ := 1, apply := 2, own := true }
def waking (g : List (Nat × Nat × Nat)) : State :=
  chanOf (parentOf [leaf2 9]) (fun c => { c with known := [regionOff 9], pac := { c.pac with grants := g } })
def wakeReq (pos region : Nat) : List Byte := natLe 16 (pos * 2 ^ 8 + region)

theorem met_wakes : (waking []).passes c0 K.wakeRequest (.bytes (wakeReq 2 3)) = true ∧ leAt (wakeReq 2 3) 1 1 = 2 ∧ leAt (wakeReq 2 3) 0 1 = 3 ∧
    (waking []).passes c0 K.wakeRequest (.bytes (wakeReq 0xFF 3)) = true ∧ leAt (wakeReq 0xFF 3) 1 1 = 0xFF ∧
    ((waking []).chan 0).leafAt 2 = some (leaf2 9) ∧ bit (((waking []).chan 0).regionNow 2 3) 3 = true ∧
    ((waking [(3, 2, 3)]).chan 0).b.works = true ∧ ((waking [(3, 2, 3)]).chan 0).pac.grants = [(3, 2, 3)] ∧
    3 < ((waking [(3, 2, 3)]).chan 0).b.now ∧ ((waking [(3, 2, 3)]).chan 0).pac.retry = [] := by decide +kernel

/-- A tray whose core target lies above what its channels need. -/
def target (mv : Nat) : State := sharedOf up (fun h => h.setNum K.coreTargetMv mv)

theorem met_core : (target 900).sh.powered = true ∧ (target 900).sh.wanted (target 900).needs < (target 900).sh.num K.coreTargetMv ∧
    (target 0).sh.num K.coreTargetMv ≤ (target 0).sh.wanted (target 0).needs ∧ (target 0).sh.powered = true ∧ (up.chan 0).b.works = true ∧
    (up.chan 0).b.isLeaf = false ∧ (0 : BitVec 16).toNat + 15 < (up.chan 0).b.num K.channelNeedMv ∧
    (up.chan 0).b.num K.channelNeedMv ≤ (900 : BitVec 16).toNat + 15 := by decide +kernel

/-! ### Joins and withdrawals -/

/-- Channel 0 that waits for its successor since frame 0; the open frame is 16. -/
def successor : State := chanOf up (fun c => { c with b := c.b.setNum K.frameNow 16, roleAsk := some 0 })

theorem met_joins : ((adopting [] []).chan 0).b.works = true ∧ ((adopting [] []).chan 0).member = true ∧ ((adopting [] []).chan 0).roleAsk = none ∧
    (23 : BitVec 5).toNat ≠ 31 ∧ ((adopting [] []).chan 0).tree.child (((adopting [] []).chan 0).leafAddr 23) = none ∧
    ((adopting [] []).chan 0).joins = [] ∧ ((adopting [] []).chan 0).ignores (((adopting [] []).chan 0).leafAddr 23) = false ∧
    (5 : Word64).toNat ≤ ((adopting [] []).chan 0).b.now + 1 ∧ ¬ ((6 : Word64).toNat ≤ ((adopting [] []).chan 0).b.now + 1) ∧
    24 ≤ (24 : BitVec 5).toNat ∧ ((adopting [] []).chan 0).tree.child (((adopting [] []).chan 0).leafAddr 24) = none ∧
    ((adopting [] []).chan 0).ignores (((adopting [] []).chan 0).leafAddr 24) = false ∧
    (successor.chan 0).b.works = true ∧ (successor.chan 0).roleAsk = some 0 ∧ 0 + 16 ≤ (successor.chan 0).b.now := by decide +kernel

theorem met_assign : up.leaf.handed = true ∧ up.leaf.passes (chanAddr ((69 : Word).toNat / 32)) K.joinAssign (.num (69 : Word).toNat) = true ∧
    up.passes .leaf K.repairAdd (.bytes (natLe 4 (3 * 2048 + 9))) = true ∧
    (pieces 4 (natLe 4 (3 * 2048 + 9))).map (fun e => bits (leNat e) 0 21) = [3 * 2048 + 9] ∧ up.leaf.b.repairs = [] ∧
    up.leaf.b.freeSpares false ((3 * 2048 + 9) / 2048) = 0 :: [1, 2, 3] := by decide +kernel

/-- Channel 0 whose leaf 2 leaves since frame 1, at a step, with every frame up to 3 received. -/
def going (k : Nat) : Child := { leaf2 9 with leaving := some 1, leaveStep := k, base := some 0, got := [0, 1, 2, 3] }
def withdrawing (k : Nat) : State := parentOf [going k]

theorem met_withdraws : (parentOf [leaf2 9]).passes c0 K.withdrawLeaves (.num (5 : Word64).toNat) = true ∧ (5 : Word64).toNat.testBit 0 = true ∧
    (5 : Word64).toNat.testBit 2 = true ∧ ((parentOf [leaf2 9]).chan 0).leafAt 0 = none ∧ ((parentOf [leaf2 9]).chan 0).leafAt 2 = some (leaf2 9) ∧
    ((withdrawing 0).chan 0).leavers 0 1 = [going 0] ∧ ((withdrawing 1).chan 0).leavers 1 2 = [going 1] ∧
    (((withdrawing 2).chan 0).leavers 2 3).find? (fun y => y.pos == (2 : BitVec 6).toNat) = some (going 2) ∧ (going 2).leaving = some 1 ∧
    ((withdrawing 2).chan 0).ackOf (going 2) = some 3 ∧ 1 + 2 ≤ 3 := by decide +kernel

/-- The leaf between two parents that it hears; channel 0 withdrawing, and with a member channel that is silent. -/
def between : State :=
  leafBlk up (fun b => { ((b.setNum K.parentActive 8).setNum K.parentStandby 9).setNum K.parentInUse 8 with
    link := { Link.reset with attached := true, heardBefore := [chanAddr 9] } })
def parting : State :=
  chanOf (childOf 8 id) (fun c => { c with b := { c.b.setNum K.bringupState 9 with journal := [entry 3] }, leaveAt := some 3 })
def chan5 (quiet : Nat) : Child := { Child.fresh (chanAddr 5) .chan 0 2 with member := true, quiet := quiet }

theorem met_channels : between.leaf.handed = true ∧ between.passes .leaf K.moveParent (.num 1) = true ∧ between.leaf.b.otherParent ≠ noChan ∧
    between.leaf.b.inUse ≠ noChan ∧ (childOf 8 id).passes c0 K.withdrawChannel (.num 1) = true ∧ ((childOf 8 id).chan 0).member = true ∧
    (parting.chan 0).leaveAt = some 3 ∧ (parting.chan 0).b.num K.bringupState = 9 ∧ 3 < (parting.chan 0).b.now ∧ (parting.chan 0).b.journal = [entry 3] ∧
    3 ≤ (entry 3).frame ∧ (parting.chan 0).b.inUse ≠ noChan ∧ up.passes c0 K.memberLeave (.num (5 : BitVec 16).toNat) = true ∧
    ((parentOf [chan5 0]).chan 0).tree.child (chanAddr 5) = some (chan5 0) ∧ (chan5 0).kind = .chan ∧ (chan5 0).member = true ∧
    (5 : BitVec 16).toNat = (chanAddr 5).toNat % 2 ^ 16 ∧ (up.chan 0).b.isLeaf = false ∧ (up.chan 0).b.num K.removalFrames ≤ (chan5 65536).quiet ∧
    (chan5 0).quiet < (up.chan 0).b.num K.removalFrames := by decide +kernel

/-! ### The clasp -/

/-- Channel 0 that may claim, and does at once or at the end of its back-off; and open windows. -/
def claiming (due : Bool) (at_ : Option Nat) : State :=
  chanOf (chanBlk up (fun b => b.setNum K.bringupState 8)) (fun c => { c with claimDue := due, claimAt := at_ })
def window (l : List (Nat × Nat)) : State :=
  sharedOf ({ claiming false none with ch := (claiming false none).ch.map (fun c => c.onB (fun b => b.setNum K.bringupState 8)) })
    (fun h => { h with claims := some l, epoch := 6 })

theorem met_claims : ((claiming true none).chan 0).mayClaim = true ∧ ((claiming true none).chan 0).claimDue = true ∧
    ((claiming false (some 4)).chan 0).claimAt = some 4 ∧ 4 ≤ ((claiming false (some 4)).chan 0).b.now ∧
    ((claiming false (some 4)).chan 0).mayClaim = true := by decide +kernel

theorem met_windows : (window [(0, 7), (1, 6)]).seated ∧ ((window [(0, 7), (1, 6)]).sh.claims = some [(0, 7), (1, 6)] ∧
    ((0 : Ch).val, 7) ∈ [(0, 7), (1, 6)] ∧ (∀ p ∈ [(0, 7), (1, 6)], p.2 ≤ 7) ∧ (∀ p ∈ [(0, 7), (1, 6)], p.2 = 7 → p.1 = (0 : Ch).val) ∧
    ((1 : Ch).val, 7) ∈ [(0, 7), (1, 7)] ∧ (∀ p ∈ [(0, 7), (1, 7)], p.2 ≤ 7) ∧ ((window [(0, 7), (1, 7)]).chan 1).mayClaim = true) := by
  refine ⟨⟨⟨?_, ?_⟩, ?_⟩, ?_⟩ <;> decide +kernel

theorem met_heartbeats : holder0.seated ∧ (holder0.chan 0).b.works = true ∧ (holder0.chan 0).b.num K.claspHeld = 1 ∧ holder0.sh.holder = (0 : Ch).val ∧
    (sharedOf holder0 (fun h => { h with holder := 2 })).sh.holder ≠ (0 : Ch).val := by
  refine ⟨⟨⟨?_, ?_⟩, ?_⟩, ?_⟩ <;> decide +kernel

theorem met_claspIsReleased : holder0.sh.powered = true ∧ holder0.sh.holder = (0 : Ch).val ∧ holder0.passes c0 K.powerState (.num 2) = true ∧
    holder0.passes c0 K.powerState (.num 3) = true ∧ (holder0.chan 0).retains = true ∧ (holder0.chan 0).b.isLeaf = false ∧
    holder0.warmDue 0 = true := by decide +kernel

/-! ### The host port, the sideband and test access -/

/-- Channel 0 with a mailbox in a state. -/
def mailbox (f : Win → Win) : State := chanOf up (fun c => { c with win := f c.win })

/-- A READ of servo_state_a with its bytes, in the mailbox and as a block. -/
def msg : Nat × Req := parseReq .sideband (up.chan 0).b.sideAddr (natLe 24 (0x01 * 2 ^ 120 + 2 ^ 64 + 2 ^ 48))

theorem met_windowWrites : up.sh.powered = true ∧ (2 : BitVec 16).toNat % 4 ≠ 0 ∧ (0xFFC : BitVec 16).toNat < 0x1000 ∧ 0x5000 ≤ (0x5000 : BitVec 16).toNat ∧
    (0x1014 : BitVec 16).toNat = 0x1000 * ((0 : Ch).val + 1) + 0x14 ∧ (0x40 ∉ [0x10, 0x14, 0x18, 0x1C, 0x20, 0x24, 0x2C, 0x30, 0x34]) ∧
    (State.reset.chan 0).answersHost = false ∧ (up.chan 0).answersHost = true ∧ (up.chan 0).win.busy = false ∧
    ((mailbox (fun w => { w with busy := true })).chan 0).win.busy = true := by decide +kernel

theorem met_mailboxes : ((mailbox (fun w => { w with busy := true })).chan 0).answersHost = true ∧
    ((mailbox (fun w => { w with rspReady := true })).chan 0).win.rspReady = true ∧ ((mailbox (fun w => { w with reqLen := 20 })).chan 0).win.rspReady = false ∧
    mbxLenOk ((mailbox (fun w => { w with reqLen := 20 })).chan 0).win.reqLen = false ∧
    mbxLenOk ((mailbox (fun w => { w with reqLen := 16, req := [(3, 0x01000000)] })).chan 0).win.reqLen = true ∧
    (Instr.read c0 (parseReq .host (up.chan 0).b.hostAddr (((mailbox (fun w => { w with reqLen := 16, req := [(3, 0x01000000)] })).chan 0).win.request 16)).2).asks =
      some (c0, (parseReq .host (up.chan 0).b.hostAddr (((mailbox (fun w => { w with reqLen := 16, req := [(3, 0x01000000)] })).chan 0).win.request 16)).2,
        (parseReq .host (up.chan 0).b.hostAddr (((mailbox (fun w => { w with reqLen := 16, req := [(3, 0x01000000)] })).chan 0).win.request 16)).1) := by decide +kernel

theorem met_sidebands : (0xB1 : Byte).toNat ∉ [0xB0, 0xB2, 0xB4, 0xB6] ∧ (0xB0 : Byte).toNat = 0xB0 + 2 * (0 : Ch).val ∧
    (List.replicate 15 (0 : Byte)).length < 16 ∧ (up.chan 0).b.answering msg.2 = true ∧
    (up.chan 0).b.answering (parseReq .sideband (up.chan 0).b.sideAddr (fitTo 16 (List.replicate 15 0))).2 = true ∧ (0xB1 : Byte).toNat = 0xB1 + 2 * (0 : Ch).val ∧
    (Instr.read c0 msg.2).asks = some (c0, msg.2, msg.1) ∧ 16 ≤ (natLe 24 0).length ∧ (natLe 24 0).length ≤ 255 := by decide +kernel

theorem met_tap : up.leaf.b.phase ≠ .asserted ∧ up.sh.powered = true ∧ State.reset.leaf.b.phase = .asserted ∧
    (up.blk c0).num K.instrumentsEnabled ≠ 1 ∧ (0xFF : Byte) ∉ [0x00, 0x01, 0x02, 0x20] := by decide +kernel

/-! ### Ill-formed commands -/

/-- A time stamp whose nanoseconds reach one second (R38). -/
def late : BitVec 96 := 1000000000

theorem test_wf_time : [Instr.syncReceive c0 hdr late 0, .syncReceive c0 hdr 0 late, .followUpReceive c0 hdr late, .delayRespReceive c0 hdr late,
    .delayReqSend c0 .a 0 late, .ppsEdge 0 late, .traceArm late, .traceTrigger late, .traceStop late, .traceAuthoriseClear late,
    .faultLogWrite 0 late, .enterL0 late, .enterL1 late, .enterL2 late].all (fun i => !i.wf) = true := by decide +kernel

theorem test_wf_offset : [Instr.counterRecord 0 1000000, .barrierEvent 0 1000000, .checksumWord 0 1000000, .traceEvent 0 1000000].all
    (fun i => !i.wf) = true := by decide +kernel

theorem test_wf_position : [Instr.leafAbsent 0 48, .leafWithdrawDone 0 48].all (fun i => !i.wf) = true := by decide +kernel

theorem test_wf_fragment : [Instr.dataFragmentReceive 0 0 { frag 0 with typ := 1 } [], .dataFragmentReceive 0 0 (frag 0) (List.replicate 8177 0),
    .controlFragmentReceive c0 0 (frag 0) []].all (fun i => !i.wf) = true := by decide +kernel

theorem test_wf_opcode : [Instr.read c0 { plain with other := some 0x01 }, .read .leaf { plain with other := some 0x27 },
    .write c0 { ask selItem with other := some 0x7F }, .prepare c0 { prep with other := some 0x7F },
    .tokenQuery c0 { token 0 with other := some 0x03 }].all (fun i => !i.wf) = true := by decide +kernel

theorem test_wf_lists : [Instr.selftestDone .leaf [(0, 2052)] [], .linkQualifyDone 0 0 (List.replicate 17 0),
    .smbusBlockWrite 0xB0 (List.replicate 256 0) true].all (fun i => !i.wf) = true := by decide +kernel

theorem test_wf_good : [Instr.syncReceive c0 hdr 999999999 0, .traceEvent 0 999999, .leafAbsent 0 47, .selftestDone .leaf [(0, 2051)] [],
    .linkQualifyDone 0 0 (List.replicate 16 0), .read c0 { plain with other := some 0x7F }, .write c0 (ask selItem), .smbusBlockWrite 0xB0 (List.replicate 255 0) true,
    .dataFragmentReceive 0 0 (frag 0) (List.replicate 8176 0)].all (fun i => i.wf) = true := by decide +kernel

theorem test_decode_none : decodeTableWord 8 0 = none ∧ State.reset.withFetchWord 8 0 = State.reset := ⟨rfl, rfl⟩

/-! ### The spec's worked examples -/

/-- Touchstone's example, step 4: the event record of core 301. -/
def flip : Nat := (beat 3 301 139 139 0x05001C37 ((2 ^ 26 - 6656) * 2 ^ 292 + (2 ^ 26 - 6656) * 2 ^ 162)).toNat

theorem test_touchstone_event : tsMasks flip 148 1 = (0x20, 0x04) ∧
    tsEvent 1 flip 148 63418 301 false (0x20, 0x04) 6656 = 0x104B480103DEE800 * 2 ^ 64 + 0x3400012805001C37 := by decide +kernel

def section0 : TsFrame :=
  { frame := 0, disabled := false, fixed := false, cores := 0, room := 64, compared := 0, unchecked := 0, mismatches := 0, nonfinites := 0, events := [],
    eventCount := 0, mapMis := 0, mapNon := 0, firsts := [], learning := none }

theorem test_touchstone_beat : (section0.addBeat flip 63418 301 148 false).events = [0x104B480103DEE800 * 2 ^ 64 + 0x3400012805001C37] := by
  decide +kernel

/-- Assay's example: leaf A, leaf B, and replica 2. -/
theorem test_assay_digests : digestFrom 3 0 [5, 0] = 27 ∧ digestFrom 3 2 [2, 7] = 729 ∧ digestFrom 3 2 [2, 6] = 648 := by decide +kernel

/-- The example of R218 to R222: parameter set 0 with beta 0, the series before data frame D. -/
def series0 (rescale : Bool) : Param :=
  { alpha := 0x3E000000, beta := 0, lam := 0x3D800000, k := 0x3F000000, h := 0x41000000, clip := 0x40C00000, floor := 0x2B800000,
    warmup := 32, gap := 16, rescale := rescale }
def tiles : SerState :=
  { SerState.empty with level := natF32 24000, variance := natF32 10000, count := 24, update := 9, updates := 1000, state := 2 }
def stepD (rescale : Bool) : SerStep := serAdvance 0 tiles (series0 rescale) true (natF32 23050) 23 10 1

theorem test_series_first : (stepD false).st.level = natF32 23925 ∧ (stepD false).st.variance = natF32 31875 ∧
    (stepD false).st.cneg = 0x40B00000 ∧ (stepD false).hand.z = 0xC1180000 ∧ (stepD false).drift = [] := by decide +kernel

theorem test_series_drift :
    ((serAdvance 0 (stepD false).st (series0 false) true (natF32 23050) 23 11 1).drift.map (fun d => (d.series, d.down))) = [(0, true)] := by decide +kernel

/-- With rescale set the level becomes 23,006.25 (0x46B3BC80), and the level before the gain 23,000. -/
theorem test_series_rescale : (stepD true).st.level = 0x46B3BC80 ∧ (stepD true).drift = [] ∧ (stepD true).st.cneg = 0 ∧
    (serAdvance 0 (stepD true).st (series0 true) true (natF32 23050) 23 11 1).st.cpos = 0 := by decide +kernel

/-- The facet example: log2 of 4,096, 5,000 and 16,384, and the codes of the rows. -/
theorem test_facets : log2Grain (natF32 4096) = natF32 12 ∧ log2Grain (natF32 5000) = 0x41448000 ∧
    binOf 0xFF (log2Grain (natF32 5000)) [natF32 10, natF32 12, natF32 14] = 2 ∧
    binOf 0xFF (natF32 12) [natF32 10, natF32 12, natF32 14] = 1 ∧
    binOf 0xFF (natF32 2) [0xC0400000, 0xC0000000, 0xBF800000, 0, 0x3F800000, 0x40000000, 0x40400000] = 5 := by decide +kernel

/-- The node section and directory of the example, in an image of one row set without facet entries or edges. -/
def plan : List Byte :=
  natLe 128 (2 * 2 ^ 832 + 11 * 2 ^ 768 + 8 * 2 ^ 872) ++ List.replicate 256 0 ++ [0x02000000, 0x0000000A].flatMap (natLe 4) ++
    [0x40000028, 0x00000002, 0x20080008, 0x00000006, 0x20100050, 0x00000008, 0x80000078, 0xFFFFFFF0, 0xFFFFFFD8, 0x80000040, 0x80000008].flatMap (natLe 4)

theorem test_balance_rows : (treeAt plan 0).2 = 0 ∧ (treeAt plan 1).2 = 10 ∧
    [[5, 1, 21], [0xFF, 2, 0xFF], [6, 2, 26]].map (fun codes => runTree plan codes 17 0 + runTree plan codes 17 10) = [128, -32, 72] ∧
    scoreOf 128 8 = 0x3F000000 ∧ scoreOf (-32) 8 = 0xBE000000 ∧ scoreOf 72 8 = 0x3E900000 := by decide +kernel

/-- The increments of the egress example. -/
theorem test_egress_tags : tagInc 8208 1 = 537919488 ∧ tagInc 96 4 = 1572864 := by decide +kernel

/-- Carat's example: the 9 bytes decode to "ABCABCABCABCX", and the header's low word reads 0x0001A000. -/
theorem test_carat_tokens : decodeTokens 13 10 0 [0x02, 0x41, 0x42, 0x43, 0x87, 0x02, 0x00, 0x00, 0x58] [] =
    .inr ([0x41, 0x42, 0x43, 0x41, 0x42, 0x43, 0x41, 0x42, 0x43, 0x41, 0x42, 0x43, 0x58], 9, []) ∧
    leNat (blockHeader 7 0 13) % 2 ^ 32 = 0x0001A000 := by decide +kernel

/-- The directory entries of the example of R435 (Table 18.4), and the one that the leaf build lacks. -/
theorem test_directory : 0x0100010440000000 ∈ dirOfIdx false 0x0100 ∧ 0x3800130416600000 ∈ dirOfIdx false 0x3800 ∧
    defOf true 0x380013 = none := by decide +kernel

/-- The mailbox example (R423): channel 2 of a tray that answers. -/
def mbx : State :=
  up.putChan 2 { up.chan 2 with win := { Win.reset with reqLen := 24, req := [(1, 0x00010000), (2, 5), (3, 0x01000000), (5, 0x01000104)] } }

theorem test_mailbox : (match exec (.mailboxGo 2) mbx with
    | .next t => decide ((List.range 8).map (fun k => mget (fun _ => 0) (t.chan 2).win.rsp k) =
        [0x00000000, 0x00010000, 0x00000005, 0x01008000, 0x00040000, 0x01000104, 0x00030000, 0x00000000] ∧
        (t.chan 2).win.rspLen = 32 ∧ (t.chan 2).b.evt = 0x80 ∧ (t.chan 2).win.rspReady = true)
    | _ => false) = true := by decide +kernel

/-- The third descriptor of the mover example: a fixed source of 8 bytes, written back as 0x0100000D. -/
def third : State :=
  chanOf up (fun c =>
    { c with b := (c.b.setNum (moverKey K.state 2) 1).setNum (K.current + 256 * 2) (2 ^ 60 + 0x40),
             mem := ((c.mem.store 1 0x100 [1, 2, 3, 4, 5, 6, 7, 8]).store 1 0x48 (natLe 4 0x0D)).mapClient 2 (fun _ =>
               { Dma.idle with phase := .read, control := 0x0D, src := 2 ^ 60 + 0x100, dst := 2 * 2 ^ 60 + 0x200000, len := 24 }) })

theorem test_mover_fill : winRead ((third.chan 0).moveOut 2 |>.descDone 2).mem.dram 0x200000 24 =
      [1, 2, 3, 4, 5, 6, 7, 8, 1, 2, 3, 4, 5, 6, 7, 8, 1, 2, 3, 4, 5, 6, 7, 8] ∧
    winRead ((third.chan 0).moveOut 2 |>.descDone 2).mem.sram 0x48 4 = natLe 4 0x0100000D := by decide +kernel

/-- The clasp example, K+7: channel 3 claims 8 alone and is granted the clasp. -/
theorem test_clasp : (match exec .claimWindowClose (window [(3, 8)]) with
    | .next t => decide (t.sh.epoch = 8 ∧ t.sh.holder = 3 ∧ (t.chan 3).b.num K.claspHeld = 1)
    | _ => false) = true := by decide +kernel

/-- A step takes the oldest command, and a frame opens. -/
theorem test_step : (match step { up with pending := [.frameOpen .leaf 5 ⟨0, [], none⟩, .jobResult 0] } with
    | .next t => decide (t.leaf.b.lastOpen = some 5 ∧ t.pending = [.jobResult 0])
    | _ => false) = true := by decide +kernel

end Sys2Proof.Tests
end

section
/-! PROOF. A read of the transmit stamp queue takes its oldest entry (R61): what the Bivan endpoint answers a READ of one item that
it hands out, said over any build, and what becomes of the stamp queue. -/

namespace Sys2Proof.Machine

/-! ### The stamp queue of a block -/

@[simp] theorem length_natLe (len n : Nat) : (natLe len n).length = len := by
  induction len generalizing n with
  | zero => rfl
  | succ len ih => simp [natLe, ih]

theorem Blk.tsqPop_fst (b : Blk) : b.tsqPop.1 = b.tsq.head?.elim [] TsqEntry.bytes := by
  unfold Blk.tsqPop
  cases b.tsq <;> rfl

@[simp] theorem Blk.tsqPop_tsq (b : Blk) : b.tsqPop.2.tsq = b.tsq.tail := by
  unfold Blk.tsqPop
  split
  · next h => simp [h]
  · next h => simp [h]

@[simp] theorem Blk.tsqPop_out (b : Blk) : b.tsqPop.2.out = b.out := by
  unfold Blk.tsqPop
  split <;> rfl

/-- A stamp is one entry of 16 bytes (Table 2.7), so every read of the queue fits the shortest message (R86). -/
theorem Blk.length_tsqPop_le (b : Blk) : b.tsqPop.1.length ≤ 16 := by
  unfold Blk.tsqPop
  split
  · exact Nat.zero_le _
  · simp [TsqEntry.bytes]

/-- An item that names tsq_pop names no subindex 0. -/
theorem sub_ne_zero_of_itemKey {i : Item} (hk : itemKey i = K.tsqPop) : i.sub.toNat ≠ 0 := by
  intro h
  simp only [itemKey, K.tsqPop, h] at hk
  omega

/-! ### What taking up and answering a request leave of a block -/

@[simp] theorem Blk.heard_tsq (b : Blk) (src q : Word) : (b.heard src q).tsq = b.tsq := rfl

@[simp] theorem Blk.countRole_tsq (b : Blk) (n : Nat) : (b.countRole n).tsq = b.tsq := by
  unfold Blk.countRole
  split <;> simp

/-- A block that has answered a request, with the response noted or, for BUSY, the request forgotten (R81). -/
def Blk.answered (b : Blk) (q : Req) (old : Option SeqMem) (r : Resp) : Blk :=
  if r.status = BitVec.ofNat 8 stBusy then (b.respond q r).unheard r.peer old else (b.respond q r).remember r

theorem finishReq_eq {σ : Type} (E : Env σ) (s : σ) (q : Req) (old : Option SeqMem) (r : Resp) :
    finishReq E s q old r = E.upd s (fun b => b.answered q old r) := rfl

@[simp] theorem Blk.answered_tsq (b : Blk) (q : Req) (old : Option SeqMem) (r : Resp) : (b.answered q old r).tsq = b.tsq := by
  unfold Blk.answered
  split <;> rfl

theorem Blk.resp_mem_answered (b : Blk) (q : Req) (old : Option SeqMem) (r : Resp) : .resp q.way r ∈ (b.answered q old r).out := by
  have h : .resp q.way r ∈ (b.respond q r).out := List.mem_append_right _ (List.mem_singleton_self _)
  unfold Blk.answered
  split <;> exact h

/-! ### A fresh request comes to its opcode (R442 steps 1 to 4) -/

section
variable {σ : Type} (E : Env σ)

/-- A build whose endpoint has taken note of a request's number (R81). -/
def Env.hear (s : σ) (q : Req) : σ := E.upd s (fun b => b.heard ((E.blk s).srcOf q) q.seq)

theorem judge_of_fresh {s : σ} {op : Nat} {q : Req} {need : Nat} (run : σ → Word → Nat → Option SeqMem → σ)
    (hf : (E.blk s).fresh op q = true) (hneed : need ≤ (E.blk s).effRole q) :
    judge E s op q true need run = run (E.hear s q) ((E.blk s).srcOf q) ((E.blk s).effRole q) ((E.blk s).memOf ((E.blk s).srcOf q)) := by
  simp only [Blk.fresh, Blk.answering, Blk.newTo, Bool.and_eq_true, decide_eq_true_eq] at hf
  obtain ⟨⟨⟨⟨⟨hhears, hreset⟩, henv⟩, hwhole⟩, hmine⟩, hnew, hroom⟩ := hf
  have hreset : (E.blk s).resetWanted.isSome = false := by simpa using hreset
  have hroom : ¬ 32 ≤ (E.blk s).execs.length := by omega
  have hneed : ¬ (E.blk s).effRole q < need := by omega
  unfold judge
  cases hm : (E.blk s).memOf ((E.blk s).srcOf q) with
  | none => simp [hhears, hreset, henv, hmine, hwhole, hm, hroom, hneed, Env.hear]
  | some m =>
    simp only [hm, Bool.and_eq_true, Option.isNone_iff_eq_none] at hnew
    obtain ⟨hafter, hnone⟩ := hnew
    simp [hhears, hreset, henv, hmine, hwhole, hm, hroom, hneed, Env.hear, hafter, hnone]

/-! ### A READ of one item that is handed out (R79) -/

/-- The item of a response that hands out the value `v` of an object of type `type` (Table 3.8). -/
def handedItem (i : Item) (type : Nat) (v : Val) : Item :=
  { i with type := BitVec.ofNat 8 type, length := BitVec.ofNat 16 (valData type v).length, status := 0, target := 0,
           data := valData type v }

variable {E} {s : σ} {q : Req} {role type : Nat} {i : Item} {v : Val}

theorem readOut_val (hr : readOut E s q role i = some (type, v)) (hsub : i.sub.toNat ≠ 0) : v = (E.rd s (itemKey i)).1 := by
  simp only [readOut, if_neg hsub] at hr
  split at hr
  · exact absurd hr (by simp)
  · split at hr
    · exact absurd hr (by simp)
    · next d _ =>
      obtain ⟨-, h⟩ := Prod.mk.inj (Option.some.inj hr)
      exact h.symm

/-- An item that the block hands out is answered with its value, when the response has room for it, and the read has had its effect. -/
theorem readOne_of_readOut {p : Pass σ} (hr : readOut E p.st q role i = some (type, v)) (hsub : i.sub.toNat ≠ 0)
    (hfit : p.used + 8 + ((valData type v).length + 7) / 8 * 8 ≤ wayLimit q.way) :
    readOne E q role p i =
      { p with st := (E.rd p.st (itemKey i)).2, items := p.items ++ [handedItem i type v],
               used := p.used + 8 + ((valData type v).length + 7) / 8 * 8 } := by
  have hv := readOut_val hr hsub
  simp only [readOut, if_neg hsub] at hr
  split at hr
  · exact absurd hr (by simp)
  · next hok =>
    simp only [hsub, Bool.or_eq_true, Bool.not_eq_true', Bool.and_eq_true, decide_eq_true_eq, ne_eq, not_false_eq_true,
      true_and, not_or, Bool.not_eq_false, Decidable.not_not] at hok
    obtain ⟨hans, hrchk⟩ := hok
    rcases hread : readStatus (E.blk p.st).isLeaf role i.index.toNat i.sub.toNat with ⟨st, d, rr⟩
    rw [hread] at hr
    cases d with
    | none => exact absurd hr (by simp)
    | some d =>
      obtain ⟨htype, -⟩ := Prod.mk.inj (Option.some.inj hr)
      subst htype hv
      simp [readOne, hans, hrchk, hread, hsub, Nat.not_lt.mpr hfit, handedItem]

/-- A fresh READ of one item that the block hands out. -/
theorem doRead_of_readOut (hf : (E.blk s).fresh opRead q = true) (hi : q.items = [i])
    (hr : readOut E (E.hear s q) q ((E.blk s).effRole q) i = some (type, v)) (hsub : i.sub.toNat ≠ 0)
    (hfit : 24 + ((valData type v).length + 7) / 8 * 8 ≤ wayLimit q.way) :
    doRead E s q =
      finishReq E (E.upd (E.rd (E.hear s q) (itemKey i)).2 (fun b => b.countRole 0)) q ((E.blk s).memOf ((E.blk s).srcOf q))
        { bare ((E.blk s).srcOf q) opRead stOk q with items := [handedItem i type v] } := by
  rw [doRead, judge_of_fresh E _ hf (Nat.zero_le _), hi, List.foldl_cons, List.foldl_nil,
    readOne_of_readOut (p := Pass.start (E.hear s q)) hr hsub hfit]
  rfl

end

/-! ### A READ of the stamp queue, at any build -/

/-- A build that reads tsq_pop out of its block's stamp queue. -/
structure Env.PopsStamps {σ : Type} (E : Env σ) : Prop where
  blk_put : ∀ s b, E.blk (E.put s b) = b
  rd_tsqPop : ∀ s, E.rd s K.tsqPop = (.bytes (E.blk s).tsqPop.1, E.put s (E.blk s).tsqPop.2)

theorem leafEnv_popsStamps : leafEnv.PopsStamps := ⟨fun _ _ => rfl, fun _ => rfl⟩

theorem chanEnv_popsStamps : chanEnv.PopsStamps := ⟨fun _ _ => rfl, fun _ => rfl⟩

/-- From `b` to `b'` the oldest stamp has left the queue, and a response with status OK hands out its bytes. -/
def Blk.ReadsStamp (q : Req) (b b' : Blk) : Prop :=
  b'.tsq = b.tsq.tail ∧ ∃ r, .resp q.way r ∈ b'.out ∧ r.seq = q.seq ∧ r.status = 0 ∧ r.items.map (·.data) = [b.tsqPop.1]

theorem Env.PopsStamps.doRead {σ : Type} {E : Env σ} (hE : E.PopsStamps) {s : σ} {q : Req} {i : Item} {type : Nat} {v : Val}
    (hf : (E.blk s).fresh opRead q = true) (hi : q.items = [i]) (hk : itemKey i = K.tsqPop)
    (hr : readOut E (E.hear s q) q ((E.blk s).effRole q) i = some (type, v)) : (E.blk s).ReadsStamp q (E.blk (doRead E s q)) := by
  have hsub := sub_ne_zero_of_itemKey hk
  have hpop : (E.blk (E.hear s q)).tsqPop.1 = (E.blk s).tsqPop.1 := by
    simp [Blk.tsqPop_fst, Env.hear, Env.upd, hE.blk_put]
  have hv : v = .bytes (E.blk s).tsqPop.1 := by rw [readOut_val hr hsub, hk, hE.rd_tsqPop, hpop]
  have hdata : valData type v = (E.blk s).tsqPop.1 := by rw [hv]; rfl
  have hfit : 24 + ((valData type v).length + 7) / 8 * 8 ≤ wayLimit q.way := by
    have h16 := (E.blk s).length_tsqPop_le
    have h255 : 255 ≤ wayLimit q.way := by cases q.way <;> simp [wayLimit]
    rw [hdata]
    omega
  rw [doRead_of_readOut hf hi hr hsub hfit, finishReq_eq, hk, hE.rd_tsqPop]
  refine ⟨?_, { bare ((E.blk s).srcOf q) opRead stOk q with items := [handedItem i type v] }, ?_, rfl, rfl,
    congrArg (fun d => [d]) hdata⟩
  · simp [Env.hear, Env.upd, hE.blk_put]
  · rw [Env.upd, hE.blk_put]
    exact Blk.resp_mem_answered _ _ _ _

/-! ### What stands of a command's effect on a block -/

theorem State.onCS_tsq (s : State) (c : Ch) (f : CS → CS) :
    ((s.onCS c f).chan c).b.tsq = (f { ch := s.chan c, sh := s.sh }).ch.b.tsq := by
  show ((s.onCS c f).chan c).own.b.tsq = (f { ch := s.chan c, sh := s.sh }).ch.own.b.tsq
  rw [State.onCS_own]

theorem State.onLeaf_tsq (s : State) (f : Leaf → Leaf) : (s.onLeaf f).leaf.b.tsq = (f s.leaf).b.tsq := by
  show (s.onLeaf f).leaf.own.b.tsq = (f s.leaf).own.b.tsq
  rw [State.onLeaf_own]

section
variable {s : State} {n : Node} (f : Blk → Blk) (h : (s.blk n).live = true)
include h

/-- A command on the common part of a live block: its effect on the stamp queue stands. -/
theorem State.onBlk_tsq : ((s.onBlk n f).blk n).tsq = (f (s.blk n)).tsq := by
  cases n with
  | leaf =>
    rw [State.onBlk, if_pos (show s.leaf.b.live = true from h)]
    exact State.onLeaf_tsq s _
  | chan c =>
    rw [State.onBlk, if_pos (show (s.chan c).b.live = true from h)]
    exact State.onCS_tsq s c _

/-- A command on the common part of a live block: what it puts out stays put out. -/
theorem State.onBlk_out : (f (s.blk n)).out <+: ((s.onBlk n f).blk n).out := by
  cases n with
  | leaf =>
    rw [State.onBlk, if_pos (show s.leaf.b.live = true from h)]
    exact State.onLeaf_out s (fun l => { l with b := f l.b })
  | chan c =>
    rw [State.onBlk, if_pos (show (s.chan c).b.live = true from h)]
    exact State.onChan_out s c (fun x => x.onB f)

end

theorem Blk.popStamp_tsq (b : Blk) : b.popStamp.tsq = b.tsq.tail := by simp [Blk.popStamp]

theorem Blk.data_mem_popStamp (b : Blk) : .data K.tsqPop b.tsqPop.1 ∈ b.popStamp.out :=
  List.mem_append_right _ (List.mem_singleton_self _)

/-! ### TSQ_POP and READ at the machine -/

theorem exec_tsqPop (n : Node) (s : State) :
    exec (.tsqPop n) s = .next (s.onBlk n (fun b => if b.takes K.tsqPop then b.popStamp else b)) := rfl

theorem exec_read_of_known {q : Req} (h : q.other = none) (n : Node) (s : State) :
    exec (.read n q) s = .next (s.onNode n (fun l => doRead leafEnv l q) (fun cs => doRead chanEnv cs q)) := by
  show execRead n q s = _
  rw [execRead, h]

/-- TSQ_POP at a block that runs. -/
theorem runs_tsqPop {s : State} {n : Node} (hrun : (s.blk n).phase = .run) :
    Runs (.tsqPop n) s (fun t => (t.blk n).tsq = (s.blk n).tsq.tail ∧ .data K.tsqPop (s.blk n).tsqPop.1 ∈ (t.blk n).out) := by
  have hlive : (s.blk n).live = true := by simp [Blk.live, hrun]
  have htakes : (s.blk n).takes K.tsqPop = true := by simp [Blk.takes, hrun]
  refine ⟨_, exec_tsqPop n s, ?_, ?_⟩
  · rw [State.onBlk_tsq _ hlive, if_pos htakes, Blk.popStamp_tsq]
  · refine (State.onBlk_out _ hlive).subset ?_
    rw [if_pos htakes]
    exact Blk.data_mem_popStamp _

/-- What a READ has put out and taken from the queue stands in what follows it. -/
theorem Blk.ReadsStamp.after {q : Req} {a b c : Blk} (h : a.ReadsStamp q b) (htsq : c.tsq = b.tsq) (hout : b.out <+: c.out) :
    a.ReadsStamp q c := by
  obtain ⟨hb, r, hr, hrest⟩ := h
  exact ⟨htsq.trans hb, r, hout.subset hr, hrest⟩

/-- A READ that may read tsq_pop. -/
theorem runs_read_tsqPop {s : State} {n : Node} {q : Req} {i : Item} {type : Nat} {v : Val} (hf : (s.blk n).fresh opRead q = true)
    (hknown : q.other = none) (hi : q.items = [i]) (hk : itemKey i = K.tsqPop) (hr : s.readsOut n q i = some (type, v)) :
    Runs (.read n q) s (fun t => (s.blk n).ReadsStamp q (t.blk n)) := by
  refine ⟨_, exec_read_of_known hknown n s, ?_⟩
  cases n with
  | leaf =>
    have h := leafEnv_popsStamps.doRead (s := s.leaf) hf hi hk hr
    exact h.after (State.onLeaf_tsq s (fun l => doRead leafEnv l q)) (State.onLeaf_out s (fun l => doRead leafEnv l q))
  | chan c =>
    have h := chanEnv_popsStamps.doRead (s := { ch := s.chan c, sh := s.sh }) hf hi hk hr
    exact h.after (State.onCS_tsq s c (fun cs => doRead chanEnv cs q)) (State.onCS_out s c (fun cs => doRead chanEnv cs q))

end Sys2Proof.Machine

open Sys2Proof Sys2Proof.Machine

/-- Settles O9: TSQ_POP and a READ each do to the block what a read of tsq_pop does to its stamp queue, and nothing that follows a
command touches the queue or takes back what was put out. -/
theorem stampsArePopped : Obligations.StampsArePopped := by
  unfold Obligations.StampsArePopped
  intro s n bytes
  have hbytes : bytes = (s.blk n).tsqPop.1 := by
    unfold bytes
    rw [Blk.tsqPop_fst]
    cases (s.blk n).tsq <;> rfl
  rw [hbytes]
  exact ⟨runs_tsqPop, fun _ _ _ _ hf hknown hi hk hr => runs_read_tsqPop hf hknown hi hk hr⟩

end

section
/-! PROOF. The release of the clasp (R404): what settles after a command does to H, what C2, C3 and the two resets leave of the phase
and the claims of a channel, and that a write of power_state which passes its checks is carried out. -/

namespace Sys2Proof.Machine

/-! ### The shared logic settles: the holder and the claims -/

theorem mem_allCh (c : Ch) : c ∈ allCh := by revert c; decide

@[simp] theorem State.settle_chan (s : State) (c : Ch) : s.settle.chan c = s.chan c := by
  unfold State.settle
  split <;> rfl

@[simp] theorem Shared.setTarget_holder (h : Shared) (t : Nat) : (h.setTarget t).holder = h.holder := by
  unfold Shared.setTarget
  split <;> rfl

@[simp] theorem Shared.raiseTarget_holder (h : Shared) (l : List Nat) : (h.raiseTarget l).holder = h.holder := by
  simp only [Shared.raiseTarget]
  split <;> simp

theorem State.settle_claims (s : State) : s.settle.sh.claims = s.sh.claims := by
  show s.settle.sh.own.claims = s.sh.own.claims
  rw [(State.around_settle 0 s).sh]

/-- The clasp is released when H is the place of a channel that has left C0 for C2 or C3. -/
theorem State.released_iff {s : State} :
    s.released = true ↔ ∃ c : Ch, s.sh.holder = c.val ∧ ((s.chan c).b.phase = .retained ∨ (s.chan c).b.phase = .off) := by
  simp [State.released, mem_allCh]

theorem State.settle_holder_of_released {s : State} (hp : s.sh.powered = true) (hr : s.released = true) :
    s.settle.sh.holder = 0xFF := by
  simp [State.settle, hp, hr]

theorem State.settle_holder_of_not_released {s : State} (hr : s.released = false) : s.settle.sh.holder = s.sh.holder := by
  unfold State.settle
  split
  · rfl
  · simp [hr]

/-- H stays when the holder is in neither C2 nor C3. -/
theorem State.settle_holder_of_awake {s : State} {c : Ch} (hh : s.sh.holder = c.val) (h2 : (s.chan c).b.phase ≠ .retained)
    (h3 : (s.chan c).b.phase ≠ .off) : s.settle.sh.holder = c.val := by
  have hr : s.released = false := by
    rw [Bool.eq_false_iff, Ne, State.released_iff]
    rintro ⟨d, hd, hphase⟩
    obtain rfl : c = d := Fin.ext (hh.symm.trans hd)
    exact hphase.elim h2 h3
  rw [State.settle_holder_of_not_released hr, hh]

/-- No channel is H before, and none after. -/
theorem State.settle_holder_of_none {s : State} (hh : s.sh.holder = 0xFF) : s.settle.sh.holder = 0xFF := by
  have hr : s.released = false := by
    rw [Bool.eq_false_iff, Ne, State.released_iff]
    rintro ⟨d, hd, -⟩
    have := d.isLt
    omega
  rw [State.settle_holder_of_not_released hr, hh]

/-! ### A write of power_state that passes its checks -/

theorem ne_stOk_of_lookup_inl {leaf : Bool} {idx sub st : Nat} (h : lookup leaf idx sub = .inl st) : st ≠ stOk := by
  have hst : st = stNoObject ∨ st = stNoSub := by
    unfold lookup at h
    repeat' split at h
    all_goals cases h <;> simp
  rcases hst with rfl | rfl <;> decide

theorem eq_of_ite_eq {α : Type} {p : Prop} [Decidable p] {a b x : α} (h : (if p then a else b) = x) (ha : a ≠ x) : b = x := by
  by_cases hp : p
  · exact absurd ((if_pos hp).symm.trans h) ha
  · exact (if_neg hp).symm.trans h

/-- A value that a block takes has passed the check of its object's own state. -/
theorem chk_of_rowStatus {σ : Type} {E : Env σ} {s : σ} {src : Word} {key : Nat} {v : Val}
    (h : rowStatus E s src key v = (stOk, v)) : ∃ view, E.chk s src true view key v = stOk := by
  unfold rowStatus at h
  dsimp only at h
  split at h
  · next hl => exact absurd (Prod.mk.inj h).1 (ne_stOk_of_lookup_inl hl)
  · have haccepted := eq_of_ite_eq h fun e => absurd (Prod.mk.inj e).1 (by decide)
    split at haccepted
    · exact absurd (Prod.mk.inj haccepted).1 (by decide)
    · obtain ⟨hchk, rfl⟩ := Prod.mk.inj haccepted
      exact ⟨_, hchk⟩

theorem Chan.status_powerState (c : Chan) (view : Nat → Val) (v : Val) :
    c.status view K.powerState v = c.powerStatus view v.toNum := rfl

theorem Chan.powerStatus_of_passes {c : Chan} {h : Shared} {v : Val} (hp : c.passes h K.powerState v = true) :
    ∃ view, (c.onB (fun b => { b with applying := true })).powerStatus view v.toNum = stOk := by
  simp only [Chan.passes, Bool.and_eq_true, decide_eq_true_eq] at hp
  obtain ⟨view, hchk⟩ := chk_of_rowStatus hp.2
  exact ⟨view, (Chan.status_powerState _ view v).symm.trans hchk⟩

/-- C2 is entered from C0 alone (R371). -/
theorem Chan.powerStateNow_of_powerStatus_c2 {c : Chan} {view : Nat → Val} (h : c.powerStatus view 2 = stOk) :
    c.b.num K.powerStateNow = 0 := by
  refine Decidable.byContradiction fun hnow => ?_
  simp [Chan.powerStatus, hnow] at h

/-- C3 is entered from C0 or C2 (R371). -/
theorem Chan.powerStateNow_of_powerStatus_c3 {c : Chan} {view : Nat → Val} (h : c.powerStatus view 3 = stOk) :
    c.b.num K.powerStateNow ≠ 3 := by
  intro hnow
  simp [Chan.powerStatus, hnow] at h

theorem Chan.enterC2_phase {c : Chan} (h : c.b.num K.powerStateNow = 0) : c.enterC2.b.phase = .retained := by
  rw [Chan.enterC2, if_neg (not_not_intro h)]

theorem Chan.enterC3_phase {c : Chan} (h : c.b.num K.powerStateNow ≠ 3) : c.enterC3.b.phase = .off := by
  rw [Chan.enterC3, if_neg h]
  rfl

/-- A holder that a write of power_state puts into C2 or C3 releases the clasp. -/
theorem State.chanPower_holder {s : State} {c : Ch} {n : Nat} (f : Chan → Chan) (hpow : s.sh.powered = true)
    (hh : s.sh.holder = c.val) (hp : s.passes (.chan c) K.powerState (.num n) = true)
    (hphase : ∀ x view, x.powerStatus view n = stOk → (f x).b.phase = .retained ∨ (f x).b.phase = .off) :
    (s.chanPower c n f).sh.holder = 0xFF := by
  obtain ⟨view, hst⟩ := Chan.powerStatus_of_passes hp
  refine State.settle_holder_of_released hpow (State.released_iff.mpr ⟨c, hh, ?_⟩)
  rw [State.chan_putChan_same, Chan.row_passed (fun y _ => f y) hp]
  exact hphase _ view hst

/-! ### Channel reset and warm reset -/

theorem mget_mfilter_out {α : Type} (d : Nat → α) (p : Nat → Bool) (m : NMap α) {k : Nat} (h : p k = false) :
    mget d (mfilter p m) k = d k := by
  refine mget_none fun e he hk => ?_
  have hpe : p e.1 = true := (List.mem_filter.mp he).2
  rw [hk, h] at hpe
  exact absurd hpe (by decide)

/-- An object that a reset does not keep reads its default. -/
theorem Blk.val_softReset_of_not_kept (b : Blk) {keep : Nat → Bool} {k : Nat} (h : keep k = false) :
    (b.softReset keep).val k = dflt (b.softReset keep).isLeaf k := mget_mfilter_out _ _ _ h

theorem dflt_claspHeld (leaf : Bool) : dflt leaf K.claspHeld = .num 0 := by cases leaf <;> decide

/-- After a reset a channel does not hold the clasp for itself: clasp_held is of class V. -/
theorem Chan.fastReset_claspHeld (c : Chan) (kind : Nat) : (c.fastReset kind).b.num K.claspHeld = 0 := by
  show ((c.b.softReset chanKeeps).setNum K.lastResetKind kind).num K.claspHeld = 0
  rw [Blk.num_setNum_ne _ _ (by decide), Blk.num, Blk.val_softReset_of_not_kept _ (by decide), dflt_claspHeld, Val.toNum]

@[simp] theorem Chan.fastReset_phase (c : Chan) (kind : Nat) : (c.fastReset kind).b.phase = .fast := rfl

theorem Chan.resetNow_of_retains {c : Chan} (h : c.retains = true) : c.resetNow = c.fastReset 2 := by
  rw [Chan.resetNow, if_pos h]

theorem State.resetChan_chan_of_retains {s : State} {c : Ch} (h : (s.chan c).retains = true) :
    (s.resetChan c).chan c = (s.chan c).fastReset 2 := by
  rw [State.resetChan, State.settle_chan, State.chan_putChan_same, Chan.resetNow_of_retains h]

/-- A channel reset of the holder leaves H. -/
theorem State.resetChan_holder {s : State} {c : Ch} (hh : s.sh.holder = c.val) (h : (s.chan c).retains = true) :
    (s.resetChan c).sh.holder = c.val := by
  have hphase : (s.chan c).resetNow.b.phase = .fast := by rw [Chan.resetNow_of_retains h, Chan.fastReset_phase]
  exact State.settle_holder_of_awake hh (by simp [hphase]) (by simp [hphase])

theorem State.warmReset_holder (s : State) : s.warmReset.sh.holder = 0xFF := State.settle_holder_of_none rfl

theorem State.warmReset_claims (s : State) : s.warmReset.sh.claims = none := State.settle_claims _

theorem State.warmReset_chan_of_retains {s : State} {c : Ch} (h : (s.chan c).retains = true) :
    s.warmReset.chan c = (((s.chan c).fastReset 1).compose).readdress := by
  rw [State.warmReset, State.settle_chan, State.chan, Quad.get_map]
  exact if_pos h

/-! ### The commands that release the clasp, or do not -/

theorem exec_enterC2 (c : Ch) (s : State) : exec (.enterC2 c) s = .next (s.chanPower c 2 Chan.enterC2) := rfl

theorem exec_enterC3 (c : Ch) (s : State) : exec (.enterC3 c) s = .next (s.chanPower c 3 Chan.enterC3) := rfl

theorem exec_channelResetRequest (c : Ch) (s : State) : exec (.channelResetRequest c) s = .next (s.resetChan c) := rfl

theorem exec_warmResetRequest_of_due {s : State} {c : Ch} (h : s.warmDue c = true) :
    exec (.warmResetRequest c) s = .next s.warmReset := by
  show execWarmResetRequest c s = _
  rw [execWarmResetRequest, if_pos h]

end Sys2Proof.Machine

open Sys2Proof Sys2Proof.Machine

/-- Settles O58: what settles after a command frees H exactly when H is the place of a channel in C2 or C3. A write of power_state that
passes puts the holder there; a channel reset puts it into its fast path with clasp_held at its default; after a warm reset no
channel is H. -/
theorem claspIsReleased : Obligations.ClaspIsReleased := by
  unfold Obligations.ClaspIsReleased
  intro s c hpow hh
  refine ⟨fun hp => ?_, fun hp => ?_, fun hret => ?_, fun hdue => ?_⟩
  · exact ⟨_, exec_enterC2 c s, State.chanPower_holder _ hpow hh hp fun _ _ hst =>
      .inl (Chan.enterC2_phase (Chan.powerStateNow_of_powerStatus_c2 hst))⟩
  · exact ⟨_, exec_enterC3 c s, State.chanPower_holder _ hpow hh hp fun _ _ hst =>
      .inr (Chan.enterC3_phase (Chan.powerStateNow_of_powerStatus_c3 hst))⟩
  · refine ⟨_, exec_channelResetRequest c s, State.resetChan_holder hh hret, fun _ => ?_⟩
    rw [State.resetChan_chan_of_retains hret]
    exact Chan.fastReset_claspHeld _ _
  · refine ⟨_, exec_warmResetRequest_of_due hdue, State.warmReset_holder s, State.warmReset_claims s, fun d hret => ?_⟩
    rw [State.warmReset_chan_of_retains hret]
    exact ⟨rfl, rfl⟩

end

section
/-! PROOF. A request that gets no answer (R427): what MMP_TIMEOUT of a status write-back does to a mover whose source bytes are all there
(R339), and the state that refutes the claim on it. -/

namespace Sys2Proof.Machine

/-! ### What presenting requests and moving out leave of the dictionary -/

theorem Chan.present_val {c c1 : Chan} {k : Nat} (h : c.present k = some c1) : c1.b.val = c.b.val := by
  simp only [Chan.present] at h
  split at h
  · split at h
    · cases h
    · cases h
      rfl
  · cases h

theorem Chan.presentOne_val {c c1 : Chan} {ks : List Nat} (h : c.presentOne ks = some c1) : c1.b.val = c.b.val := by
  induction ks with
  | nil => cases h
  | cons k ks ih =>
    simp only [Chan.presentOne] at h
    split at h
    · next hk =>
      cases h
      exact Chan.present_val hk
    · exact ih h

@[simp] theorem Chan.present64_val (c : Chan) (fuel : Nat) : (c.present64 fuel).b.val = c.b.val := by
  induction fuel generalizing c with
  | zero => rfl
  | succ fuel ih =>
    simp only [Chan.present64]
    split
    · rfl
    · next c1 h => rw [ih, Chan.presentOne_val h]

@[simp] theorem Chan.present64_moverState (c : Chan) (fuel m : Nat) : (c.present64 fuel).moverState m = c.moverState m := by
  simp only [Chan.moverState, Blk.num, Chan.present64_val]

@[simp] theorem Chan.openBytes_moverState (c : Chan) (d : Dma) (data : List Byte) (m : Nat) :
    (c.openBytes d data).2.moverState m = c.moverState m := by
  unfold Chan.openBytes
  extract_lets sl inSrc
  split <;> rfl

@[simp] theorem Chan.onMem_moverState (c : Chan) (f : Mem → Mem) (m : Nat) : (c.onMem f).moverState m = c.moverState m := rfl

/-- A mover that turns from reading to writing stays in its state. -/
@[simp] theorem Chan.moveOut_moverState (c : Chan) (m k : Nat) : (c.moveOut m).moverState k = c.moverState k := by
  simp [Chan.moveOut]

/-! ### The timeout of a request of a mover whose source is whole -/

/-- Full source bytes go out before anything is made of the request that was answered. -/
theorem Chan.moverGoes_of_filled {c : Chan} {m : Nat} (h : (c.mem.client m).filled = true) (r : MReq) :
    c.moverGoes m r = c.moveOut m := by
  rw [Chan.moverGoes, if_pos h]

@[simp] theorem Mem.client_mapClient_same (m : Mem) (k : Nat) (f : Dma → Dma) : (m.mapClient k f).client k = f (m.client k) :=
  mget_mset_same _ _ _ _

/-- The failed write-back of a status is noted beside the writes (R427); what the client has read stays. -/
theorem Dma.answer_writeBack_err (d : Dma) {r : MReq} (hk : r.kind = 3) (desc data : Nat) :
    d.answer r desc true data = { d with live := d.live - 1, writeFault := some 0 } := by
  simp [Dma.answer, hk]

/-- A client that reads and has no request to await but one is whole once that one has ended. -/
theorem Dma.filled_answer_writeBack {d : Dma} {r : MReq} (hk : r.kind = 3) (hphase : d.phase = .read) (hlive : d.live ≤ 1)
    (hasked : d.asked = d.reads) (hread : d.readFault = none) (desc data : Nat) : (d.answer r desc true data).filled = true := by
  rw [Dma.answer_writeBack_err d hk]
  show (d.phase == .read && d.live - 1 == 0 && d.asked == d.reads && d.readFault.isNone) = true
  simp [hphase, hread, hasked, Nat.sub_eq_zero_of_le hlive]

theorem Chan.bump_timeouts_moverState (c : Chan) (m : Nat) :
    (c.onB (·.bump K.mmpTimeouts)).moverState m = c.moverState m :=
  Blk.num_bump_ne c.b 1 (by simp only [moverKey, K.state, K.mmpTimeouts]; omega)

/-- The timeout of a write-back by a mover that is found reading, with its source whole, halts nothing: the source goes out. -/
theorem Chan.mmpTimeout_moverState_of_reading {c : Chan} {n : Nat} {r : MReq} (hr : mfind c.mem.reqs n = some r) (hdead : r.dead = false)
    (hk : r.kind = 3) (hclient : r.client < 8) (hphase : (c.mem.client r.client).phase = .read)
    (hlive : (c.mem.client r.client).live ≤ 1) (hasked : (c.mem.client r.client).asked = (c.mem.client r.client).reads)
    (hread : (c.mem.client r.client).readFault = none) (m : Nat) : (c.mmpTimeout n).moverState m = c.moverState m := by
  have hcomp : r.client ≠ compClient := by unfold compClient; omega
  have hdecomp : r.client ≠ decompClient := by unfold decompClient; omega
  simp only [Chan.mmpTimeout, hr, hdead, Chan.clientAnswer, if_neg hcomp, if_neg hdecomp, Bool.false_eq_true, if_false]
  rw [Chan.moverGoes_of_filled]
  · simp [Chan.bump_timeouts_moverState]
  · exact (congrArg Dma.filled (Mem.client_mapClient_same _ _ _)).trans
      (Dma.filled_answer_writeBack hk hphase hlive hasked hread _ _)

/-! ### At the machine -/

theorem exec_mmpTimeout (tag : Byte) (s : State) :
    exec (.mmpTimeout tag) s = .next (s.atWork (tagChan tag) (·.mmpTimeout (tag.toNat % 64))) := rfl

/-- What a command at a channel at work does to the state of a mover stands. -/
theorem State.atWork_moverState {s : State} {c : Ch} (h : (s.chan c).b.works = true) (f : Chan → Chan) {m : Nat} (hm : m < 8) :
    ((s.atWork c f).chan c).moverState m = (f (s.chan c)).moverState m :=
  Blk.num_of_own (congrArg Chan.b (State.atWork_own s c f h))
    (by simp only [isFaultKey, moverKey, K.state, beq_eq_false_iff_ne]; omega)

/-- A write-back of mover 0 that is outstanding. -/
def writeBackReq : MReq := { client := 0, kind := 3, idx := 0, line := 0, dead := false }

/-- Channel 0 runs, and mover 0 is found reading a source of no bytes while its write-back is outstanding under number 0; every other
register is as reset leaves it. -/
def writeBackWhileReading : State :=
  State.reset.putChan 0 { Chan.reset 0 with
    b := { Blk.reset false 0 with phase := .run },
    mem := { Mem.reset with clients := [(0, { Dma.idle with phase := .read, live := 1 })], reqs := [(0, writeBackReq)] } }

/-- The timeout leaves mover 0 idle, where R427 with assumption 55 would have it halted. -/
theorem mmpTimeout_writeBackWhileReading :
    ((writeBackWhileReading.atWork 0 (·.mmpTimeout 0)).chan 0).moverState 0 = 0 := by
  rw [State.atWork_moverState (by decide) _ (by decide),
    Chan.mmpTimeout_moverState_of_reading (r := writeBackReq) (by decide) rfl rfl (by decide) (by decide) (by decide) (by decide) (by decide)]
  decide

end Sys2Proof.Machine

open Sys2Proof Sys2Proof.Machine

/-- Refutes O46: the clause on a status write-back (kind 3) does not say that its mover is writing back. In `writeBackWhileReading` the
client of mover 0 reads, and its source is whole when the write-back ends without an answer: the mover moves its bytes out and is not
halted. With the client in the phase `.back`, as the write-backs of DESCRIPTOR_DONE leave it (R339), this state is excluded. -/
theorem not_unansweredRequestsAreFaults : ¬ Obligations.UnansweredRequestsAreFaults := by
  unfold Obligations.UnansweredRequestsAreFaults
  intro h
  obtain ⟨htimeout, -⟩ := h writeBackWhileReading 0
  obtain ⟨t, hexec, -, -, -, -, -, hhalts⟩ := htimeout writeBackReq (by decide) (by decide) rfl
  obtain ⟨hhalted, -⟩ := hhalts rfl (by decide)
  rw [exec_mmpTimeout] at hexec
  cases hexec
  exact absurd (mmpTimeout_writeBackWhileReading.symm.trans hhalted) (by decide)

end

section
/-! PROOF. The queue of commands, the kind and place of every block, and the isolation of the channels: the lemma of each command, gathered
over all of them. -/

namespace Sys2Proof.Machine

/-! ### Every command completes, with the queue as it was and every block of its kind and in its place -/

theorem exec_holds (i : Instr) (s : State) : ∃ t, exec i s = .next t ∧ State.Holds s t := by
  cases i with
  | frameOpen n k given => exact execFrameOpen_holds n k given s
  | unitOverrun n u f left => exact execUnitOverrun_holds n u f left s
  | announceReceive n h m => exact execAnnounceReceive_holds n h m s
  | announceTimeout n d src => exact execAnnounceTimeout_holds n d src s
  | syncReceive n h t1 t2 => exact execSyncReceive_holds n h t1 t2 s
  | followUpReceive n h t1 => exact execFollowUpReceive_holds n h t1 s
  | delayRespReceive n h t4 => exact execDelayRespReceive_holds n h t4 s
  | delayReqSend n d seqId t3 => exact execDelayReqSend_holds n d seqId t3 s
  | guardAccept n => exact execGuardAccept_holds n s
  | activeDomainWrite n v => exact execActiveDomainWrite_holds n v s
  | holdoverBudgetExpire n ms => exact execHoldoverBudgetExpire_holds n ms s
  | ppsEdge c stamp => exact execPpsEdge_holds c stamp s
  | ppsLoss c => exact execPpsLoss_holds c s
  | tsqPop n => exact execTsqPop_holds n s
  | read n q => exact execRead_holds n q s
  | write n q => exact execWrite_holds n q s
  | segRead n q => exact execSegRead_holds n q s
  | segWrite n q => exact execSegWrite_holds n q s
  | txnOpen n q => exact execTxnOpen_holds n q s
  | txnStage n q => exact execTxnStage_holds n q s
  | txnCommit n q => exact execTxnCommit_holds n q s
  | txnAbort n q => exact execTxnAbort_holds n q s
  | txnStatus n q => exact execTxnStatus_holds n q s
  | txnOpenExpire n src num => exact execTxnOpenExpire_holds n src num s
  | bivanResponse n r => exact execBivanResponse_holds n r s
  | fleetRequest n q => exact execFleetRequest_holds n q s
  | prepare n q => exact execPrepare_holds n q s
  | commitToken n q => exact execCommitToken_holds n q s
  | abortToken n q => exact execAbortToken_holds n q s
  | tokenQuery n q => exact execTokenQuery_holds n q s
  | compensate n q => exact execCompensate_holds n q s
  | lastDecisionFrame c seq => exact execLastDecisionFrame_holds c seq s
  | guardFrameQuery n seq => exact execGuardFrameQuery_holds n seq s
  | deadlineFrameDiscard n seq => exact execDeadlineFrameDiscard_holds n seq s
  | commitCountCheck c seq => exact execCommitCountCheck_holds c seq s
  | compensateRetry c seq => exact execCompensateRetry_holds c seq s
  | undoHorizonExpire n seq => exact execUndoHorizonExpire_holds n seq s
  | counterRecord b off => exact execCounterRecord_holds b off s
  | barrierEvent b off => exact execBarrierEvent_holds b off s
  | checksumWord b off => exact execChecksumWord_holds b off s
  | traceEvent b off => exact execTraceEvent_holds b off s
  | coreLost core => exact execCoreLost_holds core s
  | lostTxnRetry => exact execLostTxnRetry_holds s
  | fenceAckTimeout core => exact execFenceAckTimeout_holds core s
  | fncAckChange core v => exact execFncAckChange_holds core v s
  | regionReading region kind value => exact execRegionReading_holds region kind value s
  | regionRequestPresent => exact execRegionRequestPresent_holds s
  | regionReqAck => exact execRegionReqAck_holds s
  | regionReqTimeout => exact execRegionReqTimeout_holds s
  | regionMismatch region => exact execRegionMismatch_holds region s
  | regionSettleEnd region => exact execRegionSettleEnd_holds region s
  | routingNotify bitmap => exact execRoutingNotify_holds bitmap s
  | seriesTableSwap => exact execSeriesTableSwap_holds s
  | sampleRatioWrite v => exact execSampleRatioWrite_holds v s
  | tsBeatDecide => exact execTsBeatDecide_holds s
  | tsSectionSeal => exact execTsSectionSeal_holds s
  | relearn bitmap => exact execRelearn_holds bitmap s
  | weightTapBeat data tensor word count epoch => exact execWeightTapBeat_holds data tensor word count epoch s
  | assayBeatDigest => exact execAssayBeatDigest_holds s
  | tensorTableSwap => exact execTensorTableSwap_holds s
  | assayWindowExpire c group tensor epoch => exact execAssayWindowExpire_holds c group tensor epoch s
  | groupEntryWrite c group v => exact execGroupEntryWrite_holds c group v s
  | dataFragmentReceive c src h data => exact execDataFragmentReceive_holds c src h data s
  | controlFragmentReceive n src h entries => exact execControlFragmentReceive_holds n src h entries s
  | fragmentSend n => exact execFragmentSend_holds n s
  | parentLost n => exact execParentLost_holds n s
  | leafAbsent c pos => exact execLeafAbsent_holds c pos s
  | attachReceive c joiner pos frame left => exact execAttachReceive_holds c joiner pos frame left s
  | releaseQueryReceive c src left children => exact execReleaseQueryReceive_holds c src left children s
  | releaseAnswerReceive c src entries => exact execReleaseAnswerReceive_holds c src entries s
  | releaseQueryTimeout c child => exact execReleaseQueryTimeout_holds c child s
  | releaseAnswerMissing c child => exact execReleaseAnswerMissing_holds c child s
  | returnHome n => exact execReturnHome_holds n s
  | channelSeriesSwap c => exact execChannelSeriesSwap_holds c s
  | paramSetsWrite c v => exact execParamSetsWrite_holds c v s
  | aggTableSwap c => exact execAggTableSwap_holds c s
  | imageCheckDone c img => exact execImageCheckDone_holds c img s
  | imageStoreDone c img ok => exact execImageStoreDone_holds c img ok s
  | balanceImageSwap c => exact execBalanceImageSwap_holds c s
  | ruleImageSwap c => exact execRuleImageSwap_holds c s
  | barrierWindowExpire c barrier => exact execBarrierWindowExpire_holds c barrier s
  | ruleTxnCommit c => exact execRuleTxnCommit_holds c s
  | notify c v => exact execNotify_holds c v s
  | suspectSet c v => exact execSuspectSet_holds c v s
  | suspectClear c v => exact execSuspectClear_holds c v s
  | lossSubmit c v => exact execLossSubmit_holds c v s
  | streamPacketSend c port => exact execStreamPacketSend_holds c port s
  | refillTick c sample => exact execRefillTick_holds c sample s
  | droopRecover => exact execDroopRecover_holds s
  | uplinkBackpressure c port => exact execUplinkBackpressure_holds c port s
  | backpressureClear c port => exact execBackpressureClear_holds c port s
  | portReturn c port => exact execPortReturn_holds c port s
  | traceArm t => exact execTraceArm_holds t s
  | traceTrigger t => exact execTraceTrigger_holds t s
  | traceStop t => exact execTraceStop_holds t s
  | traceClear => exact execTraceClear_holds s
  | traceRecordWrite => exact execTraceRecordWrite_holds s
  | traceStopInstant => exact execTraceStopInstant_holds s
  | stallBudgetExpire => exact execStallBudgetExpire_holds s
  | traceAuthoriseClear t => exact execTraceAuthoriseClear_holds t s
  | traceTriggerLeaves c v => exact execTraceTriggerLeaves_holds c v s
  | caratBlockSeal c => exact execCaratBlockSeal_holds c s
  | traceFetch c v => exact execTraceFetch_holds c v s
  | traceFetchResponse c stream status data => exact execTraceFetchResponse_holds c stream status data s
  | jobSubmit c v => exact execJobSubmit_holds c v s
  | jobComplete c decomp => exact execJobComplete_holds c decomp s
  | jobResult c => exact execJobResult_holds c s
  | moverStart c m a => exact execMoverStart_holds c m a s
  | moverStop c m => exact execMoverStop_holds c m s
  | descriptorFetch c m => exact execDescriptorFetch_holds c m s
  | descriptorDone c m => exact execDescriptorDone_holds c m s
  | mmpResponse tag err data => exact execMmpResponse_holds tag err data s
  | mmpTimeout tag => exact execMmpTimeout_holds tag s
  | sramUncorrectable n array row => exact execSramUncorrectable_holds n array row s
  | dramUncorrectable c seg => exact execDramUncorrectable_holds c seg s
  | flashOperationDone n ok => exact execFlashOperationDone_holds n ok s
  | faultLogWrite c stamp => exact execFaultLogWrite_holds c stamp s
  | permanentFenceCommit c => exact execPermanentFenceCommit_holds c s
  | clearLocation c v => exact execClearLocation_holds c v s
  | startupFailures c v => exact execStartupFailures_holds c v s
  | firmwareLogWrite c v => exact execFirmwareLogWrite_holds c v s
  | wakeRequest c v => exact execWakeRequest_holds c v s
  | wakeTxnCommit c => exact execWakeTxnCommit_holds c s
  | coreTargetStep => exact execCoreTargetStep_holds s
  | marginEvent c mv => exact execMarginEvent_holds c mv s
  | enterL1 t => exact execEnterL1_holds t s
  | enterL2 t => exact execEnterL2_holds t s
  | enterL3 => exact execEnterL3_holds s
  | enterL0 t => exact execEnterL0_holds t s
  | enterC2 c => exact execEnterC2_holds c s
  | enterC3 c => exact execEnterC3_holds c s
  | channelWake c => exact execChannelWake_holds c s
  | powerOnReset => exact execPowerOnReset_holds s
  | leafPowerOn => exact execLeafPowerOn_holds s
  | pllLock c => exact execPllLock_holds c s
  | selftestDone n rows segs => exact execSelftestDone_holds n rows segs s
  | restoreDone c read => exact execRestoreDone_holds c read s
  | phyLinkUp c port => exact execPhyLinkUp_holds c port s
  | linkQualifyDone c port lanes => exact execLinkQualifyDone_holds c port lanes s
  | phyLinkDown c port => exact execPhyLinkDown_holds c port s
  | mlpLinkDown mid => exact execMlpLinkDown_holds mid s
  | warmResetInput ns => exact execWarmResetInput_holds ns s
  | warmResetRequest c => exact execWarmResetRequest_holds c s
  | channelResetRequest c => exact execChannelResetRequest_holds c s
  | leafResetRequest => exact execLeafResetRequest_holds s
  | fastPathDone n scrub refOk k ms => exact execFastPathDone_holds n scrub refOk k ms s
  | joinAssign v => exact execJoinAssign_holds v s
  | repairAdd v => exact execRepairAdd_holds v s
  | joinRetryExpire c pos => exact execJoinRetryExpire_holds c pos s
  | roleSuccessorTimeout c => exact execRoleSuccessorTimeout_holds c s
  | withdrawLeaves c v => exact execWithdrawLeaves_holds c v s
  | withdrawRegionsOff c => exact execWithdrawRegionsOff_holds c s
  | withdrawEnterL2 c => exact execWithdrawEnterL2_holds c s
  | leafWithdrawDone c pos => exact execLeafWithdrawDone_holds c pos s
  | moveParent => exact execMoveParent_holds s
  | withdrawChannel c => exact execWithdrawChannel_holds c s
  | channelWithdrawDone c => exact execChannelWithdrawDone_holds c s
  | memberLeave c src id => exact execMemberLeave_holds c src id s
  | channelRemoval c child => exact execChannelRemoval_holds c child s
  | claspClaim c => exact execClaspClaim_holds c s
  | claimWindowClose => exact execClaimWindowClose_holds s
  | claimBackoffExpire c => exact execClaimBackoffExpire_holds c s
  | claspHeartbeat c => exact execClaspHeartbeat_holds c s
  | hostRegisterWrite addr data => exact execHostRegisterWrite_holds addr data s
  | frameLoRead c => exact execFrameLoRead_holds c s
  | mailboxDataWrite c data => exact execMailboxDataWrite_holds c data s
  | mailboxDataRead c => exact execMailboxDataRead_holds c s
  | mailboxGo c => exact execMailboxGo_holds c s
  | mailboxRspDone c => exact execMailboxRspDone_holds c s
  | interruptClear c err bits sets => exact execInterruptClear_holds c err bits sets s
  | smbusBlockWrite cmd data pecOk => exact execSmbusBlockWrite_holds cmd data pecOk s
  | smbusBlockRead cmd => exact execSmbusBlockRead_holds cmd s
  | smbusAlertResponse => exact execSmbusAlertResponse_holds s
  | smbusClockLowTimeout => exact execSmbusClockLowTimeout_holds s
  | tapInstruction n ir => exact execTapInstruction_holds n ir s
  | powerOnResetAssert => exact execPowerOnResetAssert_holds s
  | alwaysOnResetAssert => exact execAlwaysOnResetAssert_holds s
  | warmResetInputRelease => exact execWarmResetInputRelease_holds s
  | channelNeedChange c mv => exact execChannelNeedChange_holds c mv s

theorem step_cons (c : Instr) (rest : List Instr) (s : State) :
    step { s with pending := c :: rest } = exec c { s with pending := rest } := rfl

theorem step_nil {s : State} (h : s.pending = []) : step s = .next s := by rw [step, h]

/-- A step of a queue runs its front command, and what waits behind it stays as it is. -/
theorem step_holds {s t : State} (h : step s = .next t) : State.Holds { s with pending := s.pending.tail } t := by
  cases hp : s.pending with
  | nil =>
    rw [step_nil hp] at h
    cases h
    rw [List.tail_nil, ← hp]
    exact State.Holds.refl s
  | cons c rest =>
    obtain ⟨z, hz, hholds⟩ := exec_holds c { s with pending := rest }
    rw [step, hp] at h
    cases hz.symm.trans h
    exact hholds

/-! ### A command of one channel acts on that channel alone -/

theorem Node.eq_chan_of_chan? {n : Node} {c : Ch} (h : n.chan? = some c) : n = .chan c := by
  cases n with
  | leaf => cases h
  | chan d => cases h; rfl

/-- From `s` to `t` nothing has moved beside channel `c`, where a sample of the bus may raise the interrupts of the supply. -/
def State.Isolated (c : Ch) (samples : Bool) (s t : State) : Prop := State.Dry c s t ∧ (samples = false → State.Alone c s t)

theorem isolated_of_alone {i : Instr} {c : Ch} {s : State} (samples : Bool) (h : ∃ t, exec i s = .next t ∧ State.Alone c s t) :
    Runs i s (State.Isolated c samples s) := by
  obtain ⟨t, hexec, halone⟩ := h
  exact ⟨t, hexec, halone.dry, fun _ => halone⟩

theorem isolated_of_dry {i : Instr} {c : Ch} {s : State} (h : ∃ t, exec i s = .next t ∧ State.Dry c s t) :
    Runs i s (State.Isolated c true s) := by
  obtain ⟨t, hexec, hdry⟩ := h
  exact ⟨t, hexec, hdry, fun hs => nomatch hs⟩

theorem exec_isolated (i : Instr) (c : Ch) (s : State) (honly : i.only = some c) : Runs i s (State.Isolated c i.samples s) := by
  cases i with
  | frameOpen n k given => obtain rfl := Node.eq_chan_of_chan? honly; exact isolated_of_dry (execFrameOpen_dry c k given s)
  | unitOverrun n u f left => obtain rfl := Node.eq_chan_of_chan? honly; exact isolated_of_alone false (execUnitOverrun_alone c u f left s)
  | announceReceive n h m => obtain rfl := Node.eq_chan_of_chan? honly; exact isolated_of_dry (execAnnounceReceive_dry c h m s)
  | announceTimeout n d src => obtain rfl := Node.eq_chan_of_chan? honly; exact isolated_of_dry (execAnnounceTimeout_dry c d src s)
  | syncReceive n h t1 t2 => obtain rfl := Node.eq_chan_of_chan? honly; exact isolated_of_dry (execSyncReceive_dry c h t1 t2 s)
  | followUpReceive n h t1 => obtain rfl := Node.eq_chan_of_chan? honly; exact isolated_of_dry (execFollowUpReceive_dry c h t1 s)
  | delayRespReceive n h t4 => obtain rfl := Node.eq_chan_of_chan? honly; exact isolated_of_dry (execDelayRespReceive_dry c h t4 s)
  | delayReqSend n d seqId t3 => obtain rfl := Node.eq_chan_of_chan? honly; exact isolated_of_dry (execDelayReqSend_dry c d seqId t3 s)
  | guardAccept n => obtain rfl := Node.eq_chan_of_chan? honly; exact isolated_of_alone false (execGuardAccept_alone c s)
  | activeDomainWrite n v => obtain rfl := Node.eq_chan_of_chan? honly; exact isolated_of_alone false (execActiveDomainWrite_alone c v s)
  | holdoverBudgetExpire n ms => obtain rfl := Node.eq_chan_of_chan? honly; exact isolated_of_dry (execHoldoverBudgetExpire_dry c ms s)
  | ppsEdge d stamp => cases honly; exact isolated_of_dry (execPpsEdge_dry c stamp s)
  | ppsLoss d => cases honly; exact isolated_of_dry (execPpsLoss_dry c s)
  | tsqPop n => obtain rfl := Node.eq_chan_of_chan? honly; exact isolated_of_alone false (execTsqPop_alone c s)
  | read n q => obtain rfl := Node.eq_chan_of_chan? honly; exact isolated_of_alone false (execRead_alone c q s)
  | write n q => obtain rfl := Node.eq_chan_of_chan? honly; exact isolated_of_alone false (execWrite_alone c q s)
  | segRead n q => obtain rfl := Node.eq_chan_of_chan? honly; exact isolated_of_alone false (execSegRead_alone c q s)
  | segWrite n q => obtain rfl := Node.eq_chan_of_chan? honly; exact isolated_of_alone false (execSegWrite_alone c q s)
  | txnOpen n q => obtain rfl := Node.eq_chan_of_chan? honly; exact isolated_of_alone false (execTxnOpen_alone c q s)
  | txnStage n q => obtain rfl := Node.eq_chan_of_chan? honly; exact isolated_of_alone false (execTxnStage_alone c q s)
  | txnCommit n q => obtain rfl := Node.eq_chan_of_chan? honly; exact isolated_of_alone false (execTxnCommit_alone c q s)
  | txnAbort n q => obtain rfl := Node.eq_chan_of_chan? honly; exact isolated_of_alone false (execTxnAbort_alone c q s)
  | txnStatus n q => obtain rfl := Node.eq_chan_of_chan? honly; exact isolated_of_alone false (execTxnStatus_alone c q s)
  | txnOpenExpire n src num => obtain rfl := Node.eq_chan_of_chan? honly; exact isolated_of_alone false (execTxnOpenExpire_alone c src num s)
  | bivanResponse n r => obtain rfl := Node.eq_chan_of_chan? honly; exact isolated_of_alone false (execBivanResponse_alone c r s)
  | fleetRequest n q => obtain rfl := Node.eq_chan_of_chan? honly; exact isolated_of_alone false (execFleetRequest_alone c q s)
  | prepare n q => obtain rfl := Node.eq_chan_of_chan? honly; exact isolated_of_alone false (execPrepare_alone c q s)
  | commitToken n q => obtain rfl := Node.eq_chan_of_chan? honly; exact isolated_of_alone false (execCommitToken_alone c q s)
  | abortToken n q => obtain rfl := Node.eq_chan_of_chan? honly; exact isolated_of_alone false (execAbortToken_alone c q s)
  | tokenQuery n q => obtain rfl := Node.eq_chan_of_chan? honly; exact isolated_of_alone false (execTokenQuery_alone c q s)
  | compensate n q => obtain rfl := Node.eq_chan_of_chan? honly; exact isolated_of_alone false (execCompensate_alone c q s)
  | lastDecisionFrame d seq => cases honly; exact isolated_of_alone false (execLastDecisionFrame_alone c seq s)
  | guardFrameQuery n seq => obtain rfl := Node.eq_chan_of_chan? honly; exact isolated_of_alone false (execGuardFrameQuery_alone c seq s)
  | deadlineFrameDiscard n seq => obtain rfl := Node.eq_chan_of_chan? honly; exact isolated_of_alone false (execDeadlineFrameDiscard_alone c seq s)
  | commitCountCheck d seq => cases honly; exact isolated_of_alone false (execCommitCountCheck_alone c seq s)
  | compensateRetry d seq => cases honly; exact isolated_of_alone false (execCompensateRetry_alone c seq s)
  | undoHorizonExpire n seq => obtain rfl := Node.eq_chan_of_chan? honly; exact isolated_of_alone false (execUndoHorizonExpire_alone c seq s)
  | counterRecord _ _ => cases honly
  | barrierEvent _ _ => cases honly
  | checksumWord _ _ => cases honly
  | traceEvent _ _ => cases honly
  | coreLost _ => cases honly
  | lostTxnRetry => cases honly
  | fenceAckTimeout _ => cases honly
  | fncAckChange _ _ => cases honly
  | regionReading _ _ _ => cases honly
  | regionRequestPresent => cases honly
  | regionReqAck => cases honly
  | regionReqTimeout => cases honly
  | regionMismatch _ => cases honly
  | regionSettleEnd _ => cases honly
  | routingNotify _ => cases honly
  | seriesTableSwap => cases honly
  | sampleRatioWrite _ => cases honly
  | tsBeatDecide => cases honly
  | tsSectionSeal => cases honly
  | relearn _ => cases honly
  | weightTapBeat _ _ _ _ _ => cases honly
  | assayBeatDigest => cases honly
  | tensorTableSwap => cases honly
  | assayWindowExpire d group tensor epoch => cases honly; exact isolated_of_alone false (execAssayWindowExpire_alone c group tensor epoch s)
  | groupEntryWrite d group v => cases honly; exact isolated_of_alone false (execGroupEntryWrite_alone c group v s)
  | dataFragmentReceive d src h data => cases honly; exact isolated_of_alone false (execDataFragmentReceive_alone c src h data s)
  | controlFragmentReceive n src h entries => obtain rfl := Node.eq_chan_of_chan? honly; exact isolated_of_alone false (execControlFragmentReceive_alone c src h entries s)
  | fragmentSend n => obtain rfl := Node.eq_chan_of_chan? honly; exact isolated_of_alone false (execFragmentSend_alone c s)
  | parentLost n => obtain rfl := Node.eq_chan_of_chan? honly; exact isolated_of_alone false (execParentLost_alone c s)
  | leafAbsent d pos => cases honly; exact isolated_of_alone false (execLeafAbsent_alone c pos s)
  | attachReceive d joiner pos frame left => cases honly; exact isolated_of_alone false (execAttachReceive_alone c joiner pos frame left s)
  | releaseQueryReceive d src left children => cases honly; exact isolated_of_alone false (execReleaseQueryReceive_alone c src left children s)
  | releaseAnswerReceive d src entries => cases honly; exact isolated_of_alone false (execReleaseAnswerReceive_alone c src entries s)
  | releaseQueryTimeout d child => cases honly; exact isolated_of_alone false (execReleaseQueryTimeout_alone c child s)
  | releaseAnswerMissing d child => cases honly; exact isolated_of_alone false (execReleaseAnswerMissing_alone c child s)
  | returnHome n => obtain rfl := Node.eq_chan_of_chan? honly; exact isolated_of_alone false (execReturnHome_alone c s)
  | channelSeriesSwap d => cases honly; exact isolated_of_alone false (execChannelSeriesSwap_alone c s)
  | paramSetsWrite d v => cases honly; exact isolated_of_alone false (execParamSetsWrite_alone c v s)
  | aggTableSwap d => cases honly; exact isolated_of_alone false (execAggTableSwap_alone c s)
  | imageCheckDone d img => cases honly; exact isolated_of_alone false (execImageCheckDone_alone c img s)
  | imageStoreDone d img ok => cases honly; exact isolated_of_alone false (execImageStoreDone_alone c img ok s)
  | balanceImageSwap d => cases honly; exact isolated_of_alone false (execBalanceImageSwap_alone c s)
  | ruleImageSwap d => cases honly; exact isolated_of_alone false (execRuleImageSwap_alone c s)
  | barrierWindowExpire d barrier => cases honly; exact isolated_of_alone false (execBarrierWindowExpire_alone c barrier s)
  | ruleTxnCommit d => cases honly; exact isolated_of_alone false (execRuleTxnCommit_alone c s)
  | notify d v => cases honly; exact isolated_of_alone false (execNotify_alone c v s)
  | suspectSet d v => cases honly; exact isolated_of_alone false (execSuspectSet_alone c v s)
  | suspectClear d v => cases honly; exact isolated_of_alone false (execSuspectClear_alone c v s)
  | lossSubmit d v => cases honly; exact isolated_of_alone false (execLossSubmit_alone c v s)
  | streamPacketSend d port => cases honly; exact isolated_of_alone false (execStreamPacketSend_alone c port s)
  | refillTick _ _ => cases honly
  | droopRecover => cases honly
  | uplinkBackpressure d port => cases honly; exact isolated_of_alone false (execUplinkBackpressure_alone c port s)
  | backpressureClear d port => cases honly; exact isolated_of_alone false (execBackpressureClear_alone c port s)
  | portReturn d port => cases honly; exact isolated_of_alone false (execPortReturn_alone c port s)
  | traceArm _ => cases honly
  | traceTrigger _ => cases honly
  | traceStop _ => cases honly
  | traceClear => cases honly
  | traceRecordWrite => cases honly
  | traceStopInstant => cases honly
  | stallBudgetExpire => cases honly
  | traceAuthoriseClear _ => cases honly
  | traceTriggerLeaves d v => cases honly; exact isolated_of_alone false (execTraceTriggerLeaves_alone c v s)
  | caratBlockSeal d => cases honly; exact isolated_of_alone false (execCaratBlockSeal_alone c s)
  | traceFetch d v => cases honly; exact isolated_of_alone false (execTraceFetch_alone c v s)
  | traceFetchResponse d stream status data => cases honly; exact isolated_of_alone false (execTraceFetchResponse_alone c stream status data s)
  | jobSubmit d v => cases honly; exact isolated_of_alone false (execJobSubmit_alone c v s)
  | jobComplete d decomp => cases honly; exact isolated_of_alone false (execJobComplete_alone c decomp s)
  | jobResult d => cases honly; exact isolated_of_alone false (execJobResult_alone c s)
  | moverStart d m a => cases honly; exact isolated_of_alone false (execMoverStart_alone c m a s)
  | moverStop d m => cases honly; exact isolated_of_alone false (execMoverStop_alone c m s)
  | descriptorFetch d m => cases honly; exact isolated_of_alone false (execDescriptorFetch_alone c m s)
  | descriptorDone d m => cases honly; exact isolated_of_alone false (execDescriptorDone_alone c m s)
  | mmpResponse tag err data => cases honly; exact isolated_of_alone false (execMmpResponse_alone tag err data s)
  | mmpTimeout tag => cases honly; exact isolated_of_alone false (execMmpTimeout_alone tag s)
  | sramUncorrectable n array row => obtain rfl := Node.eq_chan_of_chan? honly; exact isolated_of_alone false (execSramUncorrectable_alone c array row s)
  | dramUncorrectable d seg => cases honly; exact isolated_of_alone false (execDramUncorrectable_alone c seg s)
  | flashOperationDone _ _ => cases honly
  | faultLogWrite d stamp => cases honly; exact isolated_of_alone false (execFaultLogWrite_alone c stamp s)
  | permanentFenceCommit d => cases honly; exact isolated_of_alone false (execPermanentFenceCommit_alone c s)
  | clearLocation d v => cases honly; exact isolated_of_alone false (execClearLocation_alone c v s)
  | startupFailures d v => cases honly; exact isolated_of_alone false (execStartupFailures_alone c v s)
  | firmwareLogWrite d v => cases honly; exact isolated_of_alone false (execFirmwareLogWrite_alone c v s)
  | wakeRequest d v => cases honly; exact isolated_of_alone false (execWakeRequest_alone c v s)
  | wakeTxnCommit d => cases honly; exact isolated_of_alone false (execWakeTxnCommit_alone c s)
  | coreTargetStep => cases honly
  | marginEvent d mv => cases honly; exact isolated_of_alone false (execMarginEvent_alone c mv s)
  | enterL1 _ => cases honly
  | enterL2 _ => cases honly
  | enterL3 => cases honly
  | enterL0 _ => cases honly
  | enterC2 d => cases honly; exact isolated_of_alone false (execEnterC2_alone c s)
  | enterC3 d => cases honly; exact isolated_of_alone false (execEnterC3_alone c s)
  | channelWake d => cases honly; exact isolated_of_alone false (execChannelWake_alone c s)
  | powerOnReset => cases honly
  | leafPowerOn => cases honly
  | pllLock d => cases honly; exact isolated_of_alone false (execPllLock_alone c s)
  | selftestDone n rows segs => obtain rfl := Node.eq_chan_of_chan? honly; exact isolated_of_alone false (execSelftestDone_alone c rows segs s)
  | restoreDone _ _ => cases honly
  | phyLinkUp d port => cases honly; exact isolated_of_alone false (execPhyLinkUp_alone c port s)
  | linkQualifyDone d port lanes => cases honly; exact isolated_of_alone false (execLinkQualifyDone_alone c port lanes s)
  | phyLinkDown d port => cases honly; exact isolated_of_alone false (execPhyLinkDown_alone c port s)
  | mlpLinkDown _ => cases honly
  | warmResetInput _ => cases honly
  | warmResetRequest _ => cases honly
  | channelResetRequest d => cases honly; exact isolated_of_alone false (execChannelResetRequest_alone c s)
  | leafResetRequest => cases honly
  | fastPathDone n scrub refOk k ms => obtain rfl := Node.eq_chan_of_chan? honly; exact isolated_of_dry (execFastPathDone_dry c scrub refOk k ms s)
  | joinAssign _ => cases honly
  | repairAdd _ => cases honly
  | joinRetryExpire d pos => cases honly; exact isolated_of_alone false (execJoinRetryExpire_alone c pos s)
  | roleSuccessorTimeout d => cases honly; exact isolated_of_alone false (execRoleSuccessorTimeout_alone c s)
  | withdrawLeaves d v => cases honly; exact isolated_of_alone false (execWithdrawLeaves_alone c v s)
  | withdrawRegionsOff d => cases honly; exact isolated_of_alone false (execWithdrawRegionsOff_alone c s)
  | withdrawEnterL2 d => cases honly; exact isolated_of_alone false (execWithdrawEnterL2_alone c s)
  | leafWithdrawDone d pos => cases honly; exact isolated_of_alone false (execLeafWithdrawDone_alone c pos s)
  | moveParent => cases honly
  | withdrawChannel d => cases honly; exact isolated_of_alone false (execWithdrawChannel_alone c s)
  | channelWithdrawDone d => cases honly; exact isolated_of_alone false (execChannelWithdrawDone_alone c s)
  | memberLeave d src id => cases honly; exact isolated_of_alone false (execMemberLeave_alone c src id s)
  | channelRemoval d child => cases honly; exact isolated_of_alone false (execChannelRemoval_alone c child s)
  | claspClaim d => cases honly; exact isolated_of_alone false (execClaspClaim_alone c s)
  | claimWindowClose => cases honly
  | claimBackoffExpire d => cases honly; exact isolated_of_alone false (execClaimBackoffExpire_alone c s)
  | claspHeartbeat _ => cases honly
  | hostRegisterWrite _ _ => cases honly
  | frameLoRead d => cases honly; exact isolated_of_alone false (execFrameLoRead_alone c s)
  | mailboxDataWrite d data => cases honly; exact isolated_of_alone false (execMailboxDataWrite_alone c data s)
  | mailboxDataRead d => cases honly; exact isolated_of_alone false (execMailboxDataRead_alone c s)
  | mailboxGo d => cases honly; exact isolated_of_alone false (execMailboxGo_alone c s)
  | mailboxRspDone d => cases honly; exact isolated_of_alone false (execMailboxRspDone_alone c s)
  | interruptClear d err bits sets => cases honly; exact isolated_of_alone false (execInterruptClear_alone c err bits sets s)
  | smbusBlockWrite _ _ _ => cases honly
  | smbusBlockRead _ => cases honly
  | smbusAlertResponse => cases honly
  | smbusClockLowTimeout => cases honly
  | tapInstruction n ir => obtain rfl := Node.eq_chan_of_chan? honly; exact isolated_of_alone false (execTapInstruction_alone c ir s)
  | powerOnResetAssert => cases honly
  | alwaysOnResetAssert => cases honly
  | warmResetInputRelease => cases honly
  | channelNeedChange d mv => cases honly; exact isolated_of_alone false (execChannelNeedChange_alone c mv s)

/-! ### Reset -/

theorem State.reset_chan (c : Ch) : State.reset.chan c = Chan.reset c.val := by
  match c with | 0 => rfl | 1 => rfl | 2 => rfl | 3 => rfl

theorem State.seated_reset : State.reset.seated := by
  refine ⟨⟨rfl, rfl⟩, fun c => ?_⟩
  rw [State.reset_chan]
  exact ⟨rfl, rfl⟩

end Sys2Proof.Machine

open Sys2Proof Sys2Proof.Machine

/-- Settles O3: a step runs the front command, and every command keeps every block of its kind and in its place. -/
theorem stepsKeepKindAndPlace : Obligations.StepsKeepKindAndPlace := by
  unfold Obligations.StepsKeepKindAndPlace
  intro s t hs h
  exact (step_holds h).2 hs

/-- Settles O5: command by command, what acts on one channel leaves the leaf and the other channels alone. -/
theorem channelsAreIsolated : Obligations.ChannelsAreIsolated := by
  unfold Obligations.ChannelsAreIsolated
  intro i c s h
  obtain ⟨t, hexec, ⟨hleaf, hdry⟩, halone⟩ := exec_isolated i c s h
  exact ⟨t, hexec, hleaf, hdry, fun hs => (halone hs).2⟩

/-- Settles O2: every command completes and leaves the commands that wait, so that a step takes the front one alone. -/
theorem queuesRun : Obligations.QueuesRun := by
  unfold Obligations.QueuesRun
  refine ⟨fun i s => ?_, fun s t h => (step_holds h).1, fun s h => step_nil h, fun s nbits w => ⟨rfl, rfl⟩⟩
  obtain ⟨t, hexec, hpending, -⟩ := exec_holds i s
  exact ⟨t, hexec, hpending⟩

/-- Settles O1, by the definition of a step. -/
theorem stepRunsTheFrontCommand : Obligations.StepRunsTheFrontCommand := by
  unfold Obligations.StepRunsTheFrontCommand
  exact step_cons

/-- Settles O4, channel by channel. -/
theorem resetLeaves : Obligations.ResetLeaves := by
  unfold Obligations.ResetLeaves
  refine ⟨State.seated_reset, State.wf_reset, rfl, rfl, rfl, rfl, fun c => ?_, rfl, rfl, rfl⟩
  rw [State.reset_chan]
  refine ⟨rfl, ?_, ?_, rfl, rfl, rfl⟩
  · revert c; decide
  · revert c; decide

end

section
/-! PROOF. The time unit (R46 to R60, R443, R444): what its operations do to the two servos and to the registers that report them, and what a
time event leaves of them when it opens no frame. -/

namespace Sys2Proof.Machine

/-! ### Registers, once more -/

@[simp] theorem Blk.raiseErr_num (b : Blk) (i k : Nat) : (b.raiseErr i).num k = b.num k := by
  unfold Blk.raiseErr
  split <;> rfl

@[simp] theorem Blk.raiseEvt_num (b : Blk) (i k : Nat) : (b.raiseEvt i).num k = b.num k := by
  unfold Blk.raiseEvt
  split <;> rfl

/-- A counter that is advanced counts (R9). -/
theorem Blk.counts_bump (b : Blk) (k n : Nat) : b.counts (b.bump k n) k n := Blk.num_setNum_same b k _

/-- A register that only what follows a command could move, if anything: it counts as the command left it. -/
theorem Blk.counts_of_own {a b c : Blk} {k n : Nat} (h : a.counts b k n) (ho : c.own = b.own) (hk : isFaultKey k = false) :
    a.counts c k n := (Blk.num_of_own ho hk).trans h

/-! ### The servos after an update -/

theorem Blk.servo_setServo (b : Blk) (d e : Dom) (s : Servo) : (b.setServo d s).servo e = if e = d then s else b.servo e := by
  cases d <;> cases e <;> rfl

@[simp] theorem Blk.servo_setServo_same (b : Blk) (d : Dom) (s : Servo) : (b.setServo d s).servo d = s := by cases d <;> rfl

@[simp] theorem Blk.setServo_num (b : Blk) (d : Dom) (s : Servo) (k : Nat) : (b.setServo d s).num k = b.num k := by cases d <;> rfl

@[simp] theorem Blk.setServo_steps (b : Blk) (d : Dom) (s : Servo) : (b.setServo d s).steps = b.steps := by cases d <;> rfl

@[simp] theorem Blk.setServo_modeWas (b : Blk) (d : Dom) (s : Servo) : (b.setServo d s).modeWas = b.modeWas := by cases d <;> rfl

@[simp] theorem Blk.setServo_ppsGood (b : Blk) (d : Dom) (s : Servo) : (b.setServo d s).ppsGood = b.ppsGood := by cases d <;> rfl

@[simp] theorem Blk.setServo_tsq (b : Blk) (d : Dom) (s : Servo) : (b.setServo d s).tsq = b.tsq := by cases d <;> rfl

@[simp] theorem Blk.setServo_isLeaf (b : Blk) (d : Dom) (s : Servo) : (b.setServo d s).isLeaf = b.isLeaf := by cases d <;> rfl

@[simp] theorem Blk.setNum_servo (b : Blk) (k n : Nat) (d : Dom) : (b.setNum k n).servo d = b.servo d := by cases d <;> rfl

@[simp] theorem Blk.bump_servo (b : Blk) (k n : Nat) (d : Dom) : (b.bump k n).servo d = b.servo d := by cases d <;> rfl

@[simp] theorem Blk.raiseErr_servo (b : Blk) (i : Nat) (d : Dom) : (b.raiseErr i).servo d = b.servo d := by
  unfold Blk.raiseErr
  split <;> cases d <;> rfl

@[simp] theorem Blk.raiseEvt_servo (b : Blk) (i : Nat) (d : Dom) : (b.raiseEvt i).servo d = b.servo d := by
  unfold Blk.raiseEvt
  split <;> cases d <;> rfl

@[simp] theorem Blk.raiseErr_steps (b : Blk) (i : Nat) : (b.raiseErr i).steps = b.steps := by
  unfold Blk.raiseErr
  split <;> rfl

/-! ### alignment_assured (R57) -/

@[simp] theorem Blk.judgeAlignment_servo (b : Blk) (d : Dom) : b.judgeAlignment.servo d = b.servo d := by
  simp only [Blk.judgeAlignment, Blk.setBool]
  split <;> split <;> simp

@[simp] theorem Blk.judgeAlignment_steps (b : Blk) : b.judgeAlignment.steps = b.steps := by
  simp only [Blk.judgeAlignment, Blk.setBool]
  split <;> split <;> simp

theorem Blk.judgeAlignment_num (b : Blk) {k : Nat} (h1 : k ≠ K.holdoverElapsedMs) (h2 : k ≠ K.alignmentAssured) :
    b.judgeAlignment.num k = b.num k := by
  simp only [Blk.judgeAlignment, Blk.setBool]
  split <;> split <;> simp [Blk.num_setNum_ne _ _ h1, Blk.num_setNum_ne _ _ h2]

/-- A register that holds neither the alignment nor the state of a servo. -/
def timeFree (k : Nat) : Bool :=
  !(k == K.holdoverElapsedMs || k == K.alignmentAssured || k == K.servoStateA || k == K.servoStateB)

theorem timeFree_ne {k : Nat} (h : timeFree k = true) :
    k ≠ K.holdoverElapsedMs ∧ k ≠ K.alignmentAssured ∧ ∀ d, k ≠ servoKey d := by
  simp only [timeFree, Bool.not_eq_true', Bool.or_eq_false_iff, beq_eq_false_iff_ne] at h
  obtain ⟨⟨⟨h1, h2⟩, h3⟩, h4⟩ := h
  exact ⟨h1, h2, fun d => by cases d <;> assumption⟩

@[simp] theorem Blk.setServoState_servo (b : Blk) (d : Dom) (st : Nat) (e : Dom) : (b.setServoState d st).servo e = b.servo e := by
  simp [Blk.setServoState]

@[simp] theorem Blk.setServoState_steps (b : Blk) (d : Dom) (st : Nat) : (b.setServoState d st).steps = b.steps := by
  simp [Blk.setServoState]

@[simp] theorem Blk.judgeAlignment_servoState (b : Blk) (d : Dom) : b.judgeAlignment.servoState d = b.servoState d := by
  cases d <;> exact Blk.judgeAlignment_num b (by decide) (by decide)

@[simp] theorem Blk.setServoState_servoState (b : Blk) (d : Dom) (st : Nat) : (b.setServoState d st).servoState d = st :=
  (Blk.judgeAlignment_servoState _ d).trans (Blk.num_setNum_same b _ st)

theorem Blk.setServoState_num (b : Blk) (d : Dom) (st : Nat) {k : Nat} (h : timeFree k = true) :
    (b.setServoState d st).num k = b.num k := by
  obtain ⟨h1, h2, h3⟩ := timeFree_ne h
  rw [Blk.setServoState, Blk.judgeAlignment_num _ h1 h2, Blk.num_setNum_ne _ _ (h3 d)]

@[simp] theorem Blk.setServo_servoState (b : Blk) (d e : Dom) (s : Servo) : (b.setServo d s).servoState e = b.servoState e :=
  Blk.setServo_num b d s _

@[simp] theorem Blk.raiseErr_servoState (b : Blk) (i : Nat) (d : Dom) : (b.raiseErr i).servoState d = b.servoState d := Blk.raiseErr_num b i _

theorem Blk.setNum_servoState (b : Blk) {k : Nat} (n : Nat) (d : Dom) (h : timeFree k = true) :
    (b.setNum k n).servoState d = b.servoState d := Blk.num_setNum_ne b n (Ne.symm ((timeFree_ne h).2.2 d))

theorem timeFree_gmKey (d : Dom) : timeFree (gmKey d) = true := by cases d <;> rfl

theorem timeFree_offsetKey (d : Dom) : timeFree (offsetKey d) = true := by cases d <;> rfl

/-! ### The servo states (Table 2.5) -/

section
variable (b : Blk) (d : Dom)

@[simp] theorem Blk.toAcquiring_servoState : (b.toAcquiring d).servoState d = 1 := Blk.setServoState_servoState _ d 1

theorem Blk.toAcquiring_servo :
    (b.toAcquiring d).servo d = { b.servo d with good := 0, refusals := 0, guardLock := false, timedOut := false, slew := 0 } := by
  cases d <;> simp only [Blk.toAcquiring, Blk.setServoState_servo] <;> rfl

theorem Blk.toAcquiring_num {k : Nat} (h : timeFree k = true) : (b.toAcquiring d).num k = b.num k := by
  cases d <;> exact Blk.setServoState_num _ _ _ h

@[simp] theorem Blk.toAcquiring_steps : (b.toAcquiring d).steps = b.steps := by
  cases d <;> exact Blk.setServoState_steps _ _ _

@[simp] theorem Blk.toHoldover_servoState (g : Bool) : (b.toHoldover d g).servoState d = 3 := Blk.setServoState_servoState _ d 3

theorem Blk.toHoldover_servo (g : Bool) :
    (b.toHoldover d g).servo d = { b.servo d with good := 0, guardLock := g, timedOut := !g, slew := 0 } := by
  simp [Blk.toHoldover]

theorem Blk.toHoldover_num (g : Bool) {k : Nat} (h : timeFree k = true) : (b.toHoldover d g).num k = b.num k := by
  rw [Blk.toHoldover, Blk.setServoState_num _ _ _ h, Blk.setServo_num]

@[simp] theorem Blk.toHoldover_steps (g : Bool) : (b.toHoldover d g).steps = b.steps := by simp [Blk.toHoldover]

@[simp] theorem Blk.toFree_servoState : (b.toFree d).servoState d = 0 := Blk.setServoState_servoState _ d 0

theorem Blk.toFree_servo : (b.toFree d).servo d = { b.servo d with good := 0, slew := 0 } := by simp [Blk.toFree]

@[simp] theorem Blk.toFree_steps : (b.toFree d).steps = b.steps := by simp [Blk.toFree]

/-! ### The trigger of dual mode (R54) -/

@[simp] theorem Blk.raiseSelf_num (ws : List Wr) (a k : Nat) : (b.raiseSelf ws a).2.num k = b.num k := by
  simp only [Blk.raiseSelf]
  split
  · rfl
  · split <;> rfl

@[simp] theorem Blk.raiseSelf_servo (ws : List Wr) (a : Nat) : (b.raiseSelf ws a).2.servo d = b.servo d := by
  simp only [Blk.raiseSelf]
  split
  · rfl
  · split <;> cases d <;> rfl

@[simp] theorem Blk.raiseSelf_steps (ws : List Wr) (a : Nat) : (b.raiseSelf ws a).2.steps = b.steps := by
  simp only [Blk.raiseSelf]
  split
  · rfl
  · split <;> rfl

@[simp] theorem Blk.dualTrigger_servo : b.dualTrigger.2.servo d = b.servo d := by
  simp only [Blk.dualTrigger]
  split
  · split <;> simp
  · simp

@[simp] theorem Blk.dualTrigger_steps : b.dualTrigger.2.steps = b.steps := by
  simp only [Blk.dualTrigger]
  split
  · split <;> simp
  · simp

theorem Blk.dualTrigger_num {k : Nat} (h : k ≠ K.switchCount) : b.dualTrigger.2.num k = b.num k := by
  simp only [Blk.dualTrigger]
  split
  · split <;> simp [Blk.num_bump_ne _ _ h]
  · simp

@[simp] theorem Blk.dualTrigger_servoState : b.dualTrigger.2.servoState d = b.servoState d :=
  Blk.dualTrigger_num b (by cases d <;> decide)

end

/-! ### A time event at a block -/

/-- What a time event leaves of a channel that answers no frame: what it did to the block stands. -/
theorem State.onTime_chan {s : State} {c : Ch} {f : Blk → Blk × Option Nat} (ht : (s.chan c).b.timed = true)
    (hnone : (f (s.chan c).b).2 = none) (hseat : (f (s.chan c).b).1.Seated (s.chan c).b) :
    (((s.onTime (.chan c) f).chan c).b.own = (f (s.chan c).b).1.own) ∧ (f (s.chan c).b).1.out <+: ((s.onTime (.chan c) f).chan c).b.out ∧
      (f (s.chan c).b).1.EvtLe ((s.onTime (.chan c) f).chan c).b := by
  have hc : ((CS.mk (s.chan c) s.sh).afterTime (f (s.chan c).b)).ch = { s.chan c with b := (f (s.chan c).b).1 } := by
    simp only [CS.afterTime, hnone]
    rfl
  obtain ⟨-, -, hlast, -, -⟩ := hseat
  have hown := State.onCS_own s c (fun cs => cs.afterTime (f cs.ch.b))
  have hout := State.onCS_out s c (fun cs => cs.afterTime (f cs.ch.b))
  have hevt := State.onCS_evt s c (fun cs => cs.afterTime (f cs.ch.b))
  rw [hc] at hown hout hevt
  have hsame : ((s.onCS c (fun cs => cs.afterTime (f cs.ch.b))).chan c).b.lastOpen = (s.chan c).b.lastOpen :=
    (congrArg (fun x => x.b.lastOpen) hown).trans hlast
  have hquiet : ((s.onCS c (fun cs => cs.afterTime (f cs.ch.b))).boundarySample (s.chan c).b c) =
      s.onCS c (fun cs => cs.afterTime (f cs.ch.b)) := by
    simp [State.boundarySample, State.opened, hsame]
  simp only [State.onTime, ht, if_true, hquiet]
  exact ⟨congrArg Chan.b hown, hout, hevt⟩

/-- What a time event leaves that answers no frame and steps nothing: what it did to the block stands. -/
theorem State.onTime_own {s : State} {n : Node} {f : Blk → Blk × Option Nat} (ht : (s.blk n).timed = true) (hnone : (f (s.blk n)).2 = none)
    (hseat : (f (s.blk n)).1.Seated (s.blk n)) (hsteps : (f (s.blk n)).1.steps = (s.blk n).steps) :
    ((s.onTime n f).blk n).own = (f (s.blk n)).1.own ∧ (f (s.blk n)).1.out <+: ((s.onTime n f).blk n).out := by
  cases n with
  | leaf =>
    have hl : s.leaf.afterTime (f s.leaf.b) = { s.leaf with b := (f s.leaf.b).1 } := by
      simp only [State.blk] at hnone hsteps
      simp only [Leaf.afterTime, hnone, Leaf.stopAfterStep, hsteps, ne_eq, not_true_eq_false, false_and, and_false, if_false]
      split <;> rfl
    simp only [State.onTime, State.blk] at ht ⊢
    rw [if_pos ht]
    refine ⟨?_, ?_⟩
    · have h := congrArg (fun l => l.b.own) (State.onLeaf_own s (fun l => l.afterTime (f l.b)))
      rw [hl] at h
      exact h
    · have h := State.onLeaf_out s (fun l => l.afterTime (f l.b))
      rw [hl] at h
      exact h
  | chan c =>
    obtain ⟨hown, hout, -⟩ := State.onTime_chan (f := f) ht hnone hseat
    exact ⟨hown, hout⟩

theorem State.onClock_own {s : State} {n : Node} {f : Blk → Blk} (ht : (s.blk n).timed = true)
    (hseat : (f (s.blk n)).Seated (s.blk n)) (hsteps : (f (s.blk n)).steps = (s.blk n).steps) :
    ((s.onClock n f).blk n).own = (f (s.blk n)).own ∧ (f (s.blk n)).out <+: ((s.onClock n f).blk n).out :=
  State.onTime_own ht rfl hseat hsteps

theorem Blk.servo_of_own {a b : Blk} (h : a.own = b.own) (d : Dom) : a.servo d = b.servo d := by
  cases d
  · exact congrArg (fun x => x.sa) (show a.own = b.own from h)
  · exact congrArg (fun x => x.sb) (show a.own = b.own from h)

theorem Blk.servoState_of_own {a b : Blk} (h : a.own = b.own) (d : Dom) : a.servoState d = b.servoState d :=
  Blk.num_of_own h (by cases d <;> rfl)

end Sys2Proof.Machine
end

section
/-! PROOF. Announce messages and their silence move the servos (R46, R53, R54, R443, Table 2.5). -/

namespace Sys2Proof.Machine

section
variable (b : Blk) (d : Dom) (f : Foreign)

/-! ### An accepted Announce -/

theorem Blk.takeAnnounce_steps : (b.takeAnnounce d f).steps = b.steps := by
  simp only [Blk.takeAnnounce]
  repeat' split
  all_goals simp

/-- The master joins the table, and the best of those heard is selected. -/
theorem Blk.takeAnnounce_servo : ((b.takeAnnounce d f).servo d).foreign = ((b.servo d).hear f).foreign ∧
    ((b.takeAnnounce d f).servo d).sel = bestOf ((b.servo d).hear f).foreign := by
  simp only [Blk.takeAnnounce]
  repeat' split
  all_goals simp [Blk.toAcquiring_servo, Blk.toHoldover_servo]

theorem Blk.takeAnnounce_gm {y : Foreign} (h : bestOf ((b.servo d).hear f).foreign = some y) :
    (b.takeAnnounce d f).num (gmKey d) = y.data.gm.toNat := by
  have hgm : gmKey d ≠ K.switchCount := by cases d <;> decide
  simp only [Blk.takeAnnounce, h]
  repeat' split
  all_goals simp [Blk.toAcquiring_num _ _ (timeFree_gmKey d), Blk.toHoldover_num _ _ _ (timeFree_gmKey d), Blk.dualTrigger_num _ hgm]

/-- Somebody has been heard. -/
theorem Servo.foreign_hear_ne_nil (s : Servo) : (s.hear f).foreign ≠ [] := by
  unfold Servo.hear
  split
  · next h =>
    intro hnil
    have hs : s.foreign = [] := by simpa using hnil
    simp [hs] at h
  · split
    · simp
    · next h =>
      intro hnil
      rw [hnil] at h
      exact h (by decide)

theorem bestOf_isSome {l : List Foreign} (h : l ≠ []) : (bestOf l).isSome = true := by
  cases l with
  | nil => exact absurd rfl h
  | cons x xs =>
    rw [bestOf]
    split
    · rfl
    · split <;> rfl

theorem Blk.takeAnnounce_servoState_free (h : b.servoState d = 0) : (b.takeAnnounce d f).servoState d = 1 := by
  have hbest := bestOf_isSome (Servo.foreign_hear_ne_nil f (b.servo d))
  simp only [Blk.takeAnnounce, h, if_true, hbest]
  exact Blk.toAcquiring_servoState _ d

/-- The grandmaster of the best master heard is another than that of the selected one (R443). -/
def Servo.changes (s : Servo) (f : Foreign) : Bool :=
  match s.sel, bestOf (s.hear f).foreign with
  | some x, some y => decide (x.data.gm ≠ y.data.gm)
  | _, _ => false

/-- The selected master has been heard, in a holdover that its announcement ends (R53). -/
def Servo.heardAgain (s : Servo) (f : Foreign) : Bool :=
  decide ((bestOf (s.hear f).foreign).map (·.source) = some f.source) && (!s.guardLock || s.timedOut)

@[simp] theorem Servo.hear_sel (s : Servo) : (s.hear f).sel = s.sel := by
  unfold Servo.hear
  repeat' split
  all_goals rfl

@[simp] theorem Servo.hear_guardLock (s : Servo) : (s.hear f).guardLock = s.guardLock := by
  unfold Servo.hear
  repeat' split
  all_goals rfl

@[simp] theorem Servo.hear_timedOut (s : Servo) : (s.hear f).timedOut = s.timedOut := by
  unfold Servo.hear
  repeat' split
  all_goals rfl

theorem Blk.takeAnnounce_servoState (hdual : b.dualApplies d = false) (h : b.servoState d ≠ 0) :
    (b.takeAnnounce d f).servoState d =
      (if b.servoState d = 1 then 1
       else if b.servoState d = 2 then (if (b.servo d).changes f then 1 else 2)
       else if (b.servo d).changes f || (b.servo d).heardAgain f then 1 else b.servoState d) := by
  obtain ⟨y, hbest⟩ := Option.isSome_iff_exists.mp (bestOf_isSome (Servo.foreign_hear_ne_nil f (b.servo d)))
  have hagain : (y.source == f.source && (!(b.servo d).guardLock || (b.servo d).timedOut)) = (b.servo d).heardAgain f := by
    rw [Servo.heardAgain, hbest, Option.map_some]
    simp only [Option.some_inj] <;> rfl
  unfold Blk.takeAnnounce
  extract_lets s best changed taken same s1 b1 st dual b2 stays
  have hchanged : changed = (b.servo d).changes f := by
    (rw [Servo.changes, ← Servo.hear_sel f (b.servo d)]) <;> rfl
  have hout : (taken && (!s1.guardLock || s1.timedOut)) = (b.servo d).heardAgain f := by
    simp only [← hagain, taken, best, s, s1, hbest, Servo.hear_guardLock, Servo.hear_timedOut]
  have hnodual : dual = false := by rw [show dual = (changed && b.dualApplies d) from rfl, hdual, Bool.and_false]
  have hstays : stays = false := by rw [show stays = (dual && !b1.dualTrigger.1 && s1.everLocked) from rfl, hnodual]; rfl
  have hb2 : b2 = b1 := by rw [show b2 = if dual then b1.dualTrigger.2 else b1 from rfl, hnodual]; rfl
  have hb1 : b1.servoState d = b.servoState d := by
    rw [Blk.setNum_servoState _ _ _ (timeFree_gmKey d), Blk.setServo_servoState]
  rw [if_neg h, hstays, if_neg Bool.false_ne_true, hb2]
  simp only [hchanged, hout]
  by_cases h1 : st = 1
  · rw [if_pos h1, if_pos h1]
    split <;> simp [hb1, show b.servoState d = 1 from h1]
  · rw [if_neg h1, if_neg h1]
    by_cases h2 : st = 2
    · rw [if_pos h2, if_pos h2]
      split <;> simp [hb1, show b.servoState d = 2 from h2]
    · rw [if_neg h2, if_neg h2]
      split <;> simp [hb1]

/-! ### The silence of a master -/

section
variable (src : BitVec 80)

theorem Blk.announceLost_steps : (b.announceLost d src).steps = b.steps := by
  unfold Blk.announceLost
  extract_lets s s1 isSel st keep1 keep2 b2
  repeat' split
  all_goals simp [keep1, keep2, b2, apply_ite Blk.steps]

theorem Blk.announceLost_foreign :
    ((b.announceLost d src).servo d).foreign = (b.servo d).foreign.filter (fun x => x.source != src) := by
  unfold Blk.announceLost
  extract_lets s s1 isSel st keep1 keep2 b2
  have hb2 : b2.servo d = s1 := by
    simp only [b2, keep2]
    split <;> simp
  repeat' split
  all_goals simp [keep1, Blk.toHoldover_servo, Blk.toFree_servo, hb2, s1, s]

theorem Blk.announceLost_servoState : (b.announceLost d src).servoState d =
    (if (b.servo d).sel.map (·.source) = some src ∧ b.servoState d ≠ 0 ∧ b.servoState d ≠ 3
      then (if (b.servo d).everLocked = true then 3 else 0) else b.servoState d) := by
  unfold Blk.announceLost
  extract_lets s s1 isSel st keep1 keep2 b2
  have hsel : isSel = true ↔ (b.servo d).sel.map (·.source) = some src := by
    simp only [isSel, s]
    cases (b.servo d).sel <;> simp
  have hkeep1 : keep1.servoState d = b.servoState d := Blk.setServo_servoState ..
  by_cases hs : isSel = true
  · simp only [hs, Bool.not_true, Bool.false_eq_true, if_false, hsel.mp hs, true_and]
    by_cases h3 : b.servoState d = 3
    · simp only [show st = svHoldover from h3, h3, if_true, ne_eq, not_true, and_false, if_false]
      split
      · rw [Blk.dualTrigger_servoState, hkeep1, h3]
      · rw [hkeep1, h3]
    · by_cases h0 : b.servoState d = 0
      · simp only [show st = svFree from h0, h0, if_false, if_true, ne_eq, not_true, false_and]
        rw [if_neg (by decide), Blk.setServo_servoState, h0]
      · simp only [show ¬ st = svHoldover from h3, show ¬ st = svFree from h0, if_false, ne_eq, h0, h3, not_false_eq_true,
          and_self, if_true]
        by_cases hl : s.everLocked = true
        · rw [if_pos hl, if_pos hl, Blk.toHoldover_servoState]
        · rw [if_neg hl, if_neg hl, Blk.toFree_servoState]
  · have hs' : isSel = false := by simpa using hs
    have hne : ¬ (b.servo d).sel.map (·.source) = some src := fun h => hs (hsel.mpr h)
    simp only [hs', Bool.not_false, if_true, hne, false_and, if_false, Blk.setServo_servoState]

end
end

/-! ### What the announce messages come to at a block -/

section
variable {b : Blk} {d : Dom} {h : PtpHdr} {m : Announce}

theorem Blk.announce_accepted (henv : envTaken h.env 2 = true) (hd : b.domOf h.domain = some d) (hok : b.ptpOk h ptpAnnounce (-3) 4 = true)
    (hts : m.ptpTimescale = true) : b.announce h m = b.takeAnnounce d { source := h.source, data := m } := by
  simp only [Blk.announce, henv, hd, hok, hts, Bool.not_true, Bool.false_eq_true, if_false]

theorem Blk.announce_unsupported (henv : envTaken h.env 2 = true) (hd : b.domOf h.domain = some d)
    (hok : b.ptpOk h ptpAnnounce (-3) 4 = false) : b.announce h m = b.bump K.unsupportedMsgs := by
  simp only [Blk.announce, henv, hd, hok, Bool.not_true, Bool.not_false, Bool.false_eq_true, if_false, if_true]

theorem Blk.announce_envelope (henv : envTaken h.env 2 = false) : b.announce h m = b.badEnvelope h.env := by
  simp [Blk.announce, henv]

theorem Blk.announce_steps : (b.announce h m).steps = b.steps := by
  unfold Blk.announce
  split
  · rfl
  · split
    · rfl
    · split
      · rfl
      · split
        · rfl
        · exact Blk.takeAnnounce_steps _ _ _

end

theorem Blk.counts_badEnvelope (b : Blk) (e : EnvHead) : b.counts (b.badEnvelope e) K.envelopesDiscarded :=
  (Blk.num_bump_ne _ _ (by decide)).trans (Blk.counts_bump b _ 1)

theorem Blk.badEnvelope_servoState (b : Blk) (e : EnvHead) (d : Dom) : (b.badEnvelope e).servoState d = b.servoState d :=
  (Blk.setNum_servoState _ _ d rfl).trans (Blk.setNum_servoState _ _ d rfl)

/-- What ANNOUNCE_RECEIVE leaves of its block. -/
theorem exec_announceReceive_own {s : State} {n : Node} (h : PtpHdr) (m : Announce) (ht : (s.blk n).timed = true) :
    ∃ t, exec (.announceReceive n h m) s = .next t ∧ (t.blk n).own = ((s.blk n).announce h m).own :=
  ⟨_, rfl, (State.onClock_own ht (Blk.announce_seat _ h m) Blk.announce_steps).1⟩

end Sys2Proof.Machine

open Sys2Proof Sys2Proof.Machine

/-- Settles O7: an accepted Announce is `Blk.takeAnnounce`, a timeout `Blk.announceLost`, and neither opens a frame. -/
theorem announcesAct : Obligations.AnnouncesAct := by
  unfold Obligations.AnnouncesAct
  refine ⟨fun s n h m ht => ⟨fun d henv hd hok hts => ?_, fun d e henv hd hok => ?_, fun e henv => ?_⟩, fun s n d src ht => ?_⟩
  · obtain ⟨t, hexec, hown⟩ := exec_announceReceive_own h m ht
    rw [Blk.announce_accepted henv hd hok hts] at hown
    obtain ⟨hforeign, hsel⟩ := Blk.takeAnnounce_servo (s.blk n) d { source := h.source, data := m }
    have hstate := Blk.servoState_of_own hown d
    refine ⟨t, hexec, ?_, ?_, fun y hy => ?_, fun h0 => ?_, fun hdual => ⟨fun h1 => ?_, fun h2 => ?_, fun h3 => ?_⟩⟩
    · rw [Blk.servo_of_own hown d, hforeign]
    · rw [Blk.servo_of_own hown d, hsel]
    · rw [Blk.num_of_own hown (by cases d <;> rfl), Blk.takeAnnounce_gm _ _ _ hy]
    · rw [hstate, Blk.takeAnnounce_servoState_free _ _ _ h0]
    · rw [hstate, Blk.takeAnnounce_servoState _ _ _ hdual (by simp [h1])]
      simp [h1]
    · rw [hstate, Blk.takeAnnounce_servoState _ _ _ hdual (by simp [h2]), if_neg (by simp [h2]), if_pos h2]
      rfl
    · rw [hstate, Blk.takeAnnounce_servoState _ _ _ hdual (by simp [h3]), if_neg (by simp [h3]), if_neg (by simp [h3]), h3]
      rfl
  · obtain ⟨t, hexec, hown⟩ := exec_announceReceive_own h m ht
    rw [Blk.announce_unsupported henv hd hok] at hown
    exact ⟨t, hexec, Blk.counts_of_own (Blk.counts_bump _ _ 1) hown (by decide), (Blk.servo_of_own hown e).trans (Blk.bump_servo _ _ _ e),
      (Blk.servoState_of_own hown e).trans (Blk.setNum_servoState _ _ e rfl)⟩
  · obtain ⟨t, hexec, hown⟩ := exec_announceReceive_own h m ht
    rw [Blk.announce_envelope henv] at hown
    exact ⟨t, hexec, Blk.counts_of_own (Blk.counts_badEnvelope _ _) hown (by decide),
      (Blk.servo_of_own hown e).trans ((Blk.bump_servo _ _ _ e).trans (Blk.bump_servo _ _ _ e)),
      (Blk.servoState_of_own hown e).trans (Blk.badEnvelope_servoState _ _ e)⟩
  · have hown := (State.onClock_own (f := fun b => b.announceLost d src) ht (Blk.announceLost_seat _ d src)
      (Blk.announceLost_steps _ d src)).1
    exact ⟨_, rfl, (congrArg Servo.foreign (Blk.servo_of_own hown d)).trans (Blk.announceLost_foreign _ d src),
      (Blk.servoState_of_own hown d).trans (Blk.announceLost_servoState _ d src)⟩

end

section
/-! PROOF. Local time and offsets (R46, R48, R52, R59, R444): what the passage of time leaves of a servo, and what an offset does to it
where it takes no step. -/

namespace Sys2Proof.Machine

section
variable (b : Blk) (d e : Dom)

/-! ### Time passes -/

@[simp] theorem Blk.judgeAlignment_modeWas : b.judgeAlignment.modeWas = b.modeWas := by
  simp only [Blk.judgeAlignment, Blk.setBool, Blk.raiseErr]
  repeat' split
  all_goals rfl

@[simp] theorem Blk.judgeAlignment_ppsGood : b.judgeAlignment.ppsGood = b.ppsGood := by
  simp only [Blk.judgeAlignment, Blk.setBool, Blk.raiseErr]
  repeat' split
  all_goals rfl

@[simp] theorem Blk.judgeAlignment_tsq : b.judgeAlignment.tsq = b.tsq := by
  simp only [Blk.judgeAlignment, Blk.setBool, Blk.raiseErr]
  repeat' split
  all_goals rfl

@[simp] theorem Blk.judgeAlignment_remain : b.judgeAlignment.remain = b.remain := by
  simp only [Blk.judgeAlignment, Blk.setBool, Blk.raiseErr]
  repeat' split
  all_goals rfl

@[simp] theorem Blk.setTime_servo (t : Nat) : (b.setTime d t).servo e = b.servo e := by cases d <;> cases e <;> rfl

@[simp] theorem Blk.setTime_num (t k : Nat) : (b.setTime d t).num k = b.num k := by cases d <;> rfl

@[simp] theorem Blk.setTime_modeWas (t : Nat) : (b.setTime d t).modeWas = b.modeWas := by cases d <;> rfl

@[simp] theorem Blk.setTime_ppsGood (t : Nat) : (b.setTime d t).ppsGood = b.ppsGood := by cases d <;> rfl

@[simp] theorem Blk.setTime_tsq (t : Nat) : (b.setTime d t).tsq = b.tsq := by cases d <;> rfl

@[simp] theorem Blk.setTime_steps (t : Nat) : (b.setTime d t).steps = b.steps := by cases d <;> rfl

@[simp] theorem Blk.drainRemain_servo (t : Nat) : (b.drainRemain t).servo e = b.servo e := by
  unfold Blk.drainRemain
  split <;> cases e <;> rfl

@[simp] theorem Blk.drainRemain_num (t k : Nat) : (b.drainRemain t).num k = b.num k := by
  unfold Blk.drainRemain
  split <;> rfl

@[simp] theorem Blk.drainRemain_modeWas (t : Nat) : (b.drainRemain t).modeWas = b.modeWas := by
  unfold Blk.drainRemain
  split <;> rfl

@[simp] theorem Blk.drainRemain_ppsGood (t : Nat) : (b.drainRemain t).ppsGood = b.ppsGood := by
  unfold Blk.drainRemain
  split <;> rfl

@[simp] theorem Blk.drainRemain_tsq (t : Nat) : (b.drainRemain t).tsq = b.tsq := by
  unfold Blk.drainRemain
  split <;> rfl

@[simp] theorem Blk.drainRemain_steps (t : Nat) : (b.drainRemain t).steps = b.steps := by
  unfold Blk.drainRemain
  split <;> rfl

/-- The block when time has passed, before its holdover and its alignment are judged (R57). -/
def Blk.drained (x : Nat) : Blk :=
  let t := x - b.time d
  let r1 := (b.servo d).drain (b.num K.slewLimitPpb) t
  let r2 := (b.servo (domOther d)).drain (b.num K.slewLimitPpb) t
  let b1 := ((b.setServo d r1.1).setServo (domOther d) r2.1).setTime d (b.time d + t)
  (b1.setTime (domOther d) ((b.time (domOther d) : Int) + t - r1.2 + r2.2).toNat).drainRemain t

theorem Blk.advance_eq (x : Nat) : b.advance d x =
    (if (b.drained d x).servoState (b.drained d x).activeDom = svHoldover then
      ({ b.drained d x with holdNs := (b.drained d x).holdNs + (x - b.time d) }.setNum K.holdoverElapsedMs
        (min (((b.drained d x).holdNs + (x - b.time d)) / 1000000) (2 ^ 32 - 1))).judgeAlignment
     else b.drained d x) := rfl

theorem Blk.drained_servo (x : Nat) :
    (b.drained d x).servo e = ((b.servo e).drain (b.num K.slewLimitPpb) (x - b.time d)).1 := by
  rw [Blk.drained, Blk.drainRemain_servo, Blk.setTime_servo, Blk.setTime_servo]
  cases d <;> cases e <;> rfl

theorem Blk.drained_num (x k : Nat) : (b.drained d x).num k = b.num k := by simp [Blk.drained]

/-- What the drains leave of a block. -/
theorem Blk.drained_keeps (x : Nat) : (b.drained d x).modeWas = b.modeWas ∧ (b.drained d x).ppsGood = b.ppsGood ∧
    (b.drained d x).tsq = b.tsq ∧ (b.drained d x).steps = b.steps := by simp [Blk.drained]

/-- The servo of a domain after time has passed: its slew is drained (R48), and nothing else moves. -/
theorem Blk.advance_servo (x : Nat) :
    (b.advance d x).servo e = ((b.servo e).drain (b.num K.slewLimitPpb) (x - b.time d)).1 := by
  rw [Blk.advance_eq, ← Blk.drained_servo b d e x]
  generalize b.drained d x = y
  split
  · rw [Blk.judgeAlignment_servo, Blk.setNum_servo]
    cases e <;> rfl
  · rfl

/-- What the drain of a slew leaves of a servo. -/
theorem Servo.drain_keeps (s : Servo) (lim t : Nat) :
    (s.drain lim t).1.sel = s.sel ∧ (s.drain lim t).1.m = s.m ∧ (s.drain lim t).1.waiting = s.waiting := by
  unfold Servo.drain
  split <;> exact ⟨rfl, rfl, rfl⟩

theorem Blk.advance_num_of_ne (x : Nat) {k : Nat} (h1 : k ≠ K.holdoverElapsedMs) (h2 : k ≠ K.alignmentAssured) :
    (b.advance d x).num k = b.num k := by
  rw [Blk.advance_eq, ← Blk.drained_num b d x k]
  generalize b.drained d x = y
  split
  · rw [Blk.judgeAlignment_num _ h1 h2, Blk.num_setNum_ne _ _ h1]
    rfl
  · rfl

theorem Blk.advance_num (x : Nat) {k : Nat} (h : timeFree k = true) : (b.advance d x).num k = b.num k :=
  Blk.advance_num_of_ne b d x (timeFree_ne h).1 (timeFree_ne h).2.1

theorem Blk.advance_servoState (x : Nat) : (b.advance d x).servoState e = b.servoState e :=
  Blk.advance_num_of_ne b d x (by cases e <;> decide) (by cases e <;> decide)

/-- Time that passes leaves the mode, the pulse, the stamps and the steps of a block. -/
theorem Blk.advance_keeps (x : Nat) : (b.advance d x).modeWas = b.modeWas ∧ (b.advance d x).ppsGood = b.ppsGood ∧
    (b.advance d x).tsq = b.tsq ∧ (b.advance d x).steps = b.steps ∧ (b.advance d x).isLeaf = b.isLeaf := by
  obtain ⟨hmode, hpps, htsq, hsteps⟩ := Blk.drained_keeps b d x
  refine ⟨?_, ?_, ?_, ?_, (Blk.advance_seat b d x).1⟩
  · rw [Blk.advance_eq, ← hmode]
    split
    · exact Blk.judgeAlignment_modeWas _
    · rfl
  · rw [Blk.advance_eq, ← hpps]
    split
    · exact Blk.judgeAlignment_ppsGood _
    · rfl
  · rw [Blk.advance_eq, ← htsq]
    split
    · exact Blk.judgeAlignment_tsq _
    · rfl
  · rw [Blk.advance_eq, ← hsteps]
    split
    · exact Blk.judgeAlignment_steps _
    · rfl

theorem Blk.advance_activeDom (x : Nat) : (b.advance d x).activeDom = b.activeDom := by
  unfold Blk.activeDom
  rw [Blk.advance_num b d x (by rfl)]

theorem Blk.advance_messagePhase (x : Nat) : (b.advance d x).messagePhase e = b.messagePhase e := by
  obtain ⟨-, hpps, -, -, hleaf⟩ := Blk.advance_keeps b d x
  unfold Blk.messagePhase
  rw [Blk.advance_activeDom, hpps, hleaf, Blk.advance_num b d x (by rfl)]

theorem Blk.advance_asymmetry (x : Nat) : (b.advance d x).asymmetry = b.asymmetry := by
  unfold Blk.asymmetry
  rw [Blk.advance_num b d x (by rfl)]

theorem Blk.advance_fromSelected (x : Nat) (h : PtpHdr) : (b.advance d x).fromSelected e h = b.fromSelected e h := by
  unfold Blk.fromSelected
  rw [Blk.advance_servo, (Servo.drain_keeps _ _ _).1]

/-! ### An offset is acted on without a step -/

/-- Out of acquiring and locked an offset moves nothing (Table 2.5). -/
theorem Blk.actOn_idle (o : Int) (h : b.servoState d = 0 ∨ b.servoState d = 3) : b.actOn d o = (b, none) := by
  have hacq : b.servoState d ≠ svAcquiring := by rcases h with h | h <;> rw [h] <;> decide
  have hlock : b.servoState d ≠ svLocked := by rcases h with h | h <;> rw [h] <;> decide
  exact (if_neg hacq).trans (if_neg hlock)

/-- A locked servo out of guarded mode slews an offset below the step threshold away (R48). -/
theorem Blk.actOn_slew (o : Int) (h : b.servoState d = 2) (hmode : bit b.timeMode 0 = false) (ho : o.natAbs < b.num K.stepThresholdNs) :
    b.actOn d o = (b.setServo d { b.servo d with refusals := 0, slew := -o }, none) := by
  simp [Blk.actOn, h, hmode, ho]

theorem Blk.actOnMessage_idle (o : Int) (h : b.servoState d = 0 ∨ b.servoState d = 3) : b.actOnMessage d o = (b, none) := by
  unfold Blk.actOnMessage
  split
  · exact Blk.actOn_idle b d o h
  · split
    · rfl
    · exact Blk.actOn_idle b d _ h

theorem Blk.actOnMessage_slew (o : Int) (h : b.servoState d = 2) (hmode : bit b.timeMode 0 = false)
    (ho : o.natAbs < b.num K.stepThresholdNs) (hm : b.messagePhase d = true) :
    b.actOnMessage d o = (b.setServo d { b.servo d with refusals := 0, slew := -o }, none) := by
  rw [Blk.actOnMessage, if_pos hm, Blk.actOn_slew b d o h hmode ho]

theorem Blk.countSync_of_ne (o : Int) (h : b.servoState d ≠ 1) : b.countSync d o = b := by
  rw [Blk.countSync, if_neg h]

/-! ### A Sync has its origin time -/

/-- The block when a Sync with t2 − t1 = `down` has its origin time, before its offset is acted on (R66, R444). -/
def Blk.heardSync (down : Int) : Blk :=
  ({ b with modeWas := none }.setServo d { b.servo d with down := some down, waiting := none }).reportOffset d
    (down - (b.servo d).m - b.asymmetry)

theorem Blk.takeSync_eq (down : Int) : b.takeSync d down =
    (((b.heardSync d down).actOnMessage d (down - (b.servo d).m - b.asymmetry)).1.countSync d (down - (b.servo d).m - b.asymmetry),
      ((b.heardSync d down).actOnMessage d (down - (b.servo d).m - b.asymmetry)).2) := rfl

theorem Blk.heardSync_servo (down : Int) : (b.heardSync d down).servo d = { b.servo d with down := some down, waiting := none } := by
  simp [Blk.heardSync, Blk.reportOffset]

theorem Blk.heardSync_offset (down : Int) : (b.heardSync d down).num (offsetKey d) =
    unsigned 32 (clampInt (-2147483648) 2147483647 (down - (b.servo d).m - b.asymmetry)) := Blk.num_setNum_same _ _ _

theorem Blk.heardSync_num (down : Int) {k : Nat} (h : k ≠ offsetKey d) : (b.heardSync d down).num k = b.num k := by
  rw [Blk.heardSync, Blk.reportOffset, Blk.num_setNum_ne _ _ h, Blk.setServo_num]
  rfl

theorem Blk.heardSync_servoState (down : Int) : (b.heardSync d down).servoState d = b.servoState d :=
  Blk.heardSync_num b d down (by cases d <;> decide)

@[simp] theorem Blk.heardSync_steps (down : Int) : (b.heardSync d down).steps = b.steps := Blk.setServo_steps _ d _

theorem Blk.heardSync_timeMode (down : Int) : (b.heardSync d down).timeMode = b.num K.timeMode := by
  have hmode : (b.heardSync d down).modeWas = none := Blk.setServo_modeWas _ d _
  rw [Blk.timeMode, hmode, Option.getD_none, Blk.heardSync_num b d down (by cases d <;> decide)]

theorem Blk.heardSync_messagePhase (down : Int) : (b.heardSync d down).messagePhase d = b.messagePhase d := by
  have hpps : (b.heardSync d down).ppsGood = b.ppsGood := Blk.setServo_ppsGood _ d _
  have hleaf : (b.heardSync d down).isLeaf = b.isLeaf := Blk.setServo_isLeaf _ d _
  have hactive : (b.heardSync d down).num K.activeDomain = b.num K.activeDomain := Blk.heardSync_num b d down (by cases d <;> decide)
  have henable : (b.heardSync d down).num K.ppsEnable = b.num K.ppsEnable := Blk.heardSync_num b d down (by cases d <;> decide)
  simp only [Blk.messagePhase, Blk.activeDom, hpps, hleaf, hactive, henable]
  rfl

/-- In free-run and in holdover a Sync is heard and reported, and moves no servo. -/
theorem Blk.takeSync_idle (down : Int) (h : b.servoState d = 0 ∨ b.servoState d = 3) : b.takeSync d down = (b.heardSync d down, none) := by
  have hst := Blk.heardSync_servoState b d down
  rw [Blk.takeSync_eq, Blk.actOnMessage_idle _ d _ (by rw [hst]; exact h), Blk.countSync_of_ne]
  rw [hst]
  rcases h with h | h <;> rw [h] <;> decide

/-- A locked servo slews the offset of a Sync away (R48). -/
theorem Blk.takeSync_slew (down : Int) (h : b.servoState d = 2) (hmode : bit (b.num K.timeMode) 0 = false)
    (ho : (down - (b.servo d).m - b.asymmetry).natAbs < b.num K.stepThresholdNs) (hm : b.messagePhase d = true) :
    b.takeSync d down = ((b.heardSync d down).setServo d { (b.heardSync d down).servo d with
      refusals := 0, slew := -(down - (b.servo d).m - b.asymmetry) }, none) := by
  have hst := Blk.heardSync_servoState b d down
  have hthreshold : (b.heardSync d down).num K.stepThresholdNs = b.num K.stepThresholdNs :=
    Blk.heardSync_num b d down (by cases d <;> decide)
  rw [Blk.takeSync_eq, Blk.actOnMessage_slew _ d _ (hst.trans h) (by rw [Blk.heardSync_timeMode]; exact hmode)
    (by rw [hthreshold]; exact ho) ((Blk.heardSync_messagePhase b d down).trans hm), Blk.countSync_of_ne]
  rw [Blk.setServo_servoState, hst, h]
  decide

end

/-! ### Follow_Up -/

section
variable {b : Blk} {d : Dom} {h : PtpHdr} {t1 : BitVec 96}

theorem Blk.followUp_waited (henv : envTaken h.env 2 = true) (hd : b.domOf h.domain = some d) (hok : b.ptpOk h ptpFollowUp (-128) 127 = true)
    (hsel : b.fromSelected d h = true) {rx : Int} (hw : (b.servo d).waiting = some (h.source, h.seqId, rx)) :
    b.followUp h t1 = b.takeSync d (rx - h.correction.toInt / 65536 - t96ns t1.toNat) := by
  simp only [Blk.followUp, henv, hd, hok, hw, hsel, Bool.not_true, Bool.false_eq_true, if_false, and_self, if_true, ptpCorrNs]

theorem Blk.followUp_stray (henv : envTaken h.env 2 = true) (hd : b.domOf h.domain = some d) (hok : b.ptpOk h ptpFollowUp (-128) 127 = true)
    (hw : ∀ rx : Int, (b.servo d).waiting ≠ some (h.source, h.seqId, rx)) : b.followUp h t1 = (b, none) := by
  simp only [Blk.followUp, henv, hd, hok, Bool.not_true, Bool.false_eq_true, if_false]
  split
  · rfl
  · next src q rx hwait =>
    rw [if_neg]
    rintro ⟨rfl, rfl, -⟩
    exact hw rx hwait

end

end Sys2Proof.Machine

open Sys2Proof Sys2Proof.Machine

/-- Settles O10: a Follow_Up is `Blk.takeSync` for the Sync that waits, and nothing for another. -/
theorem followUpReports : Obligations.FollowUpReports := by
  unfold Obligations.FollowUpReports
  intro s n d h t1 ht henv hd hok
  refine ⟨fun rx hsel hw => ?_, fun hstray => ?_⟩
  · have heq := Blk.followUp_waited (t1 := t1) henv hd hok hsel hw
    refine ⟨fun hidle => ?_, fun h2 hmode ho hm => ?_⟩
    · rw [Blk.takeSync_idle _ d _ hidle] at heq
      obtain ⟨hown, -⟩ := State.onTime_own (f := fun b => b.followUp h t1) ht (congrArg Prod.snd heq) (Blk.followUp_seat ..)
        (by simp only [heq, Blk.heardSync_steps])
      simp only [heq] at hown
      refine ⟨_, rfl, ?_, ?_⟩
      · exact congrArg Servo.waiting ((Blk.servo_of_own hown d).trans (Blk.heardSync_servo _ d _))
      · exact (Blk.num_of_own hown (by cases d <;> rfl)).trans (Blk.heardSync_offset _ d _)
    · rw [Blk.takeSync_slew _ d _ h2 hmode ho hm] at heq
      obtain ⟨hown, -⟩ := State.onTime_own (f := fun b => b.followUp h t1) ht (congrArg Prod.snd heq) (Blk.followUp_seat ..)
        (by simp only [heq, Blk.setServo_steps, Blk.heardSync_steps])
      simp only [heq] at hown
      have hservo := (Blk.servo_of_own hown d).trans (Blk.servo_setServo_same _ d _)
      refine ⟨_, rfl, ?_, ?_, ?_, ?_⟩
      · exact (congrArg Servo.waiting hservo).trans (congrArg Servo.waiting (Blk.heardSync_servo _ d _))
      · exact (Blk.num_of_own hown (by cases d <;> rfl)).trans ((Blk.setServo_num _ d _ _).trans (Blk.heardSync_offset _ d _))
      · exact congrArg Servo.slew hservo
      · exact (Blk.servoState_of_own hown d).trans ((Blk.setServo_servoState _ d d _).trans ((Blk.heardSync_servoState _ d _).trans h2))
  · have heq := Blk.followUp_stray (t1 := t1) henv hd hok hstray
    obtain ⟨hown, -⟩ := State.onTime_own (f := fun b => b.followUp h t1) ht (congrArg Prod.snd heq) (Blk.followUp_seat ..)
      (by simp only [heq])
    simp only [heq] at hown
    exact ⟨_, rfl, Blk.servo_of_own hown d, Blk.num_of_own hown (by cases d <;> rfl)⟩

end

section
/-! PROOF. The exchange of time stamps (R60, R444). -/

namespace Sys2Proof.Machine

/-- A counter of a block that only time has passed for counts from the block before. -/
theorem Blk.counts_of_num {a b c : Blk} {k n : Nat} (hn : b.num k = a.num k) (hl : b.isLeaf = a.isLeaf) (h : b.counts c k n) :
    a.counts c k n := by
  unfold Blk.counts at *
  rw [h, hn, hl]

/-! ### Delay_Req -/

section
variable {b : Blk} {d : Dom} {q : BitVec 16} {t3 : BitVec 96}

/-- The block that has sent a Delay_Req, before its stamp is queued. -/
def Blk.askedDelay (b : Blk) (d : Dom) (q : BitVec 16) (t3 : BitVec 96) : Blk :=
  (b.advance d (t96ns t3.toNat)).emit (.delayReq d q)

/-- A transmit stamp joins the queue. -/
def Blk.queueStamp (b : Blk) (e : TsqEntry) : Blk := { b with tsq := b.tsq ++ [e] }

theorem Blk.askedDelay_tsq : (b.askedDelay d q t3).tsq = b.tsq := (Blk.advance_keeps b d _).2.2.1

theorem Blk.askedDelay_steps : (b.askedDelay d q t3).steps = b.steps := (Blk.advance_keeps b d _).2.2.2.1

theorem Blk.askedDelay_out : .delayReq d q ∈ (b.askedDelay d q t3).out := List.mem_append_right _ (List.mem_singleton_self _)

theorem Blk.delayReq_queued (hsel : (b.servo d).sel.isSome = true) (h : b.tsq.length < 16) :
    b.delayReq d q t3 = (b.askedDelay d q t3).queueStamp
      { dom := d, seqId := q, stamp := t3, corrAt := ((b.askedDelay d q t3).servo d).corr } := by
  have hlen : ¬ 16 ≤ (b.askedDelay d q t3).tsq.length := by rw [Blk.askedDelay_tsq]; omega
  have hnone : ¬ (b.servo d).sel.isNone = true := by simp [Option.isSome_iff_ne_none.mp hsel]
  exact (if_neg hnone).trans (if_neg hlen)

theorem Blk.delayReq_full (hsel : (b.servo d).sel.isSome = true) (h : 16 ≤ b.tsq.length) :
    b.delayReq d q t3 = (b.askedDelay d q t3).bump K.tsqOverflow := by
  have hlen : 16 ≤ (b.askedDelay d q t3).tsq.length := by rw [Blk.askedDelay_tsq]; omega
  have hnone : ¬ (b.servo d).sel.isNone = true := by simp [Option.isSome_iff_ne_none.mp hsel]
  exact (if_neg hnone).trans (if_pos hlen)

end

/-- What DELAY_REQ_SEND leaves of its block. -/
theorem exec_delayReqSend_own {s : State} {n : Node} {d : Dom} {q : BitVec 16} {t3 : BitVec 96} (ht : (s.blk n).timed = true)
    (hsteps : ((s.blk n).delayReq d q t3).steps = (s.blk n).steps) :
    ∃ t, exec (.delayReqSend n d q t3) s = .next t ∧ (t.blk n).own = ((s.blk n).delayReq d q t3).own ∧
      ((s.blk n).delayReq d q t3).out <+: (t.blk n).out := by
  obtain ⟨hown, hout⟩ := State.onClock_own (f := fun b => b.delayReq d q t3) ht (Blk.delayReq_seat ..) hsteps
  exact ⟨_, rfl, hown, hout⟩

/-! ### Sync -/

section
variable {b : Blk} {d : Dom} {h : PtpHdr} {t1 t2 : BitVec 96}

theorem Blk.sync_twoStep (henv : envTaken h.env 2 = true) (hd : b.domOf h.domain = some d) (hok : b.ptpOk h ptpSync (-7) 0 = true)
    (hsel : b.fromSelected d h = true) (htwo : h.twoStep = true) (hst : b.servoState d = 1 ∨ b.servoState d = 2) :
    b.sync h t1 t2 = ((b.advance d (t96ns t2.toNat)).setServo d { (b.advance d (t96ns t2.toNat)).servo d with
      waiting := some (h.source, h.seqId, (t96ns t2.toNat : Int) - h.correction.toInt / 65536) }, none) := by
  have hidle : (b.servoState d != svAcquiring && b.servoState d != svLocked) = false := by
    rcases hst with hst | hst <;> rw [hst] <;> decide
  simp only [Blk.sync, henv, hd, hok, Blk.advance_fromSelected, hsel, Blk.advance_servoState, hidle, htwo, Bool.not_true, Bool.false_eq_true,
    if_false, if_true, Bool.or_false, ptpCorrNs]

theorem Blk.sync_oneStep (henv : envTaken h.env 2 = true) (hd : b.domOf h.domain = some d) (hok : b.ptpOk h ptpSync (-7) 0 = true)
    (hsel : b.fromSelected d h = true) (hone : h.twoStep = false) (hst : b.servoState d = 2) :
    b.sync h t1 t2 = (b.advance d (t96ns t2.toNat)).takeSync d
      ((t96ns t2.toNat : Int) - h.correction.toInt / 65536 - t96ns t1.toNat) := by
  have hidle : (b.servoState d != svAcquiring && b.servoState d != svLocked) = false := by rw [hst]; decide
  simp only [Blk.sync, henv, hd, hok, Blk.advance_fromSelected, hsel, Blk.advance_servoState, hidle, hone, Bool.not_true, Bool.false_eq_true,
    if_false, Bool.or_false, ptpCorrNs]

end

/-! ### Delay_Resp -/

section
variable {b : Blk} {d : Dom} {h : PtpHdr} {t4 : BitVec 96} {e : TsqEntry} {rest : List TsqEntry} {down : Int}

/-- The mean path delay that a Delay_Resp completes (R444). -/
def Blk.pathDelay (b : Blk) (d : Dom) (h : PtpHdr) (t4 : BitVec 96) (e : TsqEntry) (down : Int) : Int :=
  (down + (((t96ns t4.toNat : Int) - h.correction.toInt / 65536) - (t96ns e.stamp.toNat + ((b.servo d).corr - e.corrAt)))) / 2

/-- The block that has taken the delay of a Delay_Resp, before its offset is acted on. -/
def Blk.tookDelay (b : Blk) (d : Dom) (h : PtpHdr) (t4 : BitVec 96) (e : TsqEntry) (rest : List TsqEntry) (down : Int) : Blk :=
  let m := b.pathDelay d h t4 e down
  let s := b.servo d
  (((({ b with tsq := rest }.setServo d { s with logDelayReq := clampLog h.logInterval }).setServo d
    { s with logDelayReq := clampLog h.logInterval, m := m }).reportOffset d (down - m - b.asymmetry)).setNum (pathKey d)
      (clampInt 0 4294967295 m).toNat)

theorem Blk.delayResp_matched (henv : envTaken h.env 2 = true) (hd : b.domOf h.domain = some d)
    (hok : b.ptpOk h ptpDelayResp (-128) 127 = true) (hsel : b.fromSelected d h = true)
    (hm : tsqMatch d h.seqId b.tsq = some (e, rest)) (hdown : (b.servo d).down = some down) :
    b.delayResp h t4 = (b.tookDelay d h t4 e rest down).actOnMessage d (down - b.pathDelay d h t4 e down - b.asymmetry) := by
  simp only [Blk.delayResp, henv, hd, hok, hsel, hm, Bool.not_true, Bool.false_eq_true, if_false]
  split
  · next hnone => rw [hdown] at hnone; cases hnone
  · next dn hsome =>
    obtain rfl : dn = down := Option.some.inj (hsome.symm.trans hdown)
    rfl

theorem Blk.tookDelay_tsq : (b.tookDelay d h t4 e rest down).tsq = rest :=
  (Blk.setServo_tsq _ d _).trans (Blk.setServo_tsq _ d _)

theorem Blk.tookDelay_servo : ((b.tookDelay d h t4 e rest down).servo d).m = b.pathDelay d h t4 e down := by
  simp [Blk.tookDelay, Blk.reportOffset]

theorem Blk.tookDelay_num {k : Nat} (h1 : k ≠ pathKey d) (h2 : k ≠ offsetKey d) : (b.tookDelay d h t4 e rest down).num k = b.num k := by
  rw [Blk.tookDelay, Blk.num_setNum_ne _ _ h1, Blk.reportOffset, Blk.num_setNum_ne _ _ h2, Blk.setServo_num, Blk.setServo_num]
  rfl

theorem Blk.tookDelay_servoState : (b.tookDelay d h t4 e rest down).servoState d = b.servoState d :=
  Blk.tookDelay_num (by cases d <;> decide) (by cases d <;> decide)

theorem Blk.tookDelay_steps : (b.tookDelay d h t4 e rest down).steps = b.steps :=
  (Blk.setServo_steps _ d _).trans (Blk.setServo_steps _ d _)

theorem Blk.tookDelay_timeMode : (b.tookDelay d h t4 e rest down).timeMode = b.timeMode := by
  have hmode : (b.tookDelay d h t4 e rest down).modeWas = b.modeWas := (Blk.setServo_modeWas _ d _).trans (Blk.setServo_modeWas _ d _)
  rw [Blk.timeMode, hmode, Blk.tookDelay_num (by cases d <;> decide) (by cases d <;> decide)]
  rfl

theorem Blk.tookDelay_messagePhase : (b.tookDelay d h t4 e rest down).messagePhase d = b.messagePhase d := by
  have hpps : (b.tookDelay d h t4 e rest down).ppsGood = b.ppsGood := (Blk.setServo_ppsGood _ d _).trans (Blk.setServo_ppsGood _ d _)
  have hleaf : (b.tookDelay d h t4 e rest down).isLeaf = b.isLeaf := (Blk.setServo_isLeaf _ d _).trans (Blk.setServo_isLeaf _ d _)
  have hnum (k : Nat) (h1 : k ≠ pathKey d) (h2 : k ≠ offsetKey d) : (b.tookDelay d h t4 e rest down).num k = b.num k :=
    Blk.tookDelay_num h1 h2
  simp only [Blk.messagePhase, Blk.activeDom, hpps, hleaf, hnum K.activeDomain (by cases d <;> decide) (by cases d <;> decide),
    hnum K.ppsEnable (by cases d <;> decide) (by cases d <;> decide)]
  rfl

/-- Where the servo takes no step, the exchange leaves the queue without the stamp, and the mean path delay. -/
theorem Blk.delayResp_exchanged (henv : envTaken h.env 2 = true) (hd : b.domOf h.domain = some d)
    (hok : b.ptpOk h ptpDelayResp (-128) 127 = true) (hsel : b.fromSelected d h = true)
    (hm : tsqMatch d h.seqId b.tsq = some (e, rest)) (hdown : (b.servo d).down = some down)
    (hst : b.servoState d = 0 ∨ b.servoState d = 3 ∨ (bit b.timeMode 0 = false ∧ b.servoState d = 2 ∧
      (down - b.pathDelay d h t4 e down - b.asymmetry).natAbs < b.num K.stepThresholdNs ∧ b.messagePhase d = true)) :
    (b.delayResp h t4).2 = none ∧ (b.delayResp h t4).1.steps = b.steps ∧ (b.delayResp h t4).1.tsq = rest ∧
      ((b.delayResp h t4).1.servo d).m = b.pathDelay d h t4 e down := by
  rw [Blk.delayResp_matched henv hd hok hsel hm hdown]
  have hidle (hi : b.servoState d = 0 ∨ b.servoState d = 3) := Blk.actOnMessage_idle (b.tookDelay d h t4 e rest down) d
    (down - b.pathDelay d h t4 e down - b.asymmetry) (by rw [Blk.tookDelay_servoState]; exact hi)
  rcases hst with h0 | h3 | ⟨hmode, h2, ho, hphase⟩
  · rw [hidle (Or.inl h0)]
    exact ⟨rfl, Blk.tookDelay_steps, Blk.tookDelay_tsq, Blk.tookDelay_servo⟩
  · rw [hidle (Or.inr h3)]
    exact ⟨rfl, Blk.tookDelay_steps, Blk.tookDelay_tsq, Blk.tookDelay_servo⟩
  · have hthreshold : (b.tookDelay d h t4 e rest down).num K.stepThresholdNs = b.num K.stepThresholdNs :=
      Blk.tookDelay_num (by cases d <;> decide) (by cases d <;> decide)
    rw [Blk.actOnMessage_slew _ d _ (Blk.tookDelay_servoState.trans h2) (by rw [Blk.tookDelay_timeMode]; exact hmode)
      (by rw [hthreshold]; exact ho) (Blk.tookDelay_messagePhase.trans hphase)]
    refine ⟨rfl, (Blk.setServo_steps _ d _).trans Blk.tookDelay_steps, (Blk.setServo_tsq _ d _).trans Blk.tookDelay_tsq, ?_⟩
    rw [Blk.servo_setServo_same]
    exact Blk.tookDelay_servo

end

end Sys2Proof.Machine

open Sys2Proof Sys2Proof.Machine

/-- Settles O8: each of the four messages is the operation of its equation above, and none of them opens a frame where it is stated. -/
theorem stampsAreExchanged : Obligations.StampsAreExchanged := by
  unfold Obligations.StampsAreExchanged
  intro s n d ht hsome slews
  refine ⟨fun q t3 => ⟨fun hlen => ?_, fun hlen => ?_⟩, fun h t1 t2 henv hd hok hsel => ⟨fun htwo hst => ?_, fun hone hmode hs => ?_⟩,
    fun h t4 e rest down henv hd hok hsel hm hdown hst => ?_⟩
  · have heq := Blk.delayReq_queued (q := q) (t3 := t3) hsome hlen
    obtain ⟨t, hexec, hown, hout⟩ := exec_delayReqSend_own (q := q) (t3 := t3) ht ((congrArg Blk.steps heq).trans (Blk.askedDelay_steps (q := q) (t3 := t3)))
    rw [heq] at hown hout
    exact ⟨t, hexec, hout.subset Blk.askedDelay_out, _, (congrArg Blk.tsq hown).trans (congrArg (· ++ _) Blk.askedDelay_tsq), rfl, rfl, rfl⟩
  · have heq := Blk.delayReq_full (q := q) (t3 := t3) hsome hlen
    obtain ⟨t, hexec, hown, hout⟩ := exec_delayReqSend_own (q := q) (t3 := t3) ht ((congrArg Blk.steps heq).trans (Blk.askedDelay_steps (q := q) (t3 := t3)))
    rw [heq] at hown hout
    refine ⟨t, hexec, hout.subset Blk.askedDelay_out, (congrArg Blk.tsq hown).trans (Blk.askedDelay_tsq (q := q) (t3 := t3)), ?_⟩
    refine Blk.counts_of_own (Blk.counts_of_num (b := (s.blk n).askedDelay d q t3) ?_ ?_ (Blk.counts_bump _ _ 1)) hown (by decide)
    · exact Blk.advance_num (s.blk n) d _ (by rfl)
    · exact (Blk.advance_seat (s.blk n) d _).1
  · have heq := Blk.sync_twoStep (t1 := t1) (t2 := t2) henv hd hok hsel htwo hst
    obtain ⟨hown, -⟩ := State.onTime_own (f := fun b => b.sync h t1 t2) ht (congrArg Prod.snd heq) (Blk.sync_seat ..)
      (by simp only [heq, Blk.setServo_steps]; exact (Blk.advance_keeps _ d _).2.2.2.1)
    simp only [heq] at hown
    exact ⟨_, rfl, congrArg Servo.waiting ((Blk.servo_of_own hown d).trans (Blk.servo_setServo_same _ d _))⟩
  · obtain ⟨h2, ho, hphase⟩ := hs
    have heq := Blk.sync_oneStep (t1 := t1) (t2 := t2) henv hd hok hsel hone h2
    have hmean : (((s.blk n).advance d (t96ns t2.toNat)).servo d).m = ((s.blk n).servo d).m := by
      rw [Blk.advance_servo]
      exact (Servo.drain_keeps _ _ _).2.1
    have hoffset : (t96ns t2.toNat : Int) - h.correction.toInt / 65536 - t96ns t1.toNat -
        (((s.blk n).advance d (t96ns t2.toNat)).servo d).m - ((s.blk n).advance d (t96ns t2.toNat)).asymmetry =
        (t96ns t2.toNat : Int) - h.correction.toInt / 65536 - t96ns t1.toNat - ((s.blk n).servo d).m - (s.blk n).asymmetry := by rw [hmean, Blk.advance_asymmetry]
    rw [Blk.takeSync_slew _ d _ ((Blk.advance_servoState _ d d _).trans h2) (by rw [Blk.advance_num _ d _ (by rfl)]; exact hmode)
      (by rw [hoffset, Blk.advance_num _ d _ (by rfl)]; exact ho) (by rw [Blk.advance_messagePhase]; exact hphase), hoffset] at heq
    obtain ⟨hown, -⟩ := State.onTime_own (f := fun b => b.sync h t1 t2) ht (congrArg Prod.snd heq) (Blk.sync_seat ..)
      (by simp only [heq, Blk.setServo_steps, Blk.heardSync_steps]; exact (Blk.advance_keeps _ d _).2.2.2.1)
    simp only [heq] at hown
    refine ⟨_, rfl, congrArg Servo.slew ((Blk.servo_of_own hown d).trans (Blk.servo_setServo_same _ d _)), ?_⟩
    rw [Blk.num_of_own hown (by cases d <;> rfl), Blk.setServo_num, Blk.heardSync_offset, hoffset]
  · have hslew : (s.blk n).servoState d = 0 ∨ (s.blk n).servoState d = 3 ∨ (bit (s.blk n).timeMode 0 = false ∧
        (s.blk n).servoState d = 2 ∧ _ ∧ (s.blk n).messagePhase d = true) := hst
    obtain ⟨hnone, hsteps, htsq, hmean⟩ := Blk.delayResp_exchanged henv hd hok hsel hm hdown hslew
    obtain ⟨hown, -⟩ := State.onTime_own (f := fun b => b.delayResp h t4) ht hnone (Blk.delayResp_seat ..) hsteps
    exact ⟨_, rfl, (congrArg Blk.tsq hown).trans htsq, (congrArg Servo.m (Blk.servo_of_own hown d)).trans hmean⟩

end

section
/-! PROOF. Guard acceptance, the active domain, holdover and the pulse-per-second input (R53, R55, R57, R59). -/

namespace Sys2Proof.Machine

section
variable (b : Blk) (d : Dom)

/-! ### Guard acceptance (R53) -/

theorem Blk.setServoState_servoState_ne (st : Nat) {e : Dom} (h : e ≠ d) : (b.setServoState d st).servoState e = b.servoState e := by
  rw [Blk.setServoState, Blk.judgeAlignment_servoState]
  exact Blk.num_setNum_ne b st (by revert h; cases d <;> cases e <;> decide)

theorem Blk.toAcquiring_servoState_ne {e : Dom} (h : e ≠ d) : (b.toAcquiring d).servoState e = b.servoState e := by
  have hset (x : Blk) := Blk.setServoState_servoState_ne x d svAcquiring h
  cases d <;> exact hset _

theorem Blk.toAcquiring_servo_ne {e : Dom} (h : e ≠ d) : (b.toAcquiring d).servo e = b.servo e := by
  match d, e with
  | .a, .a => exact absurd rfl h
  | .b, .b => exact absurd rfl h
  | .a, .b => exact Blk.setServoState_servo _ _ _ _
  | .b, .a => exact Blk.setServoState_servo _ _ _ _

theorem Blk.toAcquiring_guardLocked_ne {e : Dom} (h : e ≠ d) : (b.toAcquiring d).guardLocked e = b.guardLocked e := by
  rw [Blk.guardLocked, Blk.toAcquiring_servoState_ne b d h, Blk.toAcquiring_servo_ne b d h]
  rfl

/-- Every servo in guard lock goes to acquiring. -/
theorem Blk.guardAcceptAct_servoState (h : b.guardLocked d = true) : (b.guardAcceptAct 1).servoState d = 1 := by
  rw [Blk.guardAcceptAct, if_neg (by decide)]
  cases d with
  | a =>
    simp only [h, if_true]
    split
    · rw [Blk.toAcquiring_servoState_ne _ _ (by decide), Blk.toAcquiring_servoState]
    · exact Blk.toAcquiring_servoState b .a
  | b =>
    have hb : (if b.guardLocked .a then b.toAcquiring .a else b).guardLocked .b = true := by
      split
      · exact (Blk.toAcquiring_guardLocked_ne b .a (by decide)).trans h
      · exact h
    simp only [hb, if_true]
    exact Blk.toAcquiring_servoState _ .b

theorem Blk.guardLocked_of_servoState {x : Blk} (h : x.servoState d = 1) : x.guardLocked d = false := by
  rw [Blk.guardLocked, h]
  rfl

/-! ### The active domain (R55) -/

theorem Blk.activeDomainAct_activeDom (v : Nat) (hv : v = (match d with | .a => 0 | .b => 1)) (hd : d ≠ b.activeDom) :
    (b.activeDomainAct v).activeDom = d ∧ (b.activeDomainAct v).remain = (b.frameTime : Int) - b.time d := by
  have hdom : (if v = 1 then Dom.b else Dom.a) = d := by subst hv; cases d <;> rfl
  have hactive (x : Blk) : (x.setNum K.activeDomain v).judgeAlignment.activeDom = d := by
    rw [← hdom, Blk.activeDom, Blk.judgeAlignment_num _ (by decide) (by decide), Blk.num_setNum_same]
  simp only [Blk.activeDomainAct, hdom, if_neg hd]
  exact ⟨hactive _, Blk.judgeAlignment_remain _⟩

/-! ### Holdover (R57) -/

theorem Blk.judgeAlignment_holdover (h : b.servoState b.activeDom = 3) :
    b.judgeAlignment.num K.holdoverElapsedMs = b.num K.holdoverElapsedMs ∧
    b.judgeAlignment.num K.alignmentAssured = (if b.num K.holdoverElapsedMs ≤ b.num K.holdoverBudgetMs then 1 else 0) := by
  have haligned : b.aligned = decide (b.num K.holdoverElapsedMs ≤ b.num K.holdoverBudgetMs) := by simp [Blk.aligned, h]
  simp only [Blk.judgeAlignment, h, if_neg (show ¬ (3 : Nat) = svLocked by decide), Blk.setBool, haligned]
  constructor
  · split
    · rw [Blk.raiseErr_num, Blk.num_setNum_ne _ _ (by decide)]
    · rw [Blk.num_setNum_ne _ _ (by decide)]
  · split <;> simp [Blk.num_setNum_same]

theorem Blk.holdoverMs_reports (ms : Nat) (h : b.servoState b.activeDom = 3) :
    (b.holdoverMs ms).num K.holdoverElapsedMs = ms ∧
    (b.holdoverMs ms).num K.alignmentAssured = (if ms ≤ b.num K.holdoverBudgetMs then 1 else 0) := by
  have hactive : ({ b with holdNs := ms * 1000000 }.setNum K.holdoverElapsedMs ms).activeDom = b.activeDom := by
    rw [Blk.activeDom, Blk.num_setNum_ne _ _ (by decide)]
    rfl
  have hstate : ({ b with holdNs := ms * 1000000 }.setNum K.holdoverElapsedMs ms).servoState b.activeDom = 3 := by
    rw [← h]
    exact Blk.num_setNum_ne _ _ (by cases b.activeDom <;> decide)
  obtain ⟨helapsed, halign⟩ := Blk.judgeAlignment_holdover _ (hactive.symm ▸ hstate)
  rw [Blk.num_setNum_same] at helapsed halign
  rw [Blk.num_setNum_ne _ _ (show K.holdoverBudgetMs ≠ K.holdoverElapsedMs by decide)] at halign
  rw [Blk.holdoverMs, if_pos h]
  exact ⟨helapsed, halign⟩

theorem Blk.holdoverMs_steps (ms : Nat) : (b.holdoverMs ms).steps = b.steps := by
  unfold Blk.holdoverMs
  split
  · exact Blk.judgeAlignment_steps _
  · rfl

/-! ### The pulse-per-second input (R59) -/

/-- The block when a pulse has come, before its phase is acted on. -/
def Blk.pulsed (b : Blk) (stamp : Nat) : Blk := { b.advance b.activeDom stamp with ppsGood := true }

/-- What the stamp of a pulse, less its delay, lies off a whole second. -/
def Blk.pulseOffset (b : Blk) (stamp : Nat) : Int :=
  let x := ((stamp : Int) - Machine.signed 32 (b.num K.ppsDelayNs)) % 1000000000
  if 500000000 ≤ x then x - 1000000000 else x

variable (stamp : Nat)

theorem Blk.pulsed_servoState : (b.pulsed stamp).servoState d = b.servoState d := Blk.advance_servoState b _ d stamp

theorem Blk.pulsed_timeMode : (b.pulsed stamp).timeMode = b.timeMode := by
  have hmode : (b.pulsed stamp).modeWas = b.modeWas := (Blk.advance_keeps b _ stamp).1
  rw [Blk.timeMode, hmode, show (b.pulsed stamp).num K.timeMode = b.num K.timeMode from Blk.advance_num b _ stamp (by rfl)]
  rfl

theorem Blk.reportOffset_num_ne (o : Int) {k : Nat} (h : k ≠ offsetKey d) : (b.reportOffset d o).num k = b.num k := Blk.num_setNum_ne b _ h

theorem Blk.ppsEdge_idle (hleaf : b.isLeaf = false) (hen : b.num K.ppsEnable = 1)
    (h : b.servoState b.activeDom = 0 ∨ b.servoState b.activeDom = 3) : b.ppsEdge stamp = (b.pulsed stamp, none) := by
  have hst := Blk.pulsed_servoState b b.activeDom stamp
  have hno : ¬ ((b.pulsed stamp).servoState b.activeDom = svLocked ∨ (b.pulsed stamp).servoState b.activeDom = svAcquiring) := by
    rw [hst]
    rcases h with h | h <;> rw [h] <;> decide
  have hon : ¬ (b.isLeaf || b.num K.ppsEnable != 1) = true := by simp [hleaf, hen]
  exact (if_neg hon).trans (if_neg hno)

/-- While the servo acquires or is locked, the phase of a pulse is reported and acted on. -/
theorem Blk.ppsEdge_acts (hleaf : b.isLeaf = false) (hen : b.num K.ppsEnable = 1)
    (h : b.servoState b.activeDom = 2 ∨ b.servoState b.activeDom = 1) :
    b.ppsEdge stamp = ((b.pulsed stamp).reportOffset b.activeDom (b.pulseOffset stamp)).actOn b.activeDom (b.pulseOffset stamp) := by
  have hst := Blk.pulsed_servoState b b.activeDom stamp
  have hyes : (b.pulsed stamp).servoState b.activeDom = svLocked ∨ (b.pulsed stamp).servoState b.activeDom = svAcquiring := by
    rw [hst]
    exact h
  have hon : ¬ (b.isLeaf || b.num K.ppsEnable != 1) = true := by simp [hleaf, hen]
  exact (if_neg hon).trans (if_pos hyes)

theorem Blk.reportOffset_servoState (o : Int) : (b.reportOffset d o).servoState d = b.servoState d :=
  Blk.reportOffset_num_ne b d o (by cases d <;> decide)

theorem Blk.step_num (delta : Int) (k : Nat) (h : b.frameIsOpen = false) : (b.step d delta).1.num k = b.num k ∧ (b.step d delta).2 = none ∧
    (b.step d delta).1.ppsGood = b.ppsGood := by
  unfold Blk.step
  extract_lets s t b1 b2
  have hb1 : b1.num k = b.num k ∧ b1.ppsGood = b.ppsGood := by simp [b1]
  have hb2 : b2.num k = b.num k ∧ b2.ppsGood = b.ppsGood := by
    simp only [b2]
    split <;> exact hb1
  rw [if_pos (Or.inr (Or.inr h))]
  exact ⟨hb2.1, rfl, hb2.2⟩

/-- The pulse takes an acquiring servo of a closed frame one step. -/
theorem Blk.ppsEdge_acquiring (hleaf : b.isLeaf = false) (hen : b.num K.ppsEnable = 1) (h : b.servoState b.activeDom = 1)
    (hopen : b.frameIsOpen = false) : (b.ppsEdge stamp).2 = none ∧ (b.ppsEdge stamp).1.ppsGood = true ∧
      (b.ppsEdge stamp).1.num (offsetKey b.activeDom) = unsigned 32 (clampInt (-2147483648) 2147483647 (b.pulseOffset stamp)) := by
  have hst : ((b.pulsed stamp).reportOffset b.activeDom (b.pulseOffset stamp)).servoState b.activeDom = svAcquiring :=
    (Blk.reportOffset_servoState _ _ _).trans ((Blk.pulsed_servoState b _ stamp).trans h)
  have hclosed : ((b.pulsed stamp).reportOffset b.activeDom (b.pulseOffset stamp)).frameIsOpen = false := by
    obtain ⟨-, -, -, hframe, -⟩ := Blk.advance_seat b b.activeDom stamp
    exact hframe.trans hopen
  rw [Blk.ppsEdge_acts b stamp hleaf hen (Or.inr h), Blk.actOn, if_pos hst]
  obtain ⟨hnum, hnone, hgood⟩ := Blk.step_num _ b.activeDom (-b.pulseOffset stamp) (offsetKey b.activeDom) hclosed
  exact ⟨hnone, hgood, hnum.trans (Blk.num_setNum_same _ _ _)⟩

/-- A locked servo slews the phase of a pulse away (R48). -/
theorem Blk.ppsEdge_locked (hleaf : b.isLeaf = false) (hen : b.num K.ppsEnable = 1) (h : b.servoState b.activeDom = 2)
    (hmode : bit b.timeMode 0 = false) (ho : (b.pulseOffset stamp).natAbs < b.num K.stepThresholdNs) :
    (b.ppsEdge stamp).2 = none ∧ (b.ppsEdge stamp).1.ppsGood = true ∧
      (b.ppsEdge stamp).1.num (offsetKey b.activeDom) = unsigned 32 (clampInt (-2147483648) 2147483647 (b.pulseOffset stamp)) ∧
      ((b.ppsEdge stamp).1.servo b.activeDom).slew = -b.pulseOffset stamp := by
  have hst : ((b.pulsed stamp).reportOffset b.activeDom (b.pulseOffset stamp)).servoState b.activeDom = 2 :=
    (Blk.reportOffset_servoState _ _ _).trans ((Blk.pulsed_servoState b _ stamp).trans h)
  have hreported : ((b.pulsed stamp).reportOffset b.activeDom (b.pulseOffset stamp)).timeMode = (b.pulsed stamp).timeMode := by
    rw [Blk.timeMode, Blk.reportOffset_num_ne _ _ _ (by cases b.activeDom <;> decide)]
    rfl
  have hthreshold : ((b.pulsed stamp).reportOffset b.activeDom (b.pulseOffset stamp)).num K.stepThresholdNs = b.num K.stepThresholdNs :=
    (Blk.reportOffset_num_ne _ _ _ (by cases b.activeDom <;> decide)).trans (Blk.advance_num b _ stamp (by rfl))
  rw [Blk.ppsEdge_acts b stamp hleaf hen (Or.inl h), Blk.actOn_slew _ _ _ hst (by rw [hreported, Blk.pulsed_timeMode]; exact hmode)
    (by rw [hthreshold]; exact ho)]
  exact ⟨rfl, Blk.setServo_ppsGood _ _ _, (Blk.setServo_num _ _ _ _).trans (Blk.num_setNum_same _ _ _),
    congrArg Servo.slew (Blk.servo_setServo_same _ _ _)⟩

theorem Blk.ppsLost_evt (hleaf : b.isLeaf = false) (hen : b.num K.ppsEnable = 1) :
    b.ppsLost.ppsGood = false ∧ b.ppsLost.evt.getLsbD 1 = true := by
  rw [Blk.ppsLost, if_pos hen]
  refine ⟨?_, Blk.raiseEvt_set hleaf (by decide)⟩
  unfold Blk.raiseEvt
  split <;> rfl

end

/-- What a write of an object of its own block comes to at any node: its act on the block, between the marks of a write that takes effect. -/
theorem exec_guardAccept_own {s : State} {n : Node} (hp : s.passes n K.guardAccept (.num 1) = true) :
    ∃ t, exec (.guardAccept n) s = .next t ∧
      (t.blk n).own = { ({ s.blk n with applying := true } : Blk).guardAcceptAct 1 with applying := false }.own := by
  cases n with
  | leaf => exact ⟨_, rfl, congrArg (fun l => l.b.own) (State.leafOwn_own _ hp)⟩
  | chan c => exact ⟨_, rfl, congrArg Chan.b (State.chanRow_own _ hp)⟩

theorem exec_activeDomainWrite_own {s : State} {n : Node} {v : Byte} (hp : s.passes n K.activeDomain (.num v.toNat) = true) :
    ∃ t, exec (.activeDomainWrite n v) s = .next t ∧
      (t.blk n).own = { ({ s.blk n with applying := true } : Blk).activeDomainAct v.toNat with applying := false }.own := by
  cases n with
  | leaf => exact ⟨_, rfl, congrArg (fun l => l.b.own) (State.leafOwn_own _ hp)⟩
  | chan c => exact ⟨_, rfl, congrArg Chan.b (State.chanRow_own _ hp)⟩

end Sys2Proof.Machine

open Sys2Proof Sys2Proof.Machine

/-- Settles O11: each part by the law of its operation above. -/
theorem timeIsKept : Obligations.TimeIsKept := by
  unfold Obligations.TimeIsKept
  refine ⟨fun s n => ⟨fun hp => ?_, fun v d hv hd hp => ?_⟩, fun s n ms ht hst => ?_, fun s c ht hleaf hen => ⟨fun stamp => ?_, ?_⟩⟩
  · obtain ⟨t, hexec, hown⟩ := exec_guardAccept_own hp
    refine ⟨t, hexec, fun d hlock => ?_⟩
    have hst : (t.blk n).servoState d = 1 := (Blk.servoState_of_own hown d).trans (Blk.guardAcceptAct_servoState _ d hlock)
    exact ⟨hst, Blk.guardLocked_of_servoState d hst⟩
  · obtain ⟨t, hexec, hown⟩ := exec_activeDomainWrite_own hp
    obtain ⟨hactive, hremain⟩ := Blk.activeDomainAct_activeDom { s.blk n with applying := true } d v.toNat hv hd
    refine ⟨t, hexec, ?_, (congrArg Blk.remain hown).trans hremain⟩
    rw [Blk.activeDom, Blk.num_of_own hown (by decide)]
    exact hactive
  · obtain ⟨hown, -⟩ := State.onClock_own (f := fun b => b.holdoverMs ms.toNat) ht (Blk.holdoverMs_seat ..) (Blk.holdoverMs_steps ..)
    obtain ⟨helapsed, halign⟩ := Blk.holdoverMs_reports (s.blk n) ms.toNat hst
    exact ⟨_, rfl, (Blk.num_of_own hown (by decide)).trans helapsed, (Blk.num_of_own hown (by decide)).trans halign⟩
  · have hchan (hnone : ((s.chan c).b.ppsEdge (t96ns stamp.toNat)).2 = none) :=
      (State.onTime_chan (f := fun b => b.ppsEdge (t96ns stamp.toNat)) ht hnone (Blk.ppsEdge_seat ..)).1
    refine ⟨fun hidle => ?_, fun h1 hopen => ?_, fun h2 hmode ho => ?_⟩
    · have heq := Blk.ppsEdge_idle (s.chan c).b (t96ns stamp.toNat) hleaf hen hidle
      refine ⟨_, rfl, (congrArg Blk.ppsGood (hchan (congrArg Prod.snd heq))).trans ?_⟩
      exact congrArg (fun r => r.1.ppsGood) heq
    · obtain ⟨hnone, hgood, hreported⟩ := Blk.ppsEdge_acquiring (s.chan c).b (t96ns stamp.toNat) hleaf hen h1 hopen
      exact ⟨_, rfl, (congrArg Blk.ppsGood (hchan hnone)).trans hgood,
        (Blk.num_of_own (hchan hnone) (by cases (s.chan c).b.activeDom <;> rfl)).trans hreported⟩
    · obtain ⟨hnone, hgood, hreported, hslew⟩ := Blk.ppsEdge_locked (s.chan c).b (t96ns stamp.toNat) hleaf hen h2 hmode ho
      exact ⟨_, rfl, (congrArg Blk.ppsGood (hchan hnone)).trans hgood,
        (Blk.num_of_own (hchan hnone) (by cases (s.chan c).b.activeDom <;> rfl)).trans hreported,
        (congrArg Servo.slew (Blk.servo_of_own (hchan hnone) _)).trans hslew⟩
  · obtain ⟨hgood, hevt⟩ := Blk.ppsLost_evt (s.chan c).b hleaf hen
    obtain ⟨hown, -, hset⟩ := State.onTime_chan (f := fun b => (b.ppsLost, none)) ht rfl (Blk.ppsLost_seat _)
    exact ⟨_, rfl, (congrArg Blk.ppsGood hown).trans hgood, hset 1 hevt⟩

end

section
/-! PROOF. A command of the leaf, and the core tap beats (R110 to R115): what stands of it after the command, and what a beat adds. -/

namespace Sys2Proof.Machine

/-! ### What stands of a leaf after a command -/

theorem Leaf.num_of_own {a b : Leaf} (h : a.own = b.own) (k : Nat) : a.b.num k = b.b.num k := congrArg Val.toNum (Leaf.val_of_own h k)

theorem Leaf.bytes_of_own {a b : Leaf} (h : a.own = b.own) (k : Nat) : a.b.bytes k = b.b.bytes k :=
  congrArg Val.toBytes (Leaf.val_of_own h k)

theorem Leaf.blk_own_of_own {a b : Leaf} (h : a.own = b.own) : a.b.own = b.b.own := by
  have hb := congrArg (fun x : Leaf => x.b.own) h
  exact hb

theorem Leaf.fen_of_own {a b : Leaf} (h : a.own = b.own) : a.fen = b.fen := by
  have hfen := congrArg Leaf.fen h
  exact hfen

theorem Leaf.ts_of_own {a b : Leaf} (h : a.own = b.own) : a.ts = b.ts := by
  have hts := congrArg Leaf.ts h
  exact hts

theorem Leaf.asy_of_own {a b : Leaf} (h : a.own = b.own) : a.asy = b.asy := by
  have hasy := congrArg Leaf.asy h
  exact hasy

theorem Leaf.tr_of_own {a b : Leaf} (h : a.own = b.own) : a.tr = b.tr := by
  have htr := congrArg Leaf.tr h
  exact htr

theorem Leaf.txns_of_own {a b : Leaf} (h : a.own = b.own) : a.b.txns = b.b.txns := by
  have htxns := congrArg (fun x : Leaf => x.b.txns) h
  exact htxns

theorem Blk.phase_of_own {a b : Blk} (h : a.own = b.own) : a.phase = b.phase := by
  have hphase := congrArg Blk.phase h
  exact hphase

/-- What a counter of the leaf came to within the command stands after it. -/
theorem Leaf.counts_of_own {b : Blk} {x y : Leaf} {k n : Nat} (h : b.counts x.b k n) (ho : y.own = x.own) : b.counts y.b k n :=
  (Leaf.num_of_own ho k).trans h

/-- A leaf that hands nothing over stands as the command left it. -/
theorem State.onLeaf_leaf_of_handed (s : State) (f : Leaf → Leaf) (h : (f s.leaf).handed = true) : (s.onLeaf f).leaf = f s.leaf := by
  simp only [Leaf.handed, Bool.and_eq_true] at h
  obtain ⟨⟨hnotices, hstores⟩, hcurrents⟩ := h
  simp only [State.onLeaf]
  generalize hd : State.dropStale { s with leaf := f s.leaf } (fun _ => (f s.leaf).b.addr) ((f s.leaf).b.begun s.leaf.b) = s1
  have hleaf : s1.leaf = f s.leaf := by rw [← hd, State.dropStale_leaf]
  have h2 : s1.takeNotices = s1 := by
    rw [State.takeNotices, if_pos (by rw [hleaf]; exact hnotices)]
  have h3 : s1.takeStores = s1 := by
    rw [State.takeStores, if_pos (by rw [hleaf]; simp [hstores, hcurrents])]
  rw [h2, h3, State.dropStale_leaf, hleaf]

/-! ### A beat at the port -/

/-- Each of the four commands of the core tap port is the arrival of its beat. -/
theorem exec_beat {i : Instr} {d : BitVec 512} {off : BitVec 20} (h : i.beat? = some (d, off)) (s : State) :
    exec i s = .next (s.onLeaf (fun l => l.takeBeat d.toNat off.toNat)) := by
  have hbeat (x : BitVec 512) (o : BitVec 20) (hx : some (x, o) = some (d, off)) : x = d ∧ o = off :=
    Prod.mk.inj (Option.some.inj hx)
  cases i with
  | counterRecord x o => obtain ⟨rfl, rfl⟩ := hbeat x o h; rfl
  | barrierEvent x o => obtain ⟨rfl, rfl⟩ := hbeat x o h; rfl
  | checksumWord x o => obtain ⟨rfl, rfl⟩ := hbeat x o h; rfl
  | traceEvent x o => obtain ⟨rfl, rfl⟩ := hbeat x o h; rfl
  | _ => cases h

section
variable {l : Leaf} {d off : Nat}

theorem Leaf.takeBeat_full (hp : l.portOpen = true) (hw : 256 ≤ l.smp.waiting off) : l.takeBeat d off =
    { l with b := l.b.bump K.creditViolations, smp := { l.smp with discarded := l.smp.discarded + 1 } } := by
  rw [Leaf.takeBeat, if_neg (by simp [hp]), if_pos hw]

theorem Leaf.takeBeat_bad (hp : l.portOpen = true) (hw : l.smp.waiting off < 256) (hbad : l.b.beatBad d = true) : l.takeBeat d off =
    { l with b := (l.b.emit (.credit 1)).bump K.beatsDiscarded,
             smp := { l.smp.arrive off with discarded := l.smp.discarded + 1 } } := by
  rw [Leaf.takeBeat, if_neg (by simp [hp]), if_neg (by omega), if_pos (by simp [hbad])]

/-- The leaf that has taken a beat, before the unit of its kind has it (R111). -/
def Leaf.tookBeat (l : Leaf) (off : Nat) : Leaf :=
  { l with b := l.b.emit (.credit 1), smp := { l.smp.arrive off with accepted := l.smp.accepted + 1 } }

theorem Leaf.takeBeat_admitted {kind : Nat} (h : l.admits d kind off = true) : beatKind d = kind ∧
    l.takeBeat d off = (if kind = 1 then (l.tookBeat off).takeCounters d else if kind = 2 then (l.tookBeat off).takeBarrier d off
      else if kind = 3 then (l.tookBeat off).takeChecksum d off else (l.tookBeat off).takeTrace d off) := by
  simp only [Leaf.admits, Bool.and_eq_true, Bool.or_eq_true, Bool.not_eq_true', decide_eq_true_eq, beq_iff_eq] at h
  obtain ⟨⟨⟨⟨hp, hw⟩, hopen⟩, hbad⟩, hkind⟩ := h
  subst hkind
  have hgood : ¬ (l.b.beatBad d || (!l.b.frameIsOpen && beatKind d != 1)) = true := by
    rcases hopen with hopen | hopen <;> simp [hbad, hopen]
  refine ⟨rfl, ?_⟩
  rw [Leaf.takeBeat, if_neg (by simp [hp]), if_neg (by omega), if_neg hgood]
  rfl

/-! ### Counter records (R112) -/

/-- A counter of a record is its payload word, of which a gauge keeps the low 32 bits. -/
def counterValue (d ctr j : Nat) : Nat := if 32 ≤ ctr then beatPayload d j % 2 ^ 32 else beatPayload d j

/-- The first `n` counters of a record. -/
def Leaf.takeFirst (l : Leaf) (d n : Nat) : Leaf :=
  (List.range n).foldl (fun acc j => acc.takeCounter (beatCore d) (beatBase d + j) (beatPayload d j)) l

theorem Leaf.takeFirst_succ (n : Nat) :
    l.takeFirst d (n + 1) = (l.takeFirst d n).takeCounter (beatCore d) (beatBase d + n) (beatPayload d n) := by
  simp [Leaf.takeFirst, List.range_succ]

theorem Leaf.takeFirst_smp (n : Nat) : l.takeFirst d n = { l with smp := (l.takeFirst d n).smp } := by
  induction n with
  | zero => rfl
  | succ n ih =>
    rw [Leaf.takeFirst_succ, Leaf.takeCounter, ih]

theorem Leaf.takeFirst_last (n k : Nat) : mget (fun _ => 0) (l.takeFirst d (n + 1)).smp.last k =
    if k = beatCore d * 64 + (beatBase d + n) then counterValue d (beatBase d + n) n
    else mget (fun _ => 0) (l.takeFirst d n).smp.last k := by
  rw [Leaf.takeFirst_succ]
  by_cases hk : k = beatCore d * 64 + (beatBase d + n)
  · subst hk
    simp [Leaf.takeCounter, isGauge, counterValue]
  · simp only [Leaf.takeCounter, if_neg hk]
    exact mget_mset_ne _ _ _ hk

theorem Leaf.takeFirst_last_in (n j : Nat) (h : j < n) :
    mget (fun _ => 0) (l.takeFirst d n).smp.last (beatCore d * 64 + (beatBase d + j)) = counterValue d (beatBase d + j) j := by
  induction n with
  | zero => omega
  | succ n ih =>
    rw [Leaf.takeFirst_last]
    by_cases hj : j = n
    · rw [if_pos (by rw [hj]), hj]
    · rw [if_neg (by omega), ih (by omega)]

theorem Leaf.takeFirst_last_out (n k : Nat) (h : ∀ j, j < n → k ≠ beatCore d * 64 + (beatBase d + j)) :
    mget (fun _ => 0) (l.takeFirst d n).smp.last k = mget (fun _ => 0) l.smp.last k := by
  induction n with
  | zero => rfl
  | succ n ih => rw [Leaf.takeFirst_last, if_neg (h n (Nat.lt_succ_self n)), ih (fun j hj => h j (by omega))]

/-! ### Barrier events (R114, R115) -/

theorem Leaf.takeBarrier_record (hpart : bit (l.b.num (coreKey (beatCore d))) 2 = false)
    (h : l.smp.barriers.length < l.b.num K.barrierRecordsMax) : l.takeBarrier d off =
      { l with smp := { l.smp with made := l.smp.made + 1, barriers := l.smp.barriers ++
        [{ core := beatCore d, arrival := off % 2 ^ 20, barrier := beatWord d }] } } := by
  rw [Leaf.takeBarrier, if_neg (by simp [hpart]), if_pos h]

theorem Leaf.takeBarrier_drop (hpart : bit (l.b.num (coreKey (beatCore d))) 2 = false)
    (h : l.b.num K.barrierRecordsMax ≤ l.smp.barriers.length) :
    (l.takeBarrier d off).smp.barriers = l.smp.barriers ∧ (l.takeBarrier d off).smp.dropped = l.smp.dropped + 1 ∧
      beatWord d ∈ (l.takeBarrier d off).smp.incomplete ∧ l.b.counts (l.takeBarrier d off).b K.barrierDropped := by
  rw [Leaf.takeBarrier, if_neg (by simp [hpart]), if_neg (by omega)]
  refine ⟨rfl, rfl, ?_, Blk.counts_bump _ _ 1⟩
  by_cases hm : beatWord d ∈ l.smp.incomplete
  · rw [show (if beatWord d ∈ l.smp.incomplete then _ else _) = l.smp.incomplete from if_pos hm]
    exact hm
  · rw [show (if beatWord d ∈ l.smp.incomplete then l.smp.incomplete else _) = l.smp.incomplete ++ [beatWord d] from if_neg hm]
    exact List.mem_append_right _ (List.mem_singleton_self _)

end

end Sys2Proof.Machine

open Sys2Proof Sys2Proof.Machine

/-- Settles O20: a beat is discarded with or without its credit, or is what the unit of its kind makes of it. -/
theorem beatsAreSampled : Obligations.BeatsAreSampled := by
  unfold Obligations.BeatsAreSampled
  refine ⟨fun s i d off hi hp => ⟨fun hw => ?_, fun hw hbad => ?_⟩, fun s d off h => ?_, fun s d off h hpart => ⟨fun hn => ?_, fun hn => ?_⟩⟩
  · have hleaf := Leaf.takeBeat_full (d := d.toNat) hp hw
    have hown := State.onLeaf_own s (fun l => l.takeBeat d.toNat off.toNat)
    rw [hleaf] at hown
    refine ⟨_, exec_beat hi s, Leaf.counts_of_own (Blk.counts_bump _ _ 1) hown, fun hh => ?_, hown⟩
    rw [State.onLeaf_leaf_of_handed s _ (by rw [hleaf]; exact hh), hleaf]
    rfl
  · have hleaf := Leaf.takeBeat_bad hp hw hbad
    have hown := State.onLeaf_own s (fun l => l.takeBeat d.toNat off.toNat)
    have hout := State.onLeaf_out s (fun l => l.takeBeat d.toNat off.toNat)
    rw [hleaf] at hown hout
    exact ⟨_, exec_beat hi s, hout.subset (List.mem_append_right _ (List.mem_singleton_self _)),
      Leaf.counts_of_own (Blk.counts_bump _ _ 1) hown, hown⟩
  · obtain ⟨-, hleaf⟩ := Leaf.takeBeat_admitted h
    have hown := State.onLeaf_own s (fun l => l.takeBeat d.toNat off.toNat)
    have hout := State.onLeaf_out s (fun l => l.takeBeat d.toNat off.toNat)
    have hfirst : s.leaf.takeBeat d.toNat off.toNat = (s.leaf.tookBeat off.toNat).takeFirst d.toNat (beatCount d.toNat) := hleaf
    rw [hfirst] at hown hout
    have hsmp := congrArg Leaf.smp hown
    rw [Leaf.takeFirst_smp] at hout
    refine ⟨_, rfl, hout.subset (List.mem_append_right _ (List.mem_singleton_self _)), fun j hj => ?_, fun k hk => ?_, ?_⟩
    · exact (congrArg (fun x : Sampler => mget (fun _ => 0) x.last _) hsmp).trans (Leaf.takeFirst_last_in _ j hj)
    · exact (congrArg (fun x : Sampler => mget (fun _ => 0) x.last k) hsmp).trans (Leaf.takeFirst_last_out _ k hk)
    · rw [Leaf.takeFirst_smp] at hown
      exact hown.trans (congrArg (fun x => ({ s.leaf with smp := x } : Leaf).own) hsmp.symm)
  · obtain ⟨-, hleaf⟩ := Leaf.takeBeat_admitted h
    have hown := State.onLeaf_own s (fun l => l.takeBeat d.toNat off.toNat)
    have hrec := Leaf.takeBarrier_record (l := s.leaf.tookBeat off.toNat) (d := d.toNat) (off := off.toNat) hpart hn
    rw [hleaf, if_neg (by decide), if_pos rfl, hrec, Nat.mod_eq_of_lt off.isLt] at hown
    have hsmp := congrArg Leaf.smp hown
    exact ⟨_, rfl, congrArg Sampler.barriers hsmp, congrArg Sampler.made hsmp,
      hown.trans (congrArg (fun x => ({ s.leaf with smp := x } : Leaf).own) hsmp.symm)⟩
  · obtain ⟨-, hleaf⟩ := Leaf.takeBeat_admitted h
    have hown := State.onLeaf_own s (fun l => l.takeBeat d.toNat off.toNat)
    rw [hleaf, if_neg (by decide), if_pos rfl] at hown
    obtain ⟨hrecords, hdropped, hincomplete, hcounts⟩ :=
      Leaf.takeBarrier_drop (l := s.leaf.tookBeat off.toNat) (d := d.toNat) (off := off.toNat) hpart hn
    have hsmp := congrArg Leaf.smp hown
    refine ⟨_, rfl, (congrArg Sampler.barriers hsmp).trans hrecords, (congrArg Sampler.dropped hsmp).trans hdropped, ?_, ?_⟩
    · exact (congrArg (fun x : Sampler => beatWord d.toNat ∈ x.incomplete) hsmp).mpr hincomplete
    · exact Leaf.counts_of_own (b := s.leaf.b) hcounts hown

end

section
/-! PROOF. Fences, lost cores and regions of a leaf, and the swaps of its tables (R120 to R134, R166, R411). -/

namespace Sys2Proof.Machine

section
variable {l : Leaf} {c : Nat}

/-! ### Acknowledgements (R131) -/

/-- The acknowledgement vector has taken a change. -/
def Leaf.sampleAck (l : Leaf) (c : Nat) (v : Bool) : Leaf :=
  { l with fen := { l.fen with ack := if v then setBit l.fen.ack c else clearBit l.fen.ack c } }

/-- A change of the acknowledgement of a core whose region is on, out of L2. -/
theorem Leaf.ackChange_eq {v : Bool} (hack : l.fen.ack.testBit c = !v) (hout : l.coreOut c = false) (hp : l.b.num K.powerStateNow ≠ 2) :
    l.ackChange c v =
      (let l1 := l.sampleAck c v
       let fenced := bit (l.b.num (coreKey c)) 0
       if c ∈ l.fen.pending then
         if v = fenced then { l1 with fen := { l1.fen with pending := l1.fen.pending.filter (· ≠ c) } }
         else if fenced then l1.ackFailure c else l1
       else if fenced then (if v then l1 else l1.ackFailure c)
       else if v then { l1 with b := l1.b.bump K.spuriousAcks } else l1) := by
  rw [Leaf.ackChange, if_neg (by rw [hack]; cases v <;> decide)]
  exact if_neg (by simp [hout, hp])

theorem Leaf.ackFailure_counts : c ∈ (l.ackFailure c).fen.failed ∧ l.b.counts (l.ackFailure c).b K.fenceAckFailures := by
  refine ⟨?_, Blk.counts_bump _ _ 1⟩
  simp only [Leaf.ackFailure]
  split
  · assumption
  · exact List.mem_append_right _ (List.mem_singleton_self _)

theorem Leaf.ackChange_follows {v : Bool} (hack : l.fen.ack.testBit c = !v) (hout : l.coreOut c = false) (hp : l.b.num K.powerStateNow ≠ 2)
    (hm : c ∈ l.fen.pending) (hv : bit (l.b.num (coreKey c)) 0 = v) :
    c ∉ (l.ackChange c v).fen.pending ∧ (l.ackChange c v).b = l.b := by
  rw [Leaf.ackChange_eq hack hout hp]
  simp only [hm, if_true, hv]
  exact ⟨by simp [List.mem_filter], rfl⟩

theorem Leaf.ackChange_drops (hack : l.fen.ack.testBit c = true) (hout : l.coreOut c = false) (hp : l.b.num K.powerStateNow ≠ 2)
    (hf : bit (l.b.num (coreKey c)) 0 = true) : l.ackChange c false = (l.sampleAck c false).ackFailure c := by
  rw [Leaf.ackChange_eq hack hout hp]
  simp only [hf, if_true, Bool.false_eq_true, if_false, ite_self]

theorem Leaf.ackChange_spurious (hack : l.fen.ack.testBit c = false) (hout : l.coreOut c = false) (hp : l.b.num K.powerStateNow ≠ 2)
    (hm : c ∉ l.fen.pending) (hf : bit (l.b.num (coreKey c)) 0 = false) :
    l.ackChange c true = { l.sampleAck c true with b := l.b.bump K.spuriousAcks } := by
  rw [Leaf.ackChange_eq hack hout hp]
  simp only [hm, hf, if_true, Bool.false_eq_true, if_false]
  rfl

theorem Leaf.ackTimeout_fails (hout : l.coreOut c = false) (hp : l.b.num K.powerStateNow ≠ 2) (hm : c ∈ l.fen.pending) :
    l.ackTimeout c = ({ l with fen := { l.fen with pending := l.fen.pending.filter (· ≠ c) } } : Leaf).ackFailure c := by
  rw [Leaf.ackTimeout, if_pos hm]
  exact if_neg (by simp [hout, hp])

/-! ### Lost cores (R132 to R134) -/

/-- A fault record and a rule input of one kind and core, with the frame concerned. -/
def Leaf.reportCore (l : Leaf) (kind c : Nat) (g : Option Nat) : Leaf :=
  match g with
  | some g => (l.fault (l.b.now - 1) kind 1 (locCore l.id c) g 0).ruleIn (l.b.now - 1) kind c (natLe 8 g)
  | none => l

theorem Leaf.reportCore_keeps (kind : Nat) (g : Option Nat) :
    (l.reportCore kind c g).b = l.b ∧ (l.reportCore kind c g).fen = l.fen ∧
    (l.reportCore kind c g).faultQ = l.faultQ ++ (match g with
      | some g => [(l.b.now - 1, faultRec kind 1 l.b.addr.toNat (locCore l.id c) g 0)]
      | none => []) ∧
    (l.reportCore kind c g).ruleQ.length = l.ruleQ.length + (if g.isSome then 1 else 0) := by
  cases g with
  | none => exact ⟨rfl, rfl, (List.append_nil _).symm, rfl⟩
  | some g => exact ⟨rfl, rfl, rfl, List.length_append⟩

/-- The core found lost is taken off the list and counted. -/
def Leaf.noteLost (l : Leaf) (c : Nat) : Leaf :=
  { l with b := l.b.bump K.coresLost, fen := { l.fen with found := l.fen.found.filter (fun y => y.core != c) } }

theorem Leaf.coreLost_eq {x : LostCore} (hf : l.fen.found.find? (fun y => y.core == c) = some x) (ha : l.b.num K.fenceAuthority ≠ 1) :
    l.coreLost c = ((l.noteLost c).reportCore 0x01 c x.silentFrom).reportCore 0x02 c x.failFrame := by
  have henforce : l.enforce = l := if_pos (Or.inl ha)
  have hid : (l.noteLost c).id = l.id := Blk.num_bump_ne _ _ (by decide)
  have hnow : (l.noteLost c).b.now = l.b.now := Blk.num_bump_ne _ _ (by decide)
  simp only [Leaf.coreLost, hf, henforce, Leaf.reportCore]
  cases x.silentFrom <;> cases x.failFrame <;> simp only [← hid, ← hnow] <;> rfl

theorem Leaf.noteLost_addr : (l.noteLost c).b.addr = l.b.addr := by
  simp only [Blk.addr, Leaf.noteLost, Blk.num_bump_ne l.b 1 (show K.leafId ≠ K.coresLost by decide),
    Blk.num_bump_ne l.b 1 (show K.channelId ≠ K.coresLost by decide)]
  rfl

theorem Leaf.commitLost_ok {a : Nat} {cs : List Nat} (hroom : l.b.txns.length < 16) (hleaf : l.b.isLeaf = true)
    (hok : l.b.commitStatus a ((lostWrites cs).map (·.1)) = stOk) :
    (l.commitLost a cs).fen = l.fen ∧ (∀ k, (l.commitLost a cs).b.num k = l.b.num k) ∧
      ∃ x, (l.commitLost a cs).b.txns = l.b.txns ++ [x] ∧ x.state = .committed ∧ x.apply = a ∧ x.items = lostWrites cs := by
  have hlimit : ¬ l.b.txnLimit ≤ l.b.txns.length := by
    rw [Blk.txnLimit, if_pos hleaf]
    omega
  simp only [Leaf.commitLost, Blk.raiseSelf, if_neg hlimit, hok, ne_eq, not_true_eq_false, if_false, if_true]
  exact ⟨trivial, fun _ => rfl, _, rfl, rfl, rfl, rfl⟩

theorem Blk.commitStatus_bump (b : Blk) {k : Nat} (n a : Nat) (keys : List Nat) (h : K.frameNow ≠ k) :
    (b.bump k n).commitStatus a keys = b.commitStatus a keys := by
  have hnow : (b.bump k n).now = b.now := Blk.num_bump_ne b n h
  simp only [Blk.commitStatus, hnow]
  rfl

theorem Leaf.retryLost_one {f a : Nat} {cs : List Nat} (hr : l.fen.retry = [(f, a, cs)]) (hf : f < l.b.now) :
    l.retryLost = ({ l with fen := { l.fen with retry := [] }, b := l.b.bump K.lostTxnRetries } : Leaf).commitLost (a + 1) cs := by
  simp only [Leaf.retryLost, hr, List.filter_cons, List.filter_nil, hf, decide_true, if_true, Bool.not_true, Bool.false_eq_true, if_false,
    List.foldl_cons, List.foldl_nil]

/-! ### Regions (R123 to R129) -/

theorem mfind_mput_same {α : Type} (m : NMap α) (k : Nat) (x : α) : mfind (mput m k x) k = some x := by
  induction m with
  | nil => simp [mput, mfind]
  | cons e m ih =>
    obtain ⟨j, y⟩ := e
    rw [mput]
    split
    · simp [mfind]
    · split
      · simp [mfind]
      · rw [mfind, if_neg (by assumption), ih]

theorem mfind_mdel_same {α : Type} (m : NMap α) (k : Nat) : mfind (mdel m k) k = none := by
  induction m with
  | nil => rfl
  | cons e m ih =>
    obtain ⟨j, y⟩ := e
    rw [mdel]
    split
    · exact ih
    · rw [mfind, if_neg (by assumption), ih]

theorem testBit_setBit_same (n k : Nat) : (setBit n k).testBit k = true := by
  simp [setBit, Nat.testBit_or, Nat.one_shiftLeft]

theorem testBit_andNot_of {a b k : Nat} (h : b.testBit k = true) : (andNot a b).testBit k = false := by
  simp [andNot, Nat.testBit_xor, Nat.testBit_and, h]

/-- A core whose byte of the map satisfies `p` is in the mask. -/
theorem testBit_maskOf (p : Byte → Bool) (m : List Byte) (k : Nat) (h : ∃ x, m[k]? = some x ∧ p x = true) :
    (maskOf p m).testBit k = true := by
  induction m generalizing k with
  | nil => simp at h
  | cons y m ih =>
    rw [maskOf]
    have hbit : (if p y then 1 else 0) = (p y).toNat := by cases p y <;> rfl
    cases k with
    | zero =>
      have hy : p y = true := by simpa using h
      simp only [hy, if_true]
      rw [Nat.testBit_zero]
      exact decide_eq_true (by omega)
    | succ k =>
      have hstep : ((if p y then 1 else 0) + 2 * maskOf p m) / 2 = maskOf p m := by
        cases p y <;> simp
        omega
      rw [Nat.testBit_succ, hstep]
      exact ih k (by simpa using h)

theorem Leaf.regionReading_mapped {r kind v : Nat} (hp : l.b.num K.powerStateNow ≠ 2)
    (hm : (l.b.bytes K.regionMap).any (fun x => x.toNat == r) = true) :
    mfind (l.regionReading r kind v).reg.readings (r * 4 + kind) = some v ∧ (l.regionReading r kind v).b = l.b ∧
      (l.regionReading r kind v).reg.pending = l.reg.pending ∧ (l.regionReading r kind v).fen = l.fen := by
  have hno : ¬ (l.b.num K.powerStateNow = 2 ∨ ¬ (l.b.bytes K.regionMap).any (fun x => x.toNat == r) = true) := by
    rintro (h | h)
    · exact hp h
    · exact h hm
  rw [Leaf.regionReading, if_neg hno]
  exact ⟨mfind_mput_same _ _ _, rfl, rfl, rfl⟩

theorem Leaf.presentRegion_next {r : Nat} (hp : l.reg.presented = none) (hn : nextRegion l.reg.pending l.reg.lastPresented = some r) :
    l.presentRegion = { l with
      reg := { l.reg with pending := clearBit l.reg.pending r, presented := some r, lastPresented := r },
      b := l.b.emit (.region r (bit (l.b.regionCmd r) 3) (bits (l.b.regionCmd r) 0 3)) } := by
  simp only [Leaf.presentRegion, hp, hn]

theorem Leaf.regionTimeout_presented {r : Nat} (hp : l.reg.presented = some r) : l.regionTimeout =
    ({ l with reg := { l.reg with presented := none }, b := l.b.bump K.regionUnacked } : Leaf).ruleIn l.b.now 0x03 r [] := by
  simp only [Leaf.regionTimeout, hp]

/-- A region settles: no core of its map stays marked lost. -/
theorem Leaf.settleEnd_on {r e : Nat} (hs : mfind l.reg.settle r = some e) (he : e ≤ l.b.now + 1) (ho : l.reg.closeOn.testBit r = true) :
    mfind (l.settleEnd r).reg.settle r = none ∧ (l.settleEnd r).b = l.b ∧
      ∀ c, l.b.regionOf c = some r → (l.settleEnd r).fen.mark.testBit c = false := by
  simp only [Leaf.settleEnd, hs]
  rw [if_pos ⟨he, ho⟩]
  refine ⟨mfind_mdel_same _ _, rfl, fun c hc => testBit_andNot_of (testBit_maskOf _ _ c ?_)⟩
  simp only [Blk.regionOf] at hc
  split at hc
  · next hlt =>
    cases hx : (l.b.bytes K.regionMap)[c]? with
    | none =>
      rw [List.getD, hx] at hlt
      exact absurd hlt (by decide)
    | some x =>
      rw [List.getD, hx] at hc
      exact ⟨x, rfl, decide_eq_true (Option.some.inj hc)⟩
  · cases hc

/-! ### Tables (R120, R166) -/

theorem Blk.bytes_setNum_ne (b : Blk) {k j : Nat} (n : Nat) (h : j ≠ k) : (b.setNum k n).bytes j = b.bytes j :=
  congrArg Val.toBytes (Blk.val_setVal_ne b _ h)

theorem Blk.num_setBytes_ne (b : Blk) {k j : Nat} (d : List Byte) (h : j ≠ k) : (b.setBytes k d).num j = b.num j :=
  congrArg Val.toNum (Blk.val_setVal_ne b _ h)

theorem Leaf.swapSeries_reads : l.swapSeries.b.bytes K.seriesTableActive = l.b.bytes K.seriesTableStandby ∧
    l.swapSeries.b.num K.seriesCount = (l.b.bytes K.seriesTableStandby).length / 8 ∧ l.swapSeries.b.num K.seriesSwap = 0 ∧
    l.swapSeries.tableEpoch = l.b.now := by
  refine ⟨?_, ?_, Blk.num_setNum_same _ _ _, rfl⟩
  · exact (Blk.bytes_setNum_ne _ _ (by decide)).trans ((Blk.bytes_setNum_ne _ _ (by decide)).trans (Blk.bytes_setBytes_same _ _ _))
  · exact (Blk.num_setNum_ne _ _ (by decide)).trans (Blk.num_setNum_same _ _ _)

theorem Leaf.swapTensors_reads : l.swapTensors.b.bytes K.tensorTableActive = l.b.bytes K.tensorTableStandby ∧
    l.swapTensors.b.num K.tensorCount = (l.b.bytes K.tensorTableStandby).length / 32 ∧ l.swapTensors.b.num K.tensorSwap = 0 := by
  refine ⟨?_, ?_, Blk.num_setNum_same _ _ _⟩
  · exact (Blk.bytes_setNum_ne _ _ (by decide)).trans ((Blk.bytes_setNum_ne _ _ (by decide)).trans (Blk.bytes_setBytes_same _ _ _))
  · exact (Blk.num_setNum_ne _ _ (by decide)).trans (Blk.num_setNum_same _ _ _)

/-- A tensor whose entry is not kept unchanged is late. -/
theorem Leaf.swapTensors_late {x : Nat} (h : ∀ e ∈ tensorTable (l.b.bytes K.tensorTableStandby), e.tensor = x →
    ∀ o ∈ tensorTable (l.b.bytes K.tensorTableActive), o.tensor = x →
      ¬ (o.key = e.key ∧ o.length = e.length ∧ o.passWords = e.passWords)) : (l.swapTensors.asy.tensor x).late = true := by
  rw [Assay.tensor, mget_none]
  · rfl
  · intro p hp hx
    simp only [Leaf.swapTensors, List.mem_filter, List.any_eq_true, Bool.and_eq_true, beq_iff_eq] at hp
    obtain ⟨-, e, ⟨he, o, ho, ⟨⟨⟨htensor, hkey⟩, hlength⟩, hwords⟩⟩, hname⟩ := hp
    exact h e he (hname.trans hx) o ho (htensor.trans (hname.trans hx)) ⟨hkey, hlength, hwords⟩

end

/-! ### Routing notices (R134) -/

/-- The copies that a command drops leave every channel's identifier and its phase, so the serving channel stays the same. -/
theorem State.chanOf_of_around {s t : State} {id : Nat} (h : ∀ c, State.Around c s t) : t.chanOf id = s.chanOf id := by
  unfold State.chanOf
  congr 1
  funext c
  have hown : (t.chan c).b.own = (s.chan c).b.own := congrArg Chan.b (h c).own
  have hphase : (t.chan c).b.phase = (s.chan c).b.phase := Blk.phase_of_own hown
  have hid : (t.chan c).id = (s.chan c).id := Blk.num_of_own hown (by decide)
  simp only [hid, Blk.works, hphase]

theorem foldl_emit_mem (g : List Byte → Out) (ns : List (List Byte)) (b : Blk) {n : List Byte} (h : n ∈ ns) :
    g n ∈ (ns.foldl (fun b n => b.emit (g n)) b).out := by
  have keep : ∀ (ns : List (List Byte)) (b : Blk), b.out <+: (ns.foldl (fun b n => b.emit (g n)) b).out := by
    intro ns
    induction ns with
    | nil => exact fun b => List.prefix_refl _
    | cons a ns ih => exact fun b => List.IsPrefix.trans ⟨[g a], rfl⟩ (ih (b.emit (g a)))
  induction ns generalizing b with
  | nil => cases h
  | cons a ns ih =>
    rcases List.mem_cons.mp h with rfl | h
    · exact (keep ns (b.emit (g n))).subset (List.mem_append_right _ (List.mem_singleton_self _))
    · exact ih (b.emit (g a)) h

/-- A leaf without a serving channel in its tray hands its notices out itself. -/
theorem State.onLeaf_notices {s : State} {f : Leaf → Leaf} {n : List Byte} (hn : n ∈ (f s.leaf).notices)
    (hc : s.chanOf (f s.leaf).b.inUse = none) : (s.onLeaf f).leaf.notices = [] ∧
      .notice (f s.leaf).b.inUse ((f s.leaf).b.num K.routingSubscriber) (f s.leaf).id n ∈ (s.onLeaf f).leaf.b.out := by
  have stored : ∀ x : State, x.takeStores.leaf.b = x.leaf.b ∧ x.takeStores.leaf.notices = x.leaf.notices := by
    intro x
    have fold : ∀ {α : Type} (c : Ch) (g : α → Chan → Chan) (l : List α) (y : State),
        (l.foldl (fun (acc : State) a => acc.onChan c (g a)) y).leaf.b = y.leaf.b ∧
        (l.foldl (fun (acc : State) a => acc.onChan c (g a)) y).leaf.notices = y.leaf.notices := by
      intro α c g l
      induction l with
      | nil => exact fun y => ⟨rfl, rfl⟩
      | cons a l ih =>
        intro y
        obtain ⟨h1, h2⟩ := ih (y.onChan c (g a))
        rw [List.foldl_cons, h1, h2, State.onChan_leaf]
        exact ⟨rfl, rfl⟩
    simp only [State.takeStores]
    split
    · exact ⟨rfl, rfl⟩
    · split
      · exact ⟨rfl, rfl⟩
      · constructor
        · rw [(fold _ _ _ _).1, (fold _ _ _ _).1]
        · rw [(fold _ _ _ _).2, (fold _ _ _ _).2]
  simp only [State.onLeaf]
  generalize hd : State.dropStale { s with leaf := f s.leaf } (fun _ => (f s.leaf).b.addr) ((f s.leaf).b.begun s.leaf.b) = s1
  have hleaf : s1.leaf = f s.leaf := by rw [← hd, State.dropStale_leaf]
  have hchan : s1.chanOf (f s.leaf).b.inUse = none := by
    rw [← hd, State.chanOf_of_around (fun c => State.around_dropStale c _ _ _)]
    exact hc
  have hne : ¬ s1.leaf.notices.isEmpty = true := by
    rw [hleaf, List.isEmpty_iff]
    exact fun h => by rw [h] at hn; cases hn
  have htaken : s1.takeNotices.leaf = { f s.leaf with
      notices := []
      b := (f s.leaf).notices.foldl (fun b n => b.emit (.notice (f s.leaf).b.inUse ((f s.leaf).b.num K.routingSubscriber)
        (f s.leaf).id n)) (f s.leaf).b } := by
    rw [State.takeNotices, if_neg hne]
    simp only [hleaf, hchan]
    rfl
  rw [State.dropStale_leaf, (stored _).1, (stored _).2, htaken]
  exact ⟨rfl, foldl_emit_mem _ _ _ hn⟩

end Sys2Proof.Machine

open Sys2Proof Sys2Proof.Machine

/-- Settles O21: each change by the equation of its case. -/
theorem fencesAreWatched : Obligations.FencesAreWatched := by
  unfold Obligations.FencesAreWatched
  refine ⟨fun s core hw hout hp => ⟨fun v hack => ⟨fun hm hv => ?_, fun hf hv => ?_, fun hm hf hv => ?_⟩, fun hm => ?_⟩,
    fun s core x hw ha hf => ?_, fun s f a cs hw hr hf hroom hleaf hok => ?_⟩
  · obtain ⟨hpend, hb⟩ := Leaf.ackChange_follows hack hout hp hm hv
    have hown := State.leafWork_own s (fun l => l.ackChange core.toNat v) hw
    have hfen := Leaf.fen_of_own hown
    refine ⟨_, rfl, ?_, ?_⟩
    · exact (congrArg (fun x : Fence => core.toNat ∉ x.pending) hfen).mpr hpend
    · exact (Leaf.blk_own_of_own hown).trans (congrArg Blk.own hb)
  · subst hv
    obtain ⟨hfail, hcount⟩ := Leaf.ackFailure_counts (l := s.leaf.sampleAck core.toNat false) (c := core.toNat)
    have hown := State.leafWork_own s (fun l => l.ackChange core.toNat false) hw
    rw [Leaf.ackChange_drops hack hout hp hf] at hown
    have hfen := Leaf.fen_of_own hown
    exact ⟨_, rfl, (congrArg (fun x : Fence => core.toNat ∈ x.failed) hfen).mpr hfail, Leaf.counts_of_own (b := s.leaf.b) hcount hown⟩
  · subst hv
    have hown := State.leafWork_own s (fun l => l.ackChange core.toNat true) hw
    rw [Leaf.ackChange_spurious hack hout hp hm hf] at hown
    have hfailed := congrArg Fence.failed (Leaf.fen_of_own hown)
    exact ⟨_, rfl, hfailed, Leaf.counts_of_own (Blk.counts_bump _ _ 1) hown⟩
  · have hown := State.leafWork_own s (fun l => l.ackTimeout core.toNat) hw
    rw [Leaf.ackTimeout_fails hout hp hm] at hown
    obtain ⟨hfail, hcount⟩ := Leaf.ackFailure_counts (c := core.toNat)
      (l := { s.leaf with fen := { s.leaf.fen with pending := s.leaf.fen.pending.filter (· ≠ core.toNat) } })
    have hfen := Leaf.fen_of_own hown
    refine ⟨_, rfl, ?_, (congrArg (fun x : Fence => core.toNat ∈ x.failed) hfen).mpr hfail,
      Leaf.counts_of_own (b := s.leaf.b) hcount hown⟩
    refine (congrArg (fun x : Fence => core.toNat ∉ x.pending) hfen).mpr ?_
    simp [Leaf.ackFailure, List.mem_filter]
  · have hown := State.leafWork_own s (fun l => l.coreLost core.toNat) hw
    rw [Leaf.coreLost_eq hf ha] at hown
    obtain ⟨hb1, hfen1, hfault1, hrule1⟩ :=
      Leaf.reportCore_keeps (l := s.leaf.noteLost core.toNat) (c := core.toNat) 0x01 x.silentFrom
    obtain ⟨hb2, hfen2, hfault2, hrule2⟩ :=
      Leaf.reportCore_keeps (l := (s.leaf.noteLost core.toNat).reportCore 0x01 core.toNat x.silentFrom) (c := core.toNat) 0x02 x.failFrame
    have hid : (s.leaf.noteLost core.toNat).id = s.leaf.id := Blk.num_bump_ne _ _ (by decide)
    have hid2 : ((s.leaf.noteLost core.toNat).reportCore 0x01 core.toNat x.silentFrom).id = s.leaf.id := by
      rw [Leaf.id, hb1]
      exact hid
    have hnow : (s.leaf.noteLost core.toNat).b.now = s.leaf.b.now := Blk.num_bump_ne _ _ (by decide)
    rw [hb1, hid2, hfault1, hid, Leaf.noteLost_addr, hnow] at hfault2
    refine ⟨_, rfl, ?_, ?_, ?_, ?_, ?_⟩
    · refine Leaf.counts_of_own ?_ hown
      rw [hb2, hb1]
      exact Blk.counts_bump _ _ 1
    · have htxns := congrArg Blk.txns (hb2.trans hb1)
      exact (Leaf.txns_of_own hown).trans htxns
    · intro y hy
      have hfound := (congrArg Fence.found (Leaf.fen_of_own hown)).trans (congrArg Fence.found (hfen2.trans hfen1))
      have hy' : y ∈ (s.leaf.noteLost core.toNat).fen.found := hfound ▸ hy
      simpa using (List.mem_filter.mp hy').2
    · exact (congrArg Leaf.faultQ hown).trans hfault2
    · have hlen := congrArg (fun z : Leaf => z.ruleQ.length) hown
      refine hlen.trans (hrule2.trans ?_)
      rw [hrule1]
      rfl
  · have hown := State.leafWork_own s Leaf.retryLost hw
    rw [Leaf.retryLost_one hr hf] at hown
    obtain ⟨hfen, hnum, x, htxns, hx⟩ := Leaf.commitLost_ok (a := a + 1) (cs := cs)
      (l := { s.leaf with fen := { s.leaf.fen with retry := [] }, b := s.leaf.b.bump K.lostTxnRetries }) hroom hleaf
      ((Blk.commitStatus_bump _ _ _ _ (by decide)).trans hok)
    refine ⟨_, rfl, ?_, ?_, x, (Leaf.txns_of_own hown).trans htxns, hx⟩
    · exact (congrArg Fence.retry (Leaf.fen_of_own hown)).trans (congrArg Fence.retry hfen)
    · exact Leaf.counts_of_own ((hnum _).trans (Blk.counts_bump _ _ 1)) hown

/-- Settles O22: each command of the region port by its law. -/
theorem regionsAreRun : Obligations.RegionsAreRun := by
  unfold Obligations.RegionsAreRun
  refine ⟨fun s region kind value hw hp hm => ?_, fun s hw => ⟨fun r hpres hn => ?_, fun r hpres => ⟨?_, ?_⟩⟩, fun s region hw => ⟨fun hmis hr => ?_, fun hr => ?_, fun e hs he ho => ?_⟩⟩
  · obtain ⟨hread, hb, hpend, hfen⟩ := Leaf.regionReading_mapped (kind := kind.toNat) (v := value.toNat) hp hm
    have hown := State.leafWork_own s (fun l => l.regionReading region.toNat kind.toNat value.toNat) hw
    have hreg := congrArg Leaf.reg hown
    exact ⟨_, rfl, (congrArg (fun x : Regions => mfind x.readings _) hreg).trans hread,
      (Leaf.blk_own_of_own hown).trans (congrArg Blk.own hb), (congrArg Regions.pending hreg).trans hpend,
      (congrArg Leaf.fen hown).trans hfen⟩
  · have hown := State.leafWork_own s Leaf.presentRegion hw
    have hout := State.onLeaf_out s Leaf.presentRegion
    rw [Leaf.presentRegion_next hpres hn] at hown hout
    refine ⟨_, rfl, congrArg (fun x : Leaf => x.reg.presented) hown, congrArg (fun x : Leaf => x.reg.pending) hown, ?_⟩
    rw [State.leafWork, if_pos hw]
    exact hout.subset (List.mem_append_right _ (List.mem_singleton_self _))
  · exact ⟨_, rfl, State.leafWork_own s Leaf.regionAck hw⟩
  · have hown := State.leafWork_own s Leaf.regionTimeout hw
    rw [Leaf.regionTimeout_presented hpres] at hown
    exact ⟨_, rfl, congrArg (fun x : Leaf => x.reg.presented) hown, Leaf.counts_of_own (Blk.counts_bump _ _ 1) hown,
      congrArg Leaf.ruleQ hown⟩
  · have hown := State.leafWork_own s (fun l => l.regionMismatch region.toNat) hw
    rw [Leaf.regionMismatch, if_pos ⟨hmis, hr⟩] at hown
    refine ⟨_, rfl, Leaf.counts_of_own (Blk.counts_bump _ _ 1) hown, ?_, congrArg Leaf.ruleQ hown⟩
    exact (congrArg (fun x : Leaf => x.reg.raised.testBit region.toNat) hown).trans (testBit_setBit_same _ _)
  · have hown := State.leafWork_own s (fun l => l.regionMismatch region.toNat) hw
    rw [Leaf.regionMismatch, if_neg (by simp [hr])] at hown
    exact ⟨_, rfl, hown⟩
  · obtain ⟨hsettle, hb, hmark⟩ := Leaf.settleEnd_on hs he ho
    have hown := State.leafWork_own s (fun l => l.settleEnd region.toNat) hw
    exact ⟨_, rfl, (congrArg (fun x : Leaf => mfind x.reg.settle _) hown).trans hsettle,
      (Leaf.blk_own_of_own hown).trans (congrArg Blk.own hb),
      fun c hc => (congrArg (fun x : Leaf => x.fen.mark.testBit c) hown).trans (hmark c hc)⟩

/-- Settles O23: a swap by the reads of its law, a notice by the way out of a tray that does not serve the leaf. -/
theorem leafTablesSwap : Obligations.LeafTablesSwap := by
  unfold Obligations.LeafTablesSwap
  refine fun s => ⟨fun hp => ?_, fun hp => ?_, fun bitmap hp hne hsub hchan => ?_⟩
  · have hown := State.leafOwn_own (fun l _ => l.swapSeries) hp
    obtain ⟨htable, hcount, hswap, hepoch⟩ := Leaf.swapSeries_reads (l := { s.leaf with b := { s.leaf.b with applying := true } })
    exact ⟨_, rfl, (Leaf.bytes_of_own hown _).trans htable, (Leaf.num_of_own hown _).trans hcount,
      (Leaf.num_of_own hown _).trans hswap, (congrArg Leaf.tableEpoch hown).trans hepoch⟩
  · have hown := State.leafOwn_own (fun l _ => l.swapTensors) hp
    obtain ⟨htable, hcount, hswap⟩ := Leaf.swapTensors_reads (l := { s.leaf with b := { s.leaf.b with applying := true } })
    exact ⟨_, rfl, (Leaf.bytes_of_own hown _).trans htable, (Leaf.num_of_own hown _).trans hcount,
      (Leaf.num_of_own hown _).trans hswap, fun x hx => (congrArg (fun y : Leaf => (y.asy.tensor x).late) hown).trans
        (Leaf.swapTensors_late (l := { s.leaf with b := { s.leaf.b with applying := true } }) hx)⟩
  · have hrow := Leaf.row_passed (fun l v => l.routingNotify v.toBytes) hp
    have hnotify : (({ s.leaf with b := { s.leaf.b with applying := true } } : Leaf).routingNotify bitmap) =
        { s.leaf with b := { s.leaf.b with applying := true }, notices := s.leaf.notices ++ [bitmap] } :=
      if_neg (not_or.mpr ⟨hne, hsub⟩)
    have hleaf := hrow.trans (congrArg (fun l1 : Leaf =>
      { l1 with b := ({ l1.b with applying := false }).emit (.act K.routingNotify stOk) }) hnotify)
    obtain ⟨hnone, hout⟩ := State.onLeaf_notices (s := s) (n := bitmap)
      (f := fun l => rowAct leafEnv l (chanAddr s.leaf.b.inUse) K.routingNotify (.bytes bitmap) (fun l v => l.routingNotify v.toBytes))
      (by simp only [hleaf]; exact List.mem_append_right _ (List.mem_singleton_self _)) (by simp only [hleaf]; exact hchan)
    simp only [hleaf] at hout
    exact ⟨_, rfl, hout, hnone⟩

end

section
/-! PROOF. Touchstone (R142 to R157) and assay (R159 to R165) of a leaf: what a beat, a setting and a decision do. -/

namespace Sys2Proof.Machine

section
variable {l : Leaf} {d off : Nat}

/-! ### Selection (R143, R151) -/

/-- The selection count of a core. -/
def Touch.count (t : Touch) (c : Nat) : Nat := mget (fun k => k % t.base) t.sel c

/-- The beats that wait to be decided. -/
def Touch.held (t : Touch) : Nat := (t.queue.filter (fun i => match i with | .beat _ _ _ _ => true | .mark _ _ _ => false)).length

/-- The leaf that has received a checksum beat of core c, its selection count advanced. -/
def Leaf.countBeat (l : Leaf) (c : Nat) : Leaf :=
  { l with b := l.b.bump K.beatsReceived,
           ts := { l.ts with sel := mset (fun k => k % l.ts.base) l.ts.sel c ((l.ts.count c + 1) % l.b.num K.sampleRatio) } }

theorem Leaf.takeChecksum_eq (hdark : l.smp.dark.testBit (beatCore d) = false) (hn : l.b.num K.sampleRatio ≠ 0) :
    l.takeChecksum d off =
      (if l.ts.count (beatCore d) ≠ 0 then l.countBeat (beatCore d)
       else if 512 ≤ l.ts.held then
         { l.countBeat (beatCore d) with
           b := ((l.b.bump K.beatsReceived).bump K.beatsSelected).bump K.beatsUnchecked |>.declareShort l.b.now causeTouchstone,
           ts := (l.countBeat (beatCore d)).ts.onFrame l.b.now (fun x => { x with unchecked := x.unchecked + 1 }) }
       else
         { l.countBeat (beatCore d) with
           b := (l.b.bump K.beatsReceived).bump K.beatsSelected,
           ts := { (l.countBeat (beatCore d)).ts with
             queue := l.ts.queue ++ [.beat l.b.now (off % 2 ^ 20) d (bit (l.b.num (coreKey (beatCore d))) 0)] } }) := by
  rw [Leaf.takeChecksum]
  exact (if_neg (by simp [hdark])).trans (if_neg hn)

theorem Blk.declareShort_num (b : Blk) (f c : Nat) {k : Nat} (h : k ≠ K.lastShortFrame ∧ k ≠ K.lastShortCauses ∧ k ≠ K.shortCount) :
    (b.declareShort f c).num k = b.num k := by
  obtain ⟨hframe, hcauses, hcount⟩ := h
  simp only [Blk.declareShort]
  rw [Blk.num_setNum_ne _ _ hcauses, Blk.num_setNum_ne _ _ hframe]
  split
  · rw [Blk.num_bump_ne _ _ hcount, Blk.raiseEvt_num]
    rfl
  · rw [Blk.raiseEvt_num]
    rfl

theorem Blk.raiseEvt_shorts (b : Blk) (k : Nat) : (b.raiseEvt k).shorts = b.shorts := by
  unfold Blk.raiseEvt
  split <;> rfl

/-- A declaration adds its cause to those of the frame (R42). -/
theorem Blk.declareShort_causes (b : Blk) (f c : Nat) : (b.declareShort f c).shortCauses f = b.shortCauses f ||| c := by
  have hshorts : (b.declareShort f c).shorts = mset (fun _ => 0) b.shorts f (b.shortCauses f ||| c) := by
    simp only [Blk.declareShort]
    split <;> exact Blk.raiseEvt_shorts _ _
  rw [Blk.shortCauses, hshorts, mget_mset_same]

/-! ### Settings (R143, R144, R147) -/

theorem Leaf.setRatio_reads (n : Nat) : (l.setRatio n).b.num K.sampleRatio = n ∧
    (l.setRatio n).b.num K.configWarning = (if n = 0 then 1 else 0) ∧ (n ≠ 0 → ∀ c, (l.setRatio n).ts.count c = c % n) := by
  refine ⟨(Blk.num_setNum_ne _ _ (by decide)).trans (Blk.num_setNum_same _ _ _), Blk.num_setNum_same _ _ _, fun hn c => ?_⟩
  have hts : (l.setRatio n).ts = { l.ts with sel := [], base := n } := if_neg hn
  rw [hts]
  rfl

theorem Leaf.relearn_named {bitmap : List Byte} {c : Nat} (hq : l.ts.queue = []) (hbit : (leNat bitmap).testBit c = true)
    (hc : c < l.b.num K.coreCount) : (l.relearn bitmap).ts.queue = [] ∧ (l.relearn bitmap).ts.entry c = Tol.fresh := by
  have hnamed : (leNat bitmap % 2 ^ l.b.num K.coreCount).testBit c = true := by simp [Nat.testBit_mod_two_pow, hc, hbit]
  have hne : leNat bitmap % 2 ^ l.b.num K.coreCount ≠ 0 := fun h => by simp [h] at hnamed
  have hmark : l.relearn bitmap = ({ l with ts := { l.ts with queue := [], tail := l.ts.tail } } : Leaf).reachMark l.b.now l.ts.tail
      (leNat bitmap % 2 ^ l.b.num K.coreCount) := by
    simp only [Leaf.relearn, if_neg hne, Leaf.addMark, hq, List.nil_append, List.length_singleton, Leaf.passMarks, Leaf.decideOne]
  rw [hmark]
  refine ⟨rfl, mget_none fun e he hec => ?_⟩
  have hout := (List.mem_filter.mp he).2
  rw [hec, hnamed] at hout
  exact absurd hout (by decide)

/-! ### Decision (R145 to R149) -/

theorem Leaf.passMarks_of_beats (n : Nat) (h : ∀ i ∈ l.ts.queue, ∃ g o x y, i = TsItem.beat g o x y) : Leaf.passMarks n l = l := by
  cases n with
  | zero => rfl
  | succ n =>
    rw [Leaf.passMarks]
    split
    · next hq =>
      obtain ⟨_, _, _, _, hbeat⟩ := h _ (by rw [hq]; exact List.mem_cons_self)
      cases hbeat
    · rfl

theorem Leaf.decideBeat_queue (f : Nat) (fenced : Bool) : (l.decideBeat f off d fenced).ts.queue = l.ts.queue := by
  simp only [Leaf.decideBeat]
  split
  · rfl
  · change Touch.queue (ite _ _ _) = _
    split <;> rfl

/-- With no change behind the oldest beat, that beat alone is decided. -/
theorem Leaf.decideNext_beat {f : Nat} {fenced : Bool} {q : List TsItem} (hq : l.ts.queue = .beat f off d fenced :: q)
    (hbeats : ∀ i ∈ q, ∃ g o x y, i = TsItem.beat g o x y) :
    l.decideNext = ({ l with ts := { l.ts with queue := q } } : Leaf).decideBeat f off d fenced := by
  have hone : l.decideOne = ({ l with ts := { l.ts with queue := q } } : Leaf).decideBeat f off d fenced := by
    simp only [Leaf.decideOne, hq]
  have hfirst : Leaf.passMarks l.ts.queue.length l = l := by
    refine Leaf.passMarks_of_beats _ fun i hi => ?_
    rw [hq] at hi
    rcases List.mem_cons.mp hi with rfl | hi
    · exact ⟨_, _, _, _, rfl⟩
    · exact hbeats i hi
  simp only [Leaf.decideNext, hfirst, hone]
  exact Leaf.passMarks_of_beats _ (by rw [Leaf.decideBeat_queue]; exact hbeats)

theorem Leaf.decideBeat_malformed {f : Nat} {fenced : Bool} (h : tsMalformed d = true) : l.decideBeat f off d fenced =
    { l with b := (l.b.bump K.malformedBeats).bump K.beatsUnchecked,
             ts := (l.ts.noteLearning f).onFrame f (fun x => { x with unchecked := x.unchecked + 1 }) } := by
  simp only [Leaf.decideBeat, h, if_true]

theorem foldl_setBit_testBit (p : Nat → Bool) (ks : List Nat) (n k : Nat) :
    (ks.foldl (fun acc k => if p k then setBit acc k else acc) n).testBit k = (n.testBit k || (ks.contains k && p k)) := by
  induction ks generalizing n with
  | nil => simp
  | cons x ks ih =>
    rw [List.foldl_cons, ih, List.contains_cons]
    by_cases hp : p x = true
    · by_cases hk : k = x
      · subst hk
        simp [hp, testBit_setBit_same]
      · have hset : (setBit n x).testBit k = n.testBit k := by
          simp [setBit, Nat.testBit_or, Nat.one_shiftLeft, Nat.testBit_two_pow_of_ne (Ne.symm hk)]
        simp only [hp, if_true, hset, beq_false_of_ne hk, Bool.false_or]
    · by_cases hk : k = x
      · subst hk
        simp [hp]
      · simp only [hp, Bool.false_eq_true, if_false, beq_false_of_ne hk, Bool.false_or]

/-- The masks of an outcome are empty when no entry has it. -/
theorem tsMasks_ne (d thr o : Nat) : (tsMasks d thr o != (0, 0)) = (List.range 16).any (fun k => tsOutcome d thr k == o) := by
  have hfold : tsMasks d thr o = (((List.range 16).foldl (fun acc k => if tsOutcome d thr k == o then setBit acc k else acc) 0) % 256,
      ((List.range 16).foldl (fun acc k => if tsOutcome d thr k == o then setBit acc k else acc) 0) / 256) := by
    simp only [tsMasks, beq_iff_eq]
  have hbit := foldl_setBit_testBit (fun k => tsOutcome d thr k == o) (List.range 16) 0
  rw [hfold]
  generalize (List.range 16).foldl (fun acc k => if (tsOutcome d thr k == o) = true then setBit acc k else acc) 0 = m at hbit
  rw [Bool.eq_iff_iff]
  simp only [bne_iff_ne, ne_eq, Prod.mk.injEq, List.any_eq_true]
  constructor
  · intro hm
    have hne : m ≠ 0 := fun h => hm (by rw [h]; decide)
    obtain ⟨k, hk⟩ := Nat.exists_testBit_of_ne_zero hne
    rw [hbit] at hk
    simp only [Nat.zero_testBit, Bool.false_or, Bool.and_eq_true, List.contains_iff_mem] at hk
    exact ⟨k, hk⟩
  · rintro ⟨k, hk, ho⟩ ⟨h1, h2⟩
    have hz : m = 0 := by omega
    have hk' := hbit k
    rw [hz] at hk'
    simp [ho, List.mem_range.mp hk] at hk'

/-- A well-formed beat is compared, and its outcomes are counted (R146, R149). -/
theorem Leaf.decideBeat_counts {f : Nat} {fenced : Bool} (h : tsMalformed d = false) :
    l.b.counts (l.decideBeat f off d fenced).b K.entriesCompared 16 ∧
      (let thr := l.ts.set.threshold (l.ts.entry (beatCore d))
       (if (List.range 16).any (fun k => tsOutcome d thr k == 1) then l.b.counts (l.decideBeat f off d fenced).b K.mismatchBeats
        else (l.decideBeat f off d fenced).b.num K.mismatchBeats = l.b.num K.mismatchBeats) ∧
       (if (List.range 16).any (fun k => tsOutcome d thr k == 2) then l.b.counts (l.decideBeat f off d fenced).b K.nonfiniteBeats
        else (l.decideBeat f off d fenced).b.num K.nonfiniteBeats = l.b.num K.nonfiniteBeats)) := by
  have hb : (l.decideBeat f off d fenced).b =
      (let thr := l.ts.set.threshold (l.ts.entry (beatCore d))
       let b2 := if (List.range 16).any (fun k => tsOutcome d thr k == 1) then (l.b.bump K.entriesCompared 16).bump K.mismatchBeats
         else l.b.bump K.entriesCompared 16
       if (List.range 16).any (fun k => tsOutcome d thr k == 2) then b2.bump K.nonfiniteBeats else b2) := by
    simp only [Leaf.decideBeat, h, Bool.false_eq_true, if_false, tsMasks_ne]
    rfl
  rw [hb]
  generalize l.ts.set.threshold (l.ts.entry (beatCore d)) = thr
  have hcompared : l.b.counts (l.b.bump K.entriesCompared 16) K.entriesCompared 16 := Blk.counts_bump _ _ _
  have hcompared_ne {k : Nat} (hk : k ≠ K.entriesCompared) : (l.b.bump K.entriesCompared 16).num k = l.b.num k := Blk.num_bump_ne _ _ hk
  have hmis : l.b.counts ((l.b.bump K.entriesCompared 16).bump K.mismatchBeats) K.mismatchBeats :=
    Blk.counts_of_num (hcompared_ne (by decide)) rfl (Blk.counts_bump _ _ _)
  have hnon (b : Blk) (hn : b.num K.nonfiniteBeats = l.b.num K.nonfiniteBeats) (hl : b.isLeaf = l.b.isLeaf) :
      l.b.counts (b.bump K.nonfiniteBeats) K.nonfiniteBeats := Blk.counts_of_num hn hl (Blk.counts_bump _ _ _)
  by_cases h1 : (List.range 16).any (fun k => tsOutcome d thr k == 1) = true
  · by_cases h2 : (List.range 16).any (fun k => tsOutcome d thr k == 2) = true
    · simp only [h1, h2, if_true]
      refine ⟨?_, (Blk.num_bump_ne _ _ (by decide)).trans hmis, hnon _ ?_ rfl⟩
      · exact (Blk.num_bump_ne _ _ (by decide)).trans ((Blk.num_bump_ne _ _ (by decide)).trans hcompared)
      · exact (Blk.num_bump_ne _ _ (by decide)).trans (hcompared_ne (by decide))
    · simp only [h1, h2, if_true]
      exact ⟨(Blk.num_bump_ne _ _ (by decide)).trans hcompared, hmis, (Blk.num_bump_ne _ _ (by decide)).trans (hcompared_ne (by decide))⟩
  · by_cases h2 : (List.range 16).any (fun k => tsOutcome d thr k == 2) = true
    · simp only [h1, h2, if_true]
      exact ⟨(Blk.num_bump_ne _ _ (by decide)).trans hcompared, (Blk.num_bump_ne _ _ (by decide)).trans (hcompared_ne (by decide)),
        hnon _ (hcompared_ne (by decide)) rfl⟩
    · simp only [h1, h2]
      exact ⟨hcompared, hcompared_ne (by decide), hcompared_ne (by decide)⟩

/-! ### The section (R152) -/

theorem Leaf.decideOne_queue : l.decideOne.ts.queue = l.ts.queue.tail := by
  unfold Leaf.decideOne
  split
  · next hq => rw [hq]; rfl
  · next hq => rw [hq]; exact Leaf.decideBeat_queue _ _
  · next hq => rw [hq]; rfl

theorem Leaf.decideOne_draft : l.decideOne.draft = l.draft := by
  unfold Leaf.decideOne
  split
  · rfl
  · simp only [Leaf.decideBeat]
    split <;> rfl
  · rfl

/-- Once the beats of a frame have been decided, none of it waits any more. -/
theorem Leaf.decideThrough_clears (f n : Nat) (h : l.ts.queue.length ≤ n) {g o x : Nat} {y : Bool}
    (hb : TsItem.beat g o x y ∈ (Leaf.decideThrough f n l).ts.queue) : f < g := by
  induction n generalizing l with
  | zero =>
    have hnil : l.ts.queue = [] := List.length_eq_zero_iff.mp (by omega)
    rw [Leaf.decideThrough, hnil] at hb
    cases hb
  | succ n ih =>
    rw [Leaf.decideThrough] at hb
    split at hb
    · exact ih (by rw [Leaf.decideOne_queue, List.length_tail]; omega) hb
    · next hnone =>
      have hno := (not_congr List.any_eq_true).mp hnone
      simp only [not_exists, not_and] at hno
      have hbeat := hno _ hb
      simp only [decide_eq_true_eq] at hbeat
      omega

theorem Leaf.decideThrough_draft (f n : Nat) : (Leaf.decideThrough f n l).draft = l.draft := by
  induction n generalizing l with
  | zero => rfl
  | succ n ih =>
    rw [Leaf.decideThrough]
    split
    · rw [ih, Leaf.decideOne_draft]
    · rfl

theorem Leaf.touchReports_keeps (x : TsFrame) : (l.touchReports x).ts = l.ts ∧ (l.touchReports x).draft = l.draft := by
  have fold : ∀ (ms : List (Nat × Nat × Nat × Nat)) (g : Leaf → Nat × Nat × Nat × Nat → Nat × Nat × Nat) (y : Leaf),
      (ms.foldl (fun acc m => acc.fault x.frame 0x03 1 (g acc m).1 (g acc m).2.1 (g acc m).2.2) y).ts = y.ts ∧
      (ms.foldl (fun acc m => acc.fault x.frame 0x03 1 (g acc m).1 (g acc m).2.1 (g acc m).2.2) y).draft = y.draft := by
    intro ms g
    induction ms with
    | nil => exact fun y => ⟨rfl, rfl⟩
    | cons m ms ih => exact fun y => ih _
  obtain ⟨hts, hdraft⟩ := fold x.firsts
    (fun _ m => (locCore l.id m.1, x.frame, m.2.1 * 2 ^ 88 + m.2.2.1 * 2 ^ 80 + m.2.2.2)) _
  refine ⟨hts.trans ?_, hdraft.trans ?_⟩
  · split <;> split <;> split <;> split <;> rfl
  · split <;> split <;> split <;> split <;> rfl

theorem Leaf.sealTouch_keeps (f : Nat) : (l.sealTouch f).2.ts.queue = (Leaf.decideThrough f l.ts.queue.length l).ts.queue ∧
    (l.sealTouch f).2.draft = l.draft := by
  unfold Leaf.sealTouch
  dsimp only
  split
  · exact ⟨rfl, Leaf.decideThrough_draft f _⟩
  · dsimp only
    refine ⟨?_, ?_⟩
    · rw [(Leaf.touchReports_keeps _).1]
      split <;> rfl
    · rw [(Leaf.touchReports_keeps _).2]
      split <;> exact Leaf.decideThrough_draft f _

theorem Blk.journalPut_mem (b : Blk) (e : JEntry) : e ∈ (b.journalPut e).journal := by
  unfold Blk.journalPut
  split <;> exact List.mem_append_right _ (List.mem_singleton_self _)

/-- The packet being gathered is sealed: it is in the journal, and no beat of its frame waits. -/
theorem Leaf.sealDraft_seals {x : Draft} (hd : l.draft = some x) : l.sealDraft.draft = none ∧
    (∃ e ∈ l.sealDraft.b.journal, e.frame = x.frame ∧ e.dst = none) ∧
    ∀ g o y z, TsItem.beat g o y z ∈ l.sealDraft.ts.queue → x.frame < g := by
  obtain ⟨hqueue, hdraft⟩ := Leaf.sealTouch_keeps (l := { l with draft := none }) x.frame
  simp only [Leaf.sealDraft, hd]
  refine ⟨hdraft, ⟨_, Blk.journalPut_mem _ _, rfl, rfl⟩, fun g o y z hb => ?_⟩
  have hb' : TsItem.beat g o y z ∈ (({ l with draft := none } : Leaf).sealTouch x.frame).2.ts.queue := hb
  rw [hqueue] at hb'
  exact Leaf.decideThrough_clears x.frame _ (Nat.le_refl _) hb'

end

end Sys2Proof.Machine

open Sys2Proof Sys2Proof.Machine

/-- Settles O24: a beat by the equation of Touchstone's port, the settings by their acts. -/
theorem checksumsAreSampled : Obligations.ChecksumsAreSampled := by
  unfold Obligations.ChecksumsAreSampled
  refine ⟨fun s d off h hdark hn => ?_, fun s v hp => ?_, fun s bitmap c hp hq hbit hc => ?_⟩
  · obtain ⟨-, hleaf⟩ := Leaf.takeBeat_admitted h
    have hown := State.onLeaf_own s (fun l => l.takeBeat d.toNat off.toNat)
    rw [hleaf, if_neg (by decide), if_neg (by decide), if_pos rfl,
      Leaf.takeChecksum_eq (l := s.leaf.tookBeat off.toNat) hdark hn] at hown
    refine ⟨fun hsel => ?_, fun hsel hheld => ?_, fun hsel hheld => ?_⟩
    · rw [if_pos (show (s.leaf.tookBeat off.toNat).ts.count (beatCore d.toNat) ≠ 0 from hsel)] at hown
      have hqueue := congrArg Touch.queue (Leaf.ts_of_own hown)
      have hsels := congrArg Touch.sel (Leaf.ts_of_own hown)
      refine ⟨_, rfl, hqueue, Leaf.counts_of_own (Blk.counts_bump s.leaf.b _ 1) hown, ?_⟩
      exact (congrArg (fun m => mget (fun k => k % s.leaf.ts.base) m (beatCore d.toNat)) hsels).trans (mget_mset_same _ _ _ _)
    · rw [if_neg (not_not_intro (show (s.leaf.tookBeat off.toNat).ts.count (beatCore d.toNat) = 0 from hsel)),
        if_neg (show ¬ 512 ≤ (s.leaf.tookBeat off.toNat).ts.held from Nat.not_le.mpr hheld), Nat.mod_eq_of_lt off.isLt] at hown
      have hqueue := congrArg Touch.queue (Leaf.ts_of_own hown)
      refine ⟨_, rfl, ?_, hqueue⟩
      exact Leaf.counts_of_own (Blk.counts_of_num (Blk.num_bump_ne s.leaf.b 1 (by decide)) rfl (Blk.counts_bump _ _ 1)) hown
    · rw [if_neg (not_not_intro (show (s.leaf.tookBeat off.toNat).ts.count (beatCore d.toNat) = 0 from hsel)),
        if_pos (show 512 ≤ (s.leaf.tookBeat off.toNat).ts.held from hheld)] at hown
      have hqueue := congrArg Touch.queue (Leaf.ts_of_own hown)
      refine ⟨_, rfl, hqueue, Leaf.counts_of_own ?_ hown, ?_⟩
      · refine (Blk.declareShort_num _ _ _ (by decide)).trans ?_
        refine Blk.counts_of_num (b := (s.leaf.b.bump K.beatsReceived).bump K.beatsSelected) ?_ rfl (Blk.counts_bump _ _ 1)
        exact (Blk.num_bump_ne _ _ (by decide)).trans (Blk.num_bump_ne _ _ (by decide))
      · exact (congrArg (fun x : Leaf => x.b.shortCauses s.leaf.b.now) hown).trans (Blk.declareShort_causes _ _ _)
  · have hown := State.leafOwn_own (fun l x => l.setRatio x.toNum) hp
    obtain ⟨hratio, hwarn, hsel⟩ := Leaf.setRatio_reads (l := { s.leaf with b := { s.leaf.b with applying := true } }) v.toNat
    refine ⟨_, rfl, (Leaf.num_of_own hown _).trans hratio, (Leaf.num_of_own hown _).trans hwarn, fun hv c => ?_⟩
    exact (congrArg (fun x : Touch => x.count c) (Leaf.ts_of_own hown)).trans (hsel hv c)
  · have hown := State.leafOwn_own (fun l x => l.relearn x.toBytes) hp
    obtain ⟨hqueue, hentry⟩ := Leaf.relearn_named (l := { s.leaf with b := { s.leaf.b with applying := true } }) hq hbit hc
    exact ⟨_, rfl, (congrArg Touch.queue (Leaf.ts_of_own hown)).trans hqueue, (congrArg (fun x : Touch => x.entry c) (Leaf.ts_of_own hown)).trans hentry⟩

/-- Settles O25: the oldest beat is `Leaf.decideBeat`, the section `Leaf.sealDraft`. -/
theorem residualsAreDecided : Obligations.ResidualsAreDecided := by
  unfold Obligations.ResidualsAreDecided
  refine ⟨fun s f off d fenced q hw hq hbeats => ⟨fun hmal => ?_, fun hmal => ?_⟩, fun s d hw hd => ?_⟩
  · have hown := State.leafWork_own s Leaf.decideNext hw
    rw [Leaf.decideNext_beat hq hbeats, Leaf.decideBeat_malformed hmal] at hown
    have hqueue := congrArg Touch.queue (Leaf.ts_of_own hown)
    have htable := congrArg Touch.table (Leaf.ts_of_own hown)
    refine ⟨_, rfl, hqueue, ?_, ?_, htable⟩
    · have hmal : s.leaf.b.counts ((s.leaf.b.bump K.malformedBeats).bump K.beatsUnchecked) K.malformedBeats :=
        (Blk.num_bump_ne _ _ (by decide)).trans (Blk.counts_bump _ _ 1)
      exact Leaf.counts_of_own hmal hown
    · exact Leaf.counts_of_own (Blk.counts_of_num (Blk.num_bump_ne s.leaf.b 1 (by decide)) rfl (Blk.counts_bump _ _ 1)) hown
  · have hown := State.leafWork_own s Leaf.decideNext hw
    rw [Leaf.decideNext_beat hq hbeats] at hown
    obtain ⟨hcompared, hmis, hnon⟩ := Leaf.decideBeat_counts (l := { s.leaf with ts := { s.leaf.ts with queue := q } })
      (off := off) (f := f) (fenced := fenced) hmal
    refine ⟨_, rfl, (congrArg Touch.queue (Leaf.ts_of_own hown)).trans (Leaf.decideBeat_queue f fenced),
      Leaf.counts_of_own hcompared hown, ?_, ?_⟩
    · simp only [Blk.counts, Leaf.num_of_own hown]
      exact hmis
    · simp only [Blk.counts, Leaf.num_of_own hown]
      exact hnon
  · have hown := State.leafWork_own s Leaf.sealDraft hw
    obtain ⟨hdraft, hjournal, hqueue⟩ := Leaf.sealDraft_seals hd
    refine ⟨_, rfl, (congrArg Leaf.draft hown).trans hdraft, ?_, fun g o x y hb => hqueue g o x y ?_⟩
    · exact (congrArg (fun x : Leaf => ∃ e ∈ x.b.journal, e.frame = d.frame ∧ e.dst = none) hown).mpr hjournal
    · exact (congrArg (fun z : Leaf => TsItem.beat g o x y ∈ z.ts.queue) hown).mp hb

end

section
/-! PROOF. Assay of a leaf (R159 to R165): the snoop buffer and the digest of a beat. -/

namespace Sys2Proof.Machine

section
variable {l : Leaf}

theorem Leaf.damage_keeps (id : Nat) : (l.damage id).b = l.b ∧ (l.damage id).asy.snoop = l.asy.snoop := by
  simp only [Leaf.damage]
  split <;> exact ⟨rfl, rfl⟩

theorem Leaf.weightBeat_snooped {data tensor word count epoch : Nat} (hopen : l.b.frameIsOpen = true) (hcount : count ≠ 0)
    (hp : l.b.num K.powerStateNow ≠ 2) (hroom : l.asy.snoop.length < 256) : l.weightBeat data tensor word count epoch =
      { l with asy := { l.asy with snoop := l.asy.snoop ++
        [{ frame := l.b.now, data := data, tensor := tensor, word := word, count := count, epoch := epoch }] } } := by
  rw [Leaf.weightBeat, if_neg (by simp [hopen, hcount, hp]), if_neg (by omega)]

theorem Leaf.weightBeat_lost {data tensor word count epoch : Nat} (hopen : l.b.frameIsOpen = true) (hcount : count ≠ 0)
    (hp : l.b.num K.powerStateNow ≠ 2) (hfull : 256 ≤ l.asy.snoop.length) : l.weightBeat data tensor word count epoch =
      ({ l with b := l.b.bump K.beatsOverflowed } : Leaf).damage tensor := by
  rw [Leaf.weightBeat, if_neg (by simp [hopen, hcount, hp]), if_pos hfull]

theorem Leaf.digestNext_cons {w : WBeat} {ws : List WBeat} (h : l.asy.snoop = w :: ws) :
    l.digestNext = ({ l with asy := { l.asy with snoop := ws } } : Leaf).digestBeat w := by
  simp only [Leaf.digestNext, h]

theorem Leaf.digestBeat_unknown {w : WBeat} (h : l.b.tensorOf w.tensor = none) :
    l.digestBeat w = { l with b := l.b.bump K.beatsUnknownTensor } := by simp only [Leaf.digestBeat, h]

/-- A beat of a tensor of the table, within its length, that is not late. -/
theorem Leaf.digestBeat_known {w : WBeat} {e : TensorEntry} (h : l.b.tensorOf w.tensor = some e) (hlen : w.word + w.count ≤ e.length)
    (hcount : w.count ≤ 32) (hlate : (l.asy.tensor w.tensor).late = false) : l.digestBeat w =
      (let a := epochAhead w.epoch (l.asy.tensor w.tensor).epoch
       if 32768 ≤ a then { l with b := l.b.bump K.beatsStaleEpoch }
       else if a = 0 then Leaf.accumulate e w.frame 33 l w.word w.words
       else Leaf.accumulate e w.frame 33 (l.newEpoch e w.frame w.epoch) w.word w.words) := by
  simp only [Leaf.digestBeat, h]
  rw [if_neg (by omega), if_neg (by simp [hlate])]

theorem WBeat.words_length (w : WBeat) : w.words.length = w.count := by simp [WBeat.words]

/-- Words that do not complete the pass join its digest. -/
theorem Leaf.accumulate_within {e : TensorEntry} {f i : Nat} {ws : List Nat} (hne : 0 < ws.length)
    (hroom : (l.asy.tensor e.tensor).n + ws.length < e.passWords) (fuel : Nat) : Leaf.accumulate e f (fuel + 1) l i ws =
      { l with asy := l.asy.setTensor e.tensor { l.asy.tensor e.tensor with
        v := ((l.asy.tensor e.tensor).v + digestFrom e.key i ws) % gfP, n := (l.asy.tensor e.tensor).n + ws.length } } := by
  have hfull : ws.take (e.passWords - (l.asy.tensor e.tensor).n) = ws := List.take_of_length_le (by omega)
  have hsome : ¬ ws.isEmpty = true := by
    rw [List.isEmpty_iff]
    exact fun h => by simp [h] at hne
  rw [Leaf.accumulate, if_neg hsome]
  simp only [hfull]
  exact if_pos hroom

theorem Blk.tensorOf_name {b : Blk} {id : Nat} {e : TensorEntry} (h : b.tensorOf id = some e) : e.tensor = id := by
  simpa using List.find?_some h

end

end Sys2Proof.Machine

open Sys2Proof Sys2Proof.Machine

/-- Settles O26: a beat enters the buffer or is lost, and the oldest one is `Leaf.digestBeat`. -/
theorem weightsAreDigested : Obligations.WeightsAreDigested := by
  unfold Obligations.WeightsAreDigested
  refine ⟨fun s data tensor word count epoch hw hopen hcount hp => ⟨fun hroom => ?_, fun hfull => ?_⟩,
    fun s w ws hw hq => ⟨fun hnone => ?_, fun e he hlen hle => ?_⟩⟩
  · have hne : count.toNat ≠ 0 := fun h => hcount (BitVec.eq_of_toNat_eq h)
    have hown := State.leafWork_own s (fun l => l.weightBeat data.toNat tensor.toNat word.toNat count.toNat epoch.toNat) hw
    rw [Leaf.weightBeat_snooped hopen hne hp hroom] at hown
    exact ⟨_, rfl, hown⟩
  · have hne : count.toNat ≠ 0 := fun h => hcount (BitVec.eq_of_toNat_eq h)
    have hown := State.leafWork_own s (fun l => l.weightBeat data.toNat tensor.toNat word.toNat count.toNat epoch.toNat) hw
    rw [Leaf.weightBeat_lost hopen hne hp hfull] at hown
    obtain ⟨hb, hsnoop⟩ := Leaf.damage_keeps (l := { s.leaf with b := s.leaf.b.bump K.beatsOverflowed }) tensor.toNat
    refine ⟨_, rfl, (congrArg Assay.snoop (Leaf.asy_of_own hown)).trans hsnoop, Leaf.counts_of_own ?_ hown⟩
    rw [hb]
    exact Blk.counts_bump _ _ 1
  · have hown := State.leafWork_own s Leaf.digestNext hw
    rw [Leaf.digestNext_cons hq, Leaf.digestBeat_unknown (l := { s.leaf with asy := { s.leaf.asy with snoop := ws } }) hnone] at hown
    have hsnoop := congrArg Assay.snoop (Leaf.asy_of_own hown)
    have htensors := congrArg Assay.tensors (Leaf.asy_of_own hown)
    exact ⟨_, rfl, hsnoop, Leaf.counts_of_own (Blk.counts_bump s.leaf.b _ 1) hown, htensors⟩
  · intro x hlate
    have hown := State.leafWork_own s Leaf.digestNext hw
    rw [Leaf.digestNext_cons hq,
      Leaf.digestBeat_known (l := { s.leaf with asy := { s.leaf.asy with snoop := ws } }) he hlen hle hlate] at hown
    refine ⟨fun hstale => ?_, fun hsame hpos hroom => ?_⟩
    · have hstale' : 32768 ≤ epochAhead w.epoch (({ s.leaf.asy with snoop := ws } : Assay).tensor w.tensor).epoch := hstale
      simp only [hstale', if_true] at hown
      have hsnoop := congrArg Assay.snoop (Leaf.asy_of_own hown)
      have htensors := congrArg Assay.tensors (Leaf.asy_of_own hown)
      exact ⟨_, rfl, hsnoop, Leaf.counts_of_own (Blk.counts_bump s.leaf.b _ 1) hown, htensors⟩
    · have hname := Blk.tensorOf_name he
      have hwords := w.words_length
      have hsame' : epochAhead w.epoch (({ s.leaf.asy with snoop := ws } : Assay).tensor w.tensor).epoch = 0 := hsame
      have hroom' : (({ s.leaf.asy with snoop := ws } : Assay).tensor e.tensor).n + w.words.length < e.passWords := by
        rw [hname, hwords]
        exact hroom
      simp only [hsame', if_neg (show ¬ 32768 ≤ 0 by decide), if_true] at hown
      rw [Leaf.accumulate_within (l := { s.leaf with asy := { s.leaf.asy with snoop := ws } }) (by omega) hroom' 32, hname, hwords] at hown
      have hasy := Leaf.asy_of_own hown
      have hsnoop := congrArg Assay.snoop hasy
      have hblk := Leaf.blk_own_of_own hown
      refine ⟨_, rfl, hsnoop, ?_, hblk⟩
      exact (congrArg (fun a : Assay => a.tensor w.tensor) hasy).trans (mget_mset_same _ _ _ _)

end

section
/-! PROOF. The trace unit (R302 to R318): what its operations leave of its state, its intake queue and the objects beside it. -/

namespace Sys2Proof.Machine

/-- An object that the writer of trace records does not move. -/
def traceQuiet (k : Nat) : Bool := !(k == K.wraps || k == K.stallCycles || k == K.eventsWritten || k == K.traceState)

theorem traceQuiet_ne {k : Nat} (h : traceQuiet k = true) :
    k ≠ K.wraps ∧ k ≠ K.stallCycles ∧ k ≠ K.eventsWritten ∧ k ≠ K.traceState := by
  simp only [traceQuiet, Bool.not_eq_true', Bool.or_eq_false_iff, beq_eq_false_iff_ne] at h
  obtain ⟨⟨⟨h1, h2⟩, h3⟩, h4⟩ := h
  exact ⟨h1, h2, h3, h4⟩

section
variable (l : Leaf)

/-- The mark of a write that takes effect is no object. -/
theorem Leaf.num_of_applied {x : Leaf} (h : x.own = ({ l with b := { l.b with applying := false } } : Leaf).own) (k : Nat) :
    x.b.num k = l.b.num k := Leaf.num_of_own h k

/-! ### The ring and the stall -/

theorem Leaf.append_num (rs : List TrRec) {k : Nat} (h : k ≠ K.wraps) : (l.append rs).b.num k = l.b.num k := by
  simp only [Leaf.append]
  split
  · exact Blk.num_bump_ne _ _ h
  · rfl

theorem Leaf.append_queue (rs : List TrRec) : (l.append rs).tr.queue = l.tr.queue := by
  simp only [Leaf.append]
  split <;> rfl

theorem Leaf.append_trState (rs : List TrRec) : (l.append rs).trState = l.trState := Leaf.append_num l rs (by decide)

theorem Leaf.stallFall_num (c : Nat) {k : Nat} (h : k ≠ K.stallCycles) : (l.stallFall c).b.num k = l.b.num k := by
  unfold Leaf.stallFall
  split
  · rfl
  · exact Blk.num_bump_ne l.b _ h

theorem Leaf.judgeStall_num {k : Nat} (h : k ≠ K.stallCycles) : l.judgeStall.b.num k = l.b.num k := by
  simp only [Leaf.judgeStall]
  split
  · split
    · exact Leaf.stallFall_num l _ h
    · rfl
  · split <;> rfl

/-- The stall moves nothing of the unit but itself. -/
theorem Leaf.judgeStall_keeps : l.judgeStall.tr.queue = l.tr.queue ∧ l.judgeStall.tr.ring = l.tr.ring ∧
    l.judgeStall.tr.stopAt = l.tr.stopAt ∧ l.judgeStall.trState = l.trState := by
  refine ⟨?_, ?_, ?_, Leaf.judgeStall_num l (by decide)⟩
  all_goals
    simp only [Leaf.judgeStall, Leaf.stallFall]
    repeat' split
    all_goals rfl

/-- The unit at idle with nothing waiting, before its stall is judged. -/
def Leaf.idled (l : Leaf) : Leaf :=
  { l with b := l.b.setNum K.traceState trIdle, tr := { l.tr with queue := [], stopAt := none, lost := 0, lostAfter := false } }

theorem Leaf.traceIdle_idle : l.traceIdle.trState = trIdle ∧ l.traceIdle.tr.queue = [] := by
  obtain ⟨hqueue, -, -, hstate⟩ := Leaf.judgeStall_keeps l.idled
  exact ⟨hstate.trans (Blk.num_setNum_same _ _ _), hqueue⟩

theorem Leaf.traceIdle_num {k : Nat} (h : traceQuiet k = true) : l.traceIdle.b.num k = l.b.num k := by
  obtain ⟨-, hstall, -, hstate⟩ := traceQuiet_ne h
  exact (Leaf.judgeStall_num l.idled hstall).trans (Blk.num_setNum_ne _ _ hstate)

/-! ### Records -/

theorem Leaf.put1_num (time steps dom : Nat) (mk : Nat → List Byte) (trigger : Bool) {k : Nat} (h : k ≠ K.wraps) :
    (l.put1 time steps dom mk trigger).b.num k = l.b.num k := Leaf.append_num l _ h

theorem Leaf.put1_queue (time steps dom : Nat) (mk : Nat → List Byte) (trigger : Bool) :
    (l.put1 time steps dom mk trigger).tr.queue = l.tr.queue := Leaf.append_queue l _

/-- From `a` to `b` records have been written: the state stays or goes to idle, an empty queue stays empty, and the objects beside the
unit stand. -/
structure Leaf.Writes (a b : Leaf) : Prop where
  state : b.trState = a.trState ∨ b.trState = trIdle
  queue : a.tr.queue = [] → b.tr.queue = []
  num : ∀ k, traceQuiet k = true → b.b.num k = a.b.num k

theorem Leaf.Writes.refl (a : Leaf) : Leaf.Writes a a := ⟨Or.inl rfl, fun hq => hq, fun _ _ => rfl⟩

theorem Leaf.Writes.trans {a b c : Leaf} (h : Leaf.Writes a b) (g : Leaf.Writes b c) : Leaf.Writes a c where
  state := by
    rcases g.state with hg | hg
    · rw [hg]
      exact h.state
    · exact Or.inr hg
  queue := fun ha => g.queue (h.queue ha)
  num := fun k hk => (g.num k hk).trans (h.num k hk)

theorem Leaf.put1_writes (time steps dom : Nat) (mk : Nat → List Byte) (trigger : Bool) :
    Leaf.Writes l (l.put1 time steps dom mk trigger) where
  state := Or.inl (Leaf.put1_num l time steps dom mk trigger (by decide))
  queue := fun h => (Leaf.put1_queue l time steps dom mk trigger).trans h
  num := fun _ hk => Leaf.put1_num l time steps dom mk trigger (traceQuiet_ne hk).1

theorem Leaf.putStop_writes (k time steps dom : Nat) : Leaf.Writes l (l.putStop k time steps dom) :=
  (Leaf.put1_writes l _ _ _ _ _).trans
    ⟨Or.inr (Leaf.traceIdle_idle _).1, fun _ => (Leaf.traceIdle_idle _).2, fun _ hk => Leaf.traceIdle_num _ hk⟩

theorem Leaf.putStop_idle (k time steps dom : Nat) : (l.putStop k time steps dom).trState = trIdle ∧
    (l.putStop k time steps dom).tr.queue = [] := Leaf.traceIdle_idle _

theorem Leaf.place_writes (time steps dom : Nat) (mk : Nat → List Byte) (trigger : Bool) :
    Leaf.Writes l (l.place time steps dom mk trigger) := by
  simp only [Leaf.place]
  split
  · exact Leaf.putStop_writes l _ _ _ _
  · exact Leaf.put1_writes l _ _ _ _ _

/-- Before the trigger a record never meets the trigger record (R310). -/
theorem Leaf.place_of_armed (h : l.trState = trArmed) (time steps dom : Nat) (mk : Nat → List Byte) (trigger : Bool) :
    l.place time steps dom mk trigger = l.put1 time steps dom mk trigger := by
  have htight (rs : List TrRec) : l.tight rs = false := by simp [Leaf.tight, h, trArmed, trTriggered]
  simp only [Leaf.place, htight, Bool.and_false, Bool.false_eq_true, if_false]

theorem Leaf.writeItem_writes (i : TrItem) : Leaf.Writes l (l.writeItem i) := by
  unfold Leaf.writeItem
  extract_lets _ l0
  have hcycle : Leaf.Writes l l0 := ⟨Or.inl rfl, fun hq => hq, fun _ _ => rfl⟩
  split
  · next core code priv words context payload hkind =>
    extract_lets l1
    have hplace : Leaf.Writes l l1 := hcycle.trans (Leaf.place_writes _ _ _ _ _ _)
    split
    · exact hplace.trans
        ⟨Or.inl (Blk.num_bump_ne _ _ (by decide)), fun hq => hq, fun k hk => Blk.num_bump_ne _ _ (traceQuiet_ne hk).2.2.1⟩
    · exact hplace
  · exact hcycle.trans (Leaf.place_writes _ _ _ _ _ _)

theorem Leaf.place_armed (h : l.trState = trArmed) (time steps dom : Nat) (mk : Nat → List Byte) (trigger : Bool) :
    (l.place time steps dom mk trigger).trState = trArmed ∧ (l.place time steps dom mk trigger).tr.queue = l.tr.queue := by
  rw [Leaf.place_of_armed l h]
  exact ⟨(Leaf.put1_num l _ _ _ _ _ (by decide)).trans h, Leaf.put1_queue l _ _ _ _ _⟩

theorem Leaf.writeItem_armed (h : l.trState = trArmed) (i : TrItem) :
    (l.writeItem i).trState = trArmed ∧ (l.writeItem i).tr.queue = l.tr.queue := by
  unfold Leaf.writeItem
  extract_lets _ l0
  have h0 : l0.trState = trArmed := h
  split
  · next core code priv words context payload hkind =>
    extract_lets l1
    obtain ⟨hstate, hqueue⟩ := Leaf.place_armed l0 h0 i.time i.steps i.dom
      (fun d => trEvent core code priv words context d payload) false
    rw [if_pos (hstate.trans h0.symm)]
    exact ⟨(Blk.num_bump_ne _ _ (by decide)).trans hstate, hqueue⟩
  · exact Leaf.place_armed l0 h0 _ _ _ _ _

theorem Leaf.writeThrough_writes (t : Nat) (is : List TrItem) : Leaf.Writes l (Leaf.writeThrough t is l) := by
  induction is generalizing l with
  | nil => exact Leaf.Writes.refl l
  | cons i is ih =>
    rw [Leaf.writeThrough]
    split
    · exact (Leaf.writeItem_writes l i).trans (ih _)
    · exact ih l

theorem Leaf.traceHalt_writes (k t : Nat) (hq : l.tr.queue = []) : Leaf.Writes l (l.traceHalt k t) := by
  have hnone : ({ l with tr := { l.tr with queue := [] } } : Leaf) = l := by rw [← hq]
  simp only [Leaf.traceHalt, hnone]
  split
  · exact Leaf.writeThrough_writes l t _
  · exact (Leaf.writeThrough_writes l t _).trans (Leaf.putStop_writes _ _ _ _ _)

/-- A halt takes a capturing unit to idle, and nothing waits any more (R308, R310). -/
theorem Leaf.traceHalt_halts (k t : Nat) (hc : l.capturing = true) : (l.traceHalt k t).trState = trIdle ∧
    (l.traceHalt k t).tr.queue = [] ∧ ∀ j, traceQuiet j = true → (l.traceHalt k t).b.num j = l.b.num j := by
  have hw := Leaf.writeThrough_writes { l with tr := { l.tr with queue := [] } } t l.tr.queue
  simp only [Leaf.traceHalt]
  split
  · next hidle =>
    refine ⟨?_, hw.queue rfl, fun j hj => hw.num j hj⟩
    rcases hw.state with h | h
    · have hcap : (Leaf.writeThrough t l.tr.queue { l with tr := { l.tr with queue := [] } }).capturing = l.capturing := by
        simp only [Leaf.capturing, h]
        rfl
      rw [hcap, hc] at hidle
      exact absurd hidle (by decide)
    · exact h
  · have hs := hw.trans (Leaf.putStop_writes _ k t (Leaf.writeThrough t l.tr.queue { l with tr := { l.tr with queue := [] } }).b.steps
      (Leaf.writeThrough t l.tr.queue { l with tr := { l.tr with queue := [] } }).b.domBit)
    exact ⟨(Leaf.putStop_idle _ _ _ _ _).1, (Leaf.putStop_idle _ _ _ _ _).2, fun j hj => hs.num j hj⟩

theorem Leaf.capturing_of_idle {x : Leaf} (h : x.trState = trIdle) : x.capturing = false := by
  rw [Leaf.capturing, h]
  rfl

/-! ### Commands (R308) -/

theorem Leaf.emptyTrace_arm (t : Nat) : (l.traceArm t).trState = trArmed ∧
    (l.traceArm t).tr.ring.map (·.data) = [trStamp 2 1 l.b.domBit t] := by
  refine ⟨Blk.num_setNum_same _ _ _, ?_⟩
  have happend : (l.emptyTrace.append [{ data := trStamp 2 1 l.b.domBit t, stamp := true, trigger := false }]).tr.ring =
      [{ data := trStamp 2 1 l.b.domBit t, stamp := true, trigger := false }] := by
    simp only [Leaf.append, Leaf.emptyTrace, List.map_nil, makeRoom, Option.getD_some, List.length_nil, Nat.sub_self, List.drop_nil,
      List.nil_append]
    split <;> rfl
  exact congrArg (List.map (·.data)) happend

theorem Leaf.trigger_marks (source core code t : Nat) : (l.trigger source core code t).trState = trTriggered ∧
    (l.trigger source core code t).b.num K.triggerTime = ns96 t ∧
    (l.trigger source core code t).tr.stopAt = some (t + l.b.num K.stopDelayNs) :=
  ⟨(Blk.num_setNum_ne _ _ (by decide)).trans (Blk.num_setNum_same _ _ _), Blk.num_setNum_same _ _ _, rfl⟩

/-- With a stop delay nothing stops at the trigger's own time. -/
theorem Leaf.stopIfZero_of_delay {x : Leaf} {t d : Nat} (hd : d ≠ 0) (h : x.tr.stopAt = some (t + d)) : x.stopIfZero t = x := by
  rw [Leaf.stopIfZero, h, if_neg]
  intro he
  have := Option.some.inj he
  omega

theorem Leaf.traceAct_trig (t : Nat) (ha : l.trState = trArmed) (hd : l.b.num K.stopDelayNs ≠ 0) :
    l.traceAct 2 t = l.trigger 1 0 0 t := by
  have hok : l.traceStatus 1 2 = stOk := by simp [Leaf.traceStatus, ha]
  rw [Leaf.traceAct, if_neg (by simp [hok])]
  have hnot : ¬ l.trState = trTriggered := by rw [ha]; decide
  exact (if_neg hnot).trans (Leaf.stopIfZero_of_delay hd (Leaf.trigger_marks l 1 0 0 t).2.2)

theorem Leaf.status_traceCommand (src : Word) (view : Nat → Val) (n : Nat) :
    l.status src true view K.traceCommand (.num n) = l.traceStatus (view K.traceAuthorised).toNum n := rfl

/-- A trace command that passes finds the unit in a state that allows it (Table 12.3). -/
theorem Leaf.traceStatus_of_passes {s : State} {n : Nat} (hp : s.passes .leaf K.traceCommand (.num n) = true) :
    ∃ a, s.leaf.traceStatus a n = stOk := by
  simp only [State.passes, Leaf.passes, Bool.and_eq_true, decide_eq_true_eq] at hp
  obtain ⟨view, hchk⟩ := chk_of_rowStatus hp.2
  exact ⟨_, hchk⟩

theorem Leaf.traceAct_arm {s : State} (t : Nat) (hp : s.passes .leaf K.traceCommand (.num 1) = true) (l : Leaf)
    (hl : l.trState = s.leaf.trState) : l.traceAct 1 t = l.traceArm t := by
  obtain ⟨a, ha⟩ := Leaf.traceStatus_of_passes hp
  have hidle : s.leaf.trState = trIdle := by
    refine Decidable.byContradiction fun h => ?_
    simp [Leaf.traceStatus, h] at ha
  rw [Leaf.traceAct, if_neg (by simp [Leaf.traceStatus, hl, hidle])]

theorem Leaf.capturing_of_stop {s : State} (hp : s.passes .leaf K.traceCommand (.num 3) = true) : s.leaf.capturing = true := by
  obtain ⟨a, ha⟩ := Leaf.traceStatus_of_passes hp
  refine Decidable.byContradiction fun h => ?_
  simp only [Leaf.capturing] at h
  simp [Leaf.traceStatus, h] at ha

theorem Leaf.traceAct_stop (t : Nat) (hc : l.capturing = true) : l.traceAct 3 t = l.traceHalt 2 t := by
  have hor : (l.trState == trArmed || l.trState == trTriggered) = true := hc
  have hok : l.traceStatus 1 3 = stOk := by simp only [Leaf.traceStatus, hor, if_true]
  rw [Leaf.traceAct, if_neg (by simp [hok])]

theorem Leaf.idle_of_clear {s : State} (hp : s.passes .leaf K.traceCommand (.num 4) = true) : s.leaf.trState = trIdle := by
  obtain ⟨a, ha⟩ := Leaf.traceStatus_of_passes hp
  refine Decidable.byContradiction fun h => ?_
  simp [Leaf.traceStatus, h] at ha

theorem Leaf.traceAct_clear (t : Nat) (hi : l.trState = trIdle) : l.traceAct 4 t = l.emptyTrace := by
  have hok : l.traceStatus 1 4 = stOk := by simp [Leaf.traceStatus, hi]
  exact if_neg (by simp [hok])

/-- FALSE is written to trace_authorised at time t (R308). -/
def Leaf.deauthorise (l : Leaf) (t : Nat) : Leaf :=
  let l1 := { l with b := l.b.setNum K.traceAuthorised 0 }
  if l.capturing then l1.traceHalt 2 t else l1

theorem Leaf.deauthorise_stops (t : Nat) : (l.deauthorise t).b.num K.traceAuthorised = 0 ∧ (l.deauthorise t).capturing = false := by
  have hstate : ({ l with b := l.b.setNum K.traceAuthorised 0 } : Leaf).trState = l.trState := Blk.num_setNum_ne _ _ (by decide)
  have hcap : ({ l with b := l.b.setNum K.traceAuthorised 0 } : Leaf).capturing = l.capturing := by
    rw [Leaf.capturing, hstate]
    rfl
  simp only [Leaf.deauthorise]
  split
  · next hc =>
    obtain ⟨hidle, -, hnum⟩ := Leaf.traceHalt_halts _ 2 t (hcap.trans hc)
    exact ⟨(hnum _ (by decide)).trans (Blk.num_setNum_same _ _ _), Leaf.capturing_of_idle hidle⟩
  · next hc => exact ⟨Blk.num_setNum_same _ _ _, hcap.trans (Bool.eq_false_iff.mpr hc)⟩

/-- A clear of a unit that is not idle is refused (Table 12.3). -/
theorem rowStatus_clear_refused (hl : l.b.isLeaf = true) (src : Word) (hs : l.trState ≠ trIdle) :
    ∃ x, rowStatus leafEnv l src K.traceCommand (.num 4) = (stWrong, x) := by
  have hwrong (view : Nat → Val) : leafEnv.chk l src true view K.traceCommand (.num 4) = stWrong := by
    refine (Leaf.status_traceCommand l src view 4).trans ?_
    simp [Leaf.traceStatus, hs]
  have hrow : lookup true (K.traceCommand / 256) (K.traceCommand % 256) = .inr ((defOf true K.traceCommand).getD (subZeroDef true 0)) := by
    decide
  refine ⟨.num 4, ?_⟩
  have hblk : (leafEnv.blk l).isLeaf = true := hl
  simp only [rowStatus, hblk, hrow]
  rw [if_neg (by decide)]
  have hacc : accept ((defOf true K.traceCommand).getD (subZeroDef true 0)) true (.num 4) = some (.num 4) := by decide
  simp only [hacc, hwrong]

/-! ### Events at the port (R304, R309) -/

theorem Leaf.takeTrace_idle {d off : Nat} (h : l.capturing = false) : l.takeTrace d off = { l with b := l.b.bump K.beatsIdle } := by
  simp only [Leaf.takeTrace, h, Bool.not_false, if_true]

/-- The intake queue with an event of a beat at offset `off`. -/
def Leaf.queueEvent (l : Leaf) (d off : Nat) : Leaf :=
  { l with tr := { l.tr with cycle := max l.tr.cycle off, queue := l.tr.queue ++ [{
    time := l.eventTime off, steps := l.b.steps, dom := l.b.domBit,
    kind := .event (beatCore d) (bits d 480 8) (bits d 493 3) (bits d 490 3) (beatWord d)
      ((List.range (bits d 490 3)).flatMap (fun j => natLe 8 (beatPayload d j))) }] } }

theorem Leaf.takeTrace_capturing {d off : Nat} (h : l.capturing = true) : l.takeTrace d off =
    (if bit (l.b.num K.privilegeExclude) (bits d 493 3) then { l with b := l.b.bump K.eventsExcluded }
     else if 512 ≤ l.tr.queue.length then
       { l with b := l.b.bump K.eventsLost,
                tr := { l.tr with lost := l.tr.lost + 1, lostAfter := l.tr.lostAfter || l.tr.spent } }
     else if l.trState = trArmed ∧ l.b.trigMatch (beatCore d) (bits d 480 8) then
       (((l.queueEvent d off).trigger 0 (beatCore d) (bits d 480 8) (l.eventTime off)).judgeStall).stopIfZero (l.eventTime off)
     else (l.queueEvent d off).judgeStall) := by
  rw [Leaf.takeTrace]
  exact if_neg (by simp [h])

/-- An event that matches the trigger leaves an armed unit with a stop delay triggered at its time. -/
theorem Leaf.queueEvent_triggers {d off source core code : Nat} (hd : l.b.num K.stopDelayNs ≠ 0) :
    let x := (((l.queueEvent d off).trigger source core code (l.eventTime off)).judgeStall).stopIfZero (l.eventTime off)
    x.trState = trTriggered ∧ x.b.num K.triggerTime = ns96 (l.eventTime off) := by
  obtain ⟨hstate, htime, hstop⟩ := Leaf.trigger_marks (l.queueEvent d off) source core code (l.eventTime off)
  obtain ⟨-, -, hkeep, hsame⟩ := Leaf.judgeStall_keeps ((l.queueEvent d off).trigger source core code (l.eventTime off))
  intro x
  have hx : x = ((l.queueEvent d off).trigger source core code (l.eventTime off)).judgeStall :=
    Leaf.stopIfZero_of_delay hd (hkeep.trans hstop)
  rw [hx]
  exact ⟨hsame.trans hstate, (Leaf.judgeStall_num _ (by decide)).trans htime⟩

/-! ### The writer and the stall (R305, R310, R313) -/

theorem Leaf.writeNext_armed {i : TrItem} {is : List TrItem} (hq : l.tr.queue = i :: is) (h : l.trState = trArmed) :
    l.writeNext.tr.queue = is ∧ l.writeNext.trState = trArmed := by
  have hc : l.capturing = true := by rw [Leaf.capturing, h]; rfl
  obtain ⟨hstate, hqueue⟩ := Leaf.writeItem_armed ({ l with tr := { l.tr with queue := is } }) h i
  obtain ⟨hkeep, -, -, hsame⟩ := Leaf.judgeStall_keeps (({ l with tr := { l.tr with queue := is } } : Leaf).writeItem i)
  simp only [Leaf.writeNext, hq, hc, if_true]
  exact ⟨hkeep.trans hqueue, hsame.trans hstate⟩

theorem Leaf.stallBudget_spends (h : l.tr.stall = true) : l.stallBudget.tr.stall = false ∧ l.stallBudget.tr.spent = true ∧
    .stall false ∈ l.stallBudget.b.out ∧ l.b.counts l.stallBudget.b K.stallBudgetHits := by
  have hnot : ¬ (!l.tr.stall) = true := by simp [h]
  rw [Leaf.stallBudget, if_neg hnot]
  refine ⟨rfl, rfl, List.mem_append_right _ (List.mem_singleton_self _), ?_⟩
  have hcount (b : Blk) : b.counts (b.bump K.stallBudgetHits) K.stallBudgetHits := Blk.counts_bump b _ 1
  have hcycles (n : Nat) : l.b.counts ((l.b.bump K.stallCycles n).bump K.stallBudgetHits) K.stallBudgetHits :=
    Blk.counts_of_num (Blk.num_bump_ne l.b n (by decide)) rfl (hcount _)
  exact hcycles _

end

theorem rowAct_clear_refused {l : Leaf} {src : Word} (htakes : l.b.takes K.traceCommand = true) (hs : l.trState ≠ trIdle)
    (hl : l.b.isLeaf = true) (f : Leaf → Val → Leaf) : rowAct leafEnv l src K.traceCommand (.num 4) f =
      { l with b := ({ l.b with applying := false }).emit (.act K.traceCommand stWrong) } := by
  obtain ⟨x, hx⟩ := rowStatus_clear_refused { l with b := { l.b with applying := true } } hl src hs
  have htakes' : ¬ (!(leafEnv.blk l).takes K.traceCommand) = true := by
    simp only [show (leafEnv.blk l).takes K.traceCommand = true from htakes]
    decide
  have hx' : rowStatus leafEnv (leafEnv.upd l (fun b => { b with applying := true })) src K.traceCommand (.num 4) = (stWrong, x) := hx
  simp only [rowAct, if_neg htakes', hx', if_neg (show ¬ stWrong = stOk by decide)]
  rfl

theorem exec_traceClear_refused {s : State} (htakes : s.leaf.b.takes K.traceCommand = true) (hs : s.leaf.trState ≠ trIdle)
    (hl : s.leaf.b.isLeaf = true) :
    Runs .traceClear s (fun u => .act K.traceCommand stWrong ∈ u.leaf.b.out ∧ u.leaf.tr = s.leaf.tr) := by
  have hown := State.onLeaf_own s (fun l => rowAct leafEnv l (chanAddr s.leaf.b.inUse) K.traceCommand (.num 4)
    (fun l _ => l.traceAct 4 l.nowTime))
  have hout := State.onLeaf_out s (fun l => rowAct leafEnv l (chanAddr s.leaf.b.inUse) K.traceCommand (.num 4)
    (fun l _ => l.traceAct 4 l.nowTime))
  simp only [rowAct_clear_refused htakes hs hl] at hown hout
  have htr := Leaf.tr_of_own hown
  exact ⟨_, rfl, hout.subset (List.mem_append_right _ (List.mem_singleton_self _)), htr⟩

end Sys2Proof.Machine

open Sys2Proof Sys2Proof.Machine

/-- Settles O27: a command that passes finds the state that Table 12.3 asks for, and is its act. -/
theorem traceCommands : Obligations.TraceCommands := by
  unfold Obligations.TraceCommands
  refine fun s t => ⟨fun hp => ?_, fun hp ha hd => ?_, fun hp => ?_, fun hp => ?_, fun hp => ?_, fun htakes hs hl => ?_⟩
  · have hown := State.leafOwn_own (fun l _ => l.traceAct 1 (t96ns t.toNat)) hp
    rw [Leaf.traceAct_arm _ hp { s.leaf with b := { s.leaf.b with applying := true } } rfl] at hown
    obtain ⟨hstate, hring⟩ := Leaf.emptyTrace_arm { s.leaf with b := { s.leaf.b with applying := true } } (t96ns t.toNat)
    exact ⟨_, rfl, (Leaf.num_of_own hown _).trans hstate,
      (congrArg (fun x : Trace => x.ring.map (·.data)) (Leaf.tr_of_own hown)).trans hring⟩
  · have hown := State.leafOwn_own (fun l _ => l.traceAct 2 (t96ns t.toNat)) hp
    rw [Leaf.traceAct_trig { s.leaf with b := { s.leaf.b with applying := true } } _ ha hd] at hown
    obtain ⟨hstate, htime, hstop⟩ :=
      Leaf.trigger_marks { s.leaf with b := { s.leaf.b with applying := true } } 1 0 0 (t96ns t.toNat)
    exact ⟨_, rfl, (Leaf.num_of_applied _ hown _).trans hstate, (Leaf.num_of_applied _ hown _).trans htime,
      (congrArg Trace.stopAt (Leaf.tr_of_own hown)).trans hstop⟩
  · have hown := State.leafOwn_own (fun l _ => l.traceAct 3 (t96ns t.toNat)) hp
    have hc : ({ s.leaf with b := { s.leaf.b with applying := true } } : Leaf).capturing = true := Leaf.capturing_of_stop hp
    rw [Leaf.traceAct_stop _ _ hc] at hown
    obtain ⟨hstate, hqueue, -⟩ := Leaf.traceHalt_halts _ 2 (t96ns t.toNat) hc
    exact ⟨_, rfl, (Leaf.num_of_own hown _).trans hstate, (congrArg Trace.queue (Leaf.tr_of_own hown)).trans hqueue⟩
  · have hown := State.leafOwn_own (fun l _ => l.traceAct 4 l.nowTime) hp
    rw [Leaf.traceAct_clear { s.leaf with b := { s.leaf.b with applying := true } } _ (Leaf.idle_of_clear hp)] at hown
    have hring := congrArg Trace.ring (Leaf.tr_of_own hown)
    have hqueue := congrArg Trace.queue (Leaf.tr_of_own hown)
    have hstate := Leaf.num_of_own hown K.traceState
    exact ⟨_, rfl, hring, hqueue, hstate⟩
  · have hown := State.leafOwn_own (fun l _ => l.deauthorise (t96ns t.toNat)) hp
    obtain ⟨hnum, hstops⟩ := Leaf.deauthorise_stops { s.leaf with b := { s.leaf.b with applying := true } } (t96ns t.toNat)
    refine ⟨_, rfl, (Leaf.num_of_own hown _).trans hnum, ?_⟩
    rw [← hstops]
    exact congrArg (fun x => x == trArmed || x == trTriggered) (Leaf.num_of_own hown _)
  · exact exec_traceClear_refused htakes hs hl

/-- Settles O28: an event by the equation of the port, the writer and the stall by their laws. -/
theorem traceRecordsAreWritten : Obligations.TraceRecordsAreWritten := by
  unfold Obligations.TraceRecordsAreWritten
  refine ⟨fun s d off h => ?_, fun s hw => ⟨fun i is hp hq ha => ?_, fun x hp hstop htrig => ?_, fun hstall => ?_⟩⟩
  · obtain ⟨-, hleaf⟩ := Leaf.takeBeat_admitted h
    have hown := State.onLeaf_own s (fun l => l.takeBeat d.toNat off.toNat)
    rw [hleaf, if_neg (by decide), if_neg (by decide), if_neg (by decide)] at hown
    refine ⟨fun hidle => ?_, fun hc => ⟨fun hex => ?_, fun hex hfull => ?_, fun hex hroom => ⟨fun hno => ?_, fun ha hmatch hd => ?_⟩⟩⟩
    · rw [Leaf.takeTrace_idle (s.leaf.tookBeat off.toNat) hidle] at hown
      have htr := Leaf.tr_of_own hown
      exact ⟨_, rfl, Leaf.counts_of_own (Blk.counts_bump s.leaf.b _ 1) hown, htr⟩
    · rw [Leaf.takeTrace_capturing (s.leaf.tookBeat off.toNat) hc, if_pos (show bit ((s.leaf.tookBeat off.toNat).b.num K.privilegeExclude) (bits d.toNat 493 3) = true from hex)] at hown
      have htr := Leaf.tr_of_own hown
      exact ⟨_, rfl, Leaf.counts_of_own (Blk.counts_bump s.leaf.b _ 1) hown, htr⟩
    · rw [Leaf.takeTrace_capturing (s.leaf.tookBeat off.toNat) hc, if_neg (show ¬ bit ((s.leaf.tookBeat off.toNat).b.num K.privilegeExclude) (bits d.toNat 493 3) = true from
        Bool.eq_false_iff.mp hex), if_pos (show 512 ≤ (s.leaf.tookBeat off.toNat).tr.queue.length from hfull)] at hown
      have hlost := congrArg Trace.lost (Leaf.tr_of_own hown)
      exact ⟨_, rfl, Leaf.counts_of_own (Blk.counts_bump s.leaf.b _ 1) hown, hlost⟩
    · have hnot : ¬ ((s.leaf.tookBeat off.toNat).trState = trArmed ∧
          (s.leaf.tookBeat off.toNat).b.trigMatch (beatCore d.toNat) (bits d.toNat 480 8) = true) := by
        rintro ⟨ha, hm⟩
        rcases hno with hno | hno
        · exact hno ha
        · exact Bool.false_ne_true (hno.symm.trans hm)
      rw [Leaf.takeTrace_capturing (s.leaf.tookBeat off.toNat) hc, if_neg (show ¬ bit ((s.leaf.tookBeat off.toNat).b.num K.privilegeExclude) (bits d.toNat 493 3) = true from
        Bool.eq_false_iff.mp hex), if_neg (show ¬ 512 ≤ (s.leaf.tookBeat off.toNat).tr.queue.length from Nat.not_le.mpr hroom),
        if_neg hnot] at hown
      have hqueue := (congrArg Trace.queue (Leaf.tr_of_own hown)).trans (Leaf.judgeStall_keeps _).1
      exact ⟨_, rfl, _, hqueue, rfl, rfl⟩
    · have hyes : (s.leaf.tookBeat off.toNat).trState = trArmed ∧
          (s.leaf.tookBeat off.toNat).b.trigMatch (beatCore d.toNat) (bits d.toNat 480 8) = true := ⟨ha, hmatch⟩
      rw [Leaf.takeTrace_capturing (s.leaf.tookBeat off.toNat) hc, if_neg (show ¬ bit ((s.leaf.tookBeat off.toNat).b.num K.privilegeExclude) (bits d.toNat 493 3) = true from
        Bool.eq_false_iff.mp hex), if_neg (show ¬ 512 ≤ (s.leaf.tookBeat off.toNat).tr.queue.length from Nat.not_le.mpr hroom),
        if_pos hyes] at hown
      obtain ⟨hstate, htime⟩ := Leaf.queueEvent_triggers (s.leaf.tookBeat off.toNat) (d := d.toNat) (off := off.toNat) (source := 0)
        (core := beatCore d.toNat) (code := bits d.toNat 480 8) hd
      exact ⟨_, rfl, (Leaf.num_of_own hown _).trans hstate, (Leaf.num_of_own hown _).trans htime⟩
  · have hown := State.leafWork_own s (fun l => if l.b.num K.powerStateNow < 2 then l.writeNext else l) hw
    rw [if_pos hp] at hown
    obtain ⟨hqueue, hstate⟩ := Leaf.writeNext_armed s.leaf hq ha
    exact ⟨_, rfl, (congrArg Trace.queue (Leaf.tr_of_own hown)).trans hqueue, (Leaf.num_of_own hown _).trans hstate⟩
  · have hown := State.leafWork_own s (fun l => if l.b.num K.powerStateNow < 2 then l.stopInstant else l) hw
    have hc : s.leaf.capturing = true := by rw [Leaf.capturing, htrig]; rfl
    simp only [if_pos hp, Leaf.stopInstant, hstop, if_pos htrig] at hown
    obtain ⟨hstate, hqueue, -⟩ := Leaf.traceHalt_halts s.leaf 0 x hc
    exact ⟨_, rfl, (Leaf.num_of_own hown _).trans hstate, (congrArg Trace.queue (Leaf.tr_of_own hown)).trans hqueue⟩
  · obtain ⟨hfall, hspent, hemit, hcount⟩ := Leaf.stallBudget_spends s.leaf hstall
    have hown := State.leafWork_own s Leaf.stallBudget hw
    have hout := State.onLeaf_out s Leaf.stallBudget
    refine ⟨_, rfl, (congrArg Trace.stall (Leaf.tr_of_own hown)).trans hfall, (congrArg Trace.spent (Leaf.tr_of_own hown)).trans hspent,
      ?_, Leaf.counts_of_own hcount hown⟩
    rw [State.leafWork, if_pos hw]
    exact hout.subset hemit

end


section
/-! PROOF. The commands of the leaf's own units hand its home channel nothing: the notices, the stores and the transactions that the
leaf keeps for it stand as they were (O19). -/

namespace Sys2Proof.Machine

/-- Two leaves hold the same for their home channel. -/
abbrev Leaf.Hands (a b : Leaf) : Prop := a.notices = b.notices ∧ a.stores = b.stores ∧ a.currents = b.currents

theorem Leaf.Hands.handed {a b : Leaf} (h : a.Hands b) : a.handed = b.handed := by
  obtain ⟨hn, hs, hc⟩ := h
  simp only [Leaf.handed, hn, hs, hc]

section
variable {p : Prop} [Decidable p]

@[simp] theorem ite_Leaf_notices (x y : Leaf) : (if p then x else y).notices = if p then x.notices else y.notices := by split <;> rfl
@[simp] theorem ite_Leaf_stores (x y : Leaf) : (if p then x else y).stores = if p then x.stores else y.stores := by split <;> rfl
@[simp] theorem ite_Leaf_currents (x y : Leaf) : (if p then x else y).currents = if p then x.currents else y.currents := by split <;> rfl

end

section
variable {α : Type}

@[simp] theorem foldl_Leaf_notices (g : Leaf → α → Leaf) (l : List α) (x : Leaf) (h : ∀ x a, (g x a).notices = x.notices) :
    (l.foldl g x).notices = x.notices := by
  induction l generalizing x with
  | nil => rfl
  | cons a l ih => rw [List.foldl_cons, ih, h]

@[simp] theorem foldl_Leaf_stores (g : Leaf → α → Leaf) (l : List α) (x : Leaf) (h : ∀ x a, (g x a).stores = x.stores) :
    (l.foldl g x).stores = x.stores := by
  induction l generalizing x with
  | nil => rfl
  | cons a l ih => rw [List.foldl_cons, ih, h]

@[simp] theorem foldl_Leaf_currents (g : Leaf → α → Leaf) (l : List α) (x : Leaf) (h : ∀ x a, (g x a).currents = x.currents) :
    (l.foldl g x).currents = x.currents := by
  induction l generalizing x with
  | nil => rfl
  | cons a l ih => rw [List.foldl_cons, ih, h]

theorem Leaf.foldl_fst_hands {β : Type} (g : Leaf × β → α → Leaf × β) (l : List α) (x : Leaf × β) (y : Leaf)
    (h : ∀ x a, (g x a).1.Hands x.1) (h0 : x.1.Hands y) : (l.foldl g x).1.Hands y := by
  induction l generalizing x with
  | nil => exact h0
  | cons a l ih =>
    rw [List.foldl_cons]
    exact ih _ (by simp [Leaf.Hands, h, h0])

end

@[simp] theorem Leaf.judgeCores_hands (l : Leaf) : (Leaf.judgeCores l).Hands l := by
  simp [Leaf.Hands, Leaf.judgeCores]

@[simp] theorem Leaf.takeCounter_hands (l : Leaf) (core : Nat) (ctr : Nat) (v : Nat) : (Leaf.takeCounter l core ctr v).Hands l := by
  simp [Leaf.Hands, Leaf.takeCounter]

@[simp] theorem Leaf.takeCounters_hands (l : Leaf) (d : Nat) : (Leaf.takeCounters l d).Hands l := by
  simp [Leaf.Hands, Leaf.takeCounters]

@[simp] theorem Leaf.takeBarrier_hands (l : Leaf) (d : Nat) (off : Nat) : (Leaf.takeBarrier l d off).Hands l := by
  simp [Leaf.Hands, Leaf.takeBarrier]

@[simp] theorem Leaf.ruleIn_hands (l : Leaf) (f : Nat) (code : Nat) (arg : Nat) (payload : List Byte) : (Leaf.ruleIn l f code arg payload).Hands l := by
  simp [Leaf.Hands, Leaf.ruleIn]

@[simp] theorem Leaf.fault_hands (l : Leaf) (f : Nat) (kind : Nat) (locKind : Nat) (loc : Nat) (at_ : Nat) (detail : Nat) : (Leaf.fault l f kind locKind loc at_ detail).Hands l := by
  simp [Leaf.Hands, Leaf.fault]

@[simp] theorem Leaf.ackFailure_hands (l : Leaf) (c : Nat) : (Leaf.ackFailure l c).Hands l := by
  simp [Leaf.Hands, Leaf.ackFailure]

@[simp] theorem Leaf.ackChange_hands (l : Leaf) (c : Nat) (v : Bool) : (Leaf.ackChange l c v).Hands l := by
  simp [Leaf.Hands, Leaf.ackChange]

@[simp] theorem Leaf.ackTimeout_hands (l : Leaf) (c : Nat) : (Leaf.ackTimeout l c).Hands l := by
  simp [Leaf.Hands, Leaf.ackTimeout]

@[simp] theorem Leaf.commitLost_hands (l : Leaf) (a : Nat) (cs : List Nat) : (Leaf.commitLost l a cs).Hands l := by
  simp [Leaf.Hands, Leaf.commitLost]

@[simp] theorem Leaf.enforce_hands (l : Leaf) : (Leaf.enforce l).Hands l := by
  simp only [Leaf.enforce]
  split
  · simp [Leaf.Hands]
  · refine Leaf.foldl_fst_hands _ _ _ _ ?_ ?_
    · intro x a; simp [Leaf.Hands]
    · simp [Leaf.Hands]

@[simp] theorem Leaf.coreLost_hands (l : Leaf) (c : Nat) : (Leaf.coreLost l c).Hands l := by
  unfold Leaf.coreLost; (repeat' split) <;> simp [Leaf.Hands]

@[simp] theorem Leaf.retryLost_hands (l : Leaf) : (Leaf.retryLost l).Hands l := by
  simp [Leaf.Hands, Leaf.retryLost]

@[simp] theorem Leaf.regionReading_hands (l : Leaf) (r : Nat) (kind : Nat) (v : Nat) : (Leaf.regionReading l r kind v).Hands l := by
  simp [Leaf.Hands, Leaf.regionReading]

@[simp] theorem Leaf.regionMismatch_hands (l : Leaf) (r : Nat) : (Leaf.regionMismatch l r).Hands l := by
  simp [Leaf.Hands, Leaf.regionMismatch]

@[simp] theorem Leaf.settleEnd_hands (l : Leaf) (r : Nat) : (Leaf.settleEnd l r).Hands l := by
  unfold Leaf.settleEnd; (repeat' split) <;> simp [Leaf.Hands]

@[simp] theorem Leaf.presentRegion_hands (l : Leaf) : (Leaf.presentRegion l).Hands l := by
  unfold Leaf.presentRegion; (repeat' split) <;> simp [Leaf.Hands]

@[simp] theorem Leaf.regionAck_hands (l : Leaf) : (Leaf.regionAck l).Hands l := by
  simp [Leaf.Hands, Leaf.regionAck]

@[simp] theorem Leaf.regionTimeout_hands (l : Leaf) : (Leaf.regionTimeout l).Hands l := by
  unfold Leaf.regionTimeout; (repeat' split) <;> simp [Leaf.Hands]

@[simp] theorem Leaf.takeChecksum_hands (l : Leaf) (d : Nat) (off : Nat) : (Leaf.takeChecksum l d off).Hands l := by
  simp [Leaf.Hands, Leaf.takeChecksum]

@[simp] theorem Leaf.decideBeat_hands (l : Leaf) (f : Nat) (off : Nat) (d : Nat) (fenced : Bool) : (Leaf.decideBeat l f off d fenced).Hands l := by
  simp [Leaf.Hands, Leaf.decideBeat]

@[simp] theorem Leaf.reachMark_hands (l : Leaf) (f : Nat) (s : TsSet) (relearn : Nat) : (Leaf.reachMark l f s relearn).Hands l := by
  simp [Leaf.Hands, Leaf.reachMark]

@[simp] theorem Leaf.decideOne_hands (l : Leaf) : (Leaf.decideOne l).Hands l := by
  unfold Leaf.decideOne; (repeat' split) <;> simp [Leaf.Hands]

@[simp] theorem Leaf.passMarks_hands (a0 : Nat) (a1 : Leaf) : (Leaf.passMarks a0 a1).Hands a1 := by
  fun_induction Leaf.passMarks a0 a1 <;> simp_all [Leaf.Hands]

@[simp] theorem Leaf.decideNext_hands (l : Leaf) : (Leaf.decideNext l).Hands l := by
  simp [Leaf.Hands, Leaf.decideNext]

@[simp] theorem Leaf.decideThrough_hands (f : Nat) (a1 : Nat) (a2 : Leaf) : (Leaf.decideThrough f a1 a2).Hands a2 := by
  fun_induction Leaf.decideThrough f a1 a2 <;> simp_all [Leaf.Hands]

@[simp] theorem Leaf.touchReports_hands (l : Leaf) (x : TsFrame) : (Leaf.touchReports l x).Hands l := by
  simp [Leaf.Hands, Leaf.touchReports]

@[simp] theorem Leaf.sealTouch_hands (l : Leaf) (f : Nat) : (Leaf.sealTouch l f).2.Hands l := by
  simp only [Leaf.sealTouch]; (repeat' split) <;> simp [Leaf.Hands]

@[simp] theorem Leaf.damage_hands (l : Leaf) (id : Nat) : (Leaf.damage l id).Hands l := by
  simp [Leaf.Hands, Leaf.damage]

@[simp] theorem Leaf.weightBeat_hands (l : Leaf) (data : Nat) (tensor : Nat) (word : Nat) (count : Nat) (epoch : Nat) : (Leaf.weightBeat l data tensor word count epoch).Hands l := by
  simp [Leaf.Hands, Leaf.weightBeat]

@[simp] theorem Leaf.enterPass_hands (l : Leaf) (e : TensorEntry) (f : Nat) (t : Tensor) (incomplete : Bool) : (Leaf.enterPass l e f t incomplete).Hands l := by
  simp [Leaf.Hands, Leaf.enterPass]

@[simp] theorem Leaf.passDone_hands (l : Leaf) (e : TensorEntry) (f : Nat) : (Leaf.passDone l e f).Hands l := by
  simp only [Leaf.passDone]; (repeat' split) <;> simp [Leaf.Hands]

@[simp] theorem Leaf.accumulate_hands (e : TensorEntry) (f : Nat) (a2 : Nat) (a3 : Leaf) (a4 : Nat) (a5 : List Nat) : (Leaf.accumulate e f a2 a3 a4 a5).Hands a3 := by
  fun_induction Leaf.accumulate e f a2 a3 a4 a5 with
  | case1 | case2 | case3 => exact ⟨rfl, rfl, rfl⟩
  | case4 fuel l i ws _ t room now t1 l1 _ ih =>
    obtain ⟨hn, hs, hc⟩ : (l1.passDone e f).Hands l := Leaf.passDone_hands l1 e f
    exact ⟨ih.1.trans hn, ih.2.1.trans hs, ih.2.2.trans hc⟩

@[simp] theorem Leaf.newEpoch_hands (l : Leaf) (e : TensorEntry) (f : Nat) (epoch : Nat) : (Leaf.newEpoch l e f epoch).Hands l := by
  simp [Leaf.Hands, Leaf.newEpoch]

@[simp] theorem Leaf.digestBeat_hands (l : Leaf) (w : WBeat) : (Leaf.digestBeat l w).Hands l := by
  simp only [Leaf.digestBeat]; (repeat' split) <;> simp [Leaf.Hands]

@[simp] theorem Leaf.digestNext_hands (l : Leaf) : (Leaf.digestNext l).Hands l := by
  unfold Leaf.digestNext; (repeat' split) <;> simp [Leaf.Hands]

@[simp] theorem Leaf.takeAssay_hands (l : Leaf) (f : Nat) : (Leaf.takeAssay l f).2.Hands l := by
  simp [Leaf.Hands, Leaf.takeAssay]

@[simp] theorem Leaf.append_hands (l : Leaf) (rs : List TrRec) : (Leaf.append l rs).Hands l := by
  simp [Leaf.Hands, Leaf.append]

@[simp] theorem Leaf.stallFall_hands (l : Leaf) (upTo : Nat) : (Leaf.stallFall l upTo).Hands l := by
  simp [Leaf.Hands, Leaf.stallFall]

@[simp] theorem Leaf.judgeStall_hands (l : Leaf) : (Leaf.judgeStall l).Hands l := by
  simp [Leaf.Hands, Leaf.judgeStall]

@[simp] theorem Leaf.traceIdle_hands (l : Leaf) : (Leaf.traceIdle l).Hands l := by
  simp [Leaf.Hands, Leaf.traceIdle]

@[simp] theorem Leaf.put_hands (l : Leaf) (rs : List TrRec) (base steps : Nat) : (Leaf.put l rs base steps).Hands l := by
  simp [Leaf.Hands, Leaf.put]

@[simp] theorem Leaf.put1_hands (l : Leaf) (time steps dom : Nat) (mk : Nat → List Byte) (trigger : Bool) :
    (Leaf.put1 l time steps dom mk trigger).Hands l := by
  simp [Leaf.Hands, Leaf.put1]

@[simp] theorem Leaf.putStop_hands (l : Leaf) (k time steps dom : Nat) : (Leaf.putStop l k time steps dom).Hands l := by
  simp [Leaf.Hands, Leaf.putStop]

@[simp] theorem Leaf.place_hands (l : Leaf) (time steps dom : Nat) (mk : Nat → List Byte) (trigger : Bool) : (Leaf.place l time steps dom mk trigger).Hands l := by
  simp [Leaf.Hands, Leaf.place]

@[simp] theorem Leaf.writeItem_hands (l : Leaf) (i : TrItem) : (Leaf.writeItem l i).Hands l := by
  simp only [Leaf.writeItem]; (repeat' split) <;> simp [Leaf.Hands]

@[simp] theorem Leaf.writeNext_hands (l : Leaf) : (Leaf.writeNext l).Hands l := by
  unfold Leaf.writeNext; (repeat' split) <;> simp [Leaf.Hands]

@[simp] theorem Leaf.writeThrough_hands (t : Nat) (a1 : List TrItem) (a2 : Leaf) : (Leaf.writeThrough t a1 a2).Hands a2 := by
  fun_induction Leaf.writeThrough t a1 a2 <;> simp_all [Leaf.Hands]

@[simp] theorem Leaf.traceHalt_hands (l : Leaf) (k t : Nat) : (Leaf.traceHalt l k t).Hands l := by
  simp only [Leaf.traceHalt]; (repeat' split) <;> simp [Leaf.Hands]

@[simp] theorem Leaf.trigger_hands (l : Leaf) (source : Nat) (core : Nat) (code : Nat) (t : Nat) : (Leaf.trigger l source core code t).Hands l := by
  simp [Leaf.Hands, Leaf.trigger]

@[simp] theorem Leaf.stopIfZero_hands (l : Leaf) (t : Nat) : (Leaf.stopIfZero l t).Hands l := by
  simp [Leaf.Hands, Leaf.stopIfZero]

@[simp] theorem Leaf.takeTrace_hands (l : Leaf) (d : Nat) (off : Nat) : (Leaf.takeTrace l d off).Hands l := by
  simp [Leaf.Hands, Leaf.takeTrace]

@[simp] theorem Leaf.stopInstant_hands (l : Leaf) : (Leaf.stopInstant l).Hands l := by
  unfold Leaf.stopInstant; (repeat' split) <;> simp [Leaf.Hands]

@[simp] theorem Leaf.stallBudget_hands (l : Leaf) : (Leaf.stallBudget l).Hands l := by
  simp [Leaf.Hands, Leaf.stallBudget]

@[simp] theorem Leaf.takeReports_hands (l : Leaf) (f : Nat) : (Leaf.takeReports l f).2.2.Hands l := by
  simp [Leaf.Hands, Leaf.takeReports]

@[simp] theorem Leaf.sendPacket_hands (l : Leaf) (h : PktHdr) (secs : List (List Byte)) : (Leaf.sendPacket l h secs).Hands l := by
  simp [Leaf.Hands, Leaf.sendPacket]

@[simp] theorem Leaf.sealDraft_hands (l : Leaf) : (Leaf.sealDraft l).Hands l := by
  unfold Leaf.sealDraft; (repeat' split) <;> simp [Leaf.Hands]

@[simp] theorem Leaf.sectionSeal_hands (l : Leaf) : (Leaf.sectionSeal l).Hands l := by
  simp [Leaf.Hands, Leaf.sectionSeal]

@[simp] theorem Leaf.asleepBeat_hands (l : Leaf) (d : Nat) : (Leaf.asleepBeat l d).Hands l := by
  unfold Leaf.asleepBeat; split <;> simp [Leaf.Hands]

@[simp] theorem Leaf.takeBeat_hands (l : Leaf) (d : Nat) (off : Nat) : (Leaf.takeBeat l d off).Hands l := by
  simp [Leaf.Hands, Leaf.takeBeat]

/-- A unit's command that hands the leaf's home channel nothing moves nothing beside the leaf. -/
theorem State.onLeaf_beside_of_hands (s : State) (f : Leaf → Leaf) (h : (f s.leaf).Hands s.leaf) (hs : s.leaf.handed = true) :
    State.besideLeaf s (s.onLeaf f) := State.onLeaf_beside s f (h.handed.trans hs)

theorem State.leafWork_beside_of_hands (s : State) (f : Leaf → Leaf) (h : (f s.leaf).Hands s.leaf) (hs : s.leaf.handed = true) :
    State.besideLeaf s (s.leafWork f) := State.leafWork_beside s f (h.handed.trans hs)

/-- A trace unit that is gated in L2 hands nothing either way. -/
theorem Leaf.gated_hands (l : Leaf) (f : Leaf → Leaf) (h : (f l).Hands l) :
    (if l.b.num K.powerStateNow < 2 then f l else l).Hands l := by
  split
  · exact h
  · exact ⟨rfl, rfl, rfl⟩

end Sys2Proof.Machine

open Sys2Proof Sys2Proof.Machine

/-- Settles O19: each command of a unit acts on the leaf through a function that hands the home channel nothing. -/
theorem leafUnitsStayInTheLeaf : Obligations.LeafUnitsStayInTheLeaf := by
  intro s i hi hs
  have sampled : ∀ d off, State.besideLeaf s (s.onLeaf (fun l => l.takeBeat d off)) := fun d off =>
    State.onLeaf_beside_of_hands s _ (Leaf.takeBeat_hands _ d off) hs
  have works : ∀ f : Leaf → Leaf, (f s.leaf).Hands s.leaf → State.besideLeaf s (s.leafWork f) := fun f h =>
    State.leafWork_beside_of_hands s f h hs
  cases i with
  | counterRecord d off => exact ⟨_, rfl, sampled _ _⟩
  | barrierEvent d off => exact ⟨_, rfl, sampled _ _⟩
  | checksumWord d off => exact ⟨_, rfl, sampled _ _⟩
  | traceEvent d off => exact ⟨_, rfl, sampled _ _⟩
  | coreLost c => exact ⟨_, rfl, works _ (Leaf.coreLost_hands _ _)⟩
  | lostTxnRetry => exact ⟨_, rfl, works _ (Leaf.retryLost_hands _)⟩
  | fenceAckTimeout c => exact ⟨_, rfl, works _ (Leaf.ackTimeout_hands _ _)⟩
  | fncAckChange c v => exact ⟨_, rfl, works _ (Leaf.ackChange_hands _ _ _)⟩
  | regionReading r kind v => exact ⟨_, rfl, works _ (Leaf.regionReading_hands _ _ _ _)⟩
  | regionRequestPresent => exact ⟨_, rfl, works _ (Leaf.presentRegion_hands _)⟩
  | regionReqAck => exact ⟨_, rfl, works _ (Leaf.regionAck_hands _)⟩
  | regionReqTimeout => exact ⟨_, rfl, works _ (Leaf.regionTimeout_hands _)⟩
  | regionMismatch r => exact ⟨_, rfl, works _ (Leaf.regionMismatch_hands _ _)⟩
  | regionSettleEnd r => exact ⟨_, rfl, works _ (Leaf.settleEnd_hands _ _)⟩
  | tsBeatDecide => exact ⟨_, rfl, works _ (Leaf.decideNext_hands _)⟩
  | tsSectionSeal => exact ⟨_, rfl, works _ (Leaf.sectionSeal_hands _)⟩
  | weightTapBeat data tensor word count epoch => exact ⟨_, rfl, works _ (Leaf.weightBeat_hands _ _ _ _ _ _)⟩
  | assayBeatDigest => exact ⟨_, rfl, works _ (Leaf.digestNext_hands _)⟩
  | traceRecordWrite => exact ⟨_, rfl, works _ (Leaf.gated_hands _ _ (Leaf.writeNext_hands _))⟩
  | traceStopInstant => exact ⟨_, rfl, works _ (Leaf.gated_hands _ _ (Leaf.stopInstant_hands _))⟩
  | stallBudgetExpire => exact ⟨_, rfl, works _ (Leaf.stallBudget_hands _)⟩
  | _ => exact absurd hi Bool.false_ne_true

end


section
/-! PROOF. What a command leaves of a channel, read field by field, and the keys of assay that it compares and closes (O29). -/

namespace Sys2Proof.Machine

/-! ### A channel after a command -/

/-- A part of a channel that no command's surroundings touch is what the command left. -/
theorem Chan.of_own {α : Type} (f : Chan → α) (hf : ∀ c, f c.own = f c) {a b : Chan} (h : a.own = b.own) : f a = f b := by
  rw [← hf a, h, hf]

theorem Chan.blk_own_of_own {a b : Chan} (h : a.own = b.own) : a.b.own = b.b.own := by
  have hb : a.own.b = b.own.b := by rw [h]
  exact hb

theorem Chan.num_of_own {a b : Chan} (h : a.own = b.own) {k : Nat} (hk : isFaultKey k = false) : a.b.num k = b.b.num k :=
  Blk.num_of_own (Chan.blk_own_of_own h) hk

theorem Chan.bytes_of_own {a b : Chan} (h : a.own = b.own) {k : Nat} (hk : isFaultKey k = false) : a.b.bytes k = b.b.bytes k :=
  Blk.bytes_of_own (Chan.blk_own_of_own h) hk

/-- A counter that a command has advanced has counted. -/
theorem Chan.counts_of_num {x y : Chan} {b : Blk} {k n : Nat} (ho : y.own = x.own) (hk : isFaultKey k = false)
    (h : x.b.num k = (b.bump k n).num k) : b.counts y.b k n := by
  have hb : b.counts (b.bump k n) k n := Blk.counts_bump b k n
  rw [Blk.counts] at hb ⊢
  rw [Chan.num_of_own ho hk, h, hb]

@[simp] theorem Chan.onB_applying_num (c : Chan) (v : Bool) (k : Nat) :
    (c.onB (fun b => { b with applying := v })).b.num k = c.b.num k := rfl

@[simp] theorem Chan.onB_applying_bytes (c : Chan) (v : Bool) (k : Nat) :
    (c.onB (fun b => { b with applying := v })).b.bytes k = c.b.bytes k := rfl

/-- What every step of a fold keeps, the fold keeps. -/
theorem foldl_keeps {α β γ : Type} (f : β → γ) (g : β → α → β) (h : ∀ x a, f (g x a) = f x) (l : List α) (x : β) :
    f (l.foldl g x) = f x := by
  induction l generalizing x with
  | nil => rfl
  | cons a l ih => rw [List.foldl_cons, ih, h]

/-! ### The keys of assay (R170 to R172) -/

/-- What the comparison of a key leaves alone: the keys, those closed, and the count of the comparisons. -/
def Chan.keyView (c : Chan) : List AKey × List (Nat × Nat × Nat) × Nat := (c.asy.keys, c.asy.closed, c.b.num K.keysCompared)

@[simp] theorem Chan.keyView_ruleIn (c : Chan) (code node arg : Nat) (p : List Byte) : (c.ruleIn code node arg p).keyView = c.keyView := rfl

@[simp] theorem Chan.keyView_fault (c : Chan) (kind lk loc f d : Nat) : (c.fault kind lk loc f d).keyView = c.keyView := rfl

theorem Chan.keyView_bump (c : Chan) {k : Nat} (h : K.keysCompared ≠ k) : (c.onB (·.bump k)).keyView = c.keyView := by
  simp only [Chan.keyView, Chan.onB, Blk.num_bump_ne _ _ h]

theorem Chan.keyView_compareSide (k : AKey) (words replicas : Nat) (c : Chan) (side : Nat) :
    (Chan.compareSide k words replicas c side).keyView = c.keyView := by
  unfold Chan.compareSide
  extract_lets full digest votes
  split
  · rfl
  · split
    · refine (foldl_keeps Chan.keyView _ (fun x a => ?_) _ _).trans (Chan.keyView_bump c (k := K.splits) (by decide))
      exact Chan.keyView_ruleIn x _ _ _ _
    · dsimp only
      split
      · exact Chan.keyView_bump c (k := K.sidesAgreed) (by decide)
      · refine foldl_keeps Chan.keyView _ (fun x a => ?_) _ _
        exact Chan.keyView_bump x (k := K.divergences) (by decide)

theorem Chan.keyView_compareTransit (k : AKey) (words replicas : Nat) (c : Chan) :
    (Chan.compareTransit k words replicas c).keyView = c.keyView := by
  refine foldl_keeps Chan.keyView _ (fun x a => ?_) _ _
  exact Chan.keyView_bump x (k := K.transits) (by decide)

theorem Chan.keyView_raiseIncomplete (c : Chan) (k : AKey) (miss : List Nat) : (c.raiseIncomplete k miss).keyView = c.keyView := by
  simp only [Chan.raiseIncomplete]
  refine (foldl_keeps Chan.keyView _ (fun x a => ?_) _ _).trans (Chan.keyView_bump c (k := K.incompletes) (by decide))
  exact Chan.keyView_ruleIn x _ _ _ _

theorem Chan.keyView_raiseMissing (c : Chan) (k : AKey) (replicas : Nat) : (c.raiseMissing k replicas).keyView = c.keyView := by
  simp only [Chan.raiseMissing]
  split
  · rfl
  · exact Chan.keyView_raiseIncomplete c k _

/-- A channel that has compared a key at the end of its window, before it closes it. -/
def Chan.comparedAt (c : Chan) (k : AKey) : Chan :=
  let replicas := (c.group k.group).2.1
  let words := c.tensorWords k.tensor
  (Chan.compareTransit k words replicas ([0, 1].foldl (Chan.compareSide k words replicas) (c.onB (·.bump K.keysCompared)))).raiseMissing
    k replicas

theorem Chan.compareKey_eq (c : Chan) (k : AKey) : c.compareKey k true =
    ((c.comparedAt k).closeKey k).onB (fun b => b.setNum K.keysOpen ((c.comparedAt k).closeKey k).asy.keys.length) := rfl

theorem Chan.keyView_comparedAt (c : Chan) (k : AKey) : (c.comparedAt k).keyView = (c.onB (·.bump K.keysCompared)).keyView := by
  unfold Chan.comparedAt
  rw [Chan.keyView_raiseMissing, Chan.keyView_compareTransit, foldl_keeps Chan.keyView _ (fun x a => Chan.keyView_compareSide k _ _ x a)]

/-- A key compared at the end of its window is closed, and counted (R172). -/
theorem Chan.keyView_compareKey (c : Chan) (k : AKey) :
    (c.compareKey k true).keyView =
      (c.asy.keys.filter (fun x => !(x.group == k.group && x.tensor == k.tensor && x.epoch == k.epoch)),
        c.asy.closed ++ [(k.group, k.tensor, k.epoch)], (c.b.bump K.keysCompared).num K.keysCompared) := by
  have hall := Chan.keyView_comparedAt c k
  rw [Chan.compareKey_eq]
  generalize c.comparedAt k = d at hall
  simp only [Chan.keyView, Chan.onB, Prod.mk.injEq] at hall
  obtain ⟨hkeys, hclosed, hnum⟩ := hall
  simp only [Chan.keyView, Chan.closeKey, Chan.onB, Blk.num_setNum_ne _ _ (show K.keysCompared ≠ K.keysOpen by decide), hkeys, hclosed,
    hnum]

/-- The entry of a group and its open keys: what the fold of a write of the entry leaves of the keys (R170). -/
theorem Chan.closeAll_keys (replicas : Nat) (l : List AKey) (c : Chan) :
    let d := l.foldl (fun (acc : Chan) k => (acc.raiseClosed k replicas).closeKey k) c
    (∀ x ∈ c.asy.closed, x ∈ d.asy.closed) ∧ (∀ k ∈ l, (k.group, k.tensor, k.epoch) ∈ d.asy.closed) ∧
      (∀ x ∈ d.asy.keys, x ∈ c.asy.keys ∧ x ∉ l) := by
  induction l generalizing c with
  | nil => exact ⟨fun _ h => h, fun _ h => absurd h List.not_mem_nil, fun _ h => ⟨h, List.not_mem_nil⟩⟩
  | cons k l ih =>
    have hv := Chan.keyView_raiseIncomplete c k
      (if (k.missing (c.tensorWords k.tensor) replicas).isEmpty then List.range replicas else k.missing (c.tensorWords k.tensor) replicas)
    simp only [Chan.keyView, Prod.mk.injEq] at hv
    obtain ⟨hkeys, hclosed, _⟩ := hv
    obtain ⟨hmono, hall, hleft⟩ := ih ((c.raiseClosed k replicas).closeKey k)
    have hc : ((c.raiseClosed k replicas).closeKey k).asy.closed = c.asy.closed ++ [(k.group, k.tensor, k.epoch)] := by
      simp only [Chan.closeKey, Chan.raiseClosed]; rw [hclosed]
    have hk : ((c.raiseClosed k replicas).closeKey k).asy.keys =
        c.asy.keys.filter (fun x => !(x.group == k.group && x.tensor == k.tensor && x.epoch == k.epoch)) := by
      simp only [Chan.closeKey, Chan.raiseClosed]; rw [hkeys]
    rw [hc] at hmono
    rw [hk] at hleft
    refine ⟨fun x hx => hmono x (List.mem_append_left _ hx), ?_, ?_⟩
    · intro q hq
      rcases List.mem_cons.mp hq with rfl | hq
      · exact hmono _ (by simp)
      · exact hall q hq
    · intro x hx
      obtain ⟨hxk, hxl⟩ := hleft x hx
      obtain ⟨hxm, hne⟩ := List.mem_filter.mp hxk
      refine ⟨hxm, fun hin => ?_⟩
      rcases List.mem_cons.mp hin with rfl | hin
      · simp at hne
      · exact hxl hin

theorem groupEntry_not_fault (g : Byte) : isFaultKey (K.groupEntry + g.toNat) = false := by
  have hg := g.isLt
  simp only [isFaultKey, beq_eq_false_iff_ne, K.groupEntry]
  omega

theorem groupEntry_ne_keysOpen (g : Byte) : K.groupEntry + g.toNat ≠ K.keysOpen := by
  have hg := g.isLt
  simp only [K.groupEntry, K.keysOpen]
  omega

/-- A write of a group's entry keeps the entry (R170). -/
theorem Chan.writeGroup_entry (c : Chan) (g : Byte) (v : Nat) : (c.writeGroup g.toNat v).b.num (K.groupEntry + g.toNat) = v := by
  simp only [Chan.writeGroup, Chan.onB]
  rw [Blk.num_setNum_ne _ _ (groupEntry_ne_keysOpen g), Blk.num_setNum_same]

end Sys2Proof.Machine

open Sys2Proof Sys2Proof.Machine

/-- Settles O29: what the comparison of a key, and the closing of a group's keys, leave of the keys. -/
theorem assayKeysClose : Obligations.AssayKeysClose := by
  intro s c group
  refine ⟨?_, ?_⟩
  · intro tensor epoch k hw hk hopen
    have hf : (s.chan c).assayWindow group.toNat tensor.toNat epoch.toNat = (s.chan c).compareKey k true := by
      simp only [Chan.assayWindow, hk]
      have hg : ¬ (s.chan c).b.now < k.opened + ((s.chan c).group group.toNat).2.2 := by omega
      exact if_neg hg
    have hown := State.atWork_own s c (fun x => x.assayWindow group.toNat tensor.toNat epoch.toNat) hw
    rw [hf] at hown
    have hv := Chan.keyView_compareKey (s.chan c) k
    simp only [Chan.keyView, Prod.mk.injEq] at hv
    obtain ⟨hkeys, hclosed, hnum⟩ := hv
    have hsame := List.find?_some hk
    simp only [Bool.and_eq_true, beq_iff_eq] at hsame
    obtain ⟨⟨hg, ht⟩, he⟩ := hsame
    have hasy := Chan.of_own (·.asy) (fun _ => rfl) hown
    refine ⟨_, rfl, State.atWork_beside s c _, ?_, ?_, Chan.counts_of_num hown (by decide) hnum⟩
    · rw [hasy, hclosed, hg, ht, he]; simp
    · rw [hasy, hkeys]
      intro x hx
      rw [hg, ht, he] at hx
      rintro ⟨hxg, hxt, hxe⟩
      have hkept := (List.mem_filter.mp hx).2
      simp [hxg, hxt, hxe] at hkept
  · intro v hp
    have hown := State.chanRow_own (fun x y => x.writeGroup group.toNat y.toNum) hp
    have hasy := Chan.of_own (·.asy) (fun _ => rfl) hown
    obtain ⟨_, hall, hleft⟩ := Chan.closeAll_keys ((s.chan c).group group.toNat).2.1
      ((s.chan c).asy.keys.filter (fun k => k.group == group.toNat)) ((s.chan c).onB (fun b => { b with applying := true }))
    refine ⟨_, rfl, State.chanRow_beside _ hp, ?_, ?_, ?_⟩
    · rw [Chan.num_of_own hown (groupEntry_not_fault group)]
      exact Chan.writeGroup_entry _ group v.toNat
    · intro x hx hg
      rw [hasy]
      exact hall x (List.mem_filter.mpr ⟨hx, by simpa using hg⟩)
    · intro x hx hg
      rw [hasy] at hx
      obtain ⟨hin, hout⟩ := hleft x hx
      exact hout (List.mem_filter.mpr ⟨hin, by simpa using hg⟩)

end


section
/-! PROOF. What a command of a channel leaves in that channel of the parts that `Chan.own` leaves out: its own requests, its fault
history and the counts of it (R352). -/

namespace Sys2Proof.Machine

/-- From `y` to `z` the registers and the fault history of a channel stand, and its own requests have only grown. -/
structure Chan.Stands (y z : Chan) : Prop where
  store : z.b.store = y.b.store
  isLeaf : z.b.isLeaf = y.b.isLeaf
  hist : z.hist = y.hist
  rem : y.rem <+: z.rem

theorem Chan.Stands.refl (y : Chan) : y.Stands y := ⟨rfl, rfl, rfl, List.prefix_refl _⟩

theorem Chan.Stands.trans {x y z : Chan} (a : x.Stands y) (b : y.Stands z) : x.Stands z :=
  ⟨b.store.trans a.store, b.isLeaf.trans a.isLeaf, b.hist.trans a.hist, a.rem.trans b.rem⟩

/-- A relation that every step of a fold keeps holds from the start of the fold to its end. -/
theorem foldl_rel {α β : Type} (R : β → β → Prop) (hr : ∀ x, R x x) (ht : ∀ {x y z}, R x y → R y z → R x z) (g : β → α → β)
    (h : ∀ x a, R x (g x a)) (l : List α) (x : β) : R x (l.foldl g x) := by
  induction l generalizing x with
  | nil => exact hr x
  | cons a l ih => exact ht (h x a) (ih _)

theorem Chan.Stands.foldl {α : Type} (g : Chan → α → Chan) (h : ∀ (x : Chan) a, x.Stands (g x a)) (l : List α) (x : Chan) :
    x.Stands (l.foldl g x) := foldl_rel Chan.Stands .refl .trans g h l x

theorem Chan.Stands.num {y z : Chan} (h : y.Stands z) (k : Nat) : z.b.num k = y.b.num k := by
  simp only [Blk.num, Blk.val, h.store, h.isLeaf]

theorem Chan.stands_sendOp (c : Chan) (r : Remote) : c.Stands (c.sendOp r) := by
  unfold Chan.sendOp
  split
  · exact .refl c
  · exact ⟨rfl, rfl, rfl, ⟨_, rfl⟩⟩

theorem Chan.stands_spreadAuthority (c before : Chan) : c.Stands (c.spreadAuthority before) :=
  .foldl _ (fun x _ => .foldl _ (fun y _ => Chan.stands_sendOp y _) _ x) _ c

theorem State.dropStale_chan (s : State) (node : Chan → Word) (l : List (Word × Word)) (c : Ch) :
    (s.dropStale node l).chan c = { s.chan c with flash := ((s.dropStale node l).chan c).flash } := by
  unfold State.dropStale
  split
  · rfl
  · simp only [State.chan, Quad.get_map]
    exact Chan.foldl_flash (fun a p => a.dropPending (node (s.ch.get c)) p.1 p.2) (fun _ _ => rfl) l _

theorem State.stands_dropStale (s : State) (node : Chan → Word) (l : List (Word × Word)) (c : Ch) :
    (s.chan c).Stands ((s.dropStale node l).chan c) := by
  rw [State.dropStale_chan]
  exact ⟨rfl, rfl, rfl, List.prefix_refl _⟩

theorem State.stands_promoteAll (s : State) (c : Ch) : (s.chan c).Stands (s.promoteAll.chan c) := by
  have one : ∀ (x : State) (t : Word × Word), (x.chan c).Stands ((x.promoteOne t).chan c) := by
    intro x t
    simp only [State.promoteOne]
    split
    · exact .refl _
    · simp only [State.chan, Quad.get_map]
      exact ⟨rfl, rfl, rfl, List.prefix_refl _⟩
  have all : ∀ (l : List (Word × Word)) (x : State), (x.chan c).Stands ((l.foldl State.promoteOne x).chan c) := by
    intro l
    induction l with
    | nil => intro x; exact .refl _
    | cons t l ih => intro x; exact (one x t).trans (ih _)
  exact all s.sh.currents s

theorem State.tellLeaf_chan (s : State) (c d : Ch) : (s.tellLeaf c).chan d = s.chan d := by
  unfold State.tellLeaf
  split
  · rfl
  · split <;> rfl

theorem State.stands_fanOut (s : State) (c : Ch) : (s.chan c).Stands ((s.fanOut c).chan c) := by
  have others : ∀ (js : List FlashJob) (l : List Ch), (∀ d ∈ l, d ≠ c) → ∀ x : State,
      (l.foldl (fun (acc : State) d => acc.putChan d ((acc.chan d).onB (fun x => { x with jobs := x.jobs ++ js }))) x).chan c = x.chan c := by
    intro js l
    induction l with
    | nil => intro _ x; rfl
    | cons d l ih =>
      intro hl x
      rw [List.foldl_cons, ih (fun e he => hl e (List.mem_cons_of_mem _ he))]
      exact State.chan_putChan_ne _ _ (Ne.symm (hl d List.mem_cons_self))
  simp only [State.fanOut]
  split
  · exact .refl _
  · have hothers : ∀ d ∈ allCh.filter (fun d => d != c && (s.chan d).keepsCopies), d ≠ c := fun d hd => by
      have hne := (List.mem_filter.mp hd).2
      simp only [Bool.and_eq_true, bne_iff_ne] at hne
      exact hne.1
    show (s.chan c).Stands (State.chan (List.foldl _ _ _) c)
    rw [others _ _ hothers, State.chan_putChan_same]
    exact ⟨rfl, rfl, rfl, List.prefix_refl _⟩

/-- From a channel to itself after its responses have been delivered: what it keeps. -/
structure Chan.Delivers (y z : Chan) : Prop where
  stands : y.Stands z
  faultIn : z.faultIn = y.faultIn

theorem Chan.deliver_delivers (c before : Chan) : c.Delivers (c.deliver before) := by
  refine foldl_rel Chan.Delivers (fun x => ⟨.refl x, rfl⟩) (fun a b => ⟨a.stands.trans b.stands, b.faultIn.trans a.faultIn⟩) _
    (fun x o => ?_) _ c
  split
  · unfold Chan.deliverHost
    split
    · exact ⟨.refl x, rfl⟩
    · refine ⟨⟨?_, ?_, rfl, List.prefix_refl _⟩, rfl⟩ <;> (simp only [Blk.emit, Blk.raiseEvt]; split <;> rfl)
  · exact ⟨⟨rfl, rfl, rfl, List.prefix_refl _⟩, rfl⟩
  · exact ⟨.refl x, rfl⟩

/-- What follows a command: a channel that stands as the command left it, with the same fault records to take, takes them, and stands. -/
theorem State.afterChan_drains (s : State) (c : Ch) (before : Chan) :
    ∃ y : Chan, (s.chan c).Stands y ∧ y.faultIn = (s.chan c).faultIn ∧ y.drainFaults.Stands ((s.afterChan c before).chan c) := by
  simp only [State.afterChan]
  generalize hs1 : State.dropStale (State.dropStale s _ _) _ _ = s1
  have hs : (s.chan c).Stands (s1.chan c) := by
    rw [← hs1]
    exact (State.stands_dropStale s _ _ c).trans (State.stands_dropStale _ _ _ c)
  have hf : (s1.chan c).faultIn = (s.chan c).faultIn := by
    rw [← hs1, State.dropStale_chan, State.dropStale_chan]
  have hd := Chan.deliver_delivers (s1.chan c) before
  refine ⟨(s1.chan c).deliver before, hs.trans hd.stands, hd.faultIn.trans hf, ?_⟩
  refine (Chan.stands_spreadAuthority _ before).trans ?_
  rw [State.settle_chan]
  refine Chan.Stands.trans ?_ (State.stands_dropStale _ _ _ c)
  refine Chan.Stands.trans ?_ (State.stands_dropStale _ _ _ c)
  refine Chan.Stands.trans ?_ (State.stands_promoteAll _ c)
  rw [State.tellLeaf_chan]
  refine Chan.Stands.trans ?_ (State.stands_fanOut _ c)
  split
  · exact (State.chan_putChan_same s1 c _) ▸ Chan.Stands.refl _
  · exact (State.chan_putChan_same s1 c _) ▸ Chan.Stands.refl _

theorem Chan.queueLog_rem (c : Chan) (d : List Byte) (p : Bool) (t : Nat) : (c.queueLog d p t).rem = c.rem := by
  unfold Chan.queueLog
  split <;> rfl

theorem Chan.wantFence_rem (c : Chan) (loc : Nat) : (c.wantFence loc).rem = c.rem := by
  unfold Chan.wantFence
  extract_lets leaf core auth
  split <;> rfl

theorem Chan.takeEvent_rem (c : Chan) (d : List Byte) (rep : Bool) : (c.takeEvent d rep).rem = c.rem := by
  unfold Chan.takeEvent
  extract_lets loc f c0 found e0 third
  split
  · exact Chan.queueLog_rem _ _ _ _
  · extract_lets turns logs e1 c1 c2
    have h2 : c2.rem = c.rem := by
      show (if logs then c1.queueLog d e1.perm (if turns then 2 else 1) else c1).rem = c.rem
      split
      · exact Chan.queueLog_rem _ _ _ _
      · rfl
    split
    · exact (Chan.wantFence_rem _ _).trans h2
    · exact h2

theorem Chan.drainFaults_rem (c : Chan) : c.drainFaults.rem = c.rem :=
  foldl_keeps Chan.rem _ (fun x _ => Chan.takeEvent_rem x _ _) _ _

theorem Chan.wantFence_num (c : Chan) (loc k : Nat) : (c.wantFence loc).b.num k = c.b.num k := by
  unfold Chan.wantFence
  extract_lets leaf core auth
  split <;> rfl

theorem Chan.queueLog_taken (c : Chan) (d : List Byte) (p : Bool) (t : Nat) :
    (c.queueLog d p t).b.num K.fltRecordsTaken = c.b.num K.fltRecordsTaken := by
  unfold Chan.queueLog
  split
  · exact Blk.num_bump_ne _ _ (by decide)
  · rfl

theorem Chan.countLocs_taken (c : Chan) : c.countLocs.b.num K.fltRecordsTaken = c.b.num K.fltRecordsTaken := by
  simp only [Chan.countLocs, Chan.onB]
  rw [Blk.num_setNum_ne _ _ (by decide), Blk.num_setNum_ne _ _ (by decide)]

/-- Every event that the fault history takes is counted once (R353). -/
theorem Chan.takeEvent_taken (c : Chan) (d : List Byte) (rep : Bool) :
    (c.takeEvent d rep).b.num K.fltRecordsTaken = (c.b.bump K.fltRecordsTaken).num K.fltRecordsTaken := by
  unfold Chan.takeEvent
  extract_lets loc f c0 found e0 third
  split
  · rw [Chan.queueLog_taken]
    exact Blk.num_bump_ne _ _ (by decide)
  · extract_lets turns logs e1 c1 c2
    have h1 : c1.b.num K.fltRecordsTaken = (c.b.bump K.fltRecordsTaken).num K.fltRecordsTaken := Chan.countLocs_taken _
    have h2 : c2.b.num K.fltRecordsTaken = (c.b.bump K.fltRecordsTaken).num K.fltRecordsTaken := by
      rw [← h1]
      show (if logs then c1.queueLog d e1.perm (if turns then 2 else 1) else c1).b.num K.fltRecordsTaken = _
      split
      · exact Chan.queueLog_taken _ _ _ _
      · rfl
    split
    · rw [Chan.wantFence_num]
      exact (Blk.raiseEvt_num _ _ _).trans h2
    · exact h2

section
variable (s : State) (c : Ch) (f : CS → CS)

/-- A command's requests of its own stand among those of the channel (R85). -/
theorem State.onCS_rem : (f { ch := s.chan c, sh := s.sh }).ch.rem <+: ((s.onCS c f).chan c).rem := by
  obtain ⟨y, hy, _, ht⟩ := State.afterChan_drains
    ({ s with sh := (f { ch := s.chan c, sh := s.sh }).sh }.putChan c (f { ch := s.chan c, sh := s.sh }).ch) c (s.chan c)
  rw [State.chan_putChan_same] at hy
  exact hy.rem.trans ((Chan.drainFaults_rem y) ▸ ht.rem)

/-- A command that leaves no fault record to take leaves the fault history as it made it. -/
theorem State.onCS_hist (hf : (f { ch := s.chan c, sh := s.sh }).ch.faultIn = []) :
    ((s.onCS c f).chan c).hist = (f { ch := s.chan c, sh := s.sh }).ch.hist ∧
      ∀ k, ((s.onCS c f).chan c).b.num k = (f { ch := s.chan c, sh := s.sh }).ch.b.num k := by
  obtain ⟨y, hy, hfault, ht⟩ := State.afterChan_drains
    ({ s with sh := (f { ch := s.chan c, sh := s.sh }).sh }.putChan c (f { ch := s.chan c, sh := s.sh }).ch) c (s.chan c)
  rw [State.chan_putChan_same] at hy hfault
  have hd : y.drainFaults = { y with faultIn := [] } := by
    unfold Chan.drainFaults
    rw [hfault, hf] <;> rfl
  rw [hd] at ht
  exact ⟨ht.hist.trans hy.hist, fun k => (ht.num k).trans (hy.num k)⟩

/-- One fault record to take is counted (R352, R353). -/
theorem State.onCS_taken {d : List Byte} (hf : (f { ch := s.chan c, sh := s.sh }).ch.faultIn = [d]) :
    ((s.onCS c f).chan c).b.num K.fltRecordsTaken =
      ((f { ch := s.chan c, sh := s.sh }).ch.b.bump K.fltRecordsTaken).num K.fltRecordsTaken := by
  obtain ⟨y, hy, hfault, ht⟩ := State.afterChan_drains
    ({ s with sh := (f { ch := s.chan c, sh := s.sh }).sh }.putChan c (f { ch := s.chan c, sh := s.sh }).ch) c (s.chan c)
  rw [State.chan_putChan_same] at hy hfault
  have hd : y.drainFaults = ({ y with faultIn := [] } : Chan).takeEvent d (startKind d) := by
    unfold Chan.drainFaults
    rw [hfault, hf] <;> rfl
  refine (ht.num _).trans ?_
  rw [hd, Chan.takeEvent_taken]
  simp only [Blk.bump, Blk.num_setNum_same, hy.num, hy.isLeaf]

end

section
variable {s : State} {c : Ch}

theorem State.atWork_rem (f : Chan → Chan) (h : (s.chan c).b.works = true) : (f (s.chan c)).rem <+: ((s.atWork c f).chan c).rem := by
  rw [State.atWork, if_pos h]
  exact State.onCS_rem s c (fun x => x.on f)

theorem State.atWork_hist (f : Chan → Chan) (h : (s.chan c).b.works = true) (hf : (f (s.chan c)).faultIn = []) :
    ((s.atWork c f).chan c).hist = (f (s.chan c)).hist ∧ ∀ k, ((s.atWork c f).chan c).b.num k = (f (s.chan c)).b.num k := by
  rw [State.atWork, if_pos h]
  exact State.onCS_hist s c (fun x => x.on f) hf

theorem State.atWork_taken (f : Chan → Chan) (h : (s.chan c).b.works = true) {d : List Byte} (hf : (f (s.chan c)).faultIn = [d]) :
    ((s.atWork c f).chan c).b.num K.fltRecordsTaken = ((f (s.chan c)).b.bump K.fltRecordsTaken).num K.fltRecordsTaken := by
  rw [State.atWork, if_pos h]
  exact State.onCS_taken s c (fun x => x.on f) hf

@[simp] theorem Blk.emit_num (b : Blk) (o : Out) (k : Nat) : (b.emit o).num k = b.num k := rfl
@[simp] theorem Blk.emit_bytes (b : Blk) (o : Out) (k : Nat) : (b.emit o).bytes k = b.bytes k := rfl

/-- A channel while a write of one of its objects takes effect. -/
def Chan.writing (c : Chan) : Chan := c.onB (fun b => { b with applying := true })

section
variable (c : Chan)

@[simp] theorem Chan.writing_num (k : Nat) : c.writing.b.num k = c.b.num k := rfl
@[simp] theorem Chan.writing_bytes (k : Nat) : c.writing.b.bytes k = c.b.bytes k := rfl
@[simp] theorem Chan.writing_isLeaf : c.writing.b.isLeaf = c.b.isLeaf := rfl
@[simp] theorem Chan.writing_lag : c.writing.lag = c.lag := rfl
@[simp] theorem Chan.writing_tree : c.writing.tree = c.tree := rfl
@[simp] theorem Chan.writing_ser : c.writing.ser = c.ser := rfl
@[simp] theorem Chan.writing_faultIn : c.writing.faultIn = c.faultIn := rfl

end

section
variable {key : Nat} {v : Val} (f : Chan → Val → Chan) (hp : s.passes (.chan c) key v = true)
include hp

/-- A part of the channel, after a write of one of its objects that passes. -/
theorem State.chanRow_part {α : Type} (g : Chan → α) (h1 : ∀ x, g x.own = g x)
    (h2 : ∀ (x : Chan) (w : Bool), g (x.onB (fun b => { b with applying := w })) = g x) :
    g ((s.chanRow c key v f).chan c) = g (f (s.chan c).writing v) :=
  (Chan.of_own g h1 (State.chanRow_own f hp)).trans (h2 _ false)

theorem State.chanRow_num {k : Nat} (hk : isFaultKey k = false) :
    ((s.chanRow c key v f).chan c).b.num k = (f (s.chan c).writing v).b.num k :=
  Chan.num_of_own (State.chanRow_own f hp) hk

theorem State.chanRow_bytes {k : Nat} (hk : isFaultKey k = false) :
    ((s.chanRow c key v f).chan c).b.bytes k = (f (s.chan c).writing v).b.bytes k :=
  Chan.bytes_of_own (State.chanRow_own f hp) hk

/-- A counter that the write advances. -/
theorem State.chanRow_counts {k n : Nat} (hk : isFaultKey k = false)
    (h : (f (s.chan c).writing v).b.num k = ((s.chan c).b.bump k n).num k) :
    (s.chan c).b.counts ((s.chanRow c key v f).chan c).b k n := by
  rw [Blk.counts, State.chanRow_num f hp hk, h]
  exact Blk.counts_bump (s.chan c).b k n

theorem State.chanRow_rem : (f (s.chan c).writing v).rem <+: ((s.chanRow c key v f).chan c).rem := by
  have h := State.onCS_rem s c (fun cs => rowAct chanEnv cs cs.ch.b.hostAddr key v (fun t x => t.on (fun y => f y x)))
  simp only [Chan.row_passed f hp] at h
  exact h

theorem State.chanRow_taken {d : List Byte} (hf : (f (s.chan c).writing v).faultIn = [d]) :
    ((s.chanRow c key v f).chan c).b.num K.fltRecordsTaken =
      ((f (s.chan c).writing v).b.bump K.fltRecordsTaken).num K.fltRecordsTaken := by
  have h := State.onCS_taken s c (fun cs => rowAct chanEnv cs cs.ch.b.hostAddr key v (fun t x => t.on (fun y => f y x))) (d := d)
  simp only [Chan.row_passed f hp] at h
  exact h hf

/-- One fault record that the write makes is counted, where the write leaves the count alone. -/
theorem State.chanRow_takes {d : List Byte} (hf : (f (s.chan c).writing v).faultIn = [d])
    (hn : (f (s.chan c).writing v).b.num K.fltRecordsTaken = (s.chan c).b.num K.fltRecordsTaken)
    (hl : (f (s.chan c).writing v).b.isLeaf = (s.chan c).b.isLeaf) :
    (s.chan c).b.counts ((s.chanRow c key v f).chan c).b K.fltRecordsTaken := by
  rw [Blk.counts, State.chanRow_taken f hp hf]
  simp only [Blk.bump, Blk.num_setNum_same, hn, hl]

end

end

end Sys2Proof.Machine

end


section
/-! PROOF. The tables of a channel (R184, R213, R217, R228), the windows of barriers (R256) and the suspects (R281): O35 and O37. -/

namespace Sys2Proof.Machine

/-! ### Series (R228) -/

/-- Two descriptors differ in nothing but param_set and handoff. -/
theorem chDesc_core_eq (x y : ChDesc) :
    ({ x with param := 0, handoff := false } == { y with param := 0, handoff := false }) =
      decide ({ x with param := y.param, handoff := y.handoff } = y) := by
  obtain ⟨e, a, co, ph, pa, ha, sl⟩ := x
  obtain ⟨e', a', co', ph', pa', ha', sl'⟩ := y
  rw [Bool.eq_iff_iff]
  simp

/-- A series keeps its state through a swap when its descriptor differs in nothing but param_set and handoff (R228). -/
theorem Chan.swapSeries_state (c : Chan) {i : Nat} {x y : ChDesc} (hx : (chTable (c.b.bytes K.serSeriesTableActive))[i]? = some x)
    (hy : (chTable (c.b.bytes K.serSeriesTableStandby))[i]? = some y) :
    c.swapSeries.ser.state i = (if { x with param := y.param, handoff := y.handoff } = y then c.ser.state i else SerState.empty) := by
  unfold Chan.swapSeries
  extract_lets old t new core keep
  have hkeep : keep i = decide ({ x with param := y.param, handoff := y.handoff } = y) := by
    have h1 : keep i = (core x == core y) := by
      show (match old[i]?, new[i]? with | some x, some y => core x == core y | _, _ => false) = _
      rw [show old[i]? = some x from hx, show new[i]? = some y from hy]
    rw [h1]
    exact chDesc_core_eq x y
  show mget (fun _ => SerState.empty) (mfilter keep c.ser.states) i = _
  by_cases h : ({ x with param := y.param, handoff := y.handoff } : ChDesc) = y
  · rw [if_pos h, mget_mfilter_in _ _ _ _ (hkeep.trans (decide_eq_true h))] <;> rfl
  · rw [if_neg h, mget_mfilter_out _ _ _ (hkeep.trans (decide_eq_false h))]

theorem Chan.swapSeries_active (c : Chan) : c.swapSeries.b.bytes K.serSeriesTableActive = c.b.bytes K.serSeriesTableStandby := by
  simp only [Chan.swapSeries]
  rw [Blk.bytes_setNum_ne _ _ (by decide), Blk.bytes_setNum_ne _ _ (by decide), Blk.bytes_setBytes_same]

theorem Chan.swapSeries_count (c : Chan) :
    c.swapSeries.b.num K.serSeriesCount = (chTable (c.b.bytes K.serSeriesTableStandby)).length := by
  simp only [Chan.swapSeries]
  rw [Blk.num_setNum_ne _ _ (by decide), Blk.num_setNum_same]

/-! ### The aggregate table (R184) -/

theorem Chan.swapAgg_active (c : Chan) : c.swapAgg.b.bytes K.aggTableActive = c.b.bytes K.aggTableStandby := by
  simp only [Chan.swapAgg]
  rw [Blk.bytes_setNum_ne _ _ (by decide), Blk.bytes_setNum_ne _ _ (by decide), Blk.bytes_setNum_ne _ _ (by decide),
    Blk.bytes_setBytes_same]

theorem Chan.swapAgg_counts (c : Chan) : c.swapAgg.b.num K.aggSlots = (c.b.bytes K.aggTableStandby).length / 8 ∧
    c.swapAgg.b.num K.aggTableCheck = crc32c (c.b.bytes K.aggTableStandby) ∧ c.swapAgg.b.num K.aggSwap = 0 := by
  refine ⟨?_, ?_, ?_⟩ <;> simp only [Chan.swapAgg]
  · rw [Blk.num_setNum_ne _ _ (by decide), Blk.num_setNum_ne _ _ (by decide), Blk.num_setNum_same]
  · rw [Blk.num_setNum_ne _ _ (by decide), Blk.num_setNum_same]
  · rw [Blk.num_setNum_same]

/-- The table in force at the frame of the swap is the new one. -/
theorem Chan.swapAgg_table (c : Chan) : c.swapAgg.tree.table c.b.now = c.b.bytes K.aggTableStandby := by
  simp only [Chan.swapAgg, Tree.table, atFrame, if_pos (Nat.le_refl _)]

/-! ### Little-endian numbers -/

theorem leNat_natLe (len n : Nat) : leNat (natLe len n) = n % 256 ^ len := by
  induction len generalizing n with
  | zero => exact (Nat.mod_one n).symm
  | succ len ih =>
    have hb : (BitVec.ofNat 8 n).toNat = n % 256 := BitVec.toNat_ofNat n 8
    simp only [natLe, leNat, ih, hb]
    rw [Nat.pow_succ', Nat.mod_mul]

/-- A list of exactly `n` elements is one piece. -/
theorem pieces_of_length {α : Type} {n : Nat} {l : List α} (h : l.length = n) (hn : n ≠ 0) : pieces n l = [l] := by
  obtain ⟨x, xs, rfl⟩ := List.exists_cons_of_ne_nil (show l ≠ [] by rintro rfl; exact hn h.symm)
  have hd : (x :: xs).drop n = [] := by rw [List.drop_eq_nil_iff]; omega
  have ht : (x :: xs).take n = x :: xs := by rw [List.take_of_length_le]; omega
  show piecesAux n (xs.length + 1) (x :: xs) = _
  simp only [piecesAux, hd, ht]
  cases xs.length <;> rfl

/-- The one unit that a suspect entry names: a core. -/
theorem suspectUnits_core {unit : Nat} (h : unit < 2 ^ 30) : suspectUnits (natLe 4 (2 ^ 30 + unit)) = [(true, unit)] := by
  simp only [suspectUnits, pieces_of_length (length_natLe 4 _) (by decide), List.map_cons, List.map_nil, leNat_natLe, bits]
  have h1 : (2 ^ 30 + unit) % 256 ^ 4 / 2 ^ 30 % 2 ^ 2 = 1 := by omega
  have h2 : (2 ^ 30 + unit) % 256 ^ 4 / 2 ^ 0 % 2 ^ 30 = unit := by omega
  rw [h1, h2] <;> rfl

/-- The one unit that a suspect entry names: a leaf. -/
theorem suspectUnits_leaf {pos : Nat} (h : pos < 2 ^ 30) : suspectUnits (natLe 4 (2 ^ 31 + pos)) = [(false, pos)] := by
  simp only [suspectUnits, pieces_of_length (length_natLe 4 _) (by decide), List.map_cons, List.map_nil, leNat_natLe, bits]
  have h1 : (2 ^ 31 + pos) % 256 ^ 4 / 2 ^ 30 % 2 ^ 2 = 2 := by omega
  have h2 : (2 ^ 31 + pos) % 256 ^ 4 / 2 ^ 0 % 2 ^ 30 = pos := by omega
  rw [h1, h2] <;> rfl

/-! ### The laggard scorer (R256, R281) -/

section
variable (c : Chan)

@[simp] theorem Chan.fault_lag (kind lk loc f d : Nat) : (c.fault kind lk loc f d).lag = c.lag := rfl
@[simp] theorem Chan.fault_b (kind lk loc f d : Nat) : (c.fault kind lk loc f d).b = c.b := rfl
@[simp] theorem Chan.onLag_lag (f : Lag → Lag) : (c.onLag f).lag = f c.lag := rfl
@[simp] theorem Chan.onLag_b (f : Lag → Lag) : (c.onLag f).b = c.b := rfl

theorem Chan.setSuspects_core {unit : Nat} (h : unit < 2 ^ 30) : c.setSuspects (natLe 4 (2 ^ 30 + unit)) =
    (c.onLag (fun l => l.mapEntry unit (fun e => { e with suspect := true }))).fault 0x09 1
      (locCore (c.unitLeaf (unit / 1024)) (unit % 1024)) c.b.now (c.lag.ruleOf c.b.now (true, unit)) := by
  simp only [Chan.setSuspects, suspectUnits_core h, List.foldl_cons, List.foldl_nil, if_true]

theorem Chan.clearSuspects_core {unit : Nat} (h : unit < 2 ^ 30) : c.clearSuspects (natLe 4 (2 ^ 30 + unit)) =
    c.onLag (fun l => l.mapEntry unit (fun e => { e with suspect := false })) := by
  simp only [Chan.clearSuspects, suspectUnits_core h, List.foldl_cons, List.foldl_nil, if_true]

theorem Chan.setSuspects_leaf {pos : Nat} (h : pos < 2 ^ 30) : c.setSuspects (natLe 4 (2 ^ 31 + pos)) =
    (c.onB (fun b => b.setNum K.suspectLeaves (setBit (b.num K.suspectLeaves) pos))).fault 0x09 2
      (locLeaf (c.unitLeaf pos)) c.b.now (c.lag.ruleOf c.b.now (false, pos)) := by
  simp only [Chan.setSuspects, suspectUnits_leaf h, List.foldl_cons, List.foldl_nil, Bool.false_eq_true, if_false]

theorem Chan.clearSuspects_leaf {pos : Nat} (h : pos < 2 ^ 30) : c.clearSuspects (natLe 4 (2 ^ 31 + pos)) =
    c.onB (fun b => b.setNum K.suspectLeaves (clearBit (b.num K.suspectLeaves) pos)) := by
  simp only [Chan.clearSuspects, suspectUnits_leaf h, List.foldl_cons, List.foldl_nil, Bool.false_eq_true, if_false]

end

theorem Lag.entry_mapEntry_same (l : Lag) (u : Nat) (f : LEntry → LEntry) : (l.mapEntry u f).entry u = f (l.entry u) :=
  mget_mset_same _ _ _ _

theorem Lag.entry_mapEntry_ne (l : Lag) {u v : Nat} (f : LEntry → LEntry) (h : v ≠ u) : (l.mapEntry u f).entry v = l.entry v :=
  mget_mset_ne _ _ _ h

/-- A barrier that closes is among those to be scored, at the frame of its close; none that closes stays open (R256). -/
theorem Lag.close_closes (l : Lag) (p : LInst → Bool) (d : Nat) {i : LInst} (hi : i ∈ l.insts) (hp : p i = true) :
    { i with closed := some d } ∈ (l.close p d).closed ∧ ∀ x ∈ (l.close p d).insts, p x = false := by
  refine ⟨List.mem_append_right _ (List.mem_map.mpr ⟨i, List.mem_filter.mpr ⟨hi, hp⟩, rfl⟩), ?_⟩
  intro x hx
  simpa using (List.mem_filter.mp hx).2

end Sys2Proof.Machine

open Sys2Proof Sys2Proof.Machine

/-- Settles O35: a swap copies the standby table, and a series keeps its state as its descriptor does. -/
theorem channelTablesSwap : Obligations.ChannelTablesSwap := by
  intro s c
  refine ⟨?_, ?_, ?_⟩
  · intro hp
    have hser := State.chanRow_part (fun x _ => x.swapSeries) hp (·.ser) (fun _ => rfl) (fun _ _ => rfl)
    refine ⟨_, rfl, State.chanRow_beside _ hp, ?_, ?_, ?_, ?_⟩
    · exact (State.chanRow_bytes _ hp (by decide)).trans (Chan.swapSeries_active _)
    · exact (State.chanRow_num _ hp (by decide)).trans (Chan.swapSeries_count _)
    · have hhand := congrArg Series.hand hser
      exact hhand
    · intro i x y hx hy
      have hstate := congrArg (fun z => Series.state z i) hser
      exact hstate.trans (Chan.swapSeries_state (s.chan c).writing hx hy)
  · intro v hp
    refine ⟨_, rfl, State.chanRow_beside _ hp, ?_, ?_⟩
    · exact (State.chanRow_bytes _ hp (by decide)).trans (Blk.bytes_setBytes_same _ _ v)
    · exact State.chanRow_part _ hp (·.ser) (fun _ => rfl) (fun _ _ => rfl)
  · intro hp
    have htree := State.chanRow_part (fun x _ => x.swapAgg) hp (·.tree) (fun _ => rfl) (fun _ _ => rfl)
    obtain ⟨hslots, hcheck, hswap⟩ := Chan.swapAgg_counts (s.chan c).writing
    refine ⟨_, rfl, State.chanRow_beside _ hp, ?_, ?_, ?_, ?_, ?_⟩
    · exact (State.chanRow_bytes _ hp (by decide)).trans (Chan.swapAgg_active _)
    · exact (State.chanRow_num _ hp (by decide)).trans hslots
    · exact (State.chanRow_num _ hp (by decide)).trans hcheck
    · exact (State.chanRow_num _ hp (by decide)).trans hswap
    · exact (congrArg (fun z => Tree.table z (s.chan c).b.now) htree).trans (Chan.swapAgg_table (s.chan c).writing)

/-- Settles O37: the barrier that is due closes, and a mark changes the one entry or bit that it names. -/
theorem barriersAndSuspects : Obligations.BarriersAndSuspects := by
  intro s c
  refine ⟨?_, ?_, ?_, ?_⟩
  · intro barrier i hw hi
    have hown := State.atWork_own s c (fun x => x.windowExpire barrier.toNat) hw
    have hlag := Chan.of_own (·.lag) (fun _ => rfl) hown
    have hdue := List.find?_some hi
    obtain ⟨hin, hout⟩ := Lag.close_closes (s.chan c).lag (fun x => x.ident == barrier.toNat &&
      decide (x.first + (s.chan c).b.num K.barrierWindow + 1 ≤ (s.chan c).b.now)) (i.first + (s.chan c).b.num K.barrierWindow - 1)
      (List.mem_of_find?_eq_some hi) hdue
    have hl : ((s.chan c).windowExpire barrier.toNat).lag = (s.chan c).lag.close (fun x => x.ident == barrier.toNat &&
        decide (x.first + (s.chan c).b.num K.barrierWindow + 1 ≤ (s.chan c).b.now))
        (i.first + (s.chan c).b.num K.barrierWindow - 1) := by
      simp only [Chan.windowExpire, Chan.onLag, hi]
    rw [hl] at hlag
    refine ⟨_, rfl, State.atWork_beside s c _, ?_, ?_⟩
    · rw [hlag]; exact hin
    · intro x hx
      rw [hlag] at hx
      simpa using hout x hx
  · intro unit hu hp
    have hset := Chan.setSuspects_core (s.chan c).writing (unit := unit) (by omega)
    have hlag := State.chanRow_part (fun x y => x.setSuspects y.toBytes) hp (·.lag) (fun _ => rfl) (fun _ _ => rfl)
    simp only [Val.toBytes, hset, Chan.fault_lag, Chan.onLag_lag, Chan.writing_lag] at hlag
    refine ⟨_, rfl, State.chanRow_beside _ hp, ?_, ?_, ?_⟩
    · exact (congrArg (Lag.entry · unit) hlag).trans (Lag.entry_mapEntry_same _ _ _)
    · intro u hne
      exact (congrArg (Lag.entry · u) hlag).trans (Lag.entry_mapEntry_ne _ _ hne)
    · intro hf
      obtain ⟨d, hone⟩ : ∃ d, ((s.chan c).writing.setSuspects (natLe 4 (2 ^ 30 + unit))).faultIn = [d] := by
        rw [hset]
        exact ⟨_, congrArg (· ++ _) hf⟩
      refine State.chanRow_takes (fun x y => x.setSuspects y.toBytes) hp hone ?_ ?_
      · simp only [Val.toBytes, hset, Chan.fault_b, Chan.onLag_b, Chan.writing_num]
      · simp only [Val.toBytes, hset, Chan.fault_b, Chan.onLag_b, Chan.writing_isLeaf]
  · intro unit hu hp
    have hclear := Chan.clearSuspects_core (s.chan c).writing (unit := unit) (by omega)
    have hlag := State.chanRow_part (fun x y => x.clearSuspects y.toBytes) hp (·.lag) (fun _ => rfl) (fun _ _ => rfl)
    simp only [Val.toBytes, hclear, Chan.onLag_lag, Chan.writing_lag] at hlag
    refine ⟨_, rfl, State.chanRow_beside _ hp, ?_, ?_⟩
    · exact (congrArg (Lag.entry · unit) hlag).trans (Lag.entry_mapEntry_same _ _ _)
    · intro u hne
      exact (congrArg (Lag.entry · u) hlag).trans (Lag.entry_mapEntry_ne _ _ hne)
  · intro pos hpos
    refine ⟨?_, ?_⟩
    · intro hp
      have hset := Chan.setSuspects_leaf (s.chan c).writing (pos := pos) (by omega)
      have hlag := State.chanRow_part (fun x y => x.setSuspects y.toBytes) hp (·.lag) (fun _ => rfl) (fun _ _ => rfl)
      have hnum := State.chanRow_num (fun x y => x.setSuspects y.toBytes) hp (k := K.suspectLeaves) (by decide)
      simp only [Val.toBytes, hset, Chan.fault_lag, Chan.onB_lag, Chan.writing_lag, Chan.fault_b, Chan.onB_b] at hlag hnum
      exact ⟨_, rfl, State.chanRow_beside _ hp, hnum.trans (Blk.num_setNum_same _ _ _), congrArg Lag.entries hlag⟩
    · intro hp
      have hclear := Chan.clearSuspects_leaf (s.chan c).writing (pos := pos) (by omega)
      have hnum := State.chanRow_num (fun x y => x.clearSuspects y.toBytes) hp (k := K.suspectLeaves) (by decide)
      simp only [Val.toBytes, hclear, Chan.onB_b] at hnum
      exact ⟨_, rfl, State.chanRow_beside _ hp, hnum.trans (Blk.num_setNum_same _ _ _)⟩

end


section
/-! PROOF. The fabric ports (R380, R382, R412): qualification and loss of a link (O52). -/

namespace Sys2Proof.Machine

/-! ### What a rebinding of subscribers leaves alone (R299) -/

/-- A channel with another egress: what no operation of egress changes. -/
theorem Chan.judgeSub_egr (c : Chan) (i : Nat) : c.judgeSub i = { c with egr := (c.judgeSub i).egr } := by
  simp only [Chan.judgeSub]
  split <;> rfl

theorem Chan.rebind_egr (c : Chan) (i : Nat) (m : Bool) : c.rebind i m = { c with egr := (c.rebind i m).egr } := by
  unfold Chan.rebind
  exact Chan.judgeSub_egr _ i

@[simp] theorem Chan.rebind_b (c : Chan) (i : Nat) (m : Bool) : (c.rebind i m).b = c.b := by rw [Chan.rebind_egr]

@[simp] theorem Chan.rebind_start (c : Chan) (i : Nat) (m : Bool) : (c.rebind i m).start = c.start := by rw [Chan.rebind_egr]

theorem Chan.egressDown_b (c : Chan) (p : Nat) : (c.egressDown p).b = c.b.setNum (K.port0State + p) 2 := by
  simp only [Chan.egressDown]
  exact foldl_keeps Chan.b _ (fun x i => Chan.rebind_b x i _) _ _

theorem Chan.egressDown_start (c : Chan) (p : Nat) : (c.egressDown p).start = c.start := by
  simp only [Chan.egressDown]
  exact foldl_keeps Chan.start _ (fun x i => Chan.rebind_start x i _) _ _

/-! ### A link goes down (R382) -/

/-- The registers of a channel whose link has gone down. -/
def Blk.portLost (b : Blk) (p : Nat) : Blk :=
  let b1 := (b.bump K.framesAborted).setNum K.portsQualified (andNot (b.num K.portsQualified) (2 ^ p))
  if p < 2 then b1 else b1.setNum (K.port0State + (p - 2)) 2

theorem Chan.linkDown_reads (c : Chan) (p : Nat) (hw : c.b.works = true) :
    (c.linkDown p).b = c.b.portLost p ∧ (c.linkDown p).start.qualifying = c.start.qualifying.filter (· != p) := by
  unfold Chan.linkDown
  rw [if_neg (by simp [hw])]
  extract_lets was b1 _ c1 c2
  unfold Blk.portLost
  split
  · exact ⟨rfl, rfl⟩
  · have h : c2.b = b1.setNum (K.port0State + (p - 2)) 2 ∧ c2.start.qualifying = c.start.qualifying.filter (· != p) :=
      ⟨Chan.egressDown_b c1 _, congrArg Start.qualifying (Chan.egressDown_start c1 _)⟩
    split <;> exact h

theorem portState_ne_qualified (p : Fin 4) : K.portsQualified ≠ K.port0State + (p.val - 2) ∧
    K.framesAborted ≠ K.port0State + (p.val - 2) ∧ K.requalifications ≠ K.port0State + (p.val - 2) := by
  revert p
  decide

theorem portState_not_fault (p : Fin 4) : isFaultKey (K.port0State + (p.val - 2)) = false := by
  revert p
  decide

theorem testBit_two_pow_same (p : Nat) : (2 ^ p).testBit p = true := Nat.testBit_two_pow_self

theorem Blk.portLost_qualified (b : Blk) (p : Fin 4) : bit ((b.portLost p.val).num K.portsQualified) p.val = false := by
  have h : (b.portLost p.val).num K.portsQualified = andNot (b.num K.portsQualified) (2 ^ p.val) := by
    simp only [Blk.portLost]
    split
    · exact Blk.num_setNum_same _ _ _
    · rw [Blk.num_setNum_ne _ _ (portState_ne_qualified p).1, Blk.num_setNum_same]
  rw [h]
  exact testBit_andNot_of Nat.testBit_two_pow_self

theorem Blk.portLost_aborted (b : Blk) (p : Fin 4) : (b.portLost p.val).num K.framesAborted = (b.bump K.framesAborted).num K.framesAborted := by
  simp only [Blk.portLost]
  split
  · exact Blk.num_setNum_ne _ _ (by decide)
  · rw [Blk.num_setNum_ne _ _ (portState_ne_qualified p).2.1, Blk.num_setNum_ne _ _ (by decide)]

theorem Blk.portLost_state (b : Blk) (p : Nat) (h : 2 ≤ p) : (b.portLost p).num (K.port0State + (p - 2)) = 2 := by
  simp only [Blk.portLost, if_neg (Nat.not_lt.mpr h), Blk.num_setNum_same]

/-! ### A link is qualified (R380) -/

/-- The bring-up after a link's qualification moves no register but its state and its failure. -/
theorem Chan.judgeLinks_num (c : Chan) {k : Nat} (h1 : k ≠ K.bringupState) (h2 : k ≠ K.bringupFailure) :
    c.judgeLinks.b.num k = c.b.num k := by
  unfold Chan.judgeLinks
  split
  · rfl
  · split
    · exact Blk.num_setNum_ne _ _ h1
    · split
      · simp only [Chan.fail]
        rw [Blk.raiseErr_num, Blk.num_setNum_ne _ _ h2, Blk.num_setNum_ne _ _ h1]
        rfl
      · exact Blk.num_setNum_ne _ _ h1

theorem Chan.judgeLinks_start (c : Chan) : c.judgeLinks.start = c.start := by
  unfold Chan.judgeLinks
  split
  · rfl
  · split
    · rfl
    · split <;> rfl

/-- Every lane that a link counts has 6 errors or fewer (R380). -/
def lanesPass (n : Nat) (lanes : List Word) : Bool :=
  ((List.range n).map (fun k => ((lanes[k]?).map (·.toNat)).getD 0xFFFFFFFF)).all (fun e => decide (e ≤ 6))

theorem lanesPass_all (lanes : List Word) : lanesPass lanes.length lanes = lanes.all (fun e => decide (e.toNat ≤ 6)) := by
  have h : (List.range lanes.length).map (fun k => ((lanes[k]?).map (·.toNat)).getD 0xFFFFFFFF) = lanes.map (·.toNat) := by
    refine List.ext_getElem (by simp) (fun i h1 h2 => ?_)
    have hi : i < lanes.length := by simpa using h1
    simp [hi]
  rw [lanesPass, h, List.all_map]
  rfl

/-- What the end of a qualification leaves: the port's bit, the count of runs, and that the port is judged. -/
theorem Chan.qualified_reads (c : Chan) (p : Fin 4) (lanes : List Word) (hw : c.b.works = true) (hp : p.val ∈ c.start.qualifying) :
    (c.qualified p.val lanes).start.qualifying = c.start.qualifying.filter (· != p.val) ∧
    (c.qualified p.val lanes).b.num K.portsQualified =
      (if lanesPass c.start.lanes lanes then setBit (c.b.num K.portsQualified) p.val else c.b.num K.portsQualified) ∧
    (c.b.phase = .run → (c.qualified p.val lanes).b.num K.requalifications = (c.b.bump K.requalifications).num K.requalifications) := by
  obtain ⟨hq, _, hr⟩ := portState_ne_qualified p
  unfold Chan.qualified
  rw [if_neg (by simp [hw, hp])]
  extract_lets ls pass q b1 cold b2 _ st worst c1 c2 c3
  have h2b : c2.b = b2 := by
    show (if cold || pass then c1 else c1.fault 0x14 7 (c1.id * 2 ^ 32 + p.val) c1.b.now worst).b = b2
    split <;> rfl
  have h1s : c1.start.qualifying = c.start.qualifying.filter (· != p.val) := by
    show (if cold && !pass then { st with owed := st.owed ++ [(0x14, 7, p.val, 0, worst)] } else st).qualifying = _
    split <;> rfl
  have h2s : c2.start = c1.start := by
    show (if cold || pass then c1 else c1.fault 0x14 7 (c1.id * 2 ^ 32 + p.val) c1.b.now worst).start = c1.start
    split <;> rfl
  have h3s : c3.start = c2.start := by
    show (if p.val < 2 then c2 else if pass then c2.egressUp (p.val - 2) else c2.egressDown (p.val - 2)).start = c2.start
    split
    · rfl
    · split
      · rfl
      · exact Chan.egressDown_start _ _
  have h3n : ∀ k, k ≠ K.port0State + (p.val - 2) → c3.b.num k = b2.num k := by
    intro k hk
    show (if p.val < 2 then c2 else if pass then c2.egressUp (p.val - 2) else c2.egressDown (p.val - 2)).b.num k = _
    split
    · rw [h2b]
    · split
      · exact (Blk.num_setNum_ne _ _ hk).trans (by rw [h2b])
      · rw [Chan.egressDown_b, Blk.num_setNum_ne _ _ hk, h2b]
  refine ⟨?_, ?_, ?_⟩
  · rw [Chan.judgeLinks_start, h3s, h2s, h1s]
  · rw [Chan.judgeLinks_num _ (by decide) (by decide), h3n _ hq]
    have hb1 : b1.num K.portsQualified = (if pass then setBit q p.val else q) := Blk.num_setNum_same _ _ _
    show (if cold then b1 else b1.bump K.requalifications).num K.portsQualified = _
    split
    · exact hb1
    · exact (Blk.num_bump_ne _ _ (by decide)).trans hb1
  · intro hrun
    have hcold : cold = false := decide_eq_false (by rw [hrun]; decide)
    rw [Chan.judgeLinks_num _ (by decide) (by decide), h3n _ hr]
    show (if cold then b1 else b1.bump K.requalifications).num K.requalifications = _
    rw [hcold]
    have hb1 : b1.num K.requalifications = c.b.num K.requalifications := by
      show ((c.b.setBytes _ _).setNum _ _).num _ = _
      rw [Blk.num_setNum_ne _ _ (by decide), Blk.num_setBytes_ne _ _ (by decide)]
    simp only [Bool.false_eq_true, if_false, Blk.bump, Blk.num_setNum_same, hb1]
    rfl

/-! ### A command that leaves the leaf as it is -/

theorem Blk.begun_self (b : Blk) : b.begun b = [] := by
  unfold Blk.begun
  rw [List.append_eq_nil_iff, List.filter_eq_nil_iff, List.filter_eq_nil_iff]
  refine ⟨fun p hp => ?_, fun p hp => ?_⟩
  · obtain ⟨t, ht, rfl⟩ := List.mem_map.mp hp
    simpa using ⟨t, ht, rfl, rfl⟩
  · obtain ⟨e, he, rfl⟩ := List.mem_map.mp hp
    simpa using ⟨e, he, rfl, rfl⟩

theorem Blk.ended_self (b : Blk) : b.ended b = [] := by
  unfold Blk.ended
  extract_lets held
  rw [List.append_eq_nil_iff, List.filter_eq_nil_iff, List.filter_eq_nil_iff]
  refine ⟨fun p hp => ?_, fun p hp => ?_⟩
  · obtain ⟨t, ht, rfl⟩ := List.mem_map.mp hp
    obtain ⟨htm, hheld⟩ := List.mem_filter.mp ht
    have hany : b.txns.any (fun x => held x && x.src == t.src && x.num == t.num) = true :=
      List.any_eq_true.mpr ⟨t, htm, by simp [hheld]⟩
    simp [hany]
  · obtain ⟨e, he, rfl⟩ := List.mem_map.mp hp
    simpa using ⟨e, he, rfl, rfl⟩

theorem State.dropStale_nil (s : State) (node : Chan → Word) : s.dropStale node [] = s := rfl

/-- A command that leaves the leaf as it is, with nothing to hand over, leaves the machine as it is. -/
theorem State.onLeaf_same (s : State) (h : s.leaf.handed = true) : s.onLeaf (fun l => l) = s := by
  simp only [Leaf.handed, Bool.and_eq_true] at h
  obtain ⟨⟨hn, hs⟩, hc⟩ := h
  have h1 : s.takeNotices = s := if_pos hn
  have h2 : s.takeStores = s := if_pos (by rw [hs, hc]; rfl)
  simp only [State.onLeaf, Blk.begun_self, Blk.ended_self, State.dropStale_nil, h1, h2]

end Sys2Proof.Machine

open Sys2Proof Sys2Proof.Machine

/-- Settles O52: what a link's rise, its qualification and its loss leave of the port. -/
theorem portsAreQualified : Obligations.PortsAreQualified := by
  intro s
  refine ⟨?_, ?_⟩
  · intro c p hw
    refine ⟨?_, ?_, ?_⟩
    · intro hb
      have hown := State.onChan_own s c (fun x => x.linkUp p.val)
      have hstart := Chan.of_own (·.start) (fun _ => rfl) hown
      refine ⟨_, rfl, State.onChan_beside s c _, ?_⟩
      rw [hstart]
      unfold Chan.linkUp
      split
      · next h => simpa [hw, hb] using h
      · exact List.mem_append_right _ List.mem_cons_self
    · intro lanes hp hlen
      have hown := State.onChan_own s c (fun x => x.qualified p.val lanes)
      have hstart := Chan.of_own (·.start) (fun _ => rfl) hown
      obtain ⟨hq, hn, hr⟩ := Chan.qualified_reads (s.chan c) p lanes hw hp
      rw [← hlen, lanesPass_all] at hn
      have hnum := (Chan.num_of_own hown (k := K.portsQualified) (by decide)).trans hn
      refine ⟨_, rfl, State.onChan_beside s c _, ?_, ?_, ?_, ?_⟩
      · rw [hstart, hq]
        simp
      · intro hall
        rw [hnum, hall, if_pos rfl]
        exact testBit_setBit_same _ _
      · intro hall
        rw [hnum, hall, if_neg Bool.false_ne_true]
      · intro hrun
        exact Chan.counts_of_num hown (by decide) (hr hrun)
    · have hown := State.onChan_own s c (fun x => x.linkDown p.val)
      have hstart := Chan.of_own (·.start) (fun _ => rfl) hown
      obtain ⟨hb, hq⟩ := Chan.linkDown_reads (s.chan c) p.val hw
      refine ⟨_, rfl, State.onChan_beside s c _, ?_, ?_, ?_, ?_⟩
      · rw [Chan.num_of_own hown (by decide), hb]
        exact Blk.portLost_qualified _ p
      · rw [hstart, hq]
        simp
      · intro h
        unfold Chan.portState
        rw [Chan.num_of_own hown (portState_not_fault p), hb]
        exact Blk.portLost_state _ _ h
      · refine Chan.counts_of_num hown (by decide) ?_
        rw [hb]
        exact Blk.portLost_aborted _ p
  · intro hw hh
    refine ⟨?_, ?_⟩
    · have hown := State.leafWork_own s (fun l => if true then { l with b := l.b.bump K.framesAborted } else l) hw
      exact ⟨_, rfl, State.leafWork_beside s _ hh, Leaf.counts_of_own (Blk.counts_bump s.leaf.b K.framesAborted 1) hown⟩
    · exact ⟨_, rfl, (if_pos hw).trans (State.onLeaf_same s hh)⟩

end


section
/-! PROOF. The shared logic after a command of a channel, and egress (R288 to R299, R363, R364): packets leave by their tags (O39), and
the buckets, the bus and the uplink ports (O40). -/

namespace Sys2Proof.Machine

/-! ### The registers of the shared logic after a command -/

theorem State.dropStale_store (s : State) (node : Chan → Word) (l : List (Word × Word)) : (s.dropStale node l).sh.store = s.sh.store := by
  rw [State.dropStale_sh]

theorem State.promoteAll_store (s : State) : s.promoteAll.sh.store = s.sh.store := by
  have one : ∀ (x : State) (t : Word × Word), (x.promoteOne t).sh.store = x.sh.store := by
    intro x t
    simp only [State.promoteOne]
    split <;> rfl
  exact foldl_keeps (fun x : State => x.sh.store) _ one _ _

theorem State.tellLeaf_sh (s : State) (c : Ch) : (s.tellLeaf c).sh = s.sh := by
  unfold State.tellLeaf
  split
  · rfl
  · split <;> rfl

theorem State.fanOut_store (s : State) (c : Ch) : (s.fanOut c).sh.store = s.sh.store := by
  simp only [State.fanOut]
  split
  · rfl
  · refine (foldl_keeps (fun x : State => x.sh.store) _ (fun x d => ?_) _ _).trans ?_
    · rfl
    · rfl

/-- What follows a command ends with the shared logic settling, its registers as the command left them. -/
theorem State.afterChan_settles (s : State) (c : Ch) (before : Chan) :
    ∃ u : State, s.afterChan c before = u.settle ∧ u.sh.store = s.sh.store := by
  refine ⟨_, rfl, ?_⟩
  rw [State.dropStale_store, State.dropStale_store, State.promoteAll_store, State.tellLeaf_sh, State.fanOut_store]
  split <;> exact (State.dropStale_store _ _ _).trans (State.dropStale_store _ _ _)

theorem Shared.num_of_store {a b : Shared} (h : a.store = b.store) (k : Nat) : a.num k = b.num k := by
  simp only [Shared.num, Shared.val, h]

theorem Shared.num_setNum_ne (h : Shared) {k j : Nat} (n : Nat) (hj : j ≠ k) : (h.setNum k n).num j = h.num j :=
  congrArg Val.toNum (mget_mset_ne (dflt false) h.store (Val.num n) hj)

theorem Shared.num_raiseTarget_ne (h : Shared) (l : List Nat) {k : Nat} (hk : k ≠ K.coreTargetMv) : (h.raiseTarget l).num k = h.num k := by
  simp only [Shared.raiseTarget, Shared.setTarget]
  split
  · split
    · rfl
    · exact Shared.num_setNum_ne h _ hk
  · rfl

/-- Settling moves no register of the shared logic but the core target and removal_ready. -/
theorem State.settle_num (s : State) {k : Nat} (h1 : k ≠ K.coreTargetMv) (h2 : k ≠ K.removalReady) : s.settle.sh.num k = s.sh.num k := by
  unfold State.settle
  split
  · rfl
  · show ((Shared.raiseTarget _ _).setNum _ _).num k = _
    rw [Shared.num_setNum_ne _ _ h2, Shared.num_raiseTarget_ne _ _ h1]
    split <;> rfl

theorem State.onCS_shNum (s : State) (c : Ch) (f : CS → CS) {k : Nat} (h1 : k ≠ K.coreTargetMv) (h2 : k ≠ K.removalReady) :
    (s.onCS c f).sh.num k = (f { ch := s.chan c, sh := s.sh }).sh.num k := by
  obtain ⟨u, hu, hstore⟩ := State.afterChan_settles
    ({ s with sh := (f { ch := s.chan c, sh := s.sh }).sh }.putChan c (f { ch := s.chan c, sh := s.sh }).ch) c (s.chan c)
  have ht : s.onCS c f = u.settle := hu
  rw [ht, State.settle_num u h1 h2]
  exact Shared.num_of_store hstore k

theorem State.atWork_shNum (s : State) (c : Ch) (f : Chan → Chan) {k : Nat} (h1 : k ≠ K.coreTargetMv) (h2 : k ≠ K.removalReady) :
    (s.atWork c f).sh.num k = s.sh.num k := by
  unfold State.atWork
  split
  · exact State.onCS_shNum s c (fun x => x.on f) h1 h2
  · rfl

theorem State.atWork_out {s : State} {c : Ch} (f : Chan → Chan) (h : (s.chan c).b.works = true) :
    (f (s.chan c)).b.out <+: ((s.atWork c f).chan c).b.out := by
  rw [State.atWork, if_pos h]
  exact State.onChan_out s c f

theorem State.atWork_evt {s : State} {c : Ch} (f : Chan → Chan) (h : (s.chan c).b.works = true) :
    (f (s.chan c)).b.EvtLe ((s.atWork c f).chan c).b := by
  rw [State.atWork, if_pos h]
  exact State.onChan_evt s c f

/-- Of two counters that advance, the one counts as if it were alone. -/
theorem Blk.num_bump_bump (b : Blk) {k j : Nat} (m : Nat) {n : Nat} (h : k ≠ j) : ((b.bump j m).bump k n).num k = (b.bump k n).num k := by
  simp only [Blk.bump, Blk.num_setNum_same, Blk.num_setNum_ne _ _ h] <;> rfl

/-! ### Egress, read after a change -/

theorem Egress.queue_mapQueue_same (e : Egress) (q : Nat) (f : EQueue → EQueue) : (e.mapQueue q f).queue q = f (e.queue q) :=
  mget_mset_same _ _ _ _

theorem Egress.queue_mapQueue_ne (e : Egress) {q r : Nat} (f : EQueue → EQueue) (h : r ≠ q) : (e.mapQueue q f).queue r = e.queue r :=
  mget_mset_ne _ _ _ h

theorem Egress.sub_mapSub_same (e : Egress) (i : Nat) (f : ESub → ESub) : (e.mapSub i f).sub i = f (e.sub i) := mget_mset_same _ _ _ _

theorem Egress.sub_mapSub_ne (e : Egress) {i j : Nat} (f : ESub → ESub) (h : j ≠ i) : (e.mapSub i f).sub j = e.sub j :=
  mget_mset_ne _ _ _ h

@[simp] theorem Egress.queue_mapSub (e : Egress) (i q : Nat) (f : ESub → ESub) : (e.mapSub i f).queue q = e.queue q := rfl

@[simp] theorem Egress.sub_mapQueue (e : Egress) (i q : Nat) (f : EQueue → EQueue) : (e.mapQueue q f).sub i = e.sub i := rfl

@[simp] theorem Egress.port_mapSub (e : Egress) (i p : Nat) (f : ESub → ESub) : (e.mapSub i f).port p = e.port p := rfl

@[simp] theorem Egress.port_mapQueue (e : Egress) (q p : Nat) (f : EQueue → EQueue) : (e.mapQueue q f).port p = e.port p := rfl

@[simp] theorem Egress.queue_mapPort (e : Egress) (q p : Nat) (f : EPort → EPort) : (e.mapPort p f).queue q = e.queue q := by
  unfold Egress.mapPort
  split <;> rfl

@[simp] theorem Egress.sub_mapPort (e : Egress) (i p : Nat) (f : EPort → EPort) : (e.mapPort p f).sub i = e.sub i := by
  unfold Egress.mapPort
  split <;> rfl

theorem Egress.port_mapPort_same (e : Egress) (p : Fin 2) (f : EPort → EPort) : (e.mapPort p.val f).port p.val = f (e.port p.val) := by
  match p with
  | 0 => rfl
  | 1 => rfl

theorem Chan.judgeSub_queue (c : Chan) (i q : Nat) : (c.judgeSub i).egr.queue q = c.egr.queue q := by
  simp only [Chan.judgeSub]
  split <;> rfl

theorem Chan.judgeSub_port (c : Chan) (i p : Nat) : (c.judgeSub i).egr.port p = c.egr.port p := by
  simp only [Chan.judgeSub]
  split <;> rfl

theorem Chan.judgeSub_sub_ne (c : Chan) {i j : Nat} (h : j ≠ i) : (c.judgeSub i).egr.sub j = c.egr.sub j := by
  simp only [Chan.judgeSub]
  split
  · rfl
  · exact Egress.sub_mapSub_ne _ _ h

/-- A subscriber that becomes active, or idle, keeps its virtual time, its shaper and its port. -/
theorem Chan.judgeSub_sub_same (c : Chan) (i : Nat) : ((c.judgeSub i).egr.sub i).virt = (c.egr.sub i).virt ∧
    ((c.judgeSub i).egr.sub i).shaper = (c.egr.sub i).shaper ∧ ((c.judgeSub i).egr.sub i).moved = (c.egr.sub i).moved := by
  simp only [Chan.judgeSub]
  split
  · exact ⟨rfl, rfl, rfl⟩
  · simp only [Chan.onEgr, Egress.sub_mapSub_same]
    exact ⟨trivial, trivial, trivial⟩

/-! ### A packet leaves (R291, R292) -/

section
variable (c : Chan) (p : Nat)

/-- The packet at the head of queue `q` of subscriber `i` goes: port, subscriber and queue take its tags. -/
def Chan.egressSent (i q len : Nat) (rest : List (Nat × List Byte)) : Chan :=
  let c1 := c.onEgr (fun e => e.mapPort p (fun x => { x with virt := (e.sub i).tag, shaper := x.shaper.take len }))
  c1.onEgr (fun e => (e.mapSub i (fun x => { x with virt := (e.queue q).tag, shaper := x.shaper.take len })).mapQueue q (fun x =>
    { x with pkts := rest }))

/-- What stays active moves on by its increment (R292). -/
def Chan.egressMoved (c2 : Chan) (i q len : Nat) : Chan :=
  let c3 := if c2.queueActive q then c2.onEgr (fun e => e.mapQueue q (fun x =>
      { x with tag := (x.tag + tagInc len (c.b.queue q).weight) % 2 ^ 64 })) else c2
  if c3.subActive i then c3.onEgr (fun e => e.mapSub i (fun x =>
    { x with tag := (x.tag + tagInc len (c.b.sub i).weight) % 2 ^ 64 })) else c3

variable {i q len : Nat} {d : List Byte} {rest : List (Nat × List Byte)}

/-- The port is up, may send, and the packet is the one with the smallest tags: it leaves. -/
theorem Chan.streamSend_head (h0 : c.portState p = 0) (hs : (c.egr.port p).shaper.eligible = true) (hf : c.b.fragmentWaits = false)
    (hi : minTag (fun i => (c.egr.sub i).tag) (c.subsListed.filter (fun s => c.subActive s && c.portOf s == p)) = some i)
    (hq : minTag (fun i => (c.egr.queue i).tag) (c.activeQueues i) = some q) (hp : (c.egr.queue q).pkts = (len, d) :: rest) :
    c.streamSend p = ((c.egressMoved (c.egressSent p i q len rest) i q len).judgeSub i).onB (fun b =>
      ((b.bump K.packetsSent).bump K.bytesSent len).emit (.stream p i q
        (envelope 4 d.length c.b.addr (BitVec.ofNat 32 (c.b.sub i).address) ++ d))) := by
  unfold Chan.streamSend
  rw [if_neg (by simp [h0, hs, hf])]
  simp only [hi, hq, hp]
  rfl

theorem Chan.egressMoved_b (c2 : Chan) : (c.egressMoved c2 i q len).b = c2.b := by
  simp only [Chan.egressMoved]
  split <;> split <;> rfl

theorem Chan.egressMoved_port (c2 : Chan) : (c.egressMoved c2 i q len).egr.port p = c2.egr.port p := by
  simp only [Chan.egressMoved]
  split <;> split <;> rfl

theorem Chan.egressMoved_virt (c2 : Chan) : ((c.egressMoved c2 i q len).egr.sub i).virt = (c2.egr.sub i).virt := by
  simp only [Chan.egressMoved]
  split <;> split <;> simp [Chan.onEgr, Egress.sub_mapSub_same]

theorem Chan.egressMoved_queue (c2 : Chan) : ((c.egressMoved c2 i q len).egr.queue q).pkts = (c2.egr.queue q).pkts ∧
    (c2.queueActive q = true → ((c.egressMoved c2 i q len).egr.queue q).tag =
      ((c2.egr.queue q).tag + tagInc len (c.b.queue q).weight) % 2 ^ 64) := by
  simp only [Chan.egressMoved]
  split <;> split <;> simp [Chan.onEgr, Egress.queue_mapQueue_same, *]

theorem Chan.egressSent_reads (pp : Fin 2) :
    ((c.egressSent pp.val i q len rest).egr.queue q).pkts = rest ∧
    ((c.egressSent pp.val i q len rest).egr.queue q).tag = (c.egr.queue q).tag ∧
    ((c.egressSent pp.val i q len rest).egr.sub i).virt = (c.egr.queue q).tag ∧
    ((c.egressSent pp.val i q len rest).egr.port pp.val).virt = (c.egr.sub i).tag := by
  simp [Chan.egressSent, Chan.onEgr, Egress.queue_mapQueue_same, Egress.sub_mapSub_same, Egress.port_mapPort_same]

end

/-- The head of an order by tags is one of the candidates. -/
theorem minTag_mem (tag : Nat → Nat) {l : List Nat} {x : Nat} (h : minTag tag l = some x) : x ∈ l := by
  induction l generalizing x with
  | nil => exact absurd h (by simp [minTag])
  | cons y ys ih =>
    unfold minTag at h
    split at h
    · next hn => simp at h; simp [h]
    · next z hz =>
      split at h
      · simp at h; subst h; exact List.mem_cons_of_mem _ (ih hz)
      · simp at h; simp [h]

/-- What the packet that leaves takes with it (R291, R292). -/
theorem Chan.streamSend_reads (c : Chan) (p : Fin 2) {i q len : Nat} {d : List Byte} {rest : List (Nat × List Byte)}
    (h0 : c.portState p.val = 0) (hs : (c.egr.port p.val).shaper.eligible = true) (hf : c.b.fragmentWaits = false)
    (hi : minTag (fun i => (c.egr.sub i).tag) (c.subsListed.filter (fun s => c.subActive s && c.portOf s == p.val)) = some i)
    (hq : minTag (fun i => (c.egr.queue i).tag) (c.activeQueues i) = some q) (hp : (c.egr.queue q).pkts = (len, d) :: rest) :
    (c.streamSend p.val).b = ((c.b.bump K.packetsSent).bump K.bytesSent len).emit (.stream p.val i q
      (envelope 4 d.length c.b.addr (BitVec.ofNat 32 (c.b.sub i).address) ++ d)) ∧
    ((c.streamSend p.val).egr.queue q).pkts = rest ∧ ((c.streamSend p.val).egr.port p.val).virt = (c.egr.sub i).tag ∧
    ((c.streamSend p.val).egr.sub i).virt = (c.egr.queue q).tag ∧
    (rest ≠ [] → ((c.streamSend p.val).egr.queue q).tag =
      ((c.egr.queue q).tag + tagInc len (c.b.queue q).weight) % 2 ^ 64) := by
  obtain ⟨hpk, htag, hvirt, hport⟩ := Chan.egressSent_reads c (i := i) (q := q) (len := len) (rest := rest) p
  obtain ⟨hmp, hmt⟩ := Chan.egressMoved_queue c (i := i) (q := q) (len := len) (c.egressSent p.val i q len rest)
  have hb : (c.egressMoved (c.egressSent p.val i q len rest) i q len).b = c.b := Chan.egressMoved_b _ _
  have hjb : ((c.egressMoved (c.egressSent p.val i q len rest) i q len).judgeSub i).b = c.b := by
    rw [Chan.judgeSub_egr]
    exact hb
  have hact : rest ≠ [] → (c.egressSent p.val i q len rest).queueActive q = true := by
    intro hne
    have hold := (List.mem_filter.mp (minTag_mem _ hq)).2
    simp only [Chan.queueActive, Bool.and_eq_true] at hold ⊢
    refine ⟨?_, hold.2⟩
    rw [hpk]
    simpa using hne
  rw [Chan.streamSend_head c p.val h0 hs hf hi hq hp]
  have hmport := (congrArg EPort.virt (Chan.egressMoved_port c p.val (i := i) (q := q) (len := len)
    (c.egressSent p.val i q len rest))).trans hport
  have hmvirt := (Chan.egressMoved_virt c (i := i) (q := q) (len := len) (c.egressSent p.val i q len rest)).trans hvirt
  generalize c.egressMoved (c.egressSent p.val i q len rest) i q len = m at *
  refine ⟨?_, ?_, ?_, ?_, ?_⟩
  · rw [Chan.onB_b, hjb]
  · exact (congrArg EQueue.pkts (Chan.judgeSub_queue m i q)).trans (hmp.trans hpk)
  · exact (congrArg EPort.virt (Chan.judgeSub_port m i p.val)).trans hmport
  · exact (Chan.judgeSub_sub_same m i).1.trans hmvirt
  · intro hne
    refine (congrArg EQueue.tag (Chan.judgeSub_queue m i q)).trans ((hmt (hact hne)).trans ?_)
    rw [htag]

end Sys2Proof.Machine

open Sys2Proof Sys2Proof.Machine

/-- Settles O39: the packet with the smallest tags leaves, and takes its tags to the port, the subscriber and the queue. -/
theorem packetsLeaveByTags : Obligations.PacketsLeaveByTags := by
  intro s c p hw
  refine ⟨?_, ?_⟩
  · intro sub q len d rest h0 hf hs hi hq hp
    obtain ⟨hb, hpkts, hport, hvirt, htag⟩ := Chan.streamSend_reads (s.chan c) p h0 hs hf hi hq hp
    have hown := State.atWork_own s c (fun x => x.streamSend p.val) hw
    have hout := State.atWork_out (fun x => x.streamSend p.val) hw
    have hegr := Chan.of_own (·.egr) (fun _ => rfl) hown
    rw [hb] at hout
    refine ⟨_, rfl, State.atWork_beside s c _, ?_, ?_, ?_, ?_, ?_, ?_, ?_⟩
    · exact hout.subset (List.mem_append_right _ List.mem_cons_self)
    · rw [hegr, hpkts]
    · rw [hegr, hport]
    · rw [hegr, hvirt]
    · rw [hegr]
      exact htag
    · refine Chan.counts_of_num hown (by decide) ?_
      rw [hb, Blk.emit_num, Blk.num_bump_ne _ _ (by decide)]
    · refine Chan.counts_of_num hown (by decide) ?_
      rw [hb, Blk.emit_num, Blk.num_bump_bump _ _ (by decide)]
  · intro h
    have hown := State.atWork_own s c (fun x => x.streamSend p.val) hw
    have hsame : (s.chan c).streamSend p.val = s.chan c := if_pos (h.elim Or.inl (fun hf => Or.inr (Or.inr hf)))
    rw [hsame] at hown
    exact ⟨_, rfl, State.atWork_beside s c _, Chan.of_own (·.egr) (fun _ => rfl) hown⟩

end


section
/-! PROOF. Refill ticks, the bus, and the uplink ports (R288, R289, R294, R295, R299, R363 to R365, R414): O40. -/

namespace Sys2Proof.Machine

/-! ### The entries that are listed are listed once -/

theorem nodup_eraseDups (l : List Nat) : l.eraseDups.Nodup := by
  induction hn : l.length using Nat.strongRecOn generalizing l with
  | _ n ih =>
    cases l with
    | nil => exact List.nodup_nil
    | cons a l =>
      rw [List.eraseDups_cons, List.nodup_cons]
      refine ⟨?_, ih _ ?_ _ rfl⟩
      · simp [List.mem_eraseDups]
      · have := List.length_filter_le (fun b => !b == a) l
        simp only [List.length_cons] at hn
        omega

theorem insertBy_perm {α : Type} (key : α → Nat) (x : α) (l : List α) : (insertBy key x l).Perm (x :: l) := by
  induction l with
  | nil => exact List.Perm.refl _
  | cons y ys ih =>
    unfold insertBy
    split
    · exact List.Perm.refl _
    · exact (List.Perm.cons y ih).trans (List.Perm.swap x y ys)

theorem sortBy_perm {α : Type} (key : α → Nat) (l : List α) : (sortBy key l).Perm l := by
  have all : ∀ (l acc : List α), (l.foldl (fun acc x => insertBy key x acc) acc).Perm (l ++ acc) := by
    intro l
    induction l with
    | nil => intro acc; exact List.Perm.refl _
    | cons x xs ih =>
      intro acc
      exact (ih _).trans ((List.Perm.append_left xs (insertBy_perm key x acc)).trans List.perm_middle)
  have h := all l []
  rwa [List.append_nil] at h

theorem sortBy_nodup {l : List Nat} (key : Nat → Nat) (h : l.Nodup) : (sortBy key l).Nodup := (sortBy_perm key l).nodup_iff.mpr h

theorem Chan.queuesListed_nodup (c : Chan) : c.queuesListed.Nodup := sortBy_nodup _ (nodup_eraseDups _)

theorem Chan.subsListed_nodup (c : Chan) : c.subsListed.Nodup := sortBy_nodup _ (nodup_eraseDups _)

/-! ### A refill (R288, R289, R294) -/

/-- A step on the state of one thing leaves the others alone: over a list without repeats each is stepped once. -/
theorem foldl_once {α β : Type} (r : Nat → β → α) (g : β → Nat → β) (f : Nat → α → α) (hs : ∀ x i, r i (g x i) = f i (r i x))
    (hn : ∀ x i j, j ≠ i → r j (g x i) = r j x) {l : List Nat} (hl : l.Nodup) (x : β) (j : Nat) :
    r j (l.foldl g x) = if j ∈ l then f j (r j x) else r j x := by
  induction l generalizing x with
  | nil => rfl
  | cons i l ih =>
    obtain ⟨hi, hl⟩ := List.nodup_cons.mp hl
    rw [List.foldl_cons, ih hl]
    by_cases hj : j = i
    · subst hj
      rw [if_neg hi, if_pos List.mem_cons_self, hs]
    · simp only [List.mem_cons, hj, false_or, hn x i j hj]

section
variable (c : Chan)

/-- The tick of the queues. -/
def Chan.tickQueues : Chan :=
  c.queuesListed.foldl (fun acc q =>
    acc.onEgr (fun e => e.mapQueue q (fun x => x.tick (c.b.queue q).policer (policerOf (c.b.bytes (policerKey q)))))) c

/-- The tick of the subscribers' shapers. -/
def Chan.tickSubs (c1 : Chan) : Chan :=
  c1.subsListed.foldl (fun acc s =>
    let e := c.b.sub s
    (acc.onEgr (fun g => g.mapSub s (fun x => { x with shaper := x.shaper.tick e.shaped e.rate e.burst }))).judgeSub s) c1

/-- The tick of the ports' shapers. -/
def Chan.tickPorts (c2 : Chan) : Chan :=
  [0, 1].foldl (fun acc p =>
    let n := leNat (c.b.bytes (K.port0Shaper + p))
    acc.onEgr (fun e => e.mapPort p (fun x => { x with shaper := x.shaper.tick (bit n 127) (bits n 32 32) (bits n 0 32) }))) c2

theorem Chan.refillEgress_eq : c.refillEgress = c.tickPorts (c.tickSubs c.tickQueues) := rfl

/-- From `x` to `y` nothing of a channel has moved but its egress. -/
def Chan.EgrOnly (x y : Chan) : Prop := ∃ e, y = { x with egr := e }

theorem Chan.EgrOnly.refl (x : Chan) : x.EgrOnly x := ⟨x.egr, rfl⟩

theorem Chan.EgrOnly.trans {x y z : Chan} : x.EgrOnly y → y.EgrOnly z → x.EgrOnly z := by
  rintro ⟨e, rfl⟩ ⟨e', rfl⟩
  exact ⟨e', rfl⟩

theorem Chan.EgrOnly.parts {x y : Chan} : x.EgrOnly y → y.b = x.b ∧ y.pac = x.pac := by
  rintro ⟨e, rfl⟩
  exact ⟨rfl, rfl⟩

theorem Chan.tickQueues_egrOnly : c.EgrOnly c.tickQueues := by
  refine foldl_rel Chan.EgrOnly .refl .trans _ (fun x q => ?_) _ _
  exact ⟨_, rfl⟩

theorem Chan.tickSubs_egrOnly (c1 : Chan) : c1.EgrOnly (c.tickSubs c1) := by
  refine foldl_rel Chan.EgrOnly .refl .trans _ (fun x q => ?_) _ _
  have h1 : ∀ f, x.EgrOnly (x.onEgr f) := fun f => ⟨_, rfl⟩
  exact (h1 _).trans ⟨_, Chan.judgeSub_egr _ q⟩

theorem Chan.tickPorts_egrOnly (c2 : Chan) : c2.EgrOnly (c.tickPorts c2) := by
  refine foldl_rel Chan.EgrOnly .refl .trans _ (fun x q => ?_) _ _
  exact ⟨_, rfl⟩

theorem Chan.refillEgress_egrOnly : c.EgrOnly c.refillEgress := by
  rw [Chan.refillEgress_eq]
  exact ((Chan.tickQueues_egrOnly c).trans (Chan.tickSubs_egrOnly c _)).trans (Chan.tickPorts_egrOnly c _)

theorem Chan.tickQueues_queue {q : Nat} (h : q ∈ c.queuesListed) : c.tickQueues.egr.queue q =
    (c.egr.queue q).tick (c.b.queue q).policer (policerOf (c.b.bytes (policerKey q))) := by
  have hone := foldl_once (fun i (x : Chan) => x.egr.queue i)
    (fun acc q => acc.onEgr (fun e => e.mapQueue q (fun x => x.tick (c.b.queue q).policer (policerOf (c.b.bytes (policerKey q))))))
    (fun q x => x.tick (c.b.queue q).policer (policerOf (c.b.bytes (policerKey q))))
    (fun x i => Egress.queue_mapQueue_same _ _ _) (fun x i j hj => Egress.queue_mapQueue_ne _ _ hj) (Chan.queuesListed_nodup c) c q
  exact hone.trans (if_pos h)

theorem Chan.tickQueues_subs : c.tickQueues.egr.subs = c.egr.subs := by
  have h := foldl_keeps (fun x : Chan => x.egr.subs)
    (fun (acc : Chan) q => acc.onEgr (fun e => e.mapQueue q (fun x => x.tick (c.b.queue q).policer (policerOf (c.b.bytes (policerKey q))))))
    (fun _ _ => rfl) c.queuesListed c
  exact h

theorem Chan.tickQueues_subsListed : c.tickQueues.subsListed = c.subsListed := by
  have hb : c.tickQueues.b = c.b := (Chan.tickQueues_egrOnly c).parts.1
  simp only [Chan.subsListed, Chan.tickQueues_subs, hb]

theorem Chan.tickSubs_queue (c1 : Chan) (q : Nat) : (c.tickSubs c1).egr.queue q = c1.egr.queue q := by
  have h := foldl_keeps (fun x : Chan => x.egr.queue q)
    (fun acc s => (acc.onEgr (fun g => g.mapSub s (fun x =>
      { x with shaper := x.shaper.tick (c.b.sub s).shaped (c.b.sub s).rate (c.b.sub s).burst }))).judgeSub s)
    (fun x s => Chan.judgeSub_queue _ s q) c1.subsListed c1
  exact h

theorem Chan.tickSubs_shaper (c1 : Chan) {i : Nat} (h : i ∈ c1.subsListed) : ((c.tickSubs c1).egr.sub i).shaper =
    (c1.egr.sub i).shaper.tick (c.b.sub i).shaped (c.b.sub i).rate (c.b.sub i).burst := by
  have hone := foldl_once (fun i (x : Chan) => (x.egr.sub i).shaper)
    (fun acc s => (acc.onEgr (fun g => g.mapSub s (fun x =>
      { x with shaper := x.shaper.tick (c.b.sub s).shaped (c.b.sub s).rate (c.b.sub s).burst }))).judgeSub s)
    (fun s x => x.tick (c.b.sub s).shaped (c.b.sub s).rate (c.b.sub s).burst)
    (fun x i => (Chan.judgeSub_sub_same _ i).2.1.trans (congrArg ESub.shaper (Egress.sub_mapSub_same _ _ _)))
    (fun x i j hj => congrArg ESub.shaper ((Chan.judgeSub_sub_ne _ hj).trans (Egress.sub_mapSub_ne _ _ hj)))
    (Chan.subsListed_nodup c1) c1 i
  exact hone.trans (if_pos h)

theorem Chan.tickPorts_queue (c2 : Chan) (q : Nat) : (c.tickPorts c2).egr.queue q = c2.egr.queue q :=
  foldl_keeps (fun x : Chan => x.egr.queue q) _ (fun _ _ => Egress.queue_mapPort _ _ _ _) _ _

theorem Chan.tickPorts_sub (c2 : Chan) (i : Nat) : (c.tickPorts c2).egr.sub i = c2.egr.sub i :=
  foldl_keeps (fun x : Chan => x.egr.sub i) _ (fun _ _ => Egress.sub_mapPort _ _ _ _) _ _

/-- A refill ticks every policer (R288, R289). -/
theorem Chan.refillEgress_queue {q : Nat} (h : q ∈ c.queuesListed) : c.refillEgress.egr.queue q =
    (c.egr.queue q).tick (c.b.queue q).policer (policerOf (c.b.bytes (policerKey q))) := by
  rw [Chan.refillEgress_eq, Chan.tickPorts_queue, Chan.tickSubs_queue, Chan.tickQueues_queue c h]

/-- A refill ticks every shaper (R294). -/
theorem Chan.refillEgress_shaper {i : Nat} (h : i ∈ c.subsListed) : (c.refillEgress.egr.sub i).shaper =
    (c.egr.sub i).shaper.tick (c.b.sub i).shaped (c.b.sub i).rate (c.b.sub i).burst := by
  have hs : c.tickQueues.egr.sub i = c.egr.sub i := by simp only [Egress.sub, Chan.tickQueues_subs]
  rw [Chan.refillEgress_eq, Chan.tickPorts_sub, Chan.tickSubs_shaper c _ ((Chan.tickQueues_subsListed c).symm ▸ h), hs]

/-! ### The pacer (R365) -/

theorem Chan.grant_keeps (bus fuel : Nat) : (c.grant bus fuel).egr = c.egr ∧ (c.grant bus fuel).pac.back = c.pac.back := by
  induction fuel generalizing c with
  | zero => exact ⟨rfl, rfl⟩
  | succ n ih =>
    unfold Chan.grant
    split
    · exact ⟨rfl, rfl⟩
    · extract_lets cost c1
      split
      · exact ⟨rfl, rfl⟩
      · exact ih _

/-- A tick of the pacer with no wake waiting (R365). -/
theorem Chan.pacerTick_reads (bus fraction : Nat) : (c.pacerTick bus fraction).egr = c.egr ∧ (c.pacerTick bus fraction).pac.back = 0 ∧
    (c.pac.queue = [] → (c.pacerTick bus fraction).pac.level =
      min (c.b.num K.wakeDepth * 1000) (c.pac.level + c.pac.back + c.b.wakeRateAt bus fraction)) := by
  unfold Chan.pacerTick
  extract_lets size rate c1
  obtain ⟨hegr, hback⟩ := Chan.grant_keeps c1 bus c1.pac.queue.length
  refine ⟨hegr, hback, fun hq => ?_⟩
  have h0 : c1.pac.queue.length = 0 := congrArg List.length hq
  rw [h0]
  rfl

end

/-! ### The bus (R363, R364) -/

section
variable (h : Shared) (code chan : Nat)

theorem Shared.bump_num_ne (h : Shared) {k j : Nat} (e : j ≠ k) : (h.bump k).num j = h.num j := Shared.num_setNum_ne h _ e

/-- A sample of the bus: the last eight readings, the state that their mean decides, and whether the bus enters droop. -/
theorem Shared.sample_reads : (h.sample code chan).1.samples = (h.reading code :: h.samples).take 8 ∧
    (h.sample code chan).1.num K.busState = h.busNext (mean ((h.reading code :: h.samples).take 8)) ∧
    (h.sample code chan).2.1 = (decide (h.busNext (mean ((h.reading code :: h.samples).take 8)) = busDroop) &&
      decide (h.num K.busState ≠ busDroop)) := by
  unfold Shared.sample
  extract_lets mv samples f old st sh1 droop ovr sh2 sh3
  refine ⟨?_, Shared.num_setNum_same _ _ _, rfl⟩
  show sh3.samples = samples
  have h2 : sh2.samples = samples := by
    show (if droop then sh1.bump K.droopEvents else sh1).samples = _
    split <;> rfl
  show (if ovr then sh2.bump K.overrangeEvents else sh2).samples = _
  split <;> exact h2

end

theorem Shared.reading_of_num {a b : Shared} (h : ∀ k, k ≠ K.coreTargetMv → k ≠ K.removalReady → a.num k = b.num k) (code f : Nat) :
    a.reading code = b.reading code ∧ a.busNext f = b.busNext f := by
  constructor
  · unfold Shared.reading
    rw [h _ (by decide) (by decide)]
  · unfold Shared.busNext
    rw [h _ (by decide) (by decide), h _ (by decide) (by decide), h _ (by decide) (by decide)]

/-- Every channel in C0 raises the event of the supply when the bus enters droop (R364). -/
theorem State.signalSupply_evt (s : State) (ovr : Bool) (d : Ch) (hc : (s.chan d).inC0 = true) (hl : (s.chan d).b.isLeaf = false) :
    ((s.signalSupply true ovr).chan d).b.evt.getLsbD irqSupply = true := by
  have he : ((s.chan d).b.raiseEvt irqSupply).evt.getLsbD irqSupply = true := Blk.raiseEvt_set hl (by decide)
  simp only [State.signalSupply, State.chan, Quad.get_map]
  rw [if_neg (by rw [show (s.ch.get d).inC0 = true from hc]; decide)]
  have herr : ∀ b : Blk, (b.raiseErr irqSupply).evt = b.evt := fun b => by
    unfold Blk.raiseErr
    split <;> rfl
  cases ovr
  · exact he
  · simp only [if_true, Chan.onB_b, herr]
    exact he

theorem Blk.seated_trans {a b c : Blk} (h1 : a.Seated b) (h2 : b.Seated c) : a.Seated c := by
  obtain ⟨l1, p1, n1, f1, g1⟩ := h1
  obtain ⟨l2, p2, n2, f2, g2⟩ := h2
  exact ⟨l1.trans l2, p1.trans p2, n1.trans n2, f1.trans f2, g1.trans g2⟩

theorem Chan.tick_seat (c : Chan) (bus fraction : Nat) : (c.refillEgress.pacerTick bus fraction).b.Seated c.b :=
  Blk.seated_trans (Chan.pacerTick_seat _ _ _) (Chan.refillEgress_seat _)

theorem Chan.seat_of_apart {x y : Chan} (h : x.apart = y.apart) : x.b.Seated y.b := by
  have e : x.apart.b = y.apart.b := by rw [h]
  simp only [Chan.apart, Blk.mk.injEq] at e
  simp [Blk.Seated, e]

/-! ### The uplink ports (R299, R414) -/

section
variable (c : Chan)

theorem port_not_fault (p : Fin 2) : isFaultKey (K.port0State + p.val) = false := by
  revert p
  decide

theorem Chan.backpressure_on (p : Nat) (h : c.portState p = 0) : c.backpressure p true = c.onB (fun b => b.setNum (K.port0State + p) 1) := by
  simp only [Chan.backpressure, h, if_true]

theorem Chan.backpressure_off (p : Nat) (h : c.portState p = 1) : c.backpressure p false = c.onB (fun b => b.setNum (K.port0State + p) 0) := by
  simp only [Chan.backpressure, h, if_true, Bool.false_eq_true, if_false]

theorem Chan.rebind_moved (i j : Nat) (m : Bool) : ((c.rebind i m).egr.sub j).moved = if j = i then m else (c.egr.sub j).moved := by
  unfold Chan.rebind
  split
  · next h =>
    subst h
    rw [(Chan.judgeSub_sub_same _ _).2.2]
    exact congrArg ESub.moved (Egress.sub_mapSub_same _ _ _)
  · next h =>
    rw [Chan.judgeSub_sub_ne _ h]
    exact congrArg ESub.moved (Egress.sub_mapSub_ne _ _ h)

/-- A home port that returns takes its subscribers back (R299). -/
theorem Chan.portReturn_moved (p : Nat) (h2 : c.portState p ≠ 2) (hu : c.b.num K.portReturnFrames ≤ (c.egr.port p).up) {i : Nat}
    (hi : i ∈ c.subsListed) (hp : (c.b.sub i).port = p) : ((c.portReturn p).egr.sub i).moved = false := by
  have all : ∀ (l : List Nat) (x : Chan), ((l.foldl (fun acc s => acc.rebind s false) x).egr.sub i).moved =
      if i ∈ l then false else (x.egr.sub i).moved := by
    intro l
    induction l with
    | nil => intro x; rfl
    | cons j l ih =>
      intro x
      rw [List.foldl_cons, ih, Chan.rebind_moved]
      by_cases hj : i = j
      · simp [hj]
      · simp [hj]
  unfold Chan.portReturn
  rw [if_neg (by omega), all]
  split
  · rfl
  · next hn =>
    have hm : ¬ (c.egr.sub i).moved = true := fun hm => hn (List.mem_filter.mpr ⟨hi, by simp [hm, hp]⟩)
    simpa using hm

end

end Sys2Proof.Machine

open Sys2Proof Sys2Proof.Machine

/-- Settles O40: a refill steps every bucket once, a sample decides the bus, and a port's state is its register. -/
theorem bucketsRefill : Obligations.BucketsRefill := by
  refine ⟨?_, ?_⟩
  · intro s c
    refine ⟨?_, ?_, ?_⟩
    · intro hw
      have hown := State.atWork_own s c (fun x => x.refillEgress.pacerTick (s.sh.num K.busState) (s.sh.num K.droopFraction)) hw
      have hegr := Chan.of_own (·.egr) (fun _ => rfl) hown
      have hpac := Chan.of_own (·.pac) (fun _ => rfl) hown
      obtain ⟨he, hback, hlevel⟩ := Chan.pacerTick_reads (s.chan c).refillEgress (s.sh.num K.busState) (s.sh.num K.droopFraction)
      rw [he] at hegr
      obtain ⟨hrb, hrp⟩ := (Chan.refillEgress_egrOnly (s.chan c)).parts
      rw [hrb, hrp] at hlevel
      refine ⟨_, rfl, State.atWork_beside s c _, ?_, ?_, ?_, ?_⟩
      · intro q hq
        rw [hegr, Chan.refillEgress_queue _ hq]
      · intro i hi
        rw [hegr, Chan.refillEgress_shaper _ hi]
      · rw [hpac, hback]
      · intro hq
        rw [hpac, hlevel hq]
    · intro code hw hpow hseat f
      have hnum : ∀ k, k ≠ K.coreTargetMv → k ≠ K.removalReady →
          (s.atWork c (fun x => x.refillEgress.pacerTick (s.sh.num K.busState) (s.sh.num K.droopFraction))).sh.num k = s.sh.num k :=
        fun k h1 h2 => State.atWork_shNum s c _ h1 h2
      obtain ⟨hleaf, hsh, hothers⟩ := State.atWork_beside s c
        (fun x => x.refillEgress.pacerTick (s.sh.num K.busState) (s.sh.num K.droopFraction))
      have hown := State.atWork_own s c (fun x => x.refillEgress.pacerTick (s.sh.num K.busState) (s.sh.num K.droopFraction)) hw
      have hexec : exec (.refillTick c (some code)) s =
          .next ((s.atWork c (fun x => x.refillEgress.pacerTick (s.sh.num K.busState) (s.sh.num K.droopFraction))).busSample c
            code.toNat) := congrArg Host.Outcome.next (if_pos (by rw [hpow, hw]; rfl))
      refine ⟨_, hexec, ?_⟩
      have hseats : ∀ d, ((s.atWork c (fun x =>
          x.refillEgress.pacerTick (s.sh.num K.busState) (s.sh.num K.droopFraction))).chan d).b.Seated (s.chan d).b := by
        intro d
        by_cases hd : d = c
        · subst hd
          exact Blk.seated_trans (Chan.seat_of_own hown) (Chan.tick_seat _ _ _)
        · exact Chan.seat_of_apart (hothers d hd)
      generalize s.atWork c (fun x => x.refillEgress.pacerTick (s.sh.num K.busState) (s.sh.num K.droopFraction)) = u at *
      have hsamples : u.sh.samples = s.sh.samples := by
        have h := congrArg Shared.samples hsh
        exact h
      obtain ⟨h1, h2, h3⟩ := Shared.sample_reads u.sh code.toNat c.val
      rw [(Shared.reading_of_num hnum code.toNat 0).1, hsamples, (Shared.reading_of_num hnum 0 _).2] at h2 h3
      rw [(Shared.reading_of_num hnum code.toNat 0).1, hsamples] at h1
      refine ⟨hleaf, h1, h2, ?_⟩
      intro hdroop hold d hd
      rw [hnum _ (by decide) (by decide)] at h3
      rw [decide_eq_true hdroop, decide_eq_true hold] at h3
      simp only [State.busSample, h3]
      obtain ⟨hl, _, _, _, hphase⟩ := hseats d
      refine State.signalSupply_evt _ _ d ?_ (hl.trans (hseat.2 d).1)
      rw [← hd]
      simp only [Chan.inC0]
      rw [show ({ u with sh := (u.sh.sample code.toNat c.val).1 } : State).chan d = u.chan d from rfl, hphase]
    · intro hpow hbus hgood
      refine ⟨_, rfl, ?_⟩
      have h : s.onShared Shared.recover = { s with sh := s.sh.setNum K.busState busNormal } := by
        simp only [State.onShared, hpow, if_true, Shared.recover]
        rw [if_pos ⟨hbus, hgood⟩]
      rw [h]
      exact ⟨rfl, rfl, Shared.num_setNum_same _ _ _⟩
  · intro s c p hw
    refine ⟨?_, ?_, ?_⟩
    · intro h
      have hown := State.atWork_own s c (fun x => x.backpressure p.val true) hw
      rw [Chan.backpressure_on _ _ h] at hown
      refine ⟨_, rfl, State.atWork_beside s c _, ?_, ?_⟩
      · exact (Chan.num_of_own hown (port_not_fault p)).trans (Blk.num_setNum_same _ _ _)
      · have hegr := Chan.of_own (·.egr) (fun _ => rfl) hown
        rw [hegr, Chan.onB_egr]
    · intro h
      have hown := State.atWork_own s c (fun x => x.backpressure p.val false) hw
      rw [Chan.backpressure_off _ _ h] at hown
      refine ⟨_, rfl, State.atWork_beside s c _, ?_, ?_⟩
      · exact (Chan.num_of_own hown (port_not_fault p)).trans (Blk.num_setNum_same _ _ _)
      · have hegr := Chan.of_own (·.egr) (fun _ => rfl) hown
        rw [hegr, Chan.onB_egr]
    · intro h2 hu
      have hown := State.atWork_own s c (fun x => x.portReturn p.val) hw
      have hegr := Chan.of_own (·.egr) (fun _ => rfl) hown
      refine ⟨_, rfl, State.atWork_beside s c _, ?_⟩
      intro i hi hp
      rw [hegr]
      exact Chan.portReturn_moved _ _ h2 hu hi hp

end

section
/-! PROOF. The movers and the memory of a channel (R337 to R344, R425): movers take descriptors (O44). -/

namespace Sys2Proof.Machine

/-! ### What presenting requests leaves of the memory (R344) -/

/-- A client but for the count of its requests. -/
def Dma.plan (d : Dma) : Dma := { d with asked := 0, sent := 0, live := 0 }

/-- Between the two memories the windows stand, and the clients but for the count of their requests. -/
structure Mem.Planned (a b : Mem) : Prop where
  sram : b.sram = a.sram
  dram : b.dram = a.dram
  plan : ∀ k, (b.client k).plan = (a.client k).plan

theorem Mem.Planned.refl (a : Mem) : a.Planned a := ⟨rfl, rfl, fun _ => rfl⟩

theorem Mem.Planned.trans {a b c : Mem} (h : a.Planned b) (g : b.Planned c) : a.Planned c :=
  ⟨g.sram.trans h.sram, g.dram.trans h.dram, fun k => (g.plan k).trans (h.plan k)⟩

theorem Mem.client_mapClient_ne (m : Mem) {k j : Nat} (f : Dma → Dma) (h : j ≠ k) : (m.mapClient k f).client j = m.client j :=
  mget_mset_ne _ _ _ h

theorem Mem.planned_mapClient (m : Mem) (k : Nat) {f : Dma → Dma} (hf : ∀ d, (f d).plan = d.plan) : m.Planned (m.mapClient k f) := by
  refine ⟨rfl, rfl, fun j => ?_⟩
  by_cases hj : j = k
  · rw [hj, Mem.client_mapClient_same, hf]
  · rw [Mem.client_mapClient_ne _ _ hj]

/-- A client that presents a request of a kind. -/
def Dma.presents (kind : Nat) (d : Dma) : Dma :=
  if 2 ≤ kind then { d with sent := d.sent + 1, live := d.live + 1 } else { d with asked := d.asked + 1, live := d.live + 1 }

theorem Dma.presents_plan (kind : Nat) (d : Dma) : (d.presents kind).plan = d.plan := by
  unfold Dma.presents
  split <;> rfl

theorem Chan.present_planned {c c1 : Chan} {k : Nat} (h : c.present k = some c1) : c.mem.Planned c1.mem := by
  simp only [Chan.present] at h
  split at h
  · next kind _ _ _ _ _ _ _ _ =>
    split at h
    · cases h
    · cases h
      exact ⟨rfl, rfl, (Mem.planned_mapClient c.mem k (Dma.presents_plan kind)).plan⟩
  · cases h

theorem Chan.presentOne_planned {c c1 : Chan} {ks : List Nat} (h : c.presentOne ks = some c1) : c.mem.Planned c1.mem := by
  induction ks with
  | nil => cases h
  | cons k ks ih =>
    simp only [Chan.presentOne] at h
    split at h
    · next hk =>
      cases h
      exact Chan.present_planned hk
    · exact ih h

theorem Chan.present64_planned (c : Chan) (fuel : Nat) : c.mem.Planned (c.present64 fuel).mem := by
  induction fuel generalizing c with
  | zero => exact .refl _
  | succ fuel ih =>
    simp only [Chan.present64]
    split
    · exact .refl _
    · next c1 h => exact (Chan.presentOne_planned h).trans (ih c1)

@[simp] theorem Chan.present64_num (c : Chan) (fuel k : Nat) : (c.present64 fuel).b.num k = c.b.num k := by
  simp only [Blk.num, Chan.present64_val]

@[simp] theorem Chan.onMem_b (c : Chan) (f : Mem → Mem) : (c.onMem f).b = c.b := rfl
@[simp] theorem Chan.onMem_mem (c : Chan) (f : Mem → Mem) : (c.onMem f).mem = f c.mem := rfl

/-! ### The keys of a mover -/

section
variable {m : Nat} (hm : m < 8)
include hm

theorem moverState_not_fault : isFaultKey (moverKey K.state m) = false := by
  simp only [isFaultKey, moverKey, K.state, beq_eq_false_iff_ne]; omega

theorem current_not_fault : isFaultKey (K.current + 256 * m) = false := by
  simp only [isFaultKey, K.current, beq_eq_false_iff_ne]; omega

theorem lastStatus_not_fault : isFaultKey (moverKey K.lastStatus m) = false := by
  simp only [isFaultKey, moverKey, K.lastStatus, beq_eq_false_iff_ne]; omega

end

theorem moverState_ne_current (m : Nat) : moverKey K.state m ≠ moverKey K.current m := by
  simp only [moverKey, K.state, K.current]; omega

theorem lastStatus_ne_state (m : Nat) : moverKey K.lastStatus m ≠ moverKey K.state m := by
  simp only [moverKey, K.state, K.lastStatus]; omega

theorem moverErrors_ne_state (m : Nat) : K.moverErrors ≠ moverKey K.state m := by
  simp only [moverKey, K.state, K.moverErrors]; omega

theorem moverErrors_ne_lastStatus (m : Nat) : K.moverErrors ≠ moverKey K.lastStatus m := by
  simp only [moverKey, K.moverErrors, K.lastStatus]; omega

/-! ### A mover turns to a descriptor, and takes it apart (R338, R339, R343) -/

/-- A mover that turns to a descriptor fetches it; the windows stand. -/
theorem Chan.fetchDesc_reads (c : Chan) (m a : Nat) :
    (c.fetchDesc m a).moverState m = c.moverState m ∧ (c.fetchDesc m a).descOf m = a ∧
    ((c.fetchDesc m a).mem.client m).plan = { Dma.idle with phase := .fetch } ∧
    (c.fetchDesc m a).mem.sram = c.mem.sram ∧ (c.fetchDesc m a).mem.dram = c.mem.dram := by
  unfold Chan.fetchDesc
  have h := Chan.present64_planned ((c.onB (fun b => b.setNum (moverKey K.current m) a)).onMem (fun x => x.mapClient m (fun _ =>
    { Dma.idle with phase := .fetch }))) 64
  refine ⟨?_, ?_, ?_, h.sram, h.dram⟩
  · rw [Chan.present64_moverState, Chan.onMem_moverState]
    exact Blk.num_setNum_ne _ _ (moverState_ne_current m)
  · rw [Chan.descOf, Chan.present64_num]
    exact Blk.num_setNum_same _ _ _
  · rw [h.plan, Chan.onMem_mem, Mem.client_mapClient_same]
    rfl

/-- What a mover halted for a status reads (R339 step 5). -/
theorem Chan.moverHalt_reads (c : Chan) (m st : Nat) :
    (c.moverHalt m st).moverState m = 3 ∧ (c.moverHalt m st).b.num (moverKey K.lastStatus m) = st ∧
    (c.moverHalt m st).b.num K.moverErrors = (c.b.bump K.moverErrors).num K.moverErrors := by
  refine ⟨?_, ?_, ?_⟩
  · simp [Chan.moverHalt, Chan.moverState]
  · simp [Chan.moverHalt, Blk.num_setNum_ne _ _ (lastStatus_ne_state m)]
  · simp [Chan.moverHalt, Blk.num_setNum_ne _ _ (moverErrors_ne_state m), Blk.num_setNum_ne _ _ (moverErrors_ne_lastStatus m)]

@[simp] theorem Chan.openBytes_mem (c : Chan) (d : Dma) (data : List Byte) : (c.openBytes d data).2.mem = c.mem := by
  unfold Chan.openBytes
  extract_lets sl inSrc
  split <;> rfl

/-- The descriptor that 32 bytes, read as a number, hold (Table 14.2). -/
def Dma.ofDescriptor (n : Nat) : Dma :=
  { Dma.idle with phase := .read, src := bits n 192 64, dst := bits n 128 64, len := bits n 96 32, control := bits n 64 32,
                  next := bits n 0 64 }

/-- Between two memories the windows stand, and client `m` is about the transfer of `x`. -/
structure Mem.Takes (a b : Mem) (m : Nat) (x : Dma) : Prop where
  sram : b.sram = a.sram
  dram : b.dram = a.dram
  src : (b.client m).src = x.src
  dst : (b.client m).dst = x.dst
  len : (b.client m).len = x.len
  control : (b.client m).control = x.control
  next : (b.client m).next = x.next

theorem Mem.Takes.planned {a b e : Mem} {m : Nat} {x : Dma} (h : a.Takes b m x) (g : b.Planned e) : a.Takes e m x := by
  have hp := g.plan m
  exact ⟨g.sram.trans h.sram, g.dram.trans h.dram, (congrArg Dma.src hp).trans h.src, (congrArg Dma.dst hp).trans h.dst,
    (congrArg Dma.len hp).trans h.len, (congrArg Dma.control hp).trans h.control, (congrArg Dma.next hp).trans h.next⟩

theorem Mem.Takes.mapClient {a b : Mem} {m : Nat} {x : Dma} (h : a.Takes b m x) (f : Dma → Dma)
    (hf : ∀ d, (f d).src = d.src ∧ (f d).dst = d.dst ∧ (f d).len = d.len ∧ (f d).control = d.control ∧ (f d).next = d.next) :
    a.Takes (b.mapClient m f) m x := by
  obtain ⟨hsrc, hdst, hlen, hcontrol, hnext⟩ := hf (b.client m)
  refine ⟨h.sram, h.dram, ?_, ?_, ?_, ?_, ?_⟩ <;> rw [Mem.client_mapClient_same]
  · exact hsrc.trans h.src
  · exact hdst.trans h.dst
  · exact hlen.trans h.len
  · exact hcontrol.trans h.control
  · exact hnext.trans h.next

theorem Mem.takes_mapClient (a : Mem) (m : Nat) (x : Dma) : a.Takes (a.mapClient m (fun _ => x)) m x := by
  refine ⟨rfl, rfl, ?_, ?_, ?_, ?_, ?_⟩ <;> rw [Mem.client_mapClient_same]

/-- A descriptor in a window, whose bytes `x` is: the mover takes it, and what moves nothing ends at once. -/
def Chan.takeDescriptor (c : Chan) (m : Nat) (x : Dma) : Chan :=
  let c1 := c.onMem (fun y => y.mapClient m (fun _ => x))
  if x.len = 0 then c1.onMem (fun y => y.mapClient m (fun z => { z with phase := .write }))
  else if x.addressStatus ≠ 1 then c1.onMem (fun y => y.mapClient m (fun z => { z with phase := .write, status := x.addressStatus }))
  else if spaceOf x.src = 0 then c1.present64 64
  else c1.moveOut m

theorem Chan.descFetch_window {c : Chan} {m : Nat} (hphase : (c.mem.client m).phase = .fetch) (hok : descAddrOk (c.descOf m) = true)
    (hs : spaceOf (c.descOf m) ≠ 0) (hr : (c.mem.client m).readFault = none) :
    c.descFetch m = c.takeDescriptor m
      (Dma.ofDescriptor (leNat (winRead (c.mem.window (spaceOf (c.descOf m))) (offsetOf (c.descOf m)) 32))) := by
  rw [Chan.descFetch, if_neg (by rw [hphase]; decide), if_neg (by rw [hok]; decide), if_neg (by rw [hr]; decide),
    if_neg (fun h => hs h.1)]
  simp only [if_neg hs]
  rfl

theorem Chan.takeDescriptor_takes (c : Chan) (m : Nat) (x : Dma) : c.mem.Takes (c.takeDescriptor m x).mem m x := by
  have h := Mem.takes_mapClient c.mem m x
  unfold Chan.takeDescriptor
  extract_lets c1
  split
  · rw [Chan.onMem_mem]
    exact h.mapClient _ (fun _ => ⟨rfl, rfl, rfl, rfl, rfl⟩)
  · split
    · rw [Chan.onMem_mem]
      exact h.mapClient _ (fun _ => ⟨rfl, rfl, rfl, rfl, rfl⟩)
    · split
      · exact h.planned (Chan.present64_planned c1 64)
      · refine Mem.Takes.planned ?_ (Chan.present64_planned _ 64)
        rw [Chan.onMem_mem, Chan.openBytes_mem]
        exact h.mapClient _ (fun _ => ⟨rfl, rfl, rfl, rfl, rfl⟩)

/-- A descriptor of length 0 moves nothing (R339). -/
theorem Chan.takeDescriptor_empty {c : Chan} {m : Nat} {x : Dma} (h : x.len = 0) :
    (c.takeDescriptor m x).mem.client m = { x with phase := .write } := by
  rw [Chan.takeDescriptor, if_pos h, Chan.onMem_mem, Mem.client_mapClient_same, Chan.onMem_mem, Mem.client_mapClient_same]

/-- A descriptor with a bad range or alignment ends with that status (R339, R341). -/
theorem Chan.takeDescriptor_bad {c : Chan} {m : Nat} {x : Dma} (h : 0 < x.len) (ha : x.addressStatus ≠ 1) :
    (c.takeDescriptor m x).mem.client m = { x with phase := .write, status := x.addressStatus } := by
  rw [Chan.takeDescriptor, if_neg (Nat.pos_iff_ne_zero.mp h), if_pos ha, Chan.onMem_mem, Mem.client_mapClient_same, Chan.onMem_mem,
    Mem.client_mapClient_same]

theorem Dma.addressStatus_congr {d x : Dma} (hsrc : d.src = x.src) (hdst : d.dst = x.dst) (hlen : d.len = x.len)
    (hcontrol : d.control = x.control) : d.addressStatus = x.addressStatus := by
  unfold Dma.addressStatus
  rw [hsrc, hdst, hlen, hcontrol]

theorem Chan.descFetch_halts {c : Chan} {m : Nat} (hphase : (c.mem.client m).phase = .fetch) (hok : descAddrOk (c.descOf m) = false) :
    c.descFetch m = c.moverHalt m 0x81 := by
  rw [Chan.descFetch, if_neg (by rw [hphase]; decide), if_pos (by rw [hok]; decide)]

theorem exec_moverStart (c : Ch) (m : Fin 8) (a : Word64) (s : State) : exec (.moverStart c m a) s =
    .next (s.chanRow c (K.start + 256 * m.val) (.num a.toNat) (fun x y => x.moverStart m.val y.toNum)) := rfl

theorem exec_moverStop (c : Ch) (m : Fin 8) (s : State) : exec (.moverStop c m) s =
    .next (s.chanRow c (K.stop + 256 * m.val) (.num 1) (fun x _ => x.moverStop m.val)) := rfl

theorem exec_descriptorFetch (c : Ch) (m : Fin 8) (s : State) :
    exec (.descriptorFetch c m) s = .next (s.atWork c (fun x => x.descFetch m.val)) := rfl

/-- MOVER_START turns the mover to the descriptor (R343). -/
theorem Chan.moverStart_reads (c : Chan) (m a : Nat) :
    (c.moverStart m a).moverState m = 1 ∧ (c.moverStart m a).descOf m = a ∧ ((c.moverStart m a).mem.client m).phase = .fetch ∧
    (c.moverStart m a).mem.sram = c.mem.sram ∧ (c.moverStart m a).mem.dram = c.mem.dram := by
  obtain ⟨hstate, hdesc, hplan, hsram, hdram⟩ := Chan.fetchDesc_reads (c.onB (fun b => b.setNum (moverKey K.state m) 1)) m a
  exact ⟨hstate.trans (Blk.num_setNum_same _ _ _), hdesc, (congrArg Dma.phase hplan : _), hsram, hdram⟩

/-- MOVER_STOP lets a running mover finish, and does nothing to another (R342). -/
theorem Chan.moverStop_reads (c : Chan) (m : Nat) :
    (c.moverStop m).moverState m = (if c.moverState m = 1 then 2 else c.moverState m) ∧ (c.moverStop m).mem = c.mem := by
  unfold Chan.moverStop
  split
  · exact ⟨Blk.num_setNum_same _ _ _, rfl⟩
  · exact ⟨rfl, rfl⟩

end Sys2Proof.Machine

open Sys2Proof Sys2Proof.Machine

/-- Settles O44: what presenting requests leaves of the memory, and what a mover takes from its descriptor. -/
theorem moversTakeDescriptors : Obligations.MoversTakeDescriptors := by
  unfold Obligations.MoversTakeDescriptors
  intro s c m
  refine ⟨fun a hp => ?_, fun hp => ?_, fun hw hphase => ⟨fun hok hs hr => ?_, fun hok => ?_⟩⟩
  · refine ⟨_, exec_moverStart c m a s, State.chanRow_beside _ hp, ?_⟩
    obtain ⟨hstate, hdesc, hph, hsram, hdram⟩ := Chan.moverStart_reads (s.chan c).writing m.val a.toNat
    have hmem := State.chanRow_part (fun x y => x.moverStart m.val y.toNum) hp Chan.mem (fun _ => rfl) (fun _ _ => rfl)
    refine ⟨(State.chanRow_num _ hp (moverState_not_fault m.isLt)).trans hstate,
      (State.chanRow_num _ hp (current_not_fault m.isLt)).trans hdesc, ?_, ?_, ?_⟩
    · rw [hmem]; exact hph
    · rw [hmem]; exact hsram
    · rw [hmem]; exact hdram
  · refine ⟨_, exec_moverStop c m s, State.chanRow_beside _ hp, ?_⟩
    obtain ⟨hstate, hmem⟩ := Chan.moverStop_reads (s.chan c).writing m.val
    refine ⟨(State.chanRow_num _ hp (moverState_not_fault m.isLt)).trans hstate, ?_⟩
    rw [State.chanRow_part (fun x _ => x.moverStop m.val) hp Chan.mem (fun _ => rfl) (fun _ _ => rfl)]
    exact hmem
  · refine ⟨_, exec_descriptorFetch c m s, State.atWork_beside s c _, ?_⟩
    have hmem := Chan.of_own Chan.mem (fun _ => rfl) (State.atWork_own s c (fun x => x.descFetch m.val) hw)
    rw [hmem, Chan.descFetch_window hphase hok hs hr]
    have ht := Chan.takeDescriptor_takes (s.chan c) m.val
      (Dma.ofDescriptor (leNat (winRead ((s.chan c).mem.window (spaceOf ((s.chan c).descOf m.val))) (offsetOf ((s.chan c).descOf m.val)) 32)))
    refine ⟨ht.sram, ht.dram, ht.src, ht.dst, ht.len, ht.control, ht.next, fun h0 => ?_, fun h0 ha => ?_⟩
    · rw [Chan.takeDescriptor_empty (ht.len.symm.trans h0)]
      exact ⟨rfl, rfl, rfl⟩
    · rw [Dma.addressStatus_congr ht.src ht.dst ht.len ht.control] at ha ⊢
      rw [ht.len] at h0
      rw [Chan.takeDescriptor_bad h0 ha]
      exact ⟨rfl, rfl, rfl⟩
  · refine ⟨_, exec_descriptorFetch c m s, State.atWork_beside s c _, ?_⟩
    have ho := State.atWork_own s c (fun x => x.descFetch m.val) hw
    rw [Chan.descFetch_halts hphase hok] at ho
    obtain ⟨hstate, hlast, herr⟩ := Chan.moverHalt_reads (s.chan c) m.val 0x81
    exact ⟨(Chan.num_of_own ho (moverState_not_fault m.isLt)).trans hstate,
      (Chan.num_of_own ho (lastStatus_not_fault m.isLt)).trans hlast, Chan.counts_of_num ho (by decide) herr⟩

end

section
/-! PROOF. Carat jobs (R332, R333, Table 13.7): a job goes to its unit, and leaves a result record (O43). -/

namespace Sys2Proof.Machine

/-! ### Presenting requests moves the memory and what leaves the block, and nothing else -/

theorem Chan.present_rest {c c1 : Chan} {k : Nat} (h : c.present k = some c1) : { c1 with mem := c.mem, b := c.b } = c := by
  simp only [Chan.present] at h
  split at h
  · split at h
    · cases h
    · cases h
      rfl
  · cases h

theorem Chan.presentOne_rest {c c1 : Chan} {ks : List Nat} (h : c.presentOne ks = some c1) : { c1 with mem := c.mem, b := c.b } = c := by
  induction ks with
  | nil => cases h
  | cons k ks ih =>
    simp only [Chan.presentOne] at h
    split at h
    · next hk =>
      cases h
      exact Chan.present_rest hk
    · exact ih h

@[simp] theorem Chan.present64_car (c : Chan) (fuel : Nat) : (c.present64 fuel).car = c.car := by
  induction fuel generalizing c with
  | zero => rfl
  | succ fuel ih =>
    simp only [Chan.present64]
    split
    · rfl
    · next c1 h =>
      have h1 := congrArg Chan.car (Chan.presentOne_rest h)
      exact (ih c1).trans h1

@[simp] theorem Chan.jobGoes_car (c : Chan) (decomp : Bool) : (c.jobGoes decomp).car = c.car := by
  unfold Chan.jobGoes
  extract_lets k d
  split
  · rfl
  · split
    · extract_lets o
      exact Chan.present64_car _ _
    · rfl

/-! ### A job goes to the unit of its kind (R332) -/

/-- A job of a unit's kind: operations 3 and up are the decompressor's. -/
def Job.suits (decomp : Bool) (j : Job) : Bool := if decomp then decide (3 ≤ j.op) else decide (j.op ≤ 2)

/-- A unit that has a job takes no other. -/
theorem Chan.startJob_of_busy {c : Chan} {decomp : Bool} (h : (c.car.job decomp).isSome = true) : c.startJob decomp = c := by
  rw [Chan.startJob, if_pos h]

/-- Where no job waits for it, a unit takes none. -/
theorem Chan.startJob_of_none {c : Chan} {decomp : Bool} (h : c.car.jobs.find? (Job.suits decomp) = none) : c.startJob decomp = c := by
  unfold Chan.startJob
  split
  · rfl
  · extract_lets mine
    rw [show c.car.jobs.find? mine = none from h]

/-- Of one job that waits, the free unit of its kind takes it. -/
theorem Chan.startJob_car {c : Chan} {decomp : Bool} {j : Job} (hfree : c.car.job decomp = none) (hjobs : c.car.jobs = [j])
    (hj : j.suits decomp = true) : (c.startJob decomp).car =
      if decomp then { c.car with jobs := [], decomp := some j } else { c.car with jobs := [], comp := some j, sealedBlocks := 0 } := by
  unfold Chan.startJob
  rw [if_neg (by rw [hfree]; decide)]
  extract_lets mine rest
  rw [show c.car.jobs.find? mine = some j by rw [hjobs]; exact List.find?_cons_of_pos hj]
  have hrest : (c.car.jobs.takeWhile (fun x => !mine x)) ++ (c.car.jobs.dropWhile (fun x => !mine x)).drop 1 = [] := by
    have hm : (!mine j) = false := by rw [show mine j = true from hj]; rfl
    rw [hjobs]
    simp [hm]
  dsimp only
  rw [Chan.jobGoes_car, Chan.present64_car, show rest = [] from hrest]
  cases decomp <;> rfl

/-- A channel with one more job that waits. -/
def Chan.queueJob (c : Chan) (j : Job) : Chan := c.onCar (fun x => { x with jobs := x.jobs ++ [j] })

theorem Chan.submitJob_eq (c : Chan) (v : List Byte) :
    c.submitJob v = ((c.queueJob (parseJob v)).startJob false).startJob true := rfl

/-- A job submitted to a channel whose units are free is taken at once. -/
theorem Chan.submitJob_free {c : Chan} (v : List Byte) (hjobs : c.car.jobs = []) (hcomp : c.car.comp = none)
    (hdecomp : c.car.decomp = none) : (c.submitJob v).car.jobs = [] ∧
      (if (parseJob v).op ≤ 2 then (c.submitJob v).car.comp = some (parseJob v) ∧ (c.submitJob v).car.decomp = none
       else (c.submitJob v).car.decomp = some (parseJob v) ∧ (c.submitJob v).car.comp = none) := by
  have hq : (c.queueJob (parseJob v)).car.jobs = [parseJob v] := by
    show c.car.jobs ++ [parseJob v] = _
    rw [hjobs]; rfl
  rw [Chan.submitJob_eq]
  generalize hc1 : c.queueJob (parseJob v) = c1 at hq
  have hcomp1 : c1.car.comp = none := by rw [← hc1]; exact hcomp
  have hdecomp1 : c1.car.decomp = none := by rw [← hc1]; exact hdecomp
  by_cases hop : (parseJob v).op ≤ 2
  · have hcar := Chan.startJob_car (decomp := false) hcomp1 hq (by simp [Job.suits, hop])
    rw [if_pos hop, Chan.startJob_of_none (decomp := true) (by rw [hcar]; rfl), hcar]
    exact ⟨rfl, rfl, hdecomp1⟩
  · have hsuits : (parseJob v).suits true = true := by simp [Job.suits]; omega
    have hnot : (parseJob v).suits false = false := by simp [Job.suits]; omega
    rw [if_neg hop, Chan.startJob_of_none (decomp := false) (by rw [hq]; simp [hnot]),
      Chan.startJob_car (decomp := true) hdecomp1 hq hsuits]
    exact ⟨rfl, rfl, hcomp1⟩

/-- A job submitted to a channel whose units are busy waits. -/
theorem Chan.submitJob_busy {c : Chan} (v : List Byte) (hcomp : c.car.comp.isSome = true) (hdecomp : c.car.decomp.isSome = true) :
    (c.submitJob v).car = { c.car with jobs := c.car.jobs ++ [parseJob v] } := by
  rw [Chan.submitJob_eq, Chan.startJob_of_busy (c := c.queueJob _) (decomp := false) hcomp, Chan.startJob_of_busy (c := c.queueJob _) (decomp := true) hdecomp]
  rfl

/-! ### A job ends (R333) -/

/-- A unit without its job. -/
def Carat.without (x : Carat) (decomp : Bool) : Carat := if decomp then { x with decomp := none } else { x with comp := none }

theorem Chan.onCar_b (c : Chan) (f : Carat → Carat) : (c.onCar f).b = c.b := rfl

theorem Chan.landBytes_car (c : Chan) (d : Dma) : (c.landBytes d).car = c.car := by
  unfold Chan.landBytes
  extract_lets s
  split
  · rfl
  · split <;> rfl

theorem Chan.landBytes_b (c : Chan) (d : Dma) : (c.landBytes d).b = c.b := by
  unfold Chan.landBytes
  extract_lets s
  split
  · rfl
  · split <;> rfl

/-- What counts the bytes of a job leaves the time and the kind of the block. -/
theorem Blk.bump_now (b : Blk) {k : Nat} (n : Nat) (h : K.frameNow ≠ k) : (b.bump k n).now = b.now := Blk.num_bump_ne b n h

/-- A job that has moved all its bytes, its writes without a fault: the unit is free, and its record waits. -/
theorem Chan.jobDone_eq {c : Chan} {decomp : Bool} {j : Job} (hj : c.car.job decomp = some j)
    (hphase : (c.mem.client (jobClient decomp)).phase = .write) (hlive : (c.mem.client (jobClient decomp)).live = 0)
    (hsent : (c.mem.client (jobClient decomp)).writes ≤ (c.mem.client (jobClient decomp)).sent)
    (hread : (c.mem.client (jobClient decomp)).readFault = none) (hwrite : (c.mem.client (jobClient decomp)).writeFault = none)
    (hres : (jobOut j (c.jobBytes (c.mem.client (jobClient decomp))) false).result < 0x10) :
    ∃ (c3 : Chan) (off : Nat), c3.b.now = c.b.now ∧ c3.b.isLeaf = c.b.isLeaf ∧ c3.car = c.car.without decomp ∧
      (let o := jobOut j (c.jobBytes (c.mem.client (jobClient decomp))) false
       (o.off = none ∨ o.off = some off) ∧ c.jobDone decomp =
        (c3.putResult j.tag o.result j.len o.data.length (o.marks.filter (fun m => decide (m.1 ≤ o.data.length))).length off).startJob decomp) := by
  unfold Chan.jobDone
  extract_lets o k d failed draw
  have hj' : c.car.job decomp = some j := hj
  rw [hj']
  have hgo : ¬(d.phase ≠ .write ∨ 0 < d.live ∨ (d.writeFault.isNone = true ∧ d.sent < d.writes)) := by
    rintro (h | h | h)
    · exact h hphase
    · exact absurd hlive (Nat.pos_iff_ne_zero.mp h)
    · exact absurd hsent (Nat.not_le.mpr h.2)
  dsimp only
  rw [if_neg hgo]
  have hread' : d.readFault = none := hread
  have hfailed : failed = false := by
    show d.writeFault.isSome = false
    rw [show d.writeFault = none from hwrite]; rfl
  have hwrite' : d.writeFault = none := hwrite
  have ho : jobOut j (c.jobBytes d) d.readFault.isSome = o := by rw [hread']; rfl
  simp only [ho, hfailed, hwrite', show o.result < 16 from hres, Bool.false_eq_true, false_and, if_false, Bool.not_false,
    Bool.true_and, decide_true, if_true]
  refine ⟨_, _, ?_, ?_, ?_, ?_, rfl⟩
  · simp only [Chan.onCar_b, Chan.onB_b, Chan.onMem_b, Chan.landBytes_b]
    simp (disch := decide) only [apply_ite Blk.now, Blk.bump_now, ite_self]
    cases o.off <;> rfl
  · simp only [Chan.onCar_b, Chan.onB_b, Chan.onMem_b, Chan.landBytes_b]
    simp only [apply_ite Blk.isLeaf, Blk.bump_isLeaf, ite_self]
    cases o.off <;> rfl
  · simp only [Chan.onCar, Chan.onB_car, Chan.onMem, Chan.landBytes_car]
    rfl
  · cases o.off with
    | none => exact .inl rfl
    | some x => exact .inr rfl

/-- The record that a job leaves (Table 13.7), and the event of the channel. -/
theorem Chan.putResult_reads (c : Chan) (tag result consumed produced good off : Nat) :
    (c.putResult tag result consumed produced good off).car.results =
      (if 16 ≤ c.car.results.length then c.car.results.drop 1 else c.car.results) ++
        [natLe 32 (tag * 2 ^ 224 + result * 2 ^ 216 + consumed * 2 ^ 160 + produced * 2 ^ 128 + good * 2 ^ 96 + off * 2 ^ 64 + c.b.now)] ∧
    (∀ decomp, (c.putResult tag result consumed produced good off).car.job decomp = c.car.job decomp) ∧
    (c.putResult tag result consumed produced good off).car.jobs = c.car.jobs ∧
    (c.b.isLeaf = false → (c.putResult tag result consumed produced good off).b.evt.getLsbD irqCarat = true) := by
  refine ⟨?_, fun _ => rfl, rfl, fun h => Blk.raiseEvt_set ?_ (by decide)⟩
  · simp [Chan.putResult, Chan.onCar]
  · split <;> exact h

theorem Carat.without_job (x : Carat) (decomp : Bool) : (x.without decomp).job decomp = none := by
  cases decomp <;> rfl

theorem Carat.without_jobs (x : Carat) (decomp : Bool) : (x.without decomp).jobs = x.jobs := by
  cases decomp <;> rfl

theorem Carat.without_results (x : Carat) (decomp : Bool) : (x.without decomp).results = x.results := by
  cases decomp <;> rfl

/-- A read of job_result hands out the oldest record, or nothing (R333). -/
theorem Chan.popJob_reads (c : Chan) : c.popJob.car.results = c.car.results.drop 1 ∧
    .data K.jobResult (c.car.results.headD []) ∈ c.popJob.b.out := by
  unfold Chan.popJob Chan.popResult
  cases h : c.car.results with
  | nil => simp [h]
  | cons r rs => simp [Chan.onCar]

theorem exec_jobSubmit (c : Ch) (v : List Byte) (s : State) :
    exec (.jobSubmit c v) s = .next (s.chanRow c K.jobSubmit (.bytes v) (fun x y => x.submitJob y.toBytes)) := rfl

theorem exec_jobComplete (c : Ch) (decomp : Bool) (s : State) :
    exec (.jobComplete c decomp) s = .next (s.atWork c (fun x => x.jobDone decomp)) := rfl

theorem exec_jobResult (c : Ch) (s : State) :
    exec (.jobResult c) s = .next (s.onChan c (fun x => if x.b.takes K.jobResult then x.popJob else x)) := rfl

/-- A block at work takes every object. -/
theorem Blk.takes_of_works {b : Blk} (h : b.works = true) (k : Nat) : b.takes k = true := by
  unfold Blk.works at h
  unfold Blk.takes
  cases hp : b.phase <;> simp_all

end Sys2Proof.Machine

open Sys2Proof Sys2Proof.Machine

/-- Settles O43: a job is taken or waits, leaves its record when it has moved all its bytes, and the record is handed out. -/
theorem jobsLeaveResults : Obligations.JobsLeaveResults := by
  unfold Obligations.JobsLeaveResults
  intro s c
  refine ⟨fun v hp => ⟨fun hjobs hcomp hdecomp => ?_, fun hcomp hdecomp => ?_⟩, fun decomp j hw hj hjobs => ?_, fun hw => ?_⟩
  · refine ⟨_, exec_jobSubmit c v s, State.chanRow_beside _ hp, ?_⟩
    rw [State.chanRow_part _ hp Chan.car (fun _ => rfl) (fun _ _ => rfl)]
    exact Chan.submitJob_free (c := (s.chan c).writing) v hjobs hcomp hdecomp
  · refine ⟨_, exec_jobSubmit c v s, State.chanRow_beside _ hp, ?_⟩
    rw [State.chanRow_part _ hp Chan.car (fun _ => rfl) (fun _ _ => rfl),
      show ((s.chan c).writing.submitJob (Val.bytes v).toBytes).car = _ from Chan.submitJob_busy (c := (s.chan c).writing) v hcomp hdecomp]
    exact ⟨rfl, rfl, rfl⟩
  · intro d o hphase hlive hsent hread hwrite hres
    refine ⟨_, exec_jobComplete c decomp s, State.atWork_beside s c _, ?_⟩
    obtain ⟨c3, off, hnow, hleaf, hcar, hoff, heq⟩ := Chan.jobDone_eq hj hphase hlive hsent hread hwrite hres
    obtain ⟨hresults, hjob, hwait, hevt⟩ := Chan.putResult_reads c3 j.tag o.result j.len o.data.length
      (o.marks.filter (fun m => decide (m.1 ≤ o.data.length))).length off
    rw [Chan.startJob_of_none (by rw [hwait, hcar, Carat.without_jobs, hjobs]; rfl)] at heq
    rw [Chan.of_own Chan.car (fun _ => rfl) (State.atWork_own s c (fun x => x.jobDone decomp) hw), heq]
    refine ⟨?_, ⟨off, hoff, ?_⟩, fun hl => ?_⟩
    · rw [hjob, hcar, Carat.without_job]
    · rw [hresults, hcar, Carat.without_results, hnow]
    · refine State.atWork_evt _ hw irqCarat ?_
      rw [heq]
      exact hevt (hleaf.trans hl)
  · refine ⟨_, exec_jobResult c s, State.onChan_beside s c _, ?_⟩
    rw [Chan.of_own Chan.car (fun _ => rfl) (State.onChan_own s c _), if_pos (Blk.takes_of_works hw _)]
    obtain ⟨hresults, hout⟩ := Chan.popJob_reads (s.chan c)
    refine ⟨hresults, (State.onChan_out s c _).subset ?_⟩
    rw [if_pos (Blk.takes_of_works hw _)]
    exact hout

end

section
/-! PROOF. Descriptors complete (R339, R341), and the memory port delivers (R425): O45. -/

namespace Sys2Proof.Machine

/-! ### The windows after a store -/

theorem winByte_winWrite (w : NMap Byte) (d : List Byte) (off k : Nat) : winByte (winWrite w off d) k =
    if off ≤ k ∧ k < off + d.length then d.getD (k - off) 0 else winByte w k := by
  split
  · next h =>
    have hi : k - off < d.length := by omega
    have hin := winByte_winWrite_in w d off (k - off) hi
    rw [Nat.add_sub_cancel' h.1] at hin
    rw [hin, List.getD_eq_getElem?_getD, List.getElem?_eq_getElem hi, Option.getD_some]
  · next h => exact winByte_winWrite_out w d off k (by omega)

/-- A byte of a window after a store: what was stored, or what was there. -/
theorem Mem.winByte_store (x : Mem) {space sp : Nat} (hspace : space = 1 ∨ space = 2) (hsp : sp = 1 ∨ sp = 2) (off k : Nat)
    (d : List Byte) : winByte ((x.store sp off d).window space) k =
      if space = sp ∧ off ≤ k ∧ k < off + d.length then d.getD (k - off) 0 else winByte (x.window space) k := by
  rcases hspace with rfl | rfl <;> rcases hsp with rfl | rfl <;> simp [Mem.store, Mem.window, winByte_winWrite]

@[simp] theorem Mem.store_client (x : Mem) (sp off : Nat) (d : List Byte) (k : Nat) : (x.store sp off d).client k = x.client k := by
  unfold Mem.store
  split <;> rfl

@[simp] theorem Mem.mapClient_window (x : Mem) (k : Nat) (f : Dma → Dma) (space : Nat) : (x.mapClient k f).window space = x.window space :=
  rfl

/-! ### The end of a descriptor (R339 steps 3 and 4) -/

theorem Chan.landBytes_incrementing (c : Chan) {d : Dma} (h : bit d.control 1 = false) : c.landBytes d =
    if spaceOf d.dst = 0 ∨ d.data.isEmpty = true then c else c.onMem (fun x => x.store (spaceOf d.dst) (offsetOf d.dst) d.data) := by
  simp [Chan.landBytes, h]

/-- A transfer whose bytes are there, to an incrementing destination in a window: they land, and its status goes back. -/
theorem Chan.descDone_lands {c : Chan} {m : Nat} (hphase : (c.mem.client m).phase = .write) (hlive : (c.mem.client m).live = 0)
    (hstatus : (c.mem.client m).status = 0) (hfault : (c.mem.client m).writeFault = none)
    (hfixed : bit (c.mem.client m).control 1 = false) (hdst : spaceOf (c.mem.client m).dst ≠ 0) :
    ∃ c1 : Chan, c.descDone m = c1.writeBack m 1 ∧ c1.b = c.b ∧ c1.mem.client m = c.mem.client m ∧
      ∀ space k, space = 1 ∨ space = 2 → (spaceOf (c.mem.client m).dst = 1 ∨ spaceOf (c.mem.client m).dst = 2) →
        winByte (c1.mem.window space) k =
          if space = spaceOf (c.mem.client m).dst ∧ offsetOf (c.mem.client m).dst ≤ k ∧
            k < offsetOf (c.mem.client m).dst + (c.mem.client m).data.length then
            (c.mem.client m).data.getD (k - offsetOf (c.mem.client m).dst) 0
          else winByte (c.mem.window space) k := by
  have hwrites : (c.mem.client m).writes = 0 := by rw [Dma.writes, if_neg hdst]
  refine ⟨c.landBytes (c.mem.client m), ?_, Chan.landBytes_b _ _, ?_, ?_⟩
  · rw [Chan.descDone, if_neg (by rw [hphase]; decide), if_neg (by rw [hphase, hlive]; decide), if_neg (by rw [hstatus]; decide),
      if_neg (by rw [hfault]; decide), if_neg (by rw [hwrites]; exact Nat.not_lt_zero _)]
  · rw [Chan.landBytes_incrementing _ hfixed]
    split
    · rfl
    · exact Mem.store_client _ _ _ _ _
  · intro space k hspace hsp
    rw [Chan.landBytes_incrementing _ hfixed]
    split
    · next h =>
      have hnil : (c.mem.client m).data = [] := List.isEmpty_iff.mp (h.resolve_left hdst)
      rw [if_neg (by rw [hnil]; simp only [List.length_nil]; omega)]
    · exact Mem.winByte_store _ hspace hsp _ _ _

/-- The last descriptor of a list, its status written back: its mover is idle and its counters advance. -/
theorem Chan.descEnd_last {c : Chan} {m : Nat} (hstatus : (c.mem.client m).status = 1) (hlast : bit (c.mem.client m).control 3 = true) :
    (c.descEnd m).moverState m = 0 ∧ (c.descEnd m).mem = c.mem.mapClient m (fun _ => Dma.idle) ∧
    (c.descEnd m).b.num (moverKey K.descriptorsDone m) = (c.b.bump (moverKey K.descriptorsDone m)).num (moverKey K.descriptorsDone m) ∧
    (c.descEnd m).b.num (moverKey K.bytesMoved m) =
      (c.b.bump (moverKey K.bytesMoved m) (c.mem.client m).len).num (moverKey K.bytesMoved m) ∧
    (bit (c.mem.client m).control 2 = true → c.b.isLeaf = false → (c.descEnd m).b.evt.getLsbD irqMover = true) := by
  have hds : moverKey K.descriptorsDone m ≠ moverKey K.state m := by simp only [moverKey, K.descriptorsDone, K.state]; omega
  have hbs : moverKey K.bytesMoved m ≠ moverKey K.state m := by simp only [moverKey, K.bytesMoved, K.state]; omega
  have hdb : moverKey K.descriptorsDone m ≠ moverKey K.bytesMoved m := by simp only [moverKey, K.descriptorsDone, K.bytesMoved]; omega
  unfold Chan.descEnd
  rw [if_neg (not_not_intro hstatus), hlast, Bool.true_or, if_pos rfl]
  refine ⟨Blk.num_setNum_same _ _ _, rfl, ?_, ?_, fun hevt hleaf => ?_⟩
  · rw [Chan.onB_b, Blk.num_setNum_ne _ _ hds, Chan.onMem_b]
    split
    · rw [Blk.raiseEvt_num, Blk.num_bump_ne _ _ hdb]
    · rw [Blk.num_bump_ne _ _ hdb]
  · rw [Chan.onB_b, Blk.num_setNum_ne _ _ hbs, Chan.onMem_b]
    split
    · rw [Blk.raiseEvt_num, Blk.num_bump_bump _ _ hdb.symm]
    · rw [Blk.num_bump_bump _ _ hdb.symm]
  · rw [if_pos hevt]
    exact Blk.raiseEvt_set (b := (c.b.bump (moverKey K.descriptorsDone m)).bump (moverKey K.bytesMoved m) (c.mem.client m).len) hleaf
      (by decide)

/-- The status of the last descriptor goes back to a window. -/
theorem Chan.writeBack_last {c : Chan} {m : Nat} (ha : spaceOf (c.descOf m) = 1 ∨ spaceOf (c.descOf m) = 2)
    (hlast : bit (c.mem.client m).control 3 = true) :
    ∃ c1 : Chan, c.writeBack m 1 = c1.descEnd m ∧ c1.b = c.b ∧ (c1.mem.client m).status = 1 ∧
      (c1.mem.client m).control = (c.mem.client m).control ∧ (c1.mem.client m).len = (c.mem.client m).len ∧
      ∀ space k, space = 1 ∨ space = 2 → winByte (c1.mem.window space) k =
        if space = spaceOf (c.descOf m) ∧ offsetOf (c.descOf m) + 8 ≤ k ∧ k < offsetOf (c.descOf m) + 12 then
          (natLe 4 ((c.mem.client m).control % 2 ^ 24 + 2 ^ 24)).getD (k - (offsetOf (c.descOf m) + 8)) 0
        else winByte (c.mem.window space) k := by
  unfold Chan.writeBack
  extract_lets d a c1
  have ha0 : spaceOf a ≠ 0 := by rcases ha with h | h <;> (intro h0; rw [show spaceOf a = _ from h] at h0; cases h0)
  rw [if_neg ha0]
  have hclient : ((c1.onMem (fun x => x.store (spaceOf a) (offsetOf a + 8) (natLe 4 (d.control % 2 ^ 24 + 1 * 2 ^ 24)))).mem.client m)
      = { d with phase := .back, status := 1, sent := 0 } := by
    rw [Chan.onMem_mem, Mem.store_client, Chan.onMem_mem, Mem.client_mapClient_same]
  refine ⟨_, rfl, rfl, ?_, ?_, ?_, fun space k hspace => ?_⟩
  · rw [hclient]
  · rw [hclient]
  · rw [hclient]
  · rw [Chan.onMem_mem, Mem.winByte_store _ hspace ha, length_natLe, Nat.one_mul]
    rfl

/-- What DESCRIPTOR_DONE of the last descriptor leaves of the windows, the mover and its counters. -/
theorem Chan.descDone_last {c : Chan} {m : Nat} (hphase : (c.mem.client m).phase = .write) (hlive : (c.mem.client m).live = 0)
    (hstatus : (c.mem.client m).status = 0) (hfault : (c.mem.client m).writeFault = none)
    (hfixed : bit (c.mem.client m).control 1 = false) (hlast : bit (c.mem.client m).control 3 = true)
    (hdst : spaceOf (c.mem.client m).dst = 1 ∨ spaceOf (c.mem.client m).dst = 2)
    (ha : spaceOf (c.descOf m) = 1 ∨ spaceOf (c.descOf m) = 2) :
    (c.descDone m).moverState m = 0 ∧ (c.descDone m).mem.client m = Dma.idle ∧
    (c.descDone m).b.num (moverKey K.descriptorsDone m) = (c.b.bump (moverKey K.descriptorsDone m)).num (moverKey K.descriptorsDone m) ∧
    (c.descDone m).b.num (moverKey K.bytesMoved m) =
      (c.b.bump (moverKey K.bytesMoved m) (c.mem.client m).len).num (moverKey K.bytesMoved m) ∧
    (bit (c.mem.client m).control 2 = true → c.b.isLeaf = false → (c.descDone m).b.evt.getLsbD irqMover = true) ∧
    ∀ space k, space = 1 ∨ space = 2 → winByte ((c.descDone m).mem.window space) k =
      if space = spaceOf (c.descOf m) ∧ offsetOf (c.descOf m) + 8 ≤ k ∧ k < offsetOf (c.descOf m) + 12 then
        (natLe 4 ((c.mem.client m).control % 2 ^ 24 + 2 ^ 24)).getD (k - (offsetOf (c.descOf m) + 8)) 0
      else if space = spaceOf (c.mem.client m).dst ∧ offsetOf (c.mem.client m).dst ≤ k ∧
          k < offsetOf (c.mem.client m).dst + (c.mem.client m).data.length then
        (c.mem.client m).data.getD (k - offsetOf (c.mem.client m).dst) 0
      else winByte (c.mem.window space) k := by
  have hd0 : spaceOf (c.mem.client m).dst ≠ 0 := by rcases hdst with h | h <;> rw [h] <;> decide
  obtain ⟨c1, hdone, hb1, hclient1, hwin1⟩ := Chan.descDone_lands hphase hlive hstatus hfault hfixed hd0
  have hdesc : c1.descOf m = c.descOf m := by rw [Chan.descOf, hb1]; rfl
  obtain ⟨c2, hback, hb2, hst2, hctl2, hlen2, hwin2⟩ := Chan.writeBack_last (c := c1) (m := m) (by rw [hdesc]; exact ha)
    (by rw [hclient1]; exact hlast)
  rw [hclient1] at hctl2 hlen2 hwin2
  rw [hdesc] at hwin2
  obtain ⟨hstate, hmem, hdescs, hbytes, hevt⟩ := Chan.descEnd_last hst2 (by rw [hctl2]; exact hlast)
  rw [hdone, hback, hmem]
  rw [hb2, hb1] at hdescs hbytes hevt
  rw [hlen2] at hbytes
  rw [hctl2] at hevt
  refine ⟨hstate, Mem.client_mapClient_same _ _ _, hdescs, hbytes, hevt, fun space k hspace => ?_⟩
  rw [Mem.mapClient_window, hwin2 space k hspace, hwin1 space k hspace hdst]

/-! ### A descriptor read has its answer (R425) -/

/-- The answer to a mover's descriptor read goes to the mover alone. -/
theorem Chan.mmpResponse_fetch {c : Chan} {n : Nat} {r : MReq} (hr : mfind c.mem.reqs n = some r) (hdead : r.dead = false)
    (hk : r.kind = 0) (hclient : r.client < 8) (hphase : (c.mem.client r.client).phase = .fetch) (err : Bool) (data : Nat) :
    (c.mem.mapClient r.client (fun d => d.answer r (c.descOf r.client) err data)).Planned (c.mmpResponse n err data).mem := by
  have hcomp : r.client ≠ compClient := by unfold compClient; omega
  have hdecomp : r.client ≠ decompClient := by unfold decompClient; omega
  have hread : ∀ d : Dma, d.phase = .fetch → (d.answer r (c.descOf r.client) err data).filled = false := by
    intro d hd
    simp only [Dma.answer, hk]
    split <;> simp [Dma.filled, hd]
  simp only [Chan.mmpResponse, hr, hdead, Chan.clientAnswer, if_neg hcomp, if_neg hdecomp, Bool.false_eq_true, if_false]
  generalize hc1 : (c.onMem (fun m => { m with reqs := mdel m.reqs n })).onMem
    (fun m => m.mapClient r.client (fun d => d.answer r ((c.onMem (fun m => { m with reqs := mdel m.reqs n })).descOf r.client) err data)) = c1
  have hc1mem : c1.mem.client r.client = (c.mem.client r.client).answer r (c.descOf r.client) err data := by
    rw [← hc1, Chan.onMem_mem, Mem.client_mapClient_same]; rfl
  have hgoes : c1.moverGoes r.client r = c1 := by
    rw [Chan.moverGoes, hc1mem, hread _ hphase, if_neg Bool.false_ne_true, if_neg (by rw [hk]; decide)]
  rw [hgoes]
  have hp := Chan.present64_planned c1 64
  rw [← hc1] at hp ⊢
  exact ⟨hp.sram, hp.dram, hp.plan⟩

theorem Dma.answer_fetch {r : MReq} (hk : r.kind = 0) (d : Dma) (desc data : Nat) :
    (d.answer r desc false data).got = gotBytes [] 0 (lineBytes data (offsetOf desc % 64) 32) ∧
    (d.answer r desc true data).readFault = some 0 := by
  simp [Dma.answer, hk]

theorem exec_descriptorDone (c : Ch) (m : Fin 8) (s : State) :
    exec (.descriptorDone c m) s = .next (s.atWork c (fun x => x.descDone m.val)) := rfl

theorem exec_mmpResponse (tag : Byte) (err : Bool) (data : BitVec 512) (s : State) : exec (.mmpResponse tag err data) s =
    .next (s.atWork (tagChan tag) (fun x => x.mmpResponse (tag.toNat % 64) err data.toNat)) := rfl

theorem moverCounter_not_fault {m : Nat} (hm : m < 8) :
    isFaultKey (moverKey K.descriptorsDone m) = false ∧ isFaultKey (moverKey K.bytesMoved m) = false := by
  constructor <;> simp only [isFaultKey, moverKey, K.descriptorsDone, K.bytesMoved, beq_eq_false_iff_ne] <;> omega

end Sys2Proof.Machine

open Sys2Proof Sys2Proof.Machine

/-- Settles O45: what the end of a descriptor leaves of the windows, and whom the answer to a descriptor read reaches. -/
theorem descriptorsComplete : Obligations.DescriptorsComplete := by
  unfold Obligations.DescriptorsComplete
  refine ⟨fun s c m hw => ?_, fun s tag hw => ?_⟩
  · intro d a hphase hlive hstatus hfault hfixed hlast hdst ha
    refine ⟨_, exec_descriptorDone c m s, State.atWork_beside s c _, ?_⟩
    obtain ⟨hstate, hidle, hdescs, hbytes, hevt, hwin⟩ := Chan.descDone_last hphase hlive hstatus hfault hfixed hlast hdst ha
    have ho := State.atWork_own s c (fun x => x.descDone m.val) hw
    obtain ⟨hkd, hkb⟩ := moverCounter_not_fault m.isLt
    rw [Chan.of_own Chan.mem (fun _ => rfl) ho]
    exact ⟨(Chan.num_of_own ho (moverState_not_fault m.isLt)).trans hstate, hidle, Chan.counts_of_num ho hkd hdescs,
      Chan.counts_of_num ho hkb hbytes, fun h2 hl => State.atWork_evt _ hw irqMover (hevt h2 hl), hwin⟩
  · intro c n r hr hdead hk hclient hphase data
    obtain ⟨hgot, -⟩ := Dma.answer_fetch hk ((s.chan c).mem.client r.client) ((s.chan c).descOf r.client) data.toNat
    obtain ⟨-, hfault⟩ := Dma.answer_fetch hk ((s.chan c).mem.client r.client) ((s.chan c).descOf r.client) data.toNat
    refine ⟨⟨_, exec_mmpResponse tag false data s, State.atWork_beside s c _, ?_⟩,
      ⟨_, exec_mmpResponse tag true data s, State.atWork_beside s c _, ?_⟩⟩
    · rw [Chan.of_own Chan.mem (fun _ => rfl) (State.atWork_own s c _ hw)]
      have hp := Chan.mmpResponse_fetch hr hdead hk hclient hphase false data.toNat
      have hplan := hp.plan r.client
      rw [Mem.client_mapClient_same] at hplan
      exact ⟨(congrArg Dma.got hplan : _).trans hgot, hp.sram, hp.dram⟩
    · rw [Chan.of_own Chan.mem (fun _ => rfl) (State.atWork_own s c _ hw)]
      have hp := Chan.mmpResponse_fetch hr hdead hk hclient hphase true data.toNat
      have hplan := hp.plan r.client
      rw [Mem.client_mapClient_same] at hplan
      exact (congrArg Dma.readFault hplan : _).trans hfault

end

section
/-! PROOF. Packets are handed to queues (R285 to R287), and Carat's blocks are sealed (R323, R331, R334): O41. -/

namespace Sys2Proof.Machine

/-! ### A packet handed to a queue -/

/-- A count of packets that egress drops. -/
def isDrop (k : Nat) : Bool := k == K.disabledDrops || k == K.redDrops || k == K.yellowDrops || k == K.tailDrops || k == K.poolDrops

/-- From `x` to `y` a packet has been judged at a queue: only egress and the block have moved, no sequence number, not the boundary,
and no object but the counts of drops. -/
structure Chan.Judged (x y : Chan) : Prop where
  rest : y = { x with egr := y.egr, b := y.b }
  seq : ∀ j, (y.egr.queue j).seq = (x.egr.queue j).seq
  boundary : y.egr.boundary = x.egr.boundary
  num : ∀ k, isDrop k = false → y.b.num k = x.b.num k

theorem Chan.Judged.refl (x : Chan) : x.Judged x := ⟨rfl, fun _ => rfl, rfl, fun _ _ => rfl⟩

theorem Chan.Judged.trans {x y z : Chan} (h : x.Judged y) (g : y.Judged z) : x.Judged z :=
  ⟨g.rest.trans (by rw [h.rest]), fun j => (g.seq j).trans (h.seq j), g.boundary.trans h.boundary,
    fun k hk => (g.num k hk).trans (h.num k hk)⟩

theorem Chan.judged_mapQueue (x : Chan) (q : Nat) {f : EQueue → EQueue} (hf : (f (x.egr.queue q)).seq = (x.egr.queue q).seq) :
    x.Judged (x.onEgr (fun g => g.mapQueue q f)) := by
  refine ⟨rfl, fun j => ?_, rfl, fun _ _ => rfl⟩
  by_cases hj : j = q
  · rw [hj, show ((x.onEgr (fun g => g.mapQueue q f)).egr.queue q) = f (x.egr.queue q) from Egress.queue_mapQueue_same _ _ _]
    exact hf
  · exact congrArg EQueue.seq (Egress.queue_mapQueue_ne _ f hj)

theorem Chan.judged_bump (x : Chan) {k : Nat} (hk : isDrop k = true) : x.Judged (x.onB (·.bump k)) :=
  ⟨rfl, fun _ => rfl, rfl, fun j hj => Blk.num_bump_ne _ _ (fun h => by rw [h, hk] at hj; cases hj)⟩

theorem Chan.judged_judgeSub (x : Chan) (i : Nat) : x.Judged (x.judgeSub i) := by
  have hb : (x.judgeSub i).b = x.b := by rw [Chan.judgeSub_egr]
  refine ⟨by rw [hb]; exact Chan.judgeSub_egr x i, fun j => by rw [Chan.judgeSub_queue], ?_, fun _ _ => by rw [hb]⟩
  unfold Chan.judgeSub
  extract_lets now y
  split <;> rfl

/-- A packet marked at its queue leaves the queue's number. -/
theorem EQueue.mark_seq (q : EQueue) (pre n : Nat) : (q.mark pre n).2.seq = q.seq := by
  unfold EQueue.mark
  (repeat' split) <;> rfl

/-- A queue numbers the packet that is handed to it. -/
def Chan.numbered (c : Chan) (q : Nat) : Chan := c.onEgr (fun g => g.mapQueue q (fun y => { y with seq := (y.seq + 1) % 2 ^ 32 }))

/-- A packet handed to a queue takes its next number; then it is judged (R286, R287). -/
theorem Chan.offer_judged (c : Chan) (q : Nat) (o : Offer) : (c.numbered q).Judged (c.offer q o) := by
  unfold Chan.offer
  extract_lets s e len x seq c1 m c2 depth d c3
  show c1.Judged _
  split
  · exact Chan.judged_bump c1 (by decide)
  · have h2 : c1.Judged c2 := Chan.judged_mapQueue c1 q (EQueue.mark_seq _ _ _)
    split
    · exact h2.trans ((Chan.judged_bump c2 (by decide)).trans (Chan.judged_mapQueue _ q rfl))
    · split
      · exact h2.trans (Chan.judged_bump c2 (by decide))
      · split
        · exact h2.trans ((Chan.judged_bump c2 (by decide)).trans (Chan.judged_mapQueue _ q rfl))
        · split
          · exact h2.trans (Chan.judged_bump c2 (by decide))
          · exact h2.trans ((Chan.judged_mapQueue c2 q rfl).trans (Chan.judged_judgeSub c3 s))

theorem Chan.offer_seq (c : Chan) (q : Nat) (o : Offer) (j : Nat) : ((c.offer q o).egr.queue j).seq =
    if j = q then ((c.egr.queue q).seq + 1) % 2 ^ 32 else (c.egr.queue j).seq := by
  rw [(Chan.offer_judged c q o).seq j, Chan.numbered]
  split
  · next h =>
    rw [h]
    exact congrArg EQueue.seq (Egress.queue_mapQueue_same _ _ _)
  · next h => exact congrArg EQueue.seq (Egress.queue_mapQueue_ne _ _ h)

/-- From `x` to `y` packets have been handed to queues: nothing has moved but egress, within its frame, and the counts of drops. -/
structure Chan.Offered (x y : Chan) : Prop where
  rest : y = { x with egr := y.egr, b := y.b }
  boundary : y.egr.boundary = x.egr.boundary
  num : ∀ k, isDrop k = false → y.b.num k = x.b.num k

theorem Chan.Offered.refl (x : Chan) : x.Offered x := ⟨rfl, rfl, fun _ _ => rfl⟩

theorem Chan.Offered.trans {x y z : Chan} (h : x.Offered y) (g : y.Offered z) : x.Offered z :=
  ⟨g.rest.trans (by rw [h.rest]), g.boundary.trans h.boundary, fun k hk => (g.num k hk).trans (h.num k hk)⟩

theorem Chan.Offered.car {x y : Chan} (h : x.Offered y) : y.car = x.car := by rw [h.rest]

theorem Chan.offer_offered (c : Chan) (q : Nat) (o : Offer) : c.Offered (c.offer q o) :=
  have h := Chan.offer_judged c q o
  ⟨h.rest.trans rfl, h.boundary, h.num⟩

/-- A hand-off numbers its packets one after the other (R285, R286). -/
theorem Chan.offers_seq (q : Nat) (f : α → Offer) (l : List α) (hl : l ≠ []) (c : Chan) (j : Nat) :
    ((l.foldl (fun acc p => acc.offer q (f p)) c).egr.queue j).seq =
      if j = q then ((c.egr.queue q).seq + l.length) % 2 ^ 32 else (c.egr.queue j).seq := by
  induction l generalizing c with
  | nil => exact absurd rfl hl
  | cons a l ih =>
    rw [List.foldl_cons]
    cases l with
    | nil => exact Chan.offer_seq c q (f a) j
    | cons b l =>
      rw [ih (List.cons_ne_nil b l), Chan.offer_seq, Chan.offer_seq, if_pos rfl, Nat.mod_add_mod]
      split
      · rw [Nat.add_assoc, Nat.add_comm 1]; rfl
      · rfl

theorem Chan.handOff_offered (c : Chan) (q frame content colour : Nat) (payloads : List (List Byte)) :
    c.Offered (c.handOff q frame content colour payloads) := by
  unfold Chan.handOff
  extract_lets h
  split
  · exact ⟨rfl, rfl, fun _ _ => rfl⟩
  · exact foldl_rel Chan.Offered .refl .trans _ (fun x p => Chan.offer_offered x _ _) _ _

/-- Outside a boundary a hand-off moves its queue's number on by its packets, and no other queue's. -/
theorem Chan.handOff_seq {c : Chan} (hb : c.egr.boundary = false) (q frame content colour : Nat) (payloads : List (List Byte)) (j : Nat) :
    ((c.handOff q frame content colour payloads).egr.queue j).seq =
      if j = q then ((c.egr.queue q).seq + max 1 payloads.length) % 2 ^ 32 else (c.egr.queue j).seq := by
  unfold Chan.handOff
  extract_lets h
  rw [hb, if_neg Bool.false_ne_true]
  unfold Chan.offerAll
  extract_lets ps
  have hps : ps.length = max 1 payloads.length := by
    show (if payloads.isEmpty = true then [[]] else payloads).length = _
    cases payloads with
    | nil => rfl
    | cons p ps => simp
  have hlen : ((List.range ps.length).zip ps).length = max 1 payloads.length := by simp [hps]
  rw [Chan.offers_seq q _ _ (fun h0 => by rw [h0] at hlen; simp at hlen; omega), hlen]

/-! ### The queues that are listed -/

theorem mput_filter {α : Type} (p : Nat → Bool) {k : Nat} (hk : p k = false) (x : α) (m : NMap α) :
    (mput m k x).filter (fun e => p e.1) = m.filter (fun e => p e.1) := by
  induction m with
  | nil => simp [mput, hk]
  | cons e m ih =>
    unfold mput
    split
    · simp [hk]
    · split
      · next h => rw [h] at hk; simp [hk, h]
      · simp only [List.filter_cons, ih]

theorem mdel_filter {α : Type} (p : Nat → Bool) {k : Nat} (hk : p k = false) (m : NMap α) :
    (mdel m k).filter (fun e => p e.1) = m.filter (fun e => p e.1) := by
  induction m with
  | nil => rfl
  | cons e m ih =>
    unfold mdel
    split
    · next h => rw [ih]; rw [h] at hk; simp [hk]
    · simp only [List.filter_cons, ih]

theorem mset_filter {α : Type} [DecidableEq α] (d : Nat → α) (p : Nat → Bool) {k : Nat} (hk : p k = false) (x : α) (m : NMap α) :
    (mset d m k x).filter (fun e => p e.1) = m.filter (fun e => p e.1) := by
  unfold mset
  split
  · exact mdel_filter p hk m
  · exact mput_filter p hk x m

/-- The keys at which the entries of the queues stand. -/
def queueRange (k : Nat) : Bool := decide (K.queueEntry ≤ k) && decide (k < K.policerEntry)

theorem Chan.queuesListed_congr {x y : Chan} (hb : y.b.store.filter (fun e => queueRange e.1) = x.b.store.filter (fun e => queueRange e.1))
    (he : y.egr.queues = x.egr.queues) : y.queuesListed = x.queuesListed := by
  unfold Chan.queuesListed
  simp only [queueRange] at hb
  rw [hb, he]

theorem Blk.bump_store_filter (b : Blk) {k : Nat} (n : Nat) (hk : queueRange k = false) :
    (b.bump k n).store.filter (fun e => queueRange e.1) = b.store.filter (fun e => queueRange e.1) :=
  mset_filter _ queueRange hk _ _

/-! ### A block is sealed (R331) -/

/-- The data that a native stream hands off with its next block (R331). -/
def NStream.handsOff (n : NStream) : List Byte :=
  let raw := n.raw.take 65536
  (if n.headed then [] else streamHeader n.kind n.id) ++ (if raw.isEmpty then ([], false) else dataBlock raw).1 ++
    (if n.ended && (n.raw.drop 65536).isEmpty then endBlock (n.blocks + (if raw.isEmpty then 0 else 1)) else [])

/-- The native streams that stand after the next block of the first has been sealed. -/
def NStream.leaves (n : NStream) (ns : List NStream) : List NStream :=
  if n.ended && (n.raw.drop 65536).isEmpty then ns
  else { n with raw := n.raw.drop 65536, headed := true,
                blocks := n.blocks + (if (n.raw.take 65536).isEmpty then 0 else 1) } :: ns

/-- The counters after a block of a stream has been sealed. -/
def Blk.countBlock (b : Blk) (n : NStream) : Blk :=
  let raw := n.raw.take 65536
  let b1 := (b.bump K.rawBytesIn raw.length).bump K.caratBytesOut n.handsOff.length
  let b2 := if raw.isEmpty then b1
    else b1.bump (if (if raw.isEmpty then ([], false) else dataBlock raw).2 then K.blocksCoded else K.blocksStored)
  if n.ended && (n.raw.drop 65536).isEmpty then b2.bump K.streamsEnded else b2

/-- A block of stream `i` has been sealed, and not handed off yet. -/
def Chan.blockTaken (c : Chan) (i : Nat) (n : NStream) (ns : List NStream) : Chan :=
  (c.onB (·.countBlock n)).onCar (fun x => { x.mapStream i (fun o => { o with streams := n.leaves ns }) with turn := i + 1 })

/-- The queues that take output stream `i`. -/
def Chan.queuesOf (c : Chan) (i : Nat) : List Nat :=
  c.queuesListed.filter (fun q => (c.b.queue q).source == 4 && (c.b.queue q).selA == i)

theorem Chan.sealStream_eq {c : Chan} {i : Nat} {n : NStream} {ns : List NStream} (h : (c.car.stream i).streams = n :: ns) :
    c.sealStream i = ((c.blockTaken i n ns).queuesOf i).foldl
      (fun acc q => acc.handOff q acc.b.now 4 yellow (pieces 8160 n.handsOff)) (c.blockTaken i n ns) := by
  rw [Chan.sealStream, h]
  rfl

theorem Blk.countBlock_num (b : Blk) (n : NStream) :
    (b.countBlock n).num K.rawBytesIn = (b.bump K.rawBytesIn (n.raw.take 65536).length).num K.rawBytesIn ∧
    (b.countBlock n).num K.caratBytesOut = (b.bump K.caratBytesOut n.handsOff.length).num K.caratBytesOut := by
  have hk : ∀ k : Nat, (k = K.rawBytesIn ∨ k = K.caratBytesOut) → (b.countBlock n).num k =
      ((b.bump K.rawBytesIn (n.raw.take 65536).length).bump K.caratBytesOut n.handsOff.length).num k := by
    intro k hk
    have h1 : k ≠ K.blocksCoded ∧ k ≠ K.blocksStored ∧ k ≠ K.streamsEnded := by rcases hk with rfl | rfl <;> decide
    obtain ⟨hcoded, hstored, hended⟩ := h1
    unfold Blk.countBlock
    extract_lets raw b1 b2
    have hb2 : b2.num k = b1.num k := by
      show (if raw.isEmpty = true then b1 else _).num k = _
      split
      · rfl
      · refine Blk.num_bump_ne _ _ ?_
        split
        · exact hcoded
        · exact hstored
    split
    · exact (Blk.num_bump_ne _ _ hended).trans hb2
    · exact hb2
  refine ⟨(hk _ (.inl rfl)).trans (Blk.num_bump_ne _ _ (by decide)), (hk _ (.inr rfl)).trans (Blk.num_bump_bump _ _ (by decide))⟩

/-- The entries of the queues stand from `x` to `y`. -/
structure Blk.SameQueues (x y : Blk) : Prop where
  listed : y.store.filter (fun e => queueRange e.1) = x.store.filter (fun e => queueRange e.1)
  queue : ∀ q, y.queue q = x.queue q

theorem Blk.SameQueues.trans {x y z : Blk} (h : x.SameQueues y) (g : y.SameQueues z) : x.SameQueues z :=
  ⟨g.listed.trans h.listed, fun q => (g.queue q).trans (h.queue q)⟩

theorem Blk.bump_sameQueues (x : Blk) {k : Nat} (n : Nat) (hk : k < K.queueEntry) : x.SameQueues (x.bump k n) := by
  refine ⟨Blk.bump_store_filter x n (by simp only [queueRange, Bool.and_eq_false_iff, decide_eq_false_iff_not]; omega), fun q => ?_⟩
  rw [Blk.queue, Blk.queue, Blk.bump, Blk.setNum, Blk.bytes, Blk.val_setVal_ne _ _ (by unfold queueKey; omega)]
  rfl

/-- Sealing a block leaves the entries of the queues. -/
theorem Blk.countBlock_sameQueues (b : Blk) (n : NStream) : b.SameQueues (b.countBlock n) := by
  unfold Blk.countBlock
  extract_lets raw b1 b2
  have h1 : b.SameQueues b1 :=
    (Blk.bump_sameQueues b raw.length (by decide)).trans (Blk.bump_sameQueues _ n.handsOff.length (by decide))
  have h2 : b.SameQueues b2 := by
    by_cases hraw : raw.isEmpty = true
    · rw [show b2 = b1 from if_pos hraw]; exact h1
    · rw [show b2 = b1.bump _ from if_neg hraw]
      exact h1.trans (Blk.bump_sameQueues _ _ (by (repeat' split) <;> decide))
  split
  · exact h2.trans (Blk.bump_sameQueues _ _ (by decide))
  · exact h2

theorem Chan.blockTaken_queuesOf (c : Chan) (i : Nat) (n : NStream) (ns : List NStream) :
    (c.blockTaken i n ns).queuesOf i = c.queuesOf i := by
  have h := Blk.countBlock_sameQueues c.b n
  unfold Chan.queuesOf
  rw [Chan.queuesListed_congr (x := c) (y := c.blockTaken i n ns) h.listed rfl]
  exact congrArg (fun g : Nat → QueueEntry => c.queuesListed.filter (fun q => (g q).source == 4 && (g q).selA == i)) (funext h.queue)

/-- What the next block of stream `i` leaves when it has been sealed and handed off (R331). -/
theorem Chan.sealStream_reads {c : Chan} {i : Nat} {n : NStream} {ns : List NStream} (h : (c.car.stream i).streams = n :: ns) :
    (c.blockTaken i n ns).Offered (c.sealStream i) ∧
    (c.egr.boundary = false → ∀ q ∈ c.queuesOf i, ((c.sealStream i).egr.queue q).seq =
      ((c.egr.queue q).seq + max 1 (pieces 8160 n.handsOff).length) % 2 ^ 32) := by
  rw [Chan.sealStream_eq h, Chan.blockTaken_queuesOf]
  refine ⟨foldl_rel Chan.Offered .refl .trans _ (fun x q => Chan.handOff_offered x _ _ _ _ _) _ _, fun hb q hq => ?_⟩
  have hnodup : (c.queuesOf i).Nodup := (Chan.queuesListed_nodup c).filter _
  have hfold := foldl_once (fun j (x : Chan) => (x.egr.boundary, (x.egr.queue j).seq))
    (fun acc q => acc.handOff q acc.b.now 4 yellow (pieces 8160 n.handsOff))
    (fun _ r => (r.1, if r.1 then r.2 else (r.2 + max 1 (pieces 8160 n.handsOff).length) % 2 ^ 32)) (fun x j => ?_) (fun x j k hk => ?_)
    hnodup (c.blockTaken i n ns) q
  · rw [if_pos hq] at hfold
    have hseq := congrArg Prod.snd hfold
    refine hseq.trans ?_
    rw [ show (c.blockTaken i n ns).egr = c.egr from rfl, hb]
    rfl
  · dsimp only
    rw [(Chan.handOff_offered x _ _ _ _ _).boundary]
    cases hbx : x.egr.boundary with
    | false => rw [Chan.handOff_seq hbx, if_pos rfl, if_neg Bool.false_ne_true]
    | true => rw [Chan.handOff, hbx]; rfl
  · rw [(Chan.handOff_offered x _ _ _ _ _).boundary]
    cases hbx : x.egr.boundary with
    | false => rw [Chan.handOff_seq hbx, if_neg hk]
    | true => rw [Chan.handOff, hbx]; rfl

theorem Carat.stream_mapStream_same (x : Carat) (i : Nat) (f : OStream → OStream) : (x.mapStream i f).stream i = f (x.stream i) :=
  mget_mset_same _ _ _ _

theorem Carat.stream_mapStream_ne (x : Carat) {i j : Nat} (f : OStream → OStream) (h : j ≠ i) : (x.mapStream i f).stream j = x.stream j :=
  mget_mset_ne _ _ _ h

theorem Chan.blockTaken_streams (c : Chan) (i : Nat) (n : NStream) (ns : List NStream) :
    ((c.blockTaken i n ns).car.stream i).streams = n.leaves ns ∧
    ∀ k, k ≠ i → (c.blockTaken i n ns).car.stream k = c.car.stream k :=
  ⟨congrArg OStream.streams (Carat.stream_mapStream_same c.car i (fun o => { o with streams := n.leaves ns })),
    fun _ hk => Carat.stream_mapStream_ne c.car (fun o => { o with streams := n.leaves ns }) hk⟩

/-! ### The turn of the job queue (R334) -/

@[simp] theorem Chan.present64_egr (c : Chan) (fuel : Nat) : (c.present64 fuel).egr = c.egr := by
  induction fuel generalizing c with
  | zero => rfl
  | succ fuel ih =>
    simp only [Chan.present64]
    split
    · rfl
    · next c1 h =>
      have h1 := congrArg Chan.egr (Chan.presentOne_rest h)
      exact (ih c1).trans h1

@[simp] theorem Chan.jobGoes_egr (c : Chan) (decomp : Bool) : (c.jobGoes decomp).egr = c.egr := by
  unfold Chan.jobGoes
  extract_lets k d
  split
  · rfl
  · split
    · extract_lets o
      exact Chan.present64_egr _ _
    · rfl

theorem exec_caratBlockSeal (c : Ch) (s : State) : exec (.caratBlockSeal c) s = .next (s.atWork c Chan.sealBlock) := rfl

theorem Chan.sealBlock_stream {c : Chan} {i : Nat} (h : c.sealOrder.find? c.sealReady = some i) (hi : i < 16) :
    c.sealBlock = c.sealStream i := by
  rw [Chan.sealBlock, h]
  exact if_pos hi

theorem Chan.sealBlock_job {c : Chan} (h : c.sealOrder.find? c.sealReady = some 16) :
    c.sealBlock.car = { c.car with sealedBlocks := c.car.sealedBlocks + 1, turn := 0 } ∧ c.sealBlock.egr = c.egr := by
  rw [Chan.sealBlock, h]
  exact ⟨Chan.jobGoes_car _ _, Chan.jobGoes_egr _ _⟩

theorem NStream.handsOff_eq (n : NStream) : n.handsOff =
    (if n.headed then [] else streamHeader n.kind n.id) ++ (if n.raw.take 65536 = [] then [] else (dataBlock (n.raw.take 65536)).1) ++
      (if n.ended && (n.raw.drop 65536).isEmpty then endBlock (n.blocks + (if n.raw.take 65536 = [] then 0 else 1)) else []) := by
  simp only [NStream.handsOff, List.isEmpty_iff]
  by_cases h : n.raw.take 65536 = []
  · simp only [h, if_true]
  · simp only [h, if_false]

theorem NStream.leaves_eq (n : NStream) (ns : List NStream) : n.leaves ns =
    if n.ended && (n.raw.drop 65536).isEmpty then ns
    else { n with raw := n.raw.drop 65536, headed := true, blocks := n.blocks + (if n.raw.take 65536 = [] then 0 else 1) } :: ns := by
  simp only [NStream.leaves, List.isEmpty_iff]

end Sys2Proof.Machine

open Sys2Proof Sys2Proof.Machine

/-- Settles O41: the source whose turn it is seals a block, and the queues number what it hands off. -/
theorem blocksAreSealed : Obligations.BlocksAreSealed := by
  unfold Obligations.BlocksAreSealed
  intro s c i n ns hw hturn
  have ho := State.atWork_own s c Chan.sealBlock hw
  have hcar := Chan.of_own Chan.car (fun _ => rfl) ho
  have hegr := Chan.of_own Chan.egr (fun _ => rfl) ho
  refine ⟨fun hi => ?_, fun hi hstreams => ?_⟩
  · subst hi
    refine ⟨_, exec_caratBlockSeal c s, State.atWork_beside s c _, ?_⟩
    obtain ⟨hjob, hjobEgr⟩ := Chan.sealBlock_job hturn
    rw [hcar, hegr, hjob, hjobEgr]
    exact ⟨rfl, rfl, rfl, rfl⟩
  · intro raw blocks ovr d
    refine ⟨_, exec_caratBlockSeal c s, State.atWork_beside s c _, ?_⟩
    rw [Chan.sealBlock_stream hturn hi] at ho hcar hegr
    obtain ⟨hoffered, hseq⟩ := Chan.sealStream_reads hstreams
    obtain ⟨hraw, hout⟩ := Blk.countBlock_num (s.chan c).b n
    have hd : n.handsOff = d := NStream.handsOff_eq n
    rw [hd] at hseq hout
    obtain ⟨hleft, hothers⟩ := Chan.blockTaken_streams (s.chan c) i n ns
    rw [hcar, hegr, hoffered.car]
    refine ⟨rfl, hleft.trans (NStream.leaves_eq n ns), hothers, Chan.counts_of_num ho (by decide) ?_, Chan.counts_of_num ho (by decide) ?_,
      fun hb q hq hsource hsel => hseq hb q ?_⟩
    · exact (hoffered.num _ (by decide)).trans hraw
    · exact (hoffered.num _ (by decide)).trans hout
    · exact List.mem_filter.mpr ⟨hq, by simp [hsource, hsel]⟩

end

section
/-! PROOF. Requests of a channel's own (R77), and traces that are fetched and triggered (R311, R329, R330): O42. -/

namespace Sys2Proof.Machine

/-! ### What a request of the channel's own leaves -/

/-- From `x` to `y` a channel has at most sent requests of its own: nothing but the block and the requests under way has moved, and of
the block neither the objects nor what it is. -/
structure Chan.Asks (x y : Chan) : Prop where
  rest : y = { x with b := y.b, rem := y.rem }
  store : y.b.store = x.b.store
  isLeaf : y.b.isLeaf = x.b.isLeaf
  out : x.b.out <+: y.b.out
  rem : x.rem <+: y.rem

theorem Chan.Asks.refl (x : Chan) : x.Asks x := ⟨rfl, rfl, rfl, List.prefix_refl _, List.prefix_refl _⟩

theorem Chan.Asks.trans {x y z : Chan} (h : x.Asks y) (g : y.Asks z) : x.Asks z :=
  ⟨g.rest.trans (by rw [h.rest]), g.store.trans h.store, g.isLeaf.trans h.isLeaf, h.out.trans g.out, h.rem.trans g.rem⟩

theorem Chan.Asks.num {x y : Chan} (h : x.Asks y) (k : Nat) : y.b.num k = x.b.num k := by
  rw [Blk.num, Blk.val, h.store, h.isLeaf]
  rfl

theorem Chan.Asks.tree {x y : Chan} (h : x.Asks y) : y.tree = x.tree := by rw [h.rest]

theorem Chan.Asks.car {x y : Chan} (h : x.Asks y) : y.car = x.car := by rw [h.rest]

theorem Chan.Asks.leafAt {x y : Chan} (h : x.Asks y) (pos : Nat) : y.leafAt pos = x.leafAt pos := by
  rw [Chan.leafAt, h.tree]; rfl

theorem Chan.sendOp_asks (c : Chan) (r : Remote) : c.Asks (c.sendOp r) := by
  unfold Chan.sendOp
  split
  · exact .refl c
  · exact ⟨rfl, rfl, rfl, List.prefix_append _ _, List.prefix_append _ _⟩

/-- The head of a chain goes out, and the chain waits for its answer. -/
theorem Chan.sendOp_sends (c : Chan) {r : Remote} {o : ROp} {os : List ROp} (h : r.ops = o :: os) :
    (∃ m, .msg m ∈ (c.sendOp r).b.out ∧ m.dst = r.dst ∧ m.opcode = o.op ∧ m.items = o.items ∧ m.body = o.body) ∧
    ∃ x ∈ (c.sendOp r).rem, x.dst = r.dst ∧ x.ops = r.ops ∧ x.writes = r.writes ∧ x.apply = r.apply ∧ x.purpose = r.purpose := by
  rw [Chan.sendOp, h]
  exact ⟨⟨_, List.mem_append_right _ (List.mem_singleton.mpr rfl), rfl, rfl, rfl, rfl⟩,
    ⟨_, List.mem_append_right _ (List.mem_singleton.mpr rfl), rfl, rfl, rfl, rfl, rfl⟩⟩

theorem Chan.remote_asks (c : Chan) (dst : Word) (purpose : Purpose) (ops : List ROp) : c.Asks (c.remote dst purpose ops) :=
  Chan.sendOp_asks c _

theorem Chan.remote_sends (c : Chan) (dst : Word) (purpose : Purpose) (o : ROp) (os : List ROp) :
    (∃ m, .msg m ∈ (c.remote dst purpose (o :: os)).b.out ∧ m.dst = dst ∧ m.opcode = o.op ∧ m.items = o.items ∧ m.body = o.body) ∧
    ∃ x ∈ (c.remote dst purpose (o :: os)).rem, x.dst = dst ∧ x.ops = o :: os ∧ x.purpose = purpose := by
  obtain ⟨hmsg, x, hx, hdst, hops, -, -, hpurpose⟩ := Chan.sendOp_sends c
    (r := { dst := dst, ops := o :: os, seq := 0, txn := 0, got := [], purpose := purpose, writes := [], apply := 0 }) rfl
  exact ⟨hmsg, x, hx, hdst, hops, hpurpose⟩

theorem Chan.remoteTxn_asks (c : Chan) (dst : Word) (purpose : Purpose) (ws : List Wr) (a : Nat) : c.Asks (c.remoteTxn dst purpose ws a) :=
  Chan.sendOp_asks c _

/-! ### Triggers (R311) -/

theorem mem_onesOf {w n k : Nat} : k ∈ onesOf w n ↔ k < w ∧ n.testBit k = true := by
  simp [onesOf]

/-- A trigger for the leaf at a position, if there is one. -/
def Chan.sendTrigger (c : Chan) (p : Nat) : Chan :=
  match c.leafAt p with
  | none => c
  | some x => c.remote x.addr .trigger [rPlain opWrite [leafItem K.traceCommand (.num 2)]]

theorem Chan.sendTriggers_eq (c : Chan) (v : Nat) : c.sendTriggers v = (onesOf 48 v).foldl Chan.sendTrigger c := rfl

theorem Chan.sendTrigger_asks (c : Chan) (p : Nat) : c.Asks (c.sendTrigger p) := by
  unfold Chan.sendTrigger
  split
  · exact .refl c
  · exact Chan.remote_asks c _ _ _

theorem Chan.sendTriggers_asks (c : Chan) (l : List Nat) : c.Asks (l.foldl Chan.sendTrigger c) :=
  foldl_rel Chan.Asks .refl .trans _ Chan.sendTrigger_asks _ _

/-- Every named leaf is triggered. -/
theorem Chan.sendTriggers_sends {pos : Nat} {x : Child} (l : List Nat) (c : Chan) (hpos : pos ∈ l) (hx : c.leafAt pos = some x) :
    ∃ m, .msg m ∈ (l.foldl Chan.sendTrigger c).b.out ∧ m.dst = x.addr ∧ m.opcode = opWrite ∧
      m.items = [leafItem K.traceCommand (.num 2)] := by
  induction l generalizing c with
  | nil => cases hpos
  | cons p l ih =>
    rcases List.mem_cons.mp hpos with rfl | hl
    · obtain ⟨⟨m, hm, hdst, hop, hitems, -⟩, -⟩ := Chan.remote_sends c x.addr .trigger
        (rPlain opWrite [leafItem K.traceCommand (.num 2)]) []
      refine ⟨m, (Chan.sendTriggers_asks _ l).out.subset ?_, hdst, hop, hitems⟩
      rw [Chan.sendTrigger, hx]
      exact hm
    · exact ih _ hl ((Chan.sendTrigger_asks c p).leafAt pos ▸ hx)

theorem exec_traceTriggerLeaves (c : Ch) (v : Word64) (s : State) : exec (.traceTriggerLeaves c v) s =
    .next (s.chanRow c K.traceTriggerLeaves (.num v.toNat) (fun x y => x.triggerWritten y.toNum)) := rfl

/-! ### Fetches (R329) -/

/-- What a read of a fetch leaves of its stream. -/
theorem Chan.fetchRead_reads (c : Chan) (i : Nat) {f : Fetch} (hf : (c.car.stream i).fetch = some f) :
    ((c.fetchRead i).car.stream i).streams = (c.car.stream i).streams ∧
    ∃ g, ((c.fetchRead i).car.stream i).fetch = some g ∧ g.leaf = f.leaf ∧ g.offset = f.offset := by
  rw [Chan.fetchRead, hf]
  dsimp only
  split
  · exact ⟨rfl, f, hf, rfl, rfl⟩
  · simp only [Chan.onCar, Chan.onB_car, Carat.stream_mapStream_same]
    exact ⟨trivial, _, rfl, rfl, rfl⟩

/-- A fetch that begins, or goes on, reads the leaf's trace buffer as long as the frame has reads. -/
theorem Chan.fetchRead_begin (c : Chan) (i : Nat) {f : Fetch} (hf : (c.car.stream i).fetch = some f) (hw : f.waiting = false) :
    let more := decide ((c.car.stream i).reads < c.b.num K.fetchReadsPerFrame)
    ((c.fetchRead i).car.stream i).fetch = some { f with waiting := more } ∧
    (more = true → ∃ m, .msg m ∈ (c.fetchRead i).b.out ∧ m.dst = f.leaf ∧ m.opcode = opSegRead) := by
  intro more
  rw [Chan.fetchRead, hf]
  dsimp only
  by_cases hr : (c.car.stream i).reads < c.b.num K.fetchReadsPerFrame
  · have hmore : more = true := decide_eq_true hr
    rw [if_neg (by rw [hw]; simp; omega), hmore]
    simp only [Chan.onCar, Chan.onB_car, Carat.stream_mapStream_same]
    exact ⟨trivial, fun _ => ⟨_, List.mem_append_right _ (List.mem_singleton.mpr rfl), rfl, rfl⟩⟩
  · have hmore : more = false := decide_eq_false hr
    rw [if_pos (.inr (Nat.not_lt.mp hr)), hmore]
    refine ⟨hf.trans ?_, fun h => absurd h Bool.false_ne_true⟩
    rw [← hw]

/-- TRACE_FETCH of a leaf that is there (R329). -/
theorem Chan.startFetch_reads {c : Chan} {v : Nat} {x : Child} (hx : c.leafAt (v % 256) = some x) :
    let i := v / 256
    let more := decide ((c.car.stream i).reads < c.b.num K.fetchReadsPerFrame)
    ((c.startFetch v).car.stream i).fetch = some { leaf := x.addr, offset := 0, waiting := more } ∧
    (∃ n, ((c.startFetch v).car.stream i).streams = (c.car.stream i).streams ++ [n] ∧ n.kind = 1 ∧ n.id = x.leafId ∧ n.raw = []) ∧
    (more = true → ∃ m, .msg m ∈ (c.startFetch v).b.out ∧ m.dst = x.addr ∧ m.opcode = opSegRead) := by
  intro i more
  have heq : c.startFetch v = ((c.onB (fun b => b.setNum K.traceFetch v)).onCar (fun y => y.mapStream i (fun o =>
      { o.begin_ 1 x.leafId with fetch := some { leaf := x.addr, offset := 0, waiting := false } }))).fetchRead i := by
    unfold Chan.startFetch
    rw [hx]
  rw [heq]
  generalize hc1 : (c.onB (fun b => b.setNum K.traceFetch v)).onCar (fun y => y.mapStream i (fun o =>
      { o.begin_ 1 x.leafId with fetch := some { leaf := x.addr, offset := 0, waiting := false } })) = c1
  have hstream : c1.car.stream i =
      { (c.car.stream i).begin_ 1 x.leafId with fetch := some { leaf := x.addr, offset := 0, waiting := false } } := by
    rw [← hc1]
    exact Carat.stream_mapStream_same _ _ _
  have hreads : (c1.car.stream i).reads = (c.car.stream i).reads := by rw [hstream]; rfl
  have hnum : c1.b.num K.fetchReadsPerFrame = c.b.num K.fetchReadsPerFrame := by
    rw [← hc1]
    exact Blk.num_setNum_ne _ _ (by decide)
  have hf : (c1.car.stream i).fetch = some { leaf := x.addr, offset := 0, waiting := false } := by rw [hstream]
  obtain ⟨hfetch, hsend⟩ := Chan.fetchRead_begin c1 i hf rfl
  obtain ⟨hstreams, -⟩ := Chan.fetchRead_reads c1 i hf
  rw [hreads, hnum] at hfetch hsend
  refine ⟨hfetch, ⟨_, hstreams.trans (by rw [hstream]; rfl), rfl, rfl, rfl⟩, hsend⟩

/-- A fetch ends. -/
def Chan.endFetch (c : Chan) (i : Nat) : Chan := c.onCar (fun x => x.mapStream i (fun o => { o.end_ with fetch := none }))

theorem Chan.endFetch_fetch (c : Chan) (i : Nat) : ((c.endFetch i).car.stream i).fetch = none :=
  congrArg OStream.fetch (Carat.stream_mapStream_same c.car i (fun o => { o.end_ with fetch := none }))

section
variable {c : Chan} {i : Nat} {f : Fetch} (hf : (c.car.stream i).fetch = some f) (hw : f.waiting = true)
include hf hw

theorem Chan.fetchAnswer_refused {status : Nat} (hs : status ≠ 0) (d : List Byte) :
    c.fetchAnswer i status d = (c.onB (·.bump K.fetchFailures)).endFetch i := by
  rw [Chan.fetchAnswer, hf]
  dsimp only
  rw [if_neg (by rw [hw]; decide), if_pos hs]
  rfl

theorem Chan.fetchAnswer_empty : c.fetchAnswer i 0 [] = c.endFetch i := by
  rw [Chan.fetchAnswer, hf]
  dsimp only
  rw [if_neg (by rw [hw]; decide), if_neg (not_not_intro rfl)]
  rfl

/-- Data that fit into the staging area move the fetch on (R330). -/
theorem Chan.fetchAnswer_data {d : List Byte} (hd : d ≠ []) (hroom : c.car.staged + d.length ≤ stagingBytes) :
    ∃ g, ((c.fetchAnswer i 0 d).car.stream i).fetch = some g ∧ g.leaf = f.leaf ∧ g.offset = f.offset + d.length := by
  have hstage : c.stage i d = (true, c.onCar (fun x => x.mapStream i (fun o => o.mapLast (fun n => { n with raw := n.raw ++ d })))) :=
    if_neg (Nat.not_lt.mpr hroom)
  rw [Chan.fetchAnswer, hf]
  dsimp only
  rw [if_neg (by rw [hw]; decide), if_neg (not_not_intro rfl), if_neg (by simpa using hd), hstage]
  obtain ⟨-, hg⟩ := Chan.fetchRead_reads ((c.onCar (fun x => x.mapStream i (fun o => o.mapLast (fun n => { n with raw := n.raw ++ d })))).onCar
    (fun x => x.mapStream i (fun o => { o with fetch := some { f with offset := f.offset + d.length, waiting := false } }))) i
    (f := { f with offset := f.offset + d.length, waiting := false }) (congrArg OStream.fetch (Carat.stream_mapStream_same _ _ _) : _)
  exact hg

end

theorem exec_traceFetch (c : Ch) (v : BitVec 16) (s : State) :
    exec (.traceFetch c v) s = .next (s.chanRow c K.traceFetch (.num v.toNat) (fun x y => x.startFetch y.toNum)) := rfl

theorem exec_traceFetchResponse (c : Ch) (i : BitVec 4) (status : Byte) (d : List Byte) (s : State) :
    exec (.traceFetchResponse c i status d) s = .next (s.atWork c (fun x => x.fetchAnswer i.toNat status.toNat d)) := rfl

theorem State.chanRow_out_mem {s : State} {c : Ch} {key : Nat} {v : Val} (f : Chan → Val → Chan) (hp : s.passes (.chan c) key v = true)
    {o : Out} (h : o ∈ (f (s.chan c).writing v).b.out) : o ∈ ((s.chanRow c key v f).chan c).b.out :=
  (State.chanRow_out f hp).subset (List.mem_append_left _ h)

end Sys2Proof.Machine

open Sys2Proof Sys2Proof.Machine

/-- Settles O42: a fetch reads and moves on, or ends, and a trigger goes to every leaf named. -/
theorem tracesAreFetched : Obligations.TracesAreFetched := by
  unfold Obligations.TracesAreFetched
  refine ⟨fun s c => ⟨fun v x hp hx => ?_, fun i f hw hf hwait => ⟨fun status data hs => ?_, ?_, fun data hd hroom => ?_⟩⟩,
    fun s c v hp => ?_⟩
  · intro i more
    refine ⟨_, exec_traceFetch c v s, State.chanRow_beside _ hp, ?_⟩
    obtain ⟨hfetch, hstreams, hsend⟩ := Chan.startFetch_reads (c := (s.chan c).writing) (v := v.toNat) hx
    have hcar := State.chanRow_part (fun x y => x.startFetch y.toNum) hp Chan.car (fun _ => rfl) (fun _ _ => rfl)
    rw [hcar]
    refine ⟨hfetch, hstreams, fun hm => ?_⟩
    obtain ⟨m, hm, hdst, hop⟩ := hsend hm
    exact ⟨m, State.chanRow_out_mem _ hp hm, hdst, hop⟩
  · refine ⟨_, exec_traceFetchResponse c i status data s, State.atWork_beside s c _, ?_⟩
    have ho := State.atWork_own s c (fun x => x.fetchAnswer i.toNat status.toNat data) hw
    have hs' : status.toNat ≠ 0 := fun h => hs (BitVec.eq_of_toNat_eq h)
    rw [Chan.fetchAnswer_refused hf hwait hs'] at ho
    rw [Chan.of_own Chan.car (fun _ => rfl) ho]
    exact ⟨Chan.endFetch_fetch _ _, Chan.counts_of_num ho (by decide) rfl⟩
  · refine ⟨_, exec_traceFetchResponse c i 0 [] s, State.atWork_beside s c _, ?_⟩
    have ho := State.atWork_own s c (fun x => x.fetchAnswer i.toNat (0 : Byte).toNat []) hw
    rw [show (s.chan c).fetchAnswer i.toNat (0 : Byte).toNat [] = (s.chan c).endFetch i.toNat from Chan.fetchAnswer_empty hf hwait] at ho
    rw [Chan.of_own Chan.car (fun _ => rfl) ho]
    exact Chan.endFetch_fetch _ _
  · refine ⟨_, exec_traceFetchResponse c i 0 data s, State.atWork_beside s c _, ?_⟩
    rw [Chan.of_own Chan.car (fun _ => rfl) (State.atWork_own s c _ hw)]
    exact Chan.fetchAnswer_data hf hwait hd hroom
  · refine ⟨_, exec_traceTriggerLeaves c v s, State.chanRow_beside _ hp, ?_⟩
    have heq : (s.chan c).writing.triggerWritten v.toNat =
        ((s.chan c).writing.onB (fun b => b.setNum K.traceTriggerLeaves v.toNat)).sendTriggers v.toNat := rfl
    have hasks := Chan.sendTriggers_asks ((s.chan c).writing.onB (fun b => b.setNum K.traceTriggerLeaves v.toNat)) (onesOf 48 v.toNat)
    refine ⟨?_, fun pos x hpos hbit hx => ?_⟩
    · rw [State.chanRow_num _ hp (by decide)]
      show ((s.chan c).writing.triggerWritten v.toNat).b.num K.traceTriggerLeaves = _
      rw [heq, Chan.sendTriggers_eq, hasks.num]
      exact Blk.num_setNum_same _ _ _
    · obtain ⟨m, hm, hrest⟩ := Chan.sendTriggers_sends (onesOf 48 v.toNat)
        ((s.chan c).writing.onB (fun b => b.setNum K.traceTriggerLeaves v.toNat)) (mem_onesOf.mpr ⟨hpos, hbit⟩) hx
      refine ⟨m, State.chanRow_out_mem _ hp ?_, hrest⟩
      show .msg m ∈ ((s.chan c).writing.triggerWritten v.toNat).b.out
      rw [heq]
      exact hm

end

section
/-! PROOF. The clasp (R400 to R403): claims, the close of the window, and heartbeats (O57). -/

namespace Sys2Proof.Machine

/-! ### Steps on the channels that a list names -/

/-- The channel that a number names takes a step. -/
def State.stepAt (f : Chan → Chan) (s : State) (i : Nat) : State :=
  match allCh.find? (fun c => c.val == i) with
  | some c => s.putChan c (f (s.chan c))
  | none => s

theorem find_place (d : Ch) : allCh.find? (fun c => c.val == d.val) = some d := by
  revert d
  decide

theorem place_of_find {i : Nat} {c : Ch} (h : allCh.find? (fun c => c.val == i) = some c) : c.val = i := by
  simpa using List.find?_some h

theorem State.stepAt_chan (f : Chan → Chan) (s : State) (i : Nat) (d : Ch) :
    (s.stepAt f i).chan d = if d.val = i then f (s.chan d) else s.chan d := by
  unfold State.stepAt
  split
  · next c hc =>
    have hci := place_of_find hc
    by_cases hd : d = c
    · rw [hd, State.chan_putChan_same, if_pos hci]
    · rw [State.chan_putChan_ne _ _ hd, if_neg (fun h => hd (Fin.ext (h.trans hci.symm)))]
  · next hnone =>
    rw [if_neg]
    intro h
    rw [← h, find_place] at hnone
    cases hnone

theorem State.stepAt_rest (f : Chan → Chan) (s : State) (i : Nat) : (s.stepAt f i).leaf = s.leaf ∧ (s.stepAt f i).sh = s.sh := by
  unfold State.stepAt
  split <;> exact ⟨rfl, rfl⟩

/-- Over a list without repeats every channel that it names takes one step. -/
theorem State.foldl_stepAt_chan (f : Chan → Chan) {l : List Nat} (hl : l.Nodup) (s : State) (d : Ch) :
    (l.foldl (State.stepAt f) s).chan d = if d.val ∈ l then f (s.chan d) else s.chan d := by
  induction l generalizing s with
  | nil => rfl
  | cons i l ih =>
    obtain ⟨hi, hl'⟩ := List.nodup_cons.mp hl
    rw [List.foldl_cons, ih hl', State.stepAt_chan]
    by_cases hd : d.val = i
    · rw [if_pos hd, if_neg (by rw [hd]; exact hi), if_pos (by rw [hd]; exact List.mem_cons_self)]
    · rw [if_neg hd]
      exact ite_congr (by simp [hd]) (fun _ => rfl) (fun _ => rfl)

theorem State.foldl_stepAt_rest (f : Chan → Chan) (l : List Nat) (s : State) :
    (l.foldl (State.stepAt f) s).leaf = s.leaf ∧ (l.foldl (State.stepAt f) s).sh = s.sh :=
  ⟨foldl_keeps State.leaf _ (fun x i => (State.stepAt_rest f x i).1) l s, foldl_keeps State.sh _ (fun x i => (State.stepAt_rest f x i).2) l s⟩

theorem State.putChan_self (s : State) (c : Ch) : s.putChan c (s.chan c) = s := by
  match c with
  | 0 => rfl
  | 1 => rfl
  | 2 => rfl
  | 3 => rfl

/-! ### The close of the window (R400, R403) -/

/-- A claimant that steps down, while it takes part, backs off. -/
def Chan.stepDown (c : Chan) : Chan := if c.mayClaim then c.backOff c.b.now else c

/-- A claimant of a shared highest epoch counts the collision. -/
def Chan.collide (c : Chan) : Chan := c.onB (fun b => b.bump K.claspCollisions)

/-- A channel at the grant of the clasp to channel `w`. -/
def Chan.granted (w : Nat) (c : Chan) : Chan :=
  if c.b.place = w then { c.claspSeen with b := c.claspSeen.b.setNum K.claspHeld 1, claimAt := none } else c.claspSeen

/-- The claimants after the window: those that collided, and those that step down. -/
def State.judged (s : State) (sh : Shared) (collided down : List Nat) : State :=
  down.foldl (State.stepAt Chan.stepDown) (collided.foldl (State.stepAt Chan.collide) { s with sh := sh })

theorem State.closeClaims_eq (s : State) : s.closeClaims =
    match s.sh.closeWindow.1 with
    | none => s.judged s.sh.closeWindow.2.2.2 s.sh.closeWindow.2.1 s.sh.closeWindow.2.2.1
    | some w =>
      let s3 := s.judged s.sh.closeWindow.2.2.2 s.sh.closeWindow.2.1 s.sh.closeWindow.2.2.1
      { s3 with ch := s3.ch.map (Chan.granted w) } := by
  unfold State.closeClaims
  extract_lets r s1 s2 s3 t3
  have h3 : s3 = t3 := by
    show List.foldl _ s2 r.2.2.1 = List.foldl (State.stepAt Chan.stepDown) s2 r.2.2.1
    congr 1
    funext acc i
    unfold State.stepAt
    cases allCh.find? (fun c => c.val == i) with
    | none => rfl
    | some c =>
      dsimp only [Chan.stepDown]
      split
      · rfl
      · exact (State.putChan_self acc c).symm
  rw [h3]
  rfl

theorem State.judged_rest (s : State) (sh : Shared) (collided down : List Nat) :
    (s.judged sh collided down).leaf = s.leaf ∧ (s.judged sh collided down).sh = sh := by
  obtain ⟨h1, h2⟩ := State.foldl_stepAt_rest Chan.stepDown down (collided.foldl (State.stepAt Chan.collide) { s with sh := sh })
  obtain ⟨g1, g2⟩ := State.foldl_stepAt_rest Chan.collide collided { s with sh := sh }
  exact ⟨h1.trans g1, h2.trans g2⟩

theorem State.judged_chan (s : State) (sh : Shared) {collided down : List Nat} (hc : collided.Nodup) (hd : down.Nodup) (d : Ch) :
    (s.judged sh collided down).chan d =
      (if d.val ∈ down then Chan.stepDown else id) ((if d.val ∈ collided then Chan.collide else id) (s.chan d)) := by
  rw [State.judged, State.foldl_stepAt_chan _ hd, State.foldl_stepAt_chan _ hc]
  split <;> split <;> rfl

/-- The largest of a list that a member bounds. -/
theorem foldl_max_eq {l : List Nat} {e : Nat} (he : e ∈ l) (hle : ∀ x ∈ l, x ≤ e) : l.foldl max 0 = e := by
  have hbound : ∀ (l : List Nat) (a : Nat), (∀ x ∈ l, x ≤ l.foldl max a) ∧ a ≤ l.foldl max a ∧ (l.foldl max a = a ∨ l.foldl max a ∈ l) := by
    intro l
    induction l with
    | nil => intro a; exact ⟨fun x hx => (List.not_mem_nil hx).elim, Nat.le_refl a, .inl rfl⟩
    | cons y l ih =>
      intro a
      obtain ⟨hall, hlow, hmem⟩ := ih (max a y)
      rw [List.foldl_cons]
      refine ⟨fun x hx => ?_, Nat.le_trans (Nat.le_max_left a y) hlow, ?_⟩
      · rcases List.mem_cons.mp hx with rfl | hx
        · exact Nat.le_trans (Nat.le_max_right a x) hlow
        · exact hall x hx
      · rcases hmem with h | h
        · rcases Nat.le_total y a with hm | hm
          · exact .inl (h.trans (Nat.max_eq_left hm))
          · exact .inr (by rw [h, Nat.max_eq_right hm]; exact List.mem_cons_self)
        · exact .inr (List.mem_cons_of_mem y h)
  obtain ⟨hall, -, hmem⟩ := hbound l 0
  refine Nat.le_antisymm ?_ (hall e he)
  rcases hmem with h | h
  · rw [h]; exact Nat.zero_le e
  · exact hle _ h

section
variable {sh : Shared} {l : List (Nat × Nat)} {w e : Nat} (hl : sh.claims = some l) (hw : (w, e) ∈ l) (he : ∀ p ∈ l, p.2 ≤ e)
include hw he

theorem top_claim : (l.map (·.2)).foldl max 0 = e :=
  foldl_max_eq (List.mem_map.mpr ⟨(w, e), hw, rfl⟩) (fun _ hx => by
    obtain ⟨p, hp, rfl⟩ := List.mem_map.mp hx
    exact he p hp)

include hl

/-- One channel alone presented the highest epoch: it is granted the clasp (R400). -/
theorem Shared.closeWindow_grant (hone : ∀ p ∈ l, p.2 = e → p.1 = w) : sh.closeWindow =
    (some w, [], ((l.map (·.1)).filter (fun c => c != w)).eraseDups, { sh with claims := none, epoch := e % 2 ^ 32, holder := w }) := by
  have hbest : ((l.filter (fun p => p.2 == e)).map (·.1)).eraseDups = [w] := by
    have hnodup := nodup_eraseDups ((l.filter (fun p => p.2 == e)).map (·.1))
    have hall : ∀ x ∈ ((l.filter (fun p => p.2 == e)).map (·.1)).eraseDups, x = w := by
      intro x hx
      obtain ⟨p, hp, rfl⟩ := List.mem_map.mp (List.mem_eraseDups.mp hx)
      obtain ⟨hpl, hpe⟩ := List.mem_filter.mp hp
      exact hone p hpl (by simpa using hpe)
    have hmem : w ∈ ((l.filter (fun p => p.2 == e)).map (·.1)).eraseDups :=
      List.mem_eraseDups.mpr (List.mem_map.mpr ⟨(w, e), List.mem_filter.mpr ⟨hw, by simp⟩, rfl⟩)
    exact List.perm_singleton.mp ((List.perm_ext_iff_of_nodup hnodup (List.pairwise_singleton _ w)).mpr fun x =>
      ⟨fun hx => List.mem_singleton.mpr (hall x hx), fun hx => List.mem_singleton.mp hx ▸ hmem⟩)
  rw [Shared.closeWindow, hl]
  dsimp only
  rw [top_claim hw he, hbest]

/-- Two channels presented the highest epoch: every claimant steps down, and the window counts a collision (R400). -/
theorem Shared.closeWindow_collide {u : Nat} (hu : u ≠ w) (hue : (u, e) ∈ l) :
    sh.closeWindow = (none, (l.map (·.1)).eraseDups, (l.map (·.1)).eraseDups, { sh with claims := none }) := by
  have hmem : ∀ x, (x, e) ∈ l → x ∈ ((l.filter (fun p => p.2 == e)).map (·.1)).eraseDups := fun x hx =>
    List.mem_eraseDups.mpr (List.mem_map.mpr ⟨(x, e), List.mem_filter.mpr ⟨hx, by simp⟩, rfl⟩)
  rw [Shared.closeWindow, hl]
  dsimp only
  rw [top_claim hw he]
  split
  · next x hx =>
    have h1 := hmem w hw
    have h2 := hmem u hue
    rw [hx] at h1 h2
    exact absurd ((List.mem_singleton.mp h2).trans (List.mem_singleton.mp h1).symm) hu
  · rfl

end

/-! ### What a claimant reads after the window -/

theorem Chan.collide_reads (c : Chan) : c.collide.mayClaim = c.mayClaim ∧ c.collide.b.now = c.b.now ∧ c.collide.claimAt = c.claimAt := by
  have hn : ∀ k, k ≠ K.claspCollisions → c.collide.b.num k = c.b.num k := fun k hk => Blk.num_bump_ne c.b 1 hk
  refine ⟨?_, hn _ (by decide), rfl⟩
  unfold Chan.mayClaim
  rw [hn _ (by decide)]
  rfl

/-- A claimant that takes part draws a back-off of 1 to 8 frames (R403). -/
theorem Chan.stepDown_claimAt {c : Chan} (h : c.mayClaim = true) :
    ∃ x, c.stepDown.claimAt = some x ∧ c.b.now < x ∧ x ≤ c.b.now + 8 := by
  rw [Chan.stepDown, if_pos h]
  exact ⟨_, rfl, by omega, by have := Nat.mod_lt c.b.draw.1 (show 0 < 8 by decide); omega⟩

theorem Chan.stepDown_num (c : Chan) (k : Nat) : c.stepDown.b.num k = c.b.num k := by
  unfold Chan.stepDown
  split <;> rfl

theorem Chan.stepDown_phase (c : Chan) : c.stepDown.b.phase = c.b.phase ∧ c.stepDown.b.place = c.b.place := by
  unfold Chan.stepDown
  split <;> exact ⟨rfl, rfl⟩

theorem Chan.stepDown_works (c : Chan) : c.stepDown.b.works = c.b.works := by
  unfold Blk.works
  rw [(Chan.stepDown_phase c).1]

theorem Chan.claspSeen_missed {c : Chan} (h : c.b.works = true) : c.claspSeen.b.num K.claspMissed = 0 ∧ c.claspSeen.claimDue = false := by
  rw [Chan.claspSeen, if_pos h]
  exact ⟨Blk.num_setNum_same _ _ _, rfl⟩

theorem Chan.claspSeen_claimAt (c : Chan) : c.claspSeen.claimAt = c.claimAt := by
  unfold Chan.claspSeen
  split <;> rfl

/-- Where the clasp is granted to another channel, a channel keeps its back-off, and its count of missed frames returns to 0. -/
theorem Chan.granted_other {w : Nat} {c : Chan} (h : c.b.place ≠ w) : c.granted w = c.claspSeen := if_neg h

theorem Chan.granted_self {w : Nat} {c : Chan} (h : c.b.place = w) :
    (c.granted w).b.num K.claspHeld = 1 ∧ (c.granted w).claimAt = none ∧
    (c.b.works = true → (c.granted w).b.num K.claspMissed = 0) := by
  rw [Chan.granted, if_pos h]
  refine ⟨Blk.num_setNum_same _ _ _, rfl, fun hw => ?_⟩
  exact (Blk.num_setNum_ne _ _ (by decide)).trans (Chan.claspSeen_missed hw).1

theorem exec_claspClaim (c : Ch) (s : State) : exec (.claspClaim c) s = .next (s.csWork c (fun cs => cs.claimMissed c)) := rfl

theorem exec_claimBackoffExpire (c : Ch) (s : State) : exec (.claimBackoffExpire c) s = .next (s.csWork c (fun cs => cs.claimBackoff c)) :=
  rfl

theorem exec_claimWindowClose (s : State) : exec .claimWindowClose s = .next s.closeClaims := rfl

theorem exec_claspHeartbeat (c : Ch) (s : State) : exec (.claspHeartbeat c) s = .next (s.heartbeat c) := rfl

/-! ### Claims (R400, R402, R403) -/

/-- A claim of a higher epoch opens the window, or joins it. -/
theorem Shared.claim_next (sh : Shared) (c : Nat) :
    (sh.claim c (sh.epoch + 1)).claims = some ((sh.claims.getD []) ++ [(c, sh.epoch + 1)]) ∧ (sh.claim c (sh.epoch + 1)).epoch = sh.epoch := by
  unfold Shared.claim
  split
  · next h => rw [h]; exact ⟨rfl, rfl⟩
  · next h => rw [if_pos (Nat.lt_succ_self _), h]; exact ⟨rfl, rfl⟩

theorem Chan.works_of_mayClaim {c : Chan} (h : c.mayClaim = true) : c.b.works = true := by
  simp only [Chan.mayClaim, Bool.and_eq_true, beq_iff_eq] at h
  rw [Blk.works, h.1.1]

/-- What a claim leaves of the tray. -/
theorem State.onCS_claim {s : State} {c : Ch} {f : CS → CS} (hf : f { ch := s.chan c, sh := s.sh } = CS.claim { ch := s.chan c, sh := s.sh } c) :
    (s.onCS c f).leaf.own = s.leaf.own ∧ (∀ d, d ≠ c → ((s.onCS c f).chan d).apart = (s.chan d).apart) ∧
    (s.onCS c f).sh.claims = some ((s.sh.claims.getD []) ++ [(c.val, s.sh.epoch + 1)]) ∧ (s.onCS c f).sh.epoch = s.sh.epoch ∧
    ((s.onCS c f).chan c).claimAt = none ∧ ((s.onCS c f).chan c).claimDue = false := by
  have ho := State.onCS_own s c f
  have hsh := State.onCS_sh s c f
  rw [hf] at ho hsh
  obtain ⟨hclaims, hepoch⟩ := Shared.claim_next s.sh c.val
  have h1 := congrArg Shared.claims hsh
  have h2 := congrArg Shared.epoch hsh
  refine ⟨by rw [State.onCS_leaf]; rfl, fun d hd => State.onCS_apart s c f hd, ?_, ?_, ?_, ?_⟩
  · exact h1.trans hclaims
  · exact h2.trans hepoch
  · exact Chan.of_own Chan.claimAt (fun _ => rfl) ho
  · exact Chan.of_own Chan.claimDue (fun _ => rfl) ho

/-- The count of missed frames of a channel at work returns to 0 at a grant. -/
theorem Chan.granted_missed (w : Nat) {c : Chan} (h : c.b.works = true) : (c.granted w).b.num K.claspMissed = 0 := by
  by_cases hp : c.b.place = w
  · exact (Chan.granted_self hp).2.2 h
  · rw [Chan.granted_other hp]
    exact (Chan.claspSeen_missed h).1

/-- The window closes with a grant: the claimants beside the one granted step down. -/
theorem State.closeClaims_grant (s : State) {l : List (Nat × Nat)} {w e : Nat} (hl : s.sh.claims = some l) (hw : (w, e) ∈ l)
    (he : ∀ p ∈ l, p.2 ≤ e) (hone : ∀ p ∈ l, p.2 = e → p.1 = w) : ∃ down : List Nat,
      (∀ i, i ∈ down ↔ (∃ e1, (i, e1) ∈ l) ∧ i ≠ w) ∧ down.Nodup ∧
      s.closeClaims = (let s3 := s.judged { s.sh with claims := none, epoch := e % 2 ^ 32, holder := w } [] down
        { s3 with ch := s3.ch.map (Chan.granted w) }) := by
  refine ⟨((l.map (·.1)).filter (fun c => c != w)).eraseDups, fun i => ?_, nodup_eraseDups _, ?_⟩
  · rw [List.mem_eraseDups]
    simp
  · rw [State.closeClaims_eq, Shared.closeWindow_grant hl hw he hone]

/-- A channel at an accepted heartbeat of channel `c`. -/
def Chan.beatSeen (c : Ch) (y : Chan) : Chan :=
  if y.b.works then { y.claspSeen with beat := true, claimAt := if y.b.place = c.val then y.claimAt else none } else y

theorem Chan.beatSeen_reads (h : Ch) {c : Chan} (hw : c.b.works = true) : (c.beatSeen h).b.num K.claspMissed = 0 ∧
    (c.beatSeen h).claimDue = false ∧ (c.b.place ≠ h.val → (c.beatSeen h).claimAt = none) := by
  obtain ⟨hmissed, hdue⟩ := Chan.claspSeen_missed hw
  rw [Chan.beatSeen, if_pos hw]
  exact ⟨hmissed, hdue, fun hp => if_neg hp⟩

section
variable {s : State} {c : Ch} (hw : (s.chan c).b.works = true) (hheld : (s.chan c).b.num K.claspHeld = 1)
include hw hheld

/-- A heartbeat of H is accepted (R401). -/
theorem State.heartbeat_accepted (hh : s.sh.holder = c.val) : s.heartbeat c =
    { s with sh := { s.sh with beats := (s.sh.beats + 1) % 65536 }, ch := s.ch.map (Chan.beatSeen c) } := by
  have hgo : ¬(!(s.chan c).b.works || decide ((s.chan c).b.num K.claspHeld = 0)) = true := by rw [hw, hheld]; decide
  have hok : s.sh.heartbeatOk c.val s.sh.epoch = true := by simp [Shared.heartbeatOk, hh]
  unfold State.heartbeat
  extract_lets x
  rw [if_neg hgo, if_pos hok]
  rfl

/-- One of another channel is refused (R401). -/
theorem State.heartbeat_refused (hh : s.sh.holder ≠ c.val) :
    s.heartbeat c = s.putChan c ((s.chan c).onB (fun b => (b.setNum K.claspHeld 0).bump K.claspDepositions)) := by
  have hgo : ¬(!(s.chan c).b.works || decide ((s.chan c).b.num K.claspHeld = 0)) = true := by rw [hw, hheld]; decide
  have hok : ¬s.sh.heartbeatOk c.val s.sh.epoch = true := by simp [Shared.heartbeatOk, hh]
  unfold State.heartbeat
  extract_lets x
  rw [if_neg hgo, if_neg hok]

end

/-- A counter that advances beside another object's write counts as if it were alone. -/
theorem Blk.num_bump_setNum (b : Blk) {k j : Nat} (m : Nat) (h : k ≠ j) : ((b.setNum j m).bump k).num k = (b.bump k).num k := by
  rw [Blk.bump, Blk.bump, Blk.num_setNum_same, Blk.num_setNum_same, Blk.num_setNum_ne _ _ h]
  rfl

end Sys2Proof.Machine

open Sys2Proof Sys2Proof.Machine

/-- Settles O57: claims join the window, its close grants the clasp to the one that presented the highest epoch, and a heartbeat of H
is accepted. -/
theorem claspIsArbitrated : Obligations.ClaspIsArbitrated := by
  unfold Obligations.ClaspIsArbitrated
  intro s presented backedOff
  refine ⟨fun c hmay hdue => ?_, fun c x hmay hat hx => ?_, fun l w e hseat hl hw he => ⟨fun hone => ?_, fun u hu hue => ?_⟩,
    fun c hseat hworks hheld => ⟨fun hh => ?_, fun hh => ?_⟩⟩
  · refine ⟨_, exec_claspClaim c s, ?_⟩
    rw [State.csWork, if_pos (Chan.works_of_mayClaim hmay)]
    exact State.onCS_claim (if_pos (by rw [hdue, hmay]; rfl))
  · refine ⟨_, exec_claimBackoffExpire c s, ?_⟩
    rw [State.csWork, if_pos (Chan.works_of_mayClaim hmay)]
    refine State.onCS_claim ?_
    rw [CS.claimBackoff]
    dsimp only
    rw [hat]
    exact if_pos (by rw [hmay, decide_eq_true hx]; rfl)
  · refine ⟨_, exec_claimWindowClose s, ?_⟩
    obtain ⟨down, hdown, hnodup, heq⟩ := State.closeClaims_grant s (w := w.val) hl hw he fun p hp hpe => hone p hp hpe
    obtain ⟨hleaf, hsh⟩ := State.judged_rest s { s.sh with claims := none, epoch := e % 2 ^ 32, holder := w.val } [] down
    have hchan : ∀ d, s.closeClaims.chan d = ((if d.val ∈ down then Chan.stepDown else id) (s.chan d)).granted w.val := by
      intro d
      rw [heq]
      exact (Quad.get_map _ _ d).trans (congrArg _ (State.judged_chan s _ List.nodup_nil hnodup d))
    obtain ⟨-, hplaces⟩ := hseat
    have hwdown : w.val ∉ down := fun h => ((hdown _).mp h).2 rfl
    have hwself := Chan.granted_self (c := s.chan w) (w := w.val) (hplaces w).2
    have hw' : s.closeClaims.chan w = (s.chan w).granted w.val := by rw [hchan, if_neg hwdown]; rfl
    refine ⟨by rw [heq]; exact hleaf, ?_, ?_, ?_, ?_, ?_, fun d hworks => ?_, fun d hd hclaim hmay => ?_⟩
    · rw [heq]; exact congrArg Shared.claims hsh
    · rw [heq]; exact congrArg Shared.holder hsh
    · rw [heq]; exact congrArg Shared.epoch hsh
    · rw [hw']; exact hwself.1
    · rw [hw']; exact hwself.2.1
    · rw [hchan]
      refine Chan.granted_missed w.val ?_
      split
      · exact (Chan.stepDown_works (s.chan d)).trans hworks
      · exact hworks
    · have hdd : d.val ∈ down := (hdown _).mpr ⟨hclaim, fun h => hd (Fin.ext h)⟩
      have hplace : (s.chan d).stepDown.b.place ≠ w.val := by
        rw [(Chan.stepDown_phase _).2, (hplaces d).2]
        exact fun h => hd (Fin.ext h)
      rw [hchan, if_pos hdd, Chan.granted_other hplace, Chan.claspSeen_claimAt]
      exact Chan.stepDown_claimAt hmay
  · refine ⟨_, exec_claimWindowClose s, ?_⟩
    have hne : u.val ≠ w.val := fun h => hu (Fin.ext h)
    have hwin := Shared.closeWindow_collide hl hw he hne hue
    have hall := nodup_eraseDups (l.map (·.1))
    have heq : s.closeClaims = s.judged { s.sh with claims := none } (l.map (·.1)).eraseDups (l.map (·.1)).eraseDups := by
      rw [State.closeClaims_eq, hwin]
    obtain ⟨hleaf, hsh⟩ := State.judged_rest s { s.sh with claims := none } (l.map (·.1)).eraseDups (l.map (·.1)).eraseDups
    have hchan : ∀ d : Ch, (d.val, e) ∈ l → s.closeClaims.chan d = ((s.chan d).collide).stepDown := by
      intro d hde
      have hmem : d.val ∈ (l.map (·.1)).eraseDups := List.mem_eraseDups.mpr (List.mem_map.mpr ⟨_, hde, rfl⟩)
      rw [heq, State.judged_chan s _ hall hall, if_pos hmem, if_pos hmem]
    have hback : ∀ d : Ch, (d.val, e) ∈ l → backedOff d s.closeClaims ∧ (s.chan d).b.counts (s.closeClaims.chan d).b K.claspCollisions := by
      intro d hde
      obtain ⟨hcmay, hcnow, -⟩ := Chan.collide_reads (s.chan d)
      rw [hchan d hde]
      refine ⟨fun hmay => ?_, ?_⟩
      · rw [hchan d hde, ← hcnow]
        exact Chan.stepDown_claimAt (hcmay.trans hmay)
      · rw [Blk.counts, Chan.stepDown_num]
        exact Blk.counts_bump (s.chan d).b K.claspCollisions 1
    refine ⟨by rw [heq]; exact hleaf, ?_, ?_, ?_, (hback w hw).1, (hback u hue).1, (hback w hw).2, (hback u hue).2⟩
    · rw [heq]; exact congrArg Shared.claims hsh
    · rw [heq, hsh]
    · rw [heq, hsh]
  · refine ⟨_, exec_claspHeartbeat c s, ?_⟩
    rw [State.heartbeat_accepted hworks hheld hh]
    refine ⟨rfl, rfl, fun d hd => ?_⟩
    have hchan := Quad.get_map (Chan.beatSeen c) s.ch d
    obtain ⟨hmissed, hdue, hclaim⟩ := Chan.beatSeen_reads c (c := s.chan d) hd
    have hplace := (hseat.2 d).2
    refine ⟨?_, ?_, fun hne => ?_⟩
    · exact (congrArg (fun x : Chan => x.b.num K.claspMissed) hchan : _).trans hmissed
    · exact (congrArg Chan.claimDue hchan : _).trans hdue
    · exact (congrArg Chan.claimAt hchan : _).trans (hclaim fun h => hne (Fin.ext (hplace.symm.trans h)))
  · refine ⟨_, exec_claspHeartbeat c s, ?_⟩
    rw [State.heartbeat_refused hworks hheld hh]
    refine ⟨rfl, rfl, fun d hd => State.chan_putChan_ne _ _ hd, ?_, ?_⟩
    · rw [State.chan_putChan_same]
      exact (Blk.num_bump_ne _ _ (by decide)).trans (Blk.num_setNum_same _ _ _)
    · rw [State.chan_putChan_same, Blk.counts]
      exact (Blk.num_bump_setNum (s.chan c).b (k := K.claspDepositions) (j := K.claspHeld) 0 (by decide)).trans
        (Blk.counts_bump (s.chan c).b K.claspDepositions 1)

end

section
/-! PROOF. The wake pacer (R366, R368) and the core voltage (R360): O54. -/

namespace Sys2Proof.Machine

/-- What one step of a fold brings about, and the others keep, the fold brings about. -/
theorem foldl_reaches {α β : Type} {R : β → β → Prop} (refl : ∀ x, R x x) (trans : ∀ {x y z}, R x y → R y z → R x z) {g : β → α → β}
    (hg : ∀ x a, R x (g x a)) {P : β → Prop} (hP : ∀ {x y}, R x y → P x → P y) {a : α} {l : List α} (ha : a ∈ l) (b : β)
    (h : ∀ x, R b x → P (g x a)) : P (l.foldl g b) := by
  induction l generalizing b with
  | nil => cases ha
  | cons i l ih =>
    rcases List.mem_cons.mp ha with rfl | hl
    · exact hP (foldl_rel R refl trans g hg l _) (h b (refl b))
    · exact ih hl _ (fun x hx => h x (trans (hg b i) hx))

/-! ### Wakes that are asked for (R366) -/

/-- From `x` to `y` wakes have entered the tail of the queue for a time, and nothing else has moved. -/
structure Chan.Queues (t : Nat) (x y : Chan) : Prop where
  rest : y = { x with pac := y.pac }
  queue : ∃ more, y.pac.queue = x.pac.queue ++ more ∧ ∀ q ∈ more, q.notBefore = t ∧ q.rule = none

theorem Chan.Queues.refl (t : Nat) (x : Chan) : x.Queues t x := ⟨rfl, [], (List.append_nil _).symm, fun _ h => (List.not_mem_nil h).elim⟩

theorem Chan.Queues.trans {t : Nat} {x y z : Chan} (h : x.Queues t y) (g : y.Queues t z) : x.Queues t z := by
  obtain ⟨hrest, more, hq, hmore⟩ := h
  obtain ⟨grest, more2, gq, gmore⟩ := g
  refine ⟨grest.trans (by rw [hrest]), more ++ more2, by rw [gq, hq, List.append_assoc], fun q hm => ?_⟩
  rcases List.mem_append.mp hm with hm | hm
  · exact hmore q hm
  · exact gmore q hm

/-- The region of the leaf at a position waits. -/
def Chan.Waits (p r : Nat) (c : Chan) : Prop := ∃ q ∈ c.pac.queue, q.pos = p ∧ q.region = r

theorem Chan.Queues.waits {t p r : Nat} {x y : Chan} (h : x.Queues t y) (hw : x.Waits p r) : y.Waits p r := by
  obtain ⟨q, hq, hqr⟩ := hw
  obtain ⟨-, more, hm, -⟩ := h
  exact ⟨q, by rw [hm]; exact List.mem_append_left _ hq, hqr⟩

theorem Chan.Queues.leafAt {t : Nat} {x y : Chan} (h : x.Queues t y) (p : Nat) : y.leafAt p = x.leafAt p := by rw [h.rest]; rfl

theorem Chan.Queues.leafMap {t : Nat} {x y : Chan} (h : x.Queues t y) (a : Word) : y.leafMap a = x.leafMap a := by rw [h.rest]; rfl

theorem Chan.Queues.regionNow {t : Nat} {x y : Chan} (h : x.Queues t y) (a : Word) (r : Nat) : y.regionNow a r = x.regionNow a r := by
  rw [h.rest]; rfl

/-- A region of the leaf `x` at position `p` enters the queue when it is off and does not wait. -/
def Chan.wakeRegion (v : List Byte) (p : Nat) (x : Child) (a : Chan) (r : Nat) : Chan :=
  if bit (a.regionNow x.addr r) 3 && !a.pac.queue.any (fun q => q.pos == p && q.region == r) then
    a.onPac (fun k => { k with queue := k.queue ++ [{ pos := p, region := r, notBefore := leAt v 8 8, rule := none }] })
  else a

/-- The named regions of the leaf at a position enter the queue. -/
def Chan.wakePlace (v : List Byte) (acc : Chan) (p : Nat) : Chan :=
  match acc.leafAt p with
  | none => acc
  | some x =>
    (if leAt v 0 1 = 0xFF then regionsOf (acc.leafMap x.addr) else if leAt v 0 1 < 32 then [leAt v 0 1] else []).foldl
      (Chan.wakeRegion v p x) acc

theorem Chan.wakeRequest_eq (c : Chan) (v : List Byte) : c.wakeRequest v =
    (((List.range 48).filter (fun p => leAt v 1 1 == 0xFF || p == leAt v 1 1)).foldl (Chan.wakePlace v) c).showPacer := rfl

theorem Chan.wakeRegion_queues (v : List Byte) (p : Nat) (x : Child) (a : Chan) (r : Nat) :
    a.Queues (leAt v 8 8) (a.wakeRegion v p x r) := by
  unfold Chan.wakeRegion
  split
  · exact ⟨rfl, _, rfl, fun q hq => by rw [List.mem_singleton.mp hq]; exact ⟨rfl, rfl⟩⟩
  · exact .refl _ a

theorem Chan.wakePlace_queues (v : List Byte) (a : Chan) (p : Nat) : a.Queues (leAt v 8 8) (a.wakePlace v p) := by
  unfold Chan.wakePlace
  split
  · exact .refl _ a
  · exact foldl_rel _ (Chan.Queues.refl _) Chan.Queues.trans _ (Chan.wakeRegion_queues v p _) _ _

/-- A region that is off waits once it has been asked for. -/
theorem Chan.wakeRegion_waits {v : List Byte} {p r : Nat} {x : Child} {a : Chan} (h : bit (a.regionNow x.addr r) 3 = true) :
    (a.wakeRegion v p x r).Waits p r := by
  rw [Chan.wakeRegion, h, Bool.true_and]
  cases hany : a.pac.queue.any (fun q => q.pos == p && q.region == r) with
  | true =>
    obtain ⟨q, hq, hqr⟩ := List.any_eq_true.mp hany
    simp only [Bool.and_eq_true, beq_iff_eq] at hqr
    exact ⟨q, hq, hqr⟩
  | false => exact ⟨_, List.mem_append_right _ (List.mem_singleton.mpr rfl), rfl, rfl⟩

theorem Chan.wakePlace_waits {v : List Byte} {p r : Nat} {x : Child} {a : Chan} (hx : a.leafAt p = some x) (hr : r < 32)
    (hnamed : leAt v 0 1 = r ∨ (leAt v 0 1 = 0xFF ∧ r ∈ regionsOf (a.leafMap x.addr))) (h : bit (a.regionNow x.addr r) 3 = true) :
    (a.wakePlace v p).Waits p r := by
  rw [Chan.wakePlace, hx]
  refine foldl_reaches (Chan.Queues.refl _) Chan.Queues.trans (Chan.wakeRegion_queues v p x) (fun g => g.waits) (a := r) ?_ a
    (fun y hy => Chan.wakeRegion_waits (by rw [hy.regionNow]; exact h))
  rcases hnamed with heq | ⟨hff, hmem⟩
  · rw [if_neg (by omega), if_pos (by omega), heq]
    exact List.mem_singleton.mpr rfl
  · rw [if_pos hff]
    exact hmem

/-- WAKE_REQUEST (R366): what it names waits. -/
theorem Chan.wakeRequest_reads (c : Chan) (v : List Byte) :
    (∃ more, (c.wakeRequest v).pac.queue = c.pac.queue ++ more ∧ ∀ q ∈ more, q.notBefore = leAt v 8 8 ∧ q.rule = none) ∧
    (c.wakeRequest v).b.num K.wakeQueued = (c.wakeRequest v).pac.queue.length ∧
    ∀ (p r : Nat) (x : Child), p < 48 → r < 32 → leAt v 1 1 = 0xFF ∨ leAt v 1 1 = p → c.leafAt p = some x →
      leAt v 0 1 = r ∨ (leAt v 0 1 = 0xFF ∧ r ∈ regionsOf (c.leafMap x.addr)) → bit (c.regionNow x.addr r) 3 = true →
      ∃ q ∈ (c.wakeRequest v).pac.queue, q.pos = p ∧ q.region = r := by
  have hfold : c.Queues (leAt v 8 8)
      (((List.range 48).filter (fun p => leAt v 1 1 == 0xFF || p == leAt v 1 1)).foldl (Chan.wakePlace v) c) :=
    foldl_rel _ (Chan.Queues.refl _) Chan.Queues.trans _ (Chan.wakePlace_queues v) _ _
  rw [Chan.wakeRequest_eq]
  refine ⟨hfold.queue, Blk.num_setNum_same _ _ _, fun p r x hp hr hpos hx hnamed hoff => ?_⟩
  have hmem : p ∈ (List.range 48).filter (fun p => leAt v 1 1 == 0xFF || p == leAt v 1 1) := by
    rcases hpos with h | h <;> simp [hp, h]
  refine foldl_reaches (Chan.Queues.refl (leAt v 8 8)) Chan.Queues.trans (Chan.wakePlace_queues v) (P := Chan.Waits p r)
    (fun g => g.waits) hmem c (fun y hy => Chan.wakePlace_waits (x := x) ?_ hr ?_ ?_)
  · rw [hy.leafAt]; exact hx
  · rw [hy.leafMap]; exact hnamed
  · rw [hy.regionNow]; exact hoff

/-! ### The transaction of a granted wake (R368) -/

theorem Chan.remoteTxn_sends (c : Chan) (dst : Word) (purpose : Purpose) (ws : List Wr) (a : Nat) :
    (∃ m, .msg m ∈ (c.remoteTxn dst purpose ws a).b.out ∧ m.dst = dst ∧ m.opcode = opTxnOpen) ∧
    ∃ q ∈ (c.remoteTxn dst purpose ws a).rem, q.dst = dst ∧ q.writes = ws ∧ q.apply = a ∧ q.purpose = purpose := by
  obtain ⟨⟨m, hm, hdst, hop, -⟩, q, hq, hqdst, -, hwrites, happly, hpurpose⟩ := Chan.sendOp_sends c (r :=
    { dst := dst, ops := txnOps [ws.map (fun w => leafItem w.1 w.2)] a, seq := 0, txn := 0, got := [],
      purpose := purpose, writes := ws, apply := a }) rfl
  exact ⟨⟨m, hm, hdst, hop⟩, q, hq, hqdst, hwrites, happly, hpurpose⟩

/-- The pacer without the grants of the frames before. -/
def Chan.grantsTaken (c : Chan) : Chan :=
  c.onPac (fun p => { p with grants := p.grants.filter (fun q => !decide (q.1 < c.b.now)),
                             retry := p.retry.filter (fun q => !decide (q.2.2 < c.b.now)) })

/-- One grant of a frame before, and nothing that waits for a second try: one transaction on its leaf. -/
theorem Chan.commitWakes_one {c : Chan} {g p r : Nat} {x : Child} (hg : c.pac.grants = [(g, p, r)]) (hbefore : g < c.b.now)
    (hretry : c.pac.retry = []) (hx : c.leafAt p = some x) :
    c.commitWakes = c.grantsTaken.remoteTxn x.addr (.wakeTxn [r]) (c.wakeWrites x.addr [r]) (c.b.now + 1) ∧
    c.grantsTaken.pac.grants = [] := by
  constructor
  · unfold Chan.commitWakes
    rw [hg, hretry]
    simp [hbefore, hx, List.eraseDups_cons] <;> rfl
  · show c.pac.grants.filter _ = []
    rw [hg]
    simp [hbefore]

/-! ### The core voltage (R360) -/

/-- A step of the core target (R360). -/
theorem Shared.stepTarget_falls {sh : Shared} {needs : List Nat} (h : sh.wanted needs < sh.num K.coreTargetMv) :
    (sh.stepTarget needs).num K.coreTargetMv = max (sh.wanted needs) (sh.num K.coreTargetMv - 10) ∧
    (sh.stepTarget needs).changes = (sh.changes + 1) % 65536 := by
  unfold Shared.stepTarget
  extract_lets t
  rw [if_pos h, Shared.setTarget, if_neg (by omega)]
  exact ⟨Shared.num_setNum_same _ _ _, rfl⟩

theorem Shared.stepTarget_stays {sh : Shared} {needs : List Nat} (h : sh.num K.coreTargetMv ≤ sh.wanted needs) :
    sh.stepTarget needs = sh := if_neg (Nat.not_lt.mpr h)

/-- A rise of the core target takes effect at once. -/
theorem Shared.raiseTarget_num (sh : Shared) (needs : List Nat) :
    (sh.raiseTarget needs).num K.coreTargetMv = max (sh.num K.coreTargetMv) (sh.wanted needs) := by
  unfold Shared.raiseTarget
  extract_lets t
  split
  · next h =>
    rw [Shared.setTarget, if_neg (by omega)]
    exact (Shared.num_setNum_same _ _ _).trans (Nat.max_eq_right (Nat.le_of_lt h)).symm
  · next h => exact (Nat.max_eq_left (Nat.not_lt.mp h)).symm

theorem Shared.wanted_of_store {a b : Shared} (h : a.store = b.store) (needs : List Nat) : a.wanted needs = b.wanted needs := by
  unfold Shared.wanted
  rw [Shared.num_of_store h, Shared.num_of_store h]

/-- After a command of a channel at work the core target has followed the needs (R360). -/
theorem State.atWork_target {s : State} {c : Ch} (f : Chan → Chan) (hw : (s.chan c).b.works = true) (hpow : s.sh.powered = true) :
    (s.atWork c f).sh.num K.coreTargetMv = max (s.sh.num K.coreTargetMv) (s.sh.wanted (s.atWork c f).needs) := by
  have hsh : (s.atWork c f).sh.own = s.sh.own := (State.atWork_beside s c f).2.1
  have hpowt : (s.atWork c f).sh.powered = true := (congrArg Shared.powered hsh : _).trans hpow
  rw [State.atWork, if_pos hw] at hpowt ⊢
  obtain ⟨u, hu, hstore⟩ := State.afterChan_settles ({ s with sh := s.sh }.putChan c (f (s.chan c))) c (s.chan c)
  have ht : s.onChan c f = u.settle := hu
  have hstore' : u.sh.store = s.sh.store := hstore
  rw [ht] at hpowt ⊢
  have hneeds : u.settle.needs = u.needs := by unfold State.needs State.settle; split <;> rfl
  have hpowu : u.sh.powered = true := by
    cases h : u.sh.powered with
    | true => rfl
    | false => rw [State.settle, h] at hpowt; exact h ▸ hpowt
  rw [hneeds, State.settle, hpowu]
  rw [if_neg (by decide)]
  dsimp only
  rw [Shared.num_setNum_ne _ _ (by decide), Shared.raiseTarget_num]
  have hs : (if u.released = true then { u.sh with holder := 0xFF, freed := (u.ch.toList).map (fun c => c.b.now) } else u.sh).store =
      s.sh.store := by
    split <;> exact hstore'
  rw [Shared.num_of_store hs, Shared.wanted_of_store hs]

/-- A channel that raises its error interrupt has it raised. -/
theorem Blk.raiseErr_set {b : Blk} {k : Nat} (h : b.isLeaf = false) (hk : k < 8) : (b.raiseErr k).err.getLsbD k = true := by
  rw [Blk.raiseErr, h, if_neg Bool.false_ne_true]
  simp only [BitVec.getLsbD_or, BitVec.getLsbD_ofNat, hk, decide_true, Bool.true_and, Nat.testBit_two_pow_self, Bool.or_true]

/-- A measured voltage beyond the margin is counted, and signalled (R360). -/
theorem Chan.marginEvent_low {c : Chan} {mv : Nat} (h : mv + 15 < c.b.num K.channelNeedMv) (hl : c.b.isLeaf = false) :
    (c.marginEvent mv).b.num K.marginEvents = (c.b.bump K.marginEvents).num K.marginEvents ∧
    (c.marginEvent mv).b.err.getLsbD irqSupply = true := by
  rw [Chan.marginEvent, if_pos h]
  exact ⟨Blk.raiseErr_num _ _ _, Blk.raiseErr_set (b := c.b.bump K.marginEvents) hl (by decide)⟩

theorem exec_wakeRequest (c : Ch) (v : List Byte) (s : State) :
    exec (.wakeRequest c v) s = .next (s.chanRow c K.wakeRequest (.bytes v) (fun x y => x.wakeRequest y.toBytes)) := rfl

theorem exec_wakeTxnCommit (c : Ch) (s : State) : exec (.wakeTxnCommit c) s = .next (s.atWork c Chan.commitWakes) := rfl

theorem exec_coreTargetStep (s : State) : exec .coreTargetStep s = .next (s.onShared (fun h => h.stepTarget s.needs)) := rfl

theorem exec_marginEvent (c : Ch) (mv : BitVec 16) (s : State) : exec (.marginEvent c mv) s =
    .next ((s.onShared (fun h => h.setNum K.coreMeasuredMv mv.toNat)).atWork c (fun x => x.marginEvent mv.toNat)) := rfl

theorem exec_channelNeedChange (c : Ch) (mv : BitVec 16) (s : State) :
    exec (.channelNeedChange c mv) s = .next (s.atWork c (fun x => x.needChange mv.toNat)) := rfl

end Sys2Proof.Machine

open Sys2Proof Sys2Proof.Machine

/-- Settles O54: what is asked for waits, a grant becomes a transaction, and the core target follows the needs. -/
theorem wakesArePaced : Obligations.WakesArePaced := by
  unfold Obligations.WakesArePaced
  refine ⟨fun s c => ⟨fun v hp => ?_, fun g p r x hw hg hbefore hretry hx => ?_⟩,
    fun s => ⟨fun hpow => ⟨fun hfall => ?_, fun hstay => ?_⟩, fun c mv hw hpow hleaf => ⟨?_, ?_⟩⟩⟩
  · refine ⟨_, exec_wakeRequest c v s, State.chanRow_beside _ hp, ?_⟩
    obtain ⟨hmore, hqueued, hwaits⟩ := Chan.wakeRequest_reads (s.chan c).writing v
    rw [State.chanRow_part (fun x y => x.wakeRequest y.toBytes) hp Chan.pac (fun _ => rfl) (fun _ _ => rfl)]
    refine ⟨hmore, (State.chanRow_num _ hp (by decide)).trans hqueued, hwaits⟩
  · refine ⟨_, exec_wakeTxnCommit c s, State.atWork_beside s c _, ?_⟩
    obtain ⟨heq, hgrants⟩ := Chan.commitWakes_one hg hbefore hretry hx
    have hasks := Chan.remoteTxn_asks (s.chan c).grantsTaken x.addr (.wakeTxn [r]) ((s.chan c).wakeWrites x.addr [r]) ((s.chan c).b.now + 1)
    obtain ⟨⟨m, hm, hdst, hop⟩, q, hq, hqdst, hwrites, happly, -⟩ :=
      Chan.remoteTxn_sends (s.chan c).grantsTaken x.addr (.wakeTxn [r]) ((s.chan c).wakeWrites x.addr [r]) ((s.chan c).b.now + 1)
    rw [← heq] at hm hq
    refine ⟨?_, ⟨m, (State.atWork_out _ hw).subset hm, hdst, hop⟩, q, (State.atWork_rem _ hw).subset hq, hqdst, happly, hwrites, ?_⟩
    · rw [Chan.of_own Chan.pac (fun _ => rfl) (State.atWork_own s c _ hw), heq, hasks.rest]
      exact hgrants
    · rw [hwrites]
      exact List.mem_append_left _ (List.mem_singleton.mpr rfl)
  · refine ⟨_, exec_coreTargetStep s, ?_⟩
    rw [State.onShared, if_pos hpow]
    obtain ⟨hnum, hchanges⟩ := Shared.stepTarget_falls hfall
    exact ⟨rfl, rfl, hnum, hchanges⟩
  · refine ⟨_, exec_coreTargetStep s, ?_⟩
    rw [State.onShared, if_pos hpow, Shared.stepTarget_stays hstay]
  · refine ⟨_, exec_marginEvent c mv s, ?_⟩
    rw [State.onShared, if_pos hpow]
    have hbeside := State.atWork_beside { s with sh := s.sh.setNum K.coreMeasuredMv mv.toNat } c (fun x => x.marginEvent mv.toNat)
    have ho := State.atWork_own { s with sh := s.sh.setNum K.coreMeasuredMv mv.toNat } c (fun x => x.marginEvent mv.toNat) hw
    obtain ⟨hl, -, hothers⟩ := hbeside
    refine ⟨hl, hothers, ?_, fun hlow => ?_, fun hhigh => ?_⟩
    · rw [State.atWork_shNum _ _ _ (by decide) (by decide)]
      exact Shared.num_setNum_same _ _ _
    · obtain ⟨hcount, herr⟩ := Chan.marginEvent_low hlow hleaf
      exact ⟨Chan.counts_of_num ho (by decide) hcount, (Chan.of_own (fun c => c.b.err.getLsbD irqSupply) (fun _ => rfl) ho).trans herr⟩
    · exact ho.trans (congrArg Chan.own (if_neg (Nat.not_lt.mpr hhigh)))
  · refine ⟨_, exec_channelNeedChange c mv s, State.atWork_beside s c _, ?_, State.atWork_target _ hw hpow⟩
    exact (Chan.num_of_own (State.atWork_own s c _ hw) (by decide)).trans (Blk.num_setNum_same _ _ _)

end

section
/-! PROOF. The power states of a leaf and of a channel (R371 to R373, Tables 15.5 to 15.8): O53. -/

namespace Sys2Proof.Machine

/-! ### What the trace unit and assay leave alone -/

/-- From `a` to `b` the sampler, the heartbeat, the count of silent frames, what is handed over and the power registers stand. -/
structure Leaf.Steady (a b : Leaf) : Prop where
  smp : b.smp = a.smp
  heartbeat : b.heartbeat = a.heartbeat
  silent : b.b.link.silent = a.b.link.silent
  power : b.b.num K.powerState = a.b.num K.powerState
  now : b.b.num K.powerStateNow = a.b.num K.powerStateNow
  hands : b.Hands a

theorem Leaf.Steady.refl (a : Leaf) : a.Steady a := ⟨rfl, rfl, rfl, rfl, rfl, rfl, rfl, rfl⟩

theorem Leaf.Steady.trans {a b c : Leaf} (h : a.Steady b) (g : b.Steady c) : a.Steady c :=
  ⟨g.smp.trans h.smp, g.heartbeat.trans h.heartbeat, g.silent.trans h.silent, g.power.trans h.power, g.now.trans h.now,
    g.hands.1.trans h.hands.1, g.hands.2.1.trans h.hands.2.1, g.hands.2.2.trans h.hands.2.2⟩

/-- A register of the leaf that is neither power_state nor power_state_now. -/
def notPower (k : Nat) : Bool := !(k == K.powerState || k == K.powerStateNow)

theorem notPower_ne {k : Nat} (h : notPower k = true) : K.powerState ≠ k ∧ K.powerStateNow ≠ k := by
  simp only [notPower, Bool.not_eq_true', Bool.or_eq_false_iff, beq_eq_false_iff_ne] at h
  exact ⟨h.1.symm, h.2.symm⟩

theorem Leaf.steady_setNum (l : Leaf) {k : Nat} (n : Nat) (h : notPower k = true) : l.Steady { l with b := l.b.setNum k n } :=
  ⟨rfl, rfl, rfl, Blk.num_setNum_ne _ _ (notPower_ne h).1, Blk.num_setNum_ne _ _ (notPower_ne h).2, rfl, rfl, rfl⟩

theorem Leaf.steady_bump (l : Leaf) {k : Nat} (n : Nat) (h : notPower k = true) : l.Steady { l with b := l.b.bump k n } :=
  Leaf.steady_setNum l _ h

theorem Leaf.steady_tr (l : Leaf) (tr : Trace) : l.Steady { l with tr := tr } := ⟨rfl, rfl, rfl, rfl, rfl, rfl, rfl, rfl⟩

theorem Leaf.steady_asy (l : Leaf) (asy : Assay) : l.Steady { l with asy := asy } := ⟨rfl, rfl, rfl, rfl, rfl, rfl, rfl, rfl⟩

theorem Leaf.steady_emit (l : Leaf) (o : Out) : l.Steady { l with b := l.b.emit o } := ⟨rfl, rfl, rfl, rfl, rfl, rfl, rfl, rfl⟩

section
variable (l : Leaf)

theorem Leaf.append_steady (rs : List TrRec) : l.Steady (l.append rs) := by
  unfold Leaf.append
  extract_lets len kept flags pos _ l1
  split
  · exact (Leaf.steady_tr l _).trans (Leaf.steady_bump l1 _ (by decide))
  · exact Leaf.steady_tr l _

theorem Leaf.stallFall_steady (c : Nat) : l.Steady (l.stallFall c) := by
  unfold Leaf.stallFall
  split
  · exact .refl l
  · extract_lets n
    exact ((Leaf.steady_bump l n (by decide)).trans (Leaf.steady_emit _ _)).trans (Leaf.steady_tr _ _)

theorem Leaf.judgeStall_steady : l.Steady l.judgeStall := by
  unfold Leaf.judgeStall
  extract_lets n may
  split
  · split
    · exact Leaf.stallFall_steady l _
    · exact .refl l
  · split
    · exact (Leaf.steady_emit l _).trans (Leaf.steady_tr _ _)
    · exact .refl l

theorem Leaf.traceIdle_steady : l.Steady l.traceIdle :=
  ((Leaf.steady_setNum l trIdle (by decide)).trans (Leaf.steady_tr _ _)).trans (Leaf.judgeStall_steady _)

theorem Leaf.put_steady (rs : List TrRec) (base steps : Nat) : l.Steady (l.put rs base steps) :=
  (Leaf.append_steady l rs).trans (Leaf.steady_tr _ _)

theorem Leaf.putStop_steady (k time steps dom : Nat) : l.Steady (l.putStop k time steps dom) :=
  (Leaf.put_steady l _ _ _).trans (Leaf.traceIdle_steady _)

theorem Leaf.place_steady (time steps dom : Nat) (mk : Nat → List Byte) (trigger : Bool) : l.Steady (l.place time steps dom mk trigger) := by
  unfold Leaf.place
  extract_lets p
  split
  · exact Leaf.putStop_steady l _ _ _ _
  · exact Leaf.put_steady l _ _ _

theorem Leaf.writeItem_steady (i : TrItem) : l.Steady (l.writeItem i) := by
  have h0 := Leaf.steady_tr l { l.tr with cycle := l.tr.cycle + 1 }
  unfold Leaf.writeItem
  extract_lets _ l0
  split
  · extract_lets l1
    have h1 : l.Steady l1 := h0.trans (Leaf.place_steady l0 _ _ _ _ _)
    split
    · exact (h1.trans (Leaf.steady_bump l1 1 (by decide))).trans (Leaf.steady_tr _ _)
    · exact h1
  · exact h0.trans (Leaf.place_steady l0 _ _ _ _ _)

end

theorem Leaf.writeThrough_steady (t : Nat) (is : List TrItem) (l : Leaf) : l.Steady (Leaf.writeThrough t is l) := by
  induction is generalizing l with
  | nil => exact .refl l
  | cons i is ih =>
    unfold Leaf.writeThrough
    split
    · exact (Leaf.writeItem_steady l i).trans (ih _)
    · exact ih l

section
variable (l : Leaf)

theorem Leaf.drain_steady (t : Nat) (q : List TrItem) : l.Steady (Leaf.writeThrough t q { l with tr := { l.tr with queue := [] } }) :=
  (Leaf.steady_tr l _).trans (Leaf.writeThrough_steady t q _)

theorem Leaf.traceHalt_steady (k t : Nat) : l.Steady (l.traceHalt k t) := by
  have h1 := Leaf.drain_steady l t l.tr.queue
  unfold Leaf.traceHalt
  extract_lets _ l1
  split
  · exact h1
  · exact h1.trans (Leaf.putStop_steady l1 _ _ _ _)

theorem Leaf.traceSleep_steady (k t : Nat) : l.Steady (l.traceSleep k t) := by
  have h0 := Leaf.stallFall_steady l l.tr.cycle
  unfold Leaf.traceSleep
  extract_lets l0 q _ l1 rs l3
  split
  · exact h0
  · have h1 : l.Steady l1 := h0.trans (Leaf.drain_steady l0 t q)
    split
    · exact h1
    · split
      · exact h1.trans (Leaf.putStop_steady l1 _ _ _ _)
      · have h3 : l.Steady l3 := h1.trans (Leaf.put_steady l1 _ _ _)
        clear_value l3
        split
        · exact (h3.trans (Leaf.steady_setNum l3 trFrozen (by decide))).trans
            (Leaf.steady_tr { l3 with b := l3.b.setNum K.traceState trFrozen } { l3.tr with frozenFrom := l.trState })
        · exact h3

theorem Leaf.lateStop_steady (k t : Nat) : l.Steady (l.lateStop k t) := by
  unfold Leaf.lateStop
  split
  · split
    · exact Leaf.traceHalt_steady l _ _
    · exact .refl l
  · exact .refl l

theorem Leaf.traceWake_steady (k t : Nat) : l.Steady (l.traceWake k t) := by
  unfold Leaf.traceWake
  extract_lets back _ l0 _ l1 rs
  split
  · exact .refl l
  · have h0 : l.Steady l0 := (Leaf.steady_setNum l back (by decide)).trans (Leaf.steady_tr _ _)
    have h1 : l.Steady l1 := h0.trans (Leaf.drain_steady l0 t _)
    split
    · exact h1
    · split
      · exact h1.trans (Leaf.putStop_steady l1 _ _ _ _)
      · exact (h1.trans (Leaf.put_steady l1 _ _ _)).trans (Leaf.lateStop_steady _ _ _)

/-! ### Assay (R160 to R167) -/

theorem Leaf.damage_steady (id : Nat) : l.Steady (l.damage id) := by
  simp only [Leaf.damage]
  split
  · exact .refl l
  · exact Leaf.steady_asy l _

theorem Leaf.countDamaged_steady (t : Tensor) : l.Steady { l with b := if t.damaged then l.b.bump K.passesDamaged else l.b } := by
  split
  · exact Leaf.steady_bump l 1 (by decide)
  · exact .refl l

theorem Leaf.enterPass_steady (e : TensorEntry) (f : Nat) (t : Tensor) (incomplete : Bool) : l.Steady (l.enterPass e f t incomplete) := by
  have h1 := Leaf.countDamaged_steady l t
  unfold Leaf.enterPass
  extract_lets b1
  split
  · exact (h1.trans (Leaf.steady_bump { l with b := b1 } 1 (by decide))).trans (Leaf.steady_asy _ _)
  · exact h1

theorem Leaf.ruleIn_steady (f code arg : Nat) (payload : List Byte) : l.Steady (l.ruleIn f code arg payload) :=
  ⟨rfl, rfl, rfl, rfl, rfl, rfl, rfl, rfl⟩

theorem Leaf.fault_steady (f kind locKind loc at_ detail : Nat) : l.Steady (l.fault f kind locKind loc at_ detail) :=
  ⟨rfl, rfl, rfl, rfl, rfl, rfl, rfl, rfl⟩

theorem Leaf.passDone_steady (e : TensorEntry) (f : Nat) : l.Steady (l.passDone e f) := by
  unfold Leaf.passDone
  extract_lets t fresh l1 l1'
  split
  · exact (Leaf.enterPass_steady l e f t false).trans (Leaf.steady_asy l1 _)
  · have h1 : l.Steady l1' := (Leaf.countDamaged_steady l t).trans
      (Leaf.steady_asy { l with b := if t.damaged then l.b.bump K.passesDamaged else l.b } (l.asy.setTensor e.tensor fresh))
    clear_value l1'
    split
    · exact h1
    · exact ((h1.trans (Leaf.steady_bump l1' (k := K.repeatDiffers) 1 (by decide))).trans (Leaf.ruleIn_steady _ _ _ _ _)).trans
        (Leaf.fault_steady _ _ _ _ _ _ _)

end

theorem Leaf.accumulate_steady (e : TensorEntry) (f fuel : Nat) (l : Leaf) (i : Nat) (ws : List Nat) :
    l.Steady (Leaf.accumulate e f fuel l i ws) := by
  induction fuel generalizing l i ws with
  | zero => exact .refl l
  | succ fuel ih =>
    unfold Leaf.accumulate
    split
    · exact .refl l
    · extract_lets t room now t1 l1
      have h1 : l.Steady l1 := Leaf.steady_asy l _
      split
      · exact h1
      · exact (h1.trans (Leaf.passDone_steady l1 e f)).trans (ih _ _ _)

theorem Leaf.newEpoch_steady (l : Leaf) (e : TensorEntry) (f epoch : Nat) : l.Steady (l.newEpoch e f epoch) := by
  unfold Leaf.newEpoch
  extract_lets t l1 fresh
  have h1 : l.Steady l1 := by
    show l.Steady (if 0 < t.n then _ else l)
    split
    · split
      · exact Leaf.enterPass_steady l _ _ _ _
      · split
        · exact Leaf.steady_bump l 1 (by decide)
        · exact .refl l
    · exact .refl l
  exact h1.trans (Leaf.steady_asy l1 _)

theorem Leaf.digestBeat_steady (l : Leaf) (w : WBeat) : l.Steady (l.digestBeat w) := by
  unfold Leaf.digestBeat
  split
  · exact Leaf.steady_bump l 1 (by decide)
  · split
    · exact (Leaf.steady_bump l 1 (by decide)).trans (Leaf.damage_steady _ _)
    · extract_lets t a
      split
      · split
        · exact Leaf.steady_asy l _
        · extract_lets a'
          split
          · exact (Leaf.newEpoch_steady l _ _ _).trans (Leaf.accumulate_steady _ _ _ _ _ _)
          · exact .refl l
      · split
        · exact Leaf.steady_bump l 1 (by decide)
        · split
          · exact Leaf.accumulate_steady _ _ _ _ _ _
          · exact (Leaf.newEpoch_steady l _ _ _).trans (Leaf.accumulate_steady _ _ _ _ _ _)

theorem Leaf.digestNext_steady (l : Leaf) : l.Steady l.digestNext := by
  unfold Leaf.digestNext
  split
  · exact .refl l
  · exact (Leaf.steady_asy l _).trans (Leaf.digestBeat_steady _ _)

/-! ### The power states of a leaf (Table 15.5) -/

/-- A part of a leaf that no command's surroundings touch is what the command left. -/
theorem Leaf.of_own {α : Type} (f : Leaf → α) (hf : ∀ l, f l.own = f l) {a b : Leaf} (h : a.own = b.own) : f a = f b := by
  rw [← hf a, h, hf]

theorem Leaf.status_powerState (l : Leaf) (src : Word) (view : Nat → Val) (n : Nat) :
    l.status src true view K.powerState (.num n) = l.powerStatus view n := rfl

/-- A write of power_state that passes finds the leaf in a state from which the state is entered. -/
theorem Leaf.powerStatus_of_passes {s : State} {n : Nat} (hp : s.passes .leaf K.powerState (.num n) = true) :
    ∃ view, s.leaf.powerStatus view n = stOk := by
  simp only [State.passes, Leaf.passes, Bool.and_eq_true, decide_eq_true_eq] at hp
  obtain ⟨view, hchk⟩ := chk_of_rowStatus hp.2
  exact ⟨view, hchk⟩

theorem Leaf.awake_of_passes_l1 {s : State} (hp : s.passes .leaf K.powerState (.num 1) = true) : s.leaf.b.num K.powerStateNow < 2 := by
  obtain ⟨view, h⟩ := Leaf.powerStatus_of_passes hp
  refine Decidable.byContradiction fun hnow => ?_
  simp [Leaf.powerStatus, hnow] at h

theorem Leaf.awake_of_passes_l2 {s : State} (hp : s.passes .leaf K.powerState (.num 2) = true) : s.leaf.b.num K.powerStateNow < 2 := by
  obtain ⟨view, h⟩ := Leaf.powerStatus_of_passes hp
  refine Decidable.byContradiction fun hnow => ?_
  simp [Leaf.powerStatus, hnow] at h

section
variable (l : Leaf) (t : Nat)

/-- L1 (R371). -/
theorem Leaf.enterL1_reads (h : l.b.num K.powerStateNow < 2) : (l.enterL1 t).b.num K.powerStateNow = 1 ∧ (l.enterL1 t).smp = l.smp ∧
    (l.enterL1 t).Hands l := by
  unfold Leaf.enterL1
  extract_lets l1
  split
  · exact ⟨by omega, rfl, rfl, rfl, rfl⟩
  · have hs := Leaf.traceSleep_steady l1 1 t
    exact ⟨hs.now.trans (Blk.num_setNum_same _ _ _), hs.smp, hs.hands⟩

/-- L2 (R372): the sampler keeps nothing. -/
theorem Leaf.enterL2_reads (h : l.b.num K.powerStateNow < 2) : (l.enterL2 t).b.num K.powerStateNow = 2 ∧
    (l.enterL2 t).b.num K.powerState = 2 ∧ (l.enterL2 t).smp = Sampler.reset ∧ (l.enterL2 t).Hands l := by
  unfold Leaf.enterL2
  extract_lets l1
  rw [if_neg (by omega)]
  have hs : l1.Steady ((l1.asy.snoop.foldl (fun (x : Leaf) _ => x.digestNext) l1).traceSleep 2 t) :=
    (foldl_rel Leaf.Steady .refl .trans _ (fun x _ => Leaf.digestNext_steady x) _ l1).trans (Leaf.traceSleep_steady _ 2 t)
  exact ⟨hs.now.trans (Blk.num_setNum_same _ _ _),
    hs.power.trans ((Blk.num_setNum_ne _ _ (by decide)).trans (Blk.num_setNum_same _ _ _)), hs.smp, hs.hands⟩

/-- L0 (R371, R372): after L2 a heartbeat, and the count of silent frames at 0. -/
theorem Leaf.enterL0_reads : (l.enterL0 t).b.num K.powerStateNow = 0 ∧ (l.enterL0 t).Hands l ∧
    (2 ≤ l.b.num K.powerStateNow → (l.enterL0 t).heartbeat = true ∧ (l.enterL0 t).b.link.silent = 0) := by
  unfold Leaf.enterL0
  extract_lets p b1 _ b2
  split
  · next h => exact ⟨h, ⟨rfl, rfl, rfl⟩, fun h2 => absurd h (by show ¬ l.b.num K.powerStateNow = 0; omega)⟩
  · have hnow : b1.num K.powerStateNow = 0 := Blk.num_setNum_same _ _ _
    split
    · next h =>
      have hs := Leaf.traceWake_steady { l with b := b1 } 1 t
      exact ⟨hs.now.trans hnow, hs.hands, fun h2 => absurd h (by show ¬ l.b.num K.powerStateNow = 1; omega)⟩
    · have hs := Leaf.traceWake_steady (({ l with b := b2, heartbeat := true } : Leaf).allLate) 2 t
      exact ⟨hs.now.trans hnow, hs.hands, fun _ => ⟨hs.heartbeat, hs.silent⟩⟩

/-- L3 (R371): the leaf keeps nothing. -/
theorem Leaf.enterL3_reads : l.enterL3.b.phase = .off ∧ l.enterL3.b.journal = [] ∧ l.enterL3.b.txns = [] ∧ l.enterL3.tr.ring = [] ∧
    l.enterL3.handed = true := ⟨rfl, rfl, rfl, rfl, rfl⟩

end

theorem exec_enterL1 (t96 : BitVec 96) (s : State) :
    exec (.enterL1 t96) s = .next (s.leafOwn K.powerState (.num 1) (fun l _ => l.enterL1 (t96ns t96.toNat))) := rfl

theorem exec_enterL2 (t96 : BitVec 96) (s : State) :
    exec (.enterL2 t96) s = .next (s.leafOwn K.powerState (.num 2) (fun l _ => l.enterL2 (t96ns t96.toNat))) := rfl

theorem exec_enterL0 (t96 : BitVec 96) (s : State) :
    exec (.enterL0 t96) s = .next (s.leafOwn K.powerState (.num 0) (fun l _ => l.enterL0 (t96ns t96.toNat))) := rfl

theorem exec_enterL3 (s : State) : exec .enterL3 s = .next (s.leafOwn K.powerState (.num 3) (fun l _ => l.enterL3)) := rfl

/-- The leaf while a write of one of its objects takes effect. -/
def Leaf.writing (l : Leaf) : Leaf := { l with b := { l.b with applying := true } }

section
variable {s : State} {key : Nat} {v : Val} (f : Leaf → Val → Leaf) (hp : s.passes .leaf key v = true)
include hp

/-- A part of the leaf, after a write of one of its objects that passes. -/
theorem State.leafOwn_part {α : Type} (g : Leaf → α) (h1 : ∀ l, g l.own = g l)
    (h2 : ∀ l : Leaf, g { l with b := { l.b with applying := false } } = g l) :
    g (s.leafOwn key v f).leaf = g (f s.leaf.writing v) :=
  (Leaf.of_own g h1 (State.leafOwn_own f hp)).trans (h2 _)

theorem State.leafOwn_num (k : Nat) : (s.leafOwn key v f).leaf.b.num k = (f s.leaf.writing v).b.num k :=
  Leaf.num_of_own (State.leafOwn_own f hp) k

/-- A write of one of the leaf's objects that hands nothing over leaves the channels alone. -/
theorem State.leafOwn_beside (hh : (f s.leaf.writing v).handed = true) : State.besideLeaf s (s.leafOwn key v f) :=
  State.leafRow_beside f hp hh

end

/-! ### The power states of a channel (Tables 15.6 and 15.7) -/

/-- Transactions that are discarded leave the rest of the block. -/
theorem Blk.discard_keeps (b : Blk) (keep : Txn → Bool) : (b.discard keep).store = b.store ∧ (b.discard keep).isLeaf = b.isLeaf ∧
    (b.discard keep).journal = b.journal ∧ (b.discard keep).txns = b.txns.filter keep := by
  have hfold : ∀ (l : List Txn) (x : Blk), let y := l.foldl (fun acc t => acc.finish { src := t.src, num := t.num, state := .discarded, status := stOk, apply := t.apply }) x
      y.store = x.store ∧ y.isLeaf = x.isLeaf ∧ y.journal = x.journal ∧ y.txns = x.txns := by
    intro l
    induction l with
    | nil => intro x; exact ⟨rfl, rfl, rfl, rfl⟩
    | cons t l ih => intro x; exact ih _
  exact hfold _ _

/-- What C2 keeps (Table 15.7). -/
theorem Chan.enterC2_reads {c : Chan} (h : c.b.num K.powerStateNow = 0) : c.enterC2.b.num K.powerStateNow = 2 ∧
    c.enterC2.b.frameIsOpen = false ∧ c.enterC2.b.journal = c.b.journal ∧
    c.enterC2.b.txns = c.b.txns.filter (fun x => x.state == .committed) ∧
    c.enterC2.b.num K.powerEntries = (c.b.bump K.powerEntries).num K.powerEntries := by
  obtain ⟨hstore, hleaf, hjournal, htxns⟩ := Blk.discard_keeps
    (((c.b.setNum K.powerState 2).setNum K.powerStateNow 2).bump K.powerEntries) (fun t => t.state == .committed)
  have hnum : ∀ k, c.enterC2.b.num k = (((c.b.setNum K.powerState 2).setNum K.powerStateNow 2).bump K.powerEntries).num k := by
    intro k
    rw [Chan.enterC2, if_neg (not_not_intro h)]
    show (mget (dflt (Blk.discard _ _).isLeaf) (Blk.discard _ _).store k).toNum = _
    rw [hstore, hleaf]
    rfl
  refine ⟨(hnum _).trans ((Blk.num_bump_ne _ _ (by decide)).trans (Blk.num_setNum_same _ _ _)), ?_, ?_, ?_, (hnum _).trans ?_⟩
  · rw [Chan.enterC2, if_neg (not_not_intro h)]
  · rw [Chan.enterC2, if_neg (not_not_intro h)]
    exact hjournal
  · rw [Chan.enterC2, if_neg (not_not_intro h)]
    exact htxns
  · rw [Blk.num_bump_setNum _ _ (by decide), Blk.num_bump_setNum _ _ (by decide)]

/-- What flash holds survives the loss of everything else (Table 15.7). -/
theorem Chan.blank_keeps (c : Chan) : c.blank.currentRecs = c.currentRecs ∧ c.blank.hist.log = c.hist.log := by
  refine ⟨?_, rfl⟩
  have hflash : c.blank.flash.filter (fun x => x.pend.isNone && !x.dead) = c.flash.filter (fun x => x.pend.isNone && !x.dead) := by
    show (c.flash.map _).filter _ = _
    induction c.flash with
    | nil => rfl
    | cons r rs ih =>
      rw [List.map_cons, List.filter_cons, List.filter_cons, ih]
      cases hpend : r.pend with
      | none => simp [hpend]
      | some p => split <;> simp_all
  rw [Chan.currentRecs, hflash]
  rfl

/-- What C3 keeps (Table 15.7). -/
theorem Chan.enterC3_reads {c : Chan} (h : c.b.num K.powerStateNow ≠ 3) : c.enterC3.b.journal = [] ∧ c.enterC3.b.txns = [] ∧
    c.enterC3.currentRecs = c.currentRecs ∧ c.enterC3.hist.log = c.hist.log := by
  obtain ⟨hrecs, hlog⟩ := Chan.blank_keeps c
  rw [Chan.enterC3, if_neg h]
  exact ⟨rfl, rfl, hrecs, hlog⟩

/-- CHANNEL_WAKE out of C2 (R371). -/
theorem Chan.wake_retained {c : Chan} (h : c.b.phase = .retained) : c.wake.b.phase = .run ∧ c.wake.b.num K.powerStateNow = 0 ∧
    c.wake.b.journal = c.b.journal := by
  rw [Chan.wake, if_neg (by rw [h]; decide), Chan.wakeC2, if_neg (not_not_intro h)]
  exact ⟨rfl, Blk.num_setNum_same _ _ _, rfl⟩

/-- CHANNEL_WAKE out of C3: a cold start. -/
theorem Chan.wake_off {c : Chan} (h : c.b.phase = .off) : c.wake.b.phase = .cold ∧ c.wake.b.num K.bringupState = 1 := by
  rw [Chan.wake, if_pos h]
  exact ⟨rfl, Blk.num_setNum_same _ _ _⟩

theorem exec_channelWake (c : Ch) (s : State) :
    exec (.channelWake c) s = .next (s.chanRow c K.channelWake (.num 1) (fun x _ => x.wake)) := rfl

/-- A write of power_state leaves the leaf and the other channels exactly as they are (R29). -/
theorem State.chanPower_alone {s : State} {c : Ch} {n : Nat} (f : Chan → Chan) : (s.chanPower c n f).leaf = s.leaf ∧
    ∀ d, d ≠ c → (s.chanPower c n f).chan d = s.chan d := by
  refine ⟨?_, fun d hd => ?_⟩
  · rw [State.chanPower, State.settle]
    split <;> rfl
  · rw [State.chanPower, State.settle_chan, State.chan_putChan_ne _ _ hd]

/-- What a write of power_state that passes leaves of its channel. -/
theorem State.chanPower_chan {s : State} {c : Ch} {n : Nat} (f : Chan → Chan) (hp : s.passes (.chan c) K.powerState (.num n) = true) :
    (s.chanPower c n f).chan c =
      (f (s.chan c).writing).onB (fun b => ({ b with applying := false }).emit (.act K.powerState stOk)) := by
  rw [State.chanPower, State.settle_chan, State.chan_putChan_same, Chan.row_passed (fun y _ => f y) hp]
  rfl

end Sys2Proof.Machine

open Sys2Proof Sys2Proof.Machine

/-- Settles O53: what a power state keeps, by the state that is entered. -/
theorem powerStatesChange : Obligations.PowerStatesChange := by
  unfold Obligations.PowerStatesChange
  intro s
  refine ⟨fun t96 hhanded => ⟨fun hp => ?_, fun hp => ?_, fun hp => ?_⟩, fun hp => ?_, fun c => ?_⟩
  · obtain ⟨hnow, hsmp, hhands⟩ := Leaf.enterL1_reads s.leaf.writing (t96ns t96.toNat) (Leaf.awake_of_passes_l1 hp)
    refine ⟨_, exec_enterL1 t96 s, State.leafOwn_beside _ hp (hhands.handed.trans hhanded), ?_, ?_⟩
    · exact (State.leafOwn_num _ hp _).trans hnow
    · exact (State.leafOwn_part (fun l _ => l.enterL1 (t96ns t96.toNat)) hp Leaf.smp (fun _ => rfl) (fun _ => rfl)).trans hsmp
  · obtain ⟨hnow, hstate, hsmp, hhands⟩ := Leaf.enterL2_reads s.leaf.writing (t96ns t96.toNat) (Leaf.awake_of_passes_l2 hp)
    refine ⟨_, exec_enterL2 t96 s, State.leafOwn_beside _ hp (hhands.handed.trans hhanded), ?_, ?_, ?_⟩
    · exact (State.leafOwn_num _ hp _).trans hnow
    · exact (State.leafOwn_num _ hp _).trans hstate
    · exact (State.leafOwn_part (fun l _ => l.enterL2 (t96ns t96.toNat)) hp Leaf.smp (fun _ => rfl) (fun _ => rfl)).trans hsmp
  · obtain ⟨hnow, hhands, hafter⟩ := Leaf.enterL0_reads s.leaf.writing (t96ns t96.toNat)
    refine ⟨_, exec_enterL0 t96 s, State.leafOwn_beside _ hp (hhands.handed.trans hhanded), ?_, fun h2 => ?_⟩
    · exact (State.leafOwn_num _ hp _).trans hnow
    · obtain ⟨hbeat, hsilent⟩ := hafter h2
      exact ⟨(State.leafOwn_part (fun l _ => l.enterL0 (t96ns t96.toNat)) hp Leaf.heartbeat (fun _ => rfl) (fun _ => rfl)).trans hbeat,
        (State.leafOwn_part (fun l _ => l.enterL0 (t96ns t96.toNat)) hp (fun l => l.b.link.silent) (fun _ => rfl) (fun _ => rfl)).trans
          hsilent⟩
  · obtain ⟨hphase, hjournal, htxns, hring, hhanded⟩ := Leaf.enterL3_reads s.leaf.writing
    refine ⟨_, exec_enterL3 s, State.leafOwn_beside _ hp hhanded, ?_, ?_, ?_, ?_⟩
    · exact (State.leafOwn_part (fun l _ => l.enterL3) hp (fun l => l.b.phase) (fun _ => rfl) (fun _ => rfl)).trans hphase
    · exact (State.leafOwn_part (fun l _ => l.enterL3) hp (fun l => l.b.journal) (fun _ => rfl) (fun _ => rfl)).trans hjournal
    · exact (State.leafOwn_part (fun l _ => l.enterL3) hp (fun l => l.b.txns) (fun _ => rfl) (fun _ => rfl)).trans htxns
    · exact (State.leafOwn_part (fun l _ => l.enterL3) hp (fun l => l.tr.ring) (fun _ => rfl) (fun _ => rfl)).trans hring
  · intro alone
    refine ⟨fun hp => ?_, fun hp => ?_, fun hp => ?_⟩
    · obtain ⟨view, hst⟩ := Chan.powerStatus_of_passes hp
      have hnow : (s.chan c).writing.b.num K.powerStateNow = 0 := Chan.powerStateNow_of_powerStatus_c2 hst
      obtain ⟨hl, hothers⟩ := State.chanPower_alone (s := s) (c := c) (n := 2) Chan.enterC2
      refine ⟨_, exec_enterC2 c s, ⟨hl, hothers, fun hpow hh => State.chanPower_holder _ hpow hh hp fun _ _ hx =>
        .inl (Chan.enterC2_phase (Chan.powerStateNow_of_powerStatus_c2 hx))⟩, ?_⟩
      rw [State.chanPower_chan _ hp]
      obtain ⟨h2, hframe, hjournal, htxns, hcount⟩ := Chan.enterC2_reads hnow
      exact ⟨Chan.enterC2_phase hnow, h2, hframe, hjournal, htxns, hcount.trans (Blk.counts_bump (s.chan c).b K.powerEntries 1)⟩
    · obtain ⟨view, hst⟩ := Chan.powerStatus_of_passes hp
      have hnow : (s.chan c).writing.b.num K.powerStateNow ≠ 3 := Chan.powerStateNow_of_powerStatus_c3 hst
      obtain ⟨hl, hothers⟩ := State.chanPower_alone (s := s) (c := c) (n := 3) Chan.enterC3
      refine ⟨_, exec_enterC3 c s, ⟨hl, hothers, fun hpow hh => State.chanPower_holder _ hpow hh hp fun _ _ hx =>
        .inr (Chan.enterC3_phase (Chan.powerStateNow_of_powerStatus_c3 hx))⟩, ?_⟩
      rw [State.chanPower_chan _ hp]
      obtain ⟨hjournal, htxns, hrecs, hlog⟩ := Chan.enterC3_reads hnow
      exact ⟨Chan.enterC3_phase hnow, hjournal, htxns, hrecs, hlog⟩
    · refine ⟨_, exec_channelWake c s, State.chanRow_beside _ hp, fun hphase => ?_, fun hphase => ?_⟩
      · obtain ⟨hrun, hnow, hjournal⟩ := Chan.wake_retained (c := (s.chan c).writing) hphase
        exact ⟨(State.chanRow_part _ hp (fun x => x.b.phase) (fun _ => rfl) (fun _ _ => rfl)).trans hrun,
          (State.chanRow_num _ hp (by decide)).trans hnow,
          (State.chanRow_part _ hp (fun x => x.b.journal) (fun _ => rfl) (fun _ _ => rfl)).trans hjournal⟩
      · obtain ⟨hcold, hstate⟩ := Chan.wake_off (c := (s.chan c).writing) hphase
        exact ⟨(State.chanRow_part _ hp (fun x => x.b.phase) (fun _ => rfl) (fun _ _ => rfl)).trans hcold,
          (State.chanRow_num _ hp (by decide)).trans hstate⟩

end

section
/-! PROOF. Channel resets, leaf resets and uncorrectable errors (R345, R347, R377, Tables 15.7, 15.8 and 18.5): O49. -/

namespace Sys2Proof.Machine

/-! ### What a reset leaves of the objects -/

/-- After a reset with retained memory an object of `keep` has its value, and another one its default. -/
theorem Blk.val_softReset (b : Blk) (keep : Nat → Bool) (k : Nat) :
    (b.softReset keep).val k = if keep k then b.val k else dflt b.isLeaf k := by
  obtain ⟨hstore, hleaf, -, -⟩ := Blk.discard_keeps b (fun t => t.state == .committed)
  have hget : (b.softReset keep).val k = mget (dflt b.isLeaf) (mfilter keep b.store) k := by rw [← hstore, ← hleaf]; rfl
  rw [hget]
  cases hk : keep k
  · exact (mget_mfilter_out _ _ _ hk).trans (if_neg (by decide)).symm
  · exact (mget_mfilter_in _ _ _ _ hk).trans (if_pos rfl).symm

theorem Blk.txns_softReset (b : Blk) (keep : Nat → Bool) :
    (b.softReset keep).txns = b.txns.filter (fun x => x.state == .committed) :=
  (Blk.discard_keeps b (fun t => t.state == .committed)).2.2.2

/-! ### A channel reset -/

/-- The channel has taken the fast path of a channel reset, with what Table 15.7 keeps. -/
structure Chan.Restarted (a b : Chan) : Prop where
  phase : b.b.phase = .fast
  kind : b.b.num K.lastResetKind = 2
  flash : b.flash = a.flash
  sram : b.mem.sram = a.mem.sram
  dram : b.mem.dram = a.mem.dram
  txns : b.b.txns = a.b.txns.filter (fun x => x.state == .committed)
  val : ∀ key, key ≠ K.lastResetKind → b.b.val key = if chanKeeps key then a.b.val key else dflt a.b.isLeaf key

theorem Chan.fastReset_restarted (c : Chan) : Chan.Restarted c (c.fastReset 2) where
  phase := rfl
  kind := Blk.num_setNum_same _ _ _
  flash := rfl
  sram := rfl
  dram := rfl
  txns := Blk.txns_softReset c.b chanKeeps
  val := fun key hkey => (Blk.val_setVal_ne _ _ hkey).trans (Blk.val_softReset c.b chanKeeps key)

theorem Chan.retains_of_run {c : Chan} (h : c.b.phase = .run) : c.retains = true := by rw [Chan.retains, h]

/-- The channel that an uncorrectable error leaves before its reset: the word's address is kept, and its record is owed. -/
def Chan.failing (c : Chan) (w : Nat) (record : Nat × Nat × Nat × Nat × Nat) : Chan :=
  { c.onB (fun b => b.setNum K.lastUncorrectable w) with start := { c.start with owed := c.start.owed ++ [record] } }

theorem Chan.uncorrectable_of_retains {c : Chan} (h : c.retains = true) (kind lk place : Nat) :
    c.uncorrectable kind lk place =
      (c.failing (lk * 2 ^ 48 + c.id * 2 ^ 32 + place) (kind, lk, place, c.b.now, 0)).fastReset 2 := if_pos h

theorem Chan.val_failing (c : Chan) (w : Nat) (record : Nat × Nat × Nat × Nat × Nat) {k : Nat} (h : k ≠ K.lastUncorrectable) :
    (c.failing w record).b.val k = c.b.val k := Blk.val_setVal_ne _ _ h

/-- What the fast path leaves of a channel after an uncorrectable error. -/
theorem Chan.failing_fastReset_reads (c : Chan) (w : Nat) (record : Nat × Nat × Nat × Nat × Nat) :
    let t := (c.failing w record).fastReset 2
    (t.b.phase = .fast ∧ t.b.num K.lastResetKind = 2 ∧ t.flash = c.flash ∧ t.mem.sram = c.mem.sram ∧ t.mem.dram = c.mem.dram ∧
      t.b.txns = c.b.txns.filter (fun x => x.state == .committed) ∧
      ∀ key, key ≠ K.lastResetKind → key ≠ K.lastUncorrectable →
        t.b.val key = if chanKeeps key then c.b.val key else dflt c.b.isLeaf key) ∧
    record ∈ t.start.owed ∧ t.b.num K.lastUncorrectable = w := by
  obtain ⟨hphase, hkind, hflash, hsram, hdram, htxns, hval⟩ := Chan.fastReset_restarted (c.failing w record)
  refine ⟨⟨hphase, hkind, hflash, hsram, hdram, htxns, fun key h1 h2 => ?_⟩, ?_, ?_⟩
  · rw [hval key h1, Chan.val_failing c _ _ h2]
    rfl
  · exact List.mem_append_right _ (List.mem_singleton.mpr rfl)
  · rw [Blk.num, hval _ (by decide), if_pos (by decide)]
    exact Blk.num_setNum_same _ _ _

/-- After an uncorrectable error of a running channel the word's address stands and its record is owed. -/
theorem Chan.uncorrectable_reads {c : Chan} (h : c.b.phase = .run) (kind lk place : Nat) :
    let t := c.uncorrectable kind lk place
    (t.b.phase = .fast ∧ t.b.num K.lastResetKind = 2 ∧ t.flash = c.flash ∧ t.mem.sram = c.mem.sram ∧ t.mem.dram = c.mem.dram ∧
      t.b.txns = c.b.txns.filter (fun x => x.state == .committed) ∧
      ∀ key, key ≠ K.lastResetKind → key ≠ K.lastUncorrectable →
        t.b.val key = if chanKeeps key then c.b.val key else dflt c.b.isLeaf key) ∧
    (kind, lk, place, c.b.now, 0) ∈ t.start.owed ∧
    t.b.num K.lastUncorrectable = lk * 2 ^ 48 + c.id * 2 ^ 32 + place := by
  rw [Chan.uncorrectable_of_retains (Chan.retains_of_run h)]
  exact Chan.failing_fastReset_reads c _ _

theorem State.settle_leaf (s : State) : s.settle.leaf = s.leaf := by
  unfold State.settle
  split <;> rfl

/-- A channel that is put back, with what settles after it, leaves the leaf and the other channels as they are. -/
theorem State.putChan_settle_alone (s : State) (c : Ch) (x : Chan) :
    (s.putChan c x).settle.leaf = s.leaf ∧ (∀ d, d ≠ c → (s.putChan c x).settle.chan d = s.chan d) ∧
      (s.putChan c x).settle.chan c = x :=
  ⟨State.settle_leaf _, fun d hd => (State.settle_chan _ d).trans (State.chan_putChan_ne s x hd),
    (State.settle_chan _ c).trans (State.chan_putChan_same s c x)⟩

theorem exec_sramUncorrectable (c : Ch) (array : BitVec 10) (row : BitVec 11) (s : State) :
    exec (.sramUncorrectable (.chan c) array row) s =
      .next ((s.putChan c ((s.chan c).uncorrectable 0x11 4 (array.toNat * 2048 + row.toNat))).settle) := rfl

theorem exec_dramUncorrectable (c : Ch) (seg : BitVec 15) (s : State) :
    exec (.dramUncorrectable c seg) s = .next ((s.putChan c ((s.chan c).uncorrectable 0x13 6 seg.toNat)).settle) := rfl

/-! ### A leaf reset -/

/-- The leaf has taken a leaf reset, with what Tables 15.8 and 18.5 keep; it has nothing to hand over. -/
structure Leaf.Restarted (a b : Leaf) : Prop where
  handed : b.handed = true
  phase : b.b.phase = .fast
  kind : b.b.num K.lastResetKind = 3
  txns : b.b.txns = []
  ring : b.tr.ring = a.tr.ring
  table : b.ts.table = a.ts.table
  owed : b.owed = a.owed
  val : ∀ key, key ≠ K.lastResetKind → b.b.val key = if leafKeeps key then a.b.val key else dflt a.b.isLeaf key

theorem Leaf.startReset_restarted (l : Leaf) : Leaf.Restarted l l.startReset := by
  obtain ⟨hstore, hleaf, -, htxns⟩ := Blk.discard_keeps (l.b.softReset leafKeeps) (fun _ => false)
  have hphase : ((l.b.softReset leafKeeps).discard (fun _ => false)).phase = .fast := (Blk.discard_seat _ _).2.2.2.2
  have hval : ∀ key, ((l.b.softReset leafKeeps).discard (fun _ => false)).val key = (l.b.softReset leafKeeps).val key := fun key => by
    rw [Blk.val, Blk.val, hstore, hleaf]
  exact
    { handed := rfl
      phase := hphase
      kind := Blk.num_setNum_same _ _ _
      txns := htxns.trans (List.filter_eq_nil_iff.mpr fun _ _ => Bool.false_ne_true)
      ring := rfl
      table := rfl
      owed := rfl
      val := fun key hkey => (Blk.val_setVal_ne _ _ hkey).trans ((hval key).trans (Blk.val_softReset _ _ key)) }

/-- The leaf that an uncorrectable error leaves before its reset: the address is kept, and the record is owed. -/
def Leaf.failing (l : Leaf) (w : Nat) (record : Nat × Nat × Nat) : Leaf :=
  { l with b := l.b.setNum K.lastUncorrectable w, owed := l.owed ++ [record] }

theorem Leaf.failing_reads (l : Leaf) (w : Nat) (record : Nat × Nat × Nat) :
    record ∈ (l.failing w record).owed ∧ (l.failing w record).b.num K.lastUncorrectable = w :=
  ⟨List.mem_append_right _ (List.mem_singleton.mpr rfl), Blk.num_setNum_same _ _ _⟩

theorem Leaf.resetRequest_of_live {l : Leaf} (h : l.b.live = true) : l.resetRequest = l.startReset := if_pos h

theorem Leaf.uncorrectable_of_live {l : Leaf} (h : l.b.live = true) (array row : Nat) :
    ∃ w, w = 5 * 2 ^ 48 + l.id * 2 ^ 30 + (array * 2048 + row) ∧
      l.uncorrectable array row = (l.failing w (0x11, array * 2048 + row, l.b.now)).startReset := ⟨_, rfl, if_neg (by simp [h])⟩

/-- What the tray shows after the leaf has taken a reset from `x`, which has the objects of the leaf but one. -/
theorem State.onLeaf_restarted {s : State} {f : Leaf → Leaf} {x : Leaf} (h : Leaf.Restarted x (f s.leaf)) (htr : x.tr = s.leaf.tr)
    (hts : x.ts = s.leaf.ts) (hleaf : x.b.isLeaf = s.leaf.b.isLeaf)
    (hval : ∀ key, key ≠ K.lastUncorrectable → x.b.val key = s.leaf.b.val key) :
    (s.besideLeaf (s.onLeaf f) ∧ (s.onLeaf f).leaf.b.phase = .fast ∧ (s.onLeaf f).leaf.b.num K.lastResetKind = 3 ∧
      (s.onLeaf f).leaf.b.txns = [] ∧ (s.onLeaf f).leaf.tr.ring = s.leaf.tr.ring ∧ (s.onLeaf f).leaf.ts.table = s.leaf.ts.table ∧
      ∀ key, key ≠ K.lastResetKind → key ≠ K.lastUncorrectable → (s.onLeaf f).leaf.b.val key =
        if leafKeeps key then s.leaf.b.val key else dflt s.leaf.b.isLeaf key) ∧
    (s.onLeaf f).leaf.owed = x.owed ∧ (s.onLeaf f).leaf.b.num K.lastUncorrectable = x.b.num K.lastUncorrectable := by
  have hbeside := State.onLeaf_beside s f h.handed
  rw [State.onLeaf_leaf_of_handed s f h.handed]
  refine ⟨⟨hbeside, h.phase, h.kind, h.txns, h.ring.trans (by rw [htr]), h.table.trans (by rw [hts]), fun key h1 h2 => ?_⟩, h.owed, ?_⟩
  · rw [h.val key h1, hval key h2, hleaf]
  · rw [Blk.num, h.val _ (by decide), if_pos (by decide), Blk.num]

theorem exec_leafResetRequest (s : State) : exec .leafResetRequest s = .next (s.onLeaf Leaf.resetRequest) := rfl

theorem exec_sramUncorrectable_leaf (array : BitVec 10) (row : BitVec 11) (s : State) :
    exec (.sramUncorrectable .leaf array row) s = .next (s.onLeaf (fun l => l.uncorrectable array.toNat row.toNat)) := rfl

end Sys2Proof.Machine

open Sys2Proof Sys2Proof.Machine

/-- Settles O49: the block that a reset leaves is that of the fast path, whose objects are those that the tables keep. -/
theorem resetsKeepWhatTheyMust : Obligations.ResetsKeepWhatTheyMust := by
  refine ⟨fun s c => ?_, fun s hlive => ?_⟩
  · intro alone kept
    refine ⟨fun hr => ?_, fun array row hrun => ?_, fun seg hrun => ?_⟩
    · obtain ⟨hleaf, hothers, hchan⟩ := State.putChan_settle_alone s c (s.chan c).resetNow
      obtain ⟨hphase, hkind, hflash, hsram, hdram, htxns, hval⟩ := Chan.fastReset_restarted (s.chan c)
      refine ⟨_, exec_channelResetRequest c s, ⟨hleaf, hothers⟩, ?_⟩
      simp only [kept]
      rw [State.resetChan, hchan, Chan.resetNow_of_retains hr]
      refine ⟨⟨hphase, hkind, hflash, hsram, hdram, htxns, fun key h1 _ => hval key h1⟩, fun _ => ?_⟩
      rw [Blk.num, hval _ (by decide), if_pos (by decide), Blk.num]
    · obtain ⟨hleaf, hothers, hchan⟩ :=
        State.putChan_settle_alone s c ((s.chan c).uncorrectable 0x11 4 (array.toNat * 2048 + row.toNat))
      obtain ⟨hkept, howed, hnum⟩ := Chan.uncorrectable_reads hrun 0x11 4 (array.toNat * 2048 + row.toNat)
      refine ⟨_, exec_sramUncorrectable c array row s, ⟨hleaf, hothers⟩, ?_⟩
      simp only [kept]
      rw [hchan]
      exact ⟨hkept, howed, fun _ => hnum⟩
    · obtain ⟨hleaf, hothers, hchan⟩ := State.putChan_settle_alone s c ((s.chan c).uncorrectable 0x13 6 seg.toNat)
      obtain ⟨hkept, howed, hnum⟩ := Chan.uncorrectable_reads hrun 0x13 6 seg.toNat
      refine ⟨_, exec_dramUncorrectable c seg s, ⟨hleaf, hothers⟩, ?_⟩
      simp only [kept]
      rw [hchan]
      exact ⟨hkept, howed, fun _ => hnum⟩
  · intro kept
    refine ⟨?_, fun array row => ?_⟩
    · obtain ⟨hkept, -, hnum⟩ := State.onLeaf_restarted (s := s) (f := Leaf.resetRequest) (x := s.leaf)
        (by rw [Leaf.resetRequest_of_live hlive]; exact Leaf.startReset_restarted _) rfl rfl rfl (fun _ _ => rfl)
      exact ⟨_, exec_leafResetRequest s, hkept, hnum⟩
    · obtain ⟨w, hw, hf⟩ := Leaf.uncorrectable_of_live hlive array.toNat row.toNat
      obtain ⟨hmem, haddress⟩ := Leaf.failing_reads s.leaf w (0x11, array.toNat * 2048 + row.toNat, s.leaf.b.now)
      obtain ⟨hkept, howed, hnum⟩ := State.onLeaf_restarted (s := s) (f := fun l => l.uncorrectable array.toNat row.toNat)
        (x := s.leaf.failing w (0x11, array.toNat * 2048 + row.toNat, s.leaf.b.now)) (by rw [hf]; exact Leaf.startReset_restarted _) rfl rfl rfl (fun _ h => Blk.val_setVal_ne _ _ h)
      rw [← howed] at hmem
      have hplace := (hnum.trans haddress).trans hw
      exact ⟨_, exec_sramUncorrectable_leaf array row s, hkept, hmem, hplace⟩

end

section
/-! PROOF. The phases of a cold start (R378, R379, R407, R417, Table 16.2): O51. -/

namespace Sys2Proof.Machine

/-! ### Power, and the reset of a leaf -/

theorem State.settle_powered (s : State) : s.settle.sh.powered = s.sh.powered := by
  have h : s.settle.sh.own.powered = s.sh.own.powered := by rw [(State.around_settle 0 s).sh]
  exact h

theorem Chan.startCold_reads (c : Chan) (n : Nat) : (c.startCold (fun _ => false) [] n).b.phase = .cold ∧
    (c.startCold (fun _ => false) [] n).b.num K.bringupState = n ∧
    (c.startCold (fun _ => false) [] n).currentRecs = c.currentRecs :=
  ⟨rfl, Blk.num_setNum_same _ _ _, (Chan.blank_keeps c).1⟩

/-- After the release of rst_por_n every channel is in its cold start. -/
theorem State.powerOn_reads {s : State} (h : s.sh.powered = false) : s.powerOn.leaf = s.leaf ∧ s.powerOn.sh.powered = true ∧
    ∀ d, s.powerOn.chan d = (s.chan d).startCold (fun _ => false) [] 1 := by
  rw [State.powerOn, if_neg (by rw [h]; decide)]
  refine ⟨State.settle_leaf _, State.settle_powered _, fun d => ?_⟩
  rw [State.settle_chan, State.chan]
  exact Quad.get_map _ _ d

theorem State.powerOff_chan (s : State) (d : Ch) : s.powerOff.chan d = (s.chan d).blank := Quad.get_map _ _ d

theorem Leaf.powerOn_of_down {l : Leaf} (h : l.b.phase = .asserted ∨ l.b.phase = .off) :
    l.powerOn = l.startCold (fun _ => false) [] := by
  rcases h with h | h <;> rw [Leaf.powerOn, h]

theorem Leaf.startCold_reads (l : Leaf) : let t := l.startCold (fun _ => false) []
    t.handed = true ∧ t.b.phase = .cold ∧ t.b.num K.bringupState = 2 ∧ .credit 256 ∈ t.b.out :=
  ⟨rfl, rfl, Blk.num_setNum_same (l.b.coldReset (fun _ => false)) K.bringupState 2, List.mem_append_right _ (List.mem_singleton.mpr rfl)⟩

theorem exec_powerOnReset (s : State) : exec .powerOnReset s = .next s.powerOn := rfl

theorem exec_powerOnResetAssert (s : State) : exec .powerOnResetAssert s = .next s.powerOff := rfl

theorem exec_leafPowerOn (s : State) : exec .leafPowerOn s = .next (s.onLeaf Leaf.powerOn) := rfl

theorem exec_alwaysOnResetAssert (s : State) : exec .alwaysOnResetAssert s = .next (s.onLeaf Leaf.resetAssert) := rfl

/-! ### The memory test (R379) -/

/-- A leaf whose memory is tested goes on to its time phase, or fails. -/
theorem Leaf.selftestDone_reads {l : Leaf} (hp : l.b.phase = .cold) (h2 : l.b.num K.bringupState = 2)
    (rows : List (BitVec 10 × BitVec 12)) : let t := l.selftestDone rows
    t.handed = l.handed ∧ (if (l.b.selftest rows []).2 then t.b.phase = .failed ∧ t.b.num K.bringupState = 0x0F ∧
        t.b.num K.bringupFailure = 1
      else t.b.num K.bringupState = 5 ∧ t.b.bytes K.repairList = (l.b.selftest rows []).1.bytes K.repairList) := by
  have hdue : ¬(l.b.phase ≠ .cold ∨ l.b.num K.bringupState ≠ 2) := by simp [hp, h2]
  intro t
  split
  case isTrue hfail =>
    have ht : t = { l with
        b := (({ (l.b.selftest rows []).1 with phase := .failed } : Blk).setNum K.bringupState 0x0F).setNum K.bringupFailure 1,
        owed := l.owed ++ (rowPlaces rows).map (fun p => (0x16, p, 0)) } := (if_neg hdue).trans (if_pos hfail)
    rw [ht]
    exact ⟨rfl, rfl, (Blk.num_setNum_ne _ _ (by decide)).trans (Blk.num_setNum_same _ _ _), Blk.num_setNum_same _ _ _⟩
  case isFalse hpass =>
    have ht : t = { l with
        b := (l.b.selftest rows []).1.setNum K.bringupState 5,
        owed := l.owed ++ (rowPlaces rows).map (fun p => (0x16, p, 0)) } := (if_neg hdue).trans (if_neg hpass)
    rw [ht]
    exact ⟨rfl, Blk.num_setNum_same _ _ _, congrArg Val.toBytes (Blk.val_setVal_ne _ _ (by decide))⟩

/-- A channel that fails names its cause, and raises its error interrupt. -/
theorem Chan.fail_reads (c : Chan) (cause : Nat) : (c.fail cause).b.phase = .failed ∧ (c.fail cause).b.num K.bringupState = 0x0F ∧
    (c.fail cause).b.num K.bringupFailure = cause ∧ (c.b.isLeaf = false → (c.fail cause).b.err.getLsbD irqFault = true) := by
  refine ⟨?_, ?_, ?_, fun hleaf => Blk.raiseErr_set hleaf (by decide)⟩
  · simp only [Chan.fail, Blk.raiseErr]
    split <;> rfl
  · exact (Blk.raiseErr_num _ _ _).trans ((Blk.num_setNum_ne _ _ (by decide)).trans (Blk.num_setNum_same _ _ _))
  · exact (Blk.raiseErr_num _ _ _).trans (Blk.num_setNum_same _ _ _)

/-- The channel whose memory has been tested, with the records that it owes. -/
def Chan.tested (c : Chan) (rows : List (BitVec 10 × BitVec 12)) (segs : List (BitVec 16)) : Chan :=
  { c with b := (c.b.selftest rows segs).1, start := { c.start with owed := c.start.owed ++ ((rowPlaces rows).map (fun p => (0x16, 4, p, 0, 0)) ++
      ((segs.filter (fun s => decide (s.toNat < 32768))).map (fun s => (0x16, 6, s.toNat, 0, 0)))) } }

/-- A channel whose memory is tested goes on to its restore, or fails. -/
theorem Chan.selftestDone_reads {c : Chan} (hp : c.b.phase = .cold) (h2 : c.b.num K.bringupState = 2)
    (rows : List (BitVec 10 × BitVec 12)) (segs : List (BitVec 16)) : let t := c.selftestDone rows segs
    if (c.b.selftest rows segs).2 then t.b.phase = .failed ∧ t.b.num K.bringupState = 0x0F ∧ t.b.num K.bringupFailure = 1 ∧
        (c.b.isLeaf = false → t.b.err.getLsbD irqFault = true)
      else t.b.num K.bringupState = 3 ∧ t.b.bytes K.repairList = (c.b.selftest rows segs).1.bytes K.repairList := by
  have hleaf : (c.b.selftest rows segs).1.isLeaf = c.b.isLeaf := (Blk.selftest_seat c.b rows segs).1
  have hdue : ¬(c.b.phase ≠ .cold ∨ c.b.num K.bringupState ≠ 2) := by simp [hp, h2]
  intro t
  split
  case isTrue hfail =>
    have ht : t = (c.tested rows segs).fail 1 := (if_neg hdue).trans (if_pos hfail)
    rw [ht, ← hleaf]
    exact Chan.fail_reads (c.tested rows segs) 1
  case isFalse hpass =>
    have ht : t = (c.tested rows segs).onB (fun b => b.setNum K.bringupState 3) := (if_neg hdue).trans (if_neg hpass)
    rw [ht]
    exact ⟨Blk.num_setNum_same _ _ _, congrArg Val.toBytes (Blk.val_setVal_ne _ _ (by decide))⟩

theorem exec_pllLock (c : Ch) (s : State) : exec (.pllLock c) s = .next (s.onChan c Chan.pllLock) := rfl

theorem exec_selftestDone (c : Ch) (rows : List (BitVec 10 × BitVec 12)) (segs : List (BitVec 16)) (s : State) :
    exec (.selftestDone (.chan c) rows segs) s = .next (s.onChan c (fun x => x.selftestDone rows segs)) := rfl

theorem exec_selftestDone_leaf (rows : List (BitVec 10 × BitVec 12)) (segs : List (BitVec 16)) (s : State) :
    exec (.selftestDone .leaf rows segs) s = .next (s.onLeaf (fun l => l.selftestDone rows)) := rfl

/-! ### The restore (R349, R378) -/

/-- A record that fails its check is no current record. -/
theorem Chan.currentRecs_spoil {c : Chan} {r : FlashRec} (hf : c.flash = [r]) (hpend : r.pend = none) (hdead : r.dead = false)
    (bad : List Nat) : (c.spoil bad).currentRecs = if 0 ∈ bad then [] else [r] := by
  rw [Chan.currentRecs, Chan.spoil, hf]
  by_cases h0 : 0 ∈ bad
  · simp [h0, newest]
  · simp [h0, hpend, hdead, newest]

/-- The channel's own stored objects, as a restore applies them. -/
def Chan.storedOwn (c : Chan) : List FlashRec := c.currentRecs.filter (fun r => bits r.node.toNat 28 4 == 1)

/-- The block with the channel's own stored objects, before what follows from them. -/
def Chan.storedBlk (c : Chan) : Blk := c.storedOwn.foldl (fun a r => a.setVal r.key r.v) c.b

theorem Chan.restoreObjects_eq (c : Chan) : c.restoreObjects.start = c.start ∧ ∃ id period used check, c.restoreObjects.b =
    (((c.storedBlk.setNum K.channelId id).setNum K.framePeriodActive period).setNum K.storeBytesUsed used).setNum K.aggTableCheck check := by
  unfold Chan.restoreObjects
  extract_lets own c1 b1 agg
  exact ⟨rfl, _, _, _, _, rfl⟩

/-- A restore changes the objects of the own records and those that follow from them. -/
theorem Chan.restoreObjects_reads (c : Chan) : c.restoreObjects.b.phase = c.storedBlk.phase ∧ c.restoreObjects.start = c.start ∧
    ∀ k, k ≠ K.channelId → k ≠ K.framePeriodActive → k ≠ K.storeBytesUsed → k ≠ K.aggTableCheck →
      c.restoreObjects.b.val k = c.storedBlk.val k := by
  obtain ⟨hstart, id, period, used, check, hb⟩ := Chan.restoreObjects_eq c
  rw [hb]
  generalize c.storedBlk = b
  exact ⟨rfl, hstart, fun _ h1 h2 h3 h4 => (Blk.val_setVal_ne _ _ h4).trans ((Blk.val_setVal_ne _ _ h3).trans
    ((Blk.val_setVal_ne _ _ h2).trans (Blk.val_setVal_ne _ _ h1)))⟩

/-- The channel that a restore leaves before its spares and its images are looked at. -/
def Chan.rebuilt (c : Chan) (bad : List Nat) : Chan := ({ (c.spoil bad).restoreObjects with hist := c.hist.rebuild }).countLocs

theorem Chan.rebuilt_val (c : Chan) (bad : List Nat) {k : Nat} (h1 : k ≠ K.locationsTracked) (h2 : k ≠ K.permanentCount) :
    (c.rebuilt bad).b.val k = (c.spoil bad).restoreObjects.b.val k :=
  (Blk.val_setVal_ne _ _ h2).trans (Blk.val_setVal_ne _ _ h1)

/-- Without permanent locations no place is mapped. -/
theorem Chan.permanentPlaces_rebuilt {c : Chan} (h : c.hist.log = []) (bad : List Nat) (dram : Bool) :
    (c.rebuilt bad).permanentPlaces dram = [] := by
  have hlocs : (c.rebuilt bad).hist.locs = [] := by
    show c.hist.rebuild.locs = []
    rw [Hist.rebuild, h]
    rfl
  rw [Chan.permanentPlaces, hlocs]
  rfl

/-- Without stored images the restore leaves the slots as they are. -/
theorem Chan.restoreImages_none {c : Chan} (h1 : c.b.bytes K.activeImage = []) (h2 : c.b.bytes K.rulActiveImage = []) :
    c.restoreImages = c := by
  rw [Chan.restoreImages, h1]
  simp only [List.isEmpty_nil, if_true, h2]

/-- What follows the restore of the objects: spares are mapped, images checked, and the links judged (R346, R379). -/
def Chan.lookedOver (x : Chan) : Chan :=
  let m1 := x.b.mapPlaces false (x.permanentPlaces false)
  let m2 := m1.1.mapPlaces true (x.permanentPlaces true)
  let c2 : Chan := { x with b := m2.1 }
  if m1.2 || m2.2 then c2.fail 1
  else
    let c3 := c2.restoreImages
    ({ c3 with start := { c3.start with restored := true } }).judgeLinks

theorem Chan.restore_eq (c : Chan) (bad : List Nat) : c.restore bad = (c.rebuilt bad).lookedOver := rfl

/-- Without permanent locations and stored images the restore goes on to the links. -/
theorem Chan.lookedOver_bare {x : Chan} (h : ∀ dram, x.permanentPlaces dram = []) (h1 : x.b.bytes K.activeImage = [])
    (h2 : x.b.bytes K.rulActiveImage = []) :
    x.lookedOver = ({ x with start := { x.start with restored := true } }).judgeLinks := by
  rw [Chan.lookedOver, h false, h true]
  refine (if_neg Bool.false_ne_true).trans ?_
  have himages := Chan.restoreImages_none h1 h2
  exact congrArg (fun c3 : Chan => ({ c3 with start := { c3.start with restored := true } } : Chan).judgeLinks) himages

/-- A restored channel of which no port has been judged goes on to its time phase, or waits for its links (R381). -/
theorem Chan.judgeLinks_reads {c : Chan} (hp : c.b.phase = .cold) (hr : c.start.restored = true) (hj : c.start.judged = []) :
    c.judgeLinks.b.phase = .cold ∧ c.judgeLinks.start = c.start ∧
    c.judgeLinks.b.num K.bringupState = (if c.portsOk then 5 else 4) ∧
    ∀ k, k ≠ K.bringupState → c.judgeLinks.b.num k = c.b.num k := by
  have heq : c.judgeLinks = c.onB (fun b => b.setNum K.bringupState (if c.portsOk then 5 else 4)) := by
    rw [Chan.judgeLinks, if_neg (by simp [hp, hr]), hj]
    cases c.portsOk
    · exact if_neg (by decide)
    · exact if_pos rfl
  rw [heq]
  exact ⟨hp, rfl, Blk.num_setNum_same _ _ _, fun _ hk => Blk.num_setNum_ne _ _ hk⟩

/-- A flash of one record, of 0x0000:02 of the channel itself, restores that object unless its record fails its check. -/
theorem Chan.restore_one {c : Chan} {v : Nat} (hp : c.b.phase = .cold)
    (hf : c.flash = [{ node := c.b.addr, key := K.podNumber, v := .num v, pend := none, dead := false }])
    (ha : bits c.b.addr.toNat 28 4 = 1) (hlog : c.hist.log = []) (h1 : c.b.bytes K.activeImage = [])
    (h2 : c.b.bytes K.rulActiveImage = []) (hj : c.start.judged = []) (bad : List Nat) : let t := c.restore bad
    t.b.phase = .cold ∧ t.b.num K.podNumber = (if 0 ∈ bad then c.b.num K.podNumber else v) ∧ t.start.restored = true ∧
      t.b.num K.bringupState = (if c.portsOk then 5 else 4) := by
  have hown : (c.spoil bad).storedOwn = if 0 ∈ bad then [] else
      [{ node := c.b.addr, key := K.podNumber, v := .num v, pend := none, dead := false }] := by
    rw [Chan.storedOwn, Chan.currentRecs_spoil hf rfl rfl]
    split
    · rfl
    · simp [ha]
  obtain ⟨hphase, hstart, hval⟩ := Chan.restoreObjects_reads (c.spoil bad)
  have hfold : (c.spoil bad).storedBlk = if 0 ∈ bad then c.b else c.b.setVal K.podNumber (.num v) := by
    rw [Chan.storedBlk, hown]
    split <;> rfl
  rw [hfold] at hphase hval
  have hother : ∀ k, k ≠ K.podNumber → (if 0 ∈ bad then c.b else c.b.setVal K.podNumber (.num v)).val k = c.b.val k := fun k hk => by
    split
    · rfl
    · exact Blk.val_setVal_ne _ _ hk
  have hval' : ∀ k, k ≠ K.podNumber → k ≠ K.channelId → k ≠ K.framePeriodActive → k ≠ K.storeBytesUsed → k ≠ K.aggTableCheck →
      k ≠ K.locationsTracked → k ≠ K.permanentCount → (c.rebuilt bad).b.val k = c.b.val k := fun k h0 h1 h2 h3 h4 h5 h6 =>
    (Chan.rebuilt_val c bad h5 h6).trans ((hval k h1 h2 h3 h4).trans (hother k h0))
  have hpod : (c.rebuilt bad).b.num K.podNumber = if 0 ∈ bad then c.b.num K.podNumber else v := by
    rw [Blk.num, Chan.rebuilt_val c bad (by decide) (by decide), hval _ (by decide) (by decide) (by decide) (by decide)]
    split
    · rfl
    · rw [Blk.val_setVal_same, Val.toNum]
  have hports : (c.rebuilt bad).portsOk = c.portsOk := by
    have hq : (c.rebuilt bad).b.num K.portsQualified = c.b.num K.portsQualified := congrArg Val.toNum (hval' _ (by decide) (by decide)
      (by decide) (by decide) (by decide) (by decide) (by decide))
    rw [Chan.portsOk, hq, Chan.portsOk]
  have hcold : (c.rebuilt bad).b.phase = .cold := by
    refine hphase.trans ?_
    split <;> exact hp
  have himage : ∀ k, c.b.bytes k = [] → (c.rebuilt bad).b.val k = c.b.val k → (c.rebuilt bad).b.bytes k = [] := fun k hb hv => by
    rw [Blk.bytes, hv]
    exact hb
  intro t
  have ht : t = _ := (Chan.restore_eq c bad).trans <| Chan.lookedOver_bare (Chan.permanentPlaces_rebuilt hlog bad)
    (himage _ h1 (hval' _ (by decide) (by decide) (by decide) (by decide) (by decide) (by decide) (by decide)))
    (himage _ h2 (hval' _ (by decide) (by decide) (by decide) (by decide) (by decide) (by decide) (by decide)))
  obtain ⟨hphase', hstart', hstate, hnum⟩ := Chan.judgeLinks_reads
    (c := { c.rebuilt bad with start := { (c.rebuilt bad).start with restored := true } }) hcold rfl hj
  rw [ht]
  refine ⟨hphase', (hnum _ (by decide)).trans hpod, by rw [hstart'], hstate.trans ?_⟩
  rw [← hports]
  rfl

/-! ### Tray-level objects at a restore (R440) -/

/-- From `a` to `b` the cold start stands, and the objects but those of the store in flash. -/
def Chan.SameStart (a b : Chan) : Prop :=
  b.start = a.start ∧ ∀ k, k ≠ K.storeBytesUsed → k ≠ K.storeGeneration → b.b.num k = a.b.num k

theorem Chan.SameStart.refl (c : Chan) : c.SameStart c := ⟨rfl, fun _ _ _ => rfl⟩

theorem Chan.SameStart.trans {a b c : Chan} (h1 : a.SameStart b) (h2 : b.SameStart c) : a.SameStart c :=
  ⟨h2.1.trans h1.1, fun k ha hb => (h2.2 k ha hb).trans (h1.2 k ha hb)⟩

theorem Chan.sameStart_putFlash (c : Chan) (r : FlashRec) : c.SameStart (c.putFlash r) := by
  unfold Chan.putFlash
  split
  · exact ⟨rfl, fun _ _ _ => rfl⟩
  split
  · exact ⟨rfl, fun _ h _ => Blk.num_setNum_ne _ _ h⟩
  · exact ⟨rfl, fun _ h1 h2 => (Blk.num_setNum_ne _ _ h2).trans (Blk.num_setNum_ne _ _ h1)⟩

theorem Chan.sameStart_putFlash_if (c : Chan) (r : FlashRec) (p : Prop) [Decidable p] : c.SameStart (if p then c.putFlash r else c) := by
  split
  · exact Chan.sameStart_putFlash c r
  · exact Chan.SameStart.refl c

/-- From `s` to `t` the cold starts of the channels stand. -/
def State.SameStarts (s t : State) : Prop := ∀ d : Ch, (s.chan d).SameStart (t.chan d)

theorem State.sameStarts_spreadTray (s : State) (key gen : Nat) (v : Val) : State.SameStarts s (s.spreadTray key gen v) := fun d => by
  rw [State.spreadTray, State.chan, State.chan, Quad.get_map]
  split
  · exact Chan.SameStart.refl _
  · exact Chan.sameStart_putFlash_if _ _ _

theorem State.sameStarts_reconcileOne (s : State) (c : Ch) (key : Nat) : State.SameStarts s (s.reconcileOne c key) := by
  unfold State.reconcileOne
  extract_lets copy
  split
  · exact fun _ => Chan.SameStart.refl _
  · exact fun d => State.sameStarts_spreadTray _ _ _ _ d
  · split
    · exact fun d => State.sameStarts_spreadTray _ _ _ _ d
    · exact State.sameStarts_spreadTray _ _ _ _
  · exact State.sameStarts_spreadTray _ _ _ _

theorem State.sameStarts_reconcile (s : State) (c : Ch) : State.SameStarts s (s.reconcile c) := fun d =>
  foldl_rel State.SameStarts (fun _ _ => Chan.SameStart.refl _) (fun h1 h2 e => (h1 e).trans (h2 e)) (fun acc k => acc.reconcileOne c k)
    (fun x k => State.sameStarts_reconcileOne x c k) _ s d

theorem exec_restoreDone (c : Ch) (readable : Bool) (bad : List Nat) (s : State) :
    exec (.restoreDone c ⟨readable, bad⟩) s = .next (s.restoreDone c readable bad) := rfl

/-- Flash that cannot be read fails the channel. -/
theorem State.restoreDone_unreadable {s : State} {c : Ch} (hp : (s.chan c).b.phase = .cold) (h3 : (s.chan c).b.num K.bringupState = 3)
    (bad : List Nat) : (s.restoreDone c false bad).chan c = (s.chan c).fail 3 := by
  have heq : s.restoreDone c false bad = (s.putChan c ((s.chan c).fail 3)).settle := by
    rw [State.restoreDone, if_neg (by simp [hp, h3])]
    rfl
  rw [heq, State.settle_chan, State.chan_putChan_same]

/-- A restore that does not fail stands after the tray-level objects have been compared. -/
theorem State.restoreDone_sameStart {s : State} {c : Ch} (hp : (s.chan c).b.phase = .cold) (h3 : (s.chan c).b.num K.bringupState = 3)
    {bad : List Nat} (hr : ((s.chan c).restore bad).b.phase = .cold) :
    ((s.chan c).restore bad).SameStart ((s.restoreDone c true bad).chan c) := by
  have heq : s.restoreDone c true bad = ((s.putChan c ((s.chan c).restore bad)).reconcile c).settle := by
    rw [State.restoreDone, if_neg (by simp [hp, h3])]
    show (if ((s.putChan c ((s.chan c).restore bad)).chan c).b.phase = .failed then _ else _) = _
    rw [State.chan_putChan_same, if_neg (by rw [hr]; decide)]
  rw [heq, State.settle_chan]
  have h := State.sameStarts_reconcile (s.putChan c ((s.chan c).restore bad)) c c
  rwa [State.chan_putChan_same] at h

end Sys2Proof.Machine

open Sys2Proof Sys2Proof.Machine

/-- Settles O51: phase by phase, as each command's function leaves the block. -/
theorem coldStartsAdvance : Obligations.ColdStartsAdvance := by
  intro s
  refine ⟨fun hoff => ?_, ?_, fun hdown => ?_, ?_, fun rows segs hp h2 hh => ?_, fun c hp => ⟨fun h1 => ?_, fun rows segs h2 => ?_,
    fun h3 => ⟨fun bad => ?_, fun v hf ha hlog hbal hrul hj bad => ?_⟩⟩⟩
  · obtain ⟨hleaf, hpow, hchan⟩ := State.powerOn_reads hoff
    refine ⟨_, exec_powerOnReset s, hleaf, hpow, fun d => ?_⟩
    rw [hchan d]
    exact Chan.startCold_reads _ 1
  · refine ⟨_, exec_powerOnResetAssert s, rfl, rfl, fun d => ?_⟩
    rw [State.powerOff_chan]
    exact ⟨rfl, (Chan.blank_keeps _).1, rfl⟩
  · obtain ⟨hhanded, hreads⟩ := Leaf.startCold_reads s.leaf
    rw [← Leaf.powerOn_of_down hdown] at hhanded hreads
    refine ⟨_, exec_leafPowerOn s, State.onLeaf_beside s _ hhanded, ?_⟩
    rw [State.onLeaf_leaf_of_handed s _ hhanded]
    exact hreads
  · have hhanded : s.leaf.resetAssert.handed = true := rfl
    refine ⟨_, exec_alwaysOnResetAssert s, State.onLeaf_beside s _ hhanded, ?_⟩
    rw [State.onLeaf_leaf_of_handed s _ hhanded]
    exact ⟨rfl, rfl, rfl⟩
  · obtain ⟨hhanded, hreads⟩ := Leaf.selftestDone_reads hp h2 rows
    have hdone := hhanded.trans hh
    refine ⟨_, exec_selftestDone_leaf rows segs s, State.onLeaf_beside s _ hdone, ?_⟩
    rw [State.onLeaf_leaf_of_handed s _ hdone]
    exact hreads
  · have hown := State.onChan_own s c Chan.pllLock
    refine ⟨_, exec_pllLock c s, State.onChan_beside s c _, (Chan.num_of_own hown (by decide)).trans ?_⟩
    rw [Chan.pllLock, if_pos ⟨hp, h1⟩]
    exact Blk.num_setNum_same _ _ _
  · have hown := State.onChan_own s c (fun x => x.selftestDone rows segs)
    refine ⟨_, exec_selftestDone c rows segs s, State.onChan_beside s c _, ?_⟩
    rw [Chan.of_own (fun x => x.b.phase) (fun _ => rfl) hown, Chan.of_own (fun x => x.b.err) (fun _ => rfl) hown,
      Chan.num_of_own hown (by decide), Chan.num_of_own hown (by decide), Chan.bytes_of_own hown (by decide)]
    exact Chan.selftestDone_reads hp h2 rows segs
  · obtain ⟨hphase, -, hcause, -⟩ := Chan.fail_reads (s.chan c) 3
    refine ⟨_, exec_restoreDone c false bad s, ?_⟩
    have hchan := State.restoreDone_unreadable hp h3 bad
    rw [← hchan] at hphase hcause
    exact ⟨hphase, hcause⟩
  · obtain ⟨hcold, hpod, hrestored, hstate⟩ := Chan.restore_one hp hf ha hlog hbal hrul hj bad
    obtain ⟨hstart, hnum⟩ := State.restoreDone_sameStart hp h3 hcold
    refine ⟨_, exec_restoreDone c true bad s, (hnum _ (by decide) (by decide)).trans hpod, ?_,
      (hnum _ (by decide) (by decide)).trans hstate⟩
    rw [hstart]
    exact hrestored

end

section
/-! PROOF. Leaves join (R386, R387, R389, R392): O55. -/

namespace Sys2Proof.Machine

/-! ### Refusals (R386) -/

/-- What a refusal of a join leaves: it is counted and recorded, and the joiner is ignored for a time. -/
theorem Chan.refuseJoin_reads (c : Chan) (a : Word) (pos status w : Nat) (hw : w = status * 2 ^ 56 + a.toNat) :
    (c.refuseJoin a pos status).b.num K.joinRefusals = (c.b.bump K.joinRefusals).num K.joinRefusals ∧
    (c.refuseJoin a pos status).joins = c.joins.filter (fun j => j.dst != a) ∧
    (c.refuseJoin a pos status).b.num K.lastJoinRefusal = w ∧
    (a, pos, c.b.now + c.b.num K.joinRetryFrames) ∈ (c.refuseJoin a pos status).tree.refused := by
  have hb : (c.refuseJoin a pos status).b = ((c.b.bump K.joinRefusals).setNum K.lastJoinRefusal w).raiseErr irqFault := by rw [hw]; rfl
  rw [hb]
  refine ⟨?_, rfl, ?_, List.mem_append_right _ (List.mem_singleton.mpr rfl)⟩
  · rw [Blk.raiseErr_num, Blk.num_setNum_ne _ _ (by decide)]
  · rw [Blk.raiseErr_num, Blk.num_setNum_same]

theorem Chan.refuseJoin_eq_of_no_joins {c : Chan} (h : c.joins = []) (a : Word) :
    ({ c with joins := c.joins.filter (fun j => j.dst != a) } : Chan) = c := by rw [h]; rw [List.filter_nil, ← h]

section
variable {c : Chan} {a : Word} {pos frame : Nat} (hi : c.ignores a = false) (hj : c.joins = []) (hpos : pos ≠ 31)
include hi hj

/-- The start of the only join, of a joiner that is not ignored. -/
theorem Chan.startJoin_only (standby : Nat) : c.startJoin a pos frame standby true =
    if pos ≠ 31 ∧ 23 < pos then c.refuseJoin a pos stRange
    else if frame + 1 < c.b.now ∨ c.b.now + 1 < frame then c.refuseJoin a pos stWrong
    else ({ c with joins := [{ dst := a, pos := pos, frame := c.b.now, txns := [], apply := 0, done := false, standby := standby }] }).remote a
      (.joinCheck a pos) [rPlain opRead ((joinReads (pos == 31)).map (fun k => keyItem k 0 []))] := by
  have hnone : ¬(c.ignores a = true ∨ c.joins.any (fun j => j.dst == a && decide (c.b.now ≤ j.frame + 64)) = true) := by
    rw [hi, hj]
    simp
  unfold Chan.startJoin
  rw [if_neg hnone]
  simp only [Chan.refuseJoin_eq_of_no_joins hj, Bool.not_true, Bool.false_eq_true, if_false]
  rw [hj]
  rfl

/-- A home position without a leaf whose attach is in time begins a join, which reads the leaf's objects. -/
theorem Chan.startJoin_begins (standby : Nat) (h24 : pos < 24) (hnear : c.b.now ≤ frame + 1 ∧ frame ≤ c.b.now + 1) :
    (∃ m, .msg m ∈ (c.startJoin a pos frame standby true).b.out ∧ m.dst = a ∧ m.opcode = opRead) ∧
    ∃ j ∈ (c.startJoin a pos frame standby true).joins, j.dst = a ∧ j.pos = pos ∧ j.frame = c.b.now ∧ j.done = false := by
  obtain ⟨hlow, hhigh⟩ := hnear
  rw [Chan.startJoin_only hi hj standby, if_neg (by omega), if_neg (by omega)]
  generalize hx : ({ c with joins := [{ dst := a, pos := pos, frame := c.b.now, txns := [], apply := 0, done := false, standby := standby }] } : Chan) = x
  have hjoins : x.joins = [{ dst := a, pos := pos, frame := c.b.now, txns := [], apply := 0, done := false, standby := standby }] := by
    rw [← hx]
  obtain ⟨⟨m, hm, hdst, hop, -, -⟩, -⟩ := Chan.remote_sends x a (.joinCheck a pos)
    (rPlain opRead ((joinReads (pos == 31)).map (fun k => keyItem k 0 []))) []
  refine ⟨⟨m, hm, hdst, hop⟩,
    ⟨{ dst := a, pos := pos, frame := c.b.now, txns := [], apply := 0, done := false, standby := standby }, ?_, rfl, rfl, rfl, rfl⟩⟩
  rw [(Chan.remote_asks x a _ _).rest]
  show _ ∈ x.joins
  rw [hjoins]
  exact List.mem_singleton.mpr rfl

include hpos

/-- A position beyond the home ones, or an attach out of time, is refused. -/
theorem Chan.startJoin_refuses (standby : Nat) (h : 24 ≤ pos ∨ ¬(c.b.now ≤ frame + 1 ∧ frame ≤ c.b.now + 1)) :
    c.startJoin a pos frame standby true = c.refuseJoin a pos (if 24 ≤ pos then stRange else stWrong) := by
  rw [Chan.startJoin_only hi hj standby]
  by_cases h24 : 24 ≤ pos
  · rw [if_pos ⟨hpos, by omega⟩, if_pos h24]
  · have hoff : frame + 1 < c.b.now ∨ c.b.now + 1 < frame := by omega
    rw [if_neg (by omega), if_pos hoff, if_neg h24]

end

/-- An attach at a home position of a leaf that is not known goes to the start of a join. -/
theorem Chan.attach_unknown {c : Chan} {pos : Nat} (hm : c.member = true) (hr : c.roleAsk = none) (hpos : pos ≠ 31)
    (hx : c.tree.child (c.leafAddr pos) = none) (src : Word) (port : Bool) (frame left : Nat) :
    c.attach src port pos frame left = c.startJoin (c.leafAddr pos) pos frame noChan true := by
  unfold Chan.attach
  rw [hm, hr, if_neg (by decide), if_pos hpos, Chan.attachHome, hx]

theorem exec_attachReceive (c : Ch) (src : Word) (port : Bool) (pos : BitVec 5) (frame : Word64) (left : BitVec 16) (s : State) :
    exec (.attachReceive c ⟨src, port⟩ pos frame left) s =
      .next (s.atWork c (fun x => x.attach src port pos.toNat frame.toNat left.toNat)) := rfl

theorem exec_joinRetryExpire (c : Ch) (pos : BitVec 5) (s : State) :
    exec (.joinRetryExpire c pos) s = .next (s.atWork c (fun x => x.joinRetry pos.toNat)) := rfl

/-! ### Roles, identifiers and repairs (R387, R389, R392) -/

theorem Chan.successorSilent_of_late {c : Chan} {f : Nat} (h : c.roleAsk = some f) (hf : f + 16 ≤ c.b.now) :
    c.successorSilent = { c with roleAsk := none } := by
  rw [Chan.successorSilent, h]
  exact if_pos hf

theorem exec_roleSuccessorTimeout (c : Ch) (s : State) :
    exec (.roleSuccessorTimeout c) s = .next (s.atWork c Chan.successorSilent) := rfl

/-- The fault records that a leaf owes leave its block as it is. -/
theorem Leaf.payOwed_b (l : Leaf) : l.payOwed.b = l.b := by
  unfold Leaf.payOwed
  extract_lets l1
  show l1.b = l.b
  refine foldl_keeps (fun x : Leaf => x.b) _ ?_ l.owed l
  exact fun _ _ => rfl

theorem Leaf.payOwed_hands (l : Leaf) : l.payOwed.Hands l := by
  unfold Leaf.payOwed
  extract_lets l1
  exact (foldl_rel Leaf.Steady .refl .trans _ (fun x _ => Leaf.fault_steady x _ _ _ _ _ _) l.owed l).hands

/-- JOIN_ASSIGN (R389). -/
theorem Leaf.joinAssign_reads (l : Leaf) (v : Nat) : let t := l.joinAssign v
    t.Hands l ∧ t.b.num K.leafId = v ∧ t.b.num K.parentActive = v / 32 ∧ t.b.inUse = v / 32 ∧ t.b.num K.bringupState = 8 ∧
      t.b.link.attached = false := by
  intro t
  have hb : t.b = { (((l.b.setNum K.leafId v).setNum K.parentActive (v / 32)).setNum K.parentInUse (v / 32)).setNum K.bringupState 8 with
      link := { l.b.link with attached := false, leaving := 0xFFFFFFFF, credits := 0, silent := 0 } } := Leaf.payOwed_b _
  have hnum : ∀ k, t.b.num k =
      ((((l.b.setNum K.leafId v).setNum K.parentActive (v / 32)).setNum K.parentInUse (v / 32)).setNum K.bringupState 8).num k :=
    fun k => by rw [hb]; rfl
  refine ⟨Leaf.payOwed_hands _, ?_, ?_, ?_, (hnum _).trans (Blk.num_setNum_same _ _ _), by rw [hb]⟩
  · rw [hnum, Blk.num_setNum_ne _ _ (by decide), Blk.num_setNum_ne _ _ (by decide), Blk.num_setNum_ne _ _ (by decide),
      Blk.num_setNum_same]
  · rw [hnum, Blk.num_setNum_ne _ _ (by decide), Blk.num_setNum_ne _ _ (by decide), Blk.num_setNum_same]
  · exact (hnum _).trans ((Blk.num_setNum_ne _ _ (by decide)).trans (Blk.num_setNum_same _ _ _))

theorem exec_joinAssign (v : Word) (s : State) : exec (.joinAssign v) s =
    .next (s.leafRow (chanAddr (v.toNat / 32)) K.joinAssign (.num v.toNat) (fun l x => l.joinAssign x.toNum)) := rfl

/-- A row that no repair names takes the lowest free spare of its array. -/
theorem Blk.mapPlaces_row {b : Blk} {place spare : Nat} {spares : List Nat}
    (hnew : ∀ e ∈ b.repairs, ¬(bits e 30 2 = 0 ∧ bits e 0 21 = place)) (hfree : b.freeSpares false (place / 2048) = spare :: spares) :
    (b.mapPlaces false [place]).1 = (b.setBytes K.repairList (b.bytes K.repairList ++ natLe 4 (spare * 2 ^ 24 + place))).setNum
      K.sparesUsed (b.repairs.length + 1) := by
  have hmap : b.mapPlace false place = some ((b.setBytes K.repairList (b.bytes K.repairList ++ natLe 4 (spare * 2 ^ 24 + place))).setNum
      K.sparesUsed (b.repairs.length + 1)) := by
    have hany : ¬ b.repairs.any (fun e => bits e 30 2 == 0 / 2 ^ 30 && bits e 0 21 == place) = true := by
      intro h
      obtain ⟨e, he, hboth⟩ := List.any_eq_true.mp h
      simp only [Nat.zero_div, Bool.and_eq_true, beq_iff_eq] at hboth
      exact hnew e he hboth
    simp only [Blk.mapPlace, Bool.false_eq_true, if_false, hfree, Nat.zero_add]
    exact if_neg hany
  simp only [Blk.mapPlaces, List.foldl_cons, List.foldl_nil, hmap]

theorem exec_repairAdd (v : List Byte) (s : State) :
    exec (.repairAdd v) s = .next (s.leafOwn K.repairAdd (.bytes v) (fun l x => l.repairAdd x.toBytes)) := rfl

end Sys2Proof.Machine

open Sys2Proof Sys2Proof.Machine

/-- Settles O55: an attach of an unknown leaf comes to the start of a join, whose checks say which case it is. -/
theorem leavesJoin : Obligations.LeavesJoin := by
  intro s
  refine ⟨fun c src port pos frame left hw hm hr hpos hx hj hi => ?_, fun c pos hw => ?_, fun c f hw hr hf => ?_,
    fun v hh hp => ?_, fun v place spare spares hh hp hplace hnew hfree => ?_⟩
  · intro a near
    have hat := Chan.attach_unknown hm hr hpos hx src port frame.toNat left.toNat
    have hown := State.atWork_own s c (fun x => x.attach src port pos.toNat frame.toNat left.toNat) hw
    have hout := State.atWork_out (fun x => x.attach src port pos.toNat frame.toNat left.toNat) hw
    simp only [hat] at hown hout
    refine ⟨fun h24 hnear => ?_, fun hoff => ?_⟩
    · obtain ⟨⟨m, hm, hdst, hop⟩, j, hj, hreads⟩ := Chan.startJoin_begins (frame := frame.toNat) hi hj noChan h24 hnear
      refine ⟨_, exec_attachReceive c src port pos frame left s, State.atWork_beside s c _, ⟨m, hout.subset hm, hdst, hop⟩, j, ?_, hreads⟩
      rw [Chan.of_own (fun x => x.joins) (fun _ => rfl) hown]
      exact hj
    · obtain ⟨w, hw⟩ : ∃ w, w = (if 24 ≤ pos.toNat then stRange else stWrong) * 2 ^ 56 + a.toNat := ⟨_, rfl⟩
      rw [Chan.startJoin_refuses hi hj hpos noChan hoff] at hown
      obtain ⟨hcount, hjoins, hlast, hrefused⟩ := Chan.refuseJoin_reads (s.chan c) a pos.toNat _ w hw
      refine ⟨_, exec_attachReceive c src port pos frame left s, State.atWork_beside s c _,
        Chan.counts_of_num hown (by decide) hcount, ?_, ?_, ?_⟩
      · rw [Chan.of_own (fun x => x.joins) (fun _ => rfl) hown, hjoins, hj]
        rfl
      · rw [← hw]
        exact (Chan.num_of_own hown (by decide)).trans hlast
      · rw [Chan.of_own (fun x => x.tree) (fun _ => rfl) hown]
        exact hrefused
  · have hown := State.atWork_own s c (fun x => x.joinRetry pos.toNat) hw
    exact ⟨_, exec_joinRetryExpire c pos s, State.atWork_beside s c _, Chan.of_own (fun x => x.tree) (fun _ => rfl) hown⟩
  · have hown := State.atWork_own s c Chan.successorSilent hw
    rw [Chan.successorSilent_of_late hr hf] at hown
    exact ⟨_, exec_roleSuccessorTimeout c s, State.atWork_beside s c _, Chan.of_own (fun x => x.roleAsk) (fun _ => rfl) hown,
      Chan.num_of_own hown (by decide)⟩
  · obtain ⟨hhands, hid, hparent, huse, hstate, hattached⟩ := Leaf.joinAssign_reads s.leaf.writing v.toNat
    have hown := State.leafRow_own (fun l x => l.joinAssign x.toNum) hp
    refine ⟨_, exec_joinAssign v s, State.leafRow_beside _ hp ?_, (Leaf.num_of_own hown _).trans hid, (Leaf.num_of_own hown _).trans hparent,
      (Leaf.num_of_own hown _).trans huse, (Leaf.num_of_own hown _).trans hstate,
      (Leaf.of_own (fun l => l.b.link.attached) (fun _ => rfl) hown).trans hattached⟩
    exact (Leaf.Hands.handed hhands).trans hh
  · have hmap := Blk.mapPlaces_row (b := s.leaf.writing.b) hnew hfree
    rw [← hplace] at hmap
    have hbytes := State.leafOwn_part (fun l x => l.repairAdd x.toBytes) hp (fun l => l.b.bytes K.repairList) (fun _ => rfl) (fun _ => rfl)
    refine ⟨_, exec_repairAdd v s, State.leafOwn_beside _ hp hh, hbytes.trans ?_, (State.leafOwn_num _ hp _).trans ?_⟩
    · show (s.leaf.writing.b.mapPlaces false ((pieces 4 v).map (fun e => bits (leNat e) 0 21))).1.bytes K.repairList = _
      rw [hmap]
      exact congrArg Val.toBytes ((Blk.val_setVal_ne _ _ (by decide)).trans (Blk.val_setVal_same _ _ _))
    · show (s.leaf.writing.b.mapPlaces false ((pieces 4 v).map (fun e => bits (leNat e) 0 21))).1.num K.sparesUsed = _
      rw [hmap]
      exact Blk.num_setNum_same _ _ _

end

section
/-! PROOF. Rule actions are committed, notifications sent, and losses submitted (R271, R275 to R278, R285): O38. -/

namespace Sys2Proof.Machine

/-! ### A write that is refused -/

theorem rowAct_refused {σ : Type} (E : Env σ) {s : σ} {src : Word} {key st : Nat} {v x : Val} (act : σ → Val → σ)
    (htakes : (E.blk s).takes key = true)
    (hst : rowStatus E (E.upd s (fun b => { b with applying := true })) src key v = (st, x)) (hno : st ≠ stOk) :
    rowAct E s src key v act = E.upd (E.miss (E.upd s (fun b => { b with applying := true })) key st)
      (fun b => ({ b with applying := false }).emit (.act key st)) := by
  simp only [rowAct, htakes, Bool.not_true, Bool.false_eq_true, if_false, hst, if_neg hno]

/-! ### Actions on leaves (R271) -/

/-- The channel has taken its admitted actions out, to commit them. -/
def Chan.actionsTaken (c : Chan) : Chan := c.onRul (fun x => { x with admitted := [] })

/-- One admitted action on a leaf becomes one transaction on it. -/
theorem CS.ruleCommit_one {s : CS} {a : Adm} {d : Word} (h : s.ch.rul.admitted = [a]) (hd : a.dst = some d) (hk : a.kind ≠ 6) :
    s.ruleCommit = s.on (fun c => c.actionsTaken.remoteTxn d (.ruleTxn a.swapAt [(a.rule, a.subject)]) (mergeItems a.items) a.apply) := by
  have hown : [a].filter (fun x => x.kind != 6) = [a] := by simp [hk]
  have hfleet : [a].filter (fun x => x.kind == 6) = [] := by simp [hk]
  have hgroup : [a].filter (fun x => x.dst == some d && x.apply == a.apply) = [a] := by simp [hd]
  have hitems : [a].flatMap (·.items) = a.items := by simp
  unfold CS.ruleCommit
  simp only [h, hown, hfleet]
  show (s.on Chan.actionsTaken).ruleTxn a.dst a.apply ([a].filter (fun x => x.dst == a.dst && x.apply == a.apply)) = _
  rw [hd, hgroup, CS.ruleTxn, hitems]
  rfl

theorem exec_ruleTxnCommit (c : Ch) (s : State) : exec (.ruleTxnCommit c) s = .next (s.csWork c CS.ruleCommit) := rfl

/-- RULE_TXN_COMMIT of a single action on a leaf acts on the channel alone. -/
theorem State.csWork_ruleCommit {s : State} {c : Ch} {a : Adm} {d : Word} (hw : (s.chan c).b.works = true)
    (h : (s.chan c).rul.admitted = [a]) (hd : a.dst = some d) (hk : a.kind ≠ 6) : s.csWork c CS.ruleCommit =
      s.atWork c (fun x => x.actionsTaken.remoteTxn d (.ruleTxn a.swapAt [(a.rule, a.subject)]) (mergeItems a.items) a.apply) := by
  have hone := CS.ruleCommit_one (s := { ch := s.chan c, sh := s.sh }) h hd hk
  rw [State.csWork, State.atWork, if_pos hw, if_pos hw, State.onChan, State.onCS, State.onCS]
  simp only [hone]

/-! ### Notifications (R278, R285) -/

section
variable {c : Chan} {sub : Nat}

/-- Without a service for notifications one is counted as unrouted. -/
theorem Chan.notifyTo_unrouted (hnone : ∀ k, k < 16 → (c.b.queue (16 * sub + k)).source ≠ 3) (payload : List Byte) :
    c.notifyTo sub payload = c.onB (·.bump K.notifyUnrouted) := by
  have hfind : ((List.range 16).map (fun k => 16 * sub + k)).find? (fun q => (c.b.queue q).source == 3) = none := by
    rw [List.find?_eq_none]
    intro q hq
    obtain ⟨k, hk, rfl⟩ := List.mem_map.mp hq
    simpa using hnone k (List.mem_range.mp hk)
  unfold Chan.notifyTo
  extract_lets q
  have hq : q = none := by
    show (if sub ≤ 4095 then _ else none) = none
    rw [hfind, ite_self]
  rw [hq]

/-- A notification goes to the lowest service for notifications of its subscriber. -/
theorem Chan.notifyTo_routed {k : Nat} (hsub : sub ≤ 4095) (hk : k < 16) (h3 : (c.b.queue (16 * sub + k)).source = 3)
    (hlow : ∀ j, j < k → (c.b.queue (16 * sub + j)).source ≠ 3) (payload : List Byte) :
    c.notifyTo sub payload = c.handOff (16 * sub + k) c.b.now 3 green [payload] := by
  have hfind : ((List.range 16).map (fun k => 16 * sub + k)).find? (fun q => (c.b.queue q).source == 3) = some (16 * sub + k) := by
    rw [List.find?_map, List.find?_range_eq_some.mpr ⟨by simpa using h3, List.mem_range.mpr hk, fun j hj => by simpa using hlow j hj⟩]
    rfl
  unfold Chan.notifyTo
  extract_lets q
  have hq : q = some (16 * sub + k) := (if_pos hsub).trans hfind
  rw [hq]

end

/-- Outside a boundary a hand-off of one payload offers one packet. -/
theorem Chan.handOff_one {c : Chan} (hb : c.egr.boundary = false) (q frame content colour : Nat) (p : List Byte) :
    c.handOff q frame content colour [p] =
      c.offer q { frame := frame, content := content, colour := colour, part := 0, last := true, payload := p } := by
  unfold Chan.handOff
  extract_lets h
  rw [hb, if_neg Bool.false_ne_true]
  rfl

/-- A queue without a policer leaves a packet its colour. -/
theorem EQueue.mark_open {q : EQueue} (h : q.mode = 0) (pre n : Nat) : q.mark pre n = (pre, q) := by
  cases q
  cases h
  rfl

/-- A green packet offered to an enabled queue without a policer, which has room for it, is the last of the queue (R286, R287). -/
theorem Chan.offer_appends {c : Chan} {q : Nat} {o : Offer} (hw : 0 < (c.b.queue q).weight) (hs : 0 < (c.b.sub (q / 16)).weight)
    (hm : (c.egr.queue q).mode = 0) (hg : o.colour = green) (hl : (c.egr.queue q).depth + (48 + o.payload.length) ≤ (c.b.queue q).limit)
    (hp : c.egr.held + (48 + o.payload.length) ≤ poolBytes) :
    ∃ h : List Byte, h.length = 32 ∧
      ((c.offer q o).egr.queue q).pkts = (c.egr.queue q).pkts ++ [(48 + o.payload.length, h ++ o.payload)] := by
  unfold Chan.offer
  extract_lets s e len x seq c1 m c2 depth d c3
  have hq1 : c1.egr.queue q = { x with seq := (x.seq + 1) % 2 ^ 32 } := Egress.queue_mapQueue_same _ _ _
  have hmark : m = (o.colour, c1.egr.queue q) := by
    have hmode : (c1.egr.queue q).mode = 0 := by rw [hq1]; exact hm
    exact EQueue.mark_open hmode o.colour (len * 1000)
  have hm1 : m.1 = green := by rw [hmark, hg]
  have hq2 : c2.egr.queue q = m.2 := Egress.queue_mapQueue_same c1.egr q (fun _ => m.2)
  have hpkts : (c2.egr.queue q).pkts = x.pkts := by rw [hq2, hmark, hq1]
  have hq3 : (c3.egr.queue q).pkts = (c2.egr.queue q).pkts ++ [(len, d)] :=
    congrArg EQueue.pkts (Egress.queue_mapQueue_same c2.egr q _)
  have hon : ¬(e.weight = 0 ∨ (c.b.sub s).weight = 0) := fun h => h.elim (Nat.ne_of_gt hw) (Nat.ne_of_gt hs)
  have hred : ¬(m.1 = red ∧ e.keepRed = false) := fun h => by rw [hm1] at h; exact absurd h.1 (by decide)
  have hyellow : ¬(green < m.1 ∧ e.yellow ≤ depth) := fun h => by rw [hm1] at h; exact Nat.lt_irrefl _ h.1
  rw [if_neg hon, if_neg hred, if_neg hyellow, if_neg (Nat.not_lt.mpr hl), if_neg (Nat.not_lt.mpr hp), Chan.judgeSub_queue, hq3, hpkts]
  exact ⟨_, length_natLe _ _, rfl⟩

/-- The subscriber that a notification goes to is the one of its action, or of the rule that it names. -/
theorem Chan.sendNotify_eq {c : Chan} {v : List Byte} {sub : Nat}
    (h : (c.rul.notes.find? (fun p => p.1 == v)).map (·.2) = some sub ∨ (c.rul.notes.find? (fun p => p.1 == v) = none ∧
      c.b.bytes K.rulActiveImage ≠ [] ∧ leAt v 15 1 < (rulHdr (c.b.bytes K.rulActiveImage)).rules ∧
      sub = (ruleAt (c.b.bytes K.rulActiveImage) (leAt v 15 1)).arg1)) :
    ∃ x : Chan, c.sendNotify v = x.notifyTo sub v ∧ x.b = c.b ∧ x.egr = c.egr := by
  unfold Chan.sendNotify
  rcases h with h | ⟨hnone, himg, hrule, hsub⟩
  · obtain ⟨p, hp, rfl⟩ := Option.map_eq_some_iff.mp h
    rw [hp]
    exact ⟨_, rfl, rfl, rfl⟩
  · rw [hnone]
    refine ⟨c, ?_, rfl, rfl⟩
    show c.notifyTo (if _ ∨ _ then _ else _) v = _
    rw [if_neg (by simp [himg]; exact hrule), hsub]

theorem exec_notify (c : Ch) (v : List Byte) (s : State) :
    exec (.notify c v) s = .next (s.chanRow c K.notify (.bytes v) (fun x y => x.sendNotify y.toBytes)) := rfl

/-! ### Losses (R275 to R277) -/

/-- What a submitted step leaves. -/
theorem Chan.submitLoss_reads (c : Chan) (v : List Byte) :
    let x : LossStep := { step := leAt v 12 4, loss := leAt v 8 4, grad := leAt v 4 4, frame := c.b.now }
    let t := c.submitLoss v
    t.b.num K.lastStep = x.step ∧ t.rul.steps = ((x.step, x.frame) :: c.rul.steps).take 1024 ∧
    t.rul.window = (x :: c.rul.window).filter (fun y => decide (x.step < y.step + c.b.num K.lossWindow)) ∧
    t.inputs = c.inputs ++ (if f32Fin x.loss && f32Fin x.grad then []
      else [{ at_ := x.frame, code := 0x33, node := 0, arg := 0, payload := [] }]) := by
  unfold Chan.submitLoss
  extract_lets x w c1 t
  have hnum : c1.b.num K.lastStep = x.step := Blk.num_setNum_same _ _ _
  by_cases hfin : (f32Fin x.loss && f32Fin x.grad) = true
  · have ht : t = c1 := if_pos hfin
    rw [ht, if_pos hfin]
    exact ⟨hnum, rfl, rfl, (List.append_nil _).symm⟩
  · have ht : t = c1.ruleIn 0x33 0 0 [] := if_neg hfin
    rw [ht, if_neg hfin]
    have hinputs : (c1.ruleIn 0x33 0 0 []).inputs =
        c1.inputs ++ [{ at_ := c1.b.now, code := 0x33, node := 0, arg := 0, payload := [] }] := rfl
    have hnow : c1.b.now = x.frame := Blk.num_setNum_ne _ _ (by decide)
    rw [hnow] at hinputs
    exact ⟨hnum, rfl, rfl, hinputs⟩

theorem Chan.status_lossSubmit (c : Chan) (view : Nat → Val) (v : List Byte) :
    c.status view K.lossSubmit (.bytes v) = c.lossStatus v := rfl

/-- A step that is not beyond the last is refused (R277). -/
theorem rowStatus_loss_refused {cs : CS} (hl : cs.ch.b.isLeaf = false) (src : Word) {v : List Byte} (h16 : v.length = 16)
    (hs : leAt v 12 4 ≤ cs.ch.b.num K.lastStep) : rowStatus chanEnv cs src K.lossSubmit (.bytes v) = (stRange, .bytes v) := by
  have hrefused (view : Nat → Val) : chanEnv.chk cs src true view K.lossSubmit (.bytes v) = stRange :=
    (Chan.status_lossSubmit cs.ch view v).trans (if_pos hs)
  have hrow : lookup false (K.lossSubmit / 256) (K.lossSubmit % 256) = .inr ((defOf false K.lossSubmit).getD (subZeroDef false 0)) := by
    decide
  have hblk : (chanEnv.blk cs).isLeaf = false := hl
  have hsize : typeSize ((defOf false K.lossSubmit).getD (subZeroDef false 0)).type = none := by decide
  have hdata : valData ((defOf false K.lossSubmit).getD (subZeroDef false 0)).type (.bytes v) = v := rfl
  have hacc : accept ((defOf false K.lossSubmit).getD (subZeroDef false 0)) false (.bytes v) = some (.bytes v) := by
    have htype : ((defOf false K.lossSubmit).getD (subZeroDef false 0)).type = 13 := by decide
    have hrange : ((defOf false K.lossSubmit).getD (subZeroDef false 0)).range = .len 16 16 1 := by decide
    rw [accept, htype, hrange, if_neg (fun h => absurd h.1 (by decide)), if_neg (fun h => absurd h.1 (by decide)), rangeAccept]
    exact if_pos (by rw [Val.toBytes, h16]; decide)
  simp only [rowStatus, hblk, hrow, hsize, hacc, hrefused, hdata]
  simp

theorem exec_lossSubmit (c : Ch) (v : List Byte) (s : State) :
    exec (.lossSubmit c v) s = .next (s.chanRow c K.lossSubmit (.bytes v) (fun x y => x.submitLoss y.toBytes)) := rfl

/-- The channel after the refusal of a step. -/
def Chan.lossRefused (c : Chan) : Chan :=
  (c.writing.onB (·.bump K.submissionsRefused)).onB (fun b => ({ b with applying := false }).emit (.act K.lossSubmit stRange))

theorem Chan.lossRefused_num (c : Chan) :
    c.lossRefused.b.num K.submissionsRefused = (c.b.bump K.submissionsRefused).num K.submissionsRefused := by
  have h : (c.writing.b.bump K.submissionsRefused).num K.submissionsRefused =
      (c.b.bump K.submissionsRefused).num K.submissionsRefused := rfl
  exact h

theorem Chan.lossRefused_rul (c : Chan) : c.lossRefused.rul = c.rul := rfl

theorem Chan.lossRefused_out (c : Chan) : .act K.lossSubmit stRange ∈ c.lossRefused.b.out :=
  List.mem_append_right _ (List.mem_singleton.mpr rfl)

theorem rowAct_loss_refused {cs : CS} (hw : cs.ch.b.works = true) (hl : cs.ch.b.isLeaf = false) (src : Word) {v : List Byte}
    (h16 : v.length = 16) (hs : leAt v 12 4 ≤ cs.ch.b.num K.lastStep) (act : CS → Val → CS) :
    rowAct chanEnv cs src K.lossSubmit (.bytes v) act = { ch := cs.ch.lossRefused, sh := cs.sh } :=
  rowAct_refused chanEnv act (Blk.takes_of_works hw _)
    (rowStatus_loss_refused (cs := chanEnv.upd cs (fun b => { b with applying := true })) hl src h16 hs) (by decide)

end Sys2Proof.Machine

open Sys2Proof Sys2Proof.Machine

/-- Settles O38: one action is one transaction, a notification is one hand-off, and a step is judged by its number. -/
theorem actionsAreCommitted : Obligations.ActionsAreCommitted := by
  refine ⟨fun s c => ⟨fun a d hw hadm hdst hkind => ?_, fun v hp => ?_⟩, fun s c v => ⟨fun hp => ?_, fun hw hl h16 hstep => ?_⟩⟩
  · have heq := State.csWork_ruleCommit hw hadm hdst hkind
    obtain ⟨⟨m, hm, hmd, hop⟩, r, hr, hreads⟩ := Chan.remoteTxn_sends (s.chan c).actionsTaken d
      (.ruleTxn a.swapAt [(a.rule, a.subject)]) (mergeItems a.items) a.apply
    have hasks := Chan.remoteTxn_asks (s.chan c).actionsTaken d (.ruleTxn a.swapAt [(a.rule, a.subject)]) (mergeItems a.items) a.apply
    refine ⟨_, exec_ruleTxnCommit c s, ?_⟩
    rw [heq]
    refine ⟨State.atWork_beside s c _, ?_, ⟨m, (State.atWork_out _ hw).subset hm, hmd, hop⟩, r, (State.atWork_rem _ hw).subset hr, hreads⟩
    rw [Chan.of_own (fun x => x.rul) (fun _ => rfl) (State.atWork_own s c _ hw), hasks.rest]
    rfl
  · intro img kept sub hsub hmax
    obtain ⟨x, hsend, hxb, hxegr⟩ := Chan.sendNotify_eq (c := (s.chan c).writing) hsub
    have hegr : ((s.chanRow c K.notify (.bytes v) (fun x y => x.sendNotify y.toBytes)).chan c).egr = (x.notifyTo sub v).egr :=
      (State.chanRow_part _ hp (fun x => x.egr) (fun _ => rfl) (fun _ _ => rfl)).trans (congrArg Chan.egr hsend)
    refine ⟨fun hnone => ?_, fun k hk h3 hlow => ?_⟩
    · rw [Chan.notifyTo_unrouted (fun k hk => by rw [hxb]; exact hnone k hk)] at hsend hegr
      refine ⟨_, exec_notify c v s, State.chanRow_beside _ hp, hegr.trans hxegr, State.chanRow_counts _ hp (by decide) ?_⟩
      show ((s.chan c).writing.sendNotify v).b.num _ = _
      rw [hsend]
      show (x.b.bump K.notifyUnrouted).num _ = _
      rw [hxb]
      rfl
    · intro q hb
      have hbx : x.egr.boundary = false := by rw [hxegr]; exact hb
      rw [Chan.notifyTo_routed hmax hk (by rw [hxb]; exact h3) (fun j hj => by rw [hxb]; exact hlow j hj), Chan.handOff_one hbx] at hegr
      refine ⟨_, exec_notify c v s, State.chanRow_beside _ hp, ?_, fun hw hs hm hl hpool => ?_⟩
      · rw [hegr, Chan.offer_seq, if_pos rfl, hxegr]
        rfl
      · have hq16 : q / 16 = sub := by show (16 * sub + k) / 16 = sub; omega
        obtain ⟨h, hlen, hpkts⟩ := Chan.offer_appends (c := x) (q := q)
          (o := { frame := x.b.now, content := 3, colour := green, part := 0, last := true, payload := v })
          (by rw [hxb]; exact hw) (by rw [hxb, hq16]; exact hs) (by rw [hxegr]; exact hm) rfl
          (by rw [hxb, hxegr, ← Nat.add_assoc]; exact hl) (by rw [hxegr, ← Nat.add_assoc]; exact hpool)
        refine ⟨h, hlen, ?_⟩
        rw [hegr, hpkts, hxegr]
        rfl
  · intro x
    obtain ⟨hlast, hsteps, hwindow, hinputs⟩ := Chan.submitLoss_reads (s.chan c).writing v
    exact ⟨_, exec_lossSubmit c v s, State.chanRow_beside _ hp, (State.chanRow_num _ hp (by decide)).trans hlast,
      (State.chanRow_part _ hp (fun x => x.rul.steps) (fun _ => rfl) (fun _ _ => rfl)).trans hsteps,
      (State.chanRow_part _ hp (fun x => x.rul.window) (fun _ => rfl) (fun _ _ => rfl)).trans hwindow,
      (State.chanRow_part _ hp (fun x => x.inputs) (fun _ => rfl) (fun _ _ => rfl)).trans hinputs⟩
  · have hrow := rowAct_loss_refused (cs := { ch := s.chan c, sh := s.sh }) hw hl (s.chan c).b.hostAddr h16 hstep
      (fun t x => t.on (fun y => y.submitLoss x.toBytes))
    have hown := State.onCS_own s c (fun cs => rowAct chanEnv cs cs.ch.b.hostAddr K.lossSubmit (.bytes v)
      (fun t x => t.on (fun y => y.submitLoss x.toBytes)))
    have hout := State.onCS_out s c (fun cs => rowAct chanEnv cs cs.ch.b.hostAddr K.lossSubmit (.bytes v)
      (fun t x => t.on (fun y => y.submitLoss x.toBytes)))
    have hsh : (rowAct chanEnv { ch := s.chan c, sh := s.sh } (s.chan c).b.hostAddr K.lossSubmit (.bytes v)
      (fun t x => t.on (fun y => y.submitLoss x.toBytes))).sh.own = s.sh.own := by rw [hrow]
    simp only [hrow] at hown hout
    exact ⟨_, exec_lossSubmit c v s, State.onCS_beside s c _ hsh,
      (Chan.of_own (fun x => x.rul) (fun _ => rfl) hown).trans (Chan.lossRefused_rul _),
      Chan.counts_of_num hown (by decide) (Chan.lossRefused_num _), hout.subset (Chan.lossRefused_out _)⟩

end

section
/-! PROOF. What follows a command in flash (R349), and the images (R247 to R251, R272, R273): O36. -/

namespace Sys2Proof.Machine

/-! ### What follows a command in flash -/

/-- From `a` to `b` what flash holds stands: the records, and the log of the firmware. -/
structure Chan.Shelved (a b : Chan) : Prop where
  flash : b.flash = a.flash
  fw : b.hist.fw = a.hist.fw
  fwSeq : b.hist.fwSeq = a.hist.fwSeq

theorem Chan.Shelved.refl (c : Chan) : c.Shelved c := ⟨rfl, rfl, rfl⟩

theorem Chan.Shelved.trans {a b c : Chan} (h : a.Shelved b) (g : b.Shelved c) : a.Shelved c :=
  ⟨g.flash.trans h.flash, g.fw.trans h.fw, g.fwSeq.trans h.fwSeq⟩

theorem Chan.shelved_deliver (c before : Chan) : c.Shelved (c.deliver before) := by
  refine foldl_rel Chan.Shelved .refl .trans _ (fun x o => ?_) _ c
  split
  · unfold Chan.deliverHost
    split <;> exact ⟨rfl, rfl, rfl⟩
  · exact ⟨rfl, rfl, rfl⟩
  · exact .refl x

theorem Chan.shelved_queueLog (c : Chan) (d : List Byte) (p : Bool) (t : Nat) : c.Shelved (c.queueLog d p t) := by
  unfold Chan.queueLog
  split <;> exact ⟨rfl, rfl, rfl⟩

theorem Chan.shelved_wantFence (c : Chan) (loc : Nat) : c.Shelved (c.wantFence loc) := by
  unfold Chan.wantFence
  extract_lets leaf core auth
  split <;> exact ⟨rfl, rfl, rfl⟩

theorem Hist.makeRoom_fw {h h0 : Hist} (hm : h.makeRoom = some h0) : h0.fw = h.fw ∧ h0.fwSeq = h.fwSeq := by
  unfold Hist.makeRoom at hm
  split at hm
  · cases hm; exact ⟨rfl, rfl⟩
  · obtain ⟨k, -, rfl⟩ := Option.map_eq_some_iff.mp hm
    exact ⟨rfl, rfl⟩

theorem Chan.shelved_takeEvent (c : Chan) (d : List Byte) (rep : Bool) : c.Shelved (c.takeEvent d rep) := by
  unfold Chan.takeEvent
  extract_lets loc f c0 found e0 third
  split
  · exact ⟨rfl, rfl, rfl⟩ |> (Chan.Shelved.trans · (Chan.shelved_queueLog (c0.onB (·.bump K.tableFull)) d false 1))
  · next h0 hroom =>
    have hfw : h0.fw = c.hist.fw ∧ h0.fwSeq = c.hist.fwSeq := by
      cases hf : found with
      | some e =>
        rw [hf] at hroom
        cases hroom
        exact ⟨rfl, rfl⟩
      | none =>
        rw [hf] at hroom
        exact Hist.makeRoom_fw hroom
    extract_lets turns logs e1 c1 c2
    have h1 : c.Shelved c1 := ⟨rfl, hfw.1, hfw.2⟩
    have h2 : c.Shelved c2 := by
      show c.Shelved (if logs then c1.queueLog d e1.perm (if turns then 2 else 1) else c1)
      split
      · exact h1.trans (Chan.shelved_queueLog c1 _ _ _)
      · exact h1
    split
    · have h3 : c2.Shelved (c2.onB (·.raiseEvt irqFault)) := ⟨rfl, rfl, rfl⟩
      exact h2.trans (h3.trans (Chan.shelved_wantFence _ loc))
    · exact h2

theorem Chan.shelved_drainFaults (c : Chan) : c.Shelved c.drainFaults := by
  have h : c.Shelved { c with faultIn := [] } := ⟨rfl, rfl, rfl⟩
  exact h.trans (foldl_rel Chan.Shelved .refl .trans _ (fun x _ => Chan.shelved_takeEvent x _ _) c.faultIn _)

theorem Chan.shelved_sendOp (c : Chan) (r : Remote) : c.Shelved (c.sendOp r) := by
  unfold Chan.sendOp
  split <;> exact ⟨rfl, rfl, rfl⟩

theorem Chan.shelved_spreadAuthority (c before : Chan) : c.Shelved (c.spreadAuthority before) :=
  foldl_rel Chan.Shelved .refl .trans _ (fun x _ => foldl_rel Chan.Shelved .refl .trans _ (fun y _ => Chan.shelved_sendOp y _) _ x) _ c

theorem State.shelved_fanOut (s : State) (c : Ch) : (s.chan c).Shelved ((s.fanOut c).chan c) := by
  simp only [State.fanOut]
  split
  · exact .refl _
  · refine .trans ?_ (foldl_rel (fun (a b : State) => (a.chan c).Shelved (b.chan c)) (fun _ => .refl _) .trans _ (fun x d => ?_) _ _)
    · show (s.chan c).Shelved ((s.putChan c _).chan c)
      rw [State.chan_putChan_same]
      exact ⟨rfl, rfl, rfl⟩
    · by_cases hd : c = d
      · rw [← hd, State.chan_putChan_same]
        exact ⟨rfl, rfl, rfl⟩
      · rw [State.chan_putChan_ne _ _ hd]
        exact .refl _

theorem State.fanOut_currents (s : State) (c : Ch) : (s.fanOut c).sh.currents = s.sh.currents := by
  simp only [State.fanOut]
  split
  · rfl
  · refine (foldl_keeps (fun x : State => x.sh.currents) _ (fun x d => ?_) _ _).trans ?_
    · rfl
    · rfl

/-- A record that is not pending for what has gone stays in flash. -/
theorem State.mem_dropStale {s : State} (node : Chan → Word) {gone : List (Word × Word)} {c : Ch} {r : FlashRec} (hr : r ∈ (s.chan c).flash)
    (h : ∀ p ∈ gone, r.pend ≠ some p) : r ∈ ((s.dropStale node gone).chan c).flash := by
  unfold State.dropStale
  split
  · exact hr
  · rw [State.chan, Quad.get_map]
    have hdrop : ∀ (l : List (Word × Word)) (x : Chan) (w : Word), (∀ p ∈ l, r.pend ≠ some p) → r ∈ x.flash →
        r ∈ (l.foldl (fun a p => a.dropPending w p.1 p.2) x).flash := by
      intro l
      induction l with
      | nil => exact fun _ _ _ hx => hx
      | cons p l ih =>
        intro x w hl hx
        refine ih _ w (fun q hq => hl q (List.mem_cons_of_mem _ hq)) (List.mem_map.mpr ⟨r, hx, if_neg ?_⟩)
        simp [hl p List.mem_cons_self]
    exact hdrop gone _ _ h hr

theorem State.promoteAll_chan_of_none {s : State} (h : s.sh.currents = []) (c : Ch) : s.promoteAll.chan c = s.chan c := by
  rw [State.promoteAll, h]
  rfl

/-- A record that a command leaves in flash, and that is not pending for a transaction or store that it has begun or ended, stands there
after it, when the command makes no copy of a tray-level object current. -/
theorem State.afterChan_flash {s : State} {c : Ch} {before : Chan} {r : FlashRec} (hcur : s.sh.currents = []) (hr : r ∈ (s.chan c).flash)
    (hpend : ∀ p ∈ (s.chan c).b.begun before.b ++ (s.chan c).b.ended before.b, r.pend ≠ some p) :
    r ∈ ((s.afterChan c before).chan c).flash := by
  have hbegun : ∀ p ∈ (s.chan c).b.begun before.b, r.pend ≠ some p := fun p hp => hpend p (List.mem_append_left _ hp)
  have hended : ∀ p ∈ (s.chan c).b.ended before.b, r.pend ≠ some p := fun p hp => hpend p (List.mem_append_right _ hp)
  simp only [State.afterChan]
  rw [State.settle_chan]
  refine State.mem_dropStale _ (State.mem_dropStale _ ?_ hended) hended
  generalize hs1 : State.dropStale (State.dropStale s _ _) _ _ = s1
  have hcur1 : s1.sh.currents = [] := by rw [← hs1, State.dropStale_sh, State.dropStale_sh, hcur]
  have hr1 : r ∈ (s1.chan c).flash := by
    rw [← hs1]
    exact State.mem_dropStale _ (State.mem_dropStale _ hr hbegun) hbegun
  rw [State.promoteAll_chan_of_none, State.tellLeaf_chan, (State.shelved_fanOut _ c).flash]
  · have hput : ∀ sh : Shared, ({ s1.putChan c (((s1.chan c).deliver before).drainFaults.spreadAuthority before) with sh := sh } : State).chan c =
        ((s1.chan c).deliver before).drainFaults.spreadAuthority before := fun sh => State.chan_putChan_same s1 c _
    have hflash : (((s1.chan c).deliver before).drainFaults.spreadAuthority before).flash = (s1.chan c).flash :=
      ((Chan.shelved_deliver _ before).trans ((Chan.shelved_drainFaults _).trans (Chan.shelved_spreadAuthority _ before))).flash
    split
    · rw [hput, hflash]
      exact hr1
    · rw [State.chan_putChan_same, hflash]
      exact hr1
  · rw [State.tellLeaf_sh, State.fanOut_currents]
    split <;> exact hcur1

theorem State.onCS_flash {s : State} {c : Ch} {f : CS → CS} {r : FlashRec} (hcur : (f { ch := s.chan c, sh := s.sh }).sh.currents = [])
    (hr : r ∈ (f { ch := s.chan c, sh := s.sh }).ch.flash)
    (hpend : ∀ p ∈ (f { ch := s.chan c, sh := s.sh }).ch.b.begun (s.chan c).b ++ (f { ch := s.chan c, sh := s.sh }).ch.b.ended (s.chan c).b,
      r.pend ≠ some p) : r ∈ ((s.onCS c f).chan c).flash := by
  generalize hy : f { ch := s.chan c, sh := s.sh } = y at hcur hr hpend
  have hon : s.onCS c f = ({ s with sh := y.sh }.putChan c y.ch).afterChan c (s.chan c) := by rw [← hy]; rfl
  rw [hon]
  refine State.afterChan_flash ?_ ?_ ?_
  · exact hcur
  · rw [State.chan_putChan_same]
    exact hr
  · rw [State.chan_putChan_same]
    exact hpend

/-! ### The checks of a loaded image (R247, R248, R273) -/

/-- The check of a loaded balance image. -/
theorem Chan.balChecked_reads {c : Chan} (h2 : c.b.num K.standbyState = 2) :
    let r := c.b.balCheck (c.b.bytes K.standbyImage) (c.b.num K.activeNodeWords)
    c.balChecked.b.num K.standbyState = (if r.1 = 0 then 3 else 4) ∧ c.balChecked.b.num K.standbyRefusal = r.1 ∧
    c.balChecked.b.num K.standbyRefusalIndex = r.2 ∧ c.balChecked.b.num K.standbyImageId = (balHdr (c.b.bytes K.standbyImage)).id ∧
    c.balChecked.b.bytes K.standbyImage = c.b.bytes K.standbyImage ∧ c.balChecked.b.bytes K.activeImage = c.b.bytes K.activeImage ∧
    c.balChecked.bal = c.bal := by
  intro r
  have heq : c.balChecked = c.onB (fun b => ((((b.setNum K.standbyState (if r.1 = 0 then 3 else 4)).setNum K.standbyRefusal r.1).setNum
      K.standbyRefusalIndex r.2).setNum K.standbyImageId (balHdr (c.b.bytes K.standbyImage)).id)) := if_neg (not_not_intro h2)
  rw [heq]
  simp only [Chan.onB, and_true]
  refine ⟨?_, ?_, ?_, Blk.num_setNum_same _ _ _, ?_, ?_⟩
  · rw [Blk.num_setNum_ne _ _ (by decide), Blk.num_setNum_ne _ _ (by decide), Blk.num_setNum_ne _ _ (by decide), Blk.num_setNum_same]
  · rw [Blk.num_setNum_ne _ _ (by decide), Blk.num_setNum_ne _ _ (by decide), Blk.num_setNum_same]
  · rw [Blk.num_setNum_ne _ _ (by decide), Blk.num_setNum_same]
  · rw [Blk.bytes_setNum_ne _ _ (by decide), Blk.bytes_setNum_ne _ _ (by decide), Blk.bytes_setNum_ne _ _ (by decide),
      Blk.bytes_setNum_ne _ _ (by decide)]
  · rw [Blk.bytes_setNum_ne _ _ (by decide), Blk.bytes_setNum_ne _ _ (by decide), Blk.bytes_setNum_ne _ _ (by decide),
      Blk.bytes_setNum_ne _ _ (by decide)]

/-- The check of a loaded rule image. -/
theorem Chan.rulChecked_reads {c : Chan} (h2 : c.b.num K.rulStandbyState = 2) :
    let r := c.b.rulCheck (c.b.bytes K.rulStandbyImage)
    c.rulChecked.b.num K.rulStandbyState = (if r.1 = 0 then 3 else 4) ∧ c.rulChecked.b.num K.rulStandbyRefusal = r.1 ∧
    c.rulChecked.b.num K.rulStandbyRefusalIndex = r.2 ∧ c.rulChecked.b.bytes K.rulActiveImage = c.b.bytes K.rulActiveImage ∧
    c.rulChecked.rul = c.rul := by
  intro r
  have heq : c.rulChecked = c.onB (fun b => ((b.setNum K.rulStandbyState (if r.1 = 0 then 3 else 4)).setNum K.rulStandbyRefusal r.1).setNum
      K.rulStandbyRefusalIndex r.2) := if_neg (not_not_intro h2)
  rw [heq]
  simp only [Chan.onB, and_true]
  refine ⟨?_, ?_, Blk.num_setNum_same _ _ _, ?_⟩
  · rw [Blk.num_setNum_ne _ _ (by decide), Blk.num_setNum_ne _ _ (by decide), Blk.num_setNum_same]
  · rw [Blk.num_setNum_ne _ _ (by decide), Blk.num_setNum_same]
  · rw [Blk.bytes_setNum_ne _ _ (by decide), Blk.bytes_setNum_ne _ _ (by decide), Blk.bytes_setNum_ne _ _ (by decide)]

theorem exec_imageCheckDone_balance (c : Ch) (s : State) :
    exec (.imageCheckDone c .balance) s = .next (s.atWork c Chan.balChecked) := rfl

theorem exec_imageCheckDone_rule (c : Ch) (s : State) : exec (.imageCheckDone c .rule) s = .next (s.atWork c Chan.rulChecked) := rfl

/-! ### The store of an image for a commit (R250, R272) -/

/-- The transaction whose last store has ended well. -/
def Txn.stored (x : Txn) : Txn := { x with state := .committed, storing := 0, storeFailed := false, images := [] }

/-- The channel has the one transaction of a commit that waits for one image alone. -/
structure CS.Storing (cs : CS) (x : Txn) (k : Nat) : Prop where
  txns : cs.ch.b.txns = [x]
  images : x.images = [k]
  storing : x.storing = 1
  failed : x.storeFailed = false
  fleet : x.fleet = false
  execs : cs.ch.b.execs = []

section
variable {cs : CS} {x : Txn} {k : Nat}

theorem CS.Storing.endImageStore_eq (h : cs.Storing x k) (ok : Bool) : endImageStore chanEnv cs k ok =
    endCopyStore chanEnv (cs.on (fun c => { c with b := { c.b with txns := [{ x with images := [] }] } })) x.src x.num ok := by
  have hfind : (chanEnv.blk cs).txns.find? (fun t => t.images.contains k) = some x := by
    show cs.ch.b.txns.find? _ = _
    rw [h.txns, List.find?_cons_of_pos]
    simp [h.images]
  have hmap : chanEnv.upd cs (fun b => b.mapTxn x.src x.num (fun y => { y with images := y.images.filter (fun j => j != k) })) =
      cs.on (fun c => { c with b := { c.b with txns := [{ x with images := [] }] } }) := by
    have htxns : cs.ch.b.txns.map (fun t => if t.src == x.src && t.num == x.num then
        { t with images := t.images.filter (fun j => j != k) } else t) = [{ x with images := [] }] := by
      rw [h.txns]
      simp [h.images]
    simp only [Env.upd, chanEnv, Blk.mapTxn, htxns, CS.on]
  rw [endImageStore, hfind]
  exact congrArg (fun y => endCopyStore chanEnv y x.src x.num ok) hmap

/-- The good end of the last store of a commit that no check refuses commits it. -/
theorem CS.Storing.commits (h : cs.Storing x k)
    (hc : ({ cs.ch.b with txns := [] } : Blk).commitStatus x.apply (x.items.map (·.1)) = stOk) :
    endImageStore chanEnv cs k true = cs.on (fun c => { c with b := { c.b with txns := [x.stored] } }) := by
  have hnone (p : Exec → Bool) : cs.ch.b.execs.find? p = none := by rw [h.execs]; rfl
  rw [h.endImageStore_eq]
  simp only [endCopyStore, Env.upd, chanEnv, CS.on, Blk.txnOf, Blk.mapTxn, Blk.commitTxn, List.find?_cons, beq_self_eq_true, Bool.and_self,
    h.storing, Nat.lt_irrefl, if_false, h.failed, Bool.not_true, Bool.or_self, Bool.false_eq_true, List.filter_cons, List.filter_nil,
    hc, if_true, hnone, h.fleet, List.map_cons, List.map_nil, Txn.stored]

/-- The bad end of the last store of a commit ends its transaction. -/
theorem CS.Storing.aborts (h : cs.Storing x k) : (endImageStore chanEnv cs k false).ch.b.txns = [] ∧
    (endImageStore chanEnv cs k false).ch.b.store = cs.ch.b.store ∧ (endImageStore chanEnv cs k false).ch.b.isLeaf = cs.ch.b.isLeaf ∧
    (endImageStore chanEnv cs k false).sh = cs.sh := by
  rw [h.endImageStore_eq]
  have hst : ¬stStore = stOk := by decide
  have hnone (p : Exec → Bool) : cs.ch.b.execs.find? p = none := by rw [h.execs]; rfl
  simp only [endCopyStore, Env.upd, chanEnv, CS.on, Blk.txnOf, Blk.mapTxn, List.find?_cons, beq_self_eq_true, Bool.and_self,
    h.storing, Nat.lt_irrefl, if_false, h.failed, Bool.not_false, Bool.or_true, if_true, hst, hnone, h.fleet,
    Bool.false_eq_true, List.map_cons, List.map_nil, Blk.endTxn, Blk.finish, List.filter_cons, List.filter_nil, Bool.not_true, and_self]

end

/-- The record that the store of an image leaves in flash. -/
def Chan.imageRec (c : Chan) (i : Img) (x : Txn) : FlashRec :=
  { node := c.b.addr, key := (imageKeys i).2.1, v := .bytes (c.b.bytes (imageKeys i).2.2), pend := some (x.src, x.num), dead := false }

theorem Chan.putFlash_mem (c : Chan) (r : FlashRec) : r ∈ (c.putFlash r).flash := by
  unfold Chan.putFlash
  (repeat' split) <;> exact List.mem_append_right _ (List.mem_singleton.mpr rfl)

/-- A store in flash moves the counts of the store alone. -/
theorem Chan.putFlash_rest (c : Chan) (r : FlashRec) : ∃ m, c.putFlash r = { c with flash := (c.putFlash r).flash, b := { c.b with store := m } } ∧
    ∀ k, k ≠ K.storeBytesUsed → k ≠ K.storeGeneration → ({ c.b with store := m } : Blk).val k = c.b.val k := by
  unfold Chan.putFlash
  split
  · exact ⟨c.b.store, rfl, fun _ _ _ => rfl⟩
  split
  · exact ⟨_, rfl, fun _ h _ => Blk.val_setVal_ne c.b _ h⟩
  · exact ⟨_, rfl, fun _ h1 h2 => (Blk.val_setVal_ne (c.b.setNum _ _) _ h2).trans (Blk.val_setVal_ne c.b _ h1)⟩

theorem CS.imageStored_eq {cs : CS} {i : Img} {x : Txn} (h : cs.Storing x (imageKeys i).1) (ok : Bool) : cs.imageStored i ok =
    endImageStore chanEnv (if ok then cs.on (fun c => c.putFlash (c.imageRec i x)) else cs.on (fun c => c.onB (·.bump K.flashWriteFailures)))
      (imageKeys i).1 ok := by
  have hfind : cs.ch.b.txns.find? (fun t => t.images.contains (imageKeys i).1) = some x := by
    rw [h.txns, List.find?_cons_of_pos]
    simp [h.images]
  unfold CS.imageStored
  simp only [hfind]
  rfl

/-- The image of the one commit under way has been stored: it is in flash, pending, and the commit is made. -/
theorem CS.imageStored_good {cs : CS} {i : Img} {x : Txn} (h : cs.Storing x (imageKeys i).1)
    (hc : ({ cs.ch.b with txns := [] } : Blk).commitStatus x.apply (x.items.map (·.1)) = stOk) :
    let t := cs.imageStored i true
    t.sh = cs.sh ∧ t.ch.b.txns = [x.stored] ∧ t.ch.b.execs = [] ∧ cs.ch.imageRec i x ∈ t.ch.flash := by
  intro t
  obtain ⟨m, hput, hval⟩ := Chan.putFlash_rest cs.ch (cs.ch.imageRec i x)
  have hstoring : (cs.on (fun c => c.putFlash (c.imageRec i x))).Storing x (imageKeys i).1 :=
    { txns := by show (cs.ch.putFlash _).b.txns = _; rw [hput]; exact h.txns
      images := h.images, storing := h.storing, failed := h.failed, fleet := h.fleet
      execs := by show (cs.ch.putFlash _).b.execs = _; rw [hput]; exact h.execs }
  have hcommit : ({ (cs.on (fun c => c.putFlash (c.imageRec i x))).ch.b with txns := [] } : Blk).commitStatus x.apply (x.items.map (·.1)) =
      stOk := by
    show ({ (cs.ch.putFlash _).b with txns := [] } : Blk).commitStatus _ _ = _
    rw [← hc, hput]
    have hnow : ({ cs.ch.b with store := m, txns := [] } : Blk).now = ({ cs.ch.b with txns := [] } : Blk).now :=
      congrArg Val.toNum (hval K.frameNow (by decide) (by decide))
    simp only [Blk.commitStatus, hnow]
    rfl
  have ht : t = (cs.on (fun c => c.putFlash (c.imageRec i x))).on (fun c => { c with b := { c.b with txns := [x.stored] } }) := by
    show cs.imageStored i true = _
    rw [CS.imageStored_eq h]
    exact hstoring.commits hcommit
  rw [ht]
  exact ⟨rfl, rfl, hstoring.execs, Chan.putFlash_mem _ _⟩

/-- The store of the image of the one commit under way has failed: it is counted, and the commit is no more. -/
theorem CS.imageStored_bad {cs : CS} {i : Img} {x : Txn} (h : cs.Storing x (imageKeys i).1) :
    let t := cs.imageStored i false
    t.sh = cs.sh ∧ t.ch.b.txns = [] ∧ t.ch.b.num K.flashWriteFailures = (cs.ch.b.bump K.flashWriteFailures).num K.flashWriteFailures := by
  intro t
  have hstoring : (cs.on (fun c => c.onB (·.bump K.flashWriteFailures))).Storing x (imageKeys i).1 :=
    { txns := h.txns, images := h.images, storing := h.storing, failed := h.failed, fleet := h.fleet, execs := h.execs }
  have ht : t = endImageStore chanEnv (cs.on (fun c => c.onB (·.bump K.flashWriteFailures))) (imageKeys i).1 false := CS.imageStored_eq h false
  obtain ⟨htxns, hstore, hleaf, hsh⟩ := hstoring.aborts
  rw [ht]
  refine ⟨hsh, htxns, ?_⟩
  have hnum : ∀ b : Blk, b.store = (cs.ch.b.bump K.flashWriteFailures).store → b.isLeaf = cs.ch.b.isLeaf →
      b.num K.flashWriteFailures = (cs.ch.b.bump K.flashWriteFailures).num K.flashWriteFailures := fun b h1 h2 => by
    rw [Blk.num, Blk.val, h1, h2]
    rfl
  exact hnum _ hstore hleaf

theorem exec_imageStoreDone (c : Ch) (i : Img) (ok : Bool) (s : State) :
    exec (.imageStoreDone c i ok) s = .next (s.csWork c (fun cs => cs.imageStored i ok)) := rfl

/-- A transaction that a command leaves stands after it, but for how far its stores have come. -/
theorem Chan.txns_of_own {a b : Chan} (h : a.own = b.own) :
    a.b.txns.map (fun t => ({ t with storing := 0 } : Txn)) = b.b.txns.map (fun t => ({ t with storing := 0 } : Txn)) := by
  have htxns := congrArg (fun y : Chan => y.b.txns) h
  exact htxns

theorem Chan.mem_txns_of_own {a b : Chan} (h : a.own = b.own) {x : Txn} (hx : x ∈ b.b.txns) :
    ∃ y ∈ a.b.txns, ({ y with storing := 0 } : Txn) = { x with storing := 0 } := by
  have hmem : ({ x with storing := 0 } : Txn) ∈ a.b.txns.map (fun t => ({ t with storing := 0 } : Txn)) := by
    rw [Chan.txns_of_own h]
    exact List.mem_map_of_mem hx
  exact List.mem_map.mp hmem

/-- The one commit under way, once made, is neither begun nor ended. -/
theorem Blk.begun_ended_stored {b before : Blk} {x : Txn} (hb : before.txns = [x]) (ht : b.txns = [x.stored]) (hs : x.storing = 1)
    (he : before.execs = []) (he' : b.execs = []) : b.begun before ++ b.ended before = [] := by
  simp [Blk.begun, Blk.ended, hb, ht, he, he', hs, Txn.stored]

/-! ### Swaps (R251, R272) -/

theorem Blk.bytes_bump_ne (b : Blk) {k j : Nat} (n : Nat) (h : j ≠ k) : (b.bump k n).bytes j = b.bytes j :=
  congrArg Val.toBytes (Blk.val_bump_ne b n h)

theorem Blk.bytes_setBytes_ne (b : Blk) {k j : Nat} (d : List Byte) (h : j ≠ k) : (b.setBytes k d).bytes j = b.bytes j :=
  congrArg Val.toBytes (Blk.val_setVal_ne b _ h)

/-- BALANCE_IMAGE_SWAP exchanges the slots, and empties the scores and rows. -/
theorem Chan.balSwap_reads (c : Chan) : c.balSwap.b.bytes K.activeImage = c.b.bytes K.standbyImage ∧
    c.balSwap.b.bytes K.standbyImage = c.b.bytes K.activeImage ∧ c.balSwap.bal.scores = [] ∧ c.balSwap.bal.builds = [] ∧
    c.balSwap.b.num K.standbyState = (if c.b.bytes K.activeImage = [] then 0 else 3) ∧ c.balSwap.b.num K.imageSwap = 0 ∧
    c.balSwap.b.num K.swaps = (c.b.bump K.swaps).num K.swaps := by
  have hnum : (c.b.setBalActive (c.b.bytes K.standbyImage)).num K.swaps = c.b.num K.swaps := by
    simp only [Blk.setBalActive]
    rw [Blk.num_setNum_ne _ _ (by decide), Blk.num_setNum_ne _ _ (by decide), Blk.num_setNum_ne _ _ (by decide),
      Blk.num_setNum_ne _ _ (by decide), Blk.num_setNum_ne _ _ (by decide), Blk.num_setNum_ne _ _ (by decide),
      Blk.num_setNum_ne _ _ (by decide), Blk.num_setBytes_ne _ _ (by decide)]
  have hbytes : (c.b.setBalActive (c.b.bytes K.standbyImage)).bytes K.activeImage = c.b.bytes K.standbyImage := by
    simp only [Blk.setBalActive]
    rw [Blk.bytes_setNum_ne _ _ (by decide), Blk.bytes_setNum_ne _ _ (by decide), Blk.bytes_setNum_ne _ _ (by decide),
      Blk.bytes_setNum_ne _ _ (by decide), Blk.bytes_setNum_ne _ _ (by decide), Blk.bytes_setNum_ne _ _ (by decide),
      Blk.bytes_setNum_ne _ _ (by decide), Blk.bytes_setBytes_same]
  have hleaf : (c.b.setBalActive (c.b.bytes K.standbyImage)).isLeaf = c.b.isLeaf := by
    simp only [Blk.setBalActive, Blk.setNum_isLeaf, Blk.setBytes_isLeaf]
  unfold Chan.balSwap
  extract_lets old b1 b2
  refine ⟨?_, ?_, rfl, rfl, ?_, ?_, ?_⟩
  · show (b2.bump K.swaps).bytes K.activeImage = _
    rw [Blk.bytes_bump_ne _ _ (by decide), Blk.bytes_setNum_ne _ _ (by decide), Blk.bytes_setNum_ne _ _ (by decide),
      Blk.bytes_setNum_ne _ _ (by decide), Blk.bytes_setBytes_ne _ _ (by decide)]
    exact hbytes
  · show (b2.bump K.swaps).bytes K.standbyImage = _
    rw [Blk.bytes_bump_ne _ _ (by decide), Blk.bytes_setNum_ne _ _ (by decide), Blk.bytes_setNum_ne _ _ (by decide),
      Blk.bytes_setNum_ne _ _ (by decide), Blk.bytes_setBytes_same]
  · show (b2.bump K.swaps).num K.standbyState = _
    rw [Blk.num_bump_ne _ _ (by decide), Blk.num_setNum_ne _ _ (by decide), Blk.num_setNum_ne _ _ (by decide), Blk.num_setNum_same]
    simp only [List.isEmpty_iff, old]
  · show (b2.bump K.swaps).num K.imageSwap = _
    rw [Blk.num_bump_ne _ _ (by decide), Blk.num_setNum_same]
  · have h2 : b2.num K.swaps = c.b.num K.swaps := by
      rw [Blk.num_setNum_ne _ _ (by decide), Blk.num_setNum_ne _ _ (by decide), Blk.num_setNum_ne _ _ (by decide),
        Blk.num_setBytes_ne _ _ (by decide)]
      exact hnum
    have hl2 : b2.isLeaf = c.b.isLeaf := by
      simp only [b2, Blk.setNum_isLeaf, Blk.setBytes_isLeaf]
      exact hleaf
    show (b2.bump K.swaps).num K.swaps = _
    simp only [Blk.bump, Blk.num_setNum_same, h2, hl2]

theorem Chan.withdrawWakes_keeps (c : Chan) (keep : Nat → Nat → Bool) (k : Nat) (hk : k ≠ K.wakeWithdrawn) :
    (c.withdrawWakes keep).b.bytes k = c.b.bytes k ∧ (c.withdrawWakes keep).b.num k = c.b.num k := by
  unfold Chan.withdrawWakes
  extract_lets gone size
  show Blk.bytes (if gone.isEmpty then c.b else c.b.bump K.wakeWithdrawn gone.length) k = _ ∧
    Blk.num (if gone.isEmpty then c.b else c.b.bump K.wakeWithdrawn gone.length) k = _
  split
  · exact ⟨rfl, rfl⟩
  · exact ⟨Blk.bytes_bump_ne _ _ hk, Blk.num_bump_ne _ _ hk⟩

/-- RULE_IMAGE_SWAP exchanges the slots; no subject is active, and no wake of the old rules waits. -/
theorem Chan.rulSwap_reads (c : Chan) : c.rulSwap.b.bytes K.rulActiveImage = c.b.bytes K.rulStandbyImage ∧
    c.rulSwap.b.bytes K.rulStandbyImage = c.b.bytes K.rulActiveImage ∧ c.rulSwap.b.num K.rulImageSwap = 0 ∧
    c.rulSwap.rul.subj = [] ∧ c.rulSwap.rul.spent = [] ∧ c.rulSwap.pac.rules = [] ∧ ∀ q ∈ c.rulSwap.pac.queue, q.rule = none := by
  unfold Chan.rulSwap
  extract_lets old b1 b2 c1
  have hb (k : Nat) (hk : k ≠ K.wakeWithdrawn) : c1.b.bytes k = b2.bytes k ∧ c1.b.num k = b2.num k :=
    Chan.withdrawWakes_keeps _ _ k hk
  refine ⟨(hb _ (by decide)).1.trans ?_, (hb _ (by decide)).1.trans ?_, (hb _ (by decide)).2.trans (Blk.num_setNum_same _ _ _), rfl, rfl, ?_,
    fun q hq => ?_⟩
  · rw [Blk.bytes_setNum_ne _ _ (by decide), Blk.bytes_setNum_ne _ _ (by decide), Blk.bytes_setBytes_ne _ _ (by decide)]
    show (Blk.setRulActive _ _).bytes _ = _
    simp only [Blk.setRulActive]
    rw [Blk.bytes_setNum_ne _ _ (by decide), Blk.bytes_setNum_ne _ _ (by decide), Blk.bytes_setBytes_same]
  · rw [Blk.bytes_setNum_ne _ _ (by decide), Blk.bytes_setNum_ne _ _ (by decide), Blk.bytes_setBytes_same]
  · refine List.filter_eq_nil_iff.mpr fun q _ => ?_
    split <;> exact Bool.false_ne_true
  · exact Option.isNone_iff_eq_none.mp (List.mem_filter.mp hq).2

theorem exec_balanceImageSwap (c : Ch) (s : State) :
    exec (.balanceImageSwap c) s = .next (s.chanRow c K.imageSwap (.num 1) (fun x _ => x.balSwap)) := rfl

theorem exec_ruleImageSwap (c : Ch) (s : State) :
    exec (.ruleImageSwap c) s = .next (s.chanRow c K.rulImageSwap (.num 1) (fun x _ => x.rulSwap)) := rfl

end Sys2Proof.Machine

open Sys2Proof Sys2Proof.Machine

/-- Settles O36: the check, the store and the swaps, each as its function leaves the channel. -/
theorem imagesSwap : Obligations.ImagesSwap := by
  refine ⟨fun s c hw => ⟨fun h2 => ?_, fun h2 => ?_, fun img x htxns himages hstoring hfailed hfleet hexecs hcur hcommit => ?_⟩,
    fun s c => ⟨fun hp => ?_, fun hp => ?_⟩⟩
  · have hown := State.atWork_own s c Chan.balChecked hw
    obtain ⟨hstate, hrefusal, hindex, hid, hstandby, hactive, hbal⟩ := Chan.balChecked_reads h2
    exact ⟨_, exec_imageCheckDone_balance c s, State.atWork_beside s c _, (Chan.num_of_own hown (by decide)).trans hstate,
      (Chan.num_of_own hown (by decide)).trans hrefusal, (Chan.num_of_own hown (by decide)).trans hindex,
      (Chan.num_of_own hown (by decide)).trans hid, (Chan.bytes_of_own hown (by decide)).trans hstandby,
      (Chan.bytes_of_own hown (by decide)).trans hactive, (Chan.of_own (fun x => x.bal) (fun _ => rfl) hown).trans hbal⟩
  · have hown := State.atWork_own s c Chan.rulChecked hw
    obtain ⟨hstate, hrefusal, hindex, hactive, hrul⟩ := Chan.rulChecked_reads h2
    exact ⟨_, exec_imageCheckDone_rule c s, State.atWork_beside s c _, (Chan.num_of_own hown (by decide)).trans hstate,
      (Chan.num_of_own hown (by decide)).trans hrefusal, (Chan.num_of_own hown (by decide)).trans hindex,
      (Chan.bytes_of_own hown (by decide)).trans hactive, (Chan.of_own (fun x => x.rul) (fun _ => rfl) hown).trans hrul⟩
  · have hst : CS.Storing { ch := s.chan c, sh := s.sh } x (imageKeys img).1 := ⟨htxns, himages, hstoring, hfailed, hfleet, hexecs⟩
    refine ⟨?_, ?_⟩
    · obtain ⟨hsh, ht, he, hr⟩ := CS.imageStored_good hst hcommit
      have hown := State.onCS_own s c (fun cs => cs.imageStored img true)
      obtain ⟨y, hy, hyx⟩ := Chan.mem_txns_of_own hown (x := x.stored) (by rw [ht]; exact List.mem_singleton.mpr rfl)
      refine ⟨_, exec_imageStoreDone c img true s, ?_⟩
      rw [State.csWork, if_pos hw]
      refine ⟨State.onCS_beside s c _ (congrArg Shared.own hsh),
        ⟨y, hy, (congrArg Txn.src hyx :), (congrArg Txn.num hyx :), (congrArg Txn.state hyx :), (congrArg Txn.apply hyx :),
          (congrArg Txn.images hyx :)⟩, _, State.onCS_flash (by rw [hsh]; exact hcur) hr ?_, rfl, rfl, rfl⟩
      rw [Blk.begun_ended_stored htxns ht hstoring hexecs he]
      exact fun p hp => absurd hp List.not_mem_nil
    · obtain ⟨hsh, ht, hn⟩ := CS.imageStored_bad hst
      have hown := State.onCS_own s c (fun cs => cs.imageStored img false)
      refine ⟨_, exec_imageStoreDone c img false s, ?_⟩
      rw [State.csWork, if_pos hw]
      refine ⟨State.onCS_beside s c _ (congrArg Shared.own hsh), ?_, Chan.counts_of_num hown (by decide) hn⟩
      have htx := Chan.txns_of_own hown
      rw [ht] at htx
      exact List.map_eq_nil_iff.mp htx
  · obtain ⟨hactive, hstandby, hscores, hbuilds, hstate, hswap, hcount⟩ := Chan.balSwap_reads (s.chan c).writing
    exact ⟨_, exec_balanceImageSwap c s, State.chanRow_beside _ hp, (State.chanRow_bytes _ hp (by decide)).trans hactive,
      (State.chanRow_bytes _ hp (by decide)).trans hstandby,
      (State.chanRow_part _ hp (fun x => x.bal.scores) (fun _ => rfl) (fun _ _ => rfl)).trans hscores,
      (State.chanRow_part _ hp (fun x => x.bal.builds) (fun _ => rfl) (fun _ _ => rfl)).trans hbuilds,
      (State.chanRow_num _ hp (by decide)).trans hstate, (State.chanRow_num _ hp (by decide)).trans hswap,
      State.chanRow_counts _ hp (by decide) hcount⟩
  · obtain ⟨hactive, hstandby, hswap, hsubj, hspent, hrules, hqueue⟩ := Chan.rulSwap_reads (s.chan c).writing
    refine ⟨_, exec_ruleImageSwap c s, State.chanRow_beside _ hp, (State.chanRow_bytes _ hp (by decide)).trans hactive,
      (State.chanRow_bytes _ hp (by decide)).trans hstandby, (State.chanRow_num _ hp (by decide)).trans hswap,
      (State.chanRow_part _ hp (fun x => x.rul.subj) (fun _ => rfl) (fun _ _ => rfl)).trans hsubj,
      (State.chanRow_part _ hp (fun x => x.rul.spent) (fun _ => rfl) (fun _ _ => rfl)).trans hspent,
      (State.chanRow_part _ hp (fun x => x.pac.rules) (fun _ => rfl) (fun _ _ => rfl)).trans hrules, ?_⟩
    rw [State.chanRow_part _ hp (fun x => x.pac.queue) (fun _ => rfl) (fun _ _ => rfl)]
    exact hqueue

end

section
/-! PROOF. Stores in flash end (R74, R349, R357): O48. -/

namespace Sys2Proof.Machine

/-! ### The log of the firmware around a command -/

theorem State.dropStale_hist (s : State) (node : Chan → Word) (l : List (Word × Word)) (c : Ch) :
    ((s.dropStale node l).chan c).hist = (s.chan c).hist := by rw [State.dropStale_chan]

/-- What follows a command leaves the log of the firmware as the command left it. -/
theorem State.afterChan_fw (s : State) (c : Ch) (before : Chan) : ((s.afterChan c before).chan c).hist.fw = (s.chan c).hist.fw ∧
    ((s.afterChan c before).chan c).hist.fwSeq = (s.chan c).hist.fwSeq := by
  simp only [State.afterChan]
  rw [State.settle_chan, State.dropStale_hist, State.dropStale_hist, (State.stands_promoteAll _ c).hist, State.tellLeaf_chan]
  generalize hs1 : State.dropStale (State.dropStale s _ _) _ _ = s1
  have hhist : (s1.chan c).hist = (s.chan c).hist := by rw [← hs1, State.dropStale_hist, State.dropStale_hist]
  have hput (u : State) (hu : u.chan c = ((s1.chan c).deliver before).drainFaults.spreadAuthority before) :
      (s1.chan c).Shelved ((u.fanOut c).chan c) := by
    refine .trans ?_ (State.shelved_fanOut u c)
    rw [hu]
    exact (Chan.shelved_deliver _ before).trans ((Chan.shelved_drainFaults _).trans (Chan.shelved_spreadAuthority _ before))
  rw [← hhist]
  split
  · have h := hput { s1.putChan c (((s1.chan c).deliver before).drainFaults.spreadAuthority before) with
      sh := { s1.sh with muted := false } } (State.chan_putChan_same s1 c _)
    exact ⟨h.fw, h.fwSeq⟩
  · have h := hput (s1.putChan c (((s1.chan c).deliver before).drainFaults.spreadAuthority before)) (State.chan_putChan_same s1 c _)
    exact ⟨h.fw, h.fwSeq⟩

theorem State.onCS_fw (s : State) (c : Ch) (f : CS → CS) : ((s.onCS c f).chan c).hist.fw = (f { ch := s.chan c, sh := s.sh }).ch.hist.fw ∧
    ((s.onCS c f).chan c).hist.fwSeq = (f { ch := s.chan c, sh := s.sh }).ch.hist.fwSeq := by
  obtain ⟨h1, h2⟩ := State.afterChan_fw ({ s with sh := (f { ch := s.chan c, sh := s.sh }).sh }.putChan c (f { ch := s.chan c, sh := s.sh }).ch)
    c (s.chan c)
  rw [State.chan_putChan_same] at h1 h2
  exact ⟨h1, h2⟩

/-! ### What writes leave in flash -/

section
variable (c : Chan)

@[simp] theorem Chan.fault_flash (kind lk loc f d : Nat) : (c.fault kind lk loc f d).flash = c.flash := rfl
@[simp] theorem Chan.ruleIn_flash (code node arg : Nat) (p : List Byte) : (c.ruleIn code node arg p).flash = c.flash := rfl
@[simp] theorem Chan.onChild_flash (a : Word) (f : Child → Child) : (c.onChild a f).flash = c.flash := rfl
@[simp] theorem Chan.onPac_flash (f : Pacer → Pacer) : (c.onPac f).flash = c.flash := rfl
@[simp] theorem Chan.onMem_flash (f : Mem → Mem) : (c.onMem f).flash = c.flash := rfl
@[simp] theorem Chan.onCar_flash (f : Carat → Carat) : (c.onCar f).flash = c.flash := rfl
@[simp] theorem Chan.onEgr_flash (f : Egress → Egress) : (c.onEgr f).flash = c.flash := rfl
@[simp] theorem Chan.onLag_flash (f : Lag → Lag) : (c.onLag f).flash = c.flash := rfl
@[simp] theorem Chan.onRul_flash (f : Rules → Rules) : (c.onRul f).flash = c.flash := rfl
@[simp] theorem Chan.closeKey_flash (k : AKey) : (c.closeKey k).flash = c.flash := rfl
@[simp] theorem Chan.showPacer_flash : c.showPacer.flash = c.flash := rfl
@[simp] theorem Chan.swapAgg_flash : c.swapAgg.flash = c.flash := rfl
@[simp] theorem Chan.swapSeries_flash : c.swapSeries.flash = c.flash := rfl
@[simp] theorem Chan.balSwap_flash : c.balSwap.flash = c.flash := rfl
@[simp] theorem Chan.withdrawWakes_flash (keep : Nat → Nat → Bool) : (c.withdrawWakes keep).flash = c.flash := by
  unfold Chan.withdrawWakes
  rfl
@[simp] theorem Chan.rulSwap_flash : c.rulSwap.flash = c.flash := by
  unfold Chan.rulSwap
  exact Chan.withdrawWakes_flash _ (fun _ _ => false)
@[simp] theorem Chan.judgeSub_flash (i : Nat) : (c.judgeSub i).flash = c.flash := by rw [(Chan.judged_judgeSub c i).rest]
@[simp] theorem Chan.remote_flash (dst : Word) (p : Purpose) (ops : List ROp) : (c.remote dst p ops).flash = c.flash := by
  rw [(Chan.remote_asks c dst p ops).rest]
@[simp] theorem Chan.handOff_flash (q frame content colour : Nat) (ps : List (List Byte)) :
    (c.handOff q frame content colour ps).flash = c.flash := by rw [(Chan.handOff_offered c q frame content colour ps).rest]

@[simp] theorem Chan.present64_flash (fuel : Nat) : (c.present64 fuel).flash = c.flash := by
  induction fuel generalizing c with
  | zero => rfl
  | succ fuel ih =>
    simp only [Chan.present64]
    split
    · rfl
    · next c1 h =>
      have h1 := congrArg Chan.flash (Chan.presentOne_rest h)
      exact (ih c1).trans h1

@[simp] theorem Chan.jobGoes_flash (decomp : Bool) : (c.jobGoes decomp).flash = c.flash := by
  unfold Chan.jobGoes
  extract_lets k d
  split
  · rfl
  · split
    · exact Chan.present64_flash _ _
    · rfl

@[simp] theorem Chan.startJob_flash (decomp : Bool) : (c.startJob decomp).flash = c.flash := by
  unfold Chan.startJob
  split
  · rfl
  · extract_lets mine
    split
    · rfl
    · exact (Chan.jobGoes_flash _ _).trans (Chan.present64_flash _ _)

@[simp] theorem Chan.loaded_flash (key : Nat) (v : Val) : (c.loaded key v).flash = c.flash := by
  unfold Chan.loaded
  (repeat' split) <;> rfl

@[simp] theorem Chan.enterC2_flash : c.enterC2.flash = c.flash := by
  unfold Chan.enterC2
  split <;> rfl

@[simp] theorem Chan.wakeC2_flash : c.wakeC2.flash = c.flash := by
  unfold Chan.wakeC2
  split <;> rfl

@[simp] theorem Chan.withdrawLeaves_flash (v : Nat) : (c.withdrawLeaves v).flash = c.flash := by
  refine foldl_keeps Chan.flash _ (fun x p => ?_) _ _
  split <;> rfl

@[simp] theorem Chan.withdraw_flash (n : Nat) : (c.withdraw n).flash = c.flash := by
  unfold Chan.withdraw
  split <;> rfl

@[simp] theorem Chan.memberLeave_flash (src : Word) (id : Nat) : (c.memberLeave src id).flash = c.flash := by
  unfold Chan.memberLeave
  (repeat' split) <;> rfl

@[simp] theorem Chan.triggerWritten_flash (v : Nat) : (c.triggerWritten v).flash = c.flash := by
  unfold Chan.triggerWritten
  extract_lets c1
  split
  · rw [Chan.sendTriggers_eq, (Chan.sendTriggers_asks _ _).rest]
    rfl
  · rfl

@[simp] theorem Chan.notifyTo_flash (sub : Nat) (p : List Byte) : (c.notifyTo sub p).flash = c.flash := by
  unfold Chan.notifyTo
  extract_lets q
  cases q with
  | none => rfl
  | some q => exact Chan.handOff_flash _ _ _ _ _ _

@[simp] theorem Chan.sendNotify_flash (d : List Byte) : (c.sendNotify d).flash = c.flash := by
  unfold Chan.sendNotify
  split <;> exact Chan.notifyTo_flash _ _ _

@[simp] theorem Chan.setSuspects_flash (d : List Byte) : (c.setSuspects d).flash = c.flash := by
  refine foldl_keeps Chan.flash _ (fun x u => ?_) _ _
  split <;> rfl

@[simp] theorem Chan.clearSuspects_flash (d : List Byte) : (c.clearSuspects d).flash = c.flash := by
  refine foldl_keeps Chan.flash _ (fun x u => ?_) _ _
  split <;> rfl

@[simp] theorem Chan.submitLoss_flash (d : List Byte) : (c.submitLoss d).flash = c.flash := by
  unfold Chan.submitLoss
  extract_lets s w c1
  split <;> rfl

@[simp] theorem Chan.setLossWindow_flash (v : Nat) : (c.setLossWindow v).flash = c.flash := by
  unfold Chan.setLossWindow
  extract_lets same c1
  split <;> rfl

@[simp] theorem Chan.submitJob_flash (d : List Byte) : (c.submitJob d).flash = c.flash :=
  (Chan.startJob_flash _ _).trans (Chan.startJob_flash _ _)

@[simp] theorem Chan.fetchRead_flash (s : Nat) : (c.fetchRead s).flash = c.flash := by
  unfold Chan.fetchRead
  extract_lets o
  (repeat' split) <;> rfl

@[simp] theorem Chan.startFetch_flash (v : Nat) : (c.startFetch v).flash = c.flash := by
  unfold Chan.startFetch
  extract_lets s c0
  split
  · rfl
  · exact Chan.fetchRead_flash _ _

@[simp] theorem Chan.moverStart_flash (m a : Nat) : (c.moverStart m a).flash = c.flash := Chan.present64_flash _ _

@[simp] theorem Chan.moverStop_flash (m : Nat) : (c.moverStop m).flash = c.flash := by
  unfold Chan.moverStop
  split <;> rfl

@[simp] theorem Chan.writeStream_flash (s : Nat) (v : List Byte) : (c.writeStream s v).flash = c.flash := by
  unfold Chan.writeStream
  extract_lets c1
  split <;> rfl

@[simp] theorem Chan.raiseClosed_flash (k : AKey) (n : Nat) : (c.raiseClosed k n).flash = c.flash := by
  refine foldl_keeps Chan.flash _ (fun x r => ?_) _ _
  rfl

@[simp] theorem Chan.writeGroup_flash (g v : Nat) : (c.writeGroup g v).flash = c.flash := by
  refine foldl_keeps Chan.flash _ (fun x k => ?_) _ c
  exact Chan.raiseClosed_flash x k _

@[simp] theorem Chan.rehome_flash (before : Chan) (s : Nat) : (c.rehome before s).flash = c.flash := by
  unfold Chan.rehome
  split <;> rfl

@[simp] theorem Chan.emptyQueue_flash (q : Nat) : (c.emptyQueue q).flash = c.flash := by
  unfold Chan.emptyQueue
  extract_lets n
  split <;> rfl

@[simp] theorem Chan.entryWritten_flash (key : Nat) (v : Val) : (c.entryWritten key v).flash = c.flash := by
  unfold Chan.entryWritten
  extract_lets c0 s c1 c2 q c3
  split
  · refine (Chan.judgeSub_flash _ _).trans ?_
    show (if _ then _ else c1).flash = _
    split
    · exact (foldl_keeps Chan.flash _ (fun x _ => Chan.emptyQueue_flash x _) _ _).trans (Chan.rehome_flash _ _ _)
    · exact Chan.rehome_flash _ _ _
  · split
    · refine (Chan.judgeSub_flash _ _).trans ?_
      show (if _ then c0.emptyQueue q else c0).flash = _
      split
      · exact Chan.emptyQueue_flash _ _
      · rfl
    · rfl

@[simp] theorem Chan.clearLocation_flash (v : Nat) : (c.clearLocation v).flash = c.flash := by
  unfold Chan.clearLocation
  extract_lets loc
  split
  · rfl
  · split
    · rfl
    · exact (Chan.shelved_queueLog _ _ _ _).flash

@[simp] theorem Chan.startupFailures_flash (v : List Byte) : (c.startupFailures v).flash = c.flash := by
  refine foldl_keeps Chan.flash _ (fun x e => ?_) _ c
  exact (Chan.shelved_takeEvent _ _ _).flash

@[simp] theorem Chan.wakeRequest_flash (v : List Byte) : (c.wakeRequest v).flash = c.flash := by
  unfold Chan.wakeRequest
  extract_lets pos region places c1
  refine foldl_keeps Chan.flash _ (fun x p => ?_) places c
  split
  · rfl
  · refine foldl_keeps Chan.flash _ (fun y r => ?_) _ x
    split <;> rfl

/-- From `a` to `b` the records in flash that are not pending stand. -/
def Chan.KeepsRecs (a b : Chan) : Prop := ∀ r ∈ a.flash, r.pend = none → r ∈ b.flash

theorem Chan.keepsRecs_of_flash {a b : Chan} (h : b.flash = a.flash) : a.KeepsRecs b := fun r hr _ => by rw [h]; exact hr

theorem Chan.KeepsRecs.ite {a b d : Chan} {p : Prop} [Decidable p] (h1 : a.KeepsRecs b) (h2 : a.KeepsRecs d) :
    a.KeepsRecs (if p then b else d) := by
  split
  · exact h1
  · exact h2

/-- The loss of everything else leaves the records that are not pending. -/
theorem Chan.keepsRecs_blank : c.KeepsRecs c.blank := fun r hr hp =>
  List.mem_map.mpr ⟨r, hr, if_neg (by simp [hp])⟩

theorem Chan.keepsRecs_powerAct (n : Nat) : c.KeepsRecs (c.powerAct n) := by
  unfold Chan.powerAct
  split
  · exact Chan.keepsRecs_of_flash c.enterC2_flash
  split
  · unfold Chan.enterC3
    split
    · exact fun _ hr _ => hr
    · exact Chan.keepsRecs_blank c
  · exact fun _ hr _ => hr

theorem Chan.keepsRecs_wake : c.KeepsRecs c.wake := by
  unfold Chan.wake
  split
  · exact Chan.keepsRecs_blank c
  · exact Chan.keepsRecs_of_flash c.wakeC2_flash

/-- A write that takes effect leaves the records that are not pending. -/
theorem Chan.keepsRecs_act (src : Word) (key : Nat) (v : Val) : c.KeepsRecs (c.act src key v) := by
  unfold Chan.act
  extract_lets n
  have same {d : Chan} : d.flash = c.flash → c.KeepsRecs d := Chan.keepsRecs_of_flash
  refine .ite (.ite (same c.swapAgg_flash) (same rfl)) ?_
  refine .ite (.ite (same c.swapSeries_flash) (same rfl)) ?_
  refine .ite (.ite (same c.balSwap_flash) (same rfl)) ?_
  refine .ite (.ite (same c.rulSwap_flash) (same rfl)) ?_
  refine .ite (same (c.loaded_flash _ _)) ?_
  refine .ite (Chan.keepsRecs_powerAct c _) ?_
  refine .ite (Chan.keepsRecs_wake c) ?_
  refine .ite (same (c.withdrawLeaves_flash _)) ?_
  refine .ite (same (c.withdraw_flash _)) ?_
  refine .ite (same (c.memberLeave_flash _ _)) ?_
  refine .ite (same (c.triggerWritten_flash _)) ?_
  refine .ite (same (c.sendNotify_flash _)) ?_
  refine .ite (same (c.setSuspects_flash _)) ?_
  refine .ite (same (c.clearSuspects_flash _)) ?_
  refine .ite (same (c.submitLoss_flash _)) ?_
  refine .ite (same (c.setLossWindow_flash _)) ?_
  refine .ite (same (c.submitJob_flash _)) ?_
  refine .ite (same (c.startFetch_flash _)) ?_
  refine .ite (same (c.moverStart_flash _ _)) ?_
  refine .ite (same (c.moverStop_flash _)) ?_
  refine .ite (same (c.writeStream_flash _ _)) ?_
  refine .ite (same (c.writeGroup_flash _ _)) ?_
  refine .ite (same (c.entryWritten_flash _ _)) ?_
  refine .ite (same (c.clearLocation_flash _)) ?_
  refine .ite (same (c.startupFailures_flash _)) ?_
  refine .ite (same rfl) ?_
  refine .ite (same (c.wakeRequest_flash _)) ?_
  exact same rfl

end

/-- From `a` to `b` the records in flash that are not pending stand, and no copy of a tray-level object becomes current. -/
def CS.KeepsRecs (a b : CS) : Prop := a.ch.KeepsRecs b.ch ∧ b.sh.currents = a.sh.currents

theorem CS.KeepsRecs.refl (cs : CS) : cs.KeepsRecs cs := ⟨fun _ hr _ => hr, rfl⟩

theorem CS.KeepsRecs.trans {a b d : CS} (h : a.KeepsRecs b) (g : b.KeepsRecs d) : a.KeepsRecs d :=
  ⟨fun r hr hp => g.1 r (h.1 r hr hp) hp, g.2.trans h.2⟩

theorem CS.keepsRecs_upd (cs : CS) (f : Blk → Blk) : cs.KeepsRecs (chanEnv.upd cs f) := ⟨fun _ hr _ => hr, rfl⟩

theorem CS.keepsRecs_setTray (cs : CS) (key : Nat) (v : Val) : cs.KeepsRecs { cs with sh := cs.sh.setVal key v } := ⟨fun _ hr _ => hr, rfl⟩

theorem CS.keepsRecs_on {cs : CS} {f : Chan → Chan} (h : cs.ch.KeepsRecs (f cs.ch)) : cs.KeepsRecs (cs.on f) := ⟨h, rfl⟩

theorem CS.keepsRecs_envAct (cs : CS) (src : Word) (key : Nat) (v : Val) : cs.KeepsRecs (chanEnv.act cs src key v) := by
  by_cases ht : isTray key = true
  · have hact : chanEnv.act cs src key v = { cs with sh := cs.sh.setVal key v } := if_pos ht
    rw [hact]
    exact CS.keepsRecs_setTray cs key v
  · have hact : chanEnv.act cs src key v = cs.on (fun c => c.act src key v) := if_neg ht
    rw [hact]
    exact CS.keepsRecs_on (Chan.keepsRecs_act cs.ch src key v)

theorem CS.keepsRecs_applyAll (cs : CS) (src : Word) (ws : List Wr) : cs.KeepsRecs (applyAll chanEnv cs src ws) := by
  induction ws generalizing cs with
  | nil => exact .refl cs
  | cons w ws ih => exact (CS.keepsRecs_envAct cs src w.1 w.2).trans (ih _)

theorem CS.keepsRecs_endItemStore (cs : CS) (src seq : Word) (place : Nat) (ok : Bool) :
    cs.KeepsRecs (endItemStore chanEnv cs src seq place ok) := by
  unfold endItemStore
  extract_lets b
  split
  · exact .refl cs
  · extract_lets
    split
    · exact CS.keepsRecs_upd cs _
    · exact ((CS.keepsRecs_upd cs _).trans (CS.keepsRecs_applyAll _ _ _)).trans (CS.keepsRecs_upd _ _)

/-! ### The end of the last store of a WRITE (R74) -/

/-- The items of a response when the store at a place has ended. -/
def storedItems (items : List Item) (place : Nat) (ok : Bool) : List Item :=
  if ok then items else modifyAt place (fun i => itemSt i stStore) items

/-- The response that the end of the last store of a WRITE sends. -/
def Exec.answer (e : Exec) (place : Nat) (ok : Bool) : Resp :=
  { e.resp with
    items := storedItems e.resp.items place ok
    status := BitVec.ofNat 8 (headStatus (storedItems e.resp.items place ok)) }

section
variable {σ : Type} {E : Env σ} (hput : ∀ s b, E.blk (E.put s b) = b)
include hput

theorem Env.blk_upd (s : σ) (f : Blk → Blk) : E.blk (E.upd s f) = f (E.blk s) := hput _ _

/-- The last store of a WRITE sends its response. -/
theorem endItemStore_responds {s : σ} {e : Exec} (he : (E.blk s).execs = [e]) (hw : e.waiting = 1) (hf : e.fails = []) (place : Nat)
    (ok : Bool) : .resp e.way (e.answer place ok) ∈ (E.blk (endItemStore E s e.src e.seq place ok)).out := by
  have hfind : (E.blk s).execs.find? (fun x => x.src == e.src && x.seq == e.seq) = some e := by rw [he]; simp
  unfold endItemStore
  extract_lets b
  simp only [b, hfind]
  rw [if_neg (by rw [hw]; decide), Env.blk_upd hput]
  have hitems : (if ok then e.fails else place :: e.fails).foldl (fun l k => modifyAt k (fun i => itemSt i stStore) l) e.resp.items =
      storedItems e.resp.items place ok := by
    rw [hf]
    cases ok <;> rfl
  rw [hitems]
  exact List.mem_append_right _ (List.mem_singleton.mpr rfl)

/-- FLASH_OPERATION_DONE of the last store of a WRITE sends its response, at either build. -/
theorem endStore_responds (hstored : ∀ s j, (E.blk (E.stored s j)).execs = (E.blk s).execs) {s : σ} {e : Exec} {place key : Nat} {v : Val}
    {rest : List FlashJob} (hj : (E.blk s).jobs = .item e.src e.seq place key v :: rest) (he : (E.blk s).execs = [e]) (hw : e.waiting = 1)
    (hf : e.fails = []) (ok : Bool) : .resp e.way (e.answer place ok) ∈ (E.blk (endStore E s ok)).out := by
  unfold endStore
  rw [hj]
  refine endItemStore_responds hput ?_ hw hf place ok
  cases ok
  · rw [if_neg Bool.false_ne_true, Env.blk_upd hput, Env.blk_upd hput]
    split <;> exact he
  · rw [if_pos rfl, hstored, Env.blk_upd hput]
    exact he

end

theorem chanEnv_stored_execs (cs : CS) (j : FlashJob) : (chanEnv.blk (chanEnv.stored cs j)).execs = (chanEnv.blk cs).execs := by
  have hput (r : FlashRec) : (cs.ch.putFlash r).b.execs = cs.ch.b.execs := by
    obtain ⟨m, hm, -⟩ := Chan.putFlash_rest cs.ch r
    rw [hm]
  show (cs.ch.storeDone cs.ch.b.addr j).b.execs = _
  unfold Chan.storeDone
  split
  · exact hput _
  · exact hput _
  · rfl
  · exact hput _

/-- After a good store of an item of a channel its record is in flash. -/
theorem endStore_record {cs : CS} {src seq : Word} {place key : Nat} {v : Val} {rest : List FlashJob}
    (hj : cs.ch.b.jobs = .item src seq place key v :: rest) :
    ({ node := cs.ch.b.addr, key := key, v := v, pend := none, dead := false } : FlashRec) ∈ (endStore chanEnv cs true).ch.flash ∧
      (endStore chanEnv cs true).sh.currents = cs.sh.currents := by
  have heq : endStore chanEnv cs true =
      endItemStore chanEnv (chanEnv.stored (chanEnv.upd cs (fun b => { b with jobs := rest })) (.item src seq place key v)) src seq place true := by
    unfold endStore
    rw [show (chanEnv.blk cs).jobs = _ from hj]
    rfl
  rw [heq]
  obtain ⟨hkeep, hcur⟩ := CS.keepsRecs_endItemStore
    (chanEnv.stored (chanEnv.upd cs (fun b => { b with jobs := rest })) (.item src seq place key v)) src seq place true
  exact ⟨hkeep _ (Chan.putFlash_mem _ _) rfl, hcur⟩

theorem State.flashDone_own {s : State} {c : Ch} {j : FlashJob} {rest : List FlashJob} (hj : (s.chan c).b.jobs = j :: rest)
    (hown : match j with | .tray .. => False | _ => True) (ok : Bool) : s.flashDone c ok = s.onCS c (fun cs => endStore chanEnv cs ok) := by
  unfold State.flashDone
  rw [hj]
  cases j with
  | item => rfl
  | copy => rfl
  | firmware => rfl
  | tray => exact hown.elim

theorem exec_flashOperationDone_chan (c : Ch) (ok : Bool) (s : State) :
    exec (.flashOperationDone (.chan c) ok) s = .next (s.flashDone c ok) := rfl

theorem exec_flashOperationDone_leaf (ok : Bool) (s : State) : exec (.flashOperationDone .leaf ok) s =
    .next ((s.onLeaf (fun l => if l.b.live then endStore leafEnv l ok else l)).countStore
      (s.leaf.b.live && !s.leaf.b.jobs.isEmpty && !ok)) := rfl

theorem State.countStore_out (s : State) (failed : Bool) : (s.countStore failed).leaf.b.out = s.leaf.b.out := by
  unfold State.countStore
  split
  · rfl
  · rw [State.onChan_leaf]

/-! ### The log of the firmware (R357) -/

/-- The good end of the store of an entry writes it. -/
theorem endStore_firmware {cs : CS} {v : List Byte} {rest : List FlashJob} (hj : cs.ch.b.jobs = .firmware v :: rest) :
    endStore chanEnv cs true = cs.on (fun c => (c.onB (fun b => { b with jobs := rest })).putFirmware v) := by
  unfold endStore
  rw [show (chanEnv.blk cs).jobs = _ from hj]
  rfl

/-- The bad end of the store of an entry is counted. -/
theorem endStore_firmware_bad {cs : CS} {v : List Byte} {rest : List FlashJob} (hj : cs.ch.b.jobs = .firmware v :: rest) :
    endStore chanEnv cs false = cs.on (fun c => c.onB (fun b =>
      if b.isLeaf then { b with jobs := rest } else ({ b with jobs := rest } : Blk).bump K.flashWriteFailures)) := by
  unfold endStore
  rw [show (chanEnv.blk cs).jobs = _ from hj]
  rfl

end Sys2Proof.Machine

open Sys2Proof Sys2Proof.Machine

/-- Settles O48: the last store of a WRITE comes to its response, and what it stored is among the records. -/
theorem storesEnd : Obligations.StoresEnd := by
  intro s
  refine ⟨fun n src seq place key v rest e hlive hj he hsrc hseq hw hf => ?_, fun c v rest hj => ⟨?_, ?_⟩⟩
  · subst hsrc hseq
    cases n with
    | leaf =>
      have hresp (ok : Bool) := endStore_responds (E := leafEnv) (fun _ _ => rfl) (fun _ _ => rfl) (s := s.leaf) hj he hw hf ok
      have hout (ok : Bool) (o : Out) (ho : o ∈ (endStore leafEnv s.leaf ok).b.out) :
          o ∈ ((s.onLeaf (fun l => if l.b.live then endStore leafEnv l ok else l)).countStore
            (s.leaf.b.live && !s.leaf.b.jobs.isEmpty && !ok)).leaf.b.out := by
        rw [State.countStore_out]
        refine (State.onLeaf_out s _).subset ?_
        rw [if_pos hlive]
        exact ho
      exact ⟨⟨_, exec_flashOperationDone_leaf true s, hout true _ (hresp true), fun c hc => by cases hc⟩,
        _, exec_flashOperationDone_leaf false s, hout false _ (hresp false)⟩
    | chan c =>
      have hresp (ok : Bool) := endStore_responds (E := chanEnv) (fun _ _ => rfl) chanEnv_stored_execs
        (s := { ch := s.chan c, sh := s.sh }) hj he hw hf ok
      have hdone (ok : Bool) := State.flashDone_own (c := c) hj trivial ok
      have hout (ok : Bool) := State.onCS_out s c (fun cs => endStore chanEnv cs ok)
      refine ⟨⟨_, exec_flashOperationDone_chan c true s, ?_, fun d hd hcur => ?_⟩, _, exec_flashOperationDone_chan c false s, ?_⟩
      · rw [hdone]
        exact (hout true).subset (hresp true)
      · cases hd
        rw [hdone]
        obtain ⟨hr, hc⟩ := endStore_record (cs := { ch := s.chan c, sh := s.sh }) hj
        exact ⟨_, State.onCS_flash (hc.trans hcur) hr (fun _ _ h => by cases h), rfl, rfl, rfl, rfl⟩
      · rw [hdone]
        exact (hout false).subset (hresp false)
  · have heq := endStore_firmware (cs := { ch := s.chan c, sh := s.sh }) hj
    obtain ⟨h1, h2⟩ := State.onCS_fw s c (fun cs => endStore chanEnv cs true)
    refine ⟨_, exec_flashOperationDone_chan c true s, ?_⟩
    rw [State.flashDone_own hj trivial]
    refine ⟨State.onCS_beside s c _ (by rw [heq]; rfl), h1.trans ?_, h2.trans ?_⟩
    · rw [heq]; rfl
    · rw [heq]; rfl
  · have heq := endStore_firmware_bad (cs := { ch := s.chan c, sh := s.sh }) hj
    obtain ⟨h1, -⟩ := State.onCS_fw s c (fun cs => endStore chanEnv cs false)
    have hown := State.onCS_own s c (fun cs => endStore chanEnv cs false)
    refine ⟨_, exec_flashOperationDone_chan c false s, ?_⟩
    rw [State.flashDone_own hj trivial]
    refine ⟨State.onCS_beside s c _ (by rw [heq]; rfl), h1.trans (by rw [heq]; rfl), fun hl => Chan.counts_of_num hown (by decide) ?_⟩
    rw [heq]
    show Blk.num (if (s.chan c).b.isLeaf then _ else _) _ = _
    rw [if_neg (by rw [hl]; decide)]
    rfl

end


section
/-! PROOF. The withdrawal of leaves and of channels, the move to the other parent, and removals (R395 to R398, O56). -/

namespace Sys2Proof.Machine

/-! ### Children of the tree -/

theorem Tree.child_mapChild {t : Tree} {a : Word} {x : Child} (f : Child → Child) (hf : ∀ y, y.addr = a → (f y).addr = a)
    (h : t.child a = some x) : (t.mapChild a f).child a = some (f x) := by
  have hx : (x.addr == a) = true := List.find?_some (p := fun x : Child => x.addr == a) h
  have hp : (fun x : Child => x.addr == a) ∘ (fun y => if y.addr == a then f y else y) = fun x => x.addr == a := by
    funext y
    simp only [Function.comp_apply]
    split
    · next hy => rw [hf _ (beq_iff_eq.mp hy), hy, beq_self_eq_true]
    · rfl
  rw [Tree.child, Tree.mapChild, List.find?_map, hp]
  rw [Tree.child] at h
  rw [h, Option.map_some, if_pos hx]

/-- A child that is taken out of the tree is there no more. -/
theorem Tree.child_filter (t : Tree) (a : Word) : ({ t with children := t.children.filter (fun y => y.addr != a) } : Tree).child a = none := by
  simp [Tree.child, List.find?_eq_none]

theorem Tree.mem_mapChild {t : Tree} {x : Child} (f : Child → Child) (h : x ∈ t.children) : f x ∈ (t.mapChild x.addr f).children :=
  List.mem_map.mpr ⟨x, h, if_pos (beq_self_eq_true _)⟩

/-! ### Leaves begin to leave (R395) -/

/-- A leaf begins to leave at w. -/
def Child.leaves (w : Nat) (x : Child) : Child := { x with leaving := some w, leaveStep := 0 }

/-- The leaf at a place begins to leave; a place without a leaf is done. -/
def Chan.letGo (w : Nat) (c : Chan) (p : Nat) : Chan :=
  match c.leafAt p with
  | none => c.onB (fun b => b.setNum K.withdrawn (setBit (b.num K.withdrawn) p))
  | some x => c.onChild x.addr (Child.leaves w)

theorem Chan.withdrawLeaves_eq (c : Chan) (v : Nat) : c.withdrawLeaves v =
    (onesOf 48 v).foldl (Chan.letGo c.b.now) (c.onB (fun b => b.setNum K.withdrawLeaves v)) := rfl

/-- From `x` to `y` some leaves have begun to leave at w, and bits of withdrawn have been set. -/
structure Chan.LetsGo (w : Nat) (x y : Chan) : Prop where
  children : ∃ m : Child → Child, y.tree.children = x.tree.children.map m ∧ ∀ a, m a = a ∨ m a = a.leaves w
  withdrawn : ∀ p, bit (x.b.num K.withdrawn) p = true → bit (y.b.num K.withdrawn) p = true
  written : y.b.num K.withdrawLeaves = x.b.num K.withdrawLeaves

theorem Chan.LetsGo.refl (w : Nat) (x : Chan) : x.LetsGo w x := ⟨⟨fun a => a, (List.map_id' _).symm, fun _ => .inl rfl⟩, fun _ h => h, rfl⟩

theorem Chan.LetsGo.trans {w : Nat} {x y z : Chan} (h : x.LetsGo w y) (g : y.LetsGo w z) : x.LetsGo w z := by
  obtain ⟨m, hm, hmc⟩ := h.children
  obtain ⟨n, hn, hnc⟩ := g.children
  refine ⟨⟨n ∘ m, by rw [hn, hm, List.map_map], fun a => ?_⟩, fun p hp => g.withdrawn p (h.withdrawn p hp), g.written.trans h.written⟩
  show n (m a) = a ∨ n (m a) = a.leaves w
  rcases hmc a with hma | hma
  · rw [hma]; exact hnc a
  · rw [hma]
    rcases hnc (a.leaves w) with hna | hna
    · exact .inr hna
    · exact .inr hna

theorem Chan.letGo_letsGo (w : Nat) (c : Chan) (p : Nat) : c.LetsGo w (c.letGo w p) := by
  unfold Chan.letGo
  split
  · refine ⟨⟨fun a => a, (List.map_id' _).symm, fun _ => .inl rfl⟩, fun q hq => ?_, Blk.num_setNum_ne _ _ (by decide)⟩
    have hset : (c.b.setNum K.withdrawn (setBit (c.b.num K.withdrawn) p)).num K.withdrawn = setBit (c.b.num K.withdrawn) p :=
      Blk.num_setNum_same _ _ _
    show bit ((c.b.setNum K.withdrawn (setBit (c.b.num K.withdrawn) p)).num K.withdrawn) q = true
    rw [hset, bit, setBit, Nat.testBit_or]
    rw [bit] at hq
    rw [hq, Bool.true_or]
  · next x hx =>
    refine ⟨⟨fun y => if y.addr == x.addr then y.leaves w else y, rfl, fun a => ?_⟩, fun _ h => h, rfl⟩
    dsimp only
    split
    · exact .inr rfl
    · exact .inl rfl

/-- The leaf at a place is the same leaf, or has begun to leave. -/
theorem Chan.LetsGo.leafAt {w : Nat} {x y : Chan} (h : x.LetsGo w y) (p : Nat) :
    ∃ m : Child → Child, (∀ a, m a = a ∨ m a = a.leaves w) ∧ y.leafAt p = (x.leafAt p).map m := by
  obtain ⟨m, hm, hmc⟩ := h.children
  refine ⟨m, hmc, ?_⟩
  rw [Chan.leafAt, hm, List.find?_map]
  refine congrArg (Option.map m) (congrArg (fun q => x.tree.children.find? q) ?_)
  funext a
  show ((m a).kind == .leaf && (m a).pos == p && !(m a).away) = _
  rcases hmc a with ha | ha
  · rw [ha]
  · rw [ha]; rfl

/-- The leaf at an address leaves since w, at the first step. -/
def Chan.Leaving (w : Nat) (a : Word) (c : Chan) : Prop := ∃ y ∈ c.tree.children, y.addr = a ∧ y.leaving = some w ∧ y.leaveStep = 0

theorem Chan.LetsGo.leaving {w : Nat} {a : Word} {x y : Chan} (h : x.LetsGo w y) (hx : x.Leaving w a) : y.Leaving w a := by
  obtain ⟨m, hm, hmc⟩ := h.children
  obtain ⟨z, hz, haddr, hleaving, hstep⟩ := hx
  refine ⟨m z, hm ▸ List.mem_map_of_mem hz, ?_⟩
  rcases hmc z with he | he <;> rw [he]
  · exact ⟨haddr, hleaving, hstep⟩
  · exact ⟨haddr, rfl, rfl⟩

/-- WITHDRAW_LEAVES (R395): the value is kept, a named place without a leaf is done, and a named leaf begins to leave. -/
theorem Chan.withdrawLeaves_reads (c : Chan) (v : Nat) : (c.withdrawLeaves v).b.num K.withdrawLeaves = v ∧
    ∀ p, p < 48 → v.testBit p = true →
      (c.leafAt p = none → bit ((c.withdrawLeaves v).b.num K.withdrawn) p = true) ∧
      ∀ x, c.leafAt p = some x → (c.withdrawLeaves v).Leaving c.b.now x.addr := by
  rw [Chan.withdrawLeaves_eq]
  have hstart : (c.onB (fun b => b.setNum K.withdrawLeaves v)).b.num K.withdrawLeaves = v := Blk.num_setNum_same _ _ _
  refine ⟨?_, fun p hp hv => ⟨fun hnone => ?_, fun x hx => ?_⟩⟩
  · have h := foldl_rel (Chan.LetsGo c.b.now) (Chan.LetsGo.refl _) Chan.LetsGo.trans (Chan.letGo c.b.now)
      (Chan.letGo_letsGo _) (onesOf 48 v) (c.onB (fun b => b.setNum K.withdrawLeaves v))
    exact h.written.trans hstart
  · refine foldl_reaches (Chan.LetsGo.refl c.b.now) Chan.LetsGo.trans (Chan.letGo_letsGo _)
      (P := fun y => bit (y.b.num K.withdrawn) p = true) (fun g => g.withdrawn p) (mem_onesOf.mpr ⟨hp, hv⟩) _ (fun y hy => ?_)
    obtain ⟨m, -, hm⟩ := hy.leafAt p
    have hy : y.leafAt p = none := hm.trans (congrArg (Option.map m) hnone)
    have heq : y.letGo c.b.now p = y.onB (fun b => b.setNum K.withdrawn (setBit (b.num K.withdrawn) p)) := by rw [Chan.letGo, hy]
    have hset : (y.b.setNum K.withdrawn (setBit (y.b.num K.withdrawn) p)).num K.withdrawn = setBit (y.b.num K.withdrawn) p :=
      Blk.num_setNum_same _ _ _
    rw [heq]
    exact (congrArg (fun n => bit n p) hset).trans (testBit_setBit_same _ _)
  · refine foldl_reaches (Chan.LetsGo.refl c.b.now) Chan.LetsGo.trans (Chan.letGo_letsGo _)
      (P := Chan.Leaving c.b.now x.addr) Chan.LetsGo.leaving (mem_onesOf.mpr ⟨hp, hv⟩) _ (fun y hy => ?_)
    obtain ⟨m, hmc, hm⟩ := hy.leafAt p
    have hyx : y.leafAt p = some (m x) := hm.trans (congrArg (Option.map m) hx)
    have haddr : (m x).addr = x.addr := by
      rcases hmc x with h | h
      · rw [h]
      · rw [h]; rfl
    have heq : y.letGo c.b.now p = y.onChild (m x).addr (Child.leaves c.b.now) := by rw [Chan.letGo, hyx]
    rw [heq]
    exact ⟨_, Tree.mem_mapChild _ (List.mem_of_find?_eq_some hyx), haddr, rfl, rfl⟩

/-! ### The steps of Table 16.7 -/

/-- A child at the step n of Table 16.7. -/
def Child.atStep (n : Nat) (x : Child) : Child := { x with leaveStep := n }

/-- The mapped regions of a leaf that are not off. -/
def Chan.regionsOn (c : Chan) (a : Word) : List Nat := (regionsOf (c.leafMap a)).filter (fun r => !bit (c.regionNow a r) 3)

/-- The writes that switch regions off. -/
def Chan.offWrites (c : Chan) (a : Word) (rs : List Nat) : List Wr := rs.map (fun r => (regionKey r, .num (setBit (c.regionNow a r) 3)))

theorem Chan.mem_of_leavers {c : Chan} {i j : Nat} {x : Child} (h : x ∈ c.leavers i j) : x ∈ c.tree.children :=
  (List.mem_filter.mp h).1

theorem Chan.leaveRegions_one {c : Chan} {x : Child} (h : c.leavers 0 1 = [x]) : c.leaveRegions =
    if (c.regionsOn x.addr).isEmpty then c.onChild x.addr (Child.atStep 1)
    else (c.onChild x.addr (Child.atStep 1)).remoteTxn x.addr .plain (c.offWrites x.addr (c.regionsOn x.addr)) (c.b.now + 1) := by
  rw [Chan.leaveRegions, h]
  rfl

theorem Chan.leaveSleep_one {c : Chan} {x : Child} (h : c.leavers 1 2 = [x]) : c.leaveSleep =
    (c.onChild x.addr (Child.atStep 2)).remoteTxn x.addr .plain [(K.powerState, .num 2)] (c.b.now + 1) := by
  rw [Chan.leaveSleep, h]
  rfl

theorem Chan.mem_onChild_atStep {c : Chan} {x : Child} {i j : Nat} (h : c.leavers i j = [x]) (n : Nat) :
    x.atStep n ∈ (c.onChild x.addr (Child.atStep n)).tree.children :=
  Tree.mem_mapChild _ (Chan.mem_of_leavers (h ▸ List.mem_singleton.mpr rfl))

/-- WITHDRAW_REGIONS_OFF (R395). -/
theorem Chan.leaveRegions_step {c : Chan} {x : Child} (h : c.leavers 0 1 = [x]) : x.atStep 1 ∈ c.leaveRegions.tree.children := by
  rw [Chan.leaveRegions_one h]
  split
  · exact Chan.mem_onChild_atStep h 1
  · rw [(Chan.remoteTxn_asks _ _ _ _ _).tree]
    exact Chan.mem_onChild_atStep h 1

theorem Chan.leaveSleep_step {c : Chan} {x : Child} (h : c.leavers 1 2 = [x]) : x.atStep 2 ∈ c.leaveSleep.tree.children := by
  rw [Chan.leaveSleep_one h, (Chan.remoteTxn_asks _ _ _ _ _).tree]
  exact Chan.mem_onChild_atStep h 2

/-- The channel without a leaf that has left, whose bit of withdrawn is set. -/
def Chan.leafGone (c : Chan) (x : Child) (pos : Nat) : Chan :=
  (c.onB (fun b => b.setNum K.withdrawn (setBit (b.num K.withdrawn) pos))).onTree
    (fun t => { t with children := t.children.filter (fun y => y.addr != x.addr) })

theorem Chan.leaveDone_acked {c : Chan} {pos w g : Nat} {x : Child} (hx : (c.leavers 2 3).find? (fun y => y.pos == pos) = some x)
    (hl : x.leaving = some w) (ha : c.ackOf x = some g) (hg : w + 2 ≤ g) :
    c.leaveDone pos = (c.leafGone x pos).remoteTxn x.addr .plain [(K.powerState, .num 3)] (c.b.now + 1) := by
  have hacked : ∀ {y z : Chan}, (if (match c.ackOf x with | some g => decide (x.leaving.getD 0 + 2 ≤ g) | none => false) = true then y else z) = y := by
    intro y z
    rw [ha, hl]
    exact if_pos (decide_eq_true hg)
  rw [Chan.leaveDone, hx]
  exact hacked

/-- LEAF_WITHDRAW_DONE (R395): the leaf is a child no more, and its bit of withdrawn is set. -/
theorem Chan.leaveDone_reads {c : Chan} {pos : Nat} {x : Child} {ws : List Wr} {a : Nat} :
    ((c.leafGone x pos).remoteTxn x.addr .plain ws a).tree.child x.addr = none ∧
    bit (((c.leafGone x pos).remoteTxn x.addr .plain ws a).b.num K.withdrawn) pos = true := by
  have hasks := Chan.remoteTxn_asks (c.leafGone x pos) x.addr .plain ws a
  have hset : (c.leafGone x pos).b.num K.withdrawn = setBit (c.b.num K.withdrawn) pos := Blk.num_setNum_same _ _ _
  rw [hasks.tree, hasks.num, hset]
  exact ⟨Tree.child_filter _ _, testBit_setBit_same _ _⟩

/-! ### The move to the other parent (R396) -/

/-- The leaf at its other parent. -/
def Leaf.moved (l : Leaf) : Leaf := { l with b := (l.b.switchTo l.b.otherParent).bump K.parentSwitches }

theorem Leaf.moveParent_other {l : Leaf} (h : l.b.otherParent ≠ noChan) : l.moveParent = l.moved := if_neg h

theorem Leaf.moved_reads (l : Leaf) : l.moved.Hands l ∧ l.moved.b.inUse = l.b.otherParent ∧ l.moved.b.link.attached = false ∧
    (l.b.inUse ≠ noChan → l.moved.b.link.leaving = chanAddr l.b.inUse) ∧ l.b.counts l.moved.b K.parentSwitches := by
  refine ⟨⟨rfl, rfl, rfl⟩, ?_, rfl, fun h => (if_neg h :), ?_⟩
  · show ((l.b.switchTo l.b.otherParent).bump K.parentSwitches).num K.parentInUse = _
    rw [Blk.bump, Blk.num_setNum_ne _ _ (by decide)]
    exact Blk.num_setNum_same l.b _ _
  · have hsame : (l.b.switchTo l.b.otherParent).num K.parentSwitches = l.b.num K.parentSwitches :=
      Blk.num_setNum_ne l.b _ (by decide : K.parentSwitches ≠ K.parentInUse)
    show ((l.b.switchTo l.b.otherParent).bump K.parentSwitches).num K.parentSwitches = _
    rw [Blk.bump, Blk.num_setNum_same, hsame]
    rfl

/-! ### The withdrawal of a channel and removal (R397, R398) -/

theorem Chan.withdraw_reads (c : Chan) : (c.withdraw 1).b.num K.withdrawChannel = 1 ∧
    (c.member = true → (c.withdraw 1).b.num K.bringupState = 9 ∧ (c.withdraw 1).leaveAt = some c.b.now) := by
  by_cases hm : c.member = true
  · have heq : c.withdraw 1 = { c with b := (c.b.setNum K.withdrawChannel 1).setNum K.bringupState 9, leaveAt := some c.b.now } :=
      if_pos ⟨rfl, hm⟩
    rw [heq]
    exact ⟨(Blk.num_setNum_ne _ _ (by decide)).trans (Blk.num_setNum_same _ _ _), fun _ => ⟨Blk.num_setNum_same _ _ _, rfl⟩⟩
  · have heq : c.withdraw 1 = { c with b := c.b.setNum K.withdrawChannel 1 } := if_neg (fun h => hm h.2)
    rw [heq]
    exact ⟨Blk.num_setNum_same _ _ _, fun h => absurd h hm⟩

/-- The channel once it has told its parent that it leaves, if it has one. -/
def Chan.leaveTold (c : Chan) : Chan :=
  if c.b.inUse = noChan then c else c.remote (chanAddr c.b.inUse) .plain [rPlain opWrite [keyItem K.memberLeave 3 (natLe 2 c.id)]]

/-- CHANNEL_WITHDRAW_DONE (R397), with every packet of the frames before acknowledged. -/
theorem Chan.withdrawDone_acked {c : Chan} {w : Nat} (hl : c.leaveAt = some w) (hs : c.b.num K.bringupState = 9) (hw : w < c.b.now)
    (hj : ∀ e ∈ c.b.journal, e.dst = none → w ≤ e.frame) : c.withdrawDone =
      c.leaveTold.onB (fun b => (b.setNum K.withdrawn (setBit (b.num K.withdrawn) 48)).setNum K.bringupState 0x0A) := by
  have hnone : ¬ c.b.journal.any (fun e => e.dst.isNone && decide (e.frame < w)) = true := by
    rw [List.any_eq_true]
    rintro ⟨e, he, h⟩
    rw [Bool.and_eq_true, Option.isNone_iff_eq_none, decide_eq_true_eq] at h
    exact absurd (hj e he h.1) (Nat.not_le.mpr h.2)
  rw [Chan.withdrawDone, hl]
  refine if_neg ?_
  rintro (h | h | h)
  · exact h hs
  · exact hnone h
  · omega

theorem Chan.leaveTold_tells {c : Chan} (h : c.b.inUse ≠ noChan) : ∃ m, .msg m ∈ c.leaveTold.b.out ∧ m.dst = chanAddr c.b.inUse ∧
    m.opcode = opWrite ∧ m.items = [keyItem K.memberLeave 3 (natLe 2 c.id)] := by
  obtain ⟨⟨m, hm, hdst, hop, hitems, -⟩, -⟩ := Chan.remote_sends c (chanAddr c.b.inUse) .plain
    (rPlain opWrite [keyItem K.memberLeave 3 (natLe 2 c.id)]) []
  rw [Chan.leaveTold, if_neg h]
  exact ⟨m, hm, hdst, hop, hitems⟩

theorem Chan.withdrawn_reads (c : Chan) {x : Chan}
    (h : x = c.onB (fun b => (b.setNum K.withdrawn (setBit (b.num K.withdrawn) 48)).setNum K.bringupState 0x0A)) :
    x.b.num K.bringupState = 0x0A ∧ bit (x.b.num K.withdrawn) 48 = true ∧ x.b.out = c.b.out := by
  have hset : ((c.b.setNum K.withdrawn (setBit (c.b.num K.withdrawn) 48)).setNum K.bringupState 0x0A).num K.withdrawn =
      setBit (c.b.num K.withdrawn) 48 := (Blk.num_setNum_ne _ _ (by decide)).trans (Blk.num_setNum_same _ _ _)
  subst h
  exact ⟨Blk.num_setNum_same _ _ _, (congrArg (fun n => bit n 48) hset).trans (testBit_setBit_same _ _), rfl⟩

theorem Chan.memberLeave_member {c : Chan} {src : Word} {id : Nat} {x : Child} (hx : c.tree.child src = some x) (hk : x.kind = .chan)
    (hm : x.member = true) (hid : id = src.toNat % 2 ^ 16) :
    (c.memberLeave src id).tree.child src = some { x with leaving := some (c.b.now + 1) } := by
  have heq : c.memberLeave src id = c.onChild src (fun y => { y with leaving := some (c.b.now + 1) }) := by
    rw [Chan.memberLeave, hx]
    exact if_pos ⟨hk, hm, hid⟩
  rw [heq]
  exact Tree.child_mapChild (fun y => { y with leaving := some (c.b.now + 1) }) (fun _ h => h) hx

/-- CHANNEL_REMOVAL (R398) of a member that has been silent for its frames. -/
theorem Chan.removeChild_silent {c : Chan} {id : Nat} {x : Child} (hx : c.tree.child (chanAddr id) = some x) (hk : x.kind = .chan)
    (hm : x.member = true) (hq : c.b.num K.removalFrames ≤ x.quiet) (hl : c.b.isLeaf = false) :
    (c.removeChild id).tree.child (chanAddr id) = none ∧ (c.removeChild id).b.num K.removals = (c.b.bump K.removals).num K.removals ∧
    (c.removeChild id).b.err.getLsbD irqFault = true := by
  have haddr : x.addr = chanAddr id := beq_iff_eq.mp (List.find?_some (p := fun x : Child => x.addr == chanAddr id) hx)
  have heq : c.removeChild id = (c.onTree (fun t => { t with children := t.children.filter (fun y => y.addr != x.addr) })).onB
      (fun b => (b.bump K.removals).raiseErr irqFault) := by
    rw [Chan.removeChild, hx]
    exact if_pos ⟨hk, hm, hq⟩
  rw [heq]
  refine ⟨?_, Blk.raiseErr_num _ _ _, Blk.raiseErr_set (b := c.b.bump K.removals) hl (by decide)⟩
  rw [haddr]
  exact Tree.child_filter _ _

theorem Chan.removeChild_heard {c : Chan} {id : Nat} {x : Child} (hx : c.tree.child (chanAddr id) = some x)
    (hq : x.quiet < c.b.num K.removalFrames) : c.removeChild id = c := by
  rw [Chan.removeChild, hx]
  exact if_neg (fun h => absurd h.2.2 (Nat.not_le.mpr hq))

/-- A transaction that a channel at work opens stands in the state after. -/
theorem State.atWork_ordered {s : State} {c : Ch} (f : Chan → Chan) (hw : (s.chan c).b.works = true) {y : Chan} {a : Word} {p : Purpose}
    {ws : List Wr} {k : Nat} (h : f (s.chan c) = y.remoteTxn a p ws k) :
    (∃ m, .msg m ∈ ((s.atWork c f).chan c).b.out ∧ m.dst = a ∧ m.opcode = opTxnOpen) ∧
    ∃ r ∈ ((s.atWork c f).chan c).rem, r.dst = a ∧ r.apply = k ∧ r.writes = ws := by
  obtain ⟨⟨m, hm, hdst, hop⟩, q, hq, hqdst, hwrites, happly, -⟩ := Chan.remoteTxn_sends y a p ws k
  rw [← h] at hm hq
  exact ⟨⟨m, (State.atWork_out f hw).subset hm, hdst, hop⟩, q, (State.atWork_rem f hw).subset hq, hqdst, happly, hwrites⟩

theorem exec_withdrawLeaves (c : Ch) (v : Word64) (s : State) : exec (.withdrawLeaves c v) s =
    .next (s.chanRow c K.withdrawLeaves (.num v.toNat) (fun x y => x.withdrawLeaves y.toNum)) := rfl

theorem exec_withdrawRegionsOff (c : Ch) (s : State) : exec (.withdrawRegionsOff c) s = .next (s.atWork c Chan.leaveRegions) := rfl

theorem exec_withdrawEnterL2 (c : Ch) (s : State) : exec (.withdrawEnterL2 c) s = .next (s.atWork c Chan.leaveSleep) := rfl

theorem exec_leafWithdrawDone (c : Ch) (pos : BitVec 6) (s : State) :
    exec (.leafWithdrawDone c pos) s = .next (s.atWork c (fun x => x.leaveDone pos.toNat)) := rfl

theorem exec_moveParent (s : State) : exec .moveParent s = .next (s.leafOwn K.moveParent (.num 1) (fun l _ => l.moveParent)) := rfl

theorem exec_withdrawChannel (c : Ch) (s : State) :
    exec (.withdrawChannel c) s = .next (s.chanRow c K.withdrawChannel (.num 1) (fun x y => x.withdraw y.toNum)) := rfl

theorem exec_channelWithdrawDone (c : Ch) (s : State) : exec (.channelWithdrawDone c) s = .next (s.atWork c Chan.withdrawDone) := rfl

theorem exec_memberLeave (c : Ch) (src : Word) (id : BitVec 16) (s : State) : exec (.memberLeave c src id) s =
    .next (s.chanRow c K.memberLeave (.num id.toNat) (fun x y => x.memberLeave src y.toNum)) := rfl

theorem exec_channelRemoval (c : Ch) (id : BitVec 16) (s : State) :
    exec (.channelRemoval c id) s = .next (s.atWork c (fun x => x.removeChild id.toNat)) := rfl

end Sys2Proof.Machine

open Sys2Proof Sys2Proof.Machine

/-- Settles O56: each step of a withdrawal finds its one leaver, and a channel that leaves or is silent is dropped. -/
theorem membersWithdraw : Obligations.MembersWithdraw := by
  unfold Obligations.MembersWithdraw
  refine ⟨fun s c => ⟨fun v hp => ?_, fun x hw => ?_⟩, fun s => ⟨fun hh hp hother huse => ?_, fun c => ⟨fun hp => ?_,
    fun w hw hl hs hlate hj => ?_, fun src id x hp hx hk hm hid => ?_, fun id x hw hleaf hx hk hm => ⟨fun hq => ?_, fun hq => ?_⟩⟩⟩⟩
  · refine ⟨_, exec_withdrawLeaves c v s, State.chanRow_beside _ hp, ?_⟩
    obtain ⟨hkept, hplaces⟩ := Chan.withdrawLeaves_reads (s.chan c).writing v.toNat
    refine ⟨(State.chanRow_num _ hp (by decide)).trans hkept, fun p hp48 hv => ?_⟩
    obtain ⟨hnone, hsome⟩ := hplaces p hp48 hv
    split
    · next h =>
      rw [State.chanRow_num _ hp (by decide)]
      exact hnone h
    · next x h =>
      rw [State.chanRow_part (fun x y => x.withdrawLeaves y.toNum) hp Chan.tree (fun _ => rfl) (fun _ _ => rfl)]
      exact hsome x h
  · intro ordered
    refine ⟨fun hone => ?_, fun hone => ?_, fun pos w g hfind hl ha hg => ?_⟩
    · intro on
      have htree := Chan.of_own Chan.tree (fun _ => rfl) (State.atWork_own s c Chan.leaveRegions hw)
      refine ⟨_, exec_withdrawRegionsOff c s, State.atWork_beside s c _, ⟨x.atStep 1, htree ▸ Chan.leaveRegions_step hone, rfl, rfl⟩, fun hon => ?_⟩
      have hsome : ¬ ((s.chan c).regionsOn x.addr).isEmpty = true := fun h => hon (List.isEmpty_iff.mp h)
      exact State.atWork_ordered Chan.leaveRegions hw ((Chan.leaveRegions_one hone).trans (if_neg hsome))
    · have htree := Chan.of_own Chan.tree (fun _ => rfl) (State.atWork_own s c Chan.leaveSleep hw)
      exact ⟨_, exec_withdrawEnterL2 c s, State.atWork_beside s c _, ⟨x.atStep 2, htree ▸ Chan.leaveSleep_step hone, rfl, rfl⟩,
        State.atWork_ordered Chan.leaveSleep hw (Chan.leaveSleep_one hone)⟩
    · have heq := Chan.leaveDone_acked hfind hl ha hg
      have hown := State.atWork_own s c (fun x => x.leaveDone pos.toNat) hw
      rw [heq] at hown
      obtain ⟨hgone, hbit⟩ := Chan.leaveDone_reads (c := s.chan c) (pos := pos.toNat) (x := x) (ws := [(K.powerState, .num 3)])
        (a := (s.chan c).b.now + 1)
      refine ⟨_, exec_leafWithdrawDone c pos s, State.atWork_beside s c _, ?_, ?_,
        State.atWork_ordered (fun x => x.leaveDone pos.toNat) hw heq⟩
      · exact (Chan.of_own (fun c => c.tree.child x.addr) (fun _ => rfl) hown).trans hgone
      · rw [Chan.num_of_own hown (by decide)]
        exact hbit
  · obtain ⟨hhands, hinUse, hatt, hleaving, hcount⟩ := Leaf.moved_reads s.leaf.writing
    rw [← Leaf.moveParent_other (l := s.leaf.writing) hother] at hhands hinUse hatt hleaving hcount
    have hlink := State.leafOwn_part (fun l _ => l.moveParent) hp (fun l => l.b.link) (fun _ => rfl) (fun _ => rfl)
    refine ⟨_, exec_moveParent s, State.leafOwn_beside _ hp ((Leaf.Hands.handed hhands).trans hh),
      (State.leafOwn_num _ hp _).trans hinUse, (congrArg Link.attached hlink).trans hatt,
      (congrArg Link.leaving hlink).trans (hleaving huse), ?_⟩
    exact (State.leafOwn_num _ hp _).trans hcount
  · obtain ⟨hkept, hmember⟩ := Chan.withdraw_reads (s.chan c).writing
    refine ⟨_, exec_withdrawChannel c s, State.chanRow_beside _ hp, (State.chanRow_num _ hp (by decide)).trans hkept, fun hm => ?_⟩
    obtain ⟨hstate, hleave⟩ := hmember hm
    exact ⟨(State.chanRow_num _ hp (by decide)).trans hstate,
      (State.chanRow_part (fun x y => x.withdraw y.toNum) hp Chan.leaveAt (fun _ => rfl) (fun _ _ => rfl)).trans hleave⟩
  · have heq := Chan.withdrawDone_acked hl hs hlate hj
    have hown := State.atWork_own s c Chan.withdrawDone hw
    obtain ⟨hstate, hbit, hout⟩ := Chan.withdrawn_reads _ heq
    refine ⟨_, exec_channelWithdrawDone c s, State.atWork_beside s c _, (Chan.num_of_own hown (by decide)).trans hstate, ?_, fun huse => ?_⟩
    · rw [Chan.num_of_own hown (by decide)]
      exact hbit
    · obtain ⟨m, hm, hrest⟩ := Chan.leaveTold_tells huse
      rw [← hout] at hm
      exact ⟨m, (State.atWork_out Chan.withdrawDone hw).subset hm, hrest⟩
  · refine ⟨_, exec_memberLeave c src id s, State.chanRow_beside _ hp, ?_⟩
    refine (State.chanRow_part (fun x y => x.memberLeave src y.toNum) hp (fun x => x.tree.child src) (fun _ => rfl) (fun _ _ => rfl)).trans ?_
    exact Chan.memberLeave_member (c := (s.chan c).writing) hx hk hm hid
  · have hown := State.atWork_own s c (fun x => x.removeChild id.toNat) hw
    obtain ⟨hgone, hcount, herr⟩ := Chan.removeChild_silent hx hk hm hq hleaf
    exact ⟨_, exec_channelRemoval c id s, State.atWork_beside s c _,
      (Chan.of_own (fun c => c.tree.child (chanAddr id.toNat)) (fun _ => rfl) hown).trans hgone,
      Chan.counts_of_num hown (by decide) hcount, (Chan.of_own (fun c => c.b.err.getLsbD irqFault) (fun _ => rfl) hown).trans herr⟩
  · have hown := State.atWork_own s c (fun x => x.removeChild id.toNat) hw
    rw [Chan.removeChild_heard hx hq] at hown
    exact ⟨_, exec_channelRemoval c id s, State.atWork_beside s c _, hown⟩

end


section
/-! PROOF. The child's side of the reduction tree at a leaf and at a channel: fragments go up, and control fragments acknowledge them
(R176, R178, R179, R198, O31). -/

namespace Sys2Proof.Machine

/-! ### A command of the link of either build -/

/-- A command of a block's link: `f` at a leaf, `g` at a channel. -/
def State.atLink (s : State) (n : Node) (f : Leaf → Leaf) (g : Chan → Chan) : State :=
  match n with
  | .leaf => s.leafWork f
  | .chan c => s.atWork c g

/-- The link's function on the block of either build. -/
def State.linked (s : State) (n : Node) (f : Leaf → Leaf) (g : Chan → Chan) : Blk :=
  match n with
  | .leaf => (f s.leaf).b
  | .chan c => (g (s.chan c)).b

section
variable {s : State} {n : Node} {f : Leaf → Leaf} {g : Chan → Chan} (hw : (s.blk n).works = true)
include hw

/-- A command of the link leaves its block as the link's function has it. -/
theorem State.atLink_part {α : Type} (F : Blk → α) (hc : ∀ b : Blk, F b.own = F b) (hl : ∀ b : Blk, F { b with out := [] } = F b) :
    F ((s.atLink n f g).blk n) = F (s.linked n f g) := by
  cases n with
  | leaf => exact Leaf.of_own (fun l => F l.b) (fun l => hl l.b) (State.leafWork_own s f hw)
  | chan c => exact Chan.of_own (fun x => F x.b) (fun x => hc x.b) (State.atWork_own s c g hw)

theorem State.atLink_num {k : Nat} (hk : isFaultKey k = false) : ((s.atLink n f g).blk n).num k = (s.linked n f g).num k := by
  cases n with
  | leaf => exact Leaf.num_of_own (State.leafWork_own s f hw) k
  | chan c => exact Chan.num_of_own (State.atWork_own s c g hw) hk

theorem State.atLink_out : (s.linked n f g).out <+: ((s.atLink n f g).blk n).out := by
  cases n with
  | leaf =>
    show (f s.leaf).b.out <+: (s.leafWork f).leaf.b.out
    rw [State.leafWork, if_pos (show s.leaf.b.works = true from hw)]
    exact State.onLeaf_out s f
  | chan c => exact State.atWork_out g hw

end

/-! ### Fragments go up (R176, R178) -/

/-- What FRAGMENT_SEND does with a packet for the parent. -/
theorem Blk.fragmentSend_parent {b : Blk} {e : JEntry} (he : b.journal.find? b.maySend = some e) (hd : e.dst = none) :
    b.fragmentSend.link.credits = b.link.credits - 1 ∧
    ∃ h, .fragment (chanAddr b.inUse) h (slice e.data e.next 8176) ∈ b.fragmentSend.out ∧ h.frame = BitVec.ofNat 64 e.frame ∧
      h.total = BitVec.ofNat 24 e.data.length ∧ h.offset = BitVec.ofNat 24 e.next := by
  rw [Blk.fragmentSend, he]
  obtain ⟨frame, dst, data, sets, pending, replay, again, held, next⟩ := e
  obtain rfl : dst = none := hd
  exact ⟨rfl, _, List.mem_append_right _ (List.mem_singleton.mpr rfl), rfl, rfl, rfl⟩

/-! ### Control fragments (R178, R179, R198) -/

/-- A child that has its parent's entries takes the acknowledgement of a frame and the credits. -/
theorem Blk.takeControl_attached {b : Blk} {h : Heard} {k : Nat} (ha : b.link.attached = true) (hk : h.ack = some k) :
    (b.takeControl h false).journal = (b.journalAck none k).journal ∧ (b.takeControl h false).num K.journalAcked = k ∧
    (b.takeControl h false).link.credits = min 255 (b.link.credits + h.credits) := by
  have hb : ∀ b1 : Blk, b1.link.attached = true → (if (!b1.link.attached || false) && !h.entries.isEmpty then
      ({ b1 with link := { b1.link with attached := true, leaving := 0xFFFFFFFF, credits := h.credits } }).startReplay (some h.entries)
    else if false || ((!b1.link.attached || false) && (b1.link.leaving == 0xFFFFFFFF) && b1.journal.isEmpty) then
      ({ b1 with
        link := { b1.link with attached := true, leaving := 0xFFFFFFFF, credits := min 255 (b1.link.credits + h.credits) } }).startReplay none
    else if b1.link.attached then { b1 with link := { b1.link with credits := min 255 (b1.link.credits + h.credits) } } else b1) =
      { b1 with link := { b1.link with credits := min 255 (b1.link.credits + h.credits) } } := by
    intro b1 h1
    simp [h1]
  have heq : b.takeControl h false = { (b.journalAck none k).setNum K.journalAcked k with
      link := { b.link with credits := min 255 (b.link.credits + h.credits) } } := by
    rw [Blk.takeControl, hk]
    exact hb ((b.journalAck none k).setNum K.journalAcked k) ha
  rw [heq]
  exact ⟨rfl, Blk.num_setNum_same (b.journalAck none k) _ _, rfl⟩

/-- The block that has heard its parent in use, and so holds no parent lost. -/
def Blk.hearing (b : Blk) (hd : Heard) : Blk :=
  { b with link := { b.link with heard := b.link.heard.filter (fun x => x.src != hd.src) ++ [hd], lost := [] } }

/-- What a control fragment says to a child. -/
def heardOf (src : Word) (h : FragHdr) (es : List RelEntry) : Heard :=
  { src := src, ack := if h.frame = 0xFFFFFFFFFFFFFFFF then none else some h.frame.toNat, credits := h.credits.toNat, entries := es }

/-- A control fragment of the active parent, in use, that is none of the answerers. -/
theorem Blk.control_parent {b : Blk} {src : Word} {h : FragHdr} (es : List RelEntry) (ha : b.num K.parentActive ≠ noChan)
    (hu : b.inUse = b.num K.parentActive) (hs : src = chanAddr b.inUse) (hc : b.link.cutOff = false)
    (hans : ∀ x ∈ b.link.answerers, x.addr ≠ src) (he : envTaken h.env 3 = true) :
    b.control src h es = (b.hearing (heardOf src h es)).takeControl (heardOf src h es) false := by
  have hnone : b.link.answerers.any (fun x => x.addr == src) = false := by
    rw [List.any_eq_false]
    intro x hx
    rw [beq_iff_eq]
    exact hans x hx
  have hknown : ((src == chanAddr (b.num K.parentActive)) && decide (b.num K.parentActive ≠ noChan)) = true := by
    rw [hs, hu, beq_self_eq_true, decide_eq_true ha]
    rfl
  unfold Blk.control
  extract_lets g hd a sb known acked link b0 link0 b1 link1 b2
  have hb0 : b0 = b := by
    show (if b.link.answerers.any (fun x => x.addr == src) = true then _ else b) = b
    rw [hnone]
    exact if_neg Bool.false_ne_true
  have hk : known = true := by
    show (_ || _) = true
    rw [hknown, Bool.true_or]
  clear_value b0
  subst hb0
  rw [he, hk, if_neg (by decide), if_neg (by decide), if_neg (by show ¬ b0.link.cutOff = true; rw [hc]; decide),
    if_pos (show src = chanAddr b1.inUse from hs)]
  rfl

/-- The block of a channel after a control fragment: the block's own part, and with an admission state 8. -/
theorem Chan.parentControl_b (c : Chan) (src : Word) (h : FragHdr) (es : List RelEntry) :
    (c.parentControl src h es).b = c.b.control src h es ∨
    (c.parentControl src h es).b = (c.b.control src h es).setNum K.bringupState 8 := by
  unfold Chan.parentControl Chan.judgeMember
  split
  · exact .inr rfl
  · exact .inl rfl

/-- What a control fragment does to the block of either build, but for the state of a channel that it admits. -/
theorem State.linked_control (s : State) (n : Node) (src : Word) (h : FragHdr) (es : List RelEntry) {α : Type} (F : Blk → α)
    (hF : ∀ (b : Blk) (v : Nat), F (b.setNum K.bringupState v) = F b) :
    F (s.linked n (fun l => { l with b := l.b.control src h es }) (fun x => x.parentControl src h es)) = F ((s.blk n).control src h es) := by
  cases n with
  | leaf => rfl
  | chan c =>
    rcases Chan.parentControl_b (s.chan c) src h es with hb | hb
    · exact congrArg F hb
    · exact (congrArg F hb).trans (hF _ _)

theorem exec_fragmentSend (n : Node) (s : State) : exec (.fragmentSend n) s =
    .next (s.atLink n (fun l => { l with b := l.b.fragmentSend }) (fun x => x.onB (·.fragmentSend))) := by
  cases n <;> rfl

theorem State.linked_fragmentSend (s : State) (n : Node) :
    s.linked n (fun l => { l with b := l.b.fragmentSend }) (fun x => x.onB (·.fragmentSend)) = (s.blk n).fragmentSend := by
  cases n <;> rfl

theorem exec_controlFragmentReceive (n : Node) (src : Word) (h : FragHdr) (es : List RelEntry) (s : State) :
    exec (.controlFragmentReceive n src h es) s =
      .next (s.atLink n (fun l => { l with b := l.b.control src h es }) (fun x => x.parentControl src h es)) := by
  cases n <;> rfl

end Sys2Proof.Machine

open Sys2Proof Sys2Proof.Machine

/-- Settles O31: what the link sends and takes, the same at a leaf and at a channel. -/
theorem fragmentsGoUp : Obligations.FragmentsGoUp := by
  unfold Obligations.FragmentsGoUp
  refine ⟨fun s n e hw he hd => ?_, fun s n src h es hw ha hu hs hc hatt hans hframe => ?_⟩
  · obtain ⟨hcredits, hdr, hout, hrest⟩ := Blk.fragmentSend_parent he hd
    refine ⟨_, exec_fragmentSend n s, ?_, hdr, ?_, hrest⟩
    · rw [State.atLink_part hw (fun b => b.link.credits) (fun _ => rfl) (fun _ => rfl), State.linked_fragmentSend]
      exact hcredits
    · have hpre := State.atLink_out (f := fun l => { l with b := l.b.fragmentSend }) (g := fun x => x.onB (·.fragmentSend)) hw
      rw [State.linked_fragmentSend] at hpre
      exact hpre.subset hout
  · have hjournal := (State.atLink_part (f := fun l => { l with b := l.b.control src h es }) (g := fun x => x.parentControl src h es) hw
      Blk.journal (fun _ => rfl) (fun _ => rfl)).trans (State.linked_control s n src h es Blk.journal (fun _ _ => rfl))
    have hlink := (State.atLink_part (f := fun l => { l with b := l.b.control src h es }) (g := fun x => x.parentControl src h es) hw
      Blk.link (fun _ => rfl) (fun _ => rfl)).trans (State.linked_control s n src h es Blk.link (fun _ _ => rfl))
    have hnum : ∀ k, isFaultKey k = false → k ≠ K.bringupState → ((s.atLink n (fun l => { l with b := l.b.control src h es })
        (fun x => x.parentControl src h es)).blk n).num k = ((s.blk n).control src h es).num k := fun k hk hne =>
      (State.atLink_num hw hk).trans (State.linked_control s n src h es (fun b => b.num k) (fun b v => Blk.num_setNum_ne b v hne))
    refine ⟨fun he => ?_, fun he => ?_⟩
    · have hbad : (s.blk n).control src h es = (s.blk n).badEnvelope h.env := by simp [Blk.control, he]
      rw [hbad] at hjournal hlink hnum
      exact ⟨_, exec_controlFragmentReceive n src h es s, hjournal, hlink,
        (hnum _ (by decide) (by decide)).trans (Blk.counts_badEnvelope _ _)⟩
    · have heq := Blk.control_parent es ha hu hs hc hans he
      have hack : (heardOf src h es).ack = some h.frame.toNat := if_neg hframe
      obtain ⟨hj, hacked, hcredits⟩ := Blk.takeControl_attached (b := (s.blk n).hearing (heardOf src h es)) hatt hack
      rw [← heq] at hj hacked hcredits
      exact ⟨_, exec_controlFragmentReceive n src h es s, hjournal.trans hj, (hnum _ (by decide) (by decide)).trans hacked,
        (congrArg Link.credits hlink).trans hcredits⟩

end


section
/-! PROOF. Fragments of children are judged and placed in their packets (R75, R177, R178, O30). -/

namespace Sys2Proof.Machine

/-! ### A fragment of an empty packet -/

/-- A packet under assembly that holds one fragment alone. -/
def oneFragment (total off : Nat) (d : List Byte) : List (Option Byte) :=
  List.replicate off none ++ d.map some ++ List.replicate (total - (off + d.length)) none

theorem placeFragment_empty {total off : Nat} {d : List Byte} (h : off + d.length ≤ total) :
    placeFragment (List.replicate total none) off d = some (oneFragment total off d) := by
  have hnone : (covered (List.replicate total (none : Option Byte)) off d.length).all (·.isNone) = true := by
    rw [covered, List.drop_replicate, List.take_replicate, List.all_eq_true]
    intro x hx
    rw [List.eq_of_mem_replicate hx]
    rfl
  rw [placeFragment, if_pos hnone, List.take_replicate, List.drop_replicate, Nat.min_eq_left (by omega)]
  rfl

theorem allSome_of_none_mem {l : List (Option Byte)} (h : none ∈ l) : allSome l = none := by
  induction l with
  | nil => cases h
  | cons x xs ih =>
    cases x with
    | none => rfl
    | some b => rw [allSome, ih (by simpa using h)]; rfl

/-- A fragment that is not the whole packet leaves it incomplete. -/
theorem allSome_oneFragment {total off : Nat} {d : List Byte} (h : d.length < total) : allSome (oneFragment total off d) = none := by
  refine allSome_of_none_mem ?_
  by_cases hoff : 0 < off
  · exact List.mem_append_left _ (List.mem_append_left _ (List.mem_replicate.mpr ⟨by omega, rfl⟩))
  · exact List.mem_append_right _ (List.mem_replicate.mpr ⟨by omega, rfl⟩)

/-! ### DATA_FRAGMENT_RECEIVE -/

section
variable {c : Chan} {src : Word} {h : FragHdr} {d : List Byte}

/-- The format of a data fragment (R75, Table 7.1). -/
def badFragment (h : FragHdr) (d : List Byte) : Prop :=
  envTaken h.env 3 = false ∨ h.typ.toNat ≠ 0 ∨ h.total.toNat < 128 ∨ 1048576 < h.total.toNat ∨ d = [] ∨ 8176 < d.length ∨
    h.total.toNat < h.offset.toNat + d.length

theorem badFragment_iff : badFragment h d ↔ (envTaken h.env 3 = false ∨ h.typ ≠ 0 ∨ h.total.toNat < 128 ∨ 1048576 < h.total.toNat ∨
    d.isEmpty = true ∨ 8176 < d.length ∨ h.total.toNat < h.offset.toNat + d.length) := by
  have htyp : h.typ.toNat ≠ 0 ↔ h.typ ≠ 0 := not_congr ⟨fun e => BitVec.eq_of_toNat_eq e, fun e => by rw [e]; rfl⟩
  rw [badFragment, htyp, List.isEmpty_iff]

theorem Chan.fragment_bad (hb : badFragment h d) : c.fragment src h d = c.onB (·.badEnvelope h.env) := if_pos (badFragment_iff.mp hb)

theorem Chan.fragment_uncredited (hb : ¬ badFragment h d)
    (hx : c.tree.child src = none ∨ ∃ x, c.tree.child src = some x ∧ x.held = 0) :
    c.fragment src h d = c.onB (·.bump K.redCreditViolations) := by
  refine (if_neg (fun e => hb (badFragment_iff.mpr e))).trans ?_
  rcases hx with hnone | ⟨x, hx, hheld⟩
  · rw [hnone]
  · rw [hx]
    exact if_pos hheld

/-- A child whose credit a fragment has taken. -/
def Child.credited (x : Child) : Child := { x with held := x.held - 1, give := min 255 (x.give + 1), heard := true }

/-- The packet that a first fragment begins. -/
def firstPart (h : FragHdr) (d : List Byte) : Partial :=
  { frame := h.frame.toNat, replay := h.replay, got := oneFragment h.total.toNat h.offset.toNat d }

/-- The first fragment of a packet that it does not complete. -/
theorem Chan.fragment_first {x : Child} (hb : ¬ badFragment h d) (hx : c.tree.child src = some x) (hheld : 0 < x.held)
    (hnew : ∀ p ∈ x.parts, p.frame ≠ h.frame.toNat) (hlen : d.length < h.total.toNat) :
    c.fragment src h d = (c.onTree (fun t => t.mapChild src (fun _ => x.credited))).onChild src (fun y =>
      { y with parts := x.parts.filter (fun p => p.frame != h.frame.toNat) ++ [firstPart h d] }) := by
  have hfit : h.offset.toNat + d.length ≤ h.total.toNat := Nat.not_lt.mp (fun e => hb (.inr (.inr (.inr (.inr (.inr (.inr e)))))))
  have hfind : x.parts.find? (fun p => p.frame == h.frame.toNat) = none := by
    rw [List.find?_eq_none]
    intro p hp
    rw [beq_iff_eq]
    exact hnew p hp
  refine (if_neg (fun e => hb (badFragment_iff.mpr e))).trans ?_
  rw [hx]
  refine (if_neg (Nat.pos_iff_ne_zero.mp hheld)).trans ?_
  extract_lets f y c0 part others drop
  have hpart : part = { frame := f, replay := h.replay, got := List.replicate h.total.toNat none } := by
    show Option.getD (x.parts.find? (fun p => p.frame == h.frame.toNat)) _ = _
    rw [hfind]
    rfl
  clear_value part
  subst hpart
  rw [if_neg (fun e => e List.length_replicate), placeFragment_empty hfit]
  dsimp only
  rw [allSome_oneFragment hlen]
  rfl

/-- What a first fragment leaves of its child. -/
theorem Chan.fragment_first_child {x : Child} (hb : ¬ badFragment h d) (hx : c.tree.child src = some x) (hheld : 0 < x.held)
    (hnew : ∀ p ∈ x.parts, p.frame ≠ h.frame.toNat) (hlen : d.length < h.total.toNat) :
    ∃ y, (c.fragment src h d).tree.child src = some y ∧ y.held = x.held - 1 ∧ y.give = min 255 (x.give + 1) ∧
      ∃ p ∈ y.parts, p.frame = h.frame.toNat ∧ p.got = oneFragment h.total.toNat h.offset.toNat d := by
  have haddr : x.addr = src := beq_iff_eq.mp (List.find?_some (p := fun x : Child => x.addr == src) hx)
  rw [Chan.fragment_first hb hx hheld hnew hlen]
  have hfirst := Tree.child_mapChild (fun _ => x.credited) (fun _ _ => haddr) hx
  refine ⟨_, Tree.child_mapChild _ (fun _ h => h) hfirst, rfl, rfl, firstPart h d, ?_, rfl, rfl⟩
  exact List.mem_append_right _ (List.mem_singleton.mpr rfl)

end

theorem exec_dataFragmentReceive (c : Ch) (src : Word) (h : FragHdr) (d : List Byte) (s : State) :
    exec (.dataFragmentReceive c src h d) s = .next (s.atWork c (fun x => x.fragment src h d)) := rfl

end Sys2Proof.Machine

open Sys2Proof Sys2Proof.Machine

/-- Settles O30: the format, then the credit, then the place of a first fragment. -/
theorem fragmentsAssemble : Obligations.FragmentsAssemble := by
  unfold Obligations.FragmentsAssemble
  intro s c src h d hw
  have hown := State.atWork_own s c (fun x => x.fragment src h d) hw
  have htree := Chan.of_own Chan.tree (fun _ => rfl) hown
  refine ⟨fun hb => ?_, fun hb => ⟨fun hx => ?_, fun x hx hheld hnew hlen => ?_⟩⟩
  · rw [Chan.fragment_bad hb] at hown htree
    exact ⟨_, exec_dataFragmentReceive c src h d s, State.atWork_beside s c _, htree,
      (Chan.num_of_own hown (by decide)).trans (Blk.counts_badEnvelope _ _)⟩
  · rw [Chan.fragment_uncredited hb hx] at hown htree
    exact ⟨_, exec_dataFragmentReceive c src h d s, State.atWork_beside s c _, htree, Chan.counts_of_num hown (by decide) rfl⟩
  · obtain ⟨y, hy, hrest⟩ := Chan.fragment_first_child hb hx hheld hnew hlen
    refine ⟨_, exec_dataFragmentReceive c src h d s, State.atWork_beside s c _, y, ?_, hrest⟩
    rw [htree]
    exact hy

end


section
/-! PROOF. How a channel takes a child over, and how release queries are asked, answered and ended (R202, R203, O33, O34). -/

namespace Sys2Proof.Machine

theorem Tree.child_putChild (t : Tree) (x : Child) : (t.putChild x).child x.addr = some x := by
  have hnone : (t.children.filter (fun y => y.addr != x.addr)).find? (fun y => y.addr == x.addr) = none := Tree.child_filter t x.addr
  rw [Tree.child, Tree.putChild, List.find?_append, hnone, Option.none_or]
  exact List.find?_cons_of_pos (p := fun y : Child => y.addr == x.addr) (beq_self_eq_true _)

/-! ### What a parent holds for a child goes out (R99, R394) -/

theorem Chan.request_asks (c : Chan) (dst : Word) (op txn : Nat) (items : List Item) (body : List Byte) :
    c.Asks (c.onB (fun b => b.request dst op txn items body)) := ⟨rfl, rfl, rfl, List.prefix_append _ _, List.prefix_refl _⟩

theorem Chan.sendHeldOne_asks (c : Chan) (dst : Word) (r : FleetRec) : c.Asks (c.sendHeldOne dst r) := by
  unfold Chan.sendHeldOne
  extract_lets n body c1 c2
  have h1 : c.Asks c1 := by
    show c.Asks (if r.prepared then _ else c)
    split
    · exact Chan.request_asks _ _ _ _ _ _
    · exact .refl c
  have h2 : c1.Asks c2 := by
    show c1.Asks (match r.token with | some true => _ | some false => _ | none => c1)
    split
    · exact Chan.request_asks _ _ _ _ _ _
    · exact Chan.request_asks _ _ _ _ _ _
    · exact .refl c1
  split
  · exact h1.trans h2
  · exact (h1.trans h2).trans (Chan.request_asks _ _ _ _ _ _)

theorem Chan.sendHeld_asks (c : Chan) (dst : Word) : c.Asks (c.sendHeld dst) :=
  foldl_rel Chan.Asks .refl .trans _ (fun x r => Chan.sendHeldOne_asks x dst r) _ _

/-! ### The first control fragment after an attach (R178, R202 step 5) -/

/-- A child to whom the entries have gone, and whose buffers are all free. -/
def Child.granted (y : Child) : Child := { y with entries := none, give := 0, held := 16 }

theorem Chan.control_first {c : Chan} {y : Child} {es : List RelEntry} (hy : c.tree.child y.addr = some y) (he : y.entries = some es) :
    (∃ h, .control y.addr h es ∈ (c.control y).b.out ∧ h.credits = 16) ∧ (c.control y).tree.child y.addr = some y.granted ∧
    (c.control y).tree.asks = c.tree.asks ∧ (c.control y).b.store = c.b.store ∧ (c.control y).b.isLeaf = c.b.isLeaf := by
  unfold Chan.control
  rw [he]
  exact ⟨⟨_, List.mem_append_right _ (List.mem_singleton.mpr rfl), rfl⟩, Tree.child_mapChild _ (fun _ h => h) hy, rfl, rfl, rfl⟩

/-- What a channel that takes a child over does: the child is admitted with 16 credits, and asked for no more. -/
structure Chan.Admits (c d : Chan) (a : Word) : Prop where
  control : ∃ h es, .control a h es ∈ d.b.out ∧ h.credits = 16
  child : ∃ y, d.tree.child a = some y ∧ y.attached = true ∧ y.held = 16
  asks : d.tree.asks = c.tree.asks.filter (fun k => k.child != a)

/-- A channel from which nothing but the link of its block may differ. -/
theorem Blk.addAnswerer_store (b : Blk) (d : Word) : (b.addAnswerer d).store = b.store ∧ (b.addAnswerer d).isLeaf = b.isLeaf := by
  unfold Blk.addAnswerer
  split <;> exact ⟨rfl, rfl⟩

theorem Blk.num_of_store {a b : Blk} (h : a.store = b.store) (hl : a.isLeaf = b.isLeaf) (k : Nat) : a.num k = b.num k := by
  rw [Blk.num, Blk.val, h, hl]
  rfl

theorem Blk.bump_num_of_store {a b : Blk} (h : a.store = b.store) (hl : a.isLeaf = b.isLeaf) (k n : Nat) :
    (a.bump k n).num k = (b.bump k n).num k := by
  rw [Blk.bump, Blk.num_setNum_same, Blk.bump, Blk.num_setNum_same, Blk.num_of_store h hl, hl]

/-- A child to whom the entries are to go. -/
def Child.takenOver (y : Child) (now : Nat) (es : List RelEntry) (answerer : Option (Word × Nat)) : Child :=
  { y with attached := true, entries := some es, present := es, held := 0, give := 0, since := now, away := false,
           answerer := answerer, base := none, got := [], parts := [] }

theorem Chan.takeOver_reads {c : Chan} {a : Word} {x : Child} (hx : c.tree.child a = some x) (answer : List RelEntry)
    (answerer : Option (Word × Nat)) : c.Admits (c.takeOver a answer answerer) a ∧
    (x.adopted = true → (c.takeOver a answer answerer).b.num K.adoptions = (c.b.bump K.adoptions).num K.adoptions) := by
  have haddr : x.addr = a := beq_iff_eq.mp (List.find?_some (p := fun x : Child => x.addr == a) hx)
  unfold Chan.takeOver
  rw [hx]
  dsimp -zeta only
  extract_lets own mine extra entries c0 c1 c2 c3 c4
  have h1 : c1.tree.child a = some (x.takenOver c.b.now entries answerer) := Tree.child_mapChild (t := c0.tree) _ (fun _ h => h) hx
  have h2 : c2.tree = c1.tree ∧ c2.b.store = c.b.store ∧ c2.b.isLeaf = c.b.isLeaf := by
    show (match answerer with | some (d, _) => _ | none => c1).tree = c1.tree ∧ _
    cases answerer with
    | none => exact ⟨rfl, rfl, rfl⟩
    | some p => exact ⟨rfl, Blk.addAnswerer_store _ _⟩
  obtain ⟨htree, hstore, hleaf⟩ := h2
  have hasks : Chan.Asks (if x.adopted then c3.onB (·.bump K.adoptions) else c3) c4 := Chan.sendHeld_asks _ a
  have htree3 : (if x.adopted then c3.onB (·.bump K.adoptions) else c3).tree = c3.tree := by split <;> rfl
  have h4 : c4.tree = c3.tree := hasks.tree.trans htree3
  have hchild : c4.tree.child a = some (x.takenOver c.b.now entries answerer) := by
    rw [h4]
    exact (congrArg (fun t : Tree => t.child a) htree).trans h1
  rw [hchild]
  dsimp only
  obtain ⟨⟨h, hout, hcredits⟩, hgranted, hsame, hst, hlf⟩ := Chan.control_first (c := c4)
    (y := x.takenOver c.b.now entries answerer)
    (by rw [show (x.takenOver c.b.now entries answerer).addr = a from haddr]; exact hchild) rfl
  refine ⟨⟨⟨h, entries, haddr ▸ hout, hcredits⟩, ⟨_, haddr ▸ hgranted, rfl, rfl⟩, ?_⟩, fun had => ?_⟩
  · rw [hsame, h4]
    show c2.tree.asks.filter _ = _
    rw [htree]
    rfl
  · rw [Blk.num_of_store hst hlf, hasks.num, if_pos had]
    exact Blk.bump_num_of_store hstore hleaf _ _

/-! ### Attach of a leaf of another home channel (R203) -/

/-- An attach at position 31 of a leaf of another home channel. -/
theorem Chan.attach_other {c : Chan} {src : Word} {port : Bool} {frame left : Nat} (hm : c.member = true) (hr : c.roleAsk = none)
    (hk : bits src.toNat 28 4 = 0) (hhome : src.toNat % 2 ^ 18 / 32 ≠ c.id % 8192) : c.attach src port 31 frame left =
      c.adoptLeaf src frame (if left = noChan then 0xFFFFFFFF else chanAddr left) := by
  have hopen : ¬ (!c.member || c.roleAsk.isSome) = true := by rw [hm, hr]; decide
  unfold Chan.attach
  extract_lets from_
  rw [if_neg hopen, if_neg (by decide), if_pos hk, if_neg hhome]

/-- Leaves of a third home channel are served. -/
def Chan.servesThird (c : Chan) (src : Word) : Bool :=
  c.tree.children.any (fun x => x.kind == .leaf && x.adopted && decide (x.leafId / 32 ≠ src.toNat % 2 ^ 18 / 32))

theorem Chan.adoptLeaf_third {c : Chan} {src : Word} {frame : Nat} {left : Word} (h : c.servesThird src = true) :
    c.adoptLeaf src frame left = c.onB (·.bump K.adoptionsRefused) := if_pos h

/-- A leaf that is heard and adopted. -/
def Chan.adoptee (c : Chan) (src : Word) : Child :=
  { Child.fresh src .leaf (24 + src.toNat % 2 ^ 18 % 32) 1 with adopted := true, pod := c.b.num K.podNumber, heard := true }

/-- The channel with a new leaf among its children. -/
def Chan.withAdoptee (c : Chan) (src : Word) : Chan := c.onTree (fun t => t.putChild (c.adoptee src))

theorem Chan.adoptLeaf_new {c : Chan} {src : Word} {frame : Nat} {left : Word} (h : c.servesThird src = false)
    (hx : c.tree.child src = none) (ha : ∀ k ∈ c.tree.asks, k.child ≠ src) :
    c.adoptLeaf src frame left = (c.withAdoptee src).askRelease src left := by
  have hnot : ¬ c.tree.asks.any (fun k => k.child == src) = true := by
    rw [List.any_eq_true]
    rintro ⟨k, hk, he⟩
    exact ha k hk (beq_iff_eq.mp he)
  have hnew : ¬ c.servesThird src = true := by rw [h]; decide
  refine (if_neg hnew).trans ?_
  rw [hx]
  refine (if_neg hnot).trans ?_
  exact if_neg (fun h => Bool.false_ne_true h)

theorem Chan.child_withAdoptee (c : Chan) (src : Word) : (c.withAdoptee src).tree.child src = some (c.adoptee src) :=
  Tree.child_putChild c.tree (c.adoptee src)

/-- The child names the parent that it leaves: that one is asked (R202 step 1). -/
theorem Chan.askRelease_named {c : Chan} {a left : Word} {x : Child} {own : Bool} (hx : c.tree.child a = some x) (h3 : x.level ≠ 3)
    (hown : left ≠ c.b.addr) (hnamed : left ≠ 0xFFFFFFFF) :
    (∃ h, .query left c.b.addr h left [a] ∈ (c.askRelease a left own).b.out ∧ h.frame = BitVec.ofNat 64 c.b.now ∧ h.total = 12) ∧
    ∃ k ∈ (c.askRelease a left own).tree.asks, k.child = a ∧ k.left = left ∧ k.onward = false := by
  have hask : ¬ (left = 0xFFFFFFFF ∨ left = c.b.addr ∨ (x.level = 3 ∧ left ≠ chanAddr (c.b.num K.roleSuccessor))) := by
    rintro (h | h | h)
    · exact hnamed h
    · exact hown h
    · exact h3 h.1
  rw [Chan.askRelease, hx]
  dsimp only
  rw [if_neg hask]
  exact ⟨⟨_, List.mem_append_right _ (List.mem_singleton.mpr rfl), rfl, rfl⟩,
    _, List.mem_append_right _ (List.mem_singleton.mpr rfl), rfl, rfl, rfl⟩

/-- The child names no parent: it is admitted at once. -/
theorem Chan.askRelease_none {c : Chan} {a : Word} {x : Child} {own : Bool} (hx : c.tree.child a = some x) :
    c.askRelease a 0xFFFFFFFF own = c.takeOver a [] none := by
  rw [Chan.askRelease, hx]
  exact if_pos (.inl rfl)

/-! ### Release queries (R202 steps 1 to 5) -/

theorem Chan.moved_b (c : Chan) (a : Word) : (c.moved a).b = c.b := by
  unfold Chan.moved
  split
  · rfl
  · split <;> rfl

/-- The entry of a leaf names it. -/
theorem Chan.entryOf_node (c : Chan) (level : Nat) (n : Word) :
    (c.entryOf level (n.toNat % 2 ^ 18)).node.toNat = n.toNat % 2 ^ 18 := by
  show (BitVec.ofNat 32 (n.toNat % 2 ^ 18)).toNat = _
  rw [BitVec.toNat_ofNat, Nat.mod_eq_of_lt (by omega)]

/-- A query that names this member as the parent left is answered, with an entry for every leaf. -/
theorem Chan.releaseQuery_answers {c : Chan} {src : Word} {nodes : List Word} (hm : c.member = true) :
    ∃ h es, .answer src h es ∈ (c.releaseQuery src c.b.addr nodes).b.out ∧ h.frame = BitVec.ofNat 64 c.b.now ∧
      h.total = BitVec.ofNat 24 (24 * es.length) ∧ ∀ n ∈ nodes, bits n.toNat 28 4 = 0 → ∃ e ∈ es, e.node.toNat = n.toNat % 2 ^ 18 := by
  have hmember : ¬ (!c.member) = true := by rw [hm]; decide
  unfold Chan.releaseQuery
  extract_lets own entries grants level guest c1 c2
  rw [if_neg hmember, if_neg (fun h => h.1 rfl)]
  have hb : c2.b = c.b := by
    show (if own = own then nodes.foldl Chan.moved c1 else c1).b = c.b
    rw [if_pos rfl]
    exact foldl_keeps Chan.b _ Chan.moved_b nodes c1
  refine ⟨_, entries, List.mem_append_right _ (List.mem_singleton.mpr rfl), ?_, rfl, fun n hn hleaf => ?_⟩
  · show BitVec.ofNat 64 c2.b.now = _
    rw [hb]
  · refine ⟨_, List.mem_flatMap.mpr ⟨n, hn, List.mem_map.mpr ⟨n.toNat % 2 ^ 18, ?_, rfl⟩⟩, Chan.entryOf_node _ _ _⟩
    rw [Tree.leavesUnder, if_pos hleaf]
    exact List.mem_singleton.mpr rfl

/-- A query for a parent that is unknown here goes on to the node's own parent. -/
theorem Chan.releaseQuery_forwards {c : Chan} {src left : Word} {nodes : List Word} (hm : c.member = true) (hl : left ≠ c.b.addr)
    (hx : c.tree.child left = none) (hu : c.b.inUse ≠ noChan) : c.releaseQuery src left nodes =
      c.onB (fun b => b.emit (.query (chanAddr b.inUse) src (b.queryHdr nodes) left nodes)) := by
  have hmember : ¬ (!c.member) = true := by rw [hm]; decide
  unfold Chan.releaseQuery
  extract_lets own entries grants level guest c1 c2
  rw [if_neg hmember, if_pos ⟨hl, by rw [hx]; rfl⟩, if_neg hu]

section
variable {c : Chan} {k : Ask} (hk : c.tree.asks = [k])
include hk

/-- A query without an answer goes to the node's own parent. -/
theorem Chan.queryTimeout_one (ho : k.onward = false) (hu : c.b.inUse ≠ noChan) :
    (∃ h, .query (chanAddr c.b.inUse) c.b.addr h k.left [k.child] ∈ (c.queryTimeout k.child).b.out) ∧
    (c.queryTimeout k.child).tree.asks = [{ k with onward := true }] := by
  have hfind : c.tree.asks.find? (fun q => q.child == k.child && !q.onward) = some k := by
    rw [hk]
    exact List.find?_cons_of_pos (by rw [beq_self_eq_true, ho]; rfl)
  rw [Chan.queryTimeout, hfind]
  dsimp only
  rw [if_neg hu]
  refine ⟨⟨_, List.mem_append_right _ (List.mem_singleton.mpr rfl)⟩, ?_⟩
  show c.tree.asks.map (fun q => if q.child == k.child then { q with onward := true } else q) = _
  rw [hk, List.map_singleton, if_pos (beq_self_eq_true _)]

theorem Chan.answerMissing_one : c.answerMissing k.child = c.takeOver k.child [] none := by
  refine if_pos ?_
  rw [hk]
  simp

theorem Chan.releaseAnswer_one {es : List RelEntry}
    (h : es.any (fun e => (c.tree.leavesUnder k.child k.child).contains e.node.toNat) = true) :
    c.releaseAnswer k.left es = c.takeOver k.child es (if k.own then none else c.answererFor k.child k.left k.left) := by
  unfold Chan.releaseAnswer
  extract_lets fits
  have hfits : fits k = true := by
    show ((k.onward || k.left == k.left) && _) = true
    rw [h, beq_self_eq_true, Bool.or_true]
    rfl
  rw [hk, List.find?_cons_of_pos hfits]

/-- The one query under way has ended. -/
theorem Chan.asks_filter_one : c.tree.asks.filter (fun q => q.child != k.child) = [] := by
  rw [hk]
  simp

end

theorem exec_attachReceive31 (c : Ch) (src : Word) (port : Bool) (frame : Word64) (left : BitVec 16) (s : State) :
    exec (.attachReceive c ⟨src, port⟩ 31 frame left) s = .next (s.atWork c (fun x => x.attach src port 31 frame.toNat left.toNat)) := rfl

theorem exec_releaseQueryReceive (c : Ch) (src left : Word) (nodes : List Word) (s : State) :
    exec (.releaseQueryReceive c src left nodes) s = .next (s.atWork c (fun x => x.releaseQuery src left nodes)) := rfl

theorem exec_releaseAnswerReceive (c : Ch) (src : Word) (es : List RelEntry) (s : State) :
    exec (.releaseAnswerReceive c src es) s = .next (s.atWork c (fun x => x.releaseAnswer src es)) := rfl

theorem exec_releaseQueryTimeout (c : Ch) (a : Word) (s : State) :
    exec (.releaseQueryTimeout c a) s = .next (s.atWork c (fun x => x.queryTimeout a)) := rfl

theorem exec_releaseAnswerMissing (c : Ch) (a : Word) (s : State) :
    exec (.releaseAnswerMissing c a) s = .next (s.atWork c (fun x => x.answerMissing a)) := rfl

/-- After a command that takes a child over the child is admitted. -/
theorem State.atWork_admits {s : State} {c : Ch} (f : Chan → Chan) (hw : (s.chan c).b.works = true) {a : Word}
    (h : (s.chan c).Admits (f (s.chan c)) a) : (s.chan c).Admits ((s.atWork c f).chan c) a := by
  obtain ⟨⟨hdr, es, hout, hcredits⟩, ⟨y, hy, hrest⟩, hasks⟩ := h
  have htree := Chan.of_own Chan.tree (fun _ => rfl) (State.atWork_own s c f hw)
  exact ⟨⟨hdr, es, (State.atWork_out f hw).subset hout, hcredits⟩, ⟨y, by rw [htree]; exact hy, hrest⟩, by rw [htree]; exact hasks⟩

end Sys2Proof.Machine

open Sys2Proof Sys2Proof.Machine

/-- Settles O33: a leaf of another home is refused, asked for, or taken over. -/
theorem leavesAreAdopted : Obligations.LeavesAreAdopted := by
  unfold Obligations.LeavesAreAdopted
  intro s c src port frame left hw hm hr hk hhome third
  have hattach := Chan.attach_other (port := port) (frame := frame.toNat) (left := left.toNat) hm hr hk hhome
  have hown := State.atWork_own s c (fun x => x.attach src port 31 frame.toNat left.toNat) hw
  have hout := State.atWork_out (fun x => x.attach src port 31 frame.toNat left.toNat) hw
  have htree := Chan.of_own Chan.tree (fun _ => rfl) hown
  refine ⟨fun hthird => ?_, fun hthird hx hasks => ⟨fun hleft hself hbroad => ?_, fun hleft => ?_⟩⟩
  · rw [hattach, Chan.adoptLeaf_third hthird] at hown htree
    exact ⟨_, exec_attachReceive31 c src port frame left s, State.atWork_beside s c _, Chan.counts_of_num hown (by decide) rfl, htree⟩
  · rw [hattach, Chan.adoptLeaf_new hthird hx hasks, if_neg hleft] at hout htree
    obtain ⟨⟨h, hq, hrest⟩, k, hkm, hkrest⟩ := Chan.askRelease_named (own := false) (Chan.child_withAdoptee (s.chan c) src)
      (show (1 : Nat) ≠ 3 by decide) hself hbroad
    refine ⟨_, exec_attachReceive31 c src port frame left s, State.atWork_beside s c _, ⟨h, hout.subset hq, hrest⟩, k, ?_, hkrest⟩
    rw [htree]
    exact hkm
  · have heq : (s.chan c).attach src port 31 frame.toNat left.toNat = ((s.chan c).withAdoptee src).takeOver src [] none := by
      rw [hattach, Chan.adoptLeaf_new hthird hx hasks, if_pos hleft]
      exact Chan.askRelease_none (Chan.child_withAdoptee (s.chan c) src)
    rw [heq] at hown hout htree
    obtain ⟨⟨⟨h, es, hctl, hcredits⟩, ⟨y, hy, hyrest⟩, -⟩, hcount⟩ := Chan.takeOver_reads (Chan.child_withAdoptee (s.chan c) src) [] none
    refine ⟨_, exec_attachReceive31 c src port frame left s, State.atWork_beside s c _,
      Chan.counts_of_num hown (by decide) (hcount rfl), ⟨h, es, hout.subset hctl, hcredits⟩, y, ?_, hyrest⟩
    rw [htree]
    exact hy

/-- Settles O34: a query is answered or goes on, and what ends one takes the child over. -/
theorem releaseQueriesRun : Obligations.ReleaseQueriesRun := by
  unfold Obligations.ReleaseQueriesRun
  refine ⟨fun s c src left nodes hw hm => ⟨fun hl => ?_, fun hl hx hu => ?_⟩, fun s c k x hw hk hx => ?_⟩
  · subst hl
    obtain ⟨h, es, hans, hrest⟩ := Chan.releaseQuery_answers (src := src) (nodes := nodes) hm
    exact ⟨_, exec_releaseQueryReceive c src _ nodes s, State.atWork_beside s c _, h, es,
      (State.atWork_out (fun x => x.releaseQuery src (s.chan c).b.addr nodes) hw).subset hans, hrest⟩
  · have hown := State.atWork_own s c (fun x => x.releaseQuery src left nodes) hw
    have hout := State.atWork_out (fun x => x.releaseQuery src left nodes) hw
    rw [Chan.releaseQuery_forwards hm hl hx hu] at hown hout
    exact ⟨_, exec_releaseQueryReceive c src left nodes s, State.atWork_beside s c _, Chan.of_own Chan.tree (fun _ => rfl) hown, _,
      hout.subset (List.mem_append_right _ (List.mem_singleton.mpr rfl)), rfl, rfl⟩
  · intro admitted
    have hend : ∀ f : Chan → Chan, (∃ es an, f (s.chan c) = (s.chan c).takeOver k.child es an) → admitted (s.atWork c f) := by
      rintro f ⟨es, an, hf⟩
      obtain ⟨hctl, hy, hasks⟩ := State.atWork_admits f hw (hf ▸ (Chan.takeOver_reads hx es an).1)
      exact ⟨State.atWork_beside s c f, hasks.trans (Chan.asks_filter_one hk), hctl, hy⟩
    refine ⟨fun ho hu => ?_, ?_, fun es hes => ?_⟩
    · obtain ⟨⟨h, hq⟩, hasks⟩ := Chan.queryTimeout_one hk ho hu
      have htree := Chan.of_own Chan.tree (fun _ => rfl) (State.atWork_own s c (fun x => x.queryTimeout k.child) hw)
      refine ⟨_, exec_releaseQueryTimeout c k.child s, State.atWork_beside s c _,
        ⟨h, (State.atWork_out (fun x => x.queryTimeout k.child) hw).subset hq⟩, ?_⟩
      rw [htree]
      exact hasks
    · exact ⟨_, exec_releaseAnswerMissing c k.child s, hend _ ⟨_, _, Chan.answerMissing_one hk⟩⟩
    · exact ⟨_, exec_releaseAnswerReceive c k.left es s, hend _ ⟨_, _, Chan.releaseAnswer_one hk hes⟩⟩

end


section
/-! PROOF. The loss of a parent and the return home, at a leaf and at a channel, and leaves that are absent (R201, R206, O32). -/

namespace Sys2Proof.Machine

/-! ### The move to another parent -/

/-- The block moves to a parent, and attaches there. -/
def Blk.moves (b : Blk) (p : Nat) : Blk := ((b.switchTo p).bump K.parentSwitches).callParents

theorem Blk.callParents_num (b : Blk) (k : Nat) : b.callParents.num k = b.num k := by
  unfold Blk.callParents
  extract_lets a s b1
  have h1 : b1.num k = b.num k := by
    show (if a = noChan then b else b.sendAttach a).num k = b.num k
    split <;> rfl
  split
  · split
    · exact h1
    · exact h1
  · split <;> rfl

theorem Blk.callParents_link (b : Blk) : b.callParents.link = b.link := by
  unfold Blk.callParents
  extract_lets a s b1
  have h1 : b1.link = b.link := by
    show (if a = noChan then b else b.sendAttach a).link = b.link
    split <;> rfl
  split
  · split
    · exact h1
    · exact h1
  · split <;> rfl

/-- A block that is not attached, and has a parent in use that is not lost, calls that parent. -/
theorem Blk.callParents_calls {b : Blk} (hc : b.link.cutOff = false) (ha : b.link.attached = false) (hu : b.inUse ≠ noChan) :
    .attach (chanAddr b.inUse) b.now b.link.leaving ∈ b.callParents.out := by
  have heq : b.callParents = b.sendAttach b.inUse := by
    unfold Blk.callParents
    rw [hc, ha]
    rfl
  rw [heq, Blk.sendAttach, if_neg hu]
  exact List.mem_append_right _ (List.mem_singleton.mpr rfl)

theorem Blk.moves_reads {b : Blk} {p : Nat} (hc : b.link.cutOff = false) (hu : b.inUse ≠ noChan) (hp : p ≠ noChan) :
    (b.moves p).inUse = p ∧ (b.moves p).link.lost = b.link.lost ∧ (b.moves p).link.attached = false ∧
    b.counts (b.moves p) K.parentSwitches ∧ .attach (chanAddr p) b.now (chanAddr b.inUse) ∈ (b.moves p).out := by
  have hnum : ∀ k, k ≠ K.parentInUse → (b.switchTo p).num k = b.num k := fun k hk => Blk.num_setNum_ne b _ hk
  have huse : ((b.switchTo p).bump K.parentSwitches).inUse = p :=
    (Blk.num_bump_ne _ _ (by decide)).trans (Blk.num_setNum_same b _ _)
  have hnow : ((b.switchTo p).bump K.parentSwitches).now = b.now :=
    (Blk.num_bump_ne _ _ (by decide)).trans (hnum _ (by decide))
  have hleft : ((b.switchTo p).bump K.parentSwitches).link.leaving = chanAddr b.inUse := (if_neg hu :)
  have hcall := Blk.callParents_calls (b := (b.switchTo p).bump K.parentSwitches) hc rfl (by rw [huse]; exact hp)
  rw [huse, hnow, hleft] at hcall
  refine ⟨(Blk.callParents_num _ _).trans huse, ?_, ?_, ?_, hcall⟩
  · rw [Blk.moves, Blk.callParents_link]; rfl
  · rw [Blk.moves, Blk.callParents_link]; rfl
  · have h := Blk.counts_bump (b.switchTo p) K.parentSwitches 1
    rw [Blk.counts, hnum _ (by decide)] at h
    exact (Blk.callParents_num _ _).trans h

/-- The block that has declared its parent in use lost. -/
def Blk.losing (b : Blk) : Blk :=
  { b with link := { b.link with
      lost := if b.inUse ∈ b.link.lost then b.link.lost else b.link.lost ++ [b.inUse], silent := 0,
      note := if b.isLeaf && decide (b.inUse = b.num K.parentActive) then some (b.inUse, b.now - 1) else b.link.note } }

theorem Blk.losing_lost (b : Blk) : b.inUse ∈ b.losing.link.lost := by
  show b.inUse ∈ (if b.inUse ∈ b.link.lost then b.link.lost else b.link.lost ++ [b.inUse])
  split
  · assumption
  · exact List.mem_append_right _ (List.mem_singleton.mpr rfl)

/-- PARENT_LOST (R201) of a block whose other parent is not lost. -/
theorem Blk.parentLost_moves {b : Blk} {other : Nat} (hc : b.link.cutOff = false) (hu : b.inUse ≠ noChan)
    (hs : b.num K.parentLossFrames ≤ b.link.silent)
    (ho : other = (if b.inUse = b.num K.parentActive then b.num K.parentStandby else b.num K.parentActive))
    (hn : other ≠ noChan) (hne : other ≠ b.inUse) (hl : other ∉ b.link.lost) : b.parentLost = b.losing.moves other := by
  have hlost : ¬ (b.link.cutOff = true ∨ b.inUse = noChan ∨ b.link.silent < b.num K.parentLossFrames) := by
    rintro (h | h | h)
    · rw [hc] at h; cases h
    · exact hu h
    · omega
  have hmem : ¬ (other = noChan ∨ other ∈ b.losing.link.lost) := by
    rintro (h | h)
    · exact hn h
    · have h' : other ∈ (if b.inUse ∈ b.link.lost then b.link.lost else b.link.lost ++ [b.inUse]) := h
      split at h'
      · exact hl h'
      · rcases List.mem_append.mp h' with h' | h'
        · exact hl h'
        · exact hne (List.mem_singleton.mp h')
  subst ho
  exact (if_neg hlost).trans (if_neg hmem)

theorem Blk.parentLost_reads {b : Blk} {other : Nat} (hc : b.link.cutOff = false) (hu : b.inUse ≠ noChan)
    (hn : other ≠ noChan) (h : b.parentLost = b.losing.moves other) :
    b.parentLost.inUse = other ∧ b.inUse ∈ b.parentLost.link.lost ∧ b.parentLost.link.attached = false ∧
    b.counts b.parentLost K.parentSwitches ∧ .attach (chanAddr other) b.now (chanAddr b.inUse) ∈ b.parentLost.out := by
  obtain ⟨huse, hlost, hatt, hcount, hout⟩ := Blk.moves_reads (b := b.losing) hc hu hn
  rw [h]
  exact ⟨huse, by rw [hlost]; exact Blk.losing_lost b, hatt, hcount, hout⟩

/-- RETURN_HOME (R206) after the clean frames. -/
theorem Blk.returnHome_moves {b : Blk} (hc : b.link.cutOff = false) (hu : b.inUse ≠ b.num K.parentActive)
    (hr : b.num K.returnFrames ≤ b.link.homeRun) : b.returnHome = b.moves (b.num K.parentActive) := by
  refine if_neg ?_
  rintro (h | h | h)
  · omega
  · exact hu h
  · rw [hc] at h; cases h

/-! ### Absent leaves (R201) -/

theorem Chan.leafAbsent_made {c : Chan} {pos : Nat} {x : Child}
    (hx : c.tree.children.find? (fun y => y.kind == .leaf && y.pos == pos && y.member) = some x) (ha : x.absentMade = true) :
    c.leafAbsent pos = c := by
  rw [Chan.leafAbsent, hx]
  exact if_pos (.inr ha)

/-- A leaf that has missed two deadlines has its fault record made. -/
theorem Chan.leafAbsent_new {c : Chan} {pos : Nat} {x : Child}
    (hx : c.tree.children.find? (fun y => y.kind == .leaf && y.pos == pos && y.member) = some x) (hm : 2 ≤ x.missed)
    (ha : x.absentMade = false) : c.leafAbsent pos =
      (c.fault 0x08 2 (locLeaf x.leafId) x.missFrom 0).onChild x.addr (fun y => { y with absentMade := true }) := by
  rw [Chan.leafAbsent, hx]
  refine if_neg ?_
  rintro (h | h)
  · omega
  · rw [ha] at h; cases h

theorem Chan.leafAbsent_child {c : Chan} {pos : Nat} {x : Child}
    (hx : c.tree.children.find? (fun y => y.kind == .leaf && y.pos == pos && y.member) = some x) (hm : 2 ≤ x.missed) :
    ∃ y ∈ (c.leafAbsent pos).tree.children, y.addr = x.addr ∧ y.absentMade = true ∧ y.missed = x.missed := by
  have hmem := List.mem_of_find?_eq_some hx
  cases ha : x.absentMade with
  | true =>
    rw [Chan.leafAbsent_made hx ha]
    exact ⟨x, hmem, rfl, ha, rfl⟩
  | false =>
    rw [Chan.leafAbsent_new hx hm ha]
    exact ⟨_, Tree.mem_mapChild (t := c.tree) (fun y => { y with absentMade := true }) hmem, rfl, rfl, rfl⟩

/-- The one fault record that a command makes is counted. -/
theorem State.atWork_takes {s : State} {c : Ch} (f : Chan → Chan) (hw : (s.chan c).b.works = true) {d : List Byte}
    (hf : (f (s.chan c)).faultIn = [d]) (hb : (f (s.chan c)).b = (s.chan c).b) :
    (s.chan c).b.counts ((s.atWork c f).chan c).b K.fltRecordsTaken := by
  rw [Blk.counts, State.atWork_taken f hw hf, hb]
  exact Blk.counts_bump _ _ _

theorem exec_parentLost (n : Node) (s : State) : exec (.parentLost n) s =
    .next (s.atLink n (fun l => if l.b.num K.powerStateNow < 2 then { l with b := l.b.parentLost } else l) Chan.parentLost) := by
  cases n <;> rfl

theorem exec_returnHome (n : Node) (s : State) : exec (.returnHome n) s =
    .next (s.atLink n (fun l => { l with b := l.b.returnHome }) (fun x => x.onB (·.returnHome))) := by
  cases n <;> rfl

theorem exec_leafAbsent (c : Ch) (pos : BitVec 6) (s : State) :
    exec (.leafAbsent c pos) s = .next (s.atWork c (fun x => x.leafAbsent pos.toNat)) := rfl

/-- A leaf out of L2 and a channel that is not being admitted lose a parent as a block does. -/
theorem State.linked_parentLost {s : State} {n : Node}
    (h : match n with | .leaf => s.leaf.b.num K.powerStateNow < 2 | .chan c => (s.chan c).b.num K.bringupState ≠ 7) :
    s.linked n (fun l => if l.b.num K.powerStateNow < 2 then { l with b := l.b.parentLost } else l) Chan.parentLost = (s.blk n).parentLost := by
  cases n with
  | leaf =>
    show (if s.leaf.b.num K.powerStateNow < 2 then { s.leaf with b := s.leaf.b.parentLost } else s.leaf).b = _
    rw [if_pos h]
    rfl
  | chan c =>
    show (Chan.parentLost (s.chan c)).b = _
    rw [Chan.parentLost, if_pos h]
    rfl

theorem State.linked_returnHome (s : State) (n : Node) :
    s.linked n (fun l => { l with b := l.b.returnHome }) (fun x => x.onB (·.returnHome)) = (s.blk n).returnHome := by
  cases n <;> rfl

end Sys2Proof.Machine

open Sys2Proof Sys2Proof.Machine

/-- Settles O32: both changes of a parent are `Blk.moves`, and an absent leaf is marked with its one record. -/
theorem parentsChange : Obligations.ParentsChange := by
  unfold Obligations.ParentsChange
  refine ⟨fun s n hw hc hu hstate => ⟨fun other ho hn hne hl hs => ?_, fun hne hn hr => ?_⟩, fun s c pos x hw hx hm => ?_⟩
  · have hlink := State.linked_parentLost hstate
    obtain ⟨huse, hlost, hatt, hcount, hcall⟩ := Blk.parentLost_reads hc hu hn (Blk.parentLost_moves hc hu hs ho hn hne hl)
    rw [← hlink] at huse hlost hatt hcount hcall
    refine ⟨_, exec_parentLost n s, (State.atLink_num hw (by decide)).trans huse, ?_, ?_, ?_, (State.atLink_out hw).subset hcall⟩
    · rw [State.atLink_part hw (fun b => b.link.lost) (fun _ => rfl) (fun _ => rfl)]
      exact hlost
    · rw [State.atLink_part hw (fun b => b.link.attached) (fun _ => rfl) (fun _ => rfl)]
      exact hatt
    · exact (State.atLink_num hw (by decide)).trans hcount
  · obtain ⟨huse, -, -, hcount, hcall⟩ := Blk.moves_reads hc hu hn
    rw [← Blk.returnHome_moves hc hne hr, ← State.linked_returnHome] at huse hcount hcall
    exact ⟨_, exec_returnHome n s, (State.atLink_num hw (by decide)).trans huse, (State.atLink_num hw (by decide)).trans hcount,
      (State.atLink_out hw).subset hcall⟩
  · have hown := State.atWork_own s c (fun x => x.leafAbsent pos.toNat) hw
    refine ⟨_, exec_leafAbsent c pos s, State.atWork_beside s c _, ?_, fun ha hf => ?_, fun ha => ?_⟩
    · rw [Chan.of_own Chan.tree (fun _ => rfl) hown]
      exact Chan.leafAbsent_child hx hm
    · have hnew := Chan.leafAbsent_new hx hm ha
      refine State.atWork_takes (fun x => x.leafAbsent pos.toNat) hw (d := ?_) ?_ ?_
      rotate_left
      · rw [hnew]
        show (s.chan c).faultIn ++ [_] = _
        rw [hf]
        rfl
      · rw [hnew]
        rfl
    · rw [Chan.leafAbsent_made hx ha] at hown
      exact hown

end


section
/-! PROOF. The order in which requests are judged (R442, O12). -/

namespace Sys2Proof.Machine

/-! ### The steps of `judge` -/

section
variable {σ : Type} {E : Env σ} {s : σ} {op : Nat} {q : Req} {form : Bool} {need : Nat} {run : σ → Word → Nat → Option SeqMem → σ}
variable (ha : (E.blk s).answering q = true)
include ha

/-- A block that answers gives a request to the rest of R442. -/
theorem answering_not : ¬ (!(E.blk s).hears q || (E.blk s).resetWanted.isSome) = true := by
  simp only [Blk.answering, Bool.and_eq_true] at ha
  obtain ⟨hhears, hreset⟩ := ha
  rw [hhears, Option.isNone_iff_eq_none.mp hreset]
  decide

theorem judge_envelope (he : envOk q = false) : judge E s op q form need run = E.upd s (fun b => b.badEnvelope q.env) := by
  unfold judge
  extract_lets b src old known
  rw [if_neg (answering_not ha), he]
  rfl

section
variable (he : envOk q = true)
include he

theorem judge_foreign (hm : (E.blk s).mine op q = false) :
    judge E s op q form need run = E.passReq s (q.dst.getD (E.blk s).addr) op q := by
  unfold judge
  extract_lets b src old known
  rw [if_neg (answering_not ha), if_neg (by rw [he]; decide)]
  exact if_pos (by rw [hm]; rfl)

section
variable (hm : (E.blk s).mine op q = true)
include hm

theorem judge_length (hw : whole q = false) :
    judge E s op q form need run = E.upd s (fun b => b.respond q (bare ((E.blk s).srcOf q) op stLength q)) := by
  unfold judge
  extract_lets b src old known
  rw [if_neg (answering_not ha), if_neg (by rw [he]; decide)]
  refine (if_neg ?_).trans (if_pos ?_)
  · rw [hm]; decide
  · rw [hw]; rfl

section
variable (hw : whole q = true)
include hw

/-- A repeated number is answered with the response remembered. -/
theorem judge_repeated {m : SeqMem} {r : Resp} (hmem : (E.blk s).memOf ((E.blk s).srcOf q) = some m)
    (hr : m.resps.find? (fun r => r.seq == q.seq) = some r) :
    judge E s op q true need run = E.upd s (fun b =>
      ({ b with seqs := m :: b.seqs.filter (fun x => x.src != (E.blk s).srcOf q) } : Blk).respond q r) := by
  unfold judge
  extract_lets b src old known
  have hold : old = some m := hmem
  have hknown : known = some r := by
    show old.bind _ = _
    rw [hold]
    exact hr
  rw [if_neg (answering_not ha), if_neg (by rw [he]; decide)]
  refine (if_neg ?_).trans ((if_neg ?_).trans ?_)
  · rw [hm]; decide
  · rw [hw]; decide
  · rw [hknown, hold]

/-- A number that is not remembered, behind the highest one, is answered WRONG_STATE. -/
theorem judge_old {m : SeqMem} (hmem : (E.blk s).memOf ((E.blk s).srcOf q) = some m)
    (hr : m.resps.find? (fun r => r.seq == q.seq) = none) (ho : serialAfter q.seq m.high = false) :
    judge E s op q true need run = E.upd s (fun b => b.respond q (bare ((E.blk s).srcOf q) op stWrong q)) := by
  unfold judge
  extract_lets b src old known
  have hold : old = some m := hmem
  have hknown : known = none := by
    show old.bind _ = _
    rw [hold]
    exact hr
  rw [if_neg (answering_not ha), if_neg (by rw [he]; decide)]
  refine (if_neg ?_).trans ((if_neg ?_).trans ?_)
  · rw [hm]; decide
  · rw [hw]; decide
  · rw [hknown, hold]
    exact if_pos (show (!serialAfter q.seq m.high) = true by rw [ho]; rfl)

/-- A new number that finds 32 requests in execution is answered BUSY. -/
theorem judge_busy (hnew : ∀ m : SeqMem, (E.blk s).memOf ((E.blk s).srcOf q) = some m →
      m.resps.find? (fun r => r.seq == q.seq) = none ∧ serialAfter q.seq m.high = true)
    (hfull : 32 ≤ (E.blk s).execs.length) :
    judge E s op q true need run = E.upd s (fun b => b.respond q (bare ((E.blk s).srcOf q) op stBusy q)) := by
  unfold judge
  extract_lets b src old known
  rw [if_neg (answering_not ha), if_neg (by rw [he]; decide)]
  refine (if_neg ?_).trans ((if_neg ?_).trans ?_)
  · rw [hm]; decide
  · rw [hw]; decide
  · cases hold : (E.blk s).memOf ((E.blk s).srcOf q) with
    | none =>
      have hold' : old = none := hold
      have hknown : known = none := by show old.bind _ = _; rw [hold']; rfl
      rw [hknown, hold']
      exact (if_neg Bool.false_ne_true).trans (if_pos hfull)
    | some m =>
      obtain ⟨hr, hafter⟩ := hnew m hold
      have hold' : old = some m := hold
      have hknown : known = none := by show old.bind _ = _; rw [hold']; exact hr
      rw [hknown, hold']
      exact (if_neg (show ¬ (!serialAfter q.seq m.high) = true by rw [hafter]; decide)).trans (if_pos hfull)

end
end
end
end

/-! ### The commands that bring requests -/

/-- The run of a request at a block of either build: what `judge` does with its opcode's form and role and some execution. -/
def judgedBy (n : Node) (q : Req) (op : Nat) (s : State) (a : Answer) : Prop :=
  ∃ (form : Bool) (need : Nat) (leaf : Leaf → Word → Nat → Option SeqMem → Leaf) (chan : CS → Word → Nat → Option SeqMem → CS),
    (q.formed op = true → form = true) ∧
    a = .next (s.onNode n (fun l => judge leafEnv l op q form need leaf) (fun cs => judge chanEnv cs op q form need chan))

theorem bodyLen_unknown {q : Req} {op : Byte} (ho : q.other = some op) (h : readOpOk q = true) : bodyLen op.toNat = 0 := by
  rw [readOpOk, ho] at h
  simp only [List.contains_eq_mem, List.mem_cons, not_or, Bool.not_eq_true', decide_eq_false_iff_not] at h
  simp only [bodyLen, opTxnCommit, opCommitToken, opCompensate, opFleetRequest, opPrepare]
  split
  · omega
  · split
    · omega
    · rfl

/-- A formed segment request has one item. -/
theorem formed_segment {q : Req} {op : Nat} (h : q.formed op = true) (ho : op = opSegRead ∨ op = opSegWrite) :
    decide (q.items.length = 1) = true := by
  simp only [Req.formed, Bool.and_eq_true] at h
  obtain ⟨⟨⟨hitems, -⟩, -⟩, -⟩ := h
  rcases ho with rfl | rfl <;> simpa using hitems

theorem formed_commit {q : Req} (h : q.formed opTxnCommit = true) : decide (q.body.length = 8) = true := by
  simp only [Req.formed, Bool.and_eq_true] at h
  obtain ⟨⟨⟨-, hbody⟩, -⟩, -⟩ := h
  simpa using hbody

theorem formed_fleet {q : Req} (h : q.formed opFleetRequest = true) : decide (q.body.length = 32) = true := by
  simp only [Req.formed, Bool.and_eq_true] at h
  obtain ⟨⟨-, hbody⟩, -⟩ := h
  simpa using hbody

/-- A formed request of an unknown opcode has no body. -/
theorem formed_unknown {q : Req} {op : Byte} (ho : q.other = some op) (hok : readOpOk q = true) (h : q.formed op.toNat = true) :
    decide (q.body.length = bodyLen op.toNat) = true := by
  simp only [Req.formed, Bool.and_eq_true] at h
  obtain ⟨-, hbody⟩ := h
  rw [ho] at hbody
  rw [bodyLen_unknown ho hok]
  simpa using hbody

theorem exec_read_of_unknown {q : Req} {op : Byte} (h : q.other = some op) (n : Node) (s : State) : exec (.read n q) s =
    .next (s.onNode n (fun l => doUnknown leafEnv l op.toNat q) (fun cs => doUnknown chanEnv cs op.toNat q)) := by
  show execRead n q s = _
  rw [execRead, h]

theorem asks_judged {i : Instr} {n : Node} {q : Req} {op : Nat} (h : i.asks = some (n, q, op)) (s : State) : judgedBy n q op s (exec i s) := by
  have hsame : ∀ {m : Node} {r : Req} {o : Nat}, some (m, r, o) = some (n, q, op) → m = n ∧ r = q ∧ o = op := by
    intro m r o e
    simpa using e
  unfold Instr.asks at h
  split at h
  case h_1 =>
    split at h
    · next hknown =>
      obtain ⟨rfl, rfl, rfl⟩ := hsame h
      exact ⟨true, 0, _, _, fun _ => rfl, exec_read_of_known hknown _ s⟩
    · next o hother =>
      split at h
      · next hok =>
        obtain ⟨rfl, rfl, rfl⟩ := hsame h
        exact ⟨_, 0, _, _, formed_unknown hother hok, exec_read_of_unknown hother _ s⟩
      · cases h
  case h_12 => cases h
  all_goals obtain ⟨rfl, rfl, rfl⟩ := hsame h
  case h_2 => exact ⟨true, 0, _, _, fun _ => rfl, rfl⟩
  case h_3 => exact ⟨_, 0, _, _, fun hf => formed_segment hf (.inl rfl), rfl⟩
  case h_4 => exact ⟨_, 0, _, _, fun hf => formed_segment hf (.inr rfl), rfl⟩
  case h_5 => exact ⟨true, 2, _, _, fun _ => rfl, rfl⟩
  case h_6 => exact ⟨true, 2, _, _, fun _ => rfl, rfl⟩
  case h_7 => exact ⟨_, 2, _, _, formed_commit, rfl⟩
  case h_8 => exact ⟨true, 2, _, _, fun _ => rfl, rfl⟩
  case h_9 => exact ⟨true, 2, _, _, fun _ => rfl, rfl⟩
  case h_10 => exact ⟨_, 2, _, _, formed_fleet, rfl⟩
  case h_11 => exact ⟨true, 0, _, _, fun _ => rfl, rfl⟩

/-! ### What `judge` comes to in the state after -/

section
variable {s : State} {n : Node} {fl : Leaf → Leaf} {fc : CS → CS} {g : Blk → Blk}

/-- A step that acts on the common part of a block alone stands in the state after. -/
theorem State.onNode_upd_num (hl : n = .leaf → fl s.leaf = leafEnv.upd s.leaf g) (hc : ∀ c, n = .chan c →
      fc { ch := s.chan c, sh := s.sh } = chanEnv.upd { ch := s.chan c, sh := s.sh } g) {k : Nat} (hk : isFaultKey k = false) :
    ((s.onNode n fl fc).blk n).num k = (g (s.blk n)).num k := by
  cases n with
  | leaf =>
    have h := State.onLeaf_own s fl
    rw [hl rfl] at h
    exact Leaf.num_of_own h k
  | chan c =>
    have h := State.onCS_own s c fc
    rw [hc c rfl] at h
    exact Chan.num_of_own h hk

theorem State.onNode_upd_out (hl : n = .leaf → fl s.leaf = leafEnv.upd s.leaf g) (hc : ∀ c, n = .chan c →
      fc { ch := s.chan c, sh := s.sh } = chanEnv.upd { ch := s.chan c, sh := s.sh } g) :
    (g (s.blk n)).out <+: ((s.onNode n fl fc).blk n).out := by
  cases n with
  | leaf =>
    have h := State.onLeaf_out s fl
    rw [hl rfl] at h
    exact h
  | chan c =>
    have h := State.onCS_out s c fc
    rw [hc c rfl] at h
    exact h

end

/-- A channel that runs passes a request for another node on, toward that node (R84). -/
theorem Chan.passReq_relays {c : Chan} {d : Word} {op : Nat} {q : Req} (hr : c.b.phase = .run) (hl : c.b.isLeaf = false)
    (hd : d ≠ 0xFFFFFFFF) : .relay (c.hopTo d) d op q ∈ (c.passReq d op q).b.out := by
  have hwatch : ∀ x : Chan, (x.watchReq d op q).b = x.b := by
    intro x
    unfold Chan.watchReq
    extract_lets p ws
    split
    · rfl
    · split <;> rfl
  rw [Chan.passReq, hwatch]
  show _ ∈ (c.b.passOn d (.relay (c.hopTo d) d op q)).out
  rw [Blk.passOn, if_pos ⟨hr, hl, hd⟩]
  exact List.mem_append_right _ (List.mem_singleton.mpr rfl)

theorem Blk.resp_mem_respond (b : Blk) (q : Req) (r : Resp) : .resp q.way r ∈ (b.respond q r).out :=
  List.mem_append_right _ (List.mem_singleton.mpr rfl)

end Sys2Proof.Machine

open Sys2Proof Sys2Proof.Machine

/-- Settles O12: each step of `judge` acts on the common part of the block alone, but for what a channel passes on. -/
theorem requestsAreJudgedInOrder : Obligations.RequestsAreJudgedInOrder := by
  unfold Obligations.RequestsAreJudgedInOrder
  intro s i n q op hi ha src
  obtain ⟨form, need, fl, fc, hform, hexec⟩ := asks_judged hi s
  have hrespond : ∀ (b : Blk → Blk) (r : Resp),
      (n = .leaf → judge leafEnv s.leaf op q form need fl = leafEnv.upd s.leaf (fun x => (b x).respond q r)) →
      (∀ c, n = .chan c → judge chanEnv { ch := s.chan c, sh := s.sh } op q form need fc =
        chanEnv.upd { ch := s.chan c, sh := s.sh } (fun x => (b x).respond q r)) →
      Runs i s (fun t => .resp q.way r ∈ (t.blk n).out) := fun b r hl hc =>
    ⟨_, hexec, (State.onNode_upd_out hl hc).subset (Blk.resp_mem_respond _ q r)⟩
  refine ⟨fun he => ⟨_, hexec, ?_⟩, fun he hm => ⟨fun c d hn hd hall hrun hl => ⟨_, hexec, ?_⟩, fun hn => ⟨_, hexec, ?_⟩⟩,
    fun he hm hw => ?_, fun he hm hw hf => ?_⟩
  · refine (State.onNode_upd_num (g := fun b => b.badEnvelope q.env) ?_ ?_ (by decide)).trans (Blk.counts_badEnvelope _ _)
    · rintro rfl
      exact judge_envelope (E := leafEnv) ha he
    · rintro c rfl
      exact judge_envelope (E := chanEnv) (s := { ch := s.chan c, sh := s.sh }) ha he
  · subst hn
    have hout := State.onCS_out s c (fun cs => judge chanEnv cs op q form need fc)
    have hpass : judge chanEnv { ch := s.chan c, sh := s.sh } op q form need fc =
        ({ ch := s.chan c, sh := s.sh } : CS).on (fun x => x.passReq d op q) := by
      refine (judge_foreign (E := chanEnv) (s := { ch := s.chan c, sh := s.sh }) ha he hm).trans ?_
      rw [hd]
      rfl
    rw [hpass] at hout
    exact hout.subset (Chan.passReq_relays hrun hl hall)
  · subst hn
    have hown := State.onLeaf_own s (fun l => judge leafEnv l op q form need fl)
    rw [show judge leafEnv s.leaf op q form need fl = s.leaf from judge_foreign (E := leafEnv) ha he hm] at hown
    exact hown
  · refine hrespond id _ ?_ ?_
    · rintro rfl
      exact judge_length (E := leafEnv) ha he hm hw
    · rintro c rfl
      exact judge_length (E := chanEnv) (s := { ch := s.chan c, sh := s.sh }) ha he hm hw
  · obtain rfl := hform hf
    refine ⟨fun m r hmem hr => ?_, fun m hmem hr ho => ?_, fun hnew hfull => ?_⟩
    · refine hrespond (fun b => { b with seqs := m :: b.seqs.filter (fun x => x.src != src) }) r ?_ ?_
      · rintro rfl
        exact judge_repeated (E := leafEnv) ha he hm hw hmem hr
      · rintro c rfl
        exact judge_repeated (E := chanEnv) (s := { ch := s.chan c, sh := s.sh }) ha he hm hw hmem hr
    · refine hrespond id _ ?_ ?_
      · rintro rfl
        exact judge_old (E := leafEnv) ha he hm hw hmem hr ho
      · rintro c rfl
        exact judge_old (E := chanEnv) (s := { ch := s.chan c, sh := s.sh }) ha he hm hw hmem hr ho
    · refine hrespond id _ ?_ ?_
      · rintro rfl
        exact judge_busy (E := leafEnv) ha he hm hw hnew hfull
      · rintro c rfl
        exact judge_busy (E := chanEnv) (s := { ch := s.chan c, sh := s.sh }) ha he hm hw hnew hfull

end


section
/-! PROOF. Requests of the mailbox and of the sideband, and where their responses go (R85, R86, R423). -/

namespace Sys2Proof.Machine

/-! ### The row that brings a request does not matter to its execution -/

/-- A request without an opcode of its own. -/
def plainReq (q : Req) : Req := { q with other := none }

section
variable {σ : Type} {E : Env σ} {s : σ} {op : Nat} {q : Req}

theorem judge_plain (hm : (E.blk s).mine op q = true) (form : Bool) (need : Nat) (run : σ → Word → Nat → Option SeqMem → σ) :
    judge E s op (plainReq q) form need run = judge E s op q form need run := by
  have hm' : (E.blk s).mine op (plainReq q) = true := hm
  unfold judge
  dsimp only
  rw [hm, hm']
  rfl

end

/-- A mailbox and a sideband request reach their own channel only (R85, R86). -/
theorem Blk.mine_of_way (b : Blk) (op : Nat) {q : Req} (hw : q.way = .host ∨ q.way = .sideband) : b.mine op q = true := by
  unfold Blk.mine
  rcases hw with hw | hw <;> rw [hw]

theorem CS.bivan_plain (cs : CS) (op : Nat) {q : Req} (hw : q.way = .host ∨ q.way = .sideband) : cs.bivan op (plainReq q) = cs.bivan op q := by
  have hm : ∀ o, (chanEnv.blk cs).mine o q = true := fun o => Blk.mine_of_way _ o hw
  have hread : doRead chanEnv cs (plainReq q) = doRead chanEnv cs q := judge_plain (hm opRead) _ _ _
  have hwrite : doWrite chanEnv cs (plainReq q) = doWrite chanEnv cs q := judge_plain (hm opWrite) _ _ _
  have hsegRead : doSegRead chanEnv cs (plainReq q) = doSegRead chanEnv cs q := judge_plain (hm opSegRead) _ _ _
  have hsegWrite : doSegWrite chanEnv cs (plainReq q) = doSegWrite chanEnv cs q := judge_plain (hm opSegWrite) _ _ _
  have hopen : doTxnOpen chanEnv cs (plainReq q) = doTxnOpen chanEnv cs q := judge_plain (hm opTxnOpen) _ _ _
  have hstage : doTxnStage chanEnv cs (plainReq q) = doTxnStage chanEnv cs q := judge_plain (hm opTxnStage) _ _ _
  have hcommit : doTxnCommit chanEnv cs (plainReq q) = doTxnCommit chanEnv cs q := judge_plain (hm opTxnCommit) _ _ _
  have habort : doTxnAbort chanEnv cs (plainReq q) = doTxnAbort chanEnv cs q := judge_plain (hm opTxnAbort) _ _ _
  have hstatus : doTxnStatus chanEnv cs (plainReq q) = doTxnStatus chanEnv cs q := judge_plain (hm opTxnStatus) _ _ _
  have hfleet : cs.fleetRequest (plainReq q) = cs.fleetRequest q := judge_plain (hm opFleetRequest) _ _ _
  have htoken : doTokenQuery chanEnv cs (plainReq q) = doTokenQuery chanEnv cs q := judge_plain (hm opTokenQuery) _ _ _
  have hunknown : doUnknown chanEnv cs op (plainReq q) = doUnknown chanEnv cs op q := judge_plain (hm op) _ _ _
  rw [CS.bivan, hread, hwrite, hsegRead, hsegWrite, hopen, hstage, hcommit, habort, hstatus, hfleet, htoken, hunknown]
  rfl

/-- Whatever its opcode, a request that a channel executes is judged. -/
theorem CS.bivan_judged (cs : CS) (op : Nat) (q : Req) : ∃ form need run, cs.bivan op q = judge chanEnv cs op q form need run := by
  have step : ∀ {o : Nat} {x y : CS}, (∃ form need run, x = judge chanEnv cs o q form need run) →
      (∃ form need run, y = judge chanEnv cs op q form need run) →
      ∃ form need run, (if op = o then x else y) = judge chanEnv cs op q form need run := by
    intro o x y hx hy
    by_cases h : op = o
    · rw [if_pos h, h]; exact hx
    · rw [if_neg h]; exact hy
  refine step ⟨_, _, _, rfl⟩ (step ⟨_, _, _, rfl⟩ (step ⟨_, _, _, rfl⟩ (step ⟨_, _, _, rfl⟩ (step ⟨_, _, _, rfl⟩ (step ⟨_, _, _, rfl⟩
    (step ⟨_, _, _, rfl⟩ (step ⟨_, _, _, rfl⟩ (step ⟨_, _, _, rfl⟩ (step ⟨_, _, _, rfl⟩ (step ⟨_, _, _, rfl⟩ ⟨_, _, _, rfl⟩))))))))))

/-- An opcode that no row of Table 3.9 has is executed as an unknown one. -/
theorem CS.bivan_unknown (cs : CS) {q : Req} {op : Byte} (ho : q.other = some op) (h : readOpOk q = true) :
    cs.bivan op.toNat q = doUnknown chanEnv cs op.toNat q := by
  rw [readOpOk, ho] at h
  simp only [List.contains_eq_mem, List.mem_cons, not_or, Bool.not_eq_true', decide_eq_false_iff_not] at h
  have step : ∀ {o : Nat} {x y z : CS}, op.toNat ≠ o → y = z → (if op.toNat = o then x else y) = z := fun h e => (if_neg h).trans e
  obtain ⟨h1, h2, h3, h4, h10, h11, h12, h13, h14, h20, h21, h23, h24, h26, h27, -⟩ := h
  exact step h1 (step h2 (step h3 (step h4 (step h10 (step h11 (step h12 (step h13 (step h14 (step h20 (step h26 rfl))))))))))

/-- A row that brings a request to a channel executes it. -/
theorem exec_asks {i : Instr} {c : Ch} {q : Req} {op : Nat} (h : i.asks = some (.chan c, q, op)) (s : State) :
    exec i s = .next (s.onCS c (fun cs => cs.bivan op q)) := by
  have hsame : ∀ {m : Node} {r : Req} {o : Nat}, some (m, r, o) = some (.chan c, q, op) → .chan c = m ∧ q = r ∧ op = o := by
    intro m r o e
    simpa using e.symm
  unfold Instr.asks at h
  split at h
  case h_1 =>
    split at h
    · next hknown =>
      obtain ⟨rfl, rfl, rfl⟩ := hsame h
      exact exec_read_of_known hknown _ s
    · next o hother =>
      split at h
      · next hok =>
        obtain ⟨rfl, rfl, rfl⟩ := hsame h
        rw [show (fun cs : CS => cs.bivan o.toNat q) = fun cs => doUnknown chanEnv cs o.toNat q from
          funext fun cs => CS.bivan_unknown cs hother hok]
        exact exec_read_of_unknown hother _ s
      · cases h
  case h_12 => cases h
  all_goals
    obtain ⟨rfl, rfl, rfl⟩ := hsame h
    rfl

end Sys2Proof.Machine
end


section
/-! PROOF. The mailbox and the sideband's queue of a channel around a command: where responses are delivered (R85, R86, R423). -/

namespace Sys2Proof.Machine

/-- The mailbox and the sideband's queue of a channel. -/
def Chan.ports (c : Chan) : Win × List (List Byte) := (c.win, c.side)

/-! ### What follows a command leaves the ports as the delivery of responses has them -/

theorem Chan.queueLog_ports (c : Chan) (d : List Byte) (p : Bool) (t : Nat) : (c.queueLog d p t).ports = c.ports := by
  unfold Chan.queueLog
  split <;> rfl

theorem Chan.wantFence_ports (c : Chan) (loc : Nat) : (c.wantFence loc).ports = c.ports := by
  unfold Chan.wantFence
  extract_lets leaf core auth
  split <;> rfl

theorem Chan.takeEvent_ports (c : Chan) (d : List Byte) (rep : Bool) : (c.takeEvent d rep).ports = c.ports := by
  unfold Chan.takeEvent
  extract_lets loc f c0 found e0 third
  split
  · exact Chan.queueLog_ports _ _ _ _
  · extract_lets turns logs e1 c1 c2
    have h2 : c2.ports = c.ports := by
      show (if logs then c1.queueLog d e1.perm (if turns then 2 else 1) else c1).ports = c.ports
      split
      · exact Chan.queueLog_ports _ _ _ _
      · rfl
    split
    · exact (Chan.wantFence_ports _ _).trans h2
    · exact h2

theorem Chan.drainFaults_ports (c : Chan) : c.drainFaults.ports = c.ports :=
  foldl_keeps Chan.ports _ (fun x _ => Chan.takeEvent_ports x _ _) _ _

theorem Chan.sendOp_ports (c : Chan) (r : Remote) : (c.sendOp r).ports = c.ports := by
  unfold Chan.sendOp
  split <;> rfl

theorem Chan.spreadAuthority_ports (c before : Chan) : (c.spreadAuthority before).ports = c.ports := by
  refine foldl_keeps Chan.ports _ (fun x p => ?_) _ _
  exact foldl_keeps Chan.ports _ (fun y r => Chan.sendOp_ports y _) _ _

theorem State.dropStale_ports (s : State) (node : Chan → Word) (l : List (Word × Word)) (c : Ch) :
    ((s.dropStale node l).chan c).ports = (s.chan c).ports := by
  rw [State.dropStale_chan]
  rfl

theorem State.promoteAll_ports (s : State) (c : Ch) : (s.promoteAll.chan c).ports = (s.chan c).ports := by
  have one : ∀ (x : State) (t : Word × Word), ((x.promoteOne t).chan c).ports = (x.chan c).ports := by
    intro x t
    simp only [State.promoteOne]
    split
    · rfl
    · simp only [State.chan, Quad.get_map]
      rfl
  exact foldl_keeps (fun x : State => (x.chan c).ports) _ one s.sh.currents s

theorem State.fanOut_ports (s : State) (c : Ch) : ((s.fanOut c).chan c).ports = (s.chan c).ports := by
  have one : ∀ (js : List FlashJob) (x : State) (d : Ch),
      ((x.putChan d ((x.chan d).onB (fun b => { b with jobs := b.jobs ++ js }))).chan c).ports = (x.chan c).ports := by
    intro js x d
    by_cases hd : c = d
    · subst hd
      rw [State.chan_putChan_same]
      rfl
    · rw [State.chan_putChan_ne _ _ hd]
  simp only [State.fanOut]
  split
  · rfl
  · show (State.chan (List.foldl _ _ _) c).ports = _
    refine (foldl_keeps (fun x : State => (x.chan c).ports) _ (one _) _ _).trans ?_
    show (State.chan _ c).ports = _
    rw [State.chan_putChan_same]
    rfl

/-! ### Delivery -/

/-- One thing that has left the block is delivered. -/
def Chan.deliverOne (c : Chan) (o : Out) : Chan :=
  match o with
  | .resp .host r => c.deliverHost r
  | .resp .sideband r => { c with side := c.side ++ [respBytes r] }
  | _ => c

theorem Chan.deliver_eq (c before : Chan) : c.deliver before = (c.newOut before).foldl Chan.deliverOne c := rfl

/-- Flash has no part in the delivery of responses. -/
theorem Chan.deliverOne_ports {x y : Chan} (h : x.ports = y.ports) (o : Out) : (x.deliverOne o).ports = (y.deliverOne o).ports := by
  have hwin : x.win = y.win := congrArg Prod.fst h
  have hside : x.side = y.side := congrArg Prod.snd h
  unfold Chan.deliverOne
  split
  · unfold Chan.deliverHost
    rw [hwin]
    split
    · exact h
    · exact Prod.ext rfl hside
  · exact Prod.ext hwin (congrArg (· ++ [respBytes _]) hside)
  · exact h

theorem Chan.foldl_deliverOne_ports (l : List Out) {x y : Chan} (h : x.ports = y.ports) :
    (l.foldl Chan.deliverOne x).ports = (l.foldl Chan.deliverOne y).ports := by
  induction l generalizing x y with
  | nil => exact h
  | cons o l ih => exact ih (Chan.deliverOne_ports h o)

theorem State.afterChan_ports (s : State) (c : Ch) (before : Chan) :
    ((s.afterChan c before).chan c).ports = ((s.chan c).deliver before).ports := by
  simp only [State.afterChan]
  generalize hs1 : State.dropStale (State.dropStale s _ _) _ _ = s1
  have hchan : s1.chan c = { s.chan c with flash := (s1.chan c).flash } := by
    rw [← hs1, State.dropStale_chan, State.dropStale_chan]
  have hdeliver : ((s1.chan c).deliver before).ports = ((s.chan c).deliver before).ports := by
    rw [hchan, Chan.deliver_eq, Chan.deliver_eq]
    exact Chan.foldl_deliverOne_ports _ rfl
  rw [State.settle_chan, State.dropStale_ports, State.dropStale_ports, State.promoteAll_ports, State.tellLeaf_chan, State.fanOut_ports]
  split
  · refine (congrArg Chan.ports (State.chan_putChan_same s1 c _)).trans ?_
    exact (Chan.spreadAuthority_ports _ _).trans ((Chan.drainFaults_ports _).trans hdeliver)
  · refine (congrArg Chan.ports (State.chan_putChan_same s1 c _)).trans ?_
    exact (Chan.spreadAuthority_ports _ _).trans ((Chan.drainFaults_ports _).trans hdeliver)

/-- The ports of a channel after a command that has put out one thing. -/
theorem State.onCS_ports {s : State} {c : Ch} (f : CS → CS) {o : Out}
    (h : (f { ch := s.chan c, sh := s.sh }).ch.b.out = (s.chan c).b.out ++ [o]) :
    ((s.onCS c f).chan c).ports = ((f { ch := s.chan c, sh := s.sh }).ch.deliverOne o).ports := by
  refine (State.afterChan_ports _ c _).trans ?_
  rw [State.chan_putChan_same, Chan.deliver_eq, Chan.newOut, h, List.drop_left]
  rfl

/-! ### The alert of the sideband (R428) -/

theorem State.settle_muted (s : State) : s.settle.sh.muted = s.sh.muted := by
  have hset : ∀ (x : Shared) (mv : Nat), (x.setTarget mv).muted = x.muted := by
    intro x mv
    unfold Shared.setTarget
    split <;> rfl
  have hraise : ∀ (x : Shared) (needs : List Nat), (x.raiseTarget needs).muted = x.muted := by
    intro x needs
    unfold Shared.raiseTarget
    extract_lets t
    split
    · exact hset _ _
    · rfl
  unfold State.settle
  split
  · rfl
  · refine (hraise _ _).trans ?_
    split <;> rfl

theorem State.promoteAll_muted (s : State) : s.promoteAll.sh.muted = s.sh.muted := by
  refine foldl_keeps (fun x : State => x.sh.muted) _ (fun x t => ?_) s.sh.currents s
  simp only [State.promoteOne]
  split <;> rfl

theorem State.fanOut_muted (s : State) (c : Ch) : (s.fanOut c).sh.muted = s.sh.muted := by
  simp only [State.fanOut]
  split
  · rfl
  · show (List.foldl _ _ _ : State).sh.muted = _
    refine foldl_keeps (fun x : State => x.sh.muted) _ (fun x d => ?_) _ _
    rfl

/-- A sideband response that has become ready raises the alert again. -/
theorem State.onCS_muted {s : State} {c : Ch} (f : CS → CS) {r : Resp}
    (h : (f { ch := s.chan c, sh := s.sh }).ch.b.out = (s.chan c).b.out ++ [.resp .sideband r]) : (s.onCS c f).sh.muted = false := by
  rw [State.onCS]
  simp only [State.afterChan]
  rw [State.settle_muted, State.dropStale_sh, State.dropStale_sh, State.promoteAll_muted, State.tellLeaf_sh, State.fanOut_muted, if_pos]
  rw [State.dropStale_chan, State.dropStale_chan, State.chan_putChan_same, Chan.newSide, Chan.newOut, h, List.drop_left]
  rfl

end Sys2Proof.Machine
end


section
/-! PROOF. The host port: the registers of a channel's window, and the mailbox (R418 to R423, O59). -/

namespace Sys2Proof.Machine

/-! ### Accesses to a window -/

section
variable {s : State} {c : Ch} (hp : s.sh.powered = true)
include hp

theorem State.hostErr_eq : s.hostErr = { s with sh := s.sh.emit (.host 0 true) } := if_pos hp

/-- An access that is refused with hp_err changes nothing. -/
theorem State.hostErr_refuses : s.hostErr.leaf = s.leaf ∧ s.hostErr.ch = s.ch ∧ .host 0 true ∈ s.hostErr.sh.out := by
  rw [State.hostErr_eq hp]
  exact ⟨rfl, rfl, List.mem_append_right _ (List.mem_singleton.mpr rfl)⟩

theorem State.onWin_silent (ha : (s.chan c).answersHost = false) (f : Chan → Chan × Nat × Bool) : s.onWin c f = s.hostErr := by
  rw [State.onWin, hp, ha]
  rfl

theorem State.ctrlWrite_silent (ha : (s.chan c).answersHost = false) (d : Nat) : s.ctrlWrite c d = s.hostErr := by
  rw [State.ctrlWrite, State.onWin_silent hp ha, ha, Bool.and_false, Bool.false_and]
  rfl

variable (ha : (s.chan c).answersHost = true)
include ha

theorem State.onWin_answers {f : Chan → Chan × Nat × Bool} {y : Chan} {d : Nat} {e : Bool} (hf : f (s.chan c) = (y, d, e)) :
    s.onWin c f = { s.putChan c y with sh := s.sh.emit (.host d e) } := by
  unfold State.onWin
  extract_lets r
  have hr : r = (y, d, e) := hf
  rw [hp, ha, hr]
  exact if_pos hp

/-- An access that the window takes acts on its channel alone. -/
theorem State.onWin_done {f : Chan → Chan × Nat × Bool} {y : Chan} {d : Nat} (hf : f (s.chan c) = (y, d, false)) :
    (s.onWin c f).leaf = s.leaf ∧ (∀ e, e ≠ c → (s.onWin c f).chan e = s.chan e) ∧ .host d false ∈ (s.onWin c f).sh.out ∧
    (s.onWin c f).chan c = y := by
  rw [State.onWin_answers hp ha hf]
  exact ⟨rfl, fun e he => State.chan_putChan_ne s y he, List.mem_append_right _ (List.mem_singleton.mpr rfl),
    State.chan_putChan_same s c y⟩

theorem State.onWin_refuses {f : Chan → Chan × Nat × Bool} (hf : f (s.chan c) = (s.chan c, 0, true)) :
    (s.onWin c f).leaf = s.leaf ∧ (s.onWin c f).ch = s.ch ∧ .host 0 true ∈ (s.onWin c f).sh.out := by
  rw [State.onWin_answers hp ha hf, State.putChan_self]
  exact ⟨rfl, rfl, List.mem_append_right _ (List.mem_singleton.mpr rfl)⟩

/-- MAILBOX_GO is the go bit of HP_MBX_CTRL alone. -/
theorem State.goWrite_eq : s.goWrite c = ({ s with sh := s.sh.emit (.host 0 false) } : State).mailboxGo c := by
  have hwin : s.onWin c (fun x =>
      let x1 : Chan := if bit 1 4 then { x with win := { x.win with goRefused := false } } else x
      (if bit 1 2 then x1.rspDone else x1, 0, false)) = { s with sh := s.sh.emit (.host 0 false) } := by
    rw [State.onWin_answers hp ha (y := s.chan c) (d := 0) (e := false) rfl, State.putChan_self]
  unfold State.goWrite State.ctrlWrite
  extract_lets s1
  have hs1 : s1 = { s with sh := s.sh.emit (.host 0 false) } := hwin
  rw [hp, ha, hs1]
  rfl

/-- MAILBOX_RSP_DONE is the bit of HP_MBX_CTRL that ends a response. -/
theorem State.rspDone_eq : s.ctrlWrite c 4 = s.onWin c (fun x => (x.rspDone, 0, false)) := by
  unfold State.ctrlWrite
  extract_lets s1
  rw [hp, ha]
  rfl

end

/-! ### The registers of a window -/

/-- An offset that is not written: unmapped, read-only, or HP_MBX_CTRL, which acts. -/
theorem Chan.winWrite_other (c : Chan) {off d : Nat} (h : off ∉ [0x10, 0x14, 0x18, 0x1C, 0x20, 0x24, 0x2C, 0x30, 0x34]) :
    c.winWrite off d = (c, 0, true) := by
  simp only [List.mem_cons, List.not_mem_nil, or_false, not_or] at h
  obtain ⟨h10, h14, h18, h1c, -, h24, h2c, h30, h34⟩ := h
  exact (if_neg h10).trans ((if_neg h14).trans ((if_neg h18).trans ((if_neg h1c).trans ((if_neg h24).trans ((if_neg h2c).trans
    ((if_neg h30).trans (if_neg h34)))))))

/-- The mailbox's registers while it is busy. -/
theorem Chan.winWrite_busy {c : Chan} (hb : c.win.busy = true) {off d : Nat} (h : off ∈ [0x24, 0x2C, 0x34]) :
    c.winWrite off d = (c, 0, true) := by
  simp only [List.mem_cons, List.not_mem_nil, or_false] at h
  rcases h with rfl | rfl | rfl
  · exact if_pos hb
  · exact if_pos hb
  · exact if_pos hb

theorem Chan.winWrite_reqLen {c : Chan} (hb : c.win.busy = false) (d : Nat) :
    c.winWrite 0x24 d = ({ c with win := { c.win with reqLen := d % 2 ^ 14 } }, 0, false) := if_neg (by rw [hb]; decide)

theorem Chan.winWrite_wptr {c : Chan} (hb : c.win.busy = false) (d : Nat) :
    c.winWrite 0x2C d = ({ c with win := { c.win with wptr := d / 4 % 2048 } }, 0, false) := if_neg (by rw [hb]; decide)

theorem Chan.winWrite_evtEnable (c : Chan) (d : Word) :
    c.winWrite 0x14 d.toNat = ({ c with win := { c.win with evtEnable := d.setWidth 8 } }, 0, false) := by
  rw [← BitVec.ofNat_toNat]
  rfl

theorem Chan.winWrite_errEnable (c : Chan) (d : Word) :
    c.winWrite 0x1C d.toNat = ({ c with win := { c.win with errEnable := d.setWidth 8 } }, 0, false) := by
  rw [← BitVec.ofNat_toNat]
  rfl

/-- A bit of a status register that has been written (R422): a cause in the same cycle sets it over a clear. -/
theorem getLsbD_cleared (old : BitVec 8) (clear sets : Word) {i : Nat} (hi : i < 8) :
    ((old &&& ~~~(BitVec.ofNat 8 clear.toNat)) ||| BitVec.ofNat 8 sets.toNat).getLsbD i =
      (sets.getLsbD i || (old.getLsbD i && !clear.getLsbD i)) := by
  simp [hi, Bool.or_comm]

theorem Chan.mbxWrite_free {c : Chan} (hb : c.win.busy = false) (d : Nat) : c.mbxWrite d = ({ c with
    win := { c.win with req := mset (fun _ => 0) c.win.req c.win.wptr d, wptr := (c.win.wptr + 1) % 2048 } }, 0, false) :=
  if_neg (by rw [hb]; decide)

theorem Chan.mbxWrite_busy {c : Chan} (hb : c.win.busy = true) (d : Nat) : c.mbxWrite d = (c, 0, true) := if_pos hb

/-! ### Addresses -/

theorem find_window (d : Ch) : allCh.find? (fun c => decide (c.val = d.val)) = some d := by
  revert d
  decide

theorem State.hostWrite_outside {s : State} {addr d : Nat} (h : addr % 4 ≠ 0 ∨ addr < 0x1000 ∨ 0x5000 ≤ addr) : s.hostWrite addr d = s.hostErr :=
  if_pos h

/-- A write of a register of a channel's window. -/
theorem State.hostWrite_window {s : State} {c : Ch} {addr off d : Nat} (h : addr = 0x1000 * (c.val + 1) + off) (ho : off < 0x1000)
    (h4 : off % 4 = 0) : s.hostWrite addr d = if off = 0x20 then s.ctrlWrite c d else s.onWin c (fun x => x.winWrite off d) := by
  have hc := c.isLt
  have hplace : addr / 0x1000 - 1 = c.val := by omega
  have hoff : addr % 0x1000 = off := by omega
  rw [State.hostWrite, if_neg (by omega), hplace, find_window]
  dsimp only
  rw [hoff]

/-! ### The mailbox -/

theorem mget_putWords_below (m : NMap Nat) (ws : List Nat) {i j : Nat} (h : i < j) :
    mget (fun _ => 0) (putWords m j ws) i = mget (fun _ => 0) m i := by
  induction ws generalizing m j with
  | nil => rfl
  | cons w ws ih =>
    rw [putWords, ih _ (by omega)]
    exact mget_mset_ne _ _ _ (by omega)

/-- The words of a message stand in the buffer in order. -/
theorem mget_putWords_pieces (fuel : Nat) (d : List Byte) (m : NMap Nat) (j k : Nat) (hf : d.length ≤ fuel) (hk : k * 4 < d.length) :
    mget (fun _ => 0) (putWords m j ((piecesAux 4 fuel d).map leNat)) (j + k) = leAt d (k * 4) 4 := by
  induction fuel generalizing d m j k with
  | zero => omega
  | succ fuel ih =>
    cases d with
    | nil => exact absurd hk (by simp)
    | cons b d =>
      show mget (fun _ => 0) (putWords m j (leNat ((b :: d).take 4) :: (piecesAux 4 fuel ((b :: d).drop 4)).map leNat)) (j + k) = _
      rw [putWords]
      cases k with
      | zero =>
        show mget (fun _ => 0) (putWords _ (j + 1) _) j = _
        rw [mget_putWords_below _ _ (show j < j + 1 by omega), mget_mset_same]
        rfl
      | succ k =>
        have hlen : ((b :: d).drop 4).length = (b :: d).length - 4 := List.length_drop
        rw [show j + (k + 1) = j + 1 + k by omega, ih _ _ _ _ (by simp at hf ⊢; omega) (by omega)]
        rw [leAt, leAt, slice, slice, List.drop_drop, show (k + 1) * 4 = 4 + k * 4 by omega]

theorem State.mailboxGo_refuses {s : State} {c : Ch} (h : (s.chan c).win.busy = true ∨ (s.chan c).win.rspReady = true) :
    s.mailboxGo c = s.putChan c { s.chan c with win := { (s.chan c).win with goRefused := true } } := by
  refine if_pos ?_
  rcases h with h | h
  · rw [h, Bool.true_or]
  · rw [h, Bool.or_true]

/-- The channel whose mailbox executes a request. -/
def Chan.executing (c : Chan) : Chan := { c with win := { c.win with busy := true } }

/-- The response that a request of another length gets. -/
def Chan.lengthResp (c : Chan) : Resp :=
  bare c.b.hostAddr (parseReq .host c.b.hostAddr (c.win.request 16)).1 stLength (parseReq .host c.b.hostAddr (c.win.request 16)).2

section
variable {s : State} {c : Ch} {x : Chan} (hx : s.chan c = x) (hb : x.win.busy = false) (hr : x.win.rspReady = false)
include hx hb hr

/-- The request of a length that the mailbox takes is executed as a message from the host port. -/
theorem State.mailboxGo_executes (hlen : mbxLenOk x.win.reqLen = true) {op : Nat} {q : Req}
    (hq : parseReq .host x.b.hostAddr (x.win.request x.win.reqLen) = (op, q)) :
    s.mailboxGo c = (s.putChan c x.executing).onCS c (fun cs => cs.bivan op q) := by
  subst hx
  unfold State.mailboxGo
  extract_lets x n win busy s1 m m'
  have hm : m = (op, q) := hq
  rw [if_neg (by show ¬ ((s.chan c).win.busy || (s.chan c).win.rspReady) = true; rw [hb, hr]; decide), hm]
  exact if_pos hlen

theorem State.mailboxGo_length (hlen : mbxLenOk x.win.reqLen = false) :
    s.mailboxGo c = (s.putChan c x.executing).onCS c (fun cs => cs.on (fun y => y.deliverHost x.lengthResp)) := by
  subst hx
  unfold State.mailboxGo
  extract_lets x n win busy s1 m m'
  rw [if_neg (by show ¬ ((s.chan c).win.busy || (s.chan c).win.rspReady) = true; rw [hb, hr]; decide)]
  exact if_neg (by show ¬ mbxLenOk (s.chan c).win.reqLen = true; rw [hlen]; decide)

end

/-- The window in which a response stands. -/
def Win.answered (w : Win) (d : List Byte) : Win :=
  { w with busy := false, rspReady := true, rspLen := d.length, rsp := putWords w.rsp 0 ((pieces 4 d).map leNat) }

theorem Chan.deliverHost_busy {c : Chan} (hb : c.win.busy = true) (r : Resp) :
    c.deliverHost r = { c with win := c.win.answered (respBytes r), b := (c.b.raiseEvt irqMailbox).emit .mailbox } :=
  if_neg (by rw [hb]; decide)

/-- The response to a request of a wrong length stands in the mailbox. -/
theorem State.onCS_lengthResp {s : State} {c : Ch} (hb : (s.chan c).win.busy = true) (r : Resp) :
    ((s.onCS c (fun cs => cs.on (fun y => y.deliverHost r))).chan c).win = (s.chan c).win.answered (respBytes r) := by
  have heq : (s.chan c).deliverHost r =
      { s.chan c with win := (s.chan c).win.answered (respBytes r), b := ((s.chan c).b.raiseEvt irqMailbox).emit .mailbox } :=
    Chan.deliverHost_busy hb r
  have hout : ((s.chan c).b.raiseEvt irqMailbox).out = (s.chan c).b.out := by
    unfold Blk.raiseEvt
    split <;> rfl
  have h := State.onCS_ports (s := s) (c := c) (fun cs => cs.on (fun y => y.deliverHost r)) (o := .mailbox) (by
    show ((s.chan c).deliverHost r).b.out = _
    rw [heq]
    exact congrArg (· ++ [Out.mailbox]) hout)
  refine (congrArg Prod.fst h).trans ?_
  show ((s.chan c).deliverHost r).win = _
  rw [heq]

theorem exec_hostRegisterWrite (addr : BitVec 16) (d : Word) (s : State) :
    exec (.hostRegisterWrite addr d) s = .next (s.hostWrite addr.toNat d.toNat) := rfl

theorem exec_frameLoRead (c : Ch) (s : State) : exec (.frameLoRead c) s = .next (s.onWin c Chan.frameLo) := rfl

theorem exec_mailboxDataWrite (c : Ch) (d : Word) (s : State) :
    exec (.mailboxDataWrite c d) s = .next (s.onWin c (fun x => x.mbxWrite d.toNat)) := rfl

theorem exec_mailboxDataRead (c : Ch) (s : State) : exec (.mailboxDataRead c) s = .next (s.onWin c Chan.mbxRead) := rfl

theorem exec_mailboxRspDone (c : Ch) (s : State) : exec (.mailboxRspDone c) s = .next (s.ctrlWrite c 4) := rfl

theorem exec_mailboxGo (c : Ch) (s : State) : exec (.mailboxGo c) s = .next (s.goWrite c) := rfl

theorem exec_interruptClear (c : Ch) (err : Bool) (clear sets : Word) (s : State) : exec (.interruptClear c err clear sets) s =
    .next (s.onWin c (fun x => (x.irqClear err clear.toNat sets.toNat, 0, false))) := rfl

end Sys2Proof.Machine

open Sys2Proof Sys2Proof.Machine

/-- Settles O59: an access to a window is refused or acts on its channel alone, and the mailbox executes or answers. -/
theorem hostPortAnswers : Obligations.HostPortAnswers := by
  unfold Obligations.HostPortAnswers
  refine ⟨fun s c hp => ?_, fun s c hp ha => ?_⟩
  · intro x refused done
    have hdone : ∀ {i : Instr} {f : Chan → Chan × Nat × Bool} {y : Chan} {d : Nat}, exec i s = .next (s.onWin c f) →
        x.answersHost = true → f x = (y, d, false) → Runs i s (fun t => done t d y) :=
      fun hi ha hf => ⟨_, hi, State.onWin_done hp ha hf⟩
    refine ⟨fun addr d => ⟨fun hout => ?_, fun off hoff hlt => ⟨fun hbad => ?_, fun ha => ?_⟩⟩, fun ha => ?_⟩
    · refine ⟨_, exec_hostRegisterWrite addr d s, ?_⟩
      rw [State.hostWrite_outside hout]
      exact State.hostErr_refuses hp
    · refine ⟨_, exec_hostRegisterWrite addr d s, ?_⟩
      by_cases h4 : off % 4 = 0
      · rw [State.hostWrite_window hoff hlt h4]
        cases ha : (s.chan c).answersHost with
        | false =>
          rw [State.ctrlWrite_silent hp ha, State.onWin_silent hp ha, ite_self]
          exact State.hostErr_refuses hp
        | true =>
          rcases hbad with hsilent | hmap | ⟨hbusy, hmbx⟩
          · exact absurd (ha.symm.trans hsilent) (by decide)
          · rw [if_neg (fun h => hmap (by rw [h]; decide))]
            exact State.onWin_refuses hp ha (Chan.winWrite_other _ hmap)
          · rw [if_neg (fun h => by rw [h] at hmbx; exact absurd hmbx (by decide))]
            exact State.onWin_refuses hp ha (Chan.winWrite_busy hbusy hmbx)
      · rw [State.hostWrite_outside (.inl (by omega))]
        exact State.hostErr_refuses hp
    · have hwin : ∀ o, off = o → o % 4 = 0 → o ≠ 0x20 →
          exec (.hostRegisterWrite addr d) s = .next (s.onWin c (fun x => x.winWrite o d.toNat)) := by
        rintro o rfl h4 h20
        rw [exec_hostRegisterWrite, State.hostWrite_window hoff hlt h4, if_neg h20]
      refine ⟨fun h => hdone (hwin _ h (by decide) (by decide)) ha (Chan.winWrite_evtEnable _ d),
        fun h => hdone (hwin _ h (by decide) (by decide)) ha (Chan.winWrite_errEnable _ d),
        fun h => hdone (hwin _ h (by decide) (by decide)) ha rfl,
        fun hb h => hdone (hwin _ h (by decide) (by decide)) ha (Chan.winWrite_reqLen hb _),
        fun hb h => hdone (hwin _ h (by decide) (by decide)) ha (Chan.winWrite_wptr hb _), fun h => ?_⟩
      obtain ⟨t, ht, hleaf, hothers, hout, hchan⟩ := hdone (hwin _ h (by decide) (by decide)) ha rfl
      refine ⟨t, ht, ⟨hleaf, hothers, hout, rfl⟩, ?_⟩
      rw [hchan]
      show (x.b.evt &&& ~~~(BitVec.ofNat 8 d.toNat)) ||| BitVec.ofNat 8 0 = _
      rw [BitVec.ofNat_toNat]
      exact BitVec.or_zero
    · refine ⟨hdone (exec_frameLoRead c s) ha rfl, fun d hb => ?_, fun d hb => ?_, hdone (exec_mailboxDataRead c s) ha rfl, ?_,
        fun clear sets => ⟨?_, ?_⟩⟩
      · obtain ⟨t, ht, hleaf, hothers, hout, hchan⟩ := hdone (exec_mailboxDataWrite c d s) ha (Chan.mbxWrite_free hb _)
        refine ⟨t, ht, ⟨hleaf, hothers, hout, rfl⟩, ?_⟩
        rw [hchan]
        exact ⟨rfl, mget_mset_same _ _ _ _, rfl⟩
      · exact ⟨_, exec_mailboxDataWrite c d s, State.onWin_refuses hp ha (Chan.mbxWrite_busy hb _)⟩
      · exact hdone ((exec_mailboxRspDone c s).trans (congrArg _ (State.rspDone_eq hp ha))) ha rfl
      · obtain ⟨t, ht, hleaf, hothers, hout, hchan⟩ := hdone (exec_interruptClear c false clear sets s) ha rfl
        refine ⟨t, ht, ⟨hleaf, hothers, hout, rfl⟩, ?_⟩
        rw [hchan]
        exact ⟨rfl, rfl, fun i hi => getLsbD_cleared _ _ _ hi⟩
      · obtain ⟨t, ht, hleaf, hothers, hout, hchan⟩ := hdone (exec_interruptClear c true clear sets s) ha rfl
        refine ⟨t, ht, ⟨hleaf, hothers, hout, rfl⟩, ?_⟩
        rw [hchan]
        exact ⟨rfl, rfl, fun i hi => getLsbD_cleared _ _ _ hi⟩
  · intro x
    have hgo := (exec_mailboxGo c s).trans (congrArg _ (State.goWrite_eq hp ha))
    refine ⟨fun h => ⟨_, hgo, ?_⟩, fun hb hr => ⟨fun hlen hleaf => ?_, fun hlen i q op hi hparse => ?_⟩⟩
    · rw [State.mailboxGo_refuses (s := { s with sh := s.sh.emit (.host 0 false) }) h]
      exact ⟨rfl, fun d hd => State.chan_putChan_ne _ _ hd, State.chan_putChan_same _ _ _⟩
    · intro m bytes
      refine ⟨_, hgo, ?_⟩
      rw [State.mailboxGo_length (s := { s with sh := s.sh.emit (.host 0 false) }) (x := x) rfl hb hr hlen]
      generalize hs1 : State.putChan _ c _ = s1
      have hchan : s1.chan c = x.executing := by rw [← hs1]; exact State.chan_putChan_same _ _ _
      have hbusy : (s1.chan c).win.busy = true := by rw [hchan]; rfl
      have hwin := State.onCS_lengthResp hbusy x.lengthResp
      obtain ⟨hleafs, -, hothers⟩ := State.onCS_beside s1 c (fun cs => cs.on (fun y => y.deliverHost x.lengthResp)) rfl
      have hevt := State.onCS_evt s1 c (fun cs => cs.on (fun y => y.deliverHost x.lengthResp))
      refine ⟨hleafs.trans (by rw [← hs1]; rfl), fun d hd => (hothers d hd).trans (by rw [← hs1]; exact congrArg _ (State.chan_putChan_ne _ _ hd)),
        by rw [hwin]; rfl, by rw [hwin]; rfl, by rw [hwin]; rfl, hevt _ ?_, fun k hk => ?_⟩
      · show ((s1.chan c).deliverHost x.lengthResp).b.evt.getLsbD irqMailbox = true
        rw [Chan.deliverHost_busy hbusy, hchan]
        exact Blk.raiseEvt_set (b := x.b) hleaf (by decide)
      · rw [hwin]
        have h := mget_putWords_pieces bytes.length bytes (s1.chan c).win.rsp 0 k (Nat.le_refl _) hk
        rw [Nat.zero_add] at h
        exact h
    · refine ⟨_, hgo, ?_⟩
      have hway : q.way = .host := (congrArg (fun p : Nat × Req => p.2.way) hparse).symm
      rw [State.mailboxGo_executes (s := { s with sh := s.sh.emit (.host 0 false) }) (x := x) rfl hb hr hlen hparse, exec_asks hi]
      have hplain : (fun cs : CS => cs.bivan op { q with other := none }) = fun cs => cs.bivan op q :=
        funext fun cs => CS.bivan_plain cs op (.inl hway)
      rw [hplain]
      rfl

end


section
/-! PROOF. The sideband and test access (R86, R428, R429, O60). -/

namespace Sys2Proof.Machine

/-! ### Command codes of the sideband -/

theorem smbChan_request (c : Ch) : smbChan 0xB0 (0xB0 + 2 * c.val) = some c := by
  revert c
  decide

theorem smbChan_response (c : Ch) : smbChan 0xB1 (0xB1 + 2 * c.val) = some c := by
  revert c
  decide

theorem smbChan_other {cmd : Nat} (h : cmd ∉ [0xB0, 0xB2, 0xB4, 0xB6]) : smbChan 0xB0 cmd = none := by
  rw [smbChan, List.find?_eq_none]
  intro c _
  rw [decide_eq_true_eq]
  intro hc
  have hlt := c.isLt
  have hmem : ∀ d : Ch, 0xB0 + 2 * d.val ∈ [0xB0, 0xB2, 0xB4, 0xB6] := by decide
  exact h (hc ▸ hmem c)

/-- A block that is discarded changes nothing. -/
theorem State.smbWrite_discards (s : State) {cmd : Nat} {d : List Byte} {pec : Bool}
    (h : pec = false ∨ 255 < d.length ∨ cmd ∉ [0xB0, 0xB2, 0xB4, 0xB6]) : s.smbWrite cmd d pec = s := by
  unfold State.smbWrite
  split
  · rfl
  · next hok =>
    rcases h with hpec | hlen | hcmd
    · exact absurd (by rw [hpec, Bool.not_false, Bool.or_true, Bool.true_or]) hok
    · exact absurd (by rw [decide_eq_true hlen, Bool.or_true]) hok
    · rw [smbChan_other hcmd]

section
variable {s : State} {c : Ch} {cmd : Nat} {d : List Byte} (hp : s.sh.powered = true) (hcmd : cmd = 0xB0 + 2 * c.val) (hlen : d.length ≤ 255)
include hp hcmd hlen

/-- A block of at least a header is a request. -/
theorem State.smbWrite_request (h16 : 16 ≤ d.length) {op : Nat} {q : Req} (hq : parseReq .sideband (s.chan c).b.sideAddr d = (op, q)) :
    s.smbWrite cmd d true = s.onCS c (fun cs => cs.bivan op q) := by
  have hok : ¬ (!s.sh.powered || !true || decide (255 < d.length)) = true := by
    rw [hp, decide_eq_false (Nat.not_lt.mpr hlen)]
    decide
  subst hcmd
  rw [State.smbWrite, if_neg hok, smbChan_request]
  dsimp only
  rw [if_neg (by omega), hq]

/-- A block shorter than a header. -/
theorem State.smbWrite_short (h16 : d.length < 16) :
    s.smbWrite cmd d true = s.onCS c (fun cs => cs.bivan (parseShort .sideband (s.chan c).b.sideAddr d).1
      (parseShort .sideband (s.chan c).b.sideAddr d).2) := by
  have hok : ¬ (!s.sh.powered || !true || decide (255 < d.length)) = true := by
    rw [hp, decide_eq_false (Nat.not_lt.mpr hlen)]
    decide
  subst hcmd
  rw [State.smbWrite, if_neg hok, smbChan_request]
  dsimp only
  rw [if_pos h16]

end

/-- The parts of a message shorter than a header do not add up to its length. -/
theorem whole_parseShort {way : Way} {src : Word} {d : List Byte} (h : d.length < 16) : whole (parseShort way src d).2 = false := by
  have hsize : ¬ reqSize (parseShort way src d).2 = (parseShort way src d).2.env.carried := by
    intro he
    have hcarried : (parseShort way src d).2.env.carried = d.length := rfl
    have hleast : 16 ≤ reqSize (parseShort way src d).2 := by
      unfold reqSize
      omega
    omega
  rw [whole, sumsOk, decide_eq_false hsize, Bool.false_and, Bool.false_and, Bool.false_and]

/-- The answer to a block shorter than a header. -/
def Blk.shortResp (b : Blk) (d : List Byte) : Resp :=
  bare (b.srcOf (parseReq .sideband b.sideAddr (fitTo 16 d)).2) (parseReq .sideband b.sideAddr (fitTo 16 d)).1 stLength
    (parseReq .sideband b.sideAddr (fitTo 16 d)).2

/-- A request shorter than a header is answered LENGTH, whatever its opcode. -/
theorem CS.bivan_short {cs : CS} {d : List Byte} (h : d.length < 16)
    (ha : cs.ch.b.answering (parseReq .sideband cs.ch.b.sideAddr (fitTo 16 d)).2 = true) :
    cs.bivan (parseShort .sideband cs.ch.b.sideAddr d).1 (parseShort .sideband cs.ch.b.sideAddr d).2 =
      chanEnv.upd cs (fun b => b.emit (.resp .sideband (cs.ch.b.shortResp d))) := by
  obtain ⟨form, need, run, hj⟩ := CS.bivan_judged cs (parseShort .sideband cs.ch.b.sideAddr d).1 (parseShort .sideband cs.ch.b.sideAddr d).2
  rw [hj]
  exact judge_length (E := chanEnv) ha rfl (Blk.mine_of_way _ _ (.inr rfl)) (whole_parseShort h)

/-- A sideband response that a command sends stands in the channel's queue, and the alert is raised. -/
theorem State.onCS_answers {s : State} {c : Ch} {f : CS → CS} {r : Resp} (h : f { ch := s.chan c, sh := s.sh } =
    chanEnv.upd { ch := s.chan c, sh := s.sh } (fun b => b.emit (.resp .sideband r))) :
    State.beside c s (s.onCS c f) ∧ (s.onCS c f).sh.muted = false ∧ respBytes r ∈ ((s.onCS c f).chan c).side := by
  have hout : (f { ch := s.chan c, sh := s.sh }).ch.b.out = (s.chan c).b.out ++ [.resp .sideband r] := by
    rw [h]
    rfl
  refine ⟨State.onCS_beside s c f (by rw [h]; rfl), State.onCS_muted f hout, ?_⟩
  have hside : ((s.onCS c f).chan c).side = (s.chan c).side ++ [respBytes r] := by
    have hports := congrArg Prod.snd (State.onCS_ports f hout)
    rw [h] at hports
    exact hports
  rw [hside]
  exact List.mem_append_right _ (List.mem_singleton.mpr rfl)

/-! ### Test access -/

/-- The data register that an instruction selects in a build. -/
def State.tapRegOf (s : State) (n : Node) (ir : Byte) : TapReg :=
  match n with
  | .leaf => tapReg ir.toNat (s.leaf.b.phase != .asserted) (s.leaf.b.num K.instrumentsEnabled == 1)
  | .chan c => tapReg ir.toNat s.sh.powered ((s.chan c).b.num K.instrumentsEnabled == 1)

/-- The build has a leaf's identification. -/
def isLeafBuild (n : Node) : Bool := match n with | .leaf => true | .chan _ => false

/-- What leaves the build's test access port. -/
def State.tapOut (t : State) (n : Node) : List Out := match n with | .leaf => t.leaf.b.out | .chan _ => t.sh.out

/-- An instruction captures its data register. -/
theorem State.tap_captures (s : State) (n : Node) (ir : Byte) :
    ∃ v, .tap (s.tapRegOf n ir) (tapCapture (s.tapRegOf n ir) (isLeafBuild n) v) ∈ (s.tap n ir).tapOut n := by
  cases n with
  | leaf => exact ⟨_, List.mem_append_right _ (List.mem_singleton.mpr rfl)⟩
  | chan c => exact ⟨_, List.mem_append_right _ (List.mem_singleton.mpr rfl)⟩

/-- An instruction that selects a register with a fixed capture. -/
theorem State.tap_fixed {s : State} {n : Node} {ir : Byte} {r : TapReg} {k : Nat} (hr : s.tapRegOf n ir = r)
    (hk : ∀ v, tapCapture r (isLeafBuild n) v = k) : .tap r k ∈ (s.tap n ir).tapOut n := by
  obtain ⟨v, hv⟩ := State.tap_captures s n ir
  rw [hr, hk] at hv
  exact hv

theorem State.tap_open {s : State} {n : Node} {ir : Byte} {r : TapReg} (hr : s.tapRegOf n ir = r) : ∃ v, .tap r v ∈ (s.tap n ir).tapOut n := by
  obtain ⟨v, hv⟩ := State.tap_captures s n ir
  rw [hr] at hv
  exact ⟨_, hv⟩

theorem tapReg_other {ir : Byte} (h : ir ∉ [0x00, 0x01, 0x02, 0x20]) (high ijtag : Bool) : tapReg ir.toNat high ijtag = .bypass := by
  have hne : ∀ k : Byte, k ∈ [(0x00 : Byte), 0x01, 0x02, 0x20] → ir.toNat ≠ k.toNat :=
    fun k hk e => h (BitVec.eq_of_toNat_eq e ▸ hk)
  exact (if_neg (hne 0x00 (by decide))).trans ((if_neg (hne 0x01 (by decide))).trans ((if_neg (hne 0x02 (by decide))).trans
    (if_neg (hne 0x20 (by decide)))))

theorem exec_smbusBlockWrite (cmd : Byte) (d : List Byte) (pec : Bool) (s : State) :
    exec (.smbusBlockWrite cmd d pec) s = .next (s.smbWrite cmd.toNat d pec) := rfl

theorem exec_smbusBlockRead (cmd : Byte) (s : State) : exec (.smbusBlockRead cmd) s = .next (s.smbRead cmd.toNat) := rfl

theorem exec_smbusAlertResponse (s : State) : exec .smbusAlertResponse s = .next s.alertResponse := rfl

theorem exec_smbusClockLowTimeout (s : State) : exec .smbusClockLowTimeout s = .next s.clockLow := rfl

theorem exec_tapInstruction (n : Node) (ir : Byte) (s : State) : exec (.tapInstruction n ir) s = .next (s.tap n ir) := rfl

/-- SMBUS_BLOCK_READ hands the oldest response out. -/
theorem State.smbRead_eq {s : State} (hp : s.sh.powered = true) (c : Ch) : s.smbRead (0xB1 + 2 * c.val) =
    { s.putChan c { s.chan c with side := (s.chan c).side.drop 1 } with sh := s.sh.emit (.smbus ((s.chan c).side.headD [])) } := by
  rw [State.smbRead, hp, smbChan_response]
  rfl

theorem State.alertResponse_eq {s : State} (hp : s.sh.powered = true) : s.alertResponse =
    { s with sh := { s.sh with muted := true }.emit (.smbus [BitVec.ofNat 8 (0x3C + Config.smbAddr.toNat)]) } := if_pos hp

theorem State.clockLow_eq {s : State} (hp : s.sh.powered = true) : s.clockLow = { s with sh := s.sh.emit .smbusRelease } := if_pos hp

end Sys2Proof.Machine

open Sys2Proof Sys2Proof.Machine

/-- Settles O60: the sideband discards, executes or answers, and an instruction captures the register that it selects. -/
theorem sidebandsAnswer : Obligations.SidebandsAnswer := by
  unfold Obligations.SidebandsAnswer
  refine ⟨fun s hp => ⟨fun cmd d pec => ⟨fun h => ?_, fun c hcmd hpec hlen => ⟨fun h16 i q op hi hparse => ?_, fun h16 => ?_⟩⟩,
    fun cmd c hcmd => ?_, ?_, ?_⟩, fun s n ir => ?_⟩
  · exact ⟨_, exec_smbusBlockWrite cmd d pec s, State.smbWrite_discards s h⟩
  · subst hpec
    refine ⟨_, exec_smbusBlockWrite cmd d true s, ?_⟩
    have hway : q.way = .sideband := (congrArg (fun p : Nat × Req => p.2.way) hparse).symm
    have hplain : (fun cs : CS => cs.bivan op { q with other := none }) = fun cs => cs.bivan op q :=
      funext fun cs => CS.bivan_plain cs op (.inr hway)
    rw [State.smbWrite_request hp hcmd hlen h16 hparse, hplain, exec_asks hi]
  · subst hpec
    intro m ha
    refine ⟨_, exec_smbusBlockWrite cmd d true s, ?_⟩
    rw [State.smbWrite_short hp hcmd hlen h16]
    exact State.onCS_answers (CS.bivan_short (cs := { ch := s.chan c, sh := s.sh }) h16 ha)
  · refine ⟨_, exec_smbusBlockRead cmd s, ?_⟩
    rw [hcmd, State.smbRead_eq hp]
    exact ⟨rfl, fun d hd => State.chan_putChan_ne _ _ hd, State.chan_putChan_same _ _ _, List.mem_append_right _ (List.mem_singleton.mpr rfl)⟩
  · refine ⟨_, exec_smbusAlertResponse s, ?_⟩
    rw [State.alertResponse_eq hp]
    exact ⟨rfl, rfl, rfl, List.mem_append_right _ (List.mem_singleton.mpr rfl)⟩
  · refine ⟨_, exec_smbusClockLowTimeout s, ?_⟩
    rw [State.clockLow_eq hp]
    exact ⟨rfl, rfl, List.mem_append_right _ (List.mem_singleton.mpr rfl)⟩
  · intro high out taken
    have htaken : taken (s.tap n ir) := by
      cases n with
      | leaf => exact ⟨⟨rfl, fun _ => rfl⟩, rfl, rfl⟩
      | chan c => exact ⟨rfl, fun d hd => State.chan_putChan_ne _ _ hd, rfl⟩
    have hout : out (s.tap n ir) = (s.tap n ir).tapOut n := by cases n <;> rfl
    have hrun : ∀ P : List Out → Prop, P ((s.tap n ir).tapOut n) → Runs (.tapInstruction n ir) s (fun t => taken t ∧ P (out t)) :=
      fun P hP => ⟨_, exec_tapInstruction n ir s, htaken, hout ▸ hP⟩
    refine ⟨fun h => ?_, fun h hh => ?_, fun h => ?_, fun h => ?_, fun h => ?_⟩
    · subst h
      have hreg : s.tapRegOf n 0x01 = .idcode := by cases n <;> rfl
      refine ⟨_, exec_tapInstruction n _ s, htaken, ?_⟩
      rw [hout]
      refine State.tap_fixed hreg (fun v => ?_)
      cases n <;> rfl
    · subst h
      refine hrun (fun l => .tap .bypass 0 ∈ l) (State.tap_fixed (r := .bypass) ?_ (fun v => rfl))
      cases n with
      | leaf => exact if_pos (bne_iff_ne.mpr hh)
      | chan c => exact if_pos hh
    · refine hrun (fun l => ∃ v, .tap .boundary v ∈ l) (State.tap_open ?_)
      rcases h with rfl | ⟨rfl, hh⟩
      · cases n <;> rfl
      · cases n with
        | leaf => exact if_neg (fun e => hh (bne_iff_ne.mp e))
        | chan c => exact if_neg hh
    · subst h
      refine hrun (fun l => if (s.blk n).num K.instrumentsEnabled = 1 then ∃ v, .tap .network v ∈ l else .tap .segment 0 ∈ l) ?_
      have hreg : s.tapRegOf n 0x20 = if (s.blk n).num K.instrumentsEnabled == 1 then .network else .segment := by cases n <;> rfl
      split
      · next h1 => exact State.tap_open (hreg.trans (if_pos (beq_iff_eq.mpr h1)))
      · next h1 => exact State.tap_fixed (hreg.trans (if_neg (fun e => h1 (beq_iff_eq.mp e)))) (fun v => rfl)
    · refine hrun (fun l => .tap .bypass 0 ∈ l) (State.tap_fixed (r := .bypass) ?_ (fun v => rfl))
      cases n with
      | leaf => exact tapReg_other h _ _
      | chan c => exact tapReg_other h _ _

end


section
/-! PROOF. A segment for the standby series table at a leaf's place (R83, O13). -/

namespace Sys2Proof.Machine

/-- A running block that stands in the leaf's place but is not of the leaf's build, whose dictionary has no series table. -/
def misbuiltLeaf : Leaf := { Leaf.reset with b := { Leaf.reset.b with isLeaf := false, phase := .run } }

/-- The first 8 bytes of a standby series table of 16, from channel 0 with the role of a commissioner. -/
def firstSegment : Item :=
  { index := 0x0800, sub := 0x10, type := 13, length := 16, status := 0, target := 0,
    data := natLe 4 0 ++ natLe 4 16 ++ List.replicate 8 0 }

def firstSegmentReq : Req :=
  { way := .fabric 3, src := 0x10000000, seq := 1, txn := 0, count := 1, items := [firstSegment], body := [],
    env := { version := 1, kind := 1, length := 40, carried := 40 } }

theorem leaf_segs_of_segWrite {s t : State} {q : Req} (h : exec (.segWrite .leaf q) s = .next t) :
    t.leaf.b.segs = (doSegWrite leafEnv s.leaf q).b.segs := by
  cases h
  have hsegs := congrArg (fun l : Leaf => l.b.segs) (State.onLeaf_own s (fun l => doSegWrite leafEnv l q))
  exact hsegs

/-- The block refuses the segment with NO_OBJECT, and keeps no partial value. -/
theorem misbuiltLeaf_segs : (doSegWrite leafEnv misbuiltLeaf firstSegmentReq).b.segs = [] := by decide +kernel

end Sys2Proof.Machine

open Sys2Proof Sys2Proof.Machine

/-- Refutes O13: nothing says that the block in the leaf's place is of the leaf's build. One that is not runs, is asked by a
commissioner and finds the object loadable, but its dictionary has no series table (R67), so it keeps no part of one. -/
theorem not_readsAnswerValues : ¬ Obligations.ReadsAnswerValues := by
  unfold Obligations.ReadsAnswerValues
  rintro ⟨-, hseg⟩
  obtain ⟨hpart, -⟩ := hseg { State.reset with leaf := misbuiltLeaf } firstSegmentReq firstSegment 16 (List.replicate 8 0)
    (by decide +kernel) rfl (by decide +kernel) rfl rfl rfl rfl (by decide) (by decide +kernel) rfl (by decide +kernel)
  obtain ⟨t, hexec, hmem, -⟩ := hpart (by decide)
  rw [leaf_segs_of_segWrite hexec, show _ = [] from misbuiltLeaf_segs] at hmem
  exact List.not_mem_nil hmem

end


section
/-! PROOF. A request at a node of either build: what its execution leaves in the block, and what stands of it in the state after. -/

namespace Sys2Proof.Machine

/-! ### The stores under way in a channel -/

/-- The stores that a channel's flash has before it, and the requests in execution that wait for them (R74). -/
def Chan.underWay (c : Chan) : List FlashJob × List Exec := (c.b.jobs, c.b.execs)

theorem Blk.raiseEvt_underWay (b : Blk) (k : Nat) : ((b.raiseEvt k).jobs, (b.raiseEvt k).execs) = (b.jobs, b.execs) := by
  unfold Blk.raiseEvt
  split <;> rfl

theorem Chan.queueLog_underWay (c : Chan) (d : List Byte) (p : Bool) (t : Nat) : (c.queueLog d p t).underWay = c.underWay := by
  unfold Chan.queueLog
  split <;> rfl

theorem Chan.wantFence_underWay (c : Chan) (loc : Nat) : (c.wantFence loc).underWay = c.underWay := by
  unfold Chan.wantFence
  extract_lets leaf core auth
  split <;> rfl

theorem Chan.takeEvent_underWay (c : Chan) (d : List Byte) (rep : Bool) : (c.takeEvent d rep).underWay = c.underWay := by
  unfold Chan.takeEvent
  extract_lets loc f c0 found e0 third
  split
  · exact Chan.queueLog_underWay _ _ _ _
  · extract_lets turns logs e1 c1 c2
    have h2 : c2.underWay = c.underWay := by
      show (if logs then c1.queueLog d e1.perm (if turns then 2 else 1) else c1).underWay = c.underWay
      split
      · exact Chan.queueLog_underWay _ _ _ _
      · rfl
    split
    · exact (Chan.wantFence_underWay _ _).trans ((Blk.raiseEvt_underWay c2.b _).trans h2)
    · exact h2

theorem Chan.drainFaults_underWay (c : Chan) : c.drainFaults.underWay = c.underWay :=
  foldl_keeps Chan.underWay _ (fun x _ => Chan.takeEvent_underWay x _ _) _ _

theorem Chan.sendOp_underWay (c : Chan) (r : Remote) : (c.sendOp r).underWay = c.underWay := by
  unfold Chan.sendOp
  split <;> rfl

theorem Chan.spreadAuthority_underWay (c before : Chan) : (c.spreadAuthority before).underWay = c.underWay := by
  refine foldl_keeps Chan.underWay _ (fun x p => ?_) _ _
  exact foldl_keeps Chan.underWay _ (fun y r => Chan.sendOp_underWay y _) _ _

theorem Chan.deliver_underWay (c before : Chan) : (c.deliver before).underWay = c.underWay := by
  refine foldl_keeps Chan.underWay _ (fun x o => ?_) _ _
  split
  · unfold Chan.deliverHost
    split
    · rfl
    · exact Blk.raiseEvt_underWay x.b _
  · rfl
  · rfl

theorem State.dropStale_underWay (s : State) (node : Chan → Word) (l : List (Word × Word)) (c : Ch) :
    ((s.dropStale node l).chan c).underWay = (s.chan c).underWay := by
  rw [State.dropStale_chan]
  rfl

theorem State.promoteAll_underWay (s : State) (c : Ch) : (s.promoteAll.chan c).underWay = (s.chan c).underWay := by
  have one : ∀ (x : State) (t : Word × Word), ((x.promoteOne t).chan c).underWay = (x.chan c).underWay := by
    intro x t
    simp only [State.promoteOne]
    split
    · rfl
    · simp only [State.chan, Quad.get_map]
      rfl
  exact foldl_keeps (fun x : State => (x.chan c).underWay) _ one s.sh.currents s

/-- A store that is no tray-level object's stays among those under way, and a request that waits goes on waiting (R440). -/
structure Chan.KeepsStores (y z : Chan) : Prop where
  jobs : ∀ j ∈ y.b.jobs, (∀ (d : Ch) (g : Nat), trayJob d g j = none) → j ∈ z.b.jobs
  execs : ∀ e ∈ y.b.execs, ∃ w, e.waiting ≤ w ∧ { e with waiting := w } ∈ z.b.execs

theorem Chan.KeepsStores.of_eq {y z : Chan} (h : z.underWay = y.underWay) : y.KeepsStores z := by
  obtain ⟨hjobs, hexecs⟩ := Prod.mk.inj h
  refine ⟨fun j hj _ => ?_, fun e he => ⟨e.waiting, Nat.le_refl _, ?_⟩⟩
  · rw [hjobs]; exact hj
  · rw [hexecs]; exact he

theorem Chan.KeepsStores.of_eq_left {x y z : Chan} (h : y.underWay = x.underWay) (k : y.KeepsStores z) : x.KeepsStores z := by
  obtain ⟨hjobs, hexecs⟩ := Prod.mk.inj h
  exact ⟨fun j hj => k.jobs j (by rw [hjobs]; exact hj), fun e he => k.execs e (by rw [hexecs]; exact he)⟩

theorem Chan.KeepsStores.of_eq_right {x y z : Chan} (k : x.KeepsStores y) (h : z.underWay = y.underWay) : x.KeepsStores z := by
  obtain ⟨hjobs, hexecs⟩ := Prod.mk.inj h
  refine ⟨fun j hj hn => ?_, fun e he => ?_⟩
  · rw [hjobs]; exact k.jobs j hj hn
  · rw [hexecs]; exact k.execs e he

/-- A pass that appends to a list, and appends `a` itself at `a`, comes to a list that holds `a`. -/
theorem mem_foldl_of_append {α β : Type} (g : List α × β → α → List α × β) (hg : ∀ x a, x.1 <+: (g x a).1) {a : α}
    (ha : ∀ x, (g x a).1 = x.1 ++ [a]) {l : List α} (h : a ∈ l) (x : List α × β) : a ∈ (l.foldl g x).1 := by
  obtain ⟨l1, l2, rfl⟩ := List.append_of_mem h
  rw [List.foldl_append, List.foldl_cons]
  refine (foldl_rel (fun y z : List α × β => y.1 <+: z.1) (fun _ => List.prefix_refl _) (fun h1 h2 => h1.trans h2) g hg l2 _).subset ?_
  rw [ha]
  exact List.mem_append_right _ (List.mem_singleton.mpr rfl)

theorem State.fanOut_keepsStores (s : State) (c : Ch) : (s.chan c).KeepsStores ((s.fanOut c).chan c) := by
  have others : ∀ (js : List FlashJob) (l : List Ch), (∀ d ∈ l, d ≠ c) → ∀ x : State,
      (l.foldl (fun (acc : State) d => acc.putChan d ((acc.chan d).onB (fun x => { x with jobs := x.jobs ++ js }))) x).chan c = x.chan c := by
    intro js l
    induction l with
    | nil => intro _ x; rfl
    | cons d l ih =>
      intro hl x
      rw [List.foldl_cons, ih (fun e he => hl e (List.mem_cons_of_mem _ he))]
      exact State.chan_putChan_ne _ _ (Ne.symm (hl d List.mem_cons_self))
  simp only [State.fanOut]
  split
  · exact .of_eq rfl
  · have hothers : ∀ d ∈ allCh.filter (fun d => d != c && (s.chan d).keepsCopies), d ≠ c := fun d hd => by
      have hne := (List.mem_filter.mp hd).2
      simp only [Bool.and_eq_true, bne_iff_ne] at hne
      exact hne.1
    show (s.chan c).KeepsStores (State.chan (List.foldl _ _ _) c)
    rw [others _ _ hothers, State.chan_putChan_same]
    refine ⟨fun j hj hnone => ?_, fun e he => ⟨_, Nat.le_add_right _ _, List.mem_map.mpr ⟨e, he, rfl⟩⟩⟩
    refine mem_foldl_of_append _ (fun x a => ?_) (fun x => ?_) hj _
    · split <;> exact List.prefix_append _ _
    · simp only [hnone c]

theorem State.afterChan_keepsStores (s : State) (c : Ch) (before : Chan) : (s.chan c).KeepsStores ((s.afterChan c before).chan c) := by
  simp only [State.afterChan]
  generalize hs1 : State.dropStale (State.dropStale s _ _) _ _ = s1
  have hs : (s1.chan c).underWay = (s.chan c).underWay := by
    rw [← hs1, State.dropStale_underWay, State.dropStale_underWay]
  have hput : ((s1.putChan c ((((s1.chan c).deliver before).drainFaults).spreadAuthority before)).chan c).underWay =
      (s.chan c).underWay := by
    rw [State.chan_putChan_same, Chan.spreadAuthority_underWay, Chan.drainFaults_underWay, Chan.deliver_underWay, hs]
  rw [State.settle_chan]
  refine .of_eq_right ?_ (State.dropStale_underWay _ _ _ c)
  refine .of_eq_right ?_ (State.dropStale_underWay _ _ _ c)
  refine .of_eq_right ?_ (State.promoteAll_underWay _ c)
  rw [State.tellLeaf_chan]
  refine .of_eq_left ?_ (State.fanOut_keepsStores _ c)
  split
  · exact hput
  · exact hput

/-- A command's stores of a channel's own objects are under way after it. -/
theorem State.onCS_keepsStores (s : State) (c : Ch) (f : CS → CS) :
    (f { ch := s.chan c, sh := s.sh }).ch.KeepsStores ((s.onCS c f).chan c) := by
  have h := State.afterChan_keepsStores
    ({ s with sh := (f { ch := s.chan c, sh := s.sh }).sh }.putChan c (f { ch := s.chan c, sh := s.sh }).ch) c (s.chan c)
  rw [State.chan_putChan_same] at h
  exact h

/-! ### A command at a node -/

/-- A channel with the shared logic of the tray. -/
def State.cs (s : State) (c : Ch) : CS := { ch := s.chan c, sh := s.sh }

/-- The block at a node as a command leaves it, before what follows every command. -/
def State.ends (s : State) (n : Node) (fl : Leaf → Leaf) (fc : CS → CS) : Blk :=
  match n with
  | .leaf => (fl s.leaf).b
  | .chan c => (fc (s.cs c)).ch.b

section
variable {s : State} {n : Node} {fl : Leaf → Leaf} {fc : CS → CS}

/-- What a command does at a node, said for either build. -/
theorem State.ends_of {P : Blk → Prop} (hl : n = .leaf → P (fl s.leaf).b) (hc : ∀ c, n = .chan c → P (fc (s.cs c)).ch.b) :
    P (s.ends n fl fc) := by
  cases n with
  | leaf => exact hl rfl
  | chan c => exact hc c rfl

theorem State.onNode_own : ((s.onNode n fl fc).blk n).own = (s.ends n fl fc).own := by
  cases n with
  | leaf => exact Leaf.blk_own_of_own (State.onLeaf_own s fl)
  | chan c => exact Chan.blk_own_of_own (State.onCS_own s c fc)

theorem State.onNode_out : (s.ends n fl fc).out <+: ((s.onNode n fl fc).blk n).out := by
  cases n with
  | leaf => exact State.onLeaf_out s fl
  | chan c => exact State.onCS_out s c fc

theorem State.onNode_jobs {j : FlashJob} (hj : j ∈ (s.ends n fl fc).jobs) (hown : ∀ (d : Ch) (g : Nat), trayJob d g j = none) :
    j ∈ ((s.onNode n fl fc).blk n).jobs := by
  cases n with
  | leaf =>
    have h := congrArg (fun l : Leaf => l.b.jobs) (State.onLeaf_own s fl)
    exact (show (s.onLeaf fl).leaf.b.jobs = (fl s.leaf).b.jobs from h) ▸ hj
  | chan c => exact (State.onCS_keepsStores s c fc).jobs j hj hown

theorem State.onNode_execs {e : Exec} (he : e ∈ (s.ends n fl fc).execs) :
    ∃ w, e.waiting ≤ w ∧ { e with waiting := w } ∈ ((s.onNode n fl fc).blk n).execs := by
  cases n with
  | leaf =>
    have h := congrArg (fun l : Leaf => l.b.execs) (State.onLeaf_own s fl)
    exact ⟨e.waiting, Nat.le_refl _, (show (s.onLeaf fl).leaf.b.execs = (fl s.leaf).b.execs from h) ▸ he⟩
  | chan c => exact (State.onCS_keepsStores s c fc).execs e he

end

end Sys2Proof.Machine
end


section
/-! PROOF. A WRITE of one accepted item (R74, R79, R80, O14). -/

namespace Sys2Proof.Machine

/-- A build whose endpoint holds the common part that is put into it. -/
def Env.Holds {σ : Type} (E : Env σ) : Prop := ∀ s b, E.blk (E.put s b) = b

theorem leafEnv_holds : leafEnv.Holds := fun _ _ => rfl

theorem chanEnv_holds : chanEnv.Holds := fun _ _ => rfl

section
variable {σ : Type} {E : Env σ} (hE : E.Holds)
include hE

theorem Env.Holds.blk_upd (s : σ) (f : Blk → Blk) : E.blk (E.upd s f) = f (E.blk s) := hE _ _

theorem Env.Holds.blk_finishReq (s : σ) (q : Req) (old : Option SeqMem) (r : Resp) :
    E.blk (finishReq E s q old r) = (E.blk s).answered q old r := hE _ _

end

@[simp] theorem Blk.answered_val (b : Blk) (q : Req) (old : Option SeqMem) (r : Resp) (k : Nat) : (b.answered q old r).val k = b.val k := by
  unfold Blk.answered
  split <;> rfl

/-- What the checks of a written item come to, when the block accepts it. -/
theorem State.accepts_leaf {s : State} {q : Req} {txn : Bool} {staged : List Wr} {i : Item} {v : Val}
    (h : s.accepts .leaf q txn staged i = some v) :
    acceptOut leafEnv (leafEnv.hear s.leaf q) q (s.leaf.b.srcOf q) (s.leaf.b.effRole q) txn staged i = (stOk, v, false) := by
  simp only [State.accepts] at h
  split at h
  · next heq =>
    rw [Option.some.injEq] at h
    rw [h] at heq
    exact heq
  · cases h

theorem State.accepts_chan {s : State} {c : Ch} {q : Req} {txn : Bool} {staged : List Wr} {i : Item} {v : Val}
    (h : s.accepts (.chan c) q txn staged i = some v) :
    acceptOut chanEnv (chanEnv.hear (s.cs c) q) q ((s.chan c).b.srcOf q) ((s.chan c).b.effRole q) txn staged i =
      (stOk, v, false) := by
  simp only [State.accepts] at h
  split at h
  · next heq =>
    rw [Option.some.injEq] at h
    rw [h] at heq
    exact heq
  · cases h

section
variable {σ : Type} {E : Env σ} {s : σ} {q : Req} {i : Item} {v : Val}

/-- The response to a WRITE of one accepted item. -/
def writtenResp (b : Blk) (q : Req) (i : Item) : Resp := { bare (b.srcOf q) opWrite stOk q with items := [itemSt i stOk] }

/-- A WRITE of one item in execution, which waits for the store of its value. -/
def waitingWrite (b : Blk) (q : Req) (i : Item) (v : Val) : Exec :=
  { way := q.way, src := b.srcOf q, seq := q.seq, resp := writtenResp b q i, writes := [(0, (itemKey i, v))], waiting := 1, fails := [] }

theorem doWrite_of_accepted (hf : (E.blk s).fresh opWrite q = true) (hi : q.items = [i])
    (ha : acceptOut E (E.hear s q) q ((E.blk s).srcOf q) ((E.blk s).effRole q) false [] i = (stOk, v, false)) :
    doWrite E s q = concludeWrite E (E.upd (E.hear s q) (fun b => b.countRole 0)) q ((E.blk s).memOf ((E.blk s).srcOf q))
      (writtenResp (E.blk s) q i) [(0, (itemKey i, v))] := by
  have hone : writeOne E q ((E.blk s).srcOf q) ((E.blk s).effRole q) (Pass.start (E.hear s q)) i =
      { st := E.hear s q, items := [itemSt i stOk], writes := [(0, (itemKey i, v))], roleRefused := 0, used := 16 } := by
    have hw : writeStatus E (E.hear s q) q ((E.blk s).srcOf q) ((E.blk s).effRole q) false (overlay (E.val (E.hear s q)) []) i =
        (stOk, v, false) := ha
    simp only [writeOne, Pass.start, List.map_nil, hw, if_true, List.nil_append, List.length_nil, Nat.add_zero, if_false, Bool.false_eq_true]
  rw [doWrite, judge_of_fresh E _ hf (Nat.zero_le _), hi, List.foldl_cons, List.foldl_nil, hone]
  rfl

section
variable (hE : E.Holds)
include hE

theorem Env.Holds.isLeaf_hear : (E.blk (E.upd (E.hear s q) (fun b => b.countRole 0))).isLeaf = (E.blk s).isLeaf := by
  rw [hE.blk_upd, Env.hear, hE.blk_upd]
  rfl

/-- An accepted WRITE of an object without a stored copy takes effect, and is answered OK (R80). -/
theorem Env.Holds.doWrite_now (hf : (E.blk s).fresh opWrite q = true) (hi : q.items = [i])
    (ha : acceptOut E (E.hear s q) q ((E.blk s).srcOf q) ((E.blk s).effRole q) false [] i = (stOk, v, false))
    (hs : clsOf (E.blk s).isLeaf (itemKey i) ≠ .s) :
    .resp q.way (writtenResp (E.blk s) q i) ∈ (E.blk (doWrite E s q)).out ∧
      ∃ t, (E.blk (doWrite E s q)).val (itemKey i) = (E.blk (E.act t ((E.blk s).srcOf q) (itemKey i) v)).val (itemKey i) := by
  have hnone : storesOf (E.blk (E.upd (E.hear s q) (fun b => b.countRole 0))).isLeaf [(0, (itemKey i, v))] = [] := by
    rw [hE.isLeaf_hear]
    exact List.filter_eq_nil_iff.mpr (by simpa using hs)
  rw [doWrite_of_accepted hf hi ha]
  simp only [concludeWrite]
  rw [hnone, if_pos List.isEmpty_nil, hE.blk_finishReq]
  exact ⟨Blk.resp_mem_answered _ _ _ _, _, Blk.answered_val _ _ _ _ _⟩

/-- An accepted WRITE of a class S object waits for the store of the value in flash (R74). -/
theorem Env.Holds.doWrite_stored (hf : (E.blk s).fresh opWrite q = true) (hi : q.items = [i])
    (ha : acceptOut E (E.hear s q) q ((E.blk s).srcOf q) ((E.blk s).effRole q) false [] i = (stOk, v, false))
    (hs : clsOf (E.blk s).isLeaf (itemKey i) = .s) :
    .item ((E.blk s).srcOf q) q.seq 0 (itemKey i) v ∈ (E.blk (doWrite E s q)).jobs ∧
      waitingWrite (E.blk s) q i v ∈ (E.blk (doWrite E s q)).execs := by
  have hone : storesOf (E.blk (E.upd (E.hear s q) (fun b => b.countRole 0))).isLeaf [(0, (itemKey i, v))] = [(0, (itemKey i, v))] := by
    rw [hE.isLeaf_hear]
    exact List.filter_eq_self.mpr (by simpa using hs)
  rw [doWrite_of_accepted hf hi ha]
  simp only [concludeWrite]
  rw [hone, if_neg (by rw [List.isEmpty_cons]; decide), hE.blk_upd]
  exact ⟨List.mem_append_right _ (List.mem_singleton.mpr rfl), List.mem_append_right _ (List.mem_singleton.mpr rfl)⟩

end
end

/-! ### The objects that a write gives its value and nothing more -/

theorem Leaf.act_plain {k : Nat} (h : k ∈ [K.stopDelayNs, K.triggerCode, K.triggerCodeMask, K.triggerCore]) (l : Leaf) (v : Val) :
    (l.act k v).b.val k = v := by
  have hset : l.act k v = { l with b := l.b.setVal k v } := by
    simp only [List.mem_cons, List.not_mem_nil, or_false] at h
    rcases h with rfl | rfl | rfl | rfl <;> rfl
  rw [hset]
  exact Blk.val_setVal_same _ _ _

/-- The keys by which a management reads a table of a channel entry by entry. -/
def selectKeys : List Nat := [K.serStateSelect, K.rowSelect, K.scoreSelect, K.entrySelect, K.rulStateSelect, K.queueSelect]

theorem Chan.act_select {k : Nat} (h : k ∈ selectKeys) (cs : CS) (src : Word) (v : Val) :
    (chanEnv.act cs src k v).ch.b.val k = v := by
  have hset : (chanEnv.act cs src k v).ch.b = cs.ch.b.setVal k v := by
    simp only [selectKeys, List.mem_cons, List.not_mem_nil, or_false] at h
    rcases h with rfl | rfl | rfl | rfl | rfl | rfl <;> rfl
  rw [hset]
  exact Blk.val_setVal_same _ _ _

theorem selectKeys_not_fault {k : Nat} (h : k ∈ selectKeys) : isFaultKey k = false := by
  have hall : ∀ k ∈ selectKeys, isFaultKey k = false := by decide
  exact hall k h

end Sys2Proof.Machine

open Sys2Proof Sys2Proof.Machine

/-- Settles O14: a WRITE of one accepted item comes to the object's act, or to a store of the value and a request that waits for it. -/
theorem writesTakeEffect : Obligations.WritesTakeEffect := by
  unfold Obligations.WritesTakeEffect
  intro s n q i v hf hi ha
  refine ⟨fun hs => ?_, fun hs ht => ?_⟩
  · cases n with
    | leaf =>
      obtain ⟨hresp, l, hval⟩ := leafEnv_holds.doWrite_now hf hi (State.accepts_leaf ha) hs
      refine ⟨_, rfl, State.onNode_out.subset hresp, fun hk => ?_⟩
      exact (Leaf.val_of_own (State.onLeaf_own s _) _).trans (hval.trans (Leaf.act_plain hk l v))
    | chan c =>
      obtain ⟨hresp, cs, hval⟩ := chanEnv_holds.doWrite_now (s := s.cs c) hf hi (State.accepts_chan ha) hs
      refine ⟨_, rfl, State.onNode_out.subset hresp, fun hk => ?_⟩
      have hin : (doWrite chanEnv (s.cs c) q).ch.b.val (itemKey i) = v := hval.trans (Chan.act_select hk cs _ v)
      exact (Blk.val_of_own State.onNode_own (selectKeys_not_fault hk)).trans hin
  · have hends : (.item ((s.blk n).srcOf q) q.seq 0 (itemKey i) v : FlashJob) ∈
        (s.ends n (fun l => doWrite leafEnv l q) (fun cs => doWrite chanEnv cs q)).jobs ∧
        waitingWrite (s.blk n) q i v ∈ (s.ends n (fun l => doWrite leafEnv l q) (fun cs => doWrite chanEnv cs q)).execs := by
      cases n with
      | leaf => exact leafEnv_holds.doWrite_stored hf hi (State.accepts_leaf ha) hs
      | chan c => exact chanEnv_holds.doWrite_stored (s := s.cs c) hf hi (State.accepts_chan ha) hs
    obtain ⟨hjob, hexec⟩ := hends
    obtain ⟨w, hw, he⟩ := State.onNode_execs hexec
    refine ⟨_, rfl, State.onNode_jobs hjob fun d g => ?_, _, he, rfl, rfl, hw, rfl⟩
    simp only [trayJob, ht, Bool.false_eq_true, if_false]

end


section
/-! PROOF. The life of a local transaction (R87 to R91, Table 3.11, O15). -/

namespace Sys2Proof.Machine

/-! ### What an answer leaves of a block -/

@[simp] theorem Blk.answered_txns (b : Blk) (q : Req) (old : Option SeqMem) (r : Resp) : (b.answered q old r).txns = b.txns := by
  unfold Blk.answered
  split <;> rfl

@[simp] theorem Blk.answered_done (b : Blk) (q : Req) (old : Option SeqMem) (r : Resp) : (b.answered q old r).done = b.done := by
  unfold Blk.answered
  split <;> rfl

/-! ### The transactions of a block -/

/-- A transaction without the count of its stores still under way, which `Blk.own` leaves out. -/
def Txn.still (x : Txn) : Txn := { x with storing := 0 }

/-- A map that keeps what is looked for maps what is found. -/
theorem find?_map_of_keeps {α : Type} {p : α → Bool} {f : α → α} (hp : ∀ a, p (f a) = p a) (l : List α) :
    (l.map f).find? p = (l.find? p).map f := by
  rw [List.find?_map, show p ∘ f = p from funext hp]

/-- The transaction that has a source and a number. -/
def Txn.named (src num : Word) (t : Txn) : Bool := t.src == src && t.num == num

theorem Blk.txnOf_eq (b : Blk) (src num : Word) : b.txnOf src num = b.txns.find? (Txn.named src num) := rfl

theorem Blk.txnOf_of_own {a b : Blk} (h : a.own = b.own) (src num : Word) :
    (a.txnOf src num).map Txn.still = (b.txnOf src num).map Txn.still := by
  have htxns : a.txns.map Txn.still = b.txns.map Txn.still := congrArg Blk.txns h
  have hkeeps : ∀ t : Txn, Txn.named src num t.still = Txn.named src num t := fun _ => rfl
  rw [Blk.txnOf_eq, Blk.txnOf_eq, ← find?_map_of_keeps hkeeps, ← find?_map_of_keeps hkeeps, htxns]

theorem Blk.txnOf_none_of_own {a b : Blk} (h : a.own = b.own) {src num : Word} (hb : b.txnOf src num = none) : a.txnOf src num = none := by
  have hmap := Blk.txnOf_of_own h src num
  rw [hb] at hmap
  exact Option.map_eq_none_iff.mp hmap

/-- A transaction stands after a command, but for the count of its stores. -/
theorem Blk.txnOf_some_of_own {a b : Blk} (h : a.own = b.own) {src num : Word} {x : Txn} (hb : b.txnOf src num = some x) :
    ∃ y, a.txnOf src num = some y ∧ y.still = x.still := by
  have hmap := Blk.txnOf_of_own h src num
  rw [hb] at hmap
  exact Option.map_eq_some_iff.mp hmap

theorem Txn.state_of_still {x y : Txn} (h : y.still = x.still) : y.state = x.state := by
  have hf := congrArg Txn.state h
  exact hf

theorem Txn.items_of_still {x y : Txn} (h : y.still = x.still) : y.items = x.items := by
  have hf := congrArg Txn.items h
  exact hf

theorem Txn.apply_of_still {x y : Txn} (h : y.still = x.still) : y.apply = x.apply := by
  have hf := congrArg Txn.apply h
  exact hf

theorem Txn.fleet_of_still {x y : Txn} (h : y.still = x.still) : y.fleet = x.fleet := by
  have hf := congrArg Txn.fleet h
  exact hf

theorem Txn.num_of_still {x y : Txn} (h : y.still = x.still) : y.num = x.num := by
  have hf := congrArg Txn.num h
  exact hf

theorem Blk.txns_of_own {a b : Blk} (h : a.own = b.own) {x : Txn} (hx : x ∈ b.txns) : ∃ y ∈ a.txns, y.still = x.still := by
  have htxns : a.txns.map Txn.still = b.txns.map Txn.still := congrArg Blk.txns h
  exact List.mem_map.mp (htxns ▸ List.mem_map.mpr ⟨x, hx, rfl⟩)

theorem Blk.doneOf_of_own {a b : Blk} (h : a.own = b.own) (src num : Word) : a.doneOf src num = b.doneOf src num := by
  have hdone := congrArg Blk.done h
  have hdone : a.done = b.done := hdone
  rw [Blk.doneOf, Blk.doneOf, hdone]

/-- A change that leaves a transaction its source and its number. -/
def Txn.Renames (f : Txn → Txn) : Prop := ∀ t, (f t).src = t.src ∧ (f t).num = t.num

theorem Blk.txnOf_mapTxn {f : Txn → Txn} (hf : Txn.Renames f) (b : Blk) (src num : Word) :
    (b.mapTxn src num f).txnOf src num = (b.txnOf src num).map f := by
  have hkeeps : ∀ t : Txn, Txn.named src num (if Txn.named src num t then f t else t) = Txn.named src num t := by
    intro t
    split
    · obtain ⟨hsrc, hnum⟩ := hf t
      rw [Txn.named, hsrc, hnum, Txn.named]
    · rfl
  refine (find?_map_of_keeps hkeeps b.txns).trans (Option.map_congr fun t ht => ?_)
  exact if_pos (List.find?_some ht)

/-- A transaction that has ended is gone, and its final state is remembered first (R87). -/
theorem Blk.endTxn_ends (b : Blk) {x : Txn} {src num : Word} (hx : b.txnOf src num = some x) (st : TxnState) (status : Nat) :
    (b.endTxn x st status).txnOf src num = none ∧
      ∃ d, (b.endTxn x st status).doneOf src num = some d ∧ d.state = st ∧ d.status = status := by
  have hkey := List.find?_some hx
  simp only [Bool.and_eq_true, beq_iff_eq] at hkey
  obtain ⟨rfl, rfl⟩ := hkey
  refine ⟨?_, { src := x.src, num := x.num, state := st, status := status, apply := x.apply }, ?_, rfl, rfl⟩
  · refine List.find?_eq_none.mpr fun t ht => ?_
    have hout := (List.mem_filter.mp ht).2
    simp only [Bool.not_eq_true', Bool.and_eq_false_iff, beq_eq_false_iff_ne] at hout
    simp only [Bool.and_eq_true, beq_iff_eq, not_and]
    exact fun hsrc hnum => hout.elim (fun h => h hsrc) (fun h => h hnum)
  · exact List.find?_cons_of_pos (by simp)

/-! ### A request on a transaction (R87) -/

/-- The block that has taken note of a request's number and of its transaction. -/
def Blk.touched (b : Blk) (q : Req) : Blk := (b.heard (b.srcOf q) q.seq).touchTxn (b.srcOf q) q.txn

theorem Blk.txnOf_touched (b : Blk) (q : Req) : (b.touched q).txnOf (b.srcOf q) q.txn =
    (b.txnOf (b.srcOf q) q.txn).map (fun t => { t with last := b.now }) :=
  Blk.txnOf_mapTxn (f := fun t => { t with last := b.now }) (fun _ => ⟨rfl, rfl⟩) _ _ _

/-! ### What the builds do with writes that are staged and committed -/

/-- Staging a write starts nothing that moves the transactions of the block (R373). -/
def Env.Stages {σ : Type} (E : Env σ) : Prop := ∀ s k v, (E.blk (E.staged s k v)).txns = (E.blk s).txns

theorem leafEnv_stages : leafEnv.Stages := fun _ _ _ => rfl

theorem Chan.handOver_txns (c : Chan) : c.handOver.b.txns = c.b.txns := by
  refine foldl_keeps (fun x : Chan => x.b.txns) _ (fun x d => ?_) _ _
  rw [Chan.remoteTxn]
  unfold Chan.sendOp
  split <;> rfl

theorem chanEnv_stages : chanEnv.Stages := by
  intro cs k v
  show (CS.ch (if _ then cs.on Chan.handOver else cs)).b.txns = _
  split
  · exact Chan.handOver_txns cs.ch
  · rfl

/-- The objects whose writes make a table or an image active, or withdraw the channel. -/
def swapKeys : List Nat := [K.seriesSwap, K.tensorSwap, K.aggSwap, K.serSeriesSwap, K.imageSwap, K.rulImageSwap, K.withdrawChannel]

theorem plainWrites_mem {leaf : Bool} {ws : List Wr} (h : plainWrites leaf ws = true) {w : Wr} (hw : w ∈ ws) :
    clsOf leaf w.1 ≠ .s ∧ w.1 ∉ swapKeys := by
  have hone := List.all_eq_true.mp h w hw
  simp only [Bool.and_eq_true, bne_iff_ne, Bool.not_eq_true', List.contains_eq_mem, decide_eq_false_iff_not] at hone
  exact hone

/-- A build whose commit of writes outside `swapKeys` is judged by R90 alone and stores no more than their class S objects (R91). -/
structure Env.CommitsPlain {σ : Type} (E : Env σ) : Prop where
  images : ∀ {leaf ws s}, plainWrites leaf ws = true → E.images s ws = []
  commitChk : ∀ {leaf ws s src num a}, plainWrites leaf ws = true → E.commitChk s src num ws a = stOk
  copies : ∀ s {k}, k ∉ swapKeys → E.copies s k = []

theorem Env.CommitsPlain.copiesOf {σ : Type} {E : Env σ} (hc : E.CommitsPlain) {s : σ} {t : Txn}
    (hw : plainWrites (E.blk s).isLeaf t.items = true) : copiesOf E s t = [] := by
  rw [Machine.copiesOf, List.append_eq_nil_iff]
  refine ⟨List.filter_eq_nil_iff.mpr fun w hm => ?_, List.flatMap_eq_nil_iff.mpr fun w hm => ?_⟩
  · simpa using (plainWrites_mem hw hm).1
  · exact hc.copies s (plainWrites_mem hw (List.mem_filter.mp hm).1).2

theorem not_mem_of_plainWrites {leaf : Bool} {ws : List Wr} (h : plainWrites leaf ws = true) {k : Nat} (hk : k ∈ swapKeys) (v : Val) :
    (k, v) ∉ ws := fun hm => (plainWrites_mem h hm).2 hk

theorem leafEnv_commitsPlain : leafEnv.CommitsPlain where
  images _ := rfl
  commitChk _ := rfl
  copies l k hk := by
    have hseries : k ≠ K.seriesSwap := fun h => hk (by rw [h]; decide)
    have htensor : k ≠ K.tensorSwap := fun h => hk (by rw [h]; decide)
    exact (if_neg hseries).trans (if_neg htensor)

theorem chanEnv_commitsPlain : chanEnv.CommitsPlain where
  images {leaf ws cs} h := by
    refine List.filter_eq_nil_iff.mpr fun k hk => ?_
    have hin : k ∈ swapKeys := by
      have hall : ∀ k ∈ [K.imageSwap, K.rulImageSwap], k ∈ swapKeys := by decide
      exact hall k hk
    simpa using not_mem_of_plainWrites h hin (.num 1)
  commitChk {leaf ws cs src num a} h := by
    show cs.ch.commitCheck src num ws a = stOk
    have himage := not_mem_of_plainWrites h (k := K.imageSwap) (by decide) (.num 1)
    have hrules := not_mem_of_plainWrites h (k := K.rulImageSwap) (by decide) (.num 1)
    have hleave := not_mem_of_plainWrites h (k := K.withdrawChannel) (by decide) (.num 1)
    simp [Chan.commitCheck, himage, hrules, hleave]
  copies cs k hk := by
    have hagg : k ≠ K.aggSwap := fun h => hk (by rw [h]; decide)
    have hseries : k ≠ K.serSeriesSwap := fun h => hk (by rw [h]; decide)
    exact (if_neg hagg).trans (if_neg hseries)

/-- Taking note of a request on a transaction refuses no commit (R90). -/
theorem Blk.commitStatus_touched (b : Blk) (q : Req) (a : Nat) (keys : List Nat) :
    (b.touched q).commitStatus a keys = b.commitStatus a keys := by
  have hconflict : (b.touched q).conflict a keys = b.conflict a keys := by
    have hany : (b.touched q).txns.any (fun t => (t.state == .committed || decide (0 < t.storing)) && t.apply == a &&
          t.items.any (fun w => keys.contains w.1)) =
        b.txns.any (fun t => (t.state == .committed || decide (0 < t.storing)) && t.apply == a &&
          t.items.any (fun w => keys.contains w.1)) := by
      show List.any (List.map _ b.txns) _ = _
      rw [List.any_map]
      refine congrArg (fun p => b.txns.any p) (funext fun t => ?_)
      simp only [Function.comp]
      split <;> rfl
    rw [Blk.conflict, Blk.conflict, hany]
    rfl
  rw [Blk.commitStatus, Blk.commitStatus, hconflict]
  rfl

/-- One item of a TXN_STAGE that the block accepts and that no staged write has named. -/
theorem stageOne_of_accepted {σ : Type} {E : Env σ} {s : σ} {q : Req} {src : Word} {role : Nat} {staged : List Wr} {i : Item} {v : Val}
    (hw : writeStatus E s q src role true (overlay (E.val s) staged) i = (stOk, v, false)) (hnew : ∀ w ∈ staged, w.1 ≠ itemKey i) :
    stageOne E q src role staged (Pass.start s) i =
      { st := s, items := [itemSt i stOk], writes := [(0, (itemKey i, v))], roleRefused := 0, used := 16 } := by
  have hany : staged.any (fun w => w.1 == itemKey i) = false := by
    rw [List.any_eq_false]
    intro w hm
    simpa using hnew w hm
  simp only [stageOne, Pass.start, List.map_nil, List.nil_append, hw, hany, Bool.false_eq_true, and_false, if_false, if_true,
    List.length_nil, Nat.add_zero]

section
variable {σ : Type} {E : Env σ}

/-- The build that has taken note of a request's number and of its transaction. -/
def Env.touch (E : Env σ) (s : σ) (q : Req) : σ := E.upd (E.hear s q) (fun b => b.touchTxn ((E.blk s).srcOf q) q.txn)

variable (hE : E.Holds)
include hE

theorem Env.Holds.blk_touch (s : σ) (q : Req) : E.blk (E.touch s q) = (E.blk s).touched q := by
  rw [Env.touch, hE.blk_upd, Env.hear, hE.blk_upd]
  rfl

/-! ### TXN_OPEN (R87, R88) -/

section
variable {s : σ} {q : Req} (hf : (E.blk s).fresh opTxnOpen q = true) (hrole : 2 ≤ (E.blk s).effRole q)
variable (hp : (E.blk s).phase ≠ .failed) (ho : (E.blk s).phase ≠ .off)
include hf hrole hp ho

theorem Env.Holds.doTxnOpen_busy (hfull : (E.blk s).txnLimit ≤ (E.blk s).txns.length) :
    .resp q.way (bare ((E.blk s).srcOf q) opTxnOpen stBusy q) ∈ (E.blk (doTxnOpen E s q)).out := by
  have hphase : ¬ (((E.blk s).heard ((E.blk s).srcOf q) q.seq).phase = .failed ∨ ((E.blk s).heard ((E.blk s).srcOf q) q.seq).phase = .off) :=
    not_or.mpr ⟨hp, ho⟩
  have hfull : ((E.blk s).heard ((E.blk s).srcOf q) q.seq).txnLimit ≤ ((E.blk s).heard ((E.blk s).srcOf q) q.seq).txns.length := hfull
  rw [doTxnOpen, judge_of_fresh E _ hf hrole, Env.hear]
  dsimp only
  rw [hE.blk_upd, if_neg hphase, if_pos hfull, hE.blk_finishReq]
  exact Blk.resp_mem_answered _ _ _ _

theorem Env.Holds.doTxnOpen_opens (hroom : (E.blk s).txns.length < (E.blk s).txnLimit)
    (hnew : (E.blk s).txnOf ((E.blk s).srcOf q) q.seq = none) :
    (E.blk (doTxnOpen E s q)).txnOf ((E.blk s).srcOf q) q.seq = some (Txn.fresh ((E.blk s).srcOf q) q.seq (E.blk s).now) := by
  have hphase : ¬ (((E.blk s).heard ((E.blk s).srcOf q) q.seq).phase = .failed ∨ ((E.blk s).heard ((E.blk s).srcOf q) q.seq).phase = .off) :=
    not_or.mpr ⟨hp, ho⟩
  have hroom : ¬ ((E.blk s).heard ((E.blk s).srcOf q) q.seq).txnLimit ≤ ((E.blk s).heard ((E.blk s).srcOf q) q.seq).txns.length :=
    Nat.not_le.mpr hroom
  have hnew : ((E.blk s).heard ((E.blk s).srcOf q) q.seq).txnOf ((E.blk s).srcOf q) q.seq = none := hnew
  rw [doTxnOpen, judge_of_fresh E _ hf hrole, Env.hear]
  dsimp only
  rw [hE.blk_upd, if_neg hphase, if_neg hroom, hnew, if_neg (by decide), hE.blk_finishReq, Blk.txnOf, Blk.answered_txns, hE.blk_upd,
    hE.blk_upd]
  refine List.find?_append.trans ?_
  rw [show List.find? _ ((E.blk s).heard ((E.blk s).srcOf q) q.seq).txns = none from hnew, Option.none_or]
  exact List.find?_cons_of_pos (by simp [Txn.fresh])

end

/-! ### Requests on an open transaction -/

section
variable {s : σ} {q : Req} {x : Txn} (hx : (E.blk s).txnOf ((E.blk s).srcOf q) q.txn = some x)
include hx

theorem Env.Holds.txnOf_touch : (E.blk (E.touch s q)).txnOf ((E.blk s).srcOf q) q.txn = some { x with last := (E.blk s).now } := by
  rw [hE.blk_touch, Blk.txnOf_touched, hx]
  rfl

variable (hrole : 2 ≤ (E.blk s).effRole q)
include hrole

/-- TXN_STATUS (R87). -/
theorem Env.Holds.doTxnStatus_answers (hf : (E.blk s).fresh opTxnStatus q = true) :
    .resp q.way { bare ((E.blk s).srcOf q) opTxnStatus stOk q with body := statusBody x.state.code stOk x.apply } ∈
      (E.blk (doTxnStatus E s q)).out := by
  have htxn := hE.txnOf_touch hx
  rw [Env.touch] at htxn
  rw [doTxnStatus, judge_of_fresh E _ hf hrole]
  dsimp only
  rw [htxn, hE.blk_finishReq]
  exact Blk.resp_mem_answered _ _ _ _

variable (ho : x.state = .opened) (hs : x.storing = 0)
include ho hs

/-- TXN_ABORT (R87). -/
theorem Env.Holds.doTxnAbort_aborts (hf : (E.blk s).fresh opTxnAbort q = true) :
    (E.blk (doTxnAbort E s q)).txnOf ((E.blk s).srcOf q) q.txn = none ∧
      ∃ d, (E.blk (doTxnAbort E s q)).doneOf ((E.blk s).srcOf q) q.txn = some d ∧ d.state = .aborted := by
  have htxn := hE.txnOf_touch hx
  have hopen : ¬ (({ x with last := (E.blk s).now } : Txn).state ≠ .opened ∨ 0 < ({ x with last := (E.blk s).now } : Txn).storing) :=
    not_or.mpr ⟨not_not_intro ho, Nat.not_lt.mpr (Nat.le_of_eq hs)⟩
  obtain ⟨hgone, d, hdone, hstate, -⟩ := Blk.endTxn_ends _ htxn .aborted stOk
  rw [Env.touch] at htxn hgone hdone
  rw [doTxnAbort, judge_of_fresh E _ hf hrole]
  dsimp only
  rw [htxn]
  dsimp only
  rw [if_neg hopen, hE.blk_finishReq, hE.blk_upd, Blk.txnOf, Blk.answered_txns, Blk.doneOf, Blk.answered_done]
  exact ⟨hgone, d, hdone, hstate⟩

/-- TXN_STAGE of an accepted item that the transaction does not hold (R89). -/
theorem Env.Holds.doTxnStage_stages (hst : E.Stages) {i : Item} {v : Val} (hf : (E.blk s).fresh opTxnStage q = true) (hi : q.items = [i])
    (ha : acceptOut E (E.hear s q) q ((E.blk s).srcOf q) ((E.blk s).effRole q) true x.items.reverse i = (stOk, v, false))
    (hnew : ∀ w ∈ x.items, w.1 ≠ itemKey i) (hlen : x.items.length < 256) (hbytes : x.dataBytes + i.data.length ≤ 16384) :
    ∃ y, (E.blk (doTxnStage E s q)).txnOf ((E.blk s).srcOf q) q.txn = some y ∧ y.state = .opened ∧ y.items = x.items ++ [(itemKey i, v)] := by
  have htxn := hE.txnOf_touch hx
  have hopen : ¬ (({ x with last := (E.blk s).now } : Txn).state ≠ .opened ∨ 0 < ({ x with last := (E.blk s).now } : Txn).storing) :=
    not_or.mpr ⟨not_not_intro ho, Nat.not_lt.mpr (Nat.le_of_eq hs)⟩
  have hroom : ¬ (256 < ({ x with last := (E.blk s).now } : Txn).items.length + [i].length ∨
      16384 < ({ x with last := (E.blk s).now } : Txn).dataBytes + ([i].map (fun i => i.data.length)).sum) := by
    simp only [List.length_singleton, List.map_cons, List.map_nil, List.sum_cons, List.sum_nil]
    omega
  have hone := stageOne_of_accepted (E := E) (s := E.touch s q) (staged := x.items.reverse) ha
    (fun w hw => hnew w (List.mem_reverse.mp hw))
  rw [Env.touch] at htxn hone
  rw [doTxnStage, judge_of_fresh E _ hf hrole]
  dsimp only
  rw [htxn]
  dsimp only
  rw [if_neg hopen, hi, if_neg hroom, List.foldl_cons, List.foldl_nil, hone]
  refine ⟨{ x with last := (E.blk s).now, items := x.items ++ [(itemKey i, v)], dataBytes := x.dataBytes + (i.data.length + 0) }, ?_, ho, rfl⟩
  have hhead : headStatus [itemSt i stOk] = stOk := rfl
  dsimp only
  rw [if_pos hhead, hE.blk_finishReq, Blk.txnOf, Blk.answered_txns, List.reverse_singleton, List.map_singleton, List.foldl_cons,
    List.foldl_nil, hst, hE.blk_upd]
  refine (Blk.txnOf_mapTxn (f := fun t => { t with items := t.items ++ [(itemKey i, v)], dataBytes := t.dataBytes + (i.data.length + 0) })
    (fun _ => ⟨rfl, rfl⟩) _ _ _).trans ?_
  rw [hE.blk_upd]
  exact congrArg (Option.map _) htxn

/-- TXN_COMMIT of writes that store nothing and withdraw nothing (R90, R91). -/
theorem Env.Holds.doTxnCommit_commits (hc : E.CommitsPlain) {a : Nat} (hf : (E.blk s).fresh opTxnCommit q = true) (hlen : q.body.length = 8)
    (ha : a = if leNat q.body = 0 then (E.blk s).now + 1 else leNat q.body) (hw : plainWrites (E.blk s).isLeaf x.items = true)
    (hok : (E.blk s).commitStatus a (x.items.map (·.1)) = stOk) :
    ∃ y, (E.blk (doTxnCommit E s q)).txnOf ((E.blk s).srcOf q) q.txn = some y ∧ y.state = .committed ∧ y.apply = a := by
  have htxn := hE.txnOf_touch hx
  have hopen : ¬ (({ x with last := (E.blk s).now } : Txn).state ≠ .opened ∨ 0 < ({ x with last := (E.blk s).now } : Txn).storing) :=
    not_or.mpr ⟨not_not_intro ho, Nat.not_lt.mpr (Nat.le_of_eq hs)⟩
  have hleaf : (E.blk (E.touch s q)).isLeaf = (E.blk s).isLeaf := by rw [hE.blk_touch]; rfl
  have hnow : (E.blk (E.touch s q)).now = (E.blk s).now := by rw [hE.blk_touch]; rfl
  have hstatus : (E.blk (E.touch s q)).commitStatus a (x.items.map (·.1)) = stOk := by
    rw [hE.blk_touch, Blk.commitStatus_touched, hok]
  have hcopies : copiesOf E (E.touch s q) { x with last := (E.blk s).now } = [] := hc.copiesOf (by rw [hleaf]; exact hw)
  have himages : E.images (E.touch s q) x.items = [] := hc.images hw
  have hchk : E.commitChk (E.touch s q) ((E.blk s).srcOf q) q.txn x.items a = stOk := hc.commitChk hw
  rw [Env.touch] at htxn hnow hstatus hcopies himages hchk
  rw [doTxnCommit, decide_eq_true hlen, judge_of_fresh E _ hf hrole]
  dsimp only
  rw [htxn]
  dsimp only
  rw [if_neg hopen, hnow, ← ha, himages, hchk, hstatus, hcopies]
  refine ⟨{ x with last := (E.blk s).now, state := .committed, apply := a, storing := 0, storeFailed := false }, ?_, rfl, rfl⟩
  rw [ite_self, if_neg (not_not_intro rfl), if_pos (by rfl), hE.blk_finishReq, Blk.txnOf, Blk.answered_txns, hE.blk_upd]
  refine (Blk.txnOf_mapTxn (f := fun t => { t with state := .committed, apply := a, storing := 0, storeFailed := false })
    (fun _ => ⟨rfl, rfl⟩) _ _ _).trans ?_
  exact congrArg (Option.map _) htxn

end

/-- TXN_OPEN_EXPIRE (R87). -/
theorem Env.Holds.expireTxn_expires {s : σ} {src num : Word} {x : Txn} (hx : (E.blk s).txnOf src num = some x) (ho : x.state = .opened)
    (hs : x.storing = 0) (hlast : x.last + (E.blk s).num K.txnOpenTimeout ≤ (E.blk s).now) :
    (E.blk (expireTxn E s src num)).txnOf src num = none ∧
      ∃ d, (E.blk (expireTxn E s src num)).doneOf src num = some d ∧ d.state = .aborted ∧ d.status = stExpired := by
  rw [expireTxn, hx]
  dsimp only
  rw [if_pos ⟨ho, hs, hlast⟩, hE.blk_upd]
  exact Blk.endTxn_ends _ hx .aborted stExpired

end

end Sys2Proof.Machine

open Sys2Proof Sys2Proof.Machine

/-- Settles O15: what each command does at the block, said for either build, stands in the state after but for the count of stores. -/
theorem transactionsLive : Obligations.TransactionsLive := by
  unfold Obligations.TransactionsLive
  intro s n q src
  refine ⟨fun hrole => ⟨fun hf hp ho => ⟨fun hroom hnew => ?_, fun hfull => ?_⟩, fun x hx ho hs =>
    ⟨fun hf i v hi ha hnew hlen hbytes => ?_, fun hf a hlen ha hw hok => ?_, fun hf => ?_, fun hf => ?_⟩⟩, fun who num x hlive hx ho hs hlast => ?_⟩
  · have h : (s.ends n (fun l => doTxnOpen leafEnv l q) (fun cs => doTxnOpen chanEnv cs q)).txnOf src q.seq =
        some (Txn.fresh src q.seq (s.blk n).now) := by
      cases n with
      | leaf => exact leafEnv_holds.doTxnOpen_opens hf hrole hp ho hroom hnew
      | chan c => exact chanEnv_holds.doTxnOpen_opens (s := s.cs c) hf hrole hp ho hroom hnew
    obtain ⟨y, hy, hstill⟩ := Blk.txnOf_some_of_own State.onNode_own h
    exact ⟨_, rfl, y, hy, Txn.state_of_still hstill, Txn.items_of_still hstill⟩
  · have h : .resp q.way (bare src opTxnOpen stBusy q) ∈
        (s.ends n (fun l => doTxnOpen leafEnv l q) (fun cs => doTxnOpen chanEnv cs q)).out := by
      cases n with
      | leaf => exact leafEnv_holds.doTxnOpen_busy hf hrole hp ho hfull
      | chan c => exact chanEnv_holds.doTxnOpen_busy (s := s.cs c) hf hrole hp ho hfull
    exact ⟨_, rfl, State.onNode_out.subset h⟩
  · have h : ∃ y, (s.ends n (fun l => doTxnStage leafEnv l q) (fun cs => doTxnStage chanEnv cs q)).txnOf src q.txn = some y ∧
        y.state = .opened ∧ y.items = x.items ++ [(itemKey i, v)] := by
      cases n with
      | leaf => exact leafEnv_holds.doTxnStage_stages hx hrole ho hs leafEnv_stages hf hi (State.accepts_leaf ha) hnew hlen hbytes
      | chan c =>
        exact chanEnv_holds.doTxnStage_stages (s := s.cs c) hx hrole ho hs chanEnv_stages hf hi (State.accepts_chan ha) hnew hlen hbytes
    obtain ⟨y, hy, hstate, hitems⟩ := h
    obtain ⟨z, hz, hstill⟩ := Blk.txnOf_some_of_own State.onNode_own hy
    exact ⟨_, rfl, z, hz, (Txn.state_of_still hstill).trans hstate, (Txn.items_of_still hstill).trans hitems⟩
  · have h : ∃ y, (s.ends n (fun l => doTxnCommit leafEnv l q) (fun cs => doTxnCommit chanEnv cs q)).txnOf src q.txn = some y ∧
        y.state = .committed ∧ y.apply = a := by
      cases n with
      | leaf => exact leafEnv_holds.doTxnCommit_commits hx hrole ho hs leafEnv_commitsPlain hf hlen ha hw hok
      | chan c => exact chanEnv_holds.doTxnCommit_commits (s := s.cs c) hx hrole ho hs chanEnv_commitsPlain hf hlen ha hw hok
    obtain ⟨y, hy, hstate, happly⟩ := h
    obtain ⟨z, hz, hstill⟩ := Blk.txnOf_some_of_own State.onNode_own hy
    exact ⟨_, rfl, z, hz, (Txn.state_of_still hstill).trans hstate, (Txn.apply_of_still hstill).trans happly⟩
  · have h : (s.ends n (fun l => doTxnAbort leafEnv l q) (fun cs => doTxnAbort chanEnv cs q)).txnOf src q.txn = none ∧
        ∃ d, (s.ends n (fun l => doTxnAbort leafEnv l q) (fun cs => doTxnAbort chanEnv cs q)).doneOf src q.txn = some d ∧
          d.state = .aborted := by
      cases n with
      | leaf => exact leafEnv_holds.doTxnAbort_aborts hx hrole ho hs hf
      | chan c => exact chanEnv_holds.doTxnAbort_aborts (s := s.cs c) hx hrole ho hs hf
    obtain ⟨hgone, d, hdone, hstate⟩ := h
    exact ⟨_, rfl, Blk.txnOf_none_of_own State.onNode_own hgone, d, (Blk.doneOf_of_own State.onNode_own _ _).trans hdone, hstate⟩
  · have h : .resp q.way { bare src opTxnStatus stOk q with body := statusBody x.state.code stOk x.apply } ∈
        (s.ends n (fun l => doTxnStatus leafEnv l q) (fun cs => doTxnStatus chanEnv cs q)).out := by
      cases n with
      | leaf => exact leafEnv_holds.doTxnStatus_answers hx hrole hf
      | chan c => exact chanEnv_holds.doTxnStatus_answers (s := s.cs c) hx hrole hf
    rw [ho] at h
    exact ⟨_, rfl, State.onNode_out.subset h⟩
  · have h : (s.ends n (fun l => if l.b.live then expireTxn leafEnv l who num else l)
          (fun cs => if cs.ch.b.live then expireTxn chanEnv cs who num else cs)).txnOf who num = none ∧
        ∃ d, (s.ends n (fun l => if l.b.live then expireTxn leafEnv l who num else l)
          (fun cs => if cs.ch.b.live then expireTxn chanEnv cs who num else cs)).doneOf who num = some d ∧
          d.state = .aborted ∧ d.status = stExpired := by
      cases n with
      | leaf =>
        rw [State.ends, if_pos (show s.leaf.b.live = true from hlive)]
        exact leafEnv_holds.expireTxn_expires hx ho hs hlast
      | chan c =>
        rw [State.ends, if_pos (show (s.cs c).ch.b.live = true from hlive)]
        exact chanEnv_holds.expireTxn_expires (s := s.cs c) hx ho hs hlast
    obtain ⟨hgone, d, hdone, hstate, hstatus⟩ := h
    exact ⟨_, rfl, Blk.txnOf_none_of_own State.onNode_own hgone, d, (Blk.doneOf_of_own State.onNode_own _ _).trans hdone, hstate, hstatus⟩

end


section
/-! PROOF. What a node's own bookkeeping of a message leaves of its block: a broadcast passed down, items refused, writes staged. -/

namespace Sys2Proof.Machine

/-! ### Counters and messages -/

/-- The counters that taking a message moves: refusals (R71, R276), and envelopes and frames discarded (R75, R412). -/
def msgCounters : List Nat := [K.submissionsRefused, K.requestsRefusedRole, K.envelopesDiscarded, K.framesAborted]

/-- From `b` to `b'` messages have been sent and those counters have moved, and nothing else. -/
structure Blk.Moved (b b' : Blk) : Prop where
  same : b' = { b with store := b'.store, out := b'.out, nextSeq := b'.nextSeq }
  num : ∀ k, k ∉ msgCounters → b'.num k = b.num k
  out : b.out <+: b'.out

theorem Blk.Moved.refl (b : Blk) : b.Moved b := ⟨rfl, fun _ _ => rfl, List.prefix_refl _⟩

theorem Blk.Moved.trans {a b c : Blk} (h : a.Moved b) (k : b.Moved c) : a.Moved c := by
  refine ⟨?_, fun j hj => (k.num j hj).trans (h.num j hj), h.out.trans k.out⟩
  have hsame := k.same
  rw [h.same] at hsame
  exact hsame

section
variable {b b' : Blk} (h : b.Moved b')
include h

theorem Blk.Moved.txns : b'.txns = b.txns := by rw [h.same]

theorem Blk.Moved.fleet : b'.fleet = b.fleet := by rw [h.same]

theorem Blk.Moved.acks : b'.acks = b.acks := by rw [h.same]

theorem Blk.Moved.execs : b'.execs = b.execs := by rw [h.same]

theorem Blk.Moved.undo : b'.undo = b.undo := by rw [h.same]

theorem Blk.Moved.isLeaf : b'.isLeaf = b.isLeaf := by rw [h.same]

theorem Blk.Moved.err : b'.err = b.err := by rw [h.same]

theorem Blk.Moved.now : b'.now = b.now := h.num K.frameNow (by decide)

theorem Blk.Moved.fleetOf (seq : Word) : b'.fleetOf seq = b.fleetOf seq := by rw [Blk.fleetOf, h.fleet, Blk.fleetOf]

theorem Blk.Moved.pastDeadline (f : FleetBody) : b'.pastDeadline f = b.pastDeadline f := by
  rw [Blk.pastDeadline, Blk.pastDeadline, h.now, Blk.guardOf, Blk.guardOf, h.num K.guardFrames (by decide)]

theorem Blk.Moved.conflict (a : Nat) (keys : List Nat) : b'.conflict a keys = b.conflict a keys := by
  rw [Blk.conflict, Blk.conflict, h.txns, h.fleet]

theorem Blk.Moved.commitStatus (a : Nat) (keys : List Nat) : b'.commitStatus a keys = b.commitStatus a keys := by
  rw [Blk.commitStatus, Blk.commitStatus, h.now, h.conflict]

theorem Blk.Moved.inScope (f : FleetBody) : b'.inScope f = b.inScope f := by
  rw [Blk.inScope, Blk.inScope, h.isLeaf, h.num K.podNumber (by decide)]

theorem Blk.Moved.fleetItems (f : FleetBody) (items : List Item) : b'.fleetItems f items = b.fleetItems f items := by
  rw [Blk.fleetItems, Blk.fleetItems, h.isLeaf, h.inScope, h.num K.treeRole (by decide)]

end

theorem Blk.moved_bump (b : Blk) {k : Nat} (hk : k ∈ msgCounters) (n : Nat) : b.Moved (b.bump k n) :=
  ⟨rfl, fun _ hj => Blk.num_bump_ne b n (fun h => hj (h ▸ hk)), List.prefix_refl _⟩

theorem Blk.moved_countRole (b : Blk) (n : Nat) : b.Moved (b.countRole n) := by
  unfold Blk.countRole
  split
  · exact .refl b
  · exact Blk.moved_bump b (by decide) n

theorem Blk.moved_badEnvelope (b : Blk) (e : EnvHead) : b.Moved (b.badEnvelope e) :=
  (Blk.moved_bump b (by decide) 1).trans (Blk.moved_bump _ (by decide) _)

theorem Blk.moved_request (b : Blk) (dst : Word) (op txn : Nat) (items : List Item) (body : List Byte) :
    b.Moved (b.request dst op txn items body) := ⟨rfl, fun _ _ => rfl, List.prefix_append _ _⟩

theorem foldl_moved {σ α : Type} (blk : σ → Blk) (g : σ → α → σ) (h : ∀ x a, (blk x).Moved (blk (g x a))) (l : List α) (x : σ) :
    (blk x).Moved (blk (l.foldl g x)) :=
  foldl_rel (fun x y => (blk x).Moved (blk y)) (fun _ => .refl _) (fun h k => h.trans k) g h l x

/-! ### What the builds pass on, refuse and stage -/

/-- A build that passes a broadcast on, refuses an item and stages a write by messages and counters alone. -/
structure Env.Speaks {σ : Type} (E : Env σ) : Prop where
  holds : E.Holds
  forward : ∀ s op txn items body mask, (E.blk s).Moved (E.blk (E.forward s op txn items body mask))
  miss : ∀ s k st, (E.blk s).Moved (E.blk (E.miss s k st))
  staged : ∀ s k v, (E.blk s).Moved (E.blk (E.staged s k v))

theorem leafEnv_speaks : leafEnv.Speaks :=
  ⟨leafEnv_holds, fun _ _ _ _ _ _ => .refl _, fun _ _ _ => .refl _, fun _ _ _ => .refl _⟩

theorem Chan.moved_sendOp (c : Chan) (r : Remote) : c.b.Moved (c.sendOp r).b := by
  unfold Chan.sendOp
  split
  · exact .refl _
  · exact Blk.moved_request _ _ _ _ _ _

theorem Chan.moved_forward (c : Chan) (op : Nat) (txn : Word) (items : List Item) (body : List Byte) (mask : Nat) :
    c.b.Moved (c.forward op txn items body mask).b :=
  foldl_moved Chan.b _ (fun x _ => Blk.moved_request x.b _ _ _ _ _) _ c

theorem Chan.moved_handOver (c : Chan) : c.b.Moved c.handOver.b :=
  foldl_moved Chan.b _ (fun x _ => Chan.moved_sendOp x _) _ c

theorem chanEnv_speaks : chanEnv.Speaks where
  holds := chanEnv_holds
  forward cs op txn items body mask := Chan.moved_forward cs.ch op txn items body mask
  miss cs k st := by
    show cs.ch.b.Moved (CS.ch (if _ then _ else cs)).b
    split
    · exact Blk.moved_bump cs.ch.b (by decide) 1
    · exact .refl _
  staged cs k v := by
    show cs.ch.b.Moved (CS.ch (if _ then cs.on Chan.handOver else cs)).b
    split
    · exact Chan.moved_handOver cs.ch
    · exact .refl _

section
variable {σ : Type} {E : Env σ} (hE : E.Speaks)
include hE

theorem Env.Speaks.movedStageOne (q : Req) (src : Word) (role : Nat) (staged : List Wr) (p : Pass σ) (i : Item) :
    (E.blk p.st).Moved (E.blk (stageOne E q src role staged p i).st) := by
  unfold Machine.stageOne
  extract_lets mine view r st
  dsimp only
  split
  · exact .refl _
  · exact hE.miss _ _ _

/-- The items of a PREPARE are judged by counters alone (R98). -/
theorem Env.Speaks.movedPrepareItems (s : σ) (q : Req) (role : Nat) (items : List Item) :
    (E.blk s).Moved (E.blk (prepareItems E s q role items).st) :=
  foldl_moved (fun p : Pass σ => E.blk p.st) _ (fun p i => hE.movedStageOne q q.src role [] p i) items (Pass.start s)

theorem Env.Speaks.movedStagedAll (ws : List Wr) (s : σ) : (E.blk s).Moved (E.blk (ws.foldl (fun t w => E.staged t w.1 w.2) s)) :=
  foldl_moved E.blk _ (fun x w => hE.staged x w.1 w.2) ws s

end

/-- A broadcast of the fleet root that the node acts on (R84). -/
theorem heardFleet_of_takes {σ : Type} {E : Env σ} {s : σ} {op : Nat} {q : Req} (h : (E.blk s).takesFleet op q = true) (act : σ → σ) :
    heardFleet E s op q act = act s := by
  have hall := h
  simp only [Blk.takesFleet, Bool.and_eq_true] at hall
  obtain ⟨⟨⟨⟨hhears, henv⟩, hmine⟩, -⟩, -⟩ := hall
  rw [heardFleet, hhears, henv, hmine, if_neg (by decide), if_neg (by decide), if_neg (by decide), if_pos h]

/-! ### The fleet transactions that a block has on record -/

theorem Blk.fleetOf_of_own {a b : Blk} (h : a.own = b.own) (seq : Word) : a.fleetOf seq = b.fleetOf seq := by
  have hfleet := congrArg Blk.fleet h
  have hfleet : a.fleet = b.fleet := hfleet
  rw [Blk.fleetOf, Blk.fleetOf, hfleet]

theorem Blk.acks_of_own {a b : Blk} (h : a.own = b.own) : a.acks = b.acks := by
  have hacks := congrArg Blk.acks h
  exact hacks

theorem Blk.fleetOf_mapFleet {f : FleetRec → FleetRec} (hf : ∀ r, (f r).seq = r.seq) (b : Blk) (seq : Word) :
    (b.mapFleet seq f).fleetOf seq = (b.fleetOf seq).map f := by
  have hkeeps : ∀ r : FleetRec, ((if r.seq == seq then f r else r).seq == seq) = (r.seq == seq) := by
    intro r
    split
    · rw [hf]
    · rfl
  refine (find?_map_of_keeps (p := fun r : FleetRec => r.seq == seq) hkeeps b.fleet).trans (Option.map_congr fun r hr => ?_)
  have hseq := List.find?_some hr
  exact if_pos hseq

/-- An acknowledgement record of this node is among those gathered for the frame, and counts it (R100). -/
theorem mergeAckAt_mem (f : Nat) (r : AckRec) (l : List (Nat × AckRec)) :
    ∃ a ∈ mergeAckAt f r l, a.1 = f ∧ a.2.seq = r.seq ∧ a.2.phase = r.phase ∧ r.ok ≤ a.2.ok ∧ r.refused ≤ a.2.refused := by
  induction l with
  | nil => exact ⟨_, List.mem_singleton.mpr rfl, rfl, rfl, rfl, Nat.le_refl _, Nat.le_refl _⟩
  | cons x xs ih =>
    rw [mergeAckAt]
    split
    · next h =>
      obtain ⟨-, hseq, hphase⟩ := h
      exact ⟨_, List.mem_cons_self, rfl, hseq, hphase, Nat.le_add_left _ _, Nat.le_add_left _ _⟩
    · obtain ⟨a, ha, hrest⟩ := ih
      exact ⟨a, List.mem_cons_of_mem _ ha, hrest⟩

/-- A node that counts itself OK. -/
theorem Blk.ackOwn_ok (b : Blk) (seq : Word) (phase : Nat) :
    ∃ a ∈ (b.ackOwn seq phase stOk).acks, a.1 = b.now ∧ a.2.seq = seq ∧ a.2.phase = phase ∧ 0 < a.2.ok := by
  obtain ⟨a, ha, hframe, hseq, hphase, hok, -⟩ := mergeAckAt_mem b.now
    { seq := seq, phase := phase, firstStatus := stOk, ok := 1, refused := 0, firstNode := 0xFFFFFFFF } b.acks
  exact ⟨a, ha, hframe, hseq, hphase, hok⟩

/-- A node that counts itself refused. -/
theorem Blk.ackOwn_refused (b : Blk) (seq : Word) (phase : Nat) {st : Nat} (h : st ≠ stOk) :
    ∃ a ∈ (b.ackOwn seq phase st).acks, a.2.seq = seq ∧ a.2.phase = phase ∧ 0 < a.2.refused := by
  obtain ⟨a, ha, -, hseq, hphase, -, hrefused⟩ := mergeAckAt_mem b.now
    { seq := seq, phase := phase, firstStatus := st, ok := 0, refused := 1, firstNode := b.addr } b.acks
  refine ⟨a, ?_, hseq, hphase, hrefused⟩
  rw [Blk.ackOwn, if_neg h, if_neg h, if_neg h]
  exact ha

end Sys2Proof.Machine
end


section
/-! PROOF. PREPARE is held, and tokens decide it (R98 to R104, O16). -/

namespace Sys2Proof.Machine

/-! ### PREPARE -/

/-- The record of a PREPARE whose items the node has accepted (R100). -/
def heldRec (seq : Word) (body : FleetBody) (items : List Item) (ws : List Wr) (silent : Bool) : FleetRec :=
  { FleetRec.early seq body.apply none with body := body, items := items, staged := ws, inScope := true, prepared := true, holds := true, silent := silent }

/-- A block whose record of a sequence number is `r`. -/
def Blk.records (b : Blk) (r : FleetRec) : Blk := { b with fleet := b.fleet.filter (fun x => x.seq != r.seq) ++ [r] }

theorem Blk.fleetOf_records (b : Blk) (r : FleetRec) : (b.records r).fleetOf r.seq = some r := by
  have hnone : (b.fleet.filter (fun x => x.seq != r.seq)).find? (fun x => x.seq == r.seq) = none := by
    refine List.find?_eq_none.mpr fun x hx => ?_
    have hne := (List.mem_filter.mp hx).2
    simpa using hne
  refine List.find?_append.trans ?_
  rw [hnone, Option.none_or]
  exact List.find?_cons_of_pos (by simp)

section
variable {σ : Type} {E : Env σ} (hE : E.Speaks)
include hE

theorem Env.Speaks.holdFleet_good {s : σ} {seq : Word} {body : FleetBody} {q : Req} {role : Nat} {silent : Bool} {ws : List Wr}
    (hnew : (E.blk s).fleetOf seq = none) (hscope : (E.blk s).inScope body = true)
    (hpass : passed (prepareItems E s q role ((E.blk s).fleetItems body q.items)) = (stOk, ws)) (hlate : (E.blk s).now < body.apply)
    (hfar : body.apply ≤ (E.blk s).now + 1048576) (hconf : (E.blk s).conflict body.apply (ws.map (·.1)) = false) :
    (holdFleet E s seq body q role silent).1 = some stOk ∧
      ∃ b, (E.blk s).Moved b ∧ (b.records (heldRec seq body q.items ws silent)).Moved (E.blk (holdFleet E s seq body q role silent).2) := by
  obtain ⟨hhead, hws⟩ := Prod.mk.inj hpass
  have hmoved : (E.blk s).Moved (E.blk (E.upd (prepareItems E s q role ((E.blk s).fleetItems body q.items)).st
      (fun b => b.countRole (prepareItems E s q role ((E.blk s).fleetItems body q.items)).roleRefused))) := by
    rw [hE.holds.blk_upd]
    exact (hE.movedPrepareItems s q role _).trans (Blk.moved_countRole _ _)
  unfold holdFleet
  extract_lets mine scope old p s' b ws' st good rec_ s1 s2
  have hb : (E.blk s).Moved b := hmoved
  have hws' : ws' = ws := hws
  have hscope' : scope = true := by show (_ || _) = true; rw [hscope, Bool.true_or]
  have hold : old = FleetRec.early seq body.apply none := by show Option.getD _ _ = _; rw [hnew]; rfl
  have hst : st = stOk := by
    refine (if_neg (not_not_intro hhead)).trans ((if_neg ?_).trans ((if_neg ?_).trans (if_neg ?_)))
    · rw [hb.now]; exact Nat.not_le.mpr hlate
    · rw [hb.now]; exact Nat.not_lt.mpr hfar
    · rw [hb.conflict, hws', hconf]; decide
  have hgood : good = true := by
    show (_ && _ && _) = true
    rw [hst, hscope', hold]
    rfl
  have hrec : rec_ = heldRec seq body q.items ws silent := by
    show ({ old with body := body, items := q.items, staged := if good then ws' else [], inScope := scope, prepared := true,
                     holds := good, silent := silent } : FleetRec) = _
    rw [hgood, hold, hscope', hws']
    rfl
  refine ⟨?_, b, hb, ?_⟩
  · refine (if_pos ?_).trans (congrArg some hst)
    rw [hscope', hold]
    rfl
  · have hs1 : E.blk s1 = b.records (heldRec seq body q.items ws silent) := by
      rw [hE.holds.blk_upd, hrec]
      rfl
    rw [show s2 = ws'.foldl (fun t w => E.staged t w.1 w.2) s1 from if_pos hgood, ← hs1]
    exact hE.movedStagedAll _ _

/-- PREPARE at a node in scope that has no record of the number and accepts every item (R100). -/
theorem Env.Speaks.doPrepare_holds {s : σ} {q : Req} {ws : List Wr} (ht : (E.blk s).takesFleet opPrepare q = true)
    (hnew : (E.blk s).fleetOf q.txn = none) (hscope : (E.blk s).inScope (parseFleet q.body) = true)
    (hpass : passed (prepareItems E (E.forward s opPrepare q.txn q.items q.body (parseFleet q.body).mask) q ((E.blk s).effRole q)
      ((E.blk s).fleetItems (parseFleet q.body) q.items)) = (stOk, ws))
    (hlate : (E.blk s).now < (parseFleet q.body).apply) (hfar : (parseFleet q.body).apply ≤ (E.blk s).now + 1048576)
    (hconf : (E.blk s).conflict (parseFleet q.body).apply (ws.map (·.1)) = false) (hup : 8 ≤ (E.blk s).num K.bringupState) :
    (E.blk (doPrepare E s q)).fleetOf q.txn = some (heldRec q.txn (parseFleet q.body) q.items ws false) ∧
      ∃ a ∈ (E.blk (doPrepare E s q)).acks, a.1 = (E.blk s).now ∧ a.2.seq = q.txn ∧ a.2.phase = 1 ∧ 0 < a.2.ok := by
  have hfwd := hE.forward s opPrepare q.txn q.items q.body (parseFleet q.body).mask
  have hsilent : decide ((E.blk s).num K.bringupState < 8) = false := decide_eq_false (Nat.not_lt.mpr hup)
  have hseen : ¬ (E.blk s).fleet.any (fun r => r.seq == q.txn && r.prepared) = true := by
    rw [Bool.not_eq_true, List.any_eq_false]
    intro r hr
    have hne := List.find?_eq_none.mp hnew r hr
    simp only [beq_iff_eq] at hne
    simp [hne]
  have hheld := hE.holdFleet_good (silent := false) (seq := q.txn) (by rw [hfwd.fleetOf]; exact hnew) (by rw [hfwd.inScope]; exact hscope)
    (by rw [hfwd.fleetItems]; exact hpass) (by rw [hfwd.now]; exact hlate) (by rw [hfwd.now]; exact hfar) (by rw [hfwd.conflict]; exact hconf)
  obtain ⟨hok, b, hb, hafter⟩ := hheld
  have hblk : E.blk (doPrepare E s q) = (E.blk (holdFleet E (E.forward s opPrepare q.txn q.items q.body (parseFleet q.body).mask) q.txn
      (parseFleet q.body) q ((E.blk s).effRole q) false).2).ackOwn q.txn 1 stOk := by
    rw [doPrepare, heardFleet_of_takes ht]
    dsimp only
    rw [if_neg hseen, hsilent, hok, hnew, Option.bind_none]
    dsimp only
    rw [if_neg Bool.false_ne_true]
    exact hE.holds.blk_upd _ _
  rw [hblk]
  refine ⟨(hafter.fleetOf q.txn).trans (Blk.fleetOf_records b _), ?_⟩
  have hnow := hafter.now.trans ((show (b.records (heldRec q.txn (parseFleet q.body) q.items ws false)).now = b.now from rfl).trans
    (hb.now.trans hfwd.now))
  rw [← hnow]
  exact Blk.ackOwn_ok _ _ _

end

/-! ### Tokens -/

/-- The record after the node's first token. -/
def FleetRec.told (r : FleetRec) (commit : Bool) : FleetRec := { r with token := some commit }

/-- The record after the writes that it held have been committed, and after they have been discarded. -/
def FleetRec.given (r : FleetRec) : FleetRec := { r with holds := false }

def FleetRec.dropped (r : FleetRec) : FleetRec := { r with holds := false, staged := [] }

/-- A block that has heard no more than the tokens of others: its record of `seq` is `r`, which waits for its token in time (R104). -/
structure Blk.Awaits (b : Blk) (seq : Word) (r : FleetRec) : Prop where
  record : b.fleetOf seq = some r
  prepared : r.prepared = true
  token : r.token = none
  unresolved : ∀ x ∈ b.fleet, x.seq = seq → x.resolved = false
  inTime : b.pastDeadline r.body = false

theorem Blk.Awaits.of_moved {b b' : Blk} {seq : Word} {r : FleetRec} (h : b.Awaits seq r) (hm : b.Moved b') : b'.Awaits seq r where
  record := (hm.fleetOf seq).trans h.record
  prepared := h.prepared
  token := h.token
  unresolved := by rw [hm.fleet]; exact h.unresolved
  inTime := (hm.pastDeadline _).trans h.inTime

section
variable {σ : Type} {E : Env σ} (hE : E.Holds) {s : σ} {seq root : Word} {r : FleetRec} {apply : Nat} (h : (E.blk s).Awaits seq r)
include hE h

/-- A node that waits for its token acts on it (R104). -/
theorem Env.Holds.takeToken_acts (commit : Bool) :
    takeToken E s root seq apply commit =
      if commit then commitFleet E (E.upd s (fun b => b.mapFleet seq (fun x => x.told true))) root seq
      else E.upd (E.upd s (fun b => b.mapFleet seq (fun x => x.told false))) (fun b => b.mapFleet seq FleetRec.dropped) := by
  have hwait : ¬ (r.token.isSome || (r.prepared && (E.blk s).pastDeadline r.body)) = true := by
    rw [h.token, h.inTime, Bool.and_false]
    decide
  have hopen : ¬ ((E.blk s).mapFleet seq (fun x => x.told commit)).fleet.any (fun x => x.seq == seq && x.resolved) = true := by
    rw [Bool.not_eq_true, List.any_eq_false]
    intro x hx
    obtain ⟨y, hy, rfl⟩ := List.mem_map.mp hx
    have hy' := h.unresolved y hy
    by_cases hseq : y.seq = seq
    · simp [hseq, FleetRec.told, hy' hseq]
    · simp [hseq]
  rw [takeToken, h.record]
  dsimp only
  rw [if_neg hwait, if_pos h.prepared, actToken, hE.blk_upd]
  refine (if_neg hopen).trans ?_
  cases commit <;> rfl

theorem Env.Holds.takeToken_aborts :
    (E.blk (takeToken E s root seq apply false)).fleetOf seq = some (r.told false).dropped := by
  rw [hE.takeToken_acts h, if_neg (by decide), hE.blk_upd, Blk.fleetOf_mapFleet (f := FleetRec.dropped) (fun _ => rfl), hE.blk_upd,
    Blk.fleetOf_mapFleet (f := fun x => x.told false) (fun _ => rfl), h.record]
  rfl

end

/-- Whether a record has had its token plays no part in the check of a commit (R90). -/
theorem Blk.commitStatus_given_told (b : Blk) (seq : Word) (commit : Bool) (a : Nat) (keys : List Nat) :
    ((b.mapFleet seq (fun x => x.told commit)).mapFleet seq FleetRec.given).commitStatus a keys =
      (b.mapFleet seq FleetRec.given).commitStatus a keys := by
  have hfleet : ∀ p : FleetRec → Bool, (∀ x : FleetRec, p (x.told commit).given = p x.given) →
      ((b.mapFleet seq (fun x => x.told commit)).mapFleet seq FleetRec.given).fleet.any p = (b.mapFleet seq FleetRec.given).fleet.any p := by
    intro p hp
    simp only [Blk.mapFleet, List.any_map]
    refine congrArg (fun f => b.fleet.any f) (funext fun x => ?_)
    by_cases hx : (x.seq == seq) = true
    · simp only [Function.comp, hx, if_true]
      rw [if_pos (show ((x.told commit).seq == seq) = true from hx)]
      exact hp x
    · simp only [Function.comp, if_neg hx]
  have hconflict : ((b.mapFleet seq (fun x => x.told commit)).mapFleet seq FleetRec.given).conflict a keys =
      (b.mapFleet seq FleetRec.given).conflict a keys := by
    rw [Blk.conflict, Blk.conflict, hfleet _ (fun _ => rfl)]
    rfl
  rw [Blk.commitStatus, Blk.commitStatus, hconflict]
  rfl

/-- The transaction that a committed fleet transaction becomes at a node (R104). -/
def fleetTxn (root seq : Word) (now : Nat) (r : FleetRec) : Txn :=
  { Txn.fresh root seq now with items := r.staged, apply := r.body.apply, fleet := true, state := .committed }

/-- A block that has committed what it held of a fleet transaction. -/
def Blk.commitsHeld (b : Blk) (root seq : Word) (r : FleetRec) : Blk :=
  { (b.mapFleet seq FleetRec.given).mapFleet seq (fun x => { x with committed := true }) with
    txns := b.txns ++ [fleetTxn root seq b.now r] }

section
variable {σ : Type} {E : Env σ} (hE : E.Holds) (hc : E.CommitsPlain) {s : σ} {seq root : Word} {r : FleetRec}
variable (hr : (E.blk s).fleetOf seq = some r) (hh : r.holds = true) (hnc : r.committed = false)
variable (hw : plainWrites (E.blk s).isLeaf r.staged = true)
variable (hok : ((E.blk s).mapFleet seq FleetRec.given).commitStatus r.body.apply (r.staged.map (·.1)) = stOk)
include hE hc hr hh hnc hw hok

/-- The commit of a held fleet transaction whose writes store nothing (R104, R91). -/
theorem Env.Holds.blk_commitFleet : E.blk (commitFleet E s root seq) =
    if r.silent then (E.blk s).commitsHeld root seq r else ((E.blk s).commitsHeld root seq r).ackOwn seq 2 stOk := by
  have hblk : E.blk (E.upd s (fun b => b.mapFleet seq FleetRec.given)) = (E.blk s).mapFleet seq FleetRec.given := hE.blk_upd _ _
  have hheld : ¬ (!r.holds || r.committed) = true := by rw [hh, hnc]; decide
  have hchk : E.commitChk (E.upd s (fun b => b.mapFleet seq FleetRec.given)) root seq r.staged r.body.apply = stOk := hc.commitChk hw
  unfold commitFleet
  rw [hr]
  dsimp -zeta only
  rw [if_neg hheld]
  extract_lets b0 keys imgs st0 st done fresh t cs
  have himages : imgs = [] := hc.images hw
  have hst : st = stOk := by
    show (if st0 ≠ stOk ∨ imgs.isEmpty = false then st0 else (E.blk b0).commitStatus r.body.apply keys) = stOk
    rw [show st0 = stOk from hchk, himages, show E.blk b0 = _ from hblk]
    exact (if_neg (by decide)).trans hok
  rw [if_neg (not_not_intro hst)]
  have hcs : cs = [] := hc.copiesOf (by rw [show E.blk b0 = _ from hblk]; exact hw)
  rw [hcs, himages, if_pos (by rfl)]
  have hcommits : E.blk (E.upd b0 (fun b => { b.mapFleet seq (fun x => { x with committed := true }) with
      txns := b.txns ++ [{ t with state := .committed }] })) = (E.blk s).commitsHeld root seq r := by
    have ht : t = { Txn.fresh root seq ((E.blk s).mapFleet seq FleetRec.given).now with
        items := r.staged, apply := r.body.apply, fleet := true } := by
      show ({ Txn.fresh root seq (E.blk b0).now with items := r.staged, apply := r.body.apply, fleet := true } : Txn) = _
      rw [show E.blk b0 = _ from hblk]
    rw [hE.blk_upd, show E.blk b0 = _ from hblk, ht]
    rfl
  cases hsil : r.silent with
  | true => exact (congrArg E.blk (if_pos hsil)).trans hcommits
  | false =>
    refine (congrArg E.blk (if_neg (by rw [hsil]; decide))).trans ?_
    rw [hE.blk_upd, hcommits]
    rfl

theorem Env.Holds.commitFleet_commits :
    (∃ y ∈ (E.blk (commitFleet E s root seq)).txns, y.fleet = true ∧ y.num = seq ∧ y.state = .committed ∧ y.apply = r.body.apply ∧
        y.items = r.staged) ∧
      ∃ y, (E.blk (commitFleet E s root seq)).fleetOf seq = some y ∧ y.token = r.token ∧ y.committed = true := by
  have htxns : (E.blk (commitFleet E s root seq)).txns = (E.blk s).txns ++ [fleetTxn root seq (E.blk s).now r] := by
    rw [hE.blk_commitFleet hc hr hh hnc hw hok]
    split <;> rfl
  have hfleet : (E.blk (commitFleet E s root seq)).fleetOf seq = ((E.blk s).commitsHeld root seq r).fleetOf seq := by
    rw [hE.blk_commitFleet hc hr hh hnc hw hok]
    split <;> rfl
  refine ⟨⟨fleetTxn root seq (E.blk s).now r, ?_, rfl, rfl, rfl, rfl, rfl⟩, { r.given with committed := true }, ?_, rfl, rfl⟩
  · rw [htxns]
    exact List.mem_append_right _ (List.mem_singleton.mpr rfl)
  · rw [hfleet]
    refine (Blk.fleetOf_mapFleet (f := fun x => { x with committed := true }) (fun _ => rfl) _ _).trans ?_
    rw [Blk.fleetOf_mapFleet (f := FleetRec.given) (fun _ => rfl), hr]
    rfl

end

/-- COMMIT_TOKEN at a node that awaits it (R104). -/
theorem Env.Holds.takeToken_commits {σ : Type} {E : Env σ} (hE : E.Holds) (hc : E.CommitsPlain) {s : σ} {seq root : Word} {r : FleetRec}
    {apply : Nat} (h : (E.blk s).Awaits seq r) (hh : r.holds = true) (hnc : r.committed = false)
    (hw : plainWrites (E.blk s).isLeaf r.staged = true)
    (hok : ((E.blk s).mapFleet seq FleetRec.given).commitStatus r.body.apply (r.staged.map (·.1)) = stOk) :
    (∃ y ∈ (E.blk (takeToken E s root seq apply true)).txns, y.fleet = true ∧ y.num = seq ∧ y.state = .committed ∧
        y.apply = r.body.apply ∧ y.items = r.staged) ∧
      ∃ y, (E.blk (takeToken E s root seq apply true)).fleetOf seq = some y ∧ y.token = some true ∧ y.committed = true := by
  have hblk : E.blk (E.upd s (fun b => b.mapFleet seq (fun x => x.told true))) = (E.blk s).mapFleet seq (fun x => x.told true) :=
    hE.blk_upd _ _
  rw [hE.takeToken_acts h, if_pos rfl]
  refine hE.commitFleet_commits (r := r.told true) hc ?_ hh hnc ?_ ?_
  · rw [hblk, Blk.fleetOf_mapFleet (f := fun x => x.told true) (fun _ => rfl), h.record]
    rfl
  · rw [hblk]; exact hw
  · rw [hblk, Blk.commitStatus_given_told]; exact hok

/-! ### TOKEN_QUERY and the answer to one (R104) -/

/-- The answer to a TOKEN_QUERY: the token held, or WRONG_STATE. -/
def tokenAnswer (src : Word) (q : Req) (r : FleetRec) : Resp :=
  match r.token with
  | none => bare src opTokenQuery stWrong q
  | some k => { bare src opTokenQuery stOk q with
      body := natLe 1 (if k then opCommitToken else opAbortToken) ++ natLe 7 0 ++ natLe 8 r.body.apply }

theorem Env.Holds.doTokenQuery_answers {σ : Type} {E : Env σ} (hE : E.Holds) {s : σ} {q : Req} {r : FleetRec}
    (hr : (E.blk s).fleetOf q.txn = some r) (hf : (E.blk s).fresh opTokenQuery q = true) :
    .resp q.way (tokenAnswer ((E.blk s).srcOf q) q r) ∈ (E.blk (doTokenQuery E s q)).out := by
  have hrec : (E.blk (E.hear s q)).fleetOf q.txn = some r := by
    rw [Env.hear, hE.blk_upd]
    exact hr
  rw [doTokenQuery, judge_of_fresh E _ hf (Nat.zero_le _), hrec, Option.bind_some, tokenAnswer]
  cases r.token with
  | none =>
    dsimp only [Option.map_none]
    rw [hE.blk_finishReq]
    exact Blk.resp_mem_answered _ _ _ _
  | some k =>
    dsimp only [Option.map_some]
    rw [hE.blk_finishReq]
    exact Blk.resp_mem_answered _ _ _ _

theorem heardResp_of_abort {σ : Type} {E : Env σ} {s : σ} {p : Resp} (hlive : (E.blk s).live = true) (hp : (E.blk s).phase ≠ .retained)
    (henv : envTaken p.env 1 = true) (hd : (E.blk s).reaches 0 (p.dst.getD (E.blk s).addr) = true) (hop : p.opcode.toNat = opTokenQuery)
    (hst : p.status = 0) (hbody : leAt p.body 0 1 = opAbortToken) (act : σ → σ) :
    heardResp E s p act = takeToken E s p.peer p.txn (leAt p.body 8 8) false := by
  have hup : ¬ (!(E.blk s).live || (E.blk s).phase == .retained) = true := by
    rw [hlive, beq_false_of_ne hp]
    decide
  have htoken : tokenIn p = some false := by
    rw [tokenIn, if_pos ⟨hop, hst⟩, hbody]
    rfl
  rw [heardResp, if_neg hup, henv, if_neg (by decide), hd, if_neg (by decide), htoken]

theorem Blk.seqUsed_fleet (b : Blk) (n : Word) : (b.seqUsed n).fleet = b.fleet := by
  unfold Blk.seqUsed
  split <;> rfl

theorem Blk.seqUsed_acks (b : Blk) (n : Word) : (b.seqUsed n).acks = b.acks := by
  unfold Blk.seqUsed
  split <;> rfl

/-- A PREPARE stages what its pass has found, when every item is accepted. -/
theorem passed_of_prepares {p : Nat × List Wr} {ws : List Wr} (h : (if p.1 = stOk then some p.2 else none) = some ws) : p = (stOk, ws) := by
  split at h
  · next hok => exact Prod.ext hok (Option.some.inj h)
  · cases h

section
variable {q : Req} {r : FleetRec}

/-- A record that awaits its token still does when a broadcast has been passed on. -/
theorem Env.Speaks.awaits_forward {σ : Type} {E : Env σ} (hE : E.Speaks) {t : σ} {seq : Word} (h : (E.blk t).Awaits seq r) (op : Nat)
    (items : List Item) (body : List Byte) (mask : Nat) : (E.blk (E.forward t op seq items body mask)).Awaits seq r :=
  h.of_moved (hE.forward t op seq items body mask)

theorem Env.Speaks.doToken_commits {σ : Type} {E : Env σ} (hE : E.Speaks) (hc : E.CommitsPlain) {t : σ} (h : (E.blk t).Awaits q.txn r)
    (hh : r.holds = true) (hnc : r.committed = false) (ht : (E.blk t).takesFleet opCommitToken q = true)
    (hw : plainWrites (E.blk t).isLeaf r.staged = true)
    (hok : ((E.blk t).mapFleet q.txn FleetRec.given).commitStatus r.body.apply (r.staged.map (·.1)) = stOk) :
    (∃ y ∈ (E.blk (doToken E t q true)).txns, y.fleet = true ∧ y.num = q.txn ∧ y.state = .committed ∧ y.apply = r.body.apply ∧
        y.items = r.staged) ∧
      ∃ y, (E.blk (doToken E t q true)).fleetOf q.txn = some y ∧ y.token = some true ∧ y.committed = true := by
  have hfwd := hE.forward t opCommitToken q.txn q.items q.body ((E.blk t).maskOf q.txn)
  rw [doToken, if_pos rfl, heardFleet_of_takes ht]
  refine hE.holds.takeToken_commits hc (h.of_moved hfwd) hh hnc ?_ ?_
  · rw [hfwd.isLeaf]; exact hw
  · have hmoved : ((E.blk t).mapFleet q.txn FleetRec.given).Moved
        ((E.blk (E.forward t opCommitToken q.txn q.items q.body ((E.blk t).maskOf q.txn))).mapFleet q.txn FleetRec.given) := by
      refine ⟨?_, hfwd.num, hfwd.out⟩
      rw [Blk.mapFleet, Blk.mapFleet, hfwd.fleet]
      have hsame := congrArg (fun b : Blk => ({ b with fleet := (E.blk t).fleet.map (fun x => if x.seq == q.txn then x.given else x) } : Blk)) hfwd.same
      exact hsame
    rw [hmoved.commitStatus]
    exact hok

theorem Env.Speaks.doToken_aborts {σ : Type} {E : Env σ} (hE : E.Speaks) {t : σ} (h : (E.blk t).Awaits q.txn r)
    (ht : (E.blk t).takesFleet opAbortToken q = true) :
    (E.blk (doToken E t q false)).fleetOf q.txn = some (r.told false).dropped := by
  rw [doToken, if_neg Bool.false_ne_true, heardFleet_of_takes ht]
  exact hE.holds.takeToken_aborts (hE.awaits_forward h _ _ _ _)

end

end Sys2Proof.Machine

open Sys2Proof Sys2Proof.Machine

/-- Settles O16: what each command does at the block, said for either build, stands in the state after. -/
theorem fleetTokensDecide : Obligations.FleetTokensDecide := by
  unfold Obligations.FleetTokensDecide
  refine ⟨fun s n q ws ht hnew hscope hprep hlate hfar hconf hup => ?_, fun s n q r hr => ⟨fun hpr hh hnc htok hres htime =>
    ⟨fun ht hw hok => ?_, fun ht => ?_, fun p hlive hphase henv hdst htxn hop hst hbody => ?_⟩, fun hf => ?_⟩⟩
  · have h : (s.ends n (fun l => doPrepare leafEnv l q) (fun cs => cs.prepare q)).fleetOf q.txn =
          some (heldRec q.txn (parseFleet q.body) q.items ws false) ∧
        ∃ a ∈ (s.ends n (fun l => doPrepare leafEnv l q) (fun cs => cs.prepare q)).acks,
          a.1 = (s.blk n).now ∧ a.2.seq = q.txn ∧ a.2.phase = 1 ∧ 0 < a.2.ok := by
      cases n with
      | leaf => exact leafEnv_speaks.doPrepare_holds ht hnew hscope (passed_of_prepares hprep) hlate hfar hconf hup
      | chan c =>
        have hdo := chanEnv_speaks.doPrepare_holds (s := s.cs c) ht hnew hscope (passed_of_prepares hprep) hlate hfar hconf hup
        have hprepare : ((s.cs c).prepare q).ch.b = ((doPrepare chanEnv (s.cs c) q).ch.b).seqUsed q.txn :=
          congrArg (fun cs : CS => cs.ch.b) (if_pos (show (s.cs c).ch.b.takesFleet opPrepare q = true from ht))
        rw [State.ends, hprepare, Blk.fleetOf, Blk.seqUsed_fleet, Blk.seqUsed_acks]
        exact hdo
    obtain ⟨hrec, hacks⟩ := h
    refine ⟨_, rfl, ⟨_, (Blk.fleetOf_of_own State.onNode_own _).trans hrec, rfl, rfl, rfl, rfl, rfl⟩, ?_⟩
    rw [Blk.acks_of_own State.onNode_own]
    exact hacks
  · have ha : (s.blk n).Awaits q.txn r := ⟨hr, hpr, htok, hres, htime⟩
    have h : (∃ y ∈ (s.ends n (fun l => doToken leafEnv l q true) (fun cs => doToken chanEnv cs q true)).txns, y.fleet = true ∧
          y.num = q.txn ∧ y.state = .committed ∧ y.apply = r.body.apply ∧ y.items = r.staged) ∧
        ∃ y, (s.ends n (fun l => doToken leafEnv l q true) (fun cs => doToken chanEnv cs q true)).fleetOf q.txn = some y ∧
          y.token = some true ∧ y.committed = true := by
      cases n with
      | leaf => exact leafEnv_speaks.doToken_commits leafEnv_commitsPlain ha hh hnc ht hw hok
      | chan c => exact chanEnv_speaks.doToken_commits (t := s.cs c) chanEnv_commitsPlain ha hh hnc ht hw hok
    obtain ⟨⟨y, hy, hfleet, hnum, hstate, happly, hitems⟩, z, hz, hzt, hzc⟩ := h
    obtain ⟨x, hx, hstill⟩ := Blk.txns_of_own (State.onNode_own (s := s) (n := n)) hy
    refine ⟨_, rfl, ⟨x, hx, ?_, ?_, (Txn.state_of_still hstill).trans hstate, (Txn.apply_of_still hstill).trans happly,
      (Txn.items_of_still hstill).trans hitems⟩, z, (Blk.fleetOf_of_own State.onNode_own _).trans hz, hzt, hzc⟩
    · exact (Txn.fleet_of_still hstill).trans hfleet
    · exact (Txn.num_of_still hstill).trans hnum
  · have ha : (s.blk n).Awaits q.txn r := ⟨hr, hpr, htok, hres, htime⟩
    have h : (s.ends n (fun l => doToken leafEnv l q false) (fun cs => doToken chanEnv cs q false)).fleetOf q.txn =
        some (r.told false).dropped := by
      cases n with
      | leaf => exact leafEnv_speaks.doToken_aborts ha ht
      | chan c => exact chanEnv_speaks.doToken_aborts (t := s.cs c) ha ht
    exact ⟨_, rfl, _, (Blk.fleetOf_of_own State.onNode_own _).trans h, rfl, rfl, rfl⟩
  · have ha : (s.blk n).Awaits p.txn r := htxn ▸ ⟨hr, hpr, htok, hres, htime⟩
    have h : (s.ends n (fun l => l.response p) (fun cs => cs.response p)).fleetOf q.txn = some (r.told false).dropped := by
      rw [← htxn]
      cases n with
      | leaf =>
        have heard := heardResp_of_abort (E := leafEnv) hlive hphase henv hdst hop hst hbody (fun l => l)
        rw [State.ends, Leaf.response, heard]
        exact leafEnv_holds.takeToken_aborts ha
      | chan c =>
        rw [State.ends, CS.response, heardResp_of_abort (E := chanEnv) (s := s.cs c) hlive hphase henv hdst hop hst hbody]
        exact chanEnv_holds.takeToken_aborts (s := s.cs c) ha
    exact ⟨_, rfl, _, (Blk.fleetOf_of_own State.onNode_own _).trans h, rfl, rfl, rfl⟩
  · have h : .resp q.way (tokenAnswer ((s.blk n).srcOf q) q r) ∈
        (s.ends n (fun l => doTokenQuery leafEnv l q) (fun cs => doTokenQuery chanEnv cs q)).out := by
      cases n with
      | leaf => exact leafEnv_holds.doTokenQuery_answers hr hf
      | chan c => exact chanEnv_holds.doTokenQuery_answers (s := s.cs c) hr hf
    exact ⟨_, rfl, State.onNode_out.subset h⟩

end


section
/-! PROOF. Missing tokens are asked for, and compensation undoes (R104, R106, O17). -/

namespace Sys2Proof.Machine

/-- A command of a node whose units work. -/
theorem State.ends_works {s : State} {n : Node} (hw : (s.blk n).works = true) (fl : Leaf → Leaf) (fc : CS → CS) :
    s.ends n (fun l => if l.b.works then fl l else l) (fun cs => if cs.ch.b.works then fc cs else cs) = s.ends n fl fc := by
  cases n with
  | leaf => exact congrArg Leaf.b (if_pos hw)
  | chan c => exact congrArg (fun cs : CS => cs.ch.b) (if_pos (show (s.cs c).ch.b.works = true from hw))

/-- A request of the block's own is on its way. -/
theorem Blk.request_sends (b : Blk) (dst : Word) (op txn : Nat) :
    ∃ m, .msg m ∈ (b.request dst op txn [] []).out ∧ m.dst = dst ∧ m.opcode = op ∧ m.txn = txn :=
  ⟨_, List.mem_append_right _ (List.mem_singleton.mpr rfl), rfl, rfl, rfl⟩

section
variable {σ : Type} {E : Env σ} (hE : E.Holds) {s : σ} {seq : Word} {r : FleetRec}
include hE

/-! ### A node that holds a PREPARE and has no token (R104) -/

section
variable (hr : (E.blk s).fleetOf seq = some r) (hh : r.holds = true) (ht : r.token = none)
include hr hh ht

theorem Env.Holds.blk_guardQuery (hp : (E.blk s).num K.parentStandby ≠ 0xFFFF)
    (hg : (E.blk s).now + (E.blk s).guardOf r.body + 1 = r.body.apply) :
    E.blk (guardQuery E s seq) =
      ((E.blk s).request (chanAddr ((E.blk s).num K.parentStandby)) opTokenQuery seq.toNat [] []).bump K.tokenQueries := by
  have hdue : ¬ (!r.holds || r.token.isSome || decide ((E.blk s).now + (E.blk s).guardOf r.body + 1 ≠ r.body.apply) ||
      decide ((E.blk s).num K.parentStandby = 0xFFFF)) = true := by
    simp [hh, ht, hg, hp]
  rw [guardQuery, hr]
  dsimp only
  rw [if_neg hdue, hE.blk_upd]

/-- What becomes of a record whose node has given the transaction up: it holds nothing, and later tokens are ignored. -/
def FleetRec.resolvedAs (r : FleetRec) : FleetRec := { r with holds := false, staged := [], resolved := true }

theorem Env.Holds.blk_deadlineDiscard (hd : (E.blk s).pastDeadline r.body = true) :
    E.blk (deadlineDiscard E s seq) = if r.silent then (E.blk s).mapFleet seq FleetRec.resolvedAs
      else ((E.blk s).mapFleet seq FleetRec.resolvedAs).ackOwn seq 2 stExpired := by
  have hdue : ¬ (!r.holds || r.token.isSome || !(E.blk s).pastDeadline r.body) = true := by
    simp [hh, ht, hd]
  rw [deadlineDiscard, hr]
  dsimp only
  rw [if_neg hdue, hE.blk_upd]
  rfl

theorem Env.Holds.deadlineDiscard_discards (hd : (E.blk s).pastDeadline r.body = true) :
    (E.blk (deadlineDiscard E s seq)).fleetOf seq = some r.resolvedAs ∧
      (r.silent = false → ∃ a ∈ (E.blk (deadlineDiscard E s seq)).acks, a.2.seq = seq ∧ a.2.phase = 2 ∧ 0 < a.2.refused) := by
  have hrec : ((E.blk s).mapFleet seq FleetRec.resolvedAs).fleetOf seq = some r.resolvedAs := by
    rw [Blk.fleetOf_mapFleet (f := FleetRec.resolvedAs) (fun _ => rfl), hr]
    rfl
  rw [hE.blk_deadlineDiscard hr hh ht hd]
  refine ⟨?_, fun hs => ?_⟩
  · split
    · exact hrec
    · exact hrec
  · rw [if_neg (by rw [hs]; decide)]
    exact Blk.ackOwn_refused _ _ _ (by decide)

end

/-! ### COMPENSATE (R106) -/

theorem Env.Holds.takeComp_unknown (ac : Nat) (hr : (E.blk s).fleetOf seq = none) :
    (takeComp E s seq ac).1 = stOk ∧ (E.blk (takeComp E s seq ac).2).fleetOf seq =
      some { FleetRec.early seq ac none with resolved := true, compensated := true } := by
  rw [takeComp, hr]
  refine ⟨rfl, ?_⟩
  dsimp only
  rw [hE.blk_upd, Blk.fleetOf]
  refine List.find?_append.trans ?_
  rw [show (E.blk s).fleet.find? _ = none from hr, Option.none_or]
  exact List.find?_cons_of_pos (by simp [FleetRec.early])

section
variable (ac : Nat) (hr : (E.blk s).fleetOf seq = some r) (hc : r.compensated = false) (h0 : r.compAt = 0)
include hr hc h0

/-- A node that has neither applied nor committed discards what it holds. -/
theorem Env.Holds.takeComp_discards (ha : r.applied = false) (hm : r.committed = false) :
    (E.blk (takeComp E s seq ac).2).fleetOf seq =
      some { r with resolved := true, compensated := true, holds := false, staged := [] } := by
  rw [takeComp, hr]
  dsimp only
  rw [if_neg (by rw [hc, h0]; decide), if_neg (by rw [ha]; exact fun h => Bool.false_ne_true h.1), if_neg (by rw [ha, hm]; decide), hE.blk_upd,
    Blk.fleetOf_mapFleet (f := fun x => { x with resolved := true, compensated := true, holds := false, staged := [] }) (fun _ => rfl), hr]
  rfl

/-- A node that has committed, or has applied and holds its undo record, will restore at Ac. -/
theorem Env.Holds.takeComp_restores
    (h : (r.applied = true ∧ (E.blk s).undo.any (fun u => u.seq == seq) = true) ∨ (r.applied = false ∧ r.committed = true)) :
    (E.blk (takeComp E s seq ac).2).fleetOf seq = some { r with compAt := max 1 ac } := by
  have hundo : ¬ (r.applied = true ∧ ¬ (E.blk s).undo.any (fun u => u.seq == seq) = true) := by
    rintro ⟨ha, hu⟩
    rcases h with ⟨-, hu'⟩ | ⟨ha', -⟩
    · exact hu hu'
    · rw [ha] at ha'
      exact absurd ha' (by decide)
  have hdid : r.applied = true ∨ r.committed = true := h.imp And.left And.right
  rw [takeComp, hr]
  dsimp only
  rw [if_neg (by rw [hc, h0]; decide), if_neg hundo, if_pos hdid, hE.blk_upd,
    Blk.fleetOf_mapFleet (f := fun x => { x with compAt := max 1 ac }) (fun _ => rfl), hr]
  rfl

omit hE in
/-- A node that has applied and lost its undo record refuses. -/
theorem takeComp_lost (ha : r.applied = true) (hu : (E.blk s).undo.any (fun u => u.seq == seq) = false) :
    (takeComp E s seq ac).1 = stExpired := by
  rw [takeComp, hr]
  dsimp only
  rw [if_neg (by rw [hc, h0]; decide), if_pos ⟨ha, by rw [hu]; decide⟩]

end
end

section
variable {σ : Type} {E : Env σ} (hE : E.Speaks) {s : σ} {q : Req}

/-- The build at a node that has passed a COMPENSATE on. -/
def Env.passedOn (E : Env σ) (s : σ) (q : Req) : σ := E.forward s opCompensate q.txn q.items q.body ((E.blk s).maskOf q.txn)

include hE

theorem Env.Speaks.moved_passedOn : (E.blk s).Moved (E.blk (E.passedOn s q)) := hE.forward s _ _ _ _ _

/-- The record of a COMPENSATE is the one that the node's own part in it leaves. -/
theorem Env.Speaks.fleetOf_doCompensate (ht : (E.blk s).takesFleet opCompensate q = true) (seq : Word) :
    (E.blk (doCompensate E s q)).fleetOf seq = (E.blk (takeComp E (E.passedOn s q) q.txn (leNat q.body)).2).fleetOf seq := by
  rw [doCompensate, heardFleet_of_takes ht]
  have hend : ∀ (counts : Bool) (r : Nat × σ),
      (E.blk (if counts then E.upd r.2 (fun b => b.ackOwn q.txn 3 r.1) else r.2)).fleetOf seq = (E.blk r.2).fleetOf seq := by
    intro counts r
    cases counts with
    | false => rfl
    | true =>
      rw [if_pos rfl, hE.holds.blk_upd]
      rfl
  exact hend _ _

/-- A node in scope that is not silent counts itself in the compensate record (R106). -/
theorem Env.Speaks.acks_doCompensate {r : FleetRec} (ht : (E.blk s).takesFleet opCompensate q = true)
    (hr : (E.blk s).fleetOf q.txn = some r) (hin : r.inScope = true) (hs : r.silent = false) :
    (E.blk (doCompensate E s q)).acks = ((E.blk (takeComp E (E.passedOn s q) q.txn (leNat q.body)).2).ackOwn q.txn 3
      (takeComp E (E.passedOn s q) q.txn (leNat q.body)).1).acks := by
  rw [doCompensate, heardFleet_of_takes ht]
  dsimp only
  rw [hr]
  dsimp only
  rw [if_pos (show (r.inScope && !r.silent) = true by rw [hin, hs]; decide), hE.holds.blk_upd]
  rfl

theorem Env.Speaks.doCompensate_unknown (ht : (E.blk s).takesFleet opCompensate q = true) (hr : (E.blk s).fleetOf q.txn = none) :
    ∃ y, (E.blk (doCompensate E s q)).fleetOf q.txn = some y ∧ y.resolved = true ∧ y.compensated = true ∧ y.holds = false := by
  have htake := (hE.holds.takeComp_unknown (s := E.passedOn s q) (leNat q.body) ((hE.moved_passedOn.fleetOf _).trans hr)).2
  exact ⟨_, (hE.fleetOf_doCompensate ht _).trans htake, rfl, rfl, rfl⟩

section
variable {r : FleetRec} (ht : (E.blk s).takesFleet opCompensate q = true) (hr : (E.blk s).fleetOf q.txn = some r)
variable (hc : r.compensated = false) (h0 : r.compAt = 0)
include ht hr hc h0

theorem Env.Speaks.doCompensate_discards (ha : r.applied = false) (hm : r.committed = false) :
    ∃ y, (E.blk (doCompensate E s q)).fleetOf q.txn = some y ∧ y.resolved = true ∧ y.compensated = true ∧ y.holds = false ∧ y.staged = [] := by
  have htake := hE.holds.takeComp_discards (s := E.passedOn s q) (leNat q.body) ((hE.moved_passedOn.fleetOf _).trans hr) hc h0 ha hm
  exact ⟨_, (hE.fleetOf_doCompensate ht _).trans htake, rfl, rfl, rfl, rfl⟩

theorem Env.Speaks.doCompensate_restores
    (h : (r.applied = true ∧ (E.blk s).undo.any (fun u => u.seq == q.txn) = true) ∨ (r.applied = false ∧ r.committed = true)) :
    ∃ y, (E.blk (doCompensate E s q)).fleetOf q.txn = some y ∧ y.compAt = max 1 (leNat q.body) := by
  have htake := hE.holds.takeComp_restores (s := E.passedOn s q) (leNat q.body) ((hE.moved_passedOn.fleetOf _).trans hr) hc h0
    (by rw [hE.moved_passedOn.undo]; exact h)
  exact ⟨_, (hE.fleetOf_doCompensate ht _).trans htake, rfl⟩

theorem Env.Speaks.doCompensate_refuses (ha : r.applied = true) (hu : (E.blk s).undo.any (fun u => u.seq == q.txn) = false)
    (hin : r.inScope = true) (hs : r.silent = false) :
    ∃ a ∈ (E.blk (doCompensate E s q)).acks, a.2.seq = q.txn ∧ a.2.phase = 3 ∧ 0 < a.2.refused := by
  have htake := takeComp_lost (s := E.passedOn s q) (leNat q.body) ((hE.moved_passedOn.fleetOf _).trans hr) hc h0 ha
    (by rw [hE.moved_passedOn.undo]; exact hu)
  rw [hE.acks_doCompensate ht hr hin hs, htake]
  exact Blk.ackOwn_refused _ _ _ (by decide)

end
end

end Sys2Proof.Machine

open Sys2Proof Sys2Proof.Machine

/-- Settles O17: what each command does at the block, said for either build, stands in the state after. -/
theorem fleetLossesAreMended : Obligations.FleetLossesAreMended := by
  unfold Obligations.FleetLossesAreMended
  refine ⟨fun s n seq r hw hr hh ht => ⟨fun hp hg => ?_, fun hd => ?_⟩, fun s n q htakes => ⟨fun hr => ?_, fun r hr hc h0 =>
    ⟨fun ha hm => ?_, fun h => ?_, fun ha hu hin hs => ?_⟩⟩, fun s n seq hw => ?_⟩
  · have h : s.ends n (fun l => if l.b.works then guardQuery leafEnv l seq else l)
          (fun cs => if cs.ch.b.works then guardQuery chanEnv cs seq else cs) =
        ((s.blk n).request (chanAddr ((s.blk n).num K.parentStandby)) opTokenQuery seq.toNat [] []).bump K.tokenQueries := by
      rw [State.ends_works hw]
      cases n with
      | leaf => exact leafEnv_holds.blk_guardQuery hr hh ht hp hg
      | chan c => exact chanEnv_holds.blk_guardQuery (s := s.cs c) hr hh ht hp hg
    obtain ⟨m, hm, hdst, hop, htxn⟩ := (s.blk n).request_sends (chanAddr ((s.blk n).num K.parentStandby)) opTokenQuery seq.toNat
    refine ⟨_, rfl, ⟨m, State.onNode_out.subset (h ▸ hm), hdst, hop, htxn⟩, ?_⟩
    have hnum := Blk.num_of_own (State.onNode_own (s := s) (n := n) (fl := fun l => if l.b.works then guardQuery leafEnv l seq else l)
      (fc := fun cs => if cs.ch.b.works then guardQuery chanEnv cs seq else cs)) (k := K.tokenQueries) (by decide)
    rw [h] at hnum
    exact hnum.trans (Blk.counts_bump ((s.blk n).request (chanAddr ((s.blk n).num K.parentStandby)) opTokenQuery seq.toNat [] [])
      K.tokenQueries 1)
  · have h : (s.ends n (fun l => if l.b.works then deadlineDiscard leafEnv l seq else l)
            (fun cs => if cs.ch.b.works then deadlineDiscard chanEnv cs seq else cs)).fleetOf seq = some r.resolvedAs ∧
          (r.silent = false → ∃ a ∈ (s.ends n (fun l => if l.b.works then deadlineDiscard leafEnv l seq else l)
            (fun cs => if cs.ch.b.works then deadlineDiscard chanEnv cs seq else cs)).acks, a.2.seq = seq ∧ a.2.phase = 2 ∧ 0 < a.2.refused) := by
      rw [State.ends_works hw]
      cases n with
      | leaf => exact leafEnv_holds.deadlineDiscard_discards hr hh ht (decide_eq_true hd)
      | chan c => exact chanEnv_holds.deadlineDiscard_discards (s := s.cs c) hr hh ht (decide_eq_true hd)
    obtain ⟨hrec, hacks⟩ := h
    refine ⟨_, rfl, ⟨_, (Blk.fleetOf_of_own State.onNode_own _).trans hrec, rfl, rfl, rfl⟩, fun hs => ?_⟩
    rw [Blk.acks_of_own State.onNode_own]
    exact hacks hs
  · have h : ∃ y, (s.ends n (fun l => doCompensate leafEnv l q) (fun cs => doCompensate chanEnv cs q)).fleetOf q.txn = some y ∧
        y.resolved = true ∧ y.compensated = true ∧ y.holds = false := by
      cases n with
      | leaf => exact leafEnv_speaks.doCompensate_unknown htakes hr
      | chan c => exact chanEnv_speaks.doCompensate_unknown (s := s.cs c) htakes hr
    obtain ⟨y, hy, hrest⟩ := h
    exact ⟨_, rfl, y, (Blk.fleetOf_of_own State.onNode_own _).trans hy, hrest⟩
  · have h : ∃ y, (s.ends n (fun l => doCompensate leafEnv l q) (fun cs => doCompensate chanEnv cs q)).fleetOf q.txn = some y ∧
        y.resolved = true ∧ y.compensated = true ∧ y.holds = false ∧ y.staged = [] := by
      cases n with
      | leaf => exact leafEnv_speaks.doCompensate_discards htakes hr hc h0 ha hm
      | chan c => exact chanEnv_speaks.doCompensate_discards (s := s.cs c) htakes hr hc h0 ha hm
    obtain ⟨y, hy, hrest⟩ := h
    exact ⟨_, rfl, y, (Blk.fleetOf_of_own State.onNode_own _).trans hy, hrest⟩
  · have h' : ∃ y, (s.ends n (fun l => doCompensate leafEnv l q) (fun cs => doCompensate chanEnv cs q)).fleetOf q.txn = some y ∧
        y.compAt = max 1 (leNat q.body) := by
      cases n with
      | leaf => exact leafEnv_speaks.doCompensate_restores htakes hr hc h0 h
      | chan c => exact chanEnv_speaks.doCompensate_restores (s := s.cs c) htakes hr hc h0 h
    obtain ⟨y, hy, hrest⟩ := h'
    exact ⟨_, rfl, y, (Blk.fleetOf_of_own State.onNode_own _).trans hy, hrest⟩
  · have h : ∃ a ∈ (s.ends n (fun l => doCompensate leafEnv l q) (fun cs => doCompensate chanEnv cs q)).acks,
        a.2.seq = q.txn ∧ a.2.phase = 3 ∧ 0 < a.2.refused := by
      cases n with
      | leaf => exact leafEnv_speaks.doCompensate_refuses htakes hr hc h0 ha hu hin hs
      | chan c => exact chanEnv_speaks.doCompensate_refuses (s := s.cs c) htakes hr hc h0 ha hu hin hs
    obtain ⟨a, hmem, hrest⟩ := h
    exact ⟨_, rfl, a, Blk.acks_of_own (State.onNode_own (s := s) (n := n)) ▸ hmem, hrest⟩
  · have h : (s.ends n (fun l => if l.b.works then undoExpire leafEnv l seq else l)
        (fun cs => if cs.ch.b.works then undoExpire chanEnv cs seq else cs)).undo = (s.blk n).undo.filter (fun u =>
          !(u.seq == seq && decide (u.apply + (s.blk n).num K.undoHorizon ≤ (s.blk n).now))) := by
      rw [State.ends_works hw]
      cases n <;> rfl
    exact ⟨_, rfl, (congrArg Blk.undo (State.onNode_own (s := s) (n := n)) :).trans h⟩

end


section
/-! PROOF. What acting on a fleet message leaves alone at a node: its requests in execution, its flags and its registers (R98 to R106). -/

namespace Sys2Proof.Machine

/-- From `b` to `b'` the requests in execution, the error flags and the registers but for the counters of messages stand, what has been
sent has only grown, and a number whose PREPARE has been seen stays on record as such. -/
structure Blk.Bides (b b' : Blk) : Prop where
  execs : b'.execs = b.execs
  isLeaf : b'.isLeaf = b.isLeaf
  err : b'.err = b.err
  num : ∀ k, k ∉ msgCounters → b'.num k = b.num k
  out : b.out <+: b'.out
  seen : ∀ r ∈ b.fleet, r.prepared = true → ∃ y ∈ b'.fleet, y.seq = r.seq ∧ y.prepared = true

/-- A change that sends nothing and keeps every register bides when it keeps what has been seen. -/
theorem Blk.Bides.of_seen {b b' : Blk} (hs : b' = { b with fleet := b'.fleet, acks := b'.acks, txns := b'.txns, jobs := b'.jobs })
    (hseen : ∀ r ∈ b.fleet, r.prepared = true → ∃ y ∈ b'.fleet, y.seq = r.seq ∧ y.prepared = true) : b.Bides b' := by
  refine ⟨?_, ?_, ?_, fun k _ => ?_, ?_, hseen⟩
  · rw [hs]
  · rw [hs]
  · rw [hs]
  · rw [hs]
    rfl
  · exact ⟨[], by rw [List.append_nil, hs]⟩

theorem Blk.Bides.of_fleet {b b' : Blk} (hs : b' = { b with acks := b'.acks, txns := b'.txns, jobs := b'.jobs }) : b.Bides b' := by
  refine .of_seen ?_ fun r hr hp => ⟨r, ?_, rfl, hp⟩
  · rw [hs]
  · rw [hs]
    exact hr

/-- A change that adds to what the block has on record of the fleet. -/
theorem Blk.bides_fleet_append (b : Blk) (l : List FleetRec) : b.Bides { b with fleet := b.fleet ++ l } :=
  .of_seen rfl fun r hr hp => ⟨r, List.mem_append_left _ hr, rfl, hp⟩

theorem Blk.Bides.refl (b : Blk) : b.Bides b := .of_fleet rfl

theorem Blk.Bides.trans {a b c : Blk} (h : a.Bides b) (k : b.Bides c) : a.Bides c :=
  ⟨k.execs.trans h.execs, k.isLeaf.trans h.isLeaf, k.err.trans h.err, fun j hj => (k.num j hj).trans (h.num j hj), h.out.trans k.out,
    fun r hr hp => by
      obtain ⟨y, hy, hseq, hyp⟩ := h.seen r hr hp
      obtain ⟨z, hz, hzseq, hzp⟩ := k.seen y hy hyp
      exact ⟨z, hz, hzseq.trans hseq, hzp⟩⟩

theorem Blk.Moved.bides {b b' : Blk} (h : b.Moved b') : b.Bides b' :=
  ⟨h.execs, h.isLeaf, h.err, h.num, h.out, fun r hr hp => ⟨r, by rw [h.fleet]; exact hr, rfl, hp⟩⟩

theorem Blk.bides_mapFleet (b : Blk) (seq : Word) {f : FleetRec → FleetRec} (hf : ∀ r, (f r).seq = r.seq ∧ (f r).prepared = r.prepared) :
    b.Bides (b.mapFleet seq f) := by
  refine .of_seen rfl fun r hr hp => ⟨_, List.mem_map.mpr ⟨r, hr, rfl⟩, ?_⟩
  split
  · obtain ⟨hseq, hprep⟩ := hf r
    exact ⟨hseq, hprep.trans hp⟩
  · exact ⟨rfl, hp⟩

theorem Blk.bides_mapFleet_txns (b : Blk) (seq : Word) {f : FleetRec → FleetRec}
    (hf : ∀ r, (f r).seq = r.seq ∧ (f r).prepared = r.prepared) (l : List Txn) : b.Bides { b.mapFleet seq f with txns := l } :=
  .of_seen rfl (Blk.bides_mapFleet b seq hf).seen

theorem Blk.seq_of_fleetOf {b : Blk} {seq : Word} {r : FleetRec} (h : b.fleetOf seq = some r) : r.seq = seq := by
  have hseq := List.find?_some h
  exact beq_iff_eq.mp hseq

theorem Blk.bides_ackOwn (b : Blk) (seq : Word) (phase st : Nat) : b.Bides (b.ackOwn seq phase st) := .of_fleet rfl

/-- A record put in the place of the ones of its number. -/
theorem Blk.bides_records (b : Blk) {seq : Word} {x : FleetRec} (hs : x.seq = seq) (hp : x.prepared = true) :
    b.Bides { b with fleet := b.fleet.filter (fun r => r.seq != seq) ++ [x] } := by
  refine .of_seen rfl fun r hr hrp => ?_
  by_cases h : r.seq = seq
  · exact ⟨x, List.mem_append_right _ (List.mem_singleton.mpr rfl), hs.trans h.symm, hp⟩
  · exact ⟨r, List.mem_append_left _ (List.mem_filter.mpr ⟨hr, by simpa using h⟩), rfl, hrp⟩

/-- A relation between the states of a build in which it acts on fleet messages: what changes its block bides, and it passes on, refuses and
stages within the relation. -/
structure Env.BidesIn {σ : Type} (E : Env σ) (R : σ → σ → Prop) : Prop where
  refl : ∀ s, R s s
  trans : ∀ {s t u}, R s t → R t u → R s u
  upd : ∀ s (g : Blk → Blk), (E.blk s).Bides (g (E.blk s)) → R s (E.upd s g)
  forward : ∀ s op txn items body mask, R s (E.forward s op txn items body mask)
  miss : ∀ s k st, R s (E.miss s k st)
  staged : ∀ s k v, R s (E.staged s k v)

/-- What a node does with a PREPARE that it acts on (R99, R100). -/
def prepareAct {σ : Type} (E : Env σ) (q : Req) (s : σ) : σ :=
  let b := E.blk s
  let body := parseFleet q.body
  let s1 := E.forward s opPrepare q.txn q.items q.body body.mask
  if b.fleet.any (fun r => r.seq == q.txn && r.prepared) then s1
  else
    let silent := decide (b.num K.bringupState < 8)
    let r := holdFleet E s1 q.txn body q (b.effRole q) silent
    let s2 := match r.1 with
      | none => r.2
      | some st => if silent then r.2 else E.upd r.2 (fun b => b.ackOwn q.txn 1 st)
    match (b.fleetOf q.txn).bind (·.token) with
    | none => s2
    | some t => if b.pastDeadline body then s2 else actToken E s2 q.src q.txn t

theorem doPrepare_eq {σ : Type} (E : Env σ) (s : σ) (q : Req) : doPrepare E s q = heardFleet E s opPrepare q (prepareAct E q) := rfl

theorem rel_ite {α : Type} {R : α → α → Prop} {c : Prop} [Decidable c] {s x y : α} (hx : R s x) (hy : R s y) : R s (if c then x else y) := by
  split
  · exact hx
  · exact hy

section
variable {σ : Type} {E : Env σ} {R : σ → σ → Prop} (h : E.BidesIn R)
include h

theorem Env.BidesIn.stagedAll (ws : List Wr) (s : σ) : R s (ws.foldl (fun t w => E.staged t w.1 w.2) s) :=
  foldl_rel R h.refl h.trans _ (fun x w => h.staged x w.1 w.2) ws s

theorem Env.BidesIn.prepareItems (s : σ) (q : Req) (role : Nat) (items : List Item) : R s (prepareItems E s q role items).st := by
  refine foldl_rel (fun p p' : Pass σ => R p.st p'.st) (fun p => h.refl p.st) (fun a b => h.trans a b) _ (fun p i => ?_) items (Pass.start s)
  unfold Machine.stageOne
  extract_lets mine view r st
  dsimp only
  exact rel_ite (h.refl _) (h.miss _ _ _)

theorem Env.BidesIn.holdFleet (s : σ) (seq : Word) (body : FleetBody) (q : Req) (role : Nat) (silent : Bool) :
    R s (holdFleet E s seq body q role silent).2 := by
  unfold Machine.holdFleet
  extract_lets mine scope old p s' b ws st good rec_ s1 s2
  have hs' : R s s' := h.trans (h.prepareItems s q role mine) (h.upd _ _ (Blk.moved_countRole _ _).bides)
  have hold : rec_.seq = seq := by
    show (((E.blk s).fleetOf seq).getD _).seq = seq
    cases hr : (E.blk s).fleetOf seq with
    | none => rfl
    | some r => exact Blk.seq_of_fleetOf hr
  have hs1 : R s s1 := h.trans hs' (h.upd _ _ (Blk.bides_records _ hold rfl))
  exact rel_ite (h.trans hs1 (h.stagedAll _ _)) hs1

theorem Env.BidesIn.commitFleet (s : σ) (root seq : Word) : R s (commitFleet E s root seq) := by
  unfold Machine.commitFleet
  split
  · exact h.refl s
  · next r _ =>
    extract_lets b0 keys imgs st0 st done fresh t cs
    have h0 : R s b0 := h.upd _ _ (Blk.bides_mapFleet _ _ fun _ => ⟨rfl, rfl⟩)
    have hdone : ∀ (u : σ) (st : Nat), R s u → R s (done u st) := fun u st hu =>
      rel_ite hu (h.trans hu (h.upd _ _ (Blk.bides_ackOwn _ _ _ _)))
    refine rel_ite (h.refl s) (rel_ite (hdone _ _ h0) (rel_ite (hdone _ _ (h.trans h0 ?_)) (h.trans h0 ?_)))
    · exact h.upd _ _ (Blk.bides_mapFleet_txns (E.blk b0) seq (f := fun x => { x with committed := true }) (fun _ => ⟨rfl, rfl⟩) _)
    · exact h.upd _ _ (.of_fleet rfl)

theorem Env.BidesIn.actToken (s : σ) (root seq : Word) (commit : Bool) : R s (actToken E s root seq commit) := by
  unfold Machine.actToken
  exact rel_ite (h.refl s) (rel_ite (h.commitFleet _ _ _) (h.upd _ _ (Blk.bides_mapFleet _ _ fun _ => ⟨rfl, rfl⟩)))

theorem Env.BidesIn.takeToken (s : σ) (root seq : Word) (apply : Nat) (commit : Bool) : R s (takeToken E s root seq apply commit) := by
  unfold Machine.takeToken
  split
  · exact h.upd _ _ (Blk.bides_fleet_append _ _)
  · extract_lets s1
    have h1 : R s s1 := h.upd _ _ (Blk.bides_mapFleet _ _ fun _ => ⟨rfl, rfl⟩)
    exact rel_ite (h.refl s) (rel_ite (h.trans h1 (h.actToken _ _ _ _)) h1)

theorem Env.BidesIn.takeComp (s : σ) (seq : Word) (ac : Nat) : R s (takeComp E s seq ac).2 := by
  have hmap : ∀ f : FleetRec → FleetRec, (∀ r, (f r).seq = r.seq ∧ (f r).prepared = r.prepared) →
      R s (E.upd s (fun b => b.mapFleet seq f)) := fun f hf => h.upd _ _ (Blk.bides_mapFleet _ _ hf)
  unfold Machine.takeComp
  extract_lets b
  split
  · exact h.upd s (fun b => { b with fleet := b.fleet ++ _ }) (Blk.bides_fleet_append _ _)
  · split
    · exact h.refl s
    · split
      · exact h.refl s
      · split
        · exact hmap _ fun _ => ⟨rfl, rfl⟩
        · exact hmap _ fun _ => ⟨rfl, rfl⟩

/-- A broadcast that is not for another node. -/
theorem Env.BidesIn.heardFleet {s : σ} {op : Nat} {q : Req} {act : σ → σ} (hm : (E.blk s).mine op q = true) (ha : R s (act s)) :
    R s (heardFleet E s op q act) := by
  unfold Machine.heardFleet
  extract_lets b
  refine rel_ite (h.refl s) (rel_ite (h.upd _ _ (Blk.moved_badEnvelope _ _).bides) ?_)
  rw [if_neg (show ¬ (!b.mine op q) = true by rw [show b.mine op q = true from hm]; decide)]
  exact rel_ite ha (h.refl s)

theorem Env.BidesIn.doToken {s : σ} {q : Req} {commit : Bool} (hm : (E.blk s).mine (if commit then opCommitToken else opAbortToken) q = true) :
    R s (doToken E s q commit) := by
  unfold Machine.doToken
  exact h.heardFleet hm (h.trans (h.forward _ _ _ _ _ _) (h.takeToken _ _ _ _ _))

theorem Env.BidesIn.doCompensate {s : σ} {q : Req} (hm : (E.blk s).mine opCompensate q = true) : R s (doCompensate E s q) := by
  refine h.heardFleet hm ?_
  have h1 : ∀ seq ac mask, R s (Machine.takeComp E (E.forward s opCompensate q.txn q.items q.body mask) seq ac).2 := fun _ _ _ =>
    h.trans (h.forward _ _ _ _ _ _) (h.takeComp _ _ _)
  exact rel_ite (h.trans (h1 _ _ _) (h.upd _ _ (Blk.bides_ackOwn _ _ _ _))) (h1 _ _ _)

/-- From the state in which a node holds a PREPARE to the one in which it has counted itself and acted on an early token, the build bides. -/
theorem Env.BidesIn.prepareAct (s : σ) (q : Req) :
    ((∃ r ∈ (E.blk s).fleet, r.seq = q.txn ∧ r.prepared = true) ∧
        prepareAct E q s = E.forward s opPrepare q.txn q.items q.body (parseFleet q.body).mask) ∨
      ∃ role silent, R (Machine.holdFleet E (E.forward s opPrepare q.txn q.items q.body (parseFleet q.body).mask) q.txn (parseFleet q.body) q
        role silent).2 (prepareAct E q s) := by
  unfold Machine.prepareAct
  extract_lets b body s1 silent r s2
  split
  · next hseen =>
    obtain ⟨r, hr, hrp⟩ := List.any_eq_true.mp hseen
    rw [Bool.and_eq_true, beq_iff_eq] at hrp
    exact .inl ⟨⟨r, hr, hrp⟩, rfl⟩
  · refine .inr ⟨(E.blk s).effRole q, decide ((E.blk s).num K.bringupState < 8), ?_⟩
    have hs2 : R r.2 s2 := by
      show R r.2 (match r.1 with | none => r.2 | some st => if silent then r.2 else E.upd r.2 (fun b => b.ackOwn q.txn 1 st))
      split
      · exact h.refl _
      · exact rel_ite (h.refl _) (h.upd _ _ (Blk.bides_ackOwn _ _ _ _))
    split
    · exact hs2
    · exact rel_ite hs2 (h.trans hs2 (h.actToken _ _ _ _))

theorem Env.BidesIn.doPrepare {s : σ} {q : Req} (hm : (E.blk s).mine opPrepare q = true) : R s (doPrepare E s q) := by
  rw [doPrepare_eq]
  refine h.heardFleet hm ?_
  have hfwd : R s (E.forward s opPrepare q.txn q.items q.body (parseFleet q.body).mask) := h.forward _ _ _ _ _ _
  rcases h.prepareAct s q with ⟨-, heq⟩ | ⟨role, silent, hrest⟩
  · rw [heq]
    exact hfwd
  · exact h.trans hfwd (h.trans (h.holdFleet _ _ _ _ _ _) hrest)

end

/-! ### The same at a channel, whose own root's transactions stand too -/

/-- From `x` to `y` a channel's block bides, and what it has in flight as fleet root stands. -/
def CS.Bides (x y : CS) : Prop := x.ch.b.Bides y.ch.b ∧ y.ch.root = x.ch.root

theorem CS.Bides.trans {x y z : CS} (h : x.Bides y) (k : y.Bides z) : x.Bides z := ⟨h.1.trans k.1, k.2.trans h.2⟩

theorem Chan.sendOp_root (c : Chan) (r : Remote) : (c.sendOp r).root = c.root := by
  unfold Chan.sendOp
  split <;> rfl

theorem chanEnv_bides : chanEnv.BidesIn CS.Bides where
  refl x := ⟨.refl _, rfl⟩
  trans h k := h.trans k
  upd x g hg := ⟨hg, rfl⟩
  forward x op txn items body mask := by
    refine ⟨(chanEnv_speaks.forward x op txn items body mask).bides, ?_⟩
    refine foldl_keeps Chan.root _ (fun y a => ?_) _ x.ch
    rfl
  miss x k st := by
    refine ⟨(chanEnv_speaks.miss x k st).bides, ?_⟩
    show (CS.ch (if _ then _ else x)).root = _
    split <;> rfl
  staged x k v := by
    refine ⟨(chanEnv_speaks.staged x k v).bides, ?_⟩
    show (CS.ch (if _ then x.on Chan.handOver else x)).root = _
    split
    · exact foldl_keeps Chan.root _ (fun y _ => Chan.sendOp_root y _) _ _
    · rfl

/-! ### A fleet message of the root (R97, R103) -/

theorem Chan.bides_broadcast (c : Chan) (op : Nat) (seq : Word) (items : List Item) (body : List Byte) :
    c.b.Bides (c.broadcast op seq items body).b :=
  (foldl_moved Chan.b _ (fun x _ => Blk.moved_request x.b _ _ _ _ _) _ c).bides

theorem Chan.broadcast_root (c : Chan) (op : Nat) (seq : Word) (items : List Item) (body : List Byte) :
    (c.broadcast op seq items body).root = c.root := by
  refine foldl_keeps Chan.root _ (fun y a => ?_) _ c
  rfl

/-- A fleet message goes to the standby root and to every pod root. -/
theorem Chan.broadcast_reaches (c : Chan) (op : Nat) (seq : Word) (items : List Item) (body : List Byte) {a : Word} (ha : a ∈ c.fleetDsts) :
    ∃ m, .msg m ∈ (c.broadcast op seq items body).b.out ∧ m.dst = a ∧ m.opcode = op ∧ m.txn = seq.toNat ∧ m.body = body := by
  refine foldl_reaches (R := fun x y : Chan => x.b.out <+: y.b.out) (g := fun x a => x.onB (fun b => b.request a op seq.toNat items body)) (fun _ => List.prefix_refl _) (fun h k => h.trans k)
    (fun x _ => (Blk.moved_request x.b _ _ _ _ _).out) (P := fun x : Chan => ∃ m, .msg m ∈ x.b.out ∧ m.dst = a ∧ m.opcode = op ∧
      m.txn = seq.toNat ∧ m.body = body) ?_ ha c (fun x _ => ?_)
  · rintro x y h ⟨m, hm, hrest⟩
    exact ⟨m, h.subset hm, hrest⟩
  · exact ⟨_, List.mem_append_right _ (List.mem_singleton.mpr rfl), rfl, rfl, rfl, rfl⟩

theorem CS.bides_spread (x : CS) (op : Nat) (seq : Word) (items : List Item) (body : List Byte) :
    CS.Bides (x.on (fun c => c.broadcast op seq items body)) (x.spread op seq items body) := by
  unfold CS.spread
  extract_lets s1 q
  exact rel_ite (chanEnv_bides.doPrepare rfl) (rel_ite (chanEnv_bides.doToken rfl)
    (rel_ite (chanEnv_bides.doToken rfl) (chanEnv_bides.doCompensate rfl)))

end Sys2Proof.Machine
end


section
/-! PROOF. What the fleet root answers, counts and decides (R97, R102, R105, O18). -/

namespace Sys2Proof.Machine

/-! ### The root's own PREPARE (R97) -/

/-- A message of the root to itself is one that it acts on, when its parts add up (R76). -/
theorem Blk.takesFleet_ownReq {b : Blk} (hw : b.works = true) {seq : Word} {op : Nat} {items : List Item} {body : List Byte}
    (hlen : body.length = bodyLen op) (hsize : 16 + body.length + (items.map (fun i => 8 + (i.data.length + 7) / 8 * 8)).sum ≤ 8192)
    (hcount : items.length ≤ 511) : b.takesFleet op (ownReq b seq items body) = true := by
  have hhears : b.hears (ownReq b seq items body) = true := by
    unfold Blk.works at hw
    split at hw
    · next hp => simp only [Blk.hears, ownReq, Blk.live, hp]
    · next hp => simp only [Blk.hears, ownReq, Blk.live, hp]
    · cases hw
  have hlength : (BitVec.ofNat 16 (16 + body.length + (items.map (fun i => 8 + (i.data.length + 7) / 8 * 8)).sum)).toNat =
      16 + body.length + (items.map (fun i => 8 + (i.data.length + 7) / 8 * 8)).sum := by
    rw [BitVec.toNat_ofNat]
    omega
  have hitems : (BitVec.ofNat 16 items.length).toNat = items.length := by
    rw [BitVec.toNat_ofNat]
    omega
  have henv : envOk (ownReq b seq items body) = true := by
    show (_ && _ && _ && _) = true
    simp only [ownReq, reqSize, hlength, hsize, decide_true]
    rfl
  have hwhole : whole (ownReq b seq items body) = true := by
    simp only [whole, sumsOk, ownReq, reqSize, hitems, hsize, hcount, decide_true, Bool.and_self]
  rw [Blk.takesFleet, hhears, henv, hwhole]
  exact decide_eq_true hlen

section
variable {σ : Type} {E : Env σ} (hE : E.Speaks)
include hE

theorem Env.Speaks.holdFleet_seen (s : σ) (seq : Word) (body : FleetBody) (q : Req) (role : Nat) (silent : Bool) :
    ∃ r ∈ (E.blk (holdFleet E s seq body q role silent).2).fleet, r.seq = seq ∧ r.prepared = true := by
  unfold holdFleet
  extract_lets mine scope old p s' b ws st good rec_ s1 s2
  have hrec : rec_.seq = seq := by
    show (((E.blk s).fleetOf seq).getD _).seq = seq
    cases hr : (E.blk s).fleetOf seq with
    | none => rfl
    | some r => exact Blk.seq_of_fleetOf hr
  have hin : rec_ ∈ (E.blk s1).fleet := by
    rw [show E.blk s1 = _ from hE.holds.blk_upd _ _]
    exact List.mem_append_right _ (List.mem_singleton.mpr rfl)
  have hs2 : (E.blk s2).fleet = (E.blk s1).fleet := by
    show (E.blk (if good then ws.foldl (fun t w => E.staged t w.1 w.2) s1 else s1)).fleet = _
    split
    · exact (hE.movedStagedAll _ _).fleet
    · rfl
  refine ⟨rec_, ?_, hrec, rfl⟩
  rw [show (E.blk s2).fleet = _ from hs2]
  exact hin

end

/-- A PREPARE that a channel acts on is on record. -/
theorem CS.doPrepare_seen {x : CS} {q : Req} (ht : x.ch.b.takesFleet opPrepare q = true) :
    ∃ r ∈ (doPrepare chanEnv x q).ch.b.fleet, r.seq = q.txn ∧ r.prepared = true := by
  rw [doPrepare_eq, heardFleet_of_takes (E := chanEnv) ht]
  rcases chanEnv_bides.prepareAct x q with ⟨hseen, heq⟩ | ⟨role, silent, hrest, -⟩
  · obtain ⟨r, hr, hseq, hp⟩ := hseen
    rw [heq]
    obtain ⟨y, hy, hys, hyp⟩ := (chanEnv_speaks.forward x opPrepare q.txn q.items q.body (parseFleet q.body).mask).bides.seen r hr hp
    exact ⟨y, hy, hys.trans hseq, hyp⟩
  · obtain ⟨r, hr, hseq, hp⟩ := chanEnv_speaks.holdFleet_seen (chanEnv.forward x opPrepare q.txn q.items q.body (parseFleet q.body).mask)
      q.txn (parseFleet q.body) q role silent
    obtain ⟨y, hy, hys, hyp⟩ := hrest.seen r hr hp
    exact ⟨y, hy, hys.trans hseq, hyp⟩

/-- The root has acted on the PREPARE that it sends. -/
theorem CS.spread_prepare_seen {x : CS} (hw : x.ch.b.works = true) {seq : Word} {items : List Item} {body : List Byte} (hlen : body.length = 32)
    (hsize : 16 + body.length + (items.map (fun i => 8 + (i.data.length + 7) / 8 * 8)).sum ≤ 8192) (hcount : items.length ≤ 511) :
    ∃ r ∈ (x.spread opPrepare seq items body).ch.b.fleet, r.seq = seq ∧ r.prepared = true := by
  have hmoved : x.ch.b.Moved (x.on (fun c => c.broadcast opPrepare seq items body)).ch.b :=
    foldl_moved Chan.b _ (fun y _ => Blk.moved_request y.b _ _ _ _ _) _ x.ch
  have hworks : (x.on (fun c => c.broadcast opPrepare seq items body)).ch.b.works = true := by
    rw [hmoved.same]
    exact hw
  exact CS.doPrepare_seen (q := ownReq _ seq items body) (Blk.takesFleet_ownReq hworks hlen hsize hcount)

/-! ### FLEET_REQUEST (R97) -/

theorem Leaf.refuseFleet_answers {l : Leaf} {q : Req} (hf : l.b.fresh opFleetRequest q = true) (hlen : q.body.length = 32)
    (hrole : 2 ≤ l.b.effRole q) : .resp q.way (bare (l.b.srcOf q) opFleetRequest stWrong q) ∈ (l.refuseFleet q).b.out := by
  rw [Leaf.refuseFleet, decide_eq_true hlen, judge_of_fresh leafEnv _ hf hrole]
  exact Blk.resp_mem_answered _ _ _ _

/-- A fleet request in execution, until it is decided. -/
def fleetExec (src : Word) (q : Req) : Exec :=
  { way := q.way, src := src, seq := q.seq, resp := bare src opFleetRequest stOk q, writes := [], waiting := 1, fails := [] }

/-- A channel that has heard a fleet request and has it in execution. -/
def CS.asked (x : CS) (q : Req) : CS :=
  (chanEnv.hear x q).on (fun c => c.onB (fun b => { b with execs := b.execs ++ [fleetExec (x.ch.b.srcOf q) q] }))

/-- The transaction of an accepted request, at its acceptance. -/
def Chan.newFlight (c : Chan) (src : Word) (q : Req) : FleetTx :=
  { seq := BitVec.ofNat 32 (c.b.num K.fleetSeqNext), body := parseFleet q.body, items := q.items, way := q.way, src := src, num := q.seq,
    accepted := c.b.now, expected := c.expected (parseFleet q.body) q.items, shares := c.tree.scopeShares (parseFleet q.body).mask,
    decided := none, compAt := 0, sentAt := 0, mapPrior := [], counted := false }

/-- A root with a transaction more in flight, under the next sequence number. -/
def Chan.launch (c : Chan) (tx : FleetTx) : Chan :=
  { c with b := c.b.setNum K.fleetSeqNext ((c.b.num K.fleetSeqNext + 1) % 2 ^ 32), root := c.root ++ [tx] }

/-- The root before its PREPARE goes out. -/
def CS.inFlight (x : CS) (q : Req) : CS := (x.asked q).on (fun c => c.launch (c.newFlight (x.ch.b.srcOf q) q))

theorem CS.inFlight_root (x : CS) (q : Req) :
    (x.inFlight q).ch.root = x.ch.root ++ [(x.asked q).ch.newFlight (x.ch.b.srcOf q) q] := rfl

theorem CS.inFlight_seqNext (x : CS) (q : Req) :
    (x.inFlight q).ch.b.num K.fleetSeqNext = (x.ch.b.num K.fleetSeqNext + 1) % 2 ^ 32 := Blk.num_setNum_same _ _ _

theorem CS.inFlight_works (x : CS) (q : Req) : (x.inFlight q).ch.b.works = x.ch.b.works := rfl

theorem CS.asked_num (x : CS) (q : Req) (k : Nat) : (x.asked q).ch.b.num k = x.ch.b.num k := rfl

theorem Chan.newFlight_seq (c : Chan) (src : Word) (q : Req) : (c.newFlight src q).seq = BitVec.ofNat 32 (c.b.num K.fleetSeqNext) := rfl

theorem Chan.newFlight_accepted (c : Chan) (src : Word) (q : Req) : (c.newFlight src q).accepted = c.b.num K.frameNow := rfl

section
variable {x : CS} {q : Req} (hf : x.ch.b.fresh opFleetRequest q = true) (hlen : q.body.length = 32) (hrole : 2 ≤ x.ch.b.effRole q)
include hf hlen hrole

theorem CS.fleetRequest_refused (hroot : x.ch.b.num K.treeRole ≠ 2) :
    .resp q.way (bare (x.ch.b.srcOf q) opFleetRequest stWrong q) ∈ (x.fleetRequest q).ch.b.out := by
  have hst : (chanEnv.hear x q).ch.fleetStatus (parseFleet q.body) = stWrong := if_pos hroot
  rw [CS.fleetRequest, decide_eq_true hlen, judge_of_fresh chanEnv _ hf hrole]
  dsimp only
  rw [hst, if_pos (by decide)]
  exact Blk.resp_mem_answered _ _ _ _

theorem CS.fleetRequest_eq (hst : x.ch.fleetStatus (parseFleet q.body) = stOk) :
    x.fleetRequest q = (x.inFlight q).spread opPrepare (BitVec.ofNat 32 (x.ch.b.num K.fleetSeqNext)) q.items q.body := by
  have hst : (chanEnv.hear x q).ch.fleetStatus (parseFleet q.body) = stOk := hst
  rw [CS.fleetRequest, decide_eq_true hlen, judge_of_fresh chanEnv _ hf hrole]
  dsimp only
  rw [hst, if_neg (by decide)]
  rfl

theorem CS.fleetRequest_accepted (hst : x.ch.fleetStatus (parseFleet q.body) = stOk) (hw : x.ch.b.works = true) :
    (x.fleetRequest q).ch.b.num K.fleetSeqNext = (x.ch.b.num K.fleetSeqNext + 1) % 2 ^ 32 ∧
      (∃ y ∈ (x.fleetRequest q).ch.root, y.seq = BitVec.ofNat 32 (x.ch.b.num K.fleetSeqNext) ∧ y.decided = none ∧
        y.body = parseFleet q.body ∧ y.accepted = x.ch.b.now) ∧
      ∃ r ∈ (x.fleetRequest q).ch.b.fleet, r.seq = BitVec.ofNat 32 (x.ch.b.num K.fleetSeqNext) ∧ r.prepared = true := by
  have hparts := hf
  simp only [Blk.fresh, Bool.and_eq_true] at hparts
  obtain ⟨⟨⟨-, hwhole⟩, -⟩, -⟩ := hparts
  simp only [whole, sumsOk, Bool.and_eq_true, decide_eq_true_eq] at hwhole
  obtain ⟨⟨⟨-, hsize⟩, hcount⟩, hitems⟩ := hwhole
  have hbides := CS.bides_spread (x.inFlight q) opPrepare (BitVec.ofNat 32 (x.ch.b.num K.fleetSeqNext)) q.items q.body
  obtain ⟨hblk, hroot⟩ := hbides
  have hsent := Chan.bides_broadcast (x.inFlight q).ch opPrepare (BitVec.ofNat 32 (x.ch.b.num K.fleetSeqNext)) q.items q.body
  have hsame := Chan.broadcast_root (x.inFlight q).ch opPrepare (BitVec.ofNat 32 (x.ch.b.num K.fleetSeqNext)) q.items q.body
  rw [CS.fleetRequest_eq hf hlen hrole hst]
  have hseq : ((x.asked q).ch.newFlight (x.ch.b.srcOf q) q).seq = BitVec.ofNat 32 (x.ch.b.num K.fleetSeqNext) := by
    rw [Chan.newFlight_seq, CS.asked_num]
  have haccepted : ((x.asked q).ch.newFlight (x.ch.b.srcOf q) q).accepted = x.ch.b.now := by
    rw [Chan.newFlight_accepted, CS.asked_num]
    rfl
  have hseen := CS.spread_prepare_seen (seq := BitVec.ofNat 32 (x.ch.b.num K.fleetSeqNext)) ((CS.inFlight_works x q).trans hw) hlen
    (show 16 + q.body.length + (q.items.map (fun i => 8 + (i.data.length + 7) / 8 * 8)).sum ≤ 8192 from hsize) (by omega)
  refine ⟨?_, ⟨(x.asked q).ch.newFlight (x.ch.b.srcOf q) q, ?_, hseq, rfl, rfl, haccepted⟩, hseen⟩
  · rw [hblk.num _ (by decide)]
    exact (hsent.num _ (by decide)).trans (CS.inFlight_seqNext x q)
  · rw [hroot.trans (hsame.trans (CS.inFlight_root x q))]
    exact List.mem_append_right _ (List.mem_singleton.mpr rfl)

end

/-! ### LAST_DECISION_FRAME (R102) -/

/-- The answer to a fleet request at its decision. -/
def decidedResp (e : Exec) (x : FleetTx) (status : Nat) : Resp := { e.resp with status := BitVec.ofNat 8 status, txn := x.seq }

theorem Blk.answerFleet_answers {b : Blk} {x : FleetTx} {e : Exec} (status : Nat)
    (h : b.execs.find? (fun e => e.src == x.src && e.seq == x.num && e.resp.opcode == BitVec.ofNat 8 opFleetRequest) = some e) :
    .resp e.way (decidedResp e x status) ∈ (b.answerFleet x status).out := by
  rw [Blk.answerFleet, h]
  exact List.mem_append_right _ (List.mem_singleton.mpr rfl)

theorem CS.decideAbort_answers (cs : CS) {x : FleetTx} {e : Exec} (status : Nat)
    (h : cs.ch.b.execs.find? (fun e => e.src == x.src && e.seq == x.num && e.resp.opcode == BitVec.ofNat 8 opFleetRequest) = some e) :
    .resp e.way (decidedResp e x status) ∈ (cs.decideAbort x status).ch.b.out := by
  have hexecs : (cs.spread opAbortToken x.seq [] []).ch.b.execs = cs.ch.b.execs :=
    (CS.bides_spread cs opAbortToken x.seq [] []).1.execs.trans (Chan.bides_broadcast cs.ch opAbortToken x.seq [] []).execs
  exact Blk.answerFleet_answers status (by rw [hexecs]; exact h)

theorem CS.decideAbort_root (cs : CS) (x : FleetTx) (status : Nat) : ∀ y ∈ (cs.decideAbort x status).ch.root, y.seq ≠ x.seq := by
  intro y hy
  have hne := (List.mem_filter.mp hy).2
  simpa using hne

theorem CS.lastDecision_aborts {cs : CS} {x : FleetTx} (hx : cs.ch.root.find? (fun y => y.seq == x.seq) = some x) (hd : x.decided = none)
    (hl : cs.ch.b.lastDecided x.body 0 = true) : cs.lastDecision x.seq = cs.decideAbort x stExpired := by
  rw [CS.lastDecision, hx]
  dsimp only
  rw [hd, hl, if_neg (by decide)]

/-! ### COMMIT_COUNT_CHECK and COMPENSATE_RETRY (R105) -/

theorem Chan.endFlight_counted (c : Chan) (x : FleetTx) : ∀ y ∈ (c.endFlight x).root, y.seq = x.seq → y.counted = true := by
  intro y hy hseq
  unfold Chan.endFlight at hy
  split at hy
  · have hne := (List.mem_filter.mp hy).2
    rw [hseq, bne_self_eq_false] at hne
    cases hne
  · obtain ⟨z, hz, rfl⟩ := List.mem_map.mp hy
    by_cases h : (z.seq == x.seq) = true
    · rw [if_pos h]
    · rw [if_neg h] at hseq
      exact absurd (beq_iff_eq.mpr hseq) h

/-- The apply frame of a compensation that goes out now. -/
def Chan.compFrame (c : Chan) (x : FleetTx) : Nat := max (x.body.apply + 1) (c.b.now + 4)

/-- From `c` to `y` a COMPENSATE of `x` has gone out: to the standby root and to every pod root, counted, and with irq_err raised. -/
structure Chan.Compensates (c : Chan) (x : FleetTx) (y : Chan) : Prop where
  root : ∃ z ∈ y.root, z.seq = x.seq ∧ z.compAt = c.compFrame x ∧ z.sentAt = c.b.now
  counts : Blk.counts c.b y.b K.compensateCount
  err : c.b.isLeaf = false → y.b.err.getLsbD irqTxn = true
  sent : ∀ a ∈ c.fleetDsts, ∃ m, .msg m ∈ y.b.out ∧ m.dst = a ∧ m.opcode = opCompensate ∧ m.txn = x.seq.toNat ∧
    m.body = natLe 8 (c.compFrame x)

/-- The root that has counted a compensation of `x` and noted its frame, before COMPENSATE goes out. -/
def Chan.compNoted (c : Chan) (x : FleetTx) : Chan :=
  let c1 := c.onB (fun b => (b.bump K.compensateCount).raiseErr irqTxn)
  (c1.onRoot x.seq (fun y => { y with compAt := c.compFrame x, sentAt := c1.b.now })).onTree (fun t => { t with
    rootAcks := t.rootAcks.filter (fun r => !(r.seq == x.seq && r.phase == 3)) })

theorem CS.sendComp_eq (cs : CS) (x : FleetTx) :
    cs.sendComp x = (cs.on (fun c => c.compNoted x)).spread opCompensate x.seq [] (natLe 8 (cs.ch.compFrame x)) := rfl

theorem Chan.compNoted_num (c : Chan) (x : FleetTx) {k : Nat} (hk : k ≠ K.compensateCount) : (c.compNoted x).b.num k = c.b.num k :=
  (Blk.raiseErr_num (c.b.bump K.compensateCount) irqTxn k).trans (Blk.num_bump_ne c.b 1 hk)

theorem Chan.compNoted_count (c : Chan) (x : FleetTx) :
    (c.compNoted x).b.num K.compensateCount = (c.b.bump K.compensateCount).num K.compensateCount := Blk.raiseErr_num _ _ _

theorem Chan.compNoted_fleetDsts (c : Chan) (x : FleetTx) : (c.compNoted x).fleetDsts = c.fleetDsts := by
  have hsucc : (c.compNoted x).b.num K.roleSuccessor = c.b.num K.roleSuccessor := c.compNoted_num x (by decide)
  rw [Chan.fleetDsts, Chan.fleetDsts, hsucc]
  rfl

theorem Chan.compNoted_root {c : Chan} {x : FleetTx} (hx : x ∈ c.root) :
    ∃ z ∈ (c.compNoted x).root, z.seq = x.seq ∧ z.compAt = c.compFrame x ∧ z.sentAt = c.b.now := by
  have hnow : (c.onB (fun b => (b.bump K.compensateCount).raiseErr irqTxn)).b.now = c.b.now := c.compNoted_num x (by decide)
  refine ⟨_, List.mem_map.mpr ⟨x, hx, rfl⟩, ?_⟩
  rw [if_pos (beq_self_eq_true x.seq)]
  exact ⟨rfl, rfl, hnow⟩

theorem CS.sendComp_compensates {cs : CS} {x : FleetTx} (hx : x ∈ cs.ch.root) : cs.ch.Compensates x (cs.sendComp x).ch := by
  have hspread := CS.bides_spread (cs.on (fun c => c.compNoted x)) opCompensate x.seq [] (natLe 8 (cs.ch.compFrame x))
  have hcast := Chan.bides_broadcast (cs.ch.compNoted x) opCompensate x.seq [] (natLe 8 (cs.ch.compFrame x))
  have hbides : (cs.ch.compNoted x).b.Bides (cs.sendComp x).ch.b := hcast.trans hspread.1
  have hroot : (cs.sendComp x).ch.root = (cs.ch.compNoted x).root := hspread.2.trans (Chan.broadcast_root _ _ _ _ _)
  refine ⟨?_, ?_, fun hl => ?_, fun a ha => ?_⟩
  · rw [hroot]
    exact Chan.compNoted_root hx
  · exact (hbides.num _ (by decide)).trans ((Chan.compNoted_count cs.ch x).trans (Blk.counts_bump cs.ch.b K.compensateCount 1))
  · rw [hbides.err]
    exact Blk.raiseErr_set (b := cs.ch.b.bump K.compensateCount) hl (by decide)
  · obtain ⟨m, hm, hrest⟩ := Chan.broadcast_reaches (cs.ch.compNoted x) opCompensate x.seq [] (natLe 8 (cs.ch.compFrame x))
      (show a ∈ (cs.ch.compNoted x).fleetDsts by rw [Chan.compNoted_fleetDsts]; exact ha)
    exact ⟨m, hspread.1.out.subset hm, hrest⟩

theorem Chan.noteRefusal_num (c : Chan) (seq : Word) (phase : Nat) {k : Nat} (h1 : k ≠ K.lastFleetRefusalNode)
    (h2 : k ≠ K.lastFleetRefusalStatus) : (c.noteRefusal seq phase).b.num k = c.b.num k := by
  unfold Chan.noteRefusal
  extract_lets r
  split
  · rfl
  · exact (Blk.num_setNum_ne _ _ h2).trans (Blk.num_setNum_ne _ _ h1)

theorem Chan.noteRefusal_rest (c : Chan) (seq : Word) (phase : Nat) : (c.noteRefusal seq phase).root = c.root ∧
    (c.noteRefusal seq phase).tree = c.tree ∧ (c.noteRefusal seq phase).b.isLeaf = c.b.isLeaf := by
  unfold Chan.noteRefusal
  extract_lets r
  split
  · exact ⟨rfl, rfl, rfl⟩
  · exact ⟨rfl, rfl, rfl⟩

/-- Noting a refusal plays no part in the compensation that follows. -/
theorem Chan.Compensates.of_noteRefusal {c y : Chan} {x : FleetTx} {seq : Word} {phase : Nat}
    (h : (c.noteRefusal seq phase).Compensates x y) : c.Compensates x y := by
  have hnow : (c.noteRefusal seq phase).b.now = c.b.now := c.noteRefusal_num seq phase (by decide) (by decide)
  have hcount := c.noteRefusal_num seq phase (k := K.compensateCount) (by decide) (by decide)
  have hsucc := c.noteRefusal_num seq phase (k := K.roleSuccessor) (by decide) (by decide)
  obtain ⟨-, htree, hleaf⟩ := c.noteRefusal_rest seq phase
  have hframe : (c.noteRefusal seq phase).compFrame x = c.compFrame x := by rw [Chan.compFrame, hnow, Chan.compFrame]
  have hdsts : (c.noteRefusal seq phase).fleetDsts = c.fleetDsts := by rw [Chan.fleetDsts, hsucc, htree, Chan.fleetDsts]
  obtain ⟨hroot, hcounts, herr, hsent⟩ := h
  rw [Blk.counts, hcount, hleaf] at hcounts
  rw [hframe, hnow] at hroot
  rw [hdsts, hframe] at hsent
  rw [hleaf] at herr
  exact ⟨hroot, hcounts, herr, hsent⟩

section
variable {cs : CS} {x : FleetTx} (hx : cs.ch.root.find? (fun y => y.seq == x.seq) = some x)
include hx

/-- COMPENSATE goes out after the first refusal of a phase has been noted. -/
theorem CS.noted_compensates (phase : Nat) : cs.ch.Compensates x ((cs.on (fun c => c.noteRefusal x.seq phase)).sendComp x).ch := by
  have hin : x ∈ (cs.ch.noteRefusal x.seq phase).root := by
    rw [(cs.ch.noteRefusal_rest x.seq phase).1]
    exact List.mem_of_find?_eq_some hx
  exact (CS.sendComp_compensates (cs := cs.on (fun c => c.noteRefusal x.seq phase)) hin).of_noteRefusal

theorem CS.commitCount_of_due (hd : x.decided = some true) (hc : x.counted = false) (h0 : x.compAt = 0)
    (hl : x.body.apply + 2 ≤ cs.ch.b.now + cs.ch.b.guardOf x.body) :
    cs.commitCount x.seq = if cs.ch.complete x 2 then cs.on (fun c => c.endFlight x)
      else (cs.on (fun c => c.noteRefusal x.seq 2)).sendComp x := by
  have hdue : ¬ (x.decided ≠ some true ∨ x.counted = true ∨ 0 < x.compAt ∨ cs.ch.b.now + cs.ch.b.guardOf x.body < x.body.apply + 2) := by
    rintro (h | h | h | h)
    · exact h hd
    · rw [hc] at h
      cases h
    · omega
    · omega
  rw [CS.commitCount, hx]
  exact if_neg hdue

theorem CS.compRetry_of_due (hc : x.counted = false) (h0 : 0 < x.compAt) (hr : x.sentAt + cs.ch.b.num K.compensateRetry ≤ cs.ch.b.now)
    (hk : cs.ch.complete x 3 = false) : cs.compRetry x.seq = (cs.on (fun c => c.noteRefusal x.seq 3)).sendComp x := by
  have hopen : ¬ (x.compAt = 0 ∨ x.counted = true) := by
    rintro (h | h)
    · omega
    · rw [hc] at h
      cases h
  rw [CS.compRetry, hx]
  exact (if_neg hopen).trans ((if_neg (by rw [hk]; decide)).trans (if_neg (Nat.not_lt.mpr hr)))

end

/-! ### What stands of it in the state after -/

section
variable {s : State} {c : Ch} (f : CS → CS) (hw : (s.chan c).b.works = true)
include hw

theorem State.csWork_own : ((s.csWork c f).chan c).own = (f (s.cs c)).ch.own := by
  rw [State.csWork, if_pos hw]
  exact State.onCS_own s c f

theorem State.csWork_out : (f (s.cs c)).ch.b.out <+: ((s.csWork c f).chan c).b.out := by
  rw [State.csWork, if_pos hw]
  exact State.onCS_out s c f

theorem State.csWork_root : ((s.csWork c f).chan c).root = (f (s.cs c)).ch.root := by
  have h := congrArg Chan.root (State.csWork_own f hw)
  exact h

theorem State.csWork_compensates {x : FleetTx} (h : (s.chan c).Compensates x (f (s.cs c)).ch) :
    (s.chan c).Compensates x ((s.csWork c f).chan c) := by
  obtain ⟨hroot, hcounts, herr, hsent⟩ := h
  have hown := State.csWork_own f hw
  refine ⟨?_, ?_, fun hl => ?_, fun a ha => ?_⟩
  · rw [State.csWork_root f hw]
    exact hroot
  · exact (Chan.num_of_own hown (by decide)).trans hcounts
  · have herr' := congrArg (fun y : Chan => y.b.err) hown
    exact (congrArg (fun e => e.getLsbD irqTxn) herr').trans (herr hl)
  · obtain ⟨m, hm, hrest⟩ := hsent a ha
    exact ⟨m, (State.csWork_out f hw).subset hm, hrest⟩

end

theorem exec_fleetRequest (c : Ch) (q : Req) (s : State) : exec (.fleetRequest (.chan c) q) s = .next (s.onCS c (fun cs => cs.fleetRequest q)) := rfl

theorem exec_lastDecisionFrame (c : Ch) (seq : Word) (s : State) :
    exec (.lastDecisionFrame c seq) s = .next (s.csWork c (fun cs => cs.lastDecision seq)) := rfl

theorem exec_commitCountCheck (c : Ch) (seq : Word) (s : State) :
    exec (.commitCountCheck c seq) s = .next (s.csWork c (fun cs => cs.commitCount seq)) := rfl

theorem exec_compensateRetry (c : Ch) (seq : Word) (s : State) :
    exec (.compensateRetry c seq) s = .next (s.csWork c (fun cs => cs.compRetry seq)) := rfl

end Sys2Proof.Machine

open Sys2Proof Sys2Proof.Machine

/-- Settles O18: what the root does at each of its instants stands in the state after; acting on its own message leaves its requests, its
flags and its flights alone. -/
theorem fleetRootsAct : Obligations.FleetRootsAct := by
  unfold Obligations.FleetRootsAct
  refine ⟨fun s n q hf hlen hrole => ⟨fun hnot => ?_, fun c hn hst hw => ?_⟩, fun s c x hw hx => ?_⟩
  · have h : .resp q.way (bare ((s.blk n).srcOf q) opFleetRequest stWrong q) ∈
        (s.ends n (fun l => l.refuseFleet q) (fun cs => cs.fleetRequest q)).out := by
      cases n with
      | leaf => exact Leaf.refuseFleet_answers hf hlen hrole
      | chan c => exact CS.fleetRequest_refused (x := s.cs c) hf hlen hrole (hnot.resolve_left (by simp))
    exact ⟨_, rfl, State.onNode_out.subset h⟩
  · subst hn
    obtain ⟨hnext, hflight, r, hr, hseen⟩ := CS.fleetRequest_accepted (x := s.cs c) hf hlen hrole hst hw
    have hown := State.onCS_own s c (fun cs => cs.fleetRequest q)
    have hroot := congrArg Chan.root hown
    have hfleet := congrArg (fun y : Chan => y.b.fleet) hown
    refine ⟨_, exec_fleetRequest c q s, (Chan.num_of_own hown (by decide)).trans hnext, ?_, r, ?_, hseen⟩
    · rw [show ((s.onCS c (fun cs => cs.fleetRequest q)).chan c).root = _ from hroot]
      exact hflight
    · rw [show ((s.onCS c (fun cs => cs.fleetRequest q)).chan c).b.fleet = _ from hfleet]
      exact hr
  · intro b ac sent
    have hsent : ∀ (i : Instr) (f : CS → CS), exec i s = .next (s.csWork c f) → (s.chan c).Compensates x (f (s.cs c)).ch → Runs i s sent := by
      intro i f hexec hcomp
      obtain ⟨hroot, hcounts, herr, hmsgs⟩ := State.csWork_compensates f hw hcomp
      exact ⟨_, hexec, hroot, hcounts, herr, hmsgs⟩
    refine ⟨fun hd hl => ?_, fun hd hc h0 hl => ⟨fun hk => ?_, fun hk => ?_⟩, fun hc h0 hr hk => ?_⟩
    · have heq : (s.cs c).lastDecision x.seq = (s.cs c).decideAbort x stExpired := CS.lastDecision_aborts hx hd hl
      refine ⟨_, exec_lastDecisionFrame c x.seq s, ?_, fun e he => ?_⟩
      · rw [State.csWork_root _ hw, heq]
        exact CS.decideAbort_root _ _ _
      · refine (State.csWork_out _ hw).subset ?_
        rw [heq]
        exact CS.decideAbort_answers (s.cs c) stExpired he
    · have heq := CS.commitCount_of_due (cs := s.cs c) hx hd hc h0 hl
      rw [if_pos (show (s.cs c).ch.complete x 2 = true from hk)] at heq
      refine ⟨_, exec_commitCountCheck c x.seq s, fun y hy => ?_⟩
      rw [State.csWork_root _ hw, heq] at hy
      exact Chan.endFlight_counted _ x y hy
    · have heq := CS.commitCount_of_due (cs := s.cs c) hx hd hc h0 hl
      rw [if_neg (show ¬ (s.cs c).ch.complete x 2 = true by rw [show (s.cs c).ch.complete x 2 = false from hk]; decide)] at heq
      exact hsent _ _ (exec_commitCountCheck c x.seq s) (by rw [heq]; exact CS.noted_compensates (cs := s.cs c) hx 2)
    · have heq := CS.compRetry_of_due (cs := s.cs c) hx hc h0 hr hk
      exact hsent _ _ (exec_compensateRetry c x.seq s) (by rw [heq]; exact CS.noted_compensates (cs := s.cs c) hx 3)

end
